-- ==== Sys2Proof/Word.lean ====
section
/-!
DEFINITION. The word types of the device: bytes, register words, descriptors, bolts, records and flits.
-/
namespace Sys2Proof

/-- One byte of memory (00_scope.md R9). -/
abbrev Byte := BitVec 8
/-- One register word: every register is 32 bits wide (00_scope.md R12). -/
abbrev Word := BitVec 32
/-- A task descriptor or a command record: 64 bytes (03 R74, 16 R537). -/
abbrev Desc := BitVec 512
/-- A flit of a Verar lane: 256 bytes (13 R417). -/
abbrev Flit := BitVec 2048

end Sys2Proof
end

