-- ==== Sys2Proof/Syntax.lean ====
section
/-!
DEFINITION. The commands of the device: one constructor per row of spec/opcode_table.json, in the table's order, with
the operands that stand for what the row's event brings from outside the state (a sample, a packet's bits, a written
value, the outcome of a physical check). Croft operands name PHYSICAL crofts, 38 per hamlet, unless a docstring says
that a slot or a global index is meant.
-/
namespace Sys2Proof

/-- A physical croft: 38·(4·die + hamlet) + physical number (01 R18, 18 R624). -/
abbrev CroftId := Fin 608
/-- A global hamlet, 4·die + hamlet (00_scope.md R7). -/
abbrev HamletId := Fin 16
/-- A partition P0 to P7. -/
abbrev PartId := Fin 8
/-- A PCI Express function: 0 is the PF, n + 1 the VF of Pn (16 R525). -/
abbrev FnId := Fin 9
/-- A command ring of a function (16 R535). -/
abbrev RingId := Fin 14
/-- A Verar port V0 to V15. -/
abbrev PortId := Fin 16
/-- A lane of a port (13 R412). -/
abbrev LaneId := Fin 4
/-- A granary slice, 16·die + slice. -/
abbrev SliceId := Fin 64

/-- What a power-on reads from the dies: the spare rows of each stack, and the delay of every path monitor at point 5 in ps, by 4·croft +
monitor (10 R337; 15 R517). -/
structure DieReads where
  spares : List (BitVec 16)
  delays : List (BitVec 16)
deriving DecidableEq, Repr

/-- A flit as it arrives on a lane, and what the lane's FEC decoder met since the flit before (13 R411, R459): codewords corrected and
codewords not correctable. -/
structure RxFlit where
  flit : Flit
  corrected : BitVec 16
  uncorrectable : BitVec 16
deriving DecidableEq, Repr

/-- Who makes a register access (18 R613): the host through a function, a steward core, or the reeve. -/
inductive Requester where
  | host (fn : FnId)
  | control
  | dispatch
  | reeve
deriving DecidableEq, Repr

/-- A unit the repair page can name (14 R485), and every unit that can fail as a whole. -/
inductive UnitId where
  | croft (c : CroftId)
  | hamlet (h : HamletId)
  | slice (i : SliceId)
  | ddr (c : Fin 12)
  | cxl (x : Fin 4)
  | port (v : PortId)
  | lane (v : PortId) (l : LaneId)
  | edge1
deriving DecidableEq, Repr

/-- A memory controller that serves requests (10 R331): a pseudo-channel of a stack, a DDR5 channel, a CXL port. -/
inductive CtrlId where
  | hbm (h : HamletId) (pc : Fin 64)
  | ddr (c : Fin 12)
  | cxl (x : Fin 4)
deriving DecidableEq, Repr

/-- A DDR5 channel or a CXL port. -/
inductive ChanId where
  | ddr (c : Fin 12)
  | cxl (x : Fin 4)
deriving DecidableEq, Repr

/-- What the error protection of a memory finds on an access (10 R336). -/
inductive Ecc where
  | clean
  | corrected
  | uncorrectable
deriving DecidableEq, Repr

/-- A die-to-die link (01 R26). -/
inductive D2D where
  | ring (d : Fin 4)          -- D(d) to D(d + 1 mod 4)
  | commons (d : Fin 4)       -- compute die to commons
  | edge (e : Fin 2)          -- commons to edge die
deriving DecidableEq, Repr

/-- The loss of lanes of a die-to-die link, and whether lane repair restores it (01 R30). -/
structure LinkLoss where
  link : D2D
  restored : Bool
deriving DecidableEq, Repr

/-- A DDR5 module as its SPD tells it (10 R326, R334): its part, its capacity in MiB, whether it is a registered
multiplexed-rank module, whether it has on-module ECC, its highest rate in MT/s ÷ 100, and tRFC in ns. -/
structure Dimm where
  part : Nat
  mib : Nat
  multiplexed : Bool
  ecc : Bool
  rate : BitVec 8
  trfc : Nat
deriving DecidableEq, Repr

/-- A memory module or expander found at power-on (10 R325, R326): the modules in the two slots of a DDR5 channel, expanders
by port with the capacity in MiB and the rate in GT/s. -/
inductive Module where
  | ddr (c : Fin 12) (slot0 slot1 : Option Dimm)
  | cxl (x : Fin 4) (mib : Nat) (rate : BitVec 8)
deriving DecidableEq, Repr

/-- How a retraining ends (10 R335, R338): it passes, it fails, or the pseudo-channel's banks cannot all be repaired. -/
inductive Retrained where
  | passed | failed | beyondRepair
deriving DecidableEq, Repr

/-- The two task lists of a lookout layer, as (global croft index, descriptor): the narrowed one, and the one released in its place
while the layer is bypassed (05 R179; log entry 60). -/
structure LayerLists where
  layer : Fin 256
  narrow : List (Fin 576 × Desc)
  bypass : List (Fin 576 × Desc)
deriving DecidableEq, Repr

/-- An opportunity of the dispatch core for a partition, with the pairs of task lists that the program gives its lookout layers (15
R509; 05 R179). -/
structure DispatchTurn where
  part : PartId
  lists : List LayerLists
deriving DecidableEq, Repr

/-- Why a croft is fenced: the unit class, or 7 for the larder, of the uncorrectable error that is the reason; none = a request (03
R103). -/
structure FenceOrder where
  croft : CroftId
  err : Option (Fin 8)
deriving DecidableEq, Repr

/-- The cause of a device reset (16 R556). -/
inductive ResetCause where
  | perst | hotReset | linkDown | linkDisable | pfFlr | service
deriving DecidableEq, Repr

/-- A register of PCI configuration space (16 R525, R526): a BAR of the PF or of the VFs, the size of their BAR2, MSI-X control, the
uncorrectable error status of AER, and the DOE mailbox's Discovery object. -/
inductive PciReg where
  | bar (vf : Bool) (k : Fin 3)
  | bar2Size (vf : Bool)
  | msixControl
  | aerStatus
  | doeDiscovery
deriving DecidableEq, Repr

/-- Where a register write goes: an offset of BAR0 or of BAR4, or a register of PCI configuration space (16 R525, R526, R544). -/
inductive WriteTarget where
  | bar0 (off : BitVec 25)
  | bar4 (off : BitVec 16)
  | sriov
  | config (r : PciReg)
deriving DecidableEq, Repr

/-- A block page as software names it: crofts and spares by SLOT of their hamlet (18 R606), the others by number. -/
inductive Page where
  | device | hostIf | steward | well | tally | mill | memMap | repair | reeve | thermal
  | function (f : FnId)
  | croftSlot (h : HamletId) (s : Fin 38)
  | hamlet (h : HamletId)
  | hbm (h : HamletId)
  | slice (i : SliceId)
  | die (d : Fin 4)
  | edge (e : Fin 2)
  | ddr (c : Fin 12)
  | cxl (x : Fin 4)
  | port (v : PortId)
deriving DecidableEq, Repr

/-- An MCTP control message of the bus owner: Set Endpoint ID, Get Endpoint ID, Get MCTP Version Support, Get Message Type Support (17 R575). -/
inductive MctpRequest where
  | setEid (eid : BitVec 8)
  | getEid
  | getVersion
  | getTypes
deriving DecidableEq, Repr

/-- A PLDM request that reads: a sensor or an effecter by ID, the PDR repository as a whole or a record of it by its handle (0 = the first), and
the base commands GetTID, SetTID, GetPLDMTypes, GetPLDMVersion and GetPLDMCommands (17 R575, R576). -/
inductive PldmRequest where
  | sensor (id : BitVec 16)
  | effecter (id : BitVec 16)
  | pdrInfo
  | pdr (handle : BitVec 32)
  | getTid
  | setTid (tid : BitVec 8)
  | getTypes
  | getVersion (type : BitVec 8)
  | getCommands (type : BitVec 8)
deriving DecidableEq, Repr

/-- A turn of the host interface for a function, and whether the host bus fails the read of the records (16 R536, R553). -/
structure FetchTurn where
  fn : FnId
  fails : Bool
deriving DecidableEq, Repr

/-- How a host read fails (16 R554). -/
inductive ReadFail where
  | error        -- Unsupported Request or Completer Abort
  | poison
  | timeout
deriving DecidableEq, Repr

/-- A host access to BAR2 (16 R528). -/
inductive Bar2Op where
  | read (len : Nat)
  | write (data : List Byte)
deriving DecidableEq, Repr

/-- A page slot of a croft: hamlet and slot 0 to 37 (18 R605, R606). -/
structure SlotId where
  h : HamletId
  s : Fin 38
deriving DecidableEq, Repr

/-- A write of a granary slice's MODE or of its OWNER (11 R364). -/
inductive SliceWrite where
  | mode (m : BitVec 2)
  | owner (p : PartId) (assigned : Bool)
deriving DecidableEq, Repr

/-- The commands of spec/opcode_table.json, in its order. -/
inductive Instr where
  /-- POWER_ON (R648): slot and feed straps, the modules found in training, the spare rows left in each stack. -/
  | powerOn (slot : BitVec 5) (feed : BitVec 4) (modules : List Module) (reads : DieReads)
  /-- BUS_SAMPLE (R512): bus voltage in mV and current in mA. -/
  | busSample (mv : BitVec 17) (ma : BitVec 19)
  | undervoltConfirm
  | surgeTimeout
  | episodeEnd
  /-- GRANT_PERIOD (R493): base current in mA, floors of the hamlets and test budgets in grant units. -/
  | grantPeriod (base : BitVec 18) (floors : List (BitVec 10)) (tests : List (HamletId × BitVec 10))
  | grantDelivery (h : HamletId)
  /-- PACING_STEP (R500): measured current of the hamlet group in mA. -/
  | pacingStep (h : HamletId) (ma : BitVec 16)
  /-- THERMAL_SAMPLE (R514): the two sensors of the croft in °C. -/
  | thermalSample (c : CroftId) (t0 t1 : BitVec 8)
  | thermalCapRise (c : CroftId)
  /-- THERMAL_TRIP (R514): a sensor of the device and what it has read for 10 µs. -/
  | thermalTrip (sensor : Fin 2136) (t : BitVec 8)
  /-- THERMAL_MODEL_UPDATE (R515): the croft's two readings. -/
  | thermalModelUpdate (c : CroftId) (t0 t1 : BitVec 8)
  | coolantPoll
  /-- COOLANT_READING (R516): the answer of the bus owner to the last poll. -/
  | coolantReading (value : BitVec 8) (available : Bool)
  | coolantStale
  | humTaper (c : CroftId)
  | pointChange (c : CroftId)
  | pointChangeDone (c : CroftId)
  /-- MARGIN_ALARM (R521): the monitor and its slack in ps. -/
  | marginAlarm (c : CroftId) (monitor : Fin 4) (slack : BitVec 16)
  | replanHoursDue
  | dispatch (d : DispatchTurn)
  | starveTimeout (p : PartId)
  | pointLower (h : HamletId)
  | pointRaise (h : HamletId)
  | descriptorArrival (c : CroftId)
  | gzPlain (c : CroftId)
  | gzWeft (c : CroftId)
  | gzIssueCycle (c : CroftId)
  | gzCollectorFold (c : CroftId)
  | loomTakeBorrowed (c : CroftId)
  | gzRunLentTile (c : CroftId)
  | loomFwd (c : CroftId)
  | loomPair (c : CroftId)
  /-- LOOM_SLOT (R146): l is the loom, A or B. -/
  | loomSlot (c : CroftId) (l : Fin 2)
  | lookout (c : CroftId)
  | lookoutCount (c : CroftId)
  | fnFwd (c : CroftId)
  | fnDeriv (c : CroftId)
  | update (c : CroftId)
  | thresh (c : CroftId)
  | glean (c : CroftId)
  | reweave (c : CroftId)
  | reweaveSwap (c : CroftId)
  | copy (c : CroftId)
  | gather (c : CroftId)
  | tallyAdd (c : CroftId)
  | tallyWait (c : CroftId)
  | tallyExpect (c : CroftId)
  | statsClear (c : CroftId)
  | statsFold (c : CroftId)
  | sendTile (c : CroftId)
  | parityRound (c : CroftId)
  | parityRebuild (c : CroftId)
  /-- TASK_COMPLETE (R87): u is the unit class. -/
  | taskComplete (c : CroftId) (u : Fin 7)
  /-- ABANDON_STOP (R100): u is the unit class. -/
  | abandonStop (c : CroftId) (u : Fin 7)
  | streamGrant (c : CroftId)
  | pieceIssue (c : CroftId)
  /-- PIECE_RETURN (R348): n is the stream: 0 to 5, 6 the courier, 8 and 9 the picker. -/
  | pieceReturn (c : CroftId) (n : Fin 10)
  | courierTransfer (c : CroftId)
  /-- MEMORY_REQUEST (R331): off is the place of an error within the request. -/
  | memoryRequest (c : CtrlId) (ecc : Ecc) (off : Nat)
  | mergeHoldExpire (h : HamletId) (pc : Fin 64)
  | statsFoldApply
  | granaryAccess (i : SliceId) (ecc : Ecc)
  | hbmTempSample (h : HamletId) (temp : BitVec 8)
  | hbmRefresh (h : HamletId) (pc : Fin 64) (bank : Fin 16)
  | ddrThermalSample (c : Fin 12) (temp : BitVec 8)
  | ddrRefresh (c : Fin 12)
  /-- HBM_RETRAIN (R335, R338): stall in ns and how the training ended. -/
  | hbmRetrain (h : HamletId) (pc : Fin 64) (stall : Fin 4001) (ended : Retrained)
  | patrolScrub (c : CtrlId) (ecc : Ecc)
  | channelFail (c : ChanId)
  | expanderRemoved (x : Fin 4)
  | d2dLinkLoss (l : LinkLoss)
  | tallyOpAdd (bank : Fin 16)
  | registerWait (bank : Fin 16)
  | withdrawWait (bank : Fin 16)
  | expect (bank : Fin 16)
  | unmappedTallyOp
  | waitReleaseArrival (c : CroftId)
  | waitStall
  /-- HELLO (R413): rtt is the round trip measured on the lane, in ns. -/
  | hello (v : PortId) (l : LaneId) (f : RxFlit) (rtt : BitVec 16)
  /-- DATA_FLIT (R418): the 256-byte flit as it arrives. -/
  | dataFlit (v : PortId) (l : LaneId) (f : RxFlit)
  | replayReq (v : PortId) (l : LaneId) (f : RxFlit)
  | idleFlit (v : PortId) (l : LaneId) (f : RxFlit)
  | replayTimeout (v : PortId) (l : LaneId)
  | idleSendTimer (v : PortId) (l : LaneId)
  | laneAlignmentLoss (v : PortId) (l : LaneId)
  | malformedPacket
  | contrib
  | contribAck
  | contribAckTimeout (p : PartId)
  | reduced
  | digest
  | vote
  | voteReadySend (p : PartId)
  | verdict
  | query
  | rootVerdictTimeout (p : PartId)
  | verdictWaitTimeout (p : PartId)
  | verdictLost (p : PartId)
  | repeatReissue (p : PartId)
  | holderZeroDone (p : PartId)
  | mwrite
  | foldWrite
  | mwriteAck
  | mread
  | mreadData
  | peerAccessTimeout (p : PartId)
  | cmdFetch (t : FetchTurn)
  /-- RUN_LIST (R538): the crofts the dispatch core places the list on, as indices of the partition. -/
  | runList (fn : FnId) (r : RingId) (crofts : List Nat)
  /-- STEP (R540): the crofts of the step's list. -/
  | step (fn : FnId) (r : RingId) (crofts : List Nat)
  /-- STEP_WAIT_ACCEPT (R540): the crofts of the list that waited. -/
  | stepWaitAccept (p : PartId) (crofts : List Nat)
  | directTask (fn : FnId) (r : RingId)
  | service (fn : FnId) (r : RingId)
  | quiesce (fn : FnId) (r : RingId)
  | quiescePart (r : RingId)
  | quiesceComplete (p : PartId)
  | quiesceWedge (p : PartId)
  | regs (fn : FnId) (r : RingId)
  | invalidate (fn : FnId) (r : RingId)
  | setBbGen (fn : FnId) (r : RingId)
  | nop (fn : FnId) (r : RingId)
  | assemble (r : RingId)
  | disassemble (r : RingId)
  | setInflight (r : RingId)
  | commandComplete (fn : FnId)
  | msixDelayExpire (fn : FnId) (vec : Fin 16)
  | crTailWrite (fn : FnId) (r : RingId) (v : BitVec 32)
  | evHeadWrite (fn : FnId) (v : BitVec 32)
  /-- BAR2_ACCESS (R528): x is the BAR2 offset. -/
  | bar2Access (fn : FnId) (x : BitVec 36) (op : Bar2Op)
  /-- HOST_READ_TIMEOUT (R554): n counts the reads in flight, oldest first. -/
  | hostReadTimeout (n : Nat) (why : ReadFail)
  | deviceReset (c : ResetCause)
  | resetReady
  | functionReset (p : PartId)
  | getVersion (fn : FnId)
  | getCapabilities (fn : FnId)
  /-- NEGOTIATE_ALGORITHMS (R562): whether the requester offers the device's algorithms. -/
  | negotiateAlgorithms (fn : FnId) (offered : Bool)
  | getDigests (fn : FnId)
  | getCertificate (fn : FnId) (slot : BitVec 4) (off len : BitVec 16)
  | challenge (fn : FnId) (slot : BitVec 4) (nonce : BitVec 256)
  | getMeasurements (fn : FnId) (index : BitVec 8)
  | keyExchange (fn : FnId) (peer : List Byte)
  | finish (fn : FnId) (mac : List Byte)
  | heartbeat (fn : FnId)
  | heartbeatLost (fn : FnId)
  | keyUpdate (fn : FnId)
  | endSession (fn : FnId)
  /-- KEY_COMMIT (R563): the vendor and code of the request. -/
  | keyCommit (fn : FnId) (vendor : Bool) (code : BitVec 8)
  | chunkSend (fn : FnId) (part : List Byte) (last : Bool)
  | chunkGet (fn : FnId)
  /-- I3C_ADDRESS_ASSIGN (R575): none is SETDASA, an address is ENTDAA. -/
  | i3cAddressAssign (dynamic : Option (BitVec 7))
  | getSensorReading (r : PldmRequest)
  | capEffecterWrite (v : BitVec 16)
  | resetEffecterWrite (v : BitVec 16)
  | replanEffecterWrite (v : BitVec 16)
  | coolantSensorWrite (v : BitVec 16)
  | readLedger (seq : BitVec 64) (count : Fin 17)
  | requestUpdate
  | updateComponent (code : BitVec 16)
  /-- COMPONENT_TRANSFER_DONE (R596): what now lies in the slot. -/
  | componentTransferDone (header : Flit) (body : List Byte) (slotB : Bool)
  | activateFirmware
  | lockstepMismatch
  | reeveRestartDone
  | journalCommit
  | suppressionSecondEnd
  | lockTimeout (p : Page)
  | croftFence (o : FenceOrder)
  /-- SPARE_RAMP_DONE (R105): the restore list. -/
  | spareRampDone (c : CroftId) (restore : List Desc)
  /-- SELF_TEST_DONE (R487): the unit and the outcome of the test. -/
  | selfTestDone (u : UnitId) (pass : Bool)
  | repFence (who : Requester) (kind : BitVec 4) (index : BitVec 10)
  | repSelfTest (who : Requester) (kind : BitVec 4) (index : BitVec 10)
  | repReturn (who : Requester) (kind : BitVec 4) (index : BitVec 10)
  | stopWrite (who : Requester) (x : SlotId) (stop : Bool)
  | seqServiceWrite (who : Requester) (x : SlotId) (opened : Bool)
  | abandon (who : Requester) (x : SlotId)
  | clearHalt (who : Requester) (x : SlotId)
  | purge (who : Requester) (x : SlotId)
  | purgeStep (who : Requester) (x : SlotId) (tag : BitVec 16)
  | committedStepWrite (who : Requester) (x : SlotId) (v : BitVec 16)
  | seqClearCounts (who : Requester) (x : SlotId)
  | gzAccClear (who : Requester) (x : SlotId)
  | gzClearCounts (who : Requester) (x : SlotId)
  | gzClearFault (who : Requester) (x : SlotId)
  | lmAccClear (who : Requester) (x : SlotId)
  | lmClearCounts (who : Requester) (x : SlotId)
  | lkClearCounts (who : Requester) (x : SlotId)
  | numClearCounts (who : Requester) (x : SlotId)
  | fnUnitClearCounts (who : Requester) (x : SlotId)
  | fnUnitClearFault (who : Requester) (x : SlotId)
  | mvClearCounts (who : Requester) (x : SlotId)
  | mvClearFault (who : Requester) (x : SlotId)
  | probe (who : Requester) (x : SlotId)
  | spClearCounts (who : Requester) (x : SlotId)
  | upClearCounts (who : Requester) (x : SlotId)
  | upClearFault (who : Requester) (x : SlotId)
  | shClearCounts (who : Requester) (x : SlotId)
  | clearRates (who : Requester) (x : SlotId)
  | pointReqWrite (who : Requester) (x : SlotId) (v : BitVec 3)
  | croftPowerClearCounts (who : Requester) (x : SlotId)
  | hbmClearCounts (who : Requester) (h : HamletId)
  | channelClearCounts (who : Requester) (c : ChanId)
  | mapApply (who : Requester)
  | keyGenerate (p : PartId)
  | keyDestroy (p : PartId)
  | granaryModeWrite (who : Requester) (i : SliceId) (w : SliceWrite)
  | granaryFlush (who : Requester) (i : SliceId)
  | granaryInvalidate (who : Requester) (i : SliceId)
  | granaryFlushDone (i : SliceId)
  | granaryClearCounts (who : Requester) (i : SliceId)
  | tallyMapWrite (who : Requester) (phys : BitVec 14) (valid : Bool)
  | tallyReset (who : Requester) (phys : BitVec 14)
  | tallyClearCounts (who : Requester)
  | tallyClearFault (who : Requester)
  | millClearCounts (who : Requester)
  | portClearCounts (who : Requester) (v : PortId)
  | jobEnable (who : Requester) (p : PartId) (on : Bool)
  | localReady (p : PartId)
  | localRepeat (p : PartId)
  | reload (p : PartId)
  | parityLoad (p : PartId)
  | rebuildClear (who : Requester) (p : PartId)
  | failAdd (who : Requester) (p : PartId)
  | parityClearCounts (who : Requester) (p : PartId)
  | wellClearCounts (who : Requester)
  | replanReq (who : Requester)
  | deviceClearCounts (who : Requester)
  | hostIfClearCounts (who : Requester)
  | dieClearCounts (who : Requester) (d : Fin 6)
  | evEnableWrite (who : Requester) (fn : FnId) (on : Bool)
  | ringEnableWrite (who : Requester) (fn : FnId) (r : RingId) (on : Bool)
  | lastCommittedWrite (who : Requester) (fn : FnId) (v : BitVec 64)
  | clearErr (who : Requester) (fn : FnId)
  | fnPageClearCounts (who : Requester) (fn : FnId)
  | lgSelectWrite (who : Requester) (seq : BitVec 64)
  | rvReqGenerate (who : Requester) (p : PartId)
  | rvReqDestroy (who : Requester) (p : PartId)
  | croftMapWrite (who : Requester) (x : SlotId) (phys : BitVec 6)
  | ownerWrite (who : Requester) (page : Page) (p : PartId) (assigned : Bool)
  | lockTake (who : Requester) (page : Page)
  | lockRelease (who : Requester) (page : Page)
  | blockClearFault (who : Requester) (page : Page)
  | seenClear (who : Requester) (page : Page) (bitmap : BitVec 5)
  | registerWrite (who : Requester) (target : WriteTarget) (data : List Byte)
  | fecAlignmentGained (v : PortId) (l : LaneId)
  /-- PERST_DEASSERT (R649): the trained speed code, width and Flit Mode. -/
  | perstDeassert (speed : BitVec 4) (width : BitVec 5) (flit : Bool)
  /-- REPLAN_DONE (R517, R518): every monitor's delay at point 5 now, in ps, by 4·croft + monitor. -/
  | replanDone (delays : List (BitVec 16))
  | granarySliceFail (i : SliceId)
  | rebuildClearDone (p : PartId)
  | setEndpointId (m : MctpRequest)
deriving DecidableEq, Repr

end Sys2Proof
end

