-- ==== Sys2Proof/Machine/Map.lean ====
section
/-!
DEFINITION. Sparse maps as plain data: a list of key and value pairs in one canonical form, keys strictly rising and
no entry equal to what an unlisted key reads as.
-/
namespace Sys2Proof.Machine

/-- A sparse map: what it lists; an unlisted key reads as a default the reader supplies. -/
abbrev SMap (α : Type) := List (Nat × α)

/-- The listed value of a key. -/
def mapLook {α : Type} : SMap α → Nat → Option α
  | [], _ => none
  | (k', v) :: r, k => if k' = k then some v else mapLook r k

/-- The value of a key: the listed one, else the default's. -/
def mapGet {α : Type} (d : Nat → α) (m : SMap α) (k : Nat) : α := (mapLook m k).getD (d k)

/-- Every entry but those of a key. -/
def mapDel {α : Type} (k : Nat) (m : SMap α) : SMap α := m.filter fun e => decide (e.1 ≠ k)

/-- Inserts an entry before the first greater key. -/
def mapIns {α : Type} (k : Nat) (v : α) : SMap α → SMap α
  | [] => [(k, v)]
  | e :: r => if k < e.1 then (k, v) :: e :: r else e :: mapIns k v r

/-- Writes a key, keeping the canonical form: writing what the key reads as unlisted removes the entry. -/
def mapPut {α : Type} [DecidableEq α] (d : Nat → α) (k : Nat) (v : α) (m : SMap α) : SMap α :=
  if v = d k then mapDel k m else mapIns k v (mapDel k m)

/-- Keys strictly rise from a lower bound. -/
def keysFrom {α : Type} : Nat → SMap α → Bool
  | _, [] => true
  | b, (k, _) :: r => decide (b ≤ k) && keysFrom (k + 1) r

/-- The canonical form of a sparse map under a default. -/
def mapWf {α : Type} [DecidableEq α] (d : Nat → α) (m : SMap α) : Bool :=
  keysFrom 0 m && m.all fun e => decide (e.2 ≠ d e.1)

end Sys2Proof.Machine
end

