-- ==== Sys2Proof/Machine/Numerics.lean ====
section
/-!
DEFINITION. Element values and rounding (02 R37 to R46; 06 R186 to R200; 09 R300, R301): exact values, decoding and
encoding of every element format, FP32 arithmetic with one rounding, the compensated fold, and block scales.
-/
namespace Sys2Proof.Machine

/-- The value of an element: NaN, an infinity, or (-1)^neg · m · 2^e exactly (02 R38, R39). -/
inductive Val where
  | nan
  | inf (neg : Bool)
  | fin (neg : Bool) (m : Nat) (e : Int)
deriving DecidableEq, Repr

/-- A floating-point layout: exponent bits, mantissa bits, bias, and what its top exponent holds: 0 = IEEE 754,
1 = only the all-ones code is NaN, 2 = ordinary values (02 R37). -/
structure Layout where
  ebits : Nat
  mbits : Nat
  bias : Int
  top : Nat
deriving DecidableEq, Repr

def fp32 : Layout := ⟨8, 23, 127, 0⟩
def bf16 : Layout := ⟨8, 7, 127, 0⟩
def fp16 : Layout := ⟨5, 10, 15, 0⟩
def e4m3 : Layout := ⟨4, 3, 7, 1⟩
def e5m2 : Layout := ⟨5, 2, 15, 0⟩
def e2m1 : Layout := ⟨2, 1, 1, 2⟩

/-- The floating-point layout of a format code; none for integers and indices. -/
def layoutOf (fmt : Nat) : Option Layout :=
  match fmt with
  | 0 => some fp32
  | 1 => some bf16
  | 2 => some fp16
  | 3 | 5 => some e4m3
  | 4 | 6 => some e5m2
  | 7 => some e2m1
  | _ => none

/-- Element width in bits (02 R37). -/
def fmtBits (fmt : Nat) : Nat :=
  match fmt with
  | 0 => 32
  | 1 | 2 | 11 => 16
  | 7 => 4
  | 9 => 1
  | _ => 8

/-- The 8-bit rate class (02 R47, R48). -/
def class8 (fmt : Nat) : Bool := decide (3 ≤ fmt ∧ fmt ≤ 8)

/-- Block-scaled whatever the bolt's flags (02 R40). -/
def alwaysScaled (fmt : Nat) : Bool := decide (5 ≤ fmt ∧ fmt ≤ 7)

/-! ### Decoding -/

/-- A floating-point element (02 R38). -/
def decodeF (f : Layout) (b : Nat) : Val :=
  let neg := bit (f.ebits + f.mbits) b
  let ex := bits f.mbits f.ebits b
  let m := bits 0 f.mbits b
  if f.top = 0 ∧ ex = 2 ^ f.ebits - 1 then (if m = 0 then .inf neg else .nan)
  else if f.top = 1 ∧ ex = 2 ^ f.ebits - 1 ∧ m = 2 ^ f.mbits - 1 then .nan
  else if ex = 0 then .fin neg m (1 - f.bias - f.mbits)
  else .fin neg (m + 2 ^ f.mbits) (ex - f.bias - f.mbits)

/-- An element of any format, unscaled (02 R38, R44, R46). -/
def decode (fmt b : Nat) : Val :=
  match layoutOf fmt with
  | some f => decodeF f b
  | none => if fmt = 8 then .fin (decide (128 ≤ b)) (signed8 b).natAbs 0 else .fin false b 0

/-- Multiplies by a power of two exactly. -/
def Val.scale (v : Val) (k : Int) : Val :=
  match v with
  | .fin s m e => .fin s m (e + k)
  | v => v

/-- An element under its E8M0 scale byte (02 R41, R42). -/
def decodeScaled (fmt sc b : Nat) : Val := if sc = 255 then .nan else (decode fmt b).scale (sc - 127)

def Val.isNan : Val → Bool | .nan => true | _ => false
def Val.isFin : Val → Bool | .fin _ _ _ => true | _ => false
def Val.isZero : Val → Bool | .fin _ 0 _ => true | _ => false
def Val.neg? : Val → Bool | .fin s _ _ => s | .inf s => s | .nan => false

/-- The value of an FP32 bit pattern. -/
def ofPat (p : Nat) : Val := decodeF fp32 p

/-! ### Exact arithmetic -/

/-- n · 2^e exactly. -/
structure Dyadic where
  n : Int
  e : Int
deriving DecidableEq, Repr

def Dyadic.zero : Dyadic := ⟨0, 0⟩
def Dyadic.add (a b : Dyadic) : Dyadic :=
  if a.e ≤ b.e then ⟨a.n + b.n * 2 ^ (b.e - a.e).toNat, a.e⟩ else ⟨a.n * 2 ^ (a.e - b.e).toNat + b.n, b.e⟩
def Dyadic.neg (a : Dyadic) : Dyadic := ⟨-a.n, a.e⟩
def Dyadic.lt (a b : Dyadic) : Bool := decide ((a.add b.neg).n < 0)

def Val.dy : Val → Dyadic
  | .fin s m e => ⟨if s then -(m : Int) else m, e⟩
  | _ => Dyadic.zero

/-- |a| < |b| for finite values. -/
def magLt (a b : Val) : Bool := Dyadic.lt ⟨a.dy.n.natAbs, a.dy.e⟩ ⟨b.dy.n.natAbs, b.dy.e⟩

/-- The exact product (06 R187). -/
def mulVal (a b : Val) : Val :=
  match a, b with
  | .nan, _ => .nan
  | _, .nan => .nan
  | .inf s, .inf t => .inf (s != t)
  | .inf s, .fin t m _ => if m = 0 then .nan else .inf (s != t)
  | .fin s m _, .inf t => if m = 0 then .nan else .inf (s != t)
  | .fin s m e, .fin t n f => .fin (s != t) (m * n) (e + f)

/-- The exact sum; an exact zero is +0 but for -0 + -0 (IEEE 754, round to nearest). -/
def addVal (a b : Val) : Val :=
  match a, b with
  | .nan, _ => .nan
  | _, .nan => .nan
  | .inf s, .inf t => if s = t then .inf s else .nan
  | .inf s, _ => .inf s
  | _, .inf t => .inf t
  | .fin s m e, .fin t n f =>
    let d := (Val.fin s m e).dy.add (Val.fin t n f).dy
    if d.n = 0 then .fin (s && t && m == 0 && n == 0) 0 0 else .fin (decide (d.n < 0)) d.n.natAbs d.e

def negVal : Val → Val
  | .nan => .nan
  | .inf s => .inf (!s)
  | .fin s m e => .fin (!s) m e

/-! ### Grids and rounding (06 R196, R197) -/

/-- How a narrowing conversion rounds: to nearest even, or stochastically with a 16-bit draw (06 R195). -/
inductive Rnd where
  | near
  | draw (r : Nat)
deriving DecidableEq, Repr

/-- Exponent of the spacing of a layout's grid at magnitude m·2^e, its range disregarded. -/
def quantum (f : Layout) (m : Nat) (e : Int) : Int := max (1 - f.bias - f.mbits) (Nat.log2 m + e - f.mbits)

/-- A magnitude on the grid of spacing 2^q: m·2^e = (a + r/d)·2^q with r < d. -/
structure Split where
  a : Nat
  r : Nat
  d : Nat
deriving DecidableEq, Repr

def splitAt (q : Int) (m : Nat) (e : Int) : Split :=
  if q ≤ e then ⟨m * 2 ^ (e - q).toNat, 0, 1⟩
  else ⟨m / 2 ^ (q - e).toNat, m % 2 ^ (q - e).toNat, 2 ^ (q - e).toNat⟩

/-- The rounded multiple of the spacing. -/
def Split.round (t : Split) : Rnd → Nat
  | .near => if t.d < 2 * t.r ∨ (2 * t.r = t.d ∧ t.a % 2 = 1) then t.a + 1 else t.a
  | .draw r => if 65536 ≤ t.r * 65536 / t.d + r then t.a + 1 else t.a

/-- The code of magnitude a·2^q, which lies on the layout's grid and in its range; the sign bit is 0. -/
def encodeMag (f : Layout) (a : Nat) (q : Int) : Nat :=
  if a = 0 then 0
  else
    let ex : Int := Nat.log2 a + q
    if ex < 1 - f.bias then a * 2 ^ (q - (1 - f.bias - f.mbits)).toNat
    else
      let m := if Nat.log2 a ≤ f.mbits then a * 2 ^ (f.mbits - Nat.log2 a) else a / 2 ^ (Nat.log2 a - f.mbits)
      (ex + f.bias).toNat * 2 ^ f.mbits + (m - 2 ^ f.mbits)

/-! ### FP32 -/

def nan32 : Nat := 0x7FC00000
def inf32 (neg : Bool) : Nat := if neg then 0xFF800000 else 0x7F800000
/-- The overflow mark (06 R193). -/
def markPat : Nat := 0x7F800001

/-- Rounds a finite value once to FP32, nearest even, subnormals kept (06 R186): its pattern. A zero keeps the sign. -/
def round32 (neg : Bool) (m : Nat) (e : Int) : Nat :=
  let s := if neg then 2 ^ 31 else 0
  if m = 0 then s
  else
    let q := quantum fp32 m e
    let a := (splitAt q m e).round .near
    if 128 ≤ (Nat.log2 a : Int) + q then inf32 neg else s + encodeMag fp32 a q

/-- The FP32 pattern of a value, rounded once (IEEE 754 special values). -/
def pat32 : Val → Nat
  | .nan => nan32
  | .inf s => inf32 s
  | .fin s m e => round32 s m e

/-- A value rounded once to FP32. -/
def rnd32 (v : Val) : Val := ofPat (pat32 v)

/-- rne32 of the accumulation path: every zero result is +0 (06 R188). -/
def rne32 (d : Dyadic) : Nat :=
  let p := round32 (decide (d.n < 0)) d.n.natAbs d.e
  if p = 2 ^ 31 then 0 else p

def isNan32 (p : Nat) : Bool := (ofPat p).isNan
def isFin32 (p : Nat) : Bool := (ofPat p).isFin
def isInf32 (p : Nat) : Bool := bits 0 31 p == 0x7F800000

/-- Floating-point operations of the update unit (09 R301): one rounding each. -/
def fMul (a b : Val) : Val := rnd32 (mulVal a b)
def fAdd (a b : Val) : Val := rnd32 (addVal a b)
def fma (a b c : Val) : Val := rnd32 (addVal (mulVal a b) c)

/-- The quotient rounded once: a quotient of at least 27 bits with a sticky bit rounds as the exact one. -/
def fDiv (a b : Val) : Val :=
  match a, b with
  | .nan, _ => .nan
  | _, .nan => .nan
  | .inf _, .inf _ => .nan
  | .inf s, .fin t _ _ => .inf (s != t)
  | .fin s _ _, .inf t => .fin (s != t) 0 0
  | .fin s m e, .fin t n f =>
    if n = 0 then (if m = 0 then .nan else .inf (s != t))
    else
      let k := 64 + Nat.log2 n
      let x := m * 2 ^ k
      rnd32 (.fin (s != t) (2 * (x / n) + (if x % n = 0 then 0 else 1)) (e - f - k - 1))

/-- Integer square root, one result bit at a time from bit `k - 1` down. -/
def isqrtFrom : Nat → Nat → Nat → Nat
  | 0, _, r => r
  | k + 1, n, r => if (r + 2 ^ k) * (r + 2 ^ k) ≤ n then isqrtFrom k n (r + 2 ^ k) else isqrtFrom k n r
def isqrt (n : Nat) : Nat := isqrtFrom (Nat.log2 n / 2 + 1) n 0

/-- The square root, correctly rounded. -/
def fSqrt (a : Val) : Val :=
  match a with
  | .nan => .nan
  | .inf s => if s then .nan else .inf false
  | .fin s m e =>
    if m = 0 then .fin s 0 0
    else if s then .nan
    else
      let (m, e) := if e % 2 = 0 then (m, e) else (2 * m, e - 1)
      let x := m * 2 ^ 64
      let r := isqrt x
      rnd32 (.fin false (2 * r + (if r * r = x then 0 else 1)) ((e - 64) / 2 - 1))

/-- Bits of a number from the most significant 1 down. -/
def bitsDown (t : Nat) : List Bool := (List.range (Nat.log2 t + 1)).reverse.map fun i => t.testBit i

/-- Bias correction (09 R300). -/
def biasCorr (beta : Val) (t : Nat) : Val :=
  let one := Val.fin false 1 0
  let p := (bitsDown t).foldl (fun p b =>
    let p := fMul p p
    if b then fMul p beta else p) one
  fDiv one (fAdd one (negVal p))

/-! ### Sums and folds (06 R186 to R194) -/

/-- The exact sum of products with the special-value rules of 06 R187. -/
structure PSum where
  nan : Bool
  pinf : Bool
  ninf : Bool
  sum : Dyadic
deriving DecidableEq, Repr

def PSum.zero : PSum := ⟨false, false, false, Dyadic.zero⟩
def PSum.take (a : PSum) (p : Val) : PSum :=
  match p with
  | .nan => { a with nan := true }
  | .inf true => { a with ninf := true }
  | .inf false => { a with pinf := true }
  | p => { a with sum := a.sum.add p.dy }

/-- A group sum and whether it overflowed (06 R187). -/
structure GSum where
  pat : Nat
  ovf : Bool
deriving DecidableEq, Repr

/-- Rounds an exact sum once. -/
def PSum.out (a : PSum) : GSum :=
  if a.nan || (a.pinf && a.ninf) then ⟨nan32, false⟩
  else if a.pinf then ⟨inf32 false, false⟩
  else if a.ninf then ⟨inf32 true, false⟩
  else ⟨rne32 a.sum, !isFin32 (rne32 a.sum)⟩

/-- An accumulator cell: FP32 sum and compensation (06 R188). -/
structure Cell where
  s : Nat
  c : Nat
deriving DecidableEq, Repr

def Cell.zero : Cell := ⟨0, 0⟩

/-- The compensated fold (06 R188). -/
def foldCell (x : Cell) (g : GSum) : Cell :=
  let neg (p : Nat) : Bool := bit 31 p
  let r : Cell × Bool :=
    if isNan32 x.s || isNan32 g.pat then (⟨nan32, x.c⟩, g.ovf)
    else if isInf32 x.s && isInf32 g.pat && neg x.s != neg g.pat then (⟨nan32, x.c⟩, g.ovf)
    else if isInf32 x.s then (x, g.ovf)
    else if isInf32 g.pat then (⟨g.pat, x.c⟩, g.ovf)
    else
      let sum := (ofPat x.s).dy.add (ofPat g.pat).dy
      let t := rne32 sum
      if isInf32 t then (⟨t, x.c⟩, true)
      else
        let err := sum.add (ofPat t).dy.neg
        (⟨t, rne32 ((ofPat x.c).dy.add err)⟩, g.ovf)
  if isFin32 r.1.s then r.1
  else ⟨r.1.s, if r.2 || r.1.c == markPat then markPat else 0⟩

/-- The readout value (06 R188, R189). -/
def readout (x : Cell) : Nat :=
  if isFin32 x.s then rne32 ((ofPat x.s).dy.add (ofPat x.c).dy) else x.s

/-- The cell makes its accumulator overflow: it holds the mark, or overflows at readout (06 R193, R194). -/
def cellOverflow (x : Cell) : Bool := x.c == markPat || (isFin32 x.s && !isFin32 (readout x))

/-- The spread of an overflowed accumulator (06 R194). -/
def spreadPat (v : Nat) : Nat := if isFin32 v then inf32 (bit 31 v && v != 2 ^ 31) else v

/-- The FP32 position of a finite value, both zeros at one position (06 R211). -/
def posOf (p : Nat) : Int := if bit 31 p then -((bits 0 31 p : Nat) : Int) else (bits 0 31 p : Nat)

/-- The shadow histogram bin of a value against its reference (06 R211). -/
def shadowBin (v ref : Nat) : Nat :=
  if isNan32 v && isNan32 ref then 0
  else if isFin32 v && isFin32 ref then
    let d := (posOf v - posOf ref).natAbs
    if d = 0 then 0 else if d = 1 then 1 else if d ≤ 3 then 2 else if d ≤ 15 then 3 else if d ≤ 255 then 4 else 5
  else if v = ref then 0
  else if isFin32 v || isFin32 ref then 7 else 6

/-! ### Conversions (06 R195 to R200) -/

/-- What a conversion writes and counts. -/
structure Conv where
  code : Nat
  sat : Bool
  nonfin : Bool
deriving DecidableEq, Repr

/-- The largest finite magnitude of a layout. -/
def maxMag (f : Layout) : Val :=
  if f.top = 0 then .fin false (2 ^ (f.mbits + 1) - 1) (2 ^ f.ebits - 2 - f.bias - f.mbits)
  else if f.top = 1 then .fin false (2 ^ (f.mbits + 1) - 2) (2 ^ f.ebits - 1 - f.bias - f.mbits)
  else .fin false (2 ^ (f.mbits + 1) - 1) (2 ^ f.ebits - 1 - f.bias - f.mbits)

/-- The code of the largest finite magnitude. -/
def maxCode (f : Layout) : Nat :=
  if f.top = 0 then (2 ^ f.ebits - 2) * 2 ^ f.mbits + (2 ^ f.mbits - 1)
  else if f.top = 1 then 2 ^ (f.ebits + f.mbits) - 2
  else 2 ^ (f.ebits + f.mbits) - 1

/-- The canonical NaN of a layout (02 R39); MXFP4 has none and takes its largest positive value (06 R199). -/
def nanCode (f : Layout) : Nat :=
  if f.top = 0 then (2 ^ f.ebits - 1) * 2 ^ f.mbits + 2 ^ (f.mbits - 1)
  else 2 ^ (f.ebits + f.mbits) - 1

/-- A conversion to a floating-point format (06 R196 to R199). -/
def convertF (f : Layout) (v : Val) (r : Rnd) : Conv :=
  let sgn (neg : Bool) : Nat := if neg then 2 ^ (f.ebits + f.mbits) else 0
  match v with
  | .nan => ⟨nanCode f, false, true⟩
  | .inf s => ⟨if f = fp32 then inf32 s else sgn s + maxCode f, false, true⟩
  | .fin s m e =>
    if m = 0 then ⟨0, false, false⟩
    else if magLt (maxMag f) (.fin false m e) then ⟨sgn s + maxCode f, true, false⟩
    else
      let q := quantum f m e
      let a := (splitAt q m e).round r
      ⟨if a = 0 then 0 else sgn s + encodeMag f a q, false, false⟩

/-- A conversion to INT8. -/
def convertI (v : Val) (r : Rnd) : Conv :=
  match v with
  | .nan => ⟨127, false, true⟩
  | .inf s => ⟨if s then 128 else 127, false, true⟩
  | .fin s m e =>
    if magLt (.fin false (if s then 128 else 127) 0) (.fin false m e) then ⟨if s then 128 else 127, true, false⟩
    else
      let a := (splitAt 0 m e).round r
      ⟨if s ∧ a ≠ 0 then 256 - a else a, false, false⟩

/-- A conversion to an element format, block scale already divided out. -/
def convert (fmt : Nat) (v : Val) (r : Rnd) : Conv :=
  match layoutOf fmt with
  | some f => convertF f v r
  | none => convertI v r

/-- E of a block-scaled element format (06 R200). -/
def scaleBias (fmt : Nat) : Int := if fmt = 5 then 8 else if fmt = 6 then 15 else if fmt = 7 then 2 else 6

/-- The largest element of a block-scaled format. -/
def maxElem (fmt : Nat) : Val :=
  match layoutOf fmt with
  | some f => maxMag f
  | none => .fin false 127 0

/-- The largest magnitude among the finite values of a block; none when every one is zero or none is finite. -/
def blockMax (l : List Val) : Option Val :=
  l.foldl (fun o v =>
    if v.isFin && !v.isZero then
      match o with
      | none => some v
      | some w => if magLt w v then some v else o
    else o) none

/-- The scale byte of a block (06 R200). -/
def blockScale (fmt : Nat) (l : List Val) : Nat :=
  match blockMax l with
  | some (.fin _ m e) =>
    let x : Int := Nat.log2 m + e - scaleBias fmt
    let x := if magLt (maxElem fmt) (.fin false m (e - x)) then x + 1 else x
    (max (-127) (min 127 x) + 127).toNat
  | _ => 0x7F

/-- The FP32 magnitude a written value enters MAX_MAG with (06 R203). -/
def magPat (v : Val) : Nat :=
  match v with
  | .fin _ m e => let p := round32 false m e; if isFin32 p then p else 0x7F7FFFFF
  | _ => 0

end Sys2Proof.Machine
end

