-- ==== Sys2Proof/Machine/Regs.lean ====
section
/-!
DEFINITION. The register fields of every block page: one constant per field of the spec's register tables (byte
offset within the page of its first copy, lowest bit, width, access type, reset value, copies, stride),
and for each page kind the list of its fields. Reset values the spec leaves to ledger, factory, strap, ROM or page
are 0 here and are given in Machine/Ops.lean (log entry 6).
-/
namespace Sys2Proof.Machine

/-- Access types of a register field (00_scope.md R12). -/
inductive Access where
 | ro | rw | w1c | w1s | wo | sp
deriving DecidableEq, Repr

/-- The kinds of register page (18 R604, R605, R608). -/
inductive PageKind where
  | common | croft | hbm | channel | memMap | slice | tally | port | mill | repair | well | steward | thermal
  | function | reeve | device | hostIf | hamlet | die
deriving DecidableEq, Repr

/-- One field of a register (00_scope.md R12). -/
structure Field where
  off : Nat
  lo : Nat
  width : Nat
  acc : Access
  reset : Nat
  n : Nat
  stride : Nat
deriving DecidableEq, Repr

/-- Copy `i` of a repeated field. -/
def Field.at (f : Field) (i : Nat) : Field := { f with off := f.off + i * f.stride, n := 1 }

/-- The field stands in the register at this page offset (in one of its copies). -/
def Field.within (f : Field) (off : Nat) : Bool :=
  decide (f.off ≤ off ∧ (off - f.off) % f.stride = 0 ∧ (off - f.off) / f.stride < f.n)

namespace F

/-! 03_crofts_and_tasks.md R101: page croft -/
def SEQ_CTRL_STOP : Field := ⟨0x040, 0, 1, .rw, 1, 1, 4⟩
def SEQ_CTRL_SERVICE : Field := ⟨0x040, 1, 1, .rw, 1, 1, 4⟩
def SEQ_CTRL_ABANDON : Field := ⟨0x040, 2, 1, .wo, 0, 1, 4⟩
def SEQ_CTRL_CLEAR_HALT : Field := ⟨0x040, 3, 1, .wo, 0, 1, 4⟩
def SEQ_CTRL_CLEAR_COUNTS : Field := ⟨0x040, 4, 1, .wo, 0, 1, 4⟩
def SEQ_CTRL_PURGE : Field := ⟨0x040, 5, 1, .wo, 0, 1, 4⟩
def SEQ_CTRL_PURGE_STEP : Field := ⟨0x040, 6, 1, .wo, 0, 1, 4⟩
def SEQ_CTRL_PURGE_TAG : Field := ⟨0x040, 16, 16, .wo, 0, 1, 4⟩
def SEQ_STATUS_OCCUPIED : Field := ⟨0x044, 0, 5, .ro, 0, 1, 4⟩
def SEQ_STATUS_HALTED : Field := ⟨0x044, 5, 1, .ro, 0, 1, 4⟩
def SEQ_STATUS_HUMMING : Field := ⟨0x044, 6, 1, .ro, 0, 1, 4⟩
def SEQ_STATUS_BUSY : Field := ⟨0x044, 7, 7, .ro, 0, 1, 4⟩
def SEQ_STATUS_FENCED : Field := ⟨0x044, 14, 1, .ro, 0, 1, 4⟩
def BOLT_TABLE_BASE_LO : Field := ⟨0x048, 0, 32, .rw, 0, 1, 4⟩
def BOLT_TABLE_BASE_HI : Field := ⟨0x04C, 0, 22, .rw, 0, 1, 4⟩
def COMMITTED_STEP : Field := ⟨0x050, 0, 16, .rw, 0, 1, 4⟩
def TASKS_DONE : Field := ⟨0x054, 0, 32, .ro, 0, 1, 4⟩
def DEADLINE_MISSES : Field := ⟨0x058, 0, 32, .ro, 0, 1, 4⟩
def LAST_STARTED : Field := ⟨0x05C, 0, 32, .ro, 0, 1, 4⟩
/-! 04_gauze_engine.md R144: page croft -/
def GZ_CTRL_STEAL : Field := ⟨0x100, 0, 1, .rw, 1, 1, 4⟩
def GZ_CTRL_ACC_CLEAR : Field := ⟨0x100, 1, 1, .wo, 0, 1, 4⟩
def GZ_CTRL_CLEAR_COUNTS : Field := ⟨0x100, 2, 1, .wo, 0, 1, 4⟩
def GZ_CTRL_CLEAR_FAULT : Field := ⟨0x100, 3, 1, .wo, 0, 1, 4⟩
def GZ_STATUS_RUNNING : Field := ⟨0x104, 0, 1, .ro, 0, 1, 4⟩
def GZ_STATUS_WEFT : Field := ⟨0x104, 1, 1, .ro, 0, 1, 4⟩
def GZ_STATUS_LANE : Field := ⟨0x104, 2, 2, .ro, 0, 1, 4⟩
def GZ_STATUS_LENT : Field := ⟨0x104, 4, 1, .ro, 0, 1, 4⟩
def GZ_STATUS_SLOTS_VALID : Field := ⟨0x104, 5, 5, .ro, 0, 1, 4⟩
def GZ_STATUS_HOLD_USED : Field := ⟨0x104, 10, 9, .ro, 0, 1, 4⟩
def GZ_ACC_BASE : Field := ⟨0x108, 0, 22, .rw, 0, 1, 4⟩
def GZ_ACC_SLOTS : Field := ⟨0x10C, 0, 5, .rw, 0, 1, 4⟩
def GZ_ENTRIES : Field := ⟨0x110, 0, 32, .ro, 0, 1, 4⟩
def GZ_HOLDS : Field := ⟨0x114, 0, 32, .ro, 0, 1, 4⟩
def GZ_FILL_STALLS : Field := ⟨0x118, 0, 32, .ro, 0, 1, 4⟩
def GZ_IDLE_UNIT_CYCLES : Field := ⟨0x11C, 0, 32, .ro, 0, 1, 4⟩
def GZ_HOLDSTORE_STALLS : Field := ⟨0x120, 0, 32, .ro, 0, 1, 4⟩
def GZ_SKIPPED : Field := ⟨0x124, 0, 32, .ro, 0, 1, 4⟩
def GZ_STEALS : Field := ⟨0x128, 0, 32, .ro, 0, 1, 4⟩
def GZ_BORROWED : Field := ⟨0x12C, 0, 32, .ro, 0, 1, 4⟩
def GZ_USEFUL : Field := ⟨0x130, 0, 32, .ro, 0, 1, 4⟩
/-! 04_gauze_engine.md R145: page croft -/
def GZ_FAULT_CHECK : Field := ⟨0x140, 0, 8, .ro, 0, 1, 4⟩
def GZ_FAULT_TILE_K : Field := ⟨0x140, 16, 16, .ro, 0, 1, 4⟩
def GZ_FAULT_AT_WHERE : Field := ⟨0x144, 0, 15, .ro, 0, 1, 4⟩
def GZ_FAULT_AT_IS_ROW : Field := ⟨0x144, 15, 1, .ro, 0, 1, 4⟩
/-! 05_twin_looms_and_lookout.md R183: page croft -/
def LM_CTRL_ACC_CLEAR : Field := ⟨0x180, 0, 1, .wo, 0, 1, 4⟩
def LM_CTRL_CLEAR_COUNTS : Field := ⟨0x180, 1, 1, .wo, 0, 1, 4⟩
def LM_STATUS_RUN_A : Field := ⟨0x184, 0, 1, .ro, 0, 1, 4⟩
def LM_STATUS_RUN_B : Field := ⟨0x184, 1, 1, .ro, 0, 1, 4⟩
def LM_STATUS_PAIR : Field := ⟨0x184, 2, 1, .ro, 0, 1, 4⟩
def LM_STATUS_RATE8_A : Field := ⟨0x184, 3, 1, .ro, 0, 1, 4⟩
def LM_STATUS_RATE8_B : Field := ⟨0x184, 4, 1, .ro, 0, 1, 4⟩
def LM_STATUS_BORROWED : Field := ⟨0x184, 5, 1, .ro, 0, 1, 4⟩
def LM_STATUS_LENT : Field := ⟨0x184, 6, 1, .ro, 0, 1, 4⟩
def LM_STATUS_SLOTS_VALID : Field := ⟨0x184, 7, 4, .ro, 0, 1, 4⟩
def LM_ACC_BASE : Field := ⟨0x188, 0, 22, .rw, 0, 1, 4⟩
def LM_ACC_SLOTS : Field := ⟨0x18C, 0, 4, .rw, 0, 1, 4⟩
def LM_SLOTS_RUN : Field := ⟨0x190, 0, 32, .ro, 0, 1, 4⟩
def LM_SLOTS_SKIPPED : Field := ⟨0x194, 0, 32, .ro, 0, 1, 4⟩
def LM_OPERAND_STALLS : Field := ⟨0x198, 0, 32, .ro, 0, 1, 4⟩
def LM_BORROWED : Field := ⟨0x19C, 0, 32, .ro, 0, 1, 4⟩
def LM_LENT : Field := ⟨0x1A0, 0, 32, .ro, 0, 1, 4⟩
def LM_USEFUL : Field := ⟨0x1A4, 0, 32, .ro, 0, 1, 4⟩
/-! 05_twin_looms_and_lookout.md R184: page croft -/
def LK_CTRL_CLEAR_COUNTS : Field := ⟨0x200, 0, 1, .wo, 0, 1, 4⟩
def LK_CTRL_RECALL_EVENT : Field := ⟨0x200, 1, 1, .rw, 0, 1, 4⟩
def LK_CTRL_RECALL_FLOOR : Field := ⟨0x200, 8, 8, .rw, 0, 1, 4⟩
def LK_RECALL_BASE : Field := ⟨0x204, 0, 22, .rw, 0, 1, 4⟩
def LK_ENABLE : Field := ⟨0x210, 0, 32, .rw, 0, 8, 4⟩
def LK_VALID : Field := ⟨0x230, 0, 32, .rw, 0, 8, 4⟩
def LK_BYPASSED : Field := ⟨0x250, 0, 32, .ro, 0, 1, 4⟩
def LK_SAMPLED : Field := ⟨0x254, 0, 32, .ro, 0, 1, 4⟩
def LK_TRUE : Field := ⟨0x258, 0, 32, .ro, 0, 1, 4⟩
def LK_HITS : Field := ⟨0x25C, 0, 32, .ro, 0, 1, 4⟩
/-! 06_accumulation_and_numerics.md R215: page croft -/
def NUM_CTRL_SR_ACT : Field := ⟨0x280, 0, 1, .rw, 0, 1, 4⟩
def NUM_CTRL_SR_SAVE : Field := ⟨0x280, 1, 1, .rw, 0, 1, 4⟩
def NUM_CTRL_SHADOW_EN : Field := ⟨0x280, 2, 1, .rw, 0, 1, 4⟩
def NUM_CTRL_SHADOW_EVENT : Field := ⟨0x280, 3, 1, .rw, 0, 1, 4⟩
def NUM_CTRL_SHADOW_S : Field := ⟨0x280, 4, 4, .rw, 6, 1, 4⟩
def NUM_CTRL_CLEAR_COUNTS : Field := ⟨0x280, 8, 1, .wo, 0, 1, 4⟩
def NUM_STATUS_STATS_ENTRIES : Field := ⟨0x284, 0, 6, .ro, 0, 1, 4⟩
def NUM_STATUS_SHADOW_BUSY : Field := ⟨0x284, 6, 1, .ro, 0, 1, 4⟩
def NUM_OVERFLOWS : Field := ⟨0x288, 0, 32, .ro, 0, 1, 4⟩
def NUM_LONG_SUMS : Field := ⟨0x28C, 0, 32, .ro, 0, 1, 4⟩
def NUM_EVICTIONS : Field := ⟨0x290, 0, 32, .ro, 0, 1, 4⟩
def SH_TILES : Field := ⟨0x294, 0, 32, .ro, 0, 1, 4⟩
def SH_BIN : Field := ⟨0x298, 0, 32, .ro, 0, 8, 4⟩
/-! 07_functions_and_saved_activations.md R243: page croft -/
def FN_CTRL_CLEAR_COUNTS : Field := ⟨0x300, 0, 1, .wo, 0, 1, 4⟩
def FN_CTRL_CLEAR_FAULT : Field := ⟨0x300, 1, 1, .wo, 0, 1, 4⟩
def FN_STATUS_RUNNING : Field := ⟨0x304, 0, 1, .ro, 0, 1, 4⟩
def FN_STATUS_DERIV : Field := ⟨0x304, 1, 1, .ro, 0, 1, 4⟩
def FN_STATUS_SLOT : Field := ⟨0x304, 2, 4, .ro, 0, 1, 4⟩
def FN_STATUS_SAVE : Field := ⟨0x304, 6, 2, .ro, 0, 1, 4⟩
def FN_TABLE_BASE : Field := ⟨0x308, 0, 22, .rw, 0, 1, 4⟩
def FN_FAULT_CHECK : Field := ⟨0x30C, 0, 8, .ro, 0, 1, 4⟩
def FN_FAULT_OFFSET : Field := ⟨0x30C, 13, 13, .ro, 0, 1, 4⟩
def FN_ELEMENTS : Field := ⟨0x310, 0, 32, .ro, 0, 1, 4⟩
def FN_TAILS : Field := ⟨0x314, 0, 32, .ro, 0, 1, 4⟩
def FN_DROPPED : Field := ⟨0x318, 0, 32, .ro, 0, 1, 4⟩
/-! 08_mask_evolution.md R279: page croft -/
def MV_CTRL_CLEAR_COUNTS : Field := ⟨0x3C0, 0, 1, .wo, 0, 1, 4⟩
def MV_CTRL_CLEAR_FAULT : Field := ⟨0x3C0, 1, 1, .wo, 0, 1, 4⟩
def MV_STATUS_RUNNING : Field := ⟨0x3C4, 0, 1, .ro, 0, 1, 4⟩
def MV_STATUS_OP : Field := ⟨0x3C4, 1, 2, .ro, 0, 1, 4⟩
def MV_STATUS_SWAP : Field := ⟨0x3C4, 3, 1, .ro, 0, 1, 4⟩
def MV_STATUS_TILES_LEFT : Field := ⟨0x3C4, 4, 9, .ro, 0, 1, 4⟩
def MV_FAULT_CHECK : Field := ⟨0x3C8, 0, 8, .ro, 0, 1, 4⟩
def MV_FAULT_GZ_CHECK : Field := ⟨0x3C8, 8, 8, .ro, 0, 1, 4⟩
def MV_FAULT_TILE : Field := ⟨0x3CC, 0, 32, .ro, 0, 1, 4⟩
def MV_PRUNED : Field := ⟨0x3D0, 0, 32, .ro, 0, 1, 4⟩
def MV_GROWN : Field := ⟨0x3D4, 0, 32, .ro, 0, 1, 4⟩
def MV_SHORTFALL : Field := ⟨0x3D8, 0, 32, .ro, 0, 1, 4⟩
def MV_TILES_WOVEN : Field := ⟨0x3DC, 0, 32, .ro, 0, 1, 4⟩
def MV_FORM_CHANGES : Field := ⟨0x3E0, 0, 32, .ro, 0, 1, 4⟩
def MV_M2_ROUNDED : Field := ⟨0x3E4, 0, 32, .ro, 0, 1, 4⟩
def MV_RES_DROPPED : Field := ⟨0x3E8, 0, 32, .ro, 0, 1, 4⟩
/-! 09_spindle_and_update.md R314: page croft -/
def SP_SEED_LO : Field := ⟨0x340, 0, 32, .rw, 0, 1, 4⟩
def SP_SEED_HI : Field := ⟨0x344, 0, 32, .rw, 0, 1, 4⟩
def STEP_NOW_LO : Field := ⟨0x348, 0, 32, .rw, 0, 1, 4⟩
def STEP_NOW_HI : Field := ⟨0x34C, 0, 32, .rw, 0, 1, 4⟩
def SP_CTRL_PROBE : Field := ⟨0x350, 0, 1, .wo, 0, 1, 4⟩
def SP_CTRL_CLEAR_COUNTS : Field := ⟨0x350, 1, 1, .wo, 0, 1, 4⟩
def SP_STATUS_PROBE_DONE : Field := ⟨0x354, 0, 1, .ro, 0, 1, 4⟩
def SP_PROBE_CTR : Field := ⟨0x358, 0, 32, .rw, 0, 4, 4⟩
def SP_PROBE_OUT : Field := ⟨0x368, 0, 32, .ro, 0, 4, 4⟩
def SP_EVALS : Field := ⟨0x378, 0, 32, .ro, 0, 1, 4⟩
def SP_WAIT_CYCLES : Field := ⟨0x37C, 0, 32, .ro, 0, 1, 4⟩
def UP_CTRL_CLEAR_COUNTS : Field := ⟨0x380, 0, 1, .wo, 0, 1, 4⟩
def UP_CTRL_CLEAR_FAULT : Field := ⟨0x380, 1, 1, .wo, 0, 1, 4⟩
def UP_STATUS_RUNNING : Field := ⟨0x384, 0, 1, .ro, 0, 1, 4⟩
def UP_STATUS_LAYER : Field := ⟨0x384, 1, 8, .ro, 0, 1, 4⟩
def UP_FAULT_CHECK : Field := ⟨0x388, 0, 8, .ro, 0, 1, 4⟩
def UP_FAULT_GZ_CHECK : Field := ⟨0x388, 8, 8, .ro, 0, 1, 4⟩
def UP_FAULT_TILE : Field := ⟨0x38C, 0, 32, .ro, 0, 1, 4⟩
def UP_ELEMENTS : Field := ⟨0x390, 0, 32, .ro, 0, 1, 4⟩
def UP_LOST : Field := ⟨0x394, 0, 32, .ro, 0, 1, 4⟩
def UP_NONFINITE_G : Field := ⟨0x398, 0, 32, .ro, 0, 1, 4⟩
def UP_OFFMASK : Field := ⟨0x39C, 0, 32, .ro, 0, 1, 4⟩
def UP_SATURATED : Field := ⟨0x3A0, 0, 32, .ro, 0, 1, 4⟩
/-! 10_memory_tiers.md R343: page hbm -/
def HB_SCRUB_EN : Field := ⟨0x040, 0, 1, .rw, 1, 1, 4⟩
def HB_CLEAR_COUNTS : Field := ⟨0x040, 1, 1, .wo, 0, 1, 4⟩
def HB_SCRUB_HOURS : Field := ⟨0x040, 8, 8, .rw, 24, 1, 4⟩
def HB_RETRAIN_MS : Field := ⟨0x040, 16, 16, .rw, 1000, 1, 4⟩
def HB_ONLINE : Field := ⟨0x044, 0, 1, .ro, 0, 1, 4⟩
def HB_FENCED : Field := ⟨0x044, 1, 1, .ro, 0, 1, 4⟩
def HB_REFRESH : Field := ⟨0x044, 2, 2, .ro, 0, 1, 4⟩
def HB_RETRAINING : Field := ⟨0x044, 4, 1, .ro, 0, 1, 4⟩
def HB_RETRAIN_PC : Field := ⟨0x044, 5, 6, .ro, 0, 1, 4⟩
def HB_TEMP : Field := ⟨0x048, 0, 8, .ro, 0, 1, 4⟩
def HB_DEFAULT_SLACK : Field := ⟨0x04C, 0, 16, .rw, 10, 1, 4⟩
def HB_PC_OFFLINE_LO : Field := ⟨0x050, 0, 32, .ro, 0, 1, 4⟩
def HB_PC_OFFLINE_HI : Field := ⟨0x054, 0, 32, .ro, 0, 1, 4⟩
def HB_CE : Field := ⟨0x058, 0, 32, .ro, 0, 1, 4⟩
def HB_UE : Field := ⟨0x05C, 0, 32, .ro, 0, 1, 4⟩
def HB_POISON_READS : Field := ⟨0x060, 0, 32, .ro, 0, 1, 4⟩
def HB_RETRAINS : Field := ⟨0x064, 0, 32, .ro, 0, 1, 4⟩
def HB_PPR_DONE : Field := ⟨0x068, 0, 32, .ro, 0, 1, 4⟩
def HB_DEADLINE_MISSES : Field := ⟨0x06C, 0, 32, .ro, 0, 1, 4⟩
def HB_PPR_LEFT : Field := ⟨0x070, 0, 16, .ro, 0, 1, 4⟩
def HB_LAST_UE_LO : Field := ⟨0x078, 0, 32, .ro, 0, 1, 4⟩
def HB_LAST_UE_HI : Field := ⟨0x07C, 0, 32, .ro, 0, 1, 4⟩
/-! 10_memory_tiers.md R343: page channel -/
def MC_SCRUB_EN : Field := ⟨0x040, 0, 1, .rw, 1, 1, 4⟩
def MC_CLEAR_COUNTS : Field := ⟨0x040, 1, 1, .wo, 0, 1, 4⟩
def MC_SCRUB_HOURS : Field := ⟨0x040, 8, 8, .rw, 24, 1, 4⟩
def MC_KIND : Field := ⟨0x044, 0, 2, .ro, 0, 1, 4⟩
def MC_PRESENT : Field := ⟨0x044, 2, 1, .ro, 0, 1, 4⟩
def MC_ONLINE : Field := ⟨0x044, 3, 1, .ro, 0, 1, 4⟩
def MC_FENCED : Field := ⟨0x044, 4, 1, .ro, 0, 1, 4⟩
def MC_REFRESH_2X : Field := ⟨0x044, 5, 1, .ro, 0, 1, 4⟩
def MC_SLOTS : Field := ⟨0x044, 6, 2, .ro, 0, 1, 4⟩
def MC_RATE : Field := ⟨0x044, 8, 8, .ro, 0, 1, 4⟩
def MC_CAPACITY_MIB : Field := ⟨0x048, 0, 32, .ro, 0, 1, 4⟩
def MC_TEMP : Field := ⟨0x04C, 0, 8, .ro, 0, 1, 4⟩
def MC_CE : Field := ⟨0x050, 0, 32, .ro, 0, 1, 4⟩
def MC_UE : Field := ⟨0x054, 0, 32, .ro, 0, 1, 4⟩
def MC_POISON_READS : Field := ⟨0x058, 0, 32, .ro, 0, 1, 4⟩
def MC_DEADLINE_MISSES : Field := ⟨0x05C, 0, 32, .ro, 0, 1, 4⟩
def MC_LAST_UE_LO : Field := ⟨0x060, 0, 32, .ro, 0, 1, 4⟩
def MC_LAST_UE_HI : Field := ⟨0x064, 0, 32, .ro, 0, 1, 4⟩
/-! 10_memory_tiers.md R343: page memMap -/
def MAP_TIER2_MODE : Field := ⟨0x040, 0, 2, .rw, 0, 1, 4⟩
def MAP_TIER3_MODE : Field := ⟨0x040, 2, 2, .rw, 0, 1, 4⟩
def MAP_APPLY : Field := ⟨0x040, 4, 1, .wo, 0, 1, 4⟩
def MAP_T2_SETS_ONLINE : Field := ⟨0x044, 0, 12, .ro, 0, 1, 4⟩
def MAP_T3_SETS_ONLINE : Field := ⟨0x044, 12, 4, .ro, 0, 1, 4⟩
def MAP_T2_GIB : Field := ⟨0x048, 0, 32, .ro, 0, 1, 4⟩
def MAP_T3_GIB : Field := ⟨0x04C, 0, 32, .ro, 0, 1, 4⟩
def MAP_KEY_PART : Field := ⟨0x050, 0, 3, .sp, 0, 1, 4⟩
def MAP_KEY_GENERATE : Field := ⟨0x050, 3, 1, .sp, 0, 1, 4⟩
def MAP_KEY_DESTROY : Field := ⟨0x050, 4, 1, .sp, 0, 1, 4⟩
def MAP_KEY_VALID : Field := ⟨0x054, 0, 8, .ro, 0, 1, 4⟩
/-! 11_data_movement.md R384: page croft -/
def SH_CTRL_CLEAR_COUNTS : Field := ⟨0x400, 0, 1, .wo, 0, 1, 4⟩
def SH_CTRL_CLEAR_RATES : Field := ⟨0x400, 1, 1, .wo, 0, 1, 4⟩
def SH_STATUS_STREAMS : Field := ⟨0x404, 0, 3, .ro, 0, 1, 4⟩
def SH_STATUS_SLOTS_USED : Field := ⟨0x404, 3, 6, .ro, 0, 1, 4⟩
def SH_STATUS_COURIER_USED : Field := ⟨0x404, 9, 4, .ro, 0, 1, 4⟩
def SH_STATUS_PICKER_BUSY : Field := ⟨0x404, 13, 1, .ro, 0, 1, 4⟩
def SH_STATUS_STAGING : Field := ⟨0x404, 14, 1, .ro, 0, 1, 4⟩
def SH_STAGE_BASE : Field := ⟨0x408, 0, 22, .rw, 0, 1, 4⟩
def SH_STAGE_EN : Field := ⟨0x408, 31, 1, .rw, 0, 1, 4⟩
def SH_RATE_READY : Field := ⟨0x40C, 0, 7, .ro, 0, 1, 4⟩
def SH_BYTES_READ : Field := ⟨0x410, 0, 32, .ro, 0, 1, 4⟩
def SH_BYTES_WRITTEN : Field := ⟨0x414, 0, 32, .ro, 0, 1, 4⟩
def SH_COURIER_OPS : Field := ⟨0x418, 0, 32, .ro, 0, 1, 4⟩
def SH_STREAM_WAITS : Field := ⟨0x41C, 0, 32, .ro, 0, 1, 4⟩
def SH_LATE_PIECES : Field := ⟨0x420, 0, 32, .ro, 0, 1, 4⟩
def SH_DRY_CYCLES : Field := ⟨0x424, 0, 32, .ro, 0, 1, 4⟩
def PK_ROWS : Field := ⟨0x428, 0, 32, .ro, 0, 1, 4⟩
def PK_SKIPPED : Field := ⟨0x42C, 0, 32, .ro, 0, 1, 4⟩
def PK_REROUNDED : Field := ⟨0x430, 0, 32, .ro, 0, 1, 4⟩
def SH_ABANDON_POINT : Field := ⟨0x434, 0, 32, .ro, 0, 1, 4⟩
def SH_STREAM_USER : Field := ⟨0x440, 0, 3, .ro, 0, 6, 4⟩
def SH_STREAM_DIR : Field := ⟨0x440, 3, 1, .ro, 0, 6, 4⟩
def SH_STREAM_SPACE : Field := ⟨0x440, 4, 2, .ro, 0, 6, 4⟩
def SH_STREAM_SLOTS : Field := ⟨0x440, 6, 6, .ro, 0, 6, 4⟩
def SH_STREAM_LATE : Field := ⟨0x440, 12, 1, .ro, 0, 6, 4⟩
/-! 11_data_movement.md R386: page slice -/
def GR_MODE : Field := ⟨0x040, 0, 2, .rw, 0, 1, 4⟩
def GR_FLUSH : Field := ⟨0x040, 2, 1, .wo, 0, 1, 4⟩
def GR_INVALIDATE : Field := ⟨0x040, 3, 1, .wo, 0, 1, 4⟩
def GR_CLEAR_COUNTS : Field := ⟨0x040, 4, 1, .wo, 0, 1, 4⟩
def GR_BUSY : Field := ⟨0x044, 0, 1, .ro, 0, 1, 4⟩
def GR_DIRTY : Field := ⟨0x044, 1, 1, .ro, 0, 1, 4⟩
def GR_FENCED : Field := ⟨0x044, 2, 1, .ro, 0, 1, 4⟩
def GR_DIRTY_LINES : Field := ⟨0x044, 3, 13, .ro, 0, 1, 4⟩
def GR_HITS : Field := ⟨0x048, 0, 32, .ro, 0, 1, 4⟩
def GR_MISSES : Field := ⟨0x04C, 0, 32, .ro, 0, 1, 4⟩
def GR_WRITEBACKS : Field := ⟨0x050, 0, 32, .ro, 0, 1, 4⟩
def GR_MERGES : Field := ⟨0x054, 0, 32, .ro, 0, 1, 4⟩
def GR_CE : Field := ⟨0x058, 0, 32, .ro, 0, 1, 4⟩
def GR_UE : Field := ⟨0x05C, 0, 32, .ro, 0, 1, 4⟩
/-! 11_data_movement.md R387: page hbm -/
def HB_MERGE_HOLD : Field := ⟨0x080, 0, 8, .rw, 0, 1, 4⟩
def HB_MERGED : Field := ⟨0x084, 0, 32, .ro, 0, 1, 4⟩
/-! 12_tallies.md R408: page tally -/
def TL_CLEAR_COUNTS : Field := ⟨0x040, 0, 1, .wo, 0, 1, 4⟩
def TL_CLEAR_FAULT : Field := ⟨0x040, 1, 1, .wo, 0, 1, 4⟩
def TL_STALL_EN : Field := ⟨0x040, 2, 1, .rw, 1, 1, 4⟩
def TL_STALL_US : Field := ⟨0x040, 16, 16, .rw, 1000, 1, 4⟩
def TL_MAPPED : Field := ⟨0x044, 0, 15, .ro, 0, 1, 4⟩
def TL_WAITERS : Field := ⟨0x044, 15, 14, .ro, 0, 1, 4⟩
def TL_SELECT : Field := ⟨0x048, 0, 14, .rw, 0, 1, 4⟩
def TL_VALUE : Field := ⟨0x04C, 0, 32, .ro, 0, 1, 4⟩
def TL_EPOCH : Field := ⟨0x050, 0, 32, .ro, 0, 1, 4⟩
def TL_REMAINING : Field := ⟨0x054, 0, 32, .ro, 0, 1, 4⟩
def TL_STATE_MAPPED : Field := ⟨0x058, 0, 1, .ro, 0, 1, 4⟩
def TL_STATE_CONTEXT : Field := ⟨0x058, 1, 3, .ro, 0, 1, 4⟩
def TL_STATE_CHECKED : Field := ⟨0x058, 4, 1, .ro, 0, 1, 4⟩
def TL_STATE_SAT : Field := ⟨0x058, 5, 1, .ro, 0, 1, 4⟩
def TL_STATE_OVER : Field := ⟨0x058, 6, 1, .ro, 0, 1, 4⟩
def TL_STATE_UNDER : Field := ⟨0x058, 7, 1, .ro, 0, 1, 4⟩
def TL_STATE_STRANDED : Field := ⟨0x058, 8, 1, .ro, 0, 1, 4⟩
def TL_STATE_HELD : Field := ⟨0x058, 9, 14, .ro, 0, 1, 4⟩
def TL_STATE_OPEN : Field := ⟨0x058, 23, 1, .ro, 0, 1, 4⟩
def TL_MAP_SEL_VIRTUAL : Field := ⟨0x05C, 0, 12, .rw, 0, 1, 4⟩
def TL_MAP_SEL_CONTEXT : Field := ⟨0x05C, 12, 3, .rw, 0, 1, 4⟩
def TL_MAP_DATA_PHYS : Field := ⟨0x060, 0, 14, .rw, 0, 1, 4⟩
def TL_MAP_DATA_VALID : Field := ⟨0x060, 31, 1, .rw, 0, 1, 4⟩
def TL_RESET_PHYS : Field := ⟨0x064, 0, 14, .wo, 0, 1, 4⟩
def TL_RESET_GO : Field := ⟨0x064, 31, 1, .wo, 0, 1, 4⟩
def TL_OPS : Field := ⟨0x070, 0, 32, .ro, 0, 1, 4⟩
def TL_RELEASES : Field := ⟨0x074, 0, 32, .ro, 0, 1, 4⟩
def TL_OVERFLOWS : Field := ⟨0x078, 0, 32, .ro, 0, 1, 4⟩
def TL_UNDERFLOWS : Field := ⟨0x07C, 0, 32, .ro, 0, 1, 4⟩
def TL_STRANDED : Field := ⟨0x080, 0, 32, .ro, 0, 1, 4⟩
def TL_MISMATCHES : Field := ⟨0x084, 0, 32, .ro, 0, 1, 4⟩
def TL_SATURATIONS : Field := ⟨0x088, 0, 32, .ro, 0, 1, 4⟩
def TL_STALLS : Field := ⟨0x08C, 0, 32, .ro, 0, 1, 4⟩
/-! 13_links_and_gradient_exchange.md R459: page port -/
def VP_ENABLE : Field := ⟨0x040, 0, 1, .rw, 0, 1, 4⟩
def VP_LANE_EN : Field := ⟨0x040, 1, 4, .rw, 15, 1, 4⟩
def VP_CLEAR_COUNTS : Field := ⟨0x040, 5, 1, .wo, 0, 1, 4⟩
def VP_REPLAY_LIMIT : Field := ⟨0x040, 8, 8, .rw, 64, 1, 4⟩
def VP_REPLAY_NS : Field := ⟨0x040, 16, 16, .rw, 2000, 1, 4⟩
def VP_LANES_UP : Field := ⟨0x044, 0, 4, .ro, 0, 1, 4⟩
def VP_UP : Field := ⟨0x044, 4, 1, .ro, 0, 1, 4⟩
def VP_FENCED : Field := ⟨0x044, 5, 1, .ro, 0, 1, 4⟩
def VP_LANES_SLOW : Field := ⟨0x044, 6, 4, .ro, 0, 1, 4⟩
def VP_PEER_DEVICE : Field := ⟨0x048, 0, 13, .ro, 0, 1, 4⟩
def VP_PEER_PORT : Field := ⟨0x048, 13, 4, .ro, 0, 1, 4⟩
def VP_PEER_JOB : Field := ⟨0x04C, 0, 16, .ro, 0, 1, 4⟩
def VP_RTT_NS : Field := ⟨0x050, 0, 16, .ro, 0, 1, 4⟩
def VP_FLITS_TX : Field := ⟨0x058, 0, 32, .ro, 0, 1, 4⟩
def VP_FLITS_RX : Field := ⟨0x05C, 0, 32, .ro, 0, 1, 4⟩
def VP_CRC_ERRORS : Field := ⟨0x060, 0, 32, .ro, 0, 1, 4⟩
def VP_REPLAYS : Field := ⟨0x064, 0, 32, .ro, 0, 1, 4⟩
def VP_FEC_CORRECTED : Field := ⟨0x068, 0, 32, .ro, 0, 1, 4⟩
def VP_FEC_UNCORRECTABLE : Field := ⟨0x06C, 0, 32, .ro, 0, 1, 4⟩
def VP_FORWARDED : Field := ⟨0x070, 0, 32, .ro, 0, 1, 4⟩
def VP_DISCARDED : Field := ⟨0x074, 0, 32, .ro, 0, 1, 4⟩
def VP_LANE_LOSSES : Field := ⟨0x078, 0, 32, .ro, 0, 1, 4⟩
/-! 13_links_and_gradient_exchange.md R459: page mill -/
def ML_CLEAR_COUNTS : Field := ⟨0x040, 0, 1, .wo, 0, 1, 4⟩
def ML_JOBS_ENABLED : Field := ⟨0x044, 0, 8, .ro, 0, 1, 4⟩
def ML_CONTRIBS_SENT : Field := ⟨0x048, 0, 32, .ro, 0, 1, 4⟩
def ML_CONTRIBS_RECEIVED : Field := ⟨0x04C, 0, 32, .ro, 0, 1, 4⟩
def ML_BUCKETS_REDUCED : Field := ⟨0x050, 0, 32, .ro, 0, 1, 4⟩
def ML_REDUCED_SENT : Field := ⟨0x054, 0, 32, .ro, 0, 1, 4⟩
def ML_STALE : Field := ⟨0x058, 0, 32, .ro, 0, 1, 4⟩
def ML_DUPLICATES : Field := ⟨0x05C, 0, 32, .ro, 0, 1, 4⟩
def ML_MALFORMED : Field := ⟨0x060, 0, 32, .ro, 0, 1, 4⟩
def ML_MISMATCHES : Field := ⟨0x064, 0, 32, .ro, 0, 1, 4⟩
def ML_RESENT : Field := ⟨0x068, 0, 32, .ro, 0, 1, 4⟩
def ML_CHECKED : Field := ⟨0x06C, 0, 32, .ro, 0, 1, 4⟩
def ML_VERDICTS_COMMIT : Field := ⟨0x070, 0, 32, .ro, 0, 1, 4⟩
def ML_VERDICTS_REPEAT : Field := ⟨0x074, 0, 32, .ro, 0, 1, 4⟩
def ML_VERDICTS_STOP : Field := ⟨0x078, 0, 32, .ro, 0, 1, 4⟩
def ML_LOST_PACKETS : Field := ⟨0x07C, 0, 32, .ro, 0, 1, 4⟩
def ML_JOB_DEVICE_ID : Field := ⟨0x100, 0, 13, .rw, 0, 8, 64⟩
def ML_JOB_ENABLE : Field := ⟨0x100, 13, 1, .rw, 0, 8, 64⟩
def ML_JOB_ROOT : Field := ⟨0x100, 14, 1, .rw, 0, 8, 64⟩
def ML_JOB_JOB_ID : Field := ⟨0x104, 0, 16, .rw, 0, 8, 64⟩
def ML_JOB_PARENT : Field := ⟨0x104, 16, 13, .rw, 0, 8, 64⟩
def ML_JOB_NCHILD : Field := ⟨0x108, 0, 5, .rw, 0, 8, 64⟩
def ML_JOB_REPEAT_LIMIT : Field := ⟨0x108, 8, 8, .rw, 8, 8, 64⟩
def ML_JOB_VERDICT_WAIT_US : Field := ⟨0x10C, 0, 16, .rw, 1000, 8, 64⟩
def ML_JOB_VERDICT_LOST_US : Field := ⟨0x10C, 16, 16, .rw, 10000, 8, 64⟩
def ML_JOB_ACK_TIMEOUT_US : Field := ⟨0x110, 0, 16, .rw, 100, 8, 64⟩
def ML_JOB_TABLE_BASE_LO : Field := ⟨0x114, 0, 32, .rw, 0, 8, 64⟩
def ML_JOB_TABLE_BASE_HI : Field := ⟨0x118, 0, 32, .rw, 0, 8, 64⟩
def ML_JOB_ACTIVE_PLANS_LO : Field := ⟨0x11C, 0, 32, .rw, 0, 8, 64⟩
def ML_JOB_ACTIVE_PLANS_HI : Field := ⟨0x120, 0, 32, .rw, 0, 8, 64⟩
def ML_JOB_EPOCH : Field := ⟨0x124, 0, 32, .ro, 0, 8, 64⟩
def ML_JOB_LOCAL : Field := ⟨0x128, 0, 2, .ro, 0, 8, 64⟩
def ML_JOB_CHILDREN_READY : Field := ⟨0x128, 2, 5, .ro, 0, 8, 64⟩
def ML_JOB_LAST_VERDICT : Field := ⟨0x128, 7, 2, .ro, 0, 8, 64⟩
def ML_JOB_LAST_REASON : Field := ⟨0x128, 16, 8, .ro, 0, 8, 64⟩
def ML_JOB_READY : Field := ⟨0x12C, 0, 1, .wo, 0, 8, 64⟩
def ML_JOB_REPEAT : Field := ⟨0x12C, 1, 1, .wo, 0, 8, 64⟩
def ML_JOB_REASON : Field := ⟨0x12C, 8, 8, .wo, 0, 8, 64⟩
def ML_JOB_RELOAD : Field := ⟨0x130, 0, 1, .wo, 0, 8, 64⟩
def ML_JOB_BASE_GIB : Field := ⟨0x134, 0, 22, .rw, 0, 8, 64⟩
def ML_JOB_SIZE_GIB : Field := ⟨0x138, 0, 10, .rw, 0, 8, 64⟩
def ML_JOB_READ_EN : Field := ⟨0x138, 10, 1, .rw, 0, 8, 64⟩
def ML_JOB_WRITE_EN : Field := ⟨0x138, 11, 1, .rw, 0, 8, 64⟩
/-! 14_resilience.md R488: page mill -/
def ML_PAR_ENABLE : Field := ⟨0x300, 0, 1, .rw, 0, 8, 64⟩
def ML_PAR_LOAD : Field := ⟨0x300, 1, 1, .wo, 0, 8, 64⟩
def ML_PAR_REBUILD_CLEAR : Field := ⟨0x300, 2, 1, .wo, 0, 8, 64⟩
def ML_PAR_FAIL_ADD : Field := ⟨0x300, 3, 1, .wo, 0, 8, 64⟩
def ML_PAR_CLEAR_COUNTS : Field := ⟨0x300, 4, 1, .wo, 0, 8, 64⟩
def ML_PAR_GROUPS_LOADED : Field := ⟨0x304, 0, 16, .ro, 0, 8, 64⟩
def ML_PAR_CLEARING : Field := ⟨0x304, 16, 1, .ro, 0, 8, 64⟩
def ML_PAR_FEED_OVERRIDE : Field := ⟨0x304, 17, 1, .ro, 0, 8, 64⟩
def ML_PAR_FEED_ID : Field := ⟨0x304, 18, 4, .ro, 0, 8, 64⟩
def ML_PAR_GROUP_TABLE_LO : Field := ⟨0x308, 0, 32, .rw, 0, 8, 64⟩
def ML_PAR_GROUP_TABLE_HI : Field := ⟨0x30C, 0, 32, .rw, 0, 8, 64⟩
def ML_PAR_RB_BASE_LO : Field := ⟨0x310, 0, 32, .rw, 0, 8, 64⟩
def ML_PAR_RB_BASE_HI : Field := ⟨0x314, 0, 32, .rw, 0, 8, 64⟩
def ML_PAR_RB_MIB : Field := ⟨0x318, 0, 32, .rw, 0, 8, 64⟩
def ML_PAR_C_INIT_MS : Field := ⟨0x31C, 0, 16, .rw, 2500, 8, 64⟩
def ML_PAR_C_MS : Field := ⟨0x31C, 16, 16, .ro, 2500, 8, 64⟩
def ML_PAR_M0_H : Field := ⟨0x320, 0, 16, .rw, 8, 8, 64⟩
def ML_PAR_W : Field := ⟨0x320, 16, 8, .rw, 4, 8, 64⟩
def ML_PAR_T_MIN_S : Field := ⟨0x324, 0, 16, .rw, 60, 8, 64⟩
def ML_PAR_T_MAX_S : Field := ⟨0x324, 16, 16, .rw, 3600, 8, 64⟩
def ML_PAR_FAILURES : Field := ⟨0x328, 0, 32, .ro, 0, 8, 64⟩
def ML_PAR_M_S : Field := ⟨0x32C, 0, 32, .ro, 28800, 8, 64⟩
def ML_PAR_T_S : Field := ⟨0x330, 0, 32, .ro, 379, 8, 64⟩
def ML_PAR_ROUNDS : Field := ⟨0x334, 0, 32, .rw, 0, 8, 64⟩
def ML_PAR_ROUNDS_VALID : Field := ⟨0x338, 0, 32, .ro, 0, 8, 64⟩
def ML_PAR_ROUNDS_ABANDONED : Field := ⟨0x33C, 0, 32, .ro, 0, 8, 64⟩
/-! 14_resilience.md R488: page repair -/
def REP_KIND : Field := ⟨0x040, 0, 4, .rw, 0, 1, 4⟩
def REP_INDEX : Field := ⟨0x040, 4, 10, .rw, 0, 1, 4⟩
def REP_ACTION : Field := ⟨0x040, 14, 2, .wo, 0, 1, 4⟩
def REP_BUSY : Field := ⟨0x044, 0, 1, .ro, 0, 1, 4⟩
def REP_RESULT : Field := ⟨0x044, 1, 2, .ro, 0, 1, 4⟩
def REP_FENCES : Field := ⟨0x048, 0, 32, .ro, 0, 1, 4⟩
def REP_PASSED : Field := ⟨0x04C, 0, 32, .ro, 0, 1, 4⟩
def REP_RETIRED : Field := ⟨0x050, 0, 32, .ro, 0, 1, 4⟩
/-! 15_power_clocks_scheduling.md R523: page well -/
def WELL_CLEAR_COUNTS : Field := ⟨0x040, 0, 1, .wo, 0, 1, 4⟩
def WELL_PEAK_EN : Field := ⟨0x040, 1, 1, .rw, 1, 1, 4⟩
def WELL_GUARD : Field := ⟨0x040, 8, 8, .rw, 16, 1, 4⟩
def WELL_SAG_V : Field := ⟨0x040, 16, 8, .rw, 48, 1, 4⟩
def WELL_BUS_V : Field := ⟨0x044, 0, 13, .ro, 0, 1, 4⟩
def WELL_BUS_I : Field := ⟨0x044, 16, 10, .ro, 0, 1, 4⟩
def WELL_PBAR_W : Field := ⟨0x048, 0, 16, .ro, 7250, 1, 4⟩
def WELL_PSUST_W : Field := ⟨0x048, 16, 16, .ro, 7250, 1, 4⟩
def WELL_PEAK_USED : Field := ⟨0x04C, 0, 15, .ro, 0, 1, 4⟩
def WELL_PEAK_OK : Field := ⟨0x04C, 15, 1, .ro, 0, 1, 4⟩
def WELL_STATE : Field := ⟨0x04C, 16, 3, .ro, 0, 1, 4⟩
def WELL_CAP_W : Field := ⟨0x050, 0, 16, .rw, 0, 1, 4⟩
def WELL_DERATE : Field := ⟨0x050, 16, 16, .rw, 250, 1, 4⟩
def WELL_POOL : Field := ⟨0x054, 0, 10, .ro, 0, 1, 4⟩
def WELL_BASE : Field := ⟨0x054, 10, 10, .ro, 0, 1, 4⟩
def WELL_GRANT : Field := ⟨0x060, 0, 10, .ro, 0, 16, 4⟩
def WELL_DEMAND : Field := ⟨0x060, 10, 10, .ro, 0, 16, 4⟩
def WELL_PACE : Field := ⟨0x060, 20, 5, .ro, 16, 16, 4⟩
def WELL_PART_CAP_W : Field := ⟨0x0A0, 0, 16, .rw, 0, 8, 4⟩
def WELL_SAGS : Field := ⟨0x0C0, 0, 32, .ro, 0, 1, 4⟩
def WELL_UNDERVOLTS : Field := ⟨0x0C4, 0, 32, .ro, 0, 1, 4⟩
def WELL_SURGES : Field := ⟨0x0C8, 0, 32, .ro, 0, 1, 4⟩
def WELL_WINDOWS_SPENT : Field := ⟨0x0CC, 0, 32, .ro, 0, 1, 4⟩
def WELL_PACED_US : Field := ⟨0x0D0, 0, 32, .ro, 0, 1, 4⟩
def WELL_ENERGY_LO : Field := ⟨0x0D4, 0, 32, .ro, 0, 1, 4⟩
def WELL_ENERGY_HI : Field := ⟨0x0D8, 0, 32, .ro, 0, 1, 4⟩
/-! 15_power_clocks_scheduling.md R523: page steward -/
def SCH_LOOKAHEAD : Field := ⟨0x040, 0, 7, .rw, 64, 1, 4⟩
def SCH_STARVE_US : Field := ⟨0x040, 16, 16, .rw, 100, 1, 4⟩
def SCH_LOWER_US : Field := ⟨0x044, 0, 16, .rw, 5, 1, 4⟩
def SCH_RAISE_US : Field := ⟨0x044, 16, 16, .rw, 100, 1, 4⟩
def SCH_PART_POINT : Field := ⟨0x048, 0, 3, .rw, 5, 8, 4⟩
def SCH_BOOST_EN : Field := ⟨0x048, 3, 1, .rw, 0, 8, 4⟩
def SCH_HELD_POWER : Field := ⟨0x070, 0, 32, .ro, 0, 1, 4⟩
def SCH_HELD_THERMAL : Field := ⟨0x074, 0, 32, .ro, 0, 1, 4⟩
def SCH_STARVED : Field := ⟨0x078, 0, 32, .ro, 0, 1, 4⟩
def SCH_POINT_LOWERS : Field := ⟨0x07C, 0, 32, .ro, 0, 1, 4⟩
/-! 15_power_clocks_scheduling.md R523: page thermal -/
def TH_T_CAP : Field := ⟨0x040, 0, 8, .sp, 100, 1, 4⟩
def TH_T_LIMIT : Field := ⟨0x040, 8, 8, .sp, 105, 1, 4⟩
def TH_T_TRIP : Field := ⟨0x040, 16, 8, .sp, 110, 1, 4⟩
def TH_T_IN : Field := ⟨0x044, 0, 8, .sp, 40, 1, 4⟩
def TH_STALE : Field := ⟨0x044, 8, 1, .sp, 1, 1, 4⟩
def TH_HOTTEST : Field := ⟨0x048, 0, 8, .ro, 0, 1, 4⟩
def TH_HOTTEST_ID : Field := ⟨0x048, 8, 12, .ro, 0, 1, 4⟩
def TH_POWERED_H : Field := ⟨0x04C, 0, 32, .ro, 0, 1, 4⟩
def TH_NEXT_REPLAN_H : Field := ⟨0x050, 0, 32, .ro, 0, 1, 4⟩
def TH_REPLAN_REQ : Field := ⟨0x054, 0, 1, .w1s, 0, 1, 4⟩
def TH_POINTS_WITHDRAWN : Field := ⟨0x058, 0, 32, .ro, 0, 1, 4⟩
def TH_MARGIN_ALARMS : Field := ⟨0x05C, 0, 32, .ro, 0, 1, 4⟩
/-! 15_power_clocks_scheduling.md R523: page croft -/
def CP_CTRL_POINT_REQ : Field := ⟨0x480, 0, 3, .rw, 5, 1, 4⟩
def CP_CTRL_CLEAR_COUNTS : Field := ⟨0x480, 3, 1, .wo, 0, 1, 4⟩
def CP_CTRL_HUM_HOLD_US : Field := ⟨0x480, 4, 12, .rw, 0, 1, 4⟩
def CP_CTRL_HUM_FLOOR : Field := ⟨0x480, 16, 5, .rw, 16, 1, 4⟩
def CP_STATUS_POINT : Field := ⟨0x484, 0, 3, .ro, 5, 1, 4⟩
def CP_STATUS_CHANGING : Field := ⟨0x484, 3, 1, .ro, 0, 1, 4⟩
def CP_STATUS_STATE : Field := ⟨0x484, 4, 3, .ro, 2, 1, 4⟩
def CP_STATUS_PACE : Field := ⟨0x484, 7, 5, .ro, 16, 1, 4⟩
def CP_STATUS_CAP_POINT : Field := ⟨0x484, 12, 3, .ro, 7, 1, 4⟩
def CP_STATUS_MARGIN_ALARM : Field := ⟨0x484, 15, 1, .ro, 0, 1, 4⟩
def CP_STATUS_TEMP : Field := ⟨0x484, 16, 8, .ro, 0, 1, 4⟩
def CP_POINT_VOLT_MV : Field := ⟨0x488, 0, 10, .sp, 0, 8, 4⟩
def CP_POINT_WITHDRAWN : Field := ⟨0x488, 10, 1, .sp, 0, 8, 4⟩
def CP_POINT_FREQ_MHZ : Field := ⟨0x488, 16, 11, .ro, 0, 8, 4⟩
def CP_DRIFT : Field := ⟨0x4A8, 0, 16, .ro, 0, 1, 4⟩
def CP_R_MKW : Field := ⟨0x4AC, 0, 16, .ro, 0, 1, 4⟩
def CP_TAU_US : Field := ⟨0x4AC, 16, 16, .ro, 0, 1, 4⟩
def CP_HUM_CYCLES : Field := ⟨0x4B0, 0, 32, .ro, 0, 1, 4⟩
def CP_PACED_CYCLES : Field := ⟨0x4B4, 0, 32, .ro, 0, 1, 4⟩
def CP_POINT_CHANGES : Field := ⟨0x4B8, 0, 32, .ro, 0, 1, 4⟩
/-! 16_host_interface_and_partitions.md R569: page function -/
def FP_EV_ENABLE : Field := ⟨0x040, 0, 1, .rw, 0, 1, 4⟩
def FP_CLEAR_COUNTS : Field := ⟨0x040, 1, 1, .wo, 0, 1, 4⟩
def FP_CLEAR_ERR : Field := ⟨0x040, 2, 1, .wo, 0, 1, 4⟩
def FP_EV_LOG2 : Field := ⟨0x040, 8, 5, .rw, 6, 1, 4⟩
def FP_ASSEMBLED : Field := ⟨0x044, 0, 1, .ro, 0, 1, 4⟩
def FP_CONFIDENTIAL : Field := ⟨0x044, 1, 1, .ro, 0, 1, 4⟩
def FP_QUIESCED : Field := ⟨0x044, 2, 1, .ro, 0, 1, 4⟩
def FP_WEDGED : Field := ⟨0x044, 3, 1, .ro, 0, 1, 4⟩
def FP_KEYS_LIVE : Field := ⟨0x044, 4, 1, .ro, 0, 1, 4⟩
def FP_EV_ERR : Field := ⟨0x044, 5, 1, .ro, 0, 1, 4⟩
def FP_SERVICE : Field := ⟨0x044, 6, 1, .ro, 1, 1, 4⟩
def FP_READY : Field := ⟨0x044, 7, 1, .ro, 0, 1, 4⟩
def FP_INFLIGHT_NOW : Field := ⟨0x044, 16, 10, .ro, 0, 1, 4⟩
def FP_EV_BASE_LO : Field := ⟨0x048, 0, 32, .rw, 0, 1, 4⟩
def FP_EV_BASE_HI : Field := ⟨0x04C, 0, 32, .rw, 0, 1, 4⟩
def FP_EV_TAG_BASE_LO : Field := ⟨0x050, 0, 32, .rw, 0, 1, 4⟩
def FP_EV_TAG_BASE_HI : Field := ⟨0x054, 0, 32, .rw, 0, 1, 4⟩
def FP_EV_TAIL : Field := ⟨0x058, 0, 16, .ro, 0, 1, 4⟩
def FP_EV_PHASE : Field := ⟨0x058, 16, 1, .ro, 1, 1, 4⟩
def FP_EV_HELD : Field := ⟨0x058, 17, 9, .ro, 0, 1, 4⟩
def FP_MSIX_MAP0 : Field := ⟨0x05C, 0, 32, .rw, 0, 1, 4⟩
def FP_MSIX_MAP1 : Field := ⟨0x060, 0, 20, .rw, 0, 1, 4⟩
def FP_MSIX_TYPES : Field := ⟨0x064, 0, 16, .rw, 2, 1, 4⟩
def FP_COUNT : Field := ⟨0x068, 0, 8, .rw, 0, 1, 4⟩
def FP_DELAY_US : Field := ⟨0x068, 8, 16, .rw, 0, 1, 4⟩
def FP_BAR2_BASE_LO : Field := ⟨0x06C, 0, 32, .rw, 0, 1, 4⟩
def FP_BAR2_BASE_HI : Field := ⟨0x070, 0, 32, .rw, 0, 1, 4⟩
def FP_HT_ROOT_LO : Field := ⟨0x074, 0, 32, .rw, 0, 1, 4⟩
def FP_HT_ROOT_HI : Field := ⟨0x078, 0, 32, .rw, 0, 1, 4⟩
def FP_HT_BYTES : Field := ⟨0x07C, 0, 32, .rw, 0, 1, 4⟩
def FP_INFLIGHT : Field := ⟨0x080, 0, 10, .ro, 16, 1, 4⟩
def FP_HOST_RD_NS : Field := ⟨0x084, 0, 16, .ro, 0, 1, 4⟩
def FP_LAST_COMMITTED_LO : Field := ⟨0x0A0, 0, 32, .rw, 0, 1, 4⟩
def FP_LAST_COMMITTED_HI : Field := ⟨0x0A4, 0, 32, .rw, 0, 1, 4⟩
def FP_EV_DROPPED : Field := ⟨0x0A8, 0, 32, .ro, 0, 1, 4⟩
def FP_BAR2_REFUSED : Field := ⟨0x0AC, 0, 32, .ro, 0, 1, 4⟩
def FP_CMDS_DONE : Field := ⟨0x0B0, 0, 32, .ro, 0, 1, 4⟩
def FP_RING_ERRORS : Field := ⟨0x0B4, 0, 32, .ro, 0, 1, 4⟩
def FP_HOST_ERRORS : Field := ⟨0x0B8, 0, 32, .ro, 0, 1, 4⟩
def FP_FAILED_TAGS : Field := ⟨0x0BC, 0, 32, .ro, 0, 1, 4⟩
def FP_CR_BASE_LO : Field := ⟨0x100, 0, 32, .rw, 0, 14, 32⟩
def FP_CR_BASE_HI : Field := ⟨0x104, 0, 32, .rw, 0, 14, 32⟩
def FP_CR_TAG_BASE_LO : Field := ⟨0x108, 0, 32, .rw, 0, 14, 32⟩
def FP_CR_TAG_BASE_HI : Field := ⟨0x10C, 0, 32, .rw, 0, 14, 32⟩
def FP_ENABLE : Field := ⟨0x110, 0, 1, .rw, 0, 14, 32⟩
def FP_LOG2 : Field := ⟨0x110, 1, 5, .rw, 4, 14, 32⟩
def FP_ERR : Field := ⟨0x110, 6, 1, .ro, 0, 14, 32⟩
def FP_CR_HEAD : Field := ⟨0x114, 0, 16, .ro, 0, 14, 32⟩
/-! 17_reeve_and_firmware.md R601: page reeve -/
def RV_STATE : Field := ⟨0x040, 0, 3, .ro, 0, 1, 4⟩
def RV_PENDING : Field := ⟨0x040, 3, 1, .ro, 0, 1, 4⟩
def RV_UPDATING : Field := ⟨0x040, 4, 1, .ro, 0, 1, 4⟩
def RV_LOCKSTEP_ERRS : Field := ⟨0x040, 5, 2, .ro, 0, 1, 4⟩
def RV_SLOT_B : Field := ⟨0x040, 7, 6, .ro, 0, 1, 4⟩
def RV_ROLLED_BACK : Field := ⟨0x040, 13, 1, .ro, 0, 1, 4⟩
def RV_SLOT_ID : Field := ⟨0x044, 0, 5, .ro, 0, 1, 4⟩
def RV_FEED_ID : Field := ⟨0x044, 5, 4, .ro, 0, 1, 4⟩
def RV_IMAGE_VER : Field := ⟨0x048, 0, 32, .ro, 0, 6, 4⟩
def RV_ROM_VER : Field := ⟨0x060, 0, 32, .ro, 0, 1, 4⟩
def RV_BOOTS : Field := ⟨0x064, 0, 32, .ro, 0, 1, 4⟩
def RV_LG_NEWEST_LO : Field := ⟨0x068, 0, 32, .ro, 0, 1, 4⟩
def RV_LG_NEWEST_HI : Field := ⟨0x06C, 0, 32, .ro, 0, 1, 4⟩
def RV_LG_OLDEST_LO : Field := ⟨0x070, 0, 32, .ro, 0, 1, 4⟩
def RV_LG_OLDEST_HI : Field := ⟨0x074, 0, 32, .ro, 0, 1, 4⟩
def RV_LG_SELECT_LO : Field := ⟨0x078, 0, 32, .rw, 0, 1, 4⟩
def RV_LG_SELECT_HI : Field := ⟨0x07C, 0, 32, .rw, 0, 1, 4⟩
def RV_LG_DATA : Field := ⟨0x080, 0, 32, .ro, 0, 16, 4⟩
def RV_REQ_OP : Field := ⟨0x0C0, 0, 8, .wo, 0, 1, 4⟩
def RV_REQ_ARG : Field := ⟨0x0C0, 8, 3, .wo, 0, 1, 4⟩
def RV_DONE : Field := ⟨0x0C4, 0, 1, .ro, 1, 1, 4⟩
def RV_LG_GONE : Field := ⟨0x0C4, 1, 1, .ro, 0, 1, 4⟩
def RV_RES_CODE : Field := ⟨0x0C4, 8, 8, .ro, 0, 1, 4⟩
def RV_COOLANT_SENSOR : Field := ⟨0x0C8, 0, 16, .sp, 0, 1, 4⟩
def RV_FW_CHECK : Field := ⟨0x0CC, 0, 8, .ro, 0, 1, 4⟩
def RV_FW_IMAGE : Field := ⟨0x0CC, 8, 4, .ro, 0, 1, 4⟩
def RV_FW_SLOT : Field := ⟨0x0CC, 12, 1, .ro, 0, 1, 4⟩
def RV_LG_SUPPRESSED : Field := ⟨0x0D0, 0, 32, .ro, 0, 1, 4⟩
def RV_SP_DISCARDS : Field := ⟨0x0D4, 0, 32, .ro, 0, 1, 4⟩
def RV_FW_CHECK_FAILS : Field := ⟨0x0D8, 0, 32, .ro, 0, 1, 4⟩
/-! 18_register_pages.md R609: page common -/
def BLK_KIND : Field := ⟨0x000, 0, 8, .ro, 0, 1, 4⟩
def BLK_INSTANCE : Field := ⟨0x000, 8, 12, .ro, 0, 1, 4⟩
def BLK_DIE : Field := ⟨0x000, 20, 3, .ro, 0, 1, 4⟩
def BLK_MINOR : Field := ⟨0x004, 0, 8, .ro, 0, 1, 4⟩
def BLK_MAJOR : Field := ⟨0x004, 8, 8, .ro, 1, 1, 4⟩
def BLK_STEPPING : Field := ⟨0x004, 16, 8, .ro, 176, 1, 4⟩
def BLK_CLEAR_FAULT : Field := ⟨0x008, 0, 1, .wo, 0, 1, 4⟩
def BLK_PRESENT : Field := ⟨0x00C, 0, 1, .ro, 1, 1, 4⟩
def BLK_FENCED : Field := ⟨0x00C, 1, 1, .ro, 0, 1, 4⟩
def BLK_RETIRED : Field := ⟨0x00C, 2, 1, .ro, 0, 1, 4⟩
def BLK_FAULT : Field := ⟨0x00C, 3, 1, .ro, 0, 1, 4⟩
def BLK_LOCKED : Field := ⟨0x00C, 4, 1, .ro, 0, 1, 4⟩
def BLK_FAULT_EN : Field := ⟨0x010, 0, 1, .ro, 1, 1, 4⟩
def BLK_CLASS_EN : Field := ⟨0x010, 1, 4, .rw, 15, 1, 4⟩
def BLK_SEEN : Field := ⟨0x014, 0, 5, .w1c, 0, 1, 4⟩
def BLK_FAULT_CODE : Field := ⟨0x018, 0, 32, .ro, 0, 1, 4⟩
def BLK_FAULT_INFO : Field := ⟨0x01C, 0, 32, .ro, 0, 1, 4⟩
def BLK_PART : Field := ⟨0x020, 0, 3, .rw, 0, 1, 4⟩
def BLK_ASSIGNED : Field := ⟨0x020, 3, 1, .rw, 0, 1, 4⟩
def BLK_HOLDER : Field := ⟨0x024, 0, 3, .rw, 0, 1, 4⟩
/-! 18_register_pages.md R622: page device -/
def DEV_CLEAR_COUNTS : Field := ⟨0x040, 0, 1, .wo, 0, 1, 4⟩
def DEV_PART_ID : Field := ⟨0x044, 0, 16, .ro, 1028, 1, 4⟩
def DEV_STEPPING : Field := ⟨0x044, 16, 8, .ro, 176, 1, 4⟩
def DEV_SERVED : Field := ⟨0x048, 0, 10, .ro, 0, 1, 4⟩
def DEV_FREE_SPARES : Field := ⟨0x048, 10, 6, .ro, 0, 1, 4⟩
def DEV_HAMLETS_ONLINE : Field := ⟨0x048, 16, 16, .ro, 0, 1, 4⟩
def DEV_TIME_LO : Field := ⟨0x04C, 0, 32, .ro, 0, 1, 4⟩
def DEV_TIME_HI : Field := ⟨0x050, 0, 32, .ro, 0, 1, 4⟩
def DEV_WRITES_DISCARDED : Field := ⟨0x054, 0, 32, .ro, 0, 1, 4⟩
def DEV_RSVD_WRITES : Field := ⟨0x058, 0, 32, .ro, 0, 1, 4⟩
def DEV_LOCK_TIMEOUTS : Field := ⟨0x05C, 0, 32, .ro, 0, 1, 4⟩
/-! 18_register_pages.md R623: page hostIf -/
def HI_CLEAR_COUNTS : Field := ⟨0x040, 0, 1, .wo, 0, 1, 4⟩
def HI_SPEED : Field := ⟨0x044, 0, 4, .ro, 0, 1, 4⟩
def HI_WIDTH : Field := ⟨0x044, 4, 5, .ro, 0, 1, 4⟩
def HI_FLIT : Field := ⟨0x044, 9, 1, .ro, 0, 1, 4⟩
def HI_NUM_VFS : Field := ⟨0x048, 0, 4, .ro, 0, 1, 4⟩
def HI_VF_ENABLE : Field := ⟨0x048, 4, 1, .ro, 0, 1, 4⟩
def HI_WEDGED : Field := ⟨0x048, 5, 8, .ro, 0, 1, 4⟩
def HI_AER_CORRECTABLE : Field := ⟨0x04C, 0, 32, .ro, 0, 1, 4⟩
def HI_AER_UNCORRECTABLE : Field := ⟨0x050, 0, 32, .ro, 0, 1, 4⟩
def HI_POISON_RX : Field := ⟨0x054, 0, 32, .ro, 0, 1, 4⟩
def HI_LINK_RETRAINS : Field := ⟨0x058, 0, 32, .ro, 0, 1, 4⟩
/-! 18_register_pages.md R624: page hamlet -/
def HAM_ONLINE : Field := ⟨0x040, 0, 1, .ro, 0, 1, 4⟩
def HAM_FENCED : Field := ⟨0x040, 1, 1, .ro, 0, 1, 4⟩
def HAM_FREE_SPARES : Field := ⟨0x040, 2, 2, .ro, 0, 1, 4⟩
def HAM_PHYS : Field := ⟨0x080, 0, 6, .rw, 0, 38, 4⟩
def HAM_STATE : Field := ⟨0x080, 6, 2, .ro, 0, 38, 4⟩
/-! 18_register_pages.md R625: page die -/
def DIE_CLEAR_COUNTS : Field := ⟨0x040, 0, 1, .wo, 0, 1, 4⟩
def DIE_LINK_COMMONS : Field := ⟨0x044, 0, 2, .ro, 0, 1, 4⟩
def DIE_LINK_NEXT : Field := ⟨0x044, 2, 2, .ro, 0, 1, 4⟩
def DIE_LINK_PREV : Field := ⟨0x044, 4, 2, .ro, 0, 1, 4⟩
def DIE_FENCED : Field := ⟨0x044, 6, 1, .ro, 0, 1, 4⟩
def DIE_KEYS_LOADED : Field := ⟨0x044, 7, 8, .ro, 0, 1, 4⟩
def DIE_LANE_REPAIRS : Field := ⟨0x048, 0, 32, .ro, 0, 1, 4⟩
def DIE_REPLAYS : Field := ⟨0x04C, 0, 32, .ro, 0, 1, 4⟩
def DIE_LINK_LOSSES : Field := ⟨0x050, 0, 32, .ro, 0, 1, 4⟩
/-! 11_data_movement.md R387: page channel -/
def MC_MERGED : Field := ⟨0x068, 0, 32, .ro, 0, 1, 4⟩

end F

/-- The fields of the croft page. -/
def fieldsCroft : List Field :=
  [F.SEQ_CTRL_STOP, F.SEQ_CTRL_SERVICE, F.SEQ_CTRL_ABANDON, F.SEQ_CTRL_CLEAR_HALT, F.SEQ_CTRL_CLEAR_COUNTS,
   F.SEQ_CTRL_PURGE, F.SEQ_CTRL_PURGE_STEP, F.SEQ_CTRL_PURGE_TAG, F.SEQ_STATUS_OCCUPIED, F.SEQ_STATUS_HALTED,
   F.SEQ_STATUS_HUMMING, F.SEQ_STATUS_BUSY, F.SEQ_STATUS_FENCED, F.BOLT_TABLE_BASE_LO, F.BOLT_TABLE_BASE_HI,
   F.COMMITTED_STEP, F.TASKS_DONE, F.DEADLINE_MISSES, F.LAST_STARTED, F.GZ_CTRL_STEAL, F.GZ_CTRL_ACC_CLEAR,
   F.GZ_CTRL_CLEAR_COUNTS, F.GZ_CTRL_CLEAR_FAULT, F.GZ_STATUS_RUNNING, F.GZ_STATUS_WEFT, F.GZ_STATUS_LANE,
   F.GZ_STATUS_LENT, F.GZ_STATUS_SLOTS_VALID, F.GZ_STATUS_HOLD_USED, F.GZ_ACC_BASE, F.GZ_ACC_SLOTS,
   F.GZ_ENTRIES, F.GZ_HOLDS, F.GZ_FILL_STALLS, F.GZ_IDLE_UNIT_CYCLES, F.GZ_HOLDSTORE_STALLS, F.GZ_SKIPPED,
   F.GZ_STEALS, F.GZ_BORROWED, F.GZ_USEFUL] ++
  [F.GZ_FAULT_CHECK, F.GZ_FAULT_TILE_K, F.GZ_FAULT_AT_WHERE, F.GZ_FAULT_AT_IS_ROW, F.LM_CTRL_ACC_CLEAR,
   F.LM_CTRL_CLEAR_COUNTS, F.LM_STATUS_RUN_A, F.LM_STATUS_RUN_B, F.LM_STATUS_PAIR, F.LM_STATUS_RATE8_A,
   F.LM_STATUS_RATE8_B, F.LM_STATUS_BORROWED, F.LM_STATUS_LENT, F.LM_STATUS_SLOTS_VALID, F.LM_ACC_BASE,
   F.LM_ACC_SLOTS, F.LM_SLOTS_RUN, F.LM_SLOTS_SKIPPED, F.LM_OPERAND_STALLS, F.LM_BORROWED, F.LM_LENT,
   F.LM_USEFUL, F.LK_CTRL_CLEAR_COUNTS, F.LK_CTRL_RECALL_EVENT, F.LK_CTRL_RECALL_FLOOR, F.LK_RECALL_BASE,
   F.LK_ENABLE, F.LK_VALID, F.LK_BYPASSED, F.LK_SAMPLED, F.LK_TRUE, F.LK_HITS, F.NUM_CTRL_SR_ACT,
   F.NUM_CTRL_SR_SAVE, F.NUM_CTRL_SHADOW_EN, F.NUM_CTRL_SHADOW_EVENT, F.NUM_CTRL_SHADOW_S,
   F.NUM_CTRL_CLEAR_COUNTS, F.NUM_STATUS_STATS_ENTRIES, F.NUM_STATUS_SHADOW_BUSY] ++
  [F.NUM_OVERFLOWS, F.NUM_LONG_SUMS, F.NUM_EVICTIONS, F.SH_TILES, F.SH_BIN, F.FN_CTRL_CLEAR_COUNTS,
   F.FN_CTRL_CLEAR_FAULT, F.FN_STATUS_RUNNING, F.FN_STATUS_DERIV, F.FN_STATUS_SLOT, F.FN_STATUS_SAVE,
   F.FN_TABLE_BASE, F.FN_FAULT_CHECK, F.FN_FAULT_OFFSET, F.FN_ELEMENTS, F.FN_TAILS, F.FN_DROPPED,
   F.MV_CTRL_CLEAR_COUNTS, F.MV_CTRL_CLEAR_FAULT, F.MV_STATUS_RUNNING, F.MV_STATUS_OP, F.MV_STATUS_SWAP,
   F.MV_STATUS_TILES_LEFT, F.MV_FAULT_CHECK, F.MV_FAULT_GZ_CHECK, F.MV_FAULT_TILE, F.MV_PRUNED, F.MV_GROWN,
   F.MV_SHORTFALL, F.MV_TILES_WOVEN, F.MV_FORM_CHANGES, F.MV_M2_ROUNDED, F.MV_RES_DROPPED, F.SP_SEED_LO,
   F.SP_SEED_HI, F.STEP_NOW_LO, F.STEP_NOW_HI, F.SP_CTRL_PROBE, F.SP_CTRL_CLEAR_COUNTS,
   F.SP_STATUS_PROBE_DONE] ++
  [F.SP_PROBE_CTR, F.SP_PROBE_OUT, F.SP_EVALS, F.SP_WAIT_CYCLES, F.UP_CTRL_CLEAR_COUNTS, F.UP_CTRL_CLEAR_FAULT,
   F.UP_STATUS_RUNNING, F.UP_STATUS_LAYER, F.UP_FAULT_CHECK, F.UP_FAULT_GZ_CHECK, F.UP_FAULT_TILE,
   F.UP_ELEMENTS, F.UP_LOST, F.UP_NONFINITE_G, F.UP_OFFMASK, F.UP_SATURATED, F.SH_CTRL_CLEAR_COUNTS,
   F.SH_CTRL_CLEAR_RATES, F.SH_STATUS_STREAMS, F.SH_STATUS_SLOTS_USED, F.SH_STATUS_COURIER_USED,
   F.SH_STATUS_PICKER_BUSY, F.SH_STATUS_STAGING, F.SH_STAGE_BASE, F.SH_STAGE_EN, F.SH_RATE_READY,
   F.SH_BYTES_READ, F.SH_BYTES_WRITTEN, F.SH_COURIER_OPS, F.SH_STREAM_WAITS, F.SH_LATE_PIECES, F.SH_DRY_CYCLES,
   F.PK_ROWS, F.PK_SKIPPED, F.PK_REROUNDED, F.SH_ABANDON_POINT, F.SH_STREAM_USER, F.SH_STREAM_DIR,
   F.SH_STREAM_SPACE, F.SH_STREAM_SLOTS] ++
  [F.SH_STREAM_LATE, F.CP_CTRL_POINT_REQ, F.CP_CTRL_CLEAR_COUNTS, F.CP_CTRL_HUM_HOLD_US, F.CP_CTRL_HUM_FLOOR,
   F.CP_STATUS_POINT, F.CP_STATUS_CHANGING, F.CP_STATUS_STATE, F.CP_STATUS_PACE, F.CP_STATUS_CAP_POINT,
   F.CP_STATUS_MARGIN_ALARM, F.CP_STATUS_TEMP, F.CP_POINT_VOLT_MV, F.CP_POINT_WITHDRAWN, F.CP_POINT_FREQ_MHZ,
   F.CP_DRIFT, F.CP_R_MKW, F.CP_TAU_US, F.CP_HUM_CYCLES, F.CP_PACED_CYCLES, F.CP_POINT_CHANGES]

/-- The fields of the hbm page. -/
def fieldsHbm : List Field :=
  [F.HB_SCRUB_EN, F.HB_CLEAR_COUNTS, F.HB_SCRUB_HOURS, F.HB_RETRAIN_MS, F.HB_ONLINE, F.HB_FENCED, F.HB_REFRESH,
   F.HB_RETRAINING, F.HB_RETRAIN_PC, F.HB_TEMP, F.HB_DEFAULT_SLACK, F.HB_PC_OFFLINE_LO, F.HB_PC_OFFLINE_HI,
   F.HB_CE, F.HB_UE, F.HB_POISON_READS, F.HB_RETRAINS, F.HB_PPR_DONE, F.HB_DEADLINE_MISSES, F.HB_PPR_LEFT,
   F.HB_LAST_UE_LO, F.HB_LAST_UE_HI, F.HB_MERGE_HOLD, F.HB_MERGED]

/-- The fields of the channel page. -/
def fieldsChannel : List Field :=
  [F.MC_SCRUB_EN, F.MC_CLEAR_COUNTS, F.MC_SCRUB_HOURS, F.MC_KIND, F.MC_PRESENT, F.MC_ONLINE, F.MC_FENCED,
   F.MC_REFRESH_2X, F.MC_SLOTS, F.MC_RATE, F.MC_CAPACITY_MIB, F.MC_TEMP, F.MC_CE, F.MC_UE, F.MC_POISON_READS,
   F.MC_DEADLINE_MISSES, F.MC_LAST_UE_LO, F.MC_LAST_UE_HI, F.MC_MERGED]

/-- The fields of the memMap page. -/
def fieldsMemMap : List Field :=
  [F.MAP_TIER2_MODE, F.MAP_TIER3_MODE, F.MAP_APPLY, F.MAP_T2_SETS_ONLINE, F.MAP_T3_SETS_ONLINE, F.MAP_T2_GIB,
   F.MAP_T3_GIB, F.MAP_KEY_PART, F.MAP_KEY_GENERATE, F.MAP_KEY_DESTROY, F.MAP_KEY_VALID]

/-- The fields of the slice page. -/
def fieldsSlice : List Field :=
  [F.GR_MODE, F.GR_FLUSH, F.GR_INVALIDATE, F.GR_CLEAR_COUNTS, F.GR_BUSY, F.GR_DIRTY, F.GR_FENCED,
   F.GR_DIRTY_LINES, F.GR_HITS, F.GR_MISSES, F.GR_WRITEBACKS, F.GR_MERGES, F.GR_CE, F.GR_UE]

/-- The fields of the tally page. -/
def fieldsTally : List Field :=
  [F.TL_CLEAR_COUNTS, F.TL_CLEAR_FAULT, F.TL_STALL_EN, F.TL_STALL_US, F.TL_MAPPED, F.TL_WAITERS, F.TL_SELECT,
   F.TL_VALUE, F.TL_EPOCH, F.TL_REMAINING, F.TL_STATE_MAPPED, F.TL_STATE_CONTEXT, F.TL_STATE_CHECKED,
   F.TL_STATE_SAT, F.TL_STATE_OVER, F.TL_STATE_UNDER, F.TL_STATE_STRANDED, F.TL_STATE_HELD, F.TL_STATE_OPEN,
   F.TL_MAP_SEL_VIRTUAL, F.TL_MAP_SEL_CONTEXT, F.TL_MAP_DATA_PHYS, F.TL_MAP_DATA_VALID, F.TL_RESET_PHYS,
   F.TL_RESET_GO, F.TL_OPS, F.TL_RELEASES, F.TL_OVERFLOWS, F.TL_UNDERFLOWS, F.TL_STRANDED, F.TL_MISMATCHES,
   F.TL_SATURATIONS, F.TL_STALLS]

/-- The fields of the port page. -/
def fieldsPort : List Field :=
  [F.VP_ENABLE, F.VP_LANE_EN, F.VP_CLEAR_COUNTS, F.VP_REPLAY_LIMIT, F.VP_REPLAY_NS, F.VP_LANES_UP, F.VP_UP,
   F.VP_FENCED, F.VP_LANES_SLOW, F.VP_PEER_DEVICE, F.VP_PEER_PORT, F.VP_PEER_JOB, F.VP_RTT_NS, F.VP_FLITS_TX,
   F.VP_FLITS_RX, F.VP_CRC_ERRORS, F.VP_REPLAYS, F.VP_FEC_CORRECTED, F.VP_FEC_UNCORRECTABLE, F.VP_FORWARDED,
   F.VP_DISCARDED, F.VP_LANE_LOSSES]

/-- The fields of the mill page. -/
def fieldsMill : List Field :=
  [F.ML_CLEAR_COUNTS, F.ML_JOBS_ENABLED, F.ML_CONTRIBS_SENT, F.ML_CONTRIBS_RECEIVED, F.ML_BUCKETS_REDUCED,
   F.ML_REDUCED_SENT, F.ML_STALE, F.ML_DUPLICATES, F.ML_MALFORMED, F.ML_MISMATCHES, F.ML_RESENT, F.ML_CHECKED,
   F.ML_VERDICTS_COMMIT, F.ML_VERDICTS_REPEAT, F.ML_VERDICTS_STOP, F.ML_LOST_PACKETS, F.ML_JOB_DEVICE_ID,
   F.ML_JOB_ENABLE, F.ML_JOB_ROOT, F.ML_JOB_JOB_ID, F.ML_JOB_PARENT, F.ML_JOB_NCHILD, F.ML_JOB_REPEAT_LIMIT,
   F.ML_JOB_VERDICT_WAIT_US, F.ML_JOB_VERDICT_LOST_US, F.ML_JOB_ACK_TIMEOUT_US, F.ML_JOB_TABLE_BASE_LO,
   F.ML_JOB_TABLE_BASE_HI, F.ML_JOB_ACTIVE_PLANS_LO, F.ML_JOB_ACTIVE_PLANS_HI, F.ML_JOB_EPOCH, F.ML_JOB_LOCAL,
   F.ML_JOB_CHILDREN_READY, F.ML_JOB_LAST_VERDICT, F.ML_JOB_LAST_REASON, F.ML_JOB_READY, F.ML_JOB_REPEAT,
   F.ML_JOB_REASON, F.ML_JOB_RELOAD, F.ML_JOB_BASE_GIB] ++
  [F.ML_JOB_SIZE_GIB, F.ML_JOB_READ_EN, F.ML_JOB_WRITE_EN, F.ML_PAR_ENABLE, F.ML_PAR_LOAD,
   F.ML_PAR_REBUILD_CLEAR, F.ML_PAR_FAIL_ADD, F.ML_PAR_CLEAR_COUNTS, F.ML_PAR_GROUPS_LOADED, F.ML_PAR_CLEARING,
   F.ML_PAR_FEED_OVERRIDE, F.ML_PAR_FEED_ID, F.ML_PAR_GROUP_TABLE_LO, F.ML_PAR_GROUP_TABLE_HI,
   F.ML_PAR_RB_BASE_LO, F.ML_PAR_RB_BASE_HI, F.ML_PAR_RB_MIB, F.ML_PAR_C_INIT_MS, F.ML_PAR_C_MS, F.ML_PAR_M0_H,
   F.ML_PAR_W, F.ML_PAR_T_MIN_S, F.ML_PAR_T_MAX_S, F.ML_PAR_FAILURES, F.ML_PAR_M_S, F.ML_PAR_T_S,
   F.ML_PAR_ROUNDS, F.ML_PAR_ROUNDS_VALID, F.ML_PAR_ROUNDS_ABANDONED]

/-- The fields of the repair page. -/
def fieldsRepair : List Field :=
  [F.REP_KIND, F.REP_INDEX, F.REP_ACTION, F.REP_BUSY, F.REP_RESULT, F.REP_FENCES, F.REP_PASSED, F.REP_RETIRED]

/-- The fields of the well page. -/
def fieldsWell : List Field :=
  [F.WELL_CLEAR_COUNTS, F.WELL_PEAK_EN, F.WELL_GUARD, F.WELL_SAG_V, F.WELL_BUS_V, F.WELL_BUS_I, F.WELL_PBAR_W,
   F.WELL_PSUST_W, F.WELL_PEAK_USED, F.WELL_PEAK_OK, F.WELL_STATE, F.WELL_CAP_W, F.WELL_DERATE, F.WELL_POOL,
   F.WELL_BASE, F.WELL_GRANT, F.WELL_DEMAND, F.WELL_PACE, F.WELL_PART_CAP_W, F.WELL_SAGS, F.WELL_UNDERVOLTS,
   F.WELL_SURGES, F.WELL_WINDOWS_SPENT, F.WELL_PACED_US, F.WELL_ENERGY_LO, F.WELL_ENERGY_HI]

/-- The fields of the steward page. -/
def fieldsSteward : List Field :=
  [F.SCH_LOOKAHEAD, F.SCH_STARVE_US, F.SCH_LOWER_US, F.SCH_RAISE_US, F.SCH_PART_POINT, F.SCH_BOOST_EN,
   F.SCH_HELD_POWER, F.SCH_HELD_THERMAL, F.SCH_STARVED, F.SCH_POINT_LOWERS]

/-- The fields of the thermal page. -/
def fieldsThermal : List Field :=
  [F.TH_T_CAP, F.TH_T_LIMIT, F.TH_T_TRIP, F.TH_T_IN, F.TH_STALE, F.TH_HOTTEST, F.TH_HOTTEST_ID, F.TH_POWERED_H,
   F.TH_NEXT_REPLAN_H, F.TH_REPLAN_REQ, F.TH_POINTS_WITHDRAWN, F.TH_MARGIN_ALARMS]

/-- The fields of the function page. -/
def fieldsFunction : List Field :=
  [F.FP_EV_ENABLE, F.FP_CLEAR_COUNTS, F.FP_CLEAR_ERR, F.FP_EV_LOG2, F.FP_ASSEMBLED, F.FP_CONFIDENTIAL,
   F.FP_QUIESCED, F.FP_WEDGED, F.FP_KEYS_LIVE, F.FP_EV_ERR, F.FP_SERVICE, F.FP_READY, F.FP_INFLIGHT_NOW,
   F.FP_EV_BASE_LO, F.FP_EV_BASE_HI, F.FP_EV_TAG_BASE_LO, F.FP_EV_TAG_BASE_HI, F.FP_EV_TAIL, F.FP_EV_PHASE,
   F.FP_EV_HELD, F.FP_MSIX_MAP0, F.FP_MSIX_MAP1, F.FP_MSIX_TYPES, F.FP_COUNT, F.FP_DELAY_US, F.FP_BAR2_BASE_LO,
   F.FP_BAR2_BASE_HI, F.FP_HT_ROOT_LO, F.FP_HT_ROOT_HI, F.FP_HT_BYTES, F.FP_INFLIGHT, F.FP_HOST_RD_NS,
   F.FP_LAST_COMMITTED_LO, F.FP_LAST_COMMITTED_HI, F.FP_EV_DROPPED, F.FP_BAR2_REFUSED, F.FP_CMDS_DONE,
   F.FP_RING_ERRORS, F.FP_HOST_ERRORS, F.FP_FAILED_TAGS] ++
  [F.FP_CR_BASE_LO, F.FP_CR_BASE_HI, F.FP_CR_TAG_BASE_LO, F.FP_CR_TAG_BASE_HI, F.FP_ENABLE, F.FP_LOG2,
   F.FP_ERR, F.FP_CR_HEAD]

/-- The fields of the reeve page. -/
def fieldsReeve : List Field :=
  [F.RV_STATE, F.RV_PENDING, F.RV_UPDATING, F.RV_LOCKSTEP_ERRS, F.RV_SLOT_B, F.RV_ROLLED_BACK, F.RV_SLOT_ID,
   F.RV_FEED_ID, F.RV_IMAGE_VER, F.RV_ROM_VER, F.RV_BOOTS, F.RV_LG_NEWEST_LO, F.RV_LG_NEWEST_HI,
   F.RV_LG_OLDEST_LO, F.RV_LG_OLDEST_HI, F.RV_LG_SELECT_LO, F.RV_LG_SELECT_HI, F.RV_LG_DATA, F.RV_REQ_OP,
   F.RV_REQ_ARG, F.RV_DONE, F.RV_LG_GONE, F.RV_RES_CODE, F.RV_COOLANT_SENSOR, F.RV_FW_CHECK, F.RV_FW_IMAGE,
   F.RV_FW_SLOT, F.RV_LG_SUPPRESSED, F.RV_SP_DISCARDS, F.RV_FW_CHECK_FAILS]

/-- The fields of the common page. -/
def fieldsCommon : List Field :=
  [F.BLK_KIND, F.BLK_INSTANCE, F.BLK_DIE, F.BLK_MINOR, F.BLK_MAJOR, F.BLK_STEPPING, F.BLK_CLEAR_FAULT,
   F.BLK_PRESENT, F.BLK_FENCED, F.BLK_RETIRED, F.BLK_FAULT, F.BLK_LOCKED, F.BLK_FAULT_EN, F.BLK_CLASS_EN,
   F.BLK_SEEN, F.BLK_FAULT_CODE, F.BLK_FAULT_INFO, F.BLK_PART, F.BLK_ASSIGNED, F.BLK_HOLDER]

/-- The fields of the device page. -/
def fieldsDevice : List Field :=
  [F.DEV_CLEAR_COUNTS, F.DEV_PART_ID, F.DEV_STEPPING, F.DEV_SERVED, F.DEV_FREE_SPARES, F.DEV_HAMLETS_ONLINE,
   F.DEV_TIME_LO, F.DEV_TIME_HI, F.DEV_WRITES_DISCARDED, F.DEV_RSVD_WRITES, F.DEV_LOCK_TIMEOUTS]

/-- The fields of the hostIf page. -/
def fieldsHostIf : List Field :=
  [F.HI_CLEAR_COUNTS, F.HI_SPEED, F.HI_WIDTH, F.HI_FLIT, F.HI_NUM_VFS, F.HI_VF_ENABLE, F.HI_WEDGED,
   F.HI_AER_CORRECTABLE, F.HI_AER_UNCORRECTABLE, F.HI_POISON_RX, F.HI_LINK_RETRAINS]

/-- The fields of the hamlet page. -/
def fieldsHamlet : List Field :=
  [F.HAM_ONLINE, F.HAM_FENCED, F.HAM_FREE_SPARES, F.HAM_PHYS, F.HAM_STATE]

/-- The fields of the die page. -/
def fieldsDie : List Field :=
  [F.DIE_CLEAR_COUNTS, F.DIE_LINK_COMMONS, F.DIE_LINK_NEXT, F.DIE_LINK_PREV, F.DIE_FENCED, F.DIE_KEYS_LOADED,
   F.DIE_LANE_REPAIRS, F.DIE_REPLAYS, F.DIE_LINK_LOSSES]

/-- The block-specific fields of a page kind. -/
def fieldsOf : PageKind → List Field
  | .croft => fieldsCroft
  | .hbm => fieldsHbm
  | .channel => fieldsChannel
  | .memMap => fieldsMemMap
  | .slice => fieldsSlice
  | .tally => fieldsTally
  | .port => fieldsPort
  | .mill => fieldsMill
  | .repair => fieldsRepair
  | .well => fieldsWell
  | .steward => fieldsSteward
  | .thermal => fieldsThermal
  | .function => fieldsFunction
  | .reeve => fieldsReeve
  | .common => fieldsCommon
  | .device => fieldsDevice
  | .hostIf => fieldsHostIf
  | .hamlet => fieldsHamlet
  | .die => fieldsDie

end Sys2Proof.Machine
end

