-- ==== Sys2Proof/Machine/State.lean ====
section
/-!
DEFINITION. The state of the device as plain data, grouped by block, and the state right after reset.
-/
namespace Sys2Proof.Machine

/-! ### Crofts -/

/-- What a task of a croft's queue is doing (03 R82 to R87): waiting to start, running, or complete but for the
acknowledgement of its DONE_TALLY addition (12 R400). -/
inductive Phase where
  | queued | running | leaving
deriving DecidableEq, Repr

/-- One occupied slot of a croft's queue (03 R82). -/
structure Task where
  uid : Nat            -- the model's own number of the task, device-wide
  desc : Desc          -- the descriptor
  release : Nat        -- when the dispatch core enqueued it (03 R89)
  satisfied : Bool     -- its WAIT_TALLY condition has been satisfied (03 R86)
  registered : Bool    -- a registration of it is held at, or on its way to, the tally file (12 R397)
  phase : Phase
  worked : Bool        -- the unit has finished; only its traffic and acknowledgements remain (03 R87)
  abandon : Bool       -- ABANDON has been written while it ran (03 R100)
  batch : Nat          -- tiles, blocks or records for which it has named transfers (11 R353)
  readNamed : Nat      -- bytes of the read transfers it has named (11 R352: o_p counts them)
  writeNamed : Nat     -- bytes of the write transfers it has named
  readBack : Nat       -- bytes of its read transfers that have come back (11 R352: c)
  overlap : Nat        -- a COPY of overlapping spans: 1 = its pieces ascend, 2 = they descend (11 R373); else 0
  started : Nat        -- when it started
  bb : Nat             -- BB_GEN of its partition when it started (16 R567)
  cmd : Nat            -- the host command it belongs to, 0 when none
deriving DecidableEq, Repr

/-- A descriptor on fabric class 0 on its way to a croft (03 R91). -/
structure Arrival where
  desc : Desc
  release : Nat
  cmd : Nat
deriving DecidableEq, Repr

/-- A transfer a running task makes outside its larder: a stream of more than 256 bytes or a courier transfer
(11 R345, R350). -/
structure Xfer where
  uid : Nat
  unit : Nat           -- unit class: 0 G, 1 L, 2 F, 3 U, 4 P, 5 S, 6 Q
  space : Nat
  addr : Nat
  len : Nat            -- bytes of one row
  rows : Nat           -- rows at a fixed stride, 1 for contiguous bytes (11 R345)
  stride : Nat
  write : Bool
  lo : Nat             -- bounds of the stream: [lo, hi) (11 R345)
  hi : Nat
  next : Nat           -- bytes already issued as pieces
  batch : Nat          -- which tile, block or record of its task it belongs to, 0 while not numbered (11 R353)
  tile : Nat           -- bytes of that tile in its direction
  offset : Nat         -- bytes of the task's transfers of its direction before this one (11 R352)
  back : Nat           -- bytes returned
  asked : Nat          -- when its unit asked for it (11 R346)
  picker : Bool        -- it goes by one of the picker's own two streams (11, before R377)
deriving DecidableEq, Repr

/-- A piece that holds a request slot, or a courier slot (11 R347, R350). -/
structure Piece where
  id : Nat
  uid : Nat
  unit : Nat
  stream : Nat         -- 0 to 5; 6 = courier; 8 and 9 = picker
  space : Nat
  addr : Nat
  len : Nat
  write : Bool
  deadline : Nat
  need : Nat           -- when its unit runs dry without it (11 R352)
  served : Bool        -- the memory has answered
  poison : Bool        -- with poison (10 R336)
  late : Bool
  issued : Nat
deriving DecidableEq, Repr

/-- A bolt as a task read it (02 R65, 03 R76). -/
structure Bolt where
  fmt : Nat
  cls : Nat
  flags : Nat
  tag : Nat
  rank : Nat
  meshRank : Nat
  switchNnz : Nat
  gen : Nat
  shape : List Nat
  meshShape : List Nat
  meshCoord : List Nat
  shardMap : List Nat
  pitch : Nat
  base : Nat
  dir : Nat
  scaleBase : Nat
  maskBase : Nat
  stats : Nat
deriving DecidableEq, Repr

/-! ### The gauze engine (04 R113 to R137) -/

/-- An entry on its way through the engine: output row and reduction row within the tile, value. -/
structure GzEntry where
  out : Nat
  red : Nat
  v : Val
deriving DecidableEq, Repr

/-- A pick (04 R120): tile counted from K_FIRST, the tile's first global reduction index, row or band, entries in issue
order, first cycle it may issue. -/
structure GzPick where
  tile : Nat
  base : Nat
  num : Nat
  entries : List GzEntry
  ready : Nat
deriving DecidableEq, Repr

/-- An open group (04 R123): where it belongs and the exact sums so far, one per live column. -/
structure GzCarry where
  tile : Nat
  base : Nat
  num : Nat
  row : Nat
  key : Nat            -- first reduction index of the group, counted globally
  sums : List PSum
deriving DecidableEq, Repr

/-- An issue unit: its queue, the pick it runs, its open group, and what it issued in the preceding cycle. -/
structure GzUnit where
  queue : List GzPick
  cur : Option GzPick
  carry : Option GzCarry
  last : Option (Nat × Nat)      -- output row and group of the last entry of the preceding cycle
deriving DecidableEq, Repr

/-- A group sum on its way to an accumulator: output row, first reduction index, its tile, one FP32 sum per column. -/
structure GSumRow where
  row : Nat
  key : Nat
  tile : Nat
  col : Nat                      -- first column
  sums : List GSum
deriving DecidableEq, Repr

/-- A heddle pane (04 R115 to R117): its tile, its rows as exact values, fill cycles left. -/
structure GzPane where
  tile : Nat
  rows : List (List Val)
  fill : Nat
deriving DecidableEq, Repr

/-- A tile on loan to the looms: counted from K_FIRST, with the directory entry that was read for it (04 R136, R137). -/
structure GzLent where
  tile : Nat
  word : Nat
deriving DecidableEq, Repr

/-- A running gauze task. -/
structure GzRun where
  uid : Nat
  weft : Bool
  width : Nat
  rate8 : Bool
  a : Bolt
  b : Bolt
  c : Bolt
  cols : Nat                     -- columns of the group that are live in B and in C
  rows : Nat                     -- live rows of the C tile
  next : Nat                     -- tiles dealt or lent so far
  started : Nat                  -- tiles up to the last one of which an entry has issued
  cycle : Nat
  panes : List GzPane
  units : List GzUnit
  lent : List GzLent             -- tiles on loan to the looms
  back : List GSumRow            -- the looms' group sums of the first of them, not yet with the collector
  held : List GSumRow            -- received and not yet folded; those not yet foldable fill the hold store (04 R129)
  tenter : SMap Cell             -- by 64·row + column of the group
  shadow : List PSum             -- the sampled cells' exact sums, empty when not sampled (06 R211)
  idle : Nat                     -- idle unit-cycles since the last issue
  begun : Bool                   -- a first entry has issued
deriving DecidableEq, Repr

/-! ### The looms (05 R146 to R171) -/

/-- A slot of a loom (05 R146): which product (0 = LOOM_FWD, 1 = dX, 2 = dW), output row block, output column block,
reduction block. -/
structure LmSlot where
  role : Nat
  ob : Nat
  nb : Nat
  rb : Nat
deriving DecidableEq, Repr

/-- A running LOOM_FWD or LOOM_PAIR. `bolts` are those of the operands in operand order. -/
structure LmRun where
  uid : Nat
  pair : Bool
  bolts : List (Option Bolt)
  next : Nat                     -- reduction or token tiles taken up so far
  sel : Nat                      -- LOOM: the looms that run it (05 R153)
  entry : Nat                    -- directory entry of the current A or W tile (04 R136)
  off : Nat                      -- where the values of the current A or W tile lie, from BASE
  slotsA : List LmSlot
  slotsB : List LmSlot
  dy : List (LmSlot × List (List Val))   -- dY sub-blocks that loom B has streamed and loom A loads (05 R162)
  wait : Option Nat              -- since when the looms wait for an operand
  lent : Bool                    -- the current tile is on loan to the gauze engine
  beam0 : SMap Cell              -- by 128·row + column
  beam1 : SMap Cell
  shadow0 : List PSum
  shadow1 : List PSum
deriving DecidableEq, Repr

/-- A started task of a unit that works tile by tile, block by block or record by record: the bolts it has read, what it
copied or computed at its start, the pieces done and their number, the spans (space, address, bytes) that an in-place COPY
has begun to write, and source tiles read ahead, by tile (11 R373, R375). -/
structure WorkRun where
  uid : Nat
  bolts : List (Option Bolt)
  data : List Nat
  next : Nat
  count : Nat
  firm : List (Nat × Nat × Nat)
  held : List (Nat × List (List Nat))
  asked : Bool                   -- the next piece has named what it reads
deriving DecidableEq, Repr

/-- A run before its first piece. -/
def WorkRun.start (uid : Nat) (bolts : List (Option Bolt)) (data : List Nat) (count : Nat) : WorkRun :=
  ⟨uid, bolts, data, 0, count, [], [], false⟩

/-- A task whose unit is free again while its last writes are on their way. A product task keeps its run, whose output cells and counts
take effect with its completion; `undo` holds what it has changed of its larder slots, as (offset, old bytes, new bytes), for a fault
before that (04 R142; 05 R170). An in-place COPY keeps the spans that it has begun to write and its number of tiles (11 R375). -/
structure Ending where
  uid : Nat
  gz : Option GzRun
  lm : Option LmRun
  undo : List (Nat × List Byte × List Byte)
  firm : List (Nat × Nat × Nat)
  done : Nat
deriving DecidableEq, Repr

/-- The shadow cells of a task whose work is done, by bin: they count when it completes (06 R210 to R213). -/
structure ShadowBins where
  uid : Nat
  bins : List Nat
deriving DecidableEq, Repr

/-- Partial counts of one statistics record (06 R202, R204). -/
structure StatEntry where
  addr : Nat                     -- STATS, as a bolt's BASE encodes it
  part : Nat
  elements : Nat
  zeros : Nat
  sats : Nat
  nonfin : Nat
  maxMag : Nat
  flags : Nat
deriving DecidableEq, Repr



/-- Bytes a task wants of a peer, or has received from it (13 R430). -/
structure PeerData where
  uid : Nat
  addr : Nat
  len : Nat
  parts : List (Nat × List Byte)   -- what has come, by offset
deriving DecidableEq, Repr

/-- Bytes a task writes to a peer and the peer has not yet acknowledged (13 R430). -/
structure PeerWrite where
  uid : Nat
  addr : Nat
  data : List Byte
  acked : Nat                  -- bytes acknowledged
deriving DecidableEq, Repr

/-- A tile of a built REWEAVE (08 R269): its local index, whether it changed, the new form, the four new directory words
(weight, first moment, second moment, residual), the new mask, the second moment's new scale slot, whether its record
belongs to the step, and whether the form changed. -/
structure WeaveTile where
  t : Nat
  changed : Bool
  twill : Bool
  words : List Nat
  mask : List Byte
  scales : List Byte
  record : Bool
  reformed : Bool
deriving DecidableEq, Repr

/-- A REWEAVE between its build and its swap. -/
structure WeaveRun where
  uid : Nat
  w : Bolt
  linings : List Bolt
  work : Bolt
  tiles : List WeaveTile
  swapped : Bool                   -- the swap phase has begun (08 R269)
deriving DecidableEq, Repr

/-- One croft beyond its registers and its larder. -/
structure Croft where
  queue : List Task                -- 16 slots, in arrival order
  arriving : List Arrival
  xfers : List Xfer                -- transfers asked for and not yet granted a stream or courier slot
  streams : SMap (Option Xfer)     -- the six streams, and the picker's two at 8 and 9
  rates : SMap (List (Nat × Nat))  -- by unit class: the last rate samples, (bytes, croft cycles)
  sampled : SMap Nat               -- by unit class: when its last tile had moved (11 R353)
  pieces : List Piece              -- pieces that hold slots
  peerIn : List PeerData
  peerOut : List PeerWrite
  stats : List StatEntry           -- partial counts, least recently used first
  shadow : List ShadowBins         -- shadow cells of tasks that have not completed
  gz : Option GzRun
  loom : Option LmRun
  weave : Option WeaveRun
  work : List WorkRun
  ending : List Ending             -- tasks whose last writes are on their way
  spin : List Nat                  -- spindle evaluations asked for and not served, by unit in serving order (09 R294)
deriving DecidableEq, Repr

/-- A croft after reset. -/
def Croft.reset : Croft := ⟨[], [], [], [], [], [], [], [], [], [], [], none, none, none, [], [], []⟩

/-- A statistics or report fold on its way to memory. -/
structure Fold where
  report : Bool                    -- an update report (09 R306), else a statistics record (06 R205)
  croft : Nat
  uid : Nat                        -- the task that sent it and waits for it, 0 for an eviction
  waits : List Nat                 -- other tasks of the croft that wait for it (06 R205, R206)
  part : Nat
  addr : Nat                       -- as a bolt's BASE encodes it
  data : List Nat                  -- the record's fields in order
deriving DecidableEq, Repr


/-! ### Memory system -/

/-- An interleave set in use (10 R321 to R324). -/
structure ISet where
  tier : Nat           -- 2 or 3
  num : Nat            -- set number under the mode
  chans : List Nat     -- channels or ports, ascending
  base : Nat           -- window base
  size : Nat           -- window bytes
deriving DecidableEq, Repr

/-- What the HDM decoder of an expander is programmed with (10 R324). -/
structure Hdm where
  port : Nat
  ways : Nat
  granularity : Nat    -- bytes
  position : Nat
deriving DecidableEq, Repr

/-- A request at a memory controller (10 R331). -/
structure Req where
  croft : Nat          -- requesting engine (10 R330): a physical croft; 608 + p and 616 + p = mill and host DMA channel of partition p
  piece : Nat          -- its piece; numbers rise in order of arrival
  part : Nat
  addr : Nat           -- space-0 address
  len : Nat
  write : Bool
  deadline : Nat
  arrival : Nat
  held : Bool          -- still waiting under MERGE_HOLD (11 R359)
deriving DecidableEq, Repr

/-- A line of a cache-mode granary slice (11 R361, R362): the line address, valid and dirty granules, last use. -/
structure Line where
  tag : Nat
  valid : BitVec 32
  dirty : BitVec 32
  used : Nat
deriving DecidableEq, Repr

/-- Row error history of tier 1 (10 R337): row key, when, and whether uncorrectable. -/
structure RowErr where
  row : Nat
  since : Nat
deriving DecidableEq, Repr

/-- The memory system. -/
structure MemSys where
  sets : List ISet                 -- interleave sets in use
  hdm : List Hdm                   -- what the expanders' decoders hold (10 R324)
  modules : List Module            -- what is plugged in (10 R326, 19 R639)
  trained : List Nat               -- pages of the channels and ports that have trained or linked (10 R343)
  perst : Nat                      -- CXL_PERST_N of the ports: bit x = X x is held in reset (19 R639)
  queues : SMap (List Req)         -- by controller code: the 64 it holds, then its admission queue (10 R331)
  waiting : List Req               -- requests of the mill and the host that wait in their engine (10 R330)
  slices : SMap (List Req)         -- pieces waiting at a granary slice
  lines : SMap (Option Line)       -- by slice·6144 + set·16 + way
  flushing : List Nat              -- slices with a flush or invalidation in progress
  failedSlices : List Nat          -- slices that failed as a whole (11 R365)
  poison : SMap Bool               -- poisoned granules, by first place of the granule
  keyTag : SMap Nat                -- key pair and tweak under which an outer-tier granule was written; 0 = plain (10 R340)
  keys : SMap Nat                  -- key generation in the partition's key slot; 0 = none
  nextKey : Nat
  rowErrs : List RowErr            -- correctable errors of tier-1 rows
  softRepairs : List Nat           -- rows repaired softly since the last reset
  trainFails : SMap Nat            -- retraining failures in succession, by pseudo-channel
  refreshDue : SMap Nat            -- when a bank's next refresh is due
  retrainDue : SMap Nat            -- when a pseudo-channel's next retraining is due
  retrainEnd : SMap Nat            -- end of a retraining stall
  bankBusy : SMap Nat              -- end of a bank's stall for a refresh or a soft repair (10 R332, R337), by pseudo-channel·16 + bank
  scrubPos : SMap Nat              -- next unit the patrol scrub reads, by controller page
  scrubDue : SMap Nat              -- when it is due, by controller page (10 R337)
  hotSince : SMap Nat              -- thermal event already raised per controller
deriving DecidableEq, Repr

/-! ### Tally file -/

/-- State of one physical tally (12 R389). -/
structure Tally where
  value : BitVec 32
  epoch : BitVec 32
  opened : Bool
  declared : BitVec 32
  checked : Bool
  remaining : BitVec 32
  sat : Bool
  overrun : Bool
  under : Bool
  stranded : Bool
  mapped : Bool
  context : Nat
  virt : Nat           -- the virtual ID that maps it, while mapped
deriving DecidableEq, Repr

/-- A tally after reset (12 R390). -/
def Tally.reset : Tally :=
  ⟨0, 0, false, 0, false, 0, false, false, false, false, false, 0, 0⟩

/-- Who issued a tally operation (12 R394). -/
inductive TallySrc where
  | task (c uid : Nat)       -- an addition or registration of a task
  | done (c uid : Nat)       -- a task's DONE_TALLY addition
  | control                  -- the steward's control core
  | mill
  | host
deriving DecidableEq, Repr

/-- What a tally operation does (12 R394). -/
inductive TallyKind where
  | add (a : Nat)
  | wait (w : Nat)
  | withdraw
  | expect (n e : Nat)
deriving DecidableEq, Repr

/-- A tally operation on fabric class 0. -/
structure TallyOp where
  ctx : Nat
  virt : Nat
  kind : TallyKind
  src : TallySrc
deriving DecidableEq, Repr

/-- A registration held (12 R397). -/
structure Waiter where
  phys : Nat
  value : Nat
  croft : Nat
  uid : Nat
  since : Nat
  stalled : Bool       -- WAIT_STALL raised (12 R401)
deriving DecidableEq, Repr

/-- The tally file (12 R388 to R409). -/
structure TallyFile where
  tallies : SMap Tally             -- by physical index
  maps : SMap Nat                  -- by context·4096 + virtual ID: PHYS + 1 when VALID, PHYS + 16,385 when not, 0 at reset
  waiters : List Waiter            -- ascending order of registration
  ops : List TallyOp               -- on the fabric, in arrival order
  releases : List (Nat × Nat)      -- (croft, task) releases on the fabric
deriving DecidableEq, Repr

/-! ### Host interface and partitions -/

/-- Progress of a host command (16 R541, R542). -/
inductive CmdPhase where
  | fetched                  -- passed to the control core, not started
  | running                  -- started
  | waiting                  -- a STEP behind an undecided step (16 R540)
  | done                     -- finished; its completion record is not yet written
deriving DecidableEq, Repr

/-- A command in flight (16 R542). -/
structure Cmd where
  uid : Nat
  fn : Nat
  ring : Nat
  slot : Nat
  words : Desc
  phase : CmdPhase
  status : Nat               -- 16 R543
  result : Nat
  left : Nat                 -- tasks not yet completed
  lost : Bool                -- ended by a function reset: no record is written (16 R560)
deriving DecidableEq, Repr

/-- An event record before it has a slot (16 R545). -/
structure Ev where
  type : Nat
  subtype : Nat
  source : Nat               -- SOURCE field
  part : Nat                 -- 0-7, 8 = NONE
  ledger : Bool
  time : Nat
  payload : BitVec 96
deriving DecidableEq, Repr

/-- An event ring (16 R547, R548). -/
structure EvRing where
  head : Nat                 -- EV_HEAD: next slot the host will read
  used : Nat                 -- slots written and not yet freed
  tail : Nat                 -- next slot the device writes
  phase : Bool
  seq : Nat                  -- SEQ[30:0] of the next record: records written and events dropped
  held : List Ev             -- the hold queue
  gap : Bool                 -- the next record written carries GAP
  sealed : Nat               -- records written since KEY_COMMIT (16 R566)
deriving DecidableEq, Repr

/-- An event ring after reset: slot 0, phase 1 (16 R547). -/
def EvRing.reset : EvRing := ⟨0, 0, 0, true, 0, [], false, 0⟩

/-- A quiesce in progress (16 R558). -/
structure Quiesce where
  start : Nat
  cmd : Nat                  -- the QUIESCE or QUIESCE_PART command, 0 for none
  fnReset : Bool             -- a function reset waits for its end
  upto : Nat                 -- the next command number when it began: later commands wait for its end
  purged : Bool              -- step 3 has been done
deriving DecidableEq, Repr

/-- Progress of one entry of the release order (15 R509). -/
structure Rel where
  desc : Desc
  croft : Nat                -- global croft index
  cmd : Nat
  failSince : Option Nat     -- first opportunity at which it failed to fit (15 R510)
  heldP : Bool               -- counted in HELD_POWER
  heldT : Bool               -- counted in HELD_THERMAL
deriving DecidableEq, Repr

/-- A cached translation (16 R551). -/
structure Trans where
  key : Nat                  -- VA[47:21], or VA[47:30] for a level-1 entry
  entry : Nat
deriving DecidableEq, Repr

/-- The step a partition runs (16 R540, 12 R403). -/
structure StepRun where
  step : Nat
  attempt : Nat
  cmd : Nat
  tasks : List Rel           -- the release order, for a repeat
  expects : List (Nat × Nat) -- virtual tally and producers
  reissue : Bool             -- a repeat verdict has purged it and it waits for empty crofts
  plans : Option Nat         -- ACTIVE_PLANS, to be written with STEP_NOW once every expect is acknowledged
deriving DecidableEq, Repr

/-- The steward's and host interface's state of one partition. -/
structure Part where
  quiesce : Option Quiesce
  stopCommits : Bool         -- no further commit (03 R97)
  repeatDue : Option Nat     -- a fault asks for a repeat with this REASON (03 R96)
  rel : List Rel             -- release order not yet enqueued
  run : Option StepRun
  committed : List StepRun   -- the committed steps whose commit-class tasks may still run, the last one last (03 R80)
  scrub : Bool               -- SCRUB of the partition descriptor (16 R531)
  ranges : List (Nat × Nat)  -- (START_GIB, COUNT_GIB) assigned
  l1 : List Trans            -- level-1 entries kept, newest last
  l2 : List Trans            -- translations kept, newest last
  bbGen : Nat                -- BB_GEN (16 R567)
  capLost : List Nat         -- global crofts without a spare: no step may use them (03 R107)
  poisoned : List (Nat × Nat) -- granules read poisoned in the step, each with the attempt (10 R336)
  begun : Bool               -- a commit-class task of the committed step has started (12 R402)
deriving DecidableEq, Repr

/-- The SPDM responder's state for one function (16 R562). -/
structure Spdm where
  version : Bool             -- GET_VERSION answered
  caps : Bool
  algs : Bool
  transcript : Nat           -- messages exchanged on the connection
  handshake : Option Nat     -- session begun by KEY_EXCHANGE, not finished
  session : Option Nat       -- established session
  heartbeat : Nat            -- time of the last message in the session
  keyGen : Nat               -- KEY_UPDATE count of the session
  chunks : List (List Byte)  -- CHUNK_SEND parts received
  largeOut : List Byte       -- large response being fetched by CHUNK_GET
deriving DecidableEq, Repr

/-- No SPDM connection. -/
def Spdm.reset : Spdm := ⟨false, false, false, 0, none, none, 0, 0, [], []⟩

/-- Key and salt of one direction (16 R563). -/
structure SealKey where
  key : List Byte            -- 32 bytes
  salt : List Byte           -- 4 bytes
deriving DecidableEq, Repr

/-- The four sealing values of a VF in use, and their counters (16 R563 to R567). -/
structure Seal where
  h2d : SealKey
  d2h : SealKey
  recCount : SMap Nat        -- records of each ring since KEY_COMMIT
  chunkCount : Nat           -- chunks the device has written
deriving DecidableEq, Repr

/-- A host read in flight beyond its issue (16 R554). -/
structure HostRead where
  croft : Nat
  piece : Nat
  part : Nat
  issued : Nat
deriving DecidableEq, Repr

/-- What the device has answered to the host over the link or the mailboxes. -/
inductive HostOut where
  | bar2 (fn : Nat) (data : Option (List Byte))   -- read completion; none = Unsupported Request
  | bar2Poison (fn : Nat)                         -- a read completion with poison
  | msix (fn vector : Nat)
  | spdm (fn : Nat) (code : Nat) (body : List Byte)
  | doe (fn : Nat) (body : List Byte)       -- the answer of DOE Discovery
  | mctp (code : Nat) (body : List Byte)    -- PLDM messages on the service port
  | control (code : Nat) (body : List Byte) -- answers to MCTP control messages there
deriving DecidableEq, Repr

/-- MSI-X of a function (16 R525, R544): enabled, masked as a whole, the double words of the table by number, and the pending vectors. -/
structure Msix where
  on : Bool
  masked : Bool
  table : SMap Nat
  waiting : List Nat
deriving DecidableEq, Repr

/-- PCI configuration space: the bases of BAR0, BAR2 and BAR4 of the PF and of the VFs, and the sizes of their BAR2 as a power of two in GiB
(16 R525, R526). -/
structure Pci where
  bars : List Nat
  vfBars : List Nat
  bar2 : Nat
  vfBar2 : Nat
deriving DecidableEq, Repr

/-- A host read that has come back: its function, when, and its round trip in ns (16 R550, R569). -/
structure RoundTrip where
  fn : Nat
  at_ : Nat
  ns : Nat
deriving DecidableEq, Repr

/-- The host interface. -/
structure HostIf where
  cmds : List Cmd                  -- commands in flight, in fetch order
  nextUid : Nat
  tails : SMap Nat                 -- CR_TAIL by function·16 + ring
  rings : SMap EvRing              -- by function
  msixPend : SMap (Option (Nat × Nat))   -- by function·16 + vector: (count, first pending time)
  lastRing : SMap Nat              -- ring served last, for the turn order (16 R536)
  spdm : SMap Spdm                 -- by function
  sealing : SMap (Option Seal)        -- by function
  reads : List HostRead
  out : List HostOut
  msix : SMap Msix                 -- by function
  pci : Pci
  aer : SMap Nat                   -- uncorrectable error status by function (16 R525)
  trips : List RoundTrip           -- the last millisecond's
deriving DecidableEq, Repr

/-! ### Verar lanes (13 R410 to R420) -/

/-- A DATA flit of a lane's sender; `seq` and `sent` hold once it has been sent. A forwarded flit stays in the buffer of the lane
it came in on until it leaves (13 R419). -/
structure TxFlit where
  pkt : Nat                      -- the model's number of its packet on this device
  vc : Nat
  head : Bool
  tail : Bool
  payload : List Byte
  seq : Nat
  sent : Nat
  came : Option Nat              -- the lane whose buffer holds it
deriving DecidableEq, Repr

/-- A packet on its way out of a lane: the flits it has and has not yet sent (13 R423, cut-through). -/
structure TxPkt where
  id : Nat
  vc : Nat
  flits : List TxFlit
deriving DecidableEq, Repr

/-- Where the flits of the packet go that is arriving on a channel of a lane. -/
inductive RxTo where
  | idle
  | mill (bytes : List Byte)
  | forward (lane id : Nat)
  | drop
deriving DecidableEq, Repr

/-- One lane. -/
structure Lane where
  aligned : Bool                 -- FEC alignment
  lostAt : Option Nat            -- alignment lost since
  up : Bool                      -- in service
  txSeq : Nat
  window : List TxFlit           -- the replay buffer, oldest first
  out : List TxPkt               -- packets with flits to send, oldest first
  credits : List Nat             -- flit credits held, by channel
  rxSeq : Nat
  asked : Bool                   -- a REPLAY_REQ has gone out since the last accepted flit
  owed : List Nat                -- credits to return, by channel
  unacked : Nat                  -- flits accepted since the last flit sent
  lastSent : Nat
  replays : List Nat             -- times of the replays of the last millisecond
  rx : List RxTo                 -- by channel
  peer : Option (Nat × Nat × Nat) -- device, port and JOB_ID that the HELLO of a lane in service names
deriving DecidableEq, Repr

/-- A lane out of service. -/
def Lane.reset : Lane :=
  ⟨false, none, false, 0, [], [], [32, 32, 32, 32], 0, false, [0, 0, 0, 0], 0, 0, [],
   [.idle, .idle, .idle, .idle], none⟩

/-- A packet that has arrived for a mill: the partition of its port (8 when the port has no owner), its bytes, and the port, if it
used one. -/
structure Inb where
  part : Nat
  bytes : List Byte
  port : Option Nat
deriving DecidableEq, Repr

/-- A packet that a task of this device issued. -/
structure PktOwner where
  id : Nat
  croft : Nat
  uid : Nat
deriving DecidableEq, Repr

/-! ### The mill (13 R421 to R458, 14 R461 to R484) -/

/-- A plan of the job's table block with its group (13 R432). -/
structure Plan where
  first : Nat
  count : Nat
  dense : Bool
  ret : Bool
  checkEn : Bool
  checkS : Nat
  k : Nat
  ownRun : Nat
  out0 : Nat
  out1 : Nat
  outSlot : Nat
  arrive : Nat
  store : Nat
  check : Nat
  size : Nat                     -- R of its group
  rank : Nat                     -- this device's rank
  devices : List Nat             -- the group's rank map
deriving DecidableEq, Repr

/-- A contribution sent and not yet acknowledged (13 R442). -/
structure Pend where
  step : Nat
  attempt : Nat
  bucket : Nat
  check : Bool
  croft : Nat
  uid : Nat
  dst : Nat
  arg1 : Nat
  body : List Byte
  routeB : Bool                  -- sent on route B
  resent : Bool
  sent : Nat
deriving DecidableEq, Repr

/-- What a mill knows of an epoch's votes (13 R452 to R456). -/
structure EpState where
  step : Nat
  attempt : Nat
  kids : List (Nat × Nat)        -- (child, 1 = ready, 2 = repeat)
  ready : Bool                   -- the steward has written READY
  cause : Option (Nat × Nat)     -- first cause of a repeat: REASON and device
  voted : Nat                    -- 0 = not yet, 1 = ready, 2 = repeat
  votedAt : Nat                  -- time of the first vote
  again : Nat                    -- 0, 1 = vote sent again, 2 = QUERY sent
  rootAt : Option Nat            -- when the root became locally ready with votes missing
  lost : Bool                    -- VERDICT_LOST_US has passed
deriving DecidableEq, Repr

/-- A verdict held (13 R456). -/
structure Verd where
  step : Nat
  attempt : Nat
  arg0 : Nat
  device : Nat
deriving DecidableEq, Repr

/-- A checker's digest that waits for the owner's bucket (13 R451). -/
structure Dig where
  step : Nat
  attempt : Nat
  bucket : Nat
  digest : Nat
  count : Nat
deriving DecidableEq, Repr

/-- An MWRITE, fold write or MREAD without its answer (13 R430, R431). -/
structure PeerAcc where
  kind : Nat                     -- 8 = MWRITE, 10 = MREAD
  fold : Bool
  dst : Nat
  off : Nat
  tag : Nat
  len : Nat
  croft : Nat
  uid : Nat
  piece : Nat                    -- its piece; 0 for a fold write
  sent : Nat
deriving DecidableEq, Repr

/-- A loaded parity group (14 R463). -/
structure ParGroup where
  k : Nat
  m : Nat
  mine : Nat
  segList : Nat
  segs : List (Nat × Nat × Nat)  -- (LIVE, SNAP, BYTES)
  header : Nat
  pBytes : Nat
  store : Nat
  devices : List Nat
  wins : List Nat
  target : Nat
  lost : Nat
  step : Nat                     -- REBUILD_STEP
  rbWin : Nat
  override : Bool
deriving DecidableEq, Repr

/-- The parity of one job. -/
structure Par where
  groups : SMap (Option ParGroup)
  enabledAt : Nat                -- when PAR_CTRL.ENABLE was last set
  commits : List Nat             -- times of the last five commit verdicts, newest first
  rounds : List Nat              -- steps announced as parity steps and not yet validated, newest first
  valid : Bool                   -- a round has been validated since the job was enabled
  lastRound : Nat                -- time of the commit verdict of the last parity step
  zeroing : List Nat             -- groups whose copy is being zeroed
  clearing : Bool                -- the rebuild buffer is being zeroed
  measured : Bool                -- C_MS holds an average (14 R479)
  abandoned : List Nat           -- parity steps whose round this device has abandoned (14 R476)
deriving DecidableEq, Repr

/-- A job of the mill. -/
structure Job where
  loaded : Bool
  kids : List Nat
  plans : List (Option Plan)
  routes : SMap Nat              -- by destination: the 8-byte entry
  step : Nat                     -- the current epoch
  attempt : Nat
  eps : List EpState
  pend : List Pend
  digests : List Dig
  verdicts : List Verd           -- the last 16, newest last
  seen : List (Nat × Nat × Nat)  -- votes received: (step, attempt, child)
  accs : List PeerAcc
  nextTag : Nat
  par : Par
deriving DecidableEq, Repr

/-- No parity. -/
def Par.reset : Par := ⟨[], 0, [], [], false, 0, [], false, false, []⟩
/-- A job that is not loaded. -/
def Job.reset : Job := ⟨false, [], [], [], 0, 0, [], [], [], [], [], [], 0, Par.reset⟩

/-- Links and mill. -/
structure Mill where
  lanes : SMap Lane              -- by 4·port + lane
  wire : List (Nat × Flit)       -- flits sent, by lane, oldest first
  inbox : List Inb
  owners : List PktOwner
  nextPkt : Nat
  jobs : SMap Job                -- by partition
  fencedLanes : List Nat         -- by 4·port + lane (14 R485)
deriving DecidableEq, Repr


/-! ### Power, clocks and the package -/

/-- A supply episode (15 R512): the extreme voltage in mV and when it began. -/
structure Episode where
  mv : Nat
  since : Nat
deriving DecidableEq, Repr

/-- The steward's prediction for a task it has enqueued (15 R515): the croft's temperature then in °C, and the rise in mK. -/
structure Forecast where
  temp : Int
  rise : Int
deriving DecidableEq, Repr

/-- A point change under way in a croft (15 R505). -/
structure PointChange where
  point : Nat
  till : Nat
deriving DecidableEq, Repr

/-- A substitution whose spare is ramping (03 R105): the spare, the fenced croft, the global index, end of the ramp. -/
structure Ramp where
  spare : Nat
  from_ : Nat
  index : Nat
  till : Nat
  reissue : List (Desc × Nat)    -- commit-class tasks of a committed step to reissue, with their commands
deriving DecidableEq, Repr

/-- The power path as a whole. -/
inductive Supply where
  | off                          -- rails off, waiting for the bus (19 R647)
  | on
  | stopping (cause since : Nat) -- an orderly stop (15 R513)
  | dead                         -- dead to host (17 R599)
deriving DecidableEq, Repr

/-- The well, the hamlet groups, the thermal controls and the package. -/
structure Power where
  supply : Supply
  mv : Nat                       -- last samples of the bus
  ma : Nat
  hist : List Nat                -- the bus voltages of the last 10 µs in mV, newest first
  sumMv : Nat                    -- samples of the period in progress
  sumMa : Nat
  samples : Nat
  meanMv : Nat                   -- mean bus voltage of the last period
  pbar : Nat                     -- Pbar in nW
  bins : List Nat                -- the 200 completed bins of the peak window, newest first
  bin : Nat
  binPeriods : Nat               -- periods of the bin in progress
  spent : Bool                   -- PEAK_EXHAUSTED has been raised in this window
  energy : Nat                   -- remainder of ENERGY in pJ
  sag : Option Episode
  under : Option Episode
  surge : Option Episode
  low : Option Nat               -- below 38 V since
  high : Option Nat              -- at 60 to 66 V since
  good : Option Nat              -- within 40 to 60 V since
  floors : SMap Nat              -- F_h, or the retention draw of a hamlet of no partition, in units
  base : Nat                     -- I_base in mA
  tests : List (Nat × Nat)       -- demands of units under self-test as last reported, by hamlet (15 R498)
  flying : List (Nat × Nat × Nat)  -- grants on fabric class 0: (hamlet, units, issued)
  grants : SMap Nat              -- G_h as the hamlet group holds it
  amps : SMap Nat                -- current of a hamlet group in mA, as last measured
  paced : SMap (Option Nat)      -- pacing below 16 since
  lowest : SMap Nat              -- lowest level of that time
  pacedEv : SMap (Option Nat)    -- last PACING event of a hamlet
  covered : SMap (Option Nat)    -- the grant covers the next higher point since
  hot : List Nat                 -- hamlets under the cap of R499
  cool : SMap (Option Nat)       -- croft below T_CAP − 5 °C since
  capEv : SMap (Option Nat)      -- last THERMAL_CAP event of a croft
  therm : SMap Nat               -- thermal pacing level of a croft
  idle : SMap (Option Nat)       -- croft hums since
  hum : SMap Nat                 -- hum level of a croft
  humStep : SMap Nat             -- when the hum level last moved
  gate : SMap Nat                -- level of a croft's ramp between Idle and Hum (15 R504)
  wake : SMap Nat                -- when the rail of a croft that leaves Retention is up (15 R504)
  pacedRest : SMap Nat           -- part of a cycle withheld and not yet in PACED_CYCLES, in 1/160 cycle
  humRest : SMap Nat             -- likewise for HUM_CYCLES
  forecast : SMap (Option Forecast) -- by croft: the prediction for the task enqueued last
  sensors : SMap Nat             -- latest reading of a thermal sensor, by index (15 R514, R523)
  change : SMap (Option PointChange)
  ramps : List Ramp
  replan : Bool                  -- a re-plan is in progress
  pwrgd : Bool                   -- PKG_PWRGD released
  alertN : Bool                  -- PKG_ALERT_N high
  perst : Bool                   -- PERST# asserted
  phy : Bool                     -- the PCI Express PHY is out of reset
  e0Lost : Bool                  -- the link between E0 and the commons is lost until a service reset (01 R30)
  link : Nat × Nat × Nat         -- speed, width and flit mode to which E0's PHY last trained (18 R623, 19 R649)
deriving DecidableEq, Repr


/-! ### The reeve -/

/-- A journal entry before or after its commit (17 R582); `seq` is assigned at the commit. -/
structure JEntry where
  seq : Nat
  time : Nat
  powered : Nat
  boot : Nat
  kind : Nat
  source : Nat
  part : Nat
  severity : Nat
  payload : BitVec 224
deriving DecidableEq, Repr

/-- What an image slot holds: the header and the body as the flash holds them (17 R587). -/
structure ImgSlot where
  header : Flit
  body : List Byte
deriving DecidableEq, Repr

/-- The images of the flash die and what the permanent area says of them (17 R581, R586, R590, R594 to R598; log entry 67). -/
structure Firmware where
  slots : SMap (Option ImgSlot)    -- by 2·image + slot, slot 0 = A
  selected : List Nat              -- slot selected for images 1 to 6
  running : List Nat               -- slot that images 1 to 6 run from
  group : List Nat                 -- images of the most recent activation group
  groupBefore : List Nat           -- the group before an activation that waits, to which a withdrawal returns
  floors : List Nat                -- security-version floors
  revoked : Nat
  staged : List Nat                -- staged slots, by 2·image + slot
  updating : Bool
  last : Nat                       -- transfer order of the last component accepted in this update
  current : Nat                    -- component being transferred, 0 = none
  fresh : Bool                     -- no READY since the last activation took effect
deriving DecidableEq, Repr

/-- The reeve. -/
structure Reeve where
  log : List JEntry                -- entries not yet committed, oldest first
  journal : List JEntry            -- committed, oldest first
  nextSeq : Nat
  second : Nat                     -- start of the second the kind counts belong to (17 R584)
  kindCount : SMap Nat             -- entries of a kind committed in the second
  suppressed : SMap Nat            -- entries of a kind held back in the second
  perm : SMap Word                 -- register words that the permanent area restores, by register key (17 R581, 18 R624)
  baseline : Option (List Nat)     -- the ageing baseline: every monitor's delay in ps, by 4·croft + monitor (15 R517)
  retired : List Nat               -- retired units by unit code
  hardRows : List Nat              -- rows repaired for good (10 R337)
  testing : List Nat               -- units under self-test, by unit code
  alone : List Nat                 -- crofts fenced on their own that have not returned (03 R106)
  asked : Option Nat               -- the unit of the repair page's action in progress
  fw : Firmware
  coolAsked : Option Nat           -- a GetSensorReading without its answer, since
  coolAt : Option Nat              -- time of the last valid coolant reading
  nextPoll : Nat
  mismatches : List Nat            -- lockstep mismatches within the hour
  restart : Option Nat             -- the reeve's island restarts since
  i3c : Option Nat                 -- I3C address in use
  eid : Nat                        -- MCTP endpoint ID, 0 = none
  tid : Nat                        -- PLDM terminus ID, 0 = none
  cause : Nat                      -- cause of the reset in progress, 0 = power-on
deriving DecidableEq, Repr


/-- A LO half written and not yet followed by its HI half, by register key of the LO half (18 R617). -/
abbrev LoLatch := SMap (Option Word)

/-- The whole device. -/
structure State where
  time : Nat                       -- the commons timebase in ns
  pending : List Instr             -- commands waiting, first in, first out
  free : Nat                       -- counter of the model's free values
  regs : SMap Word                 -- every register word, by block code·1024 + offset ÷ 4
  loLatch : LoLatch
  hiLatch : SMap (Option Word)     -- latched HI halves by requester and register (18 R617)
  subUnits : SMap Nat              -- remainders of counters that count in units of 1,024
  lockSince : SMap Nat             -- when a page's lock was taken (18 R615)
  mem : List Host.Cell             -- every byte of every memory, by place
  owners : SMap Byte               -- range owner table (18 R612)
  crofts : SMap Croft
  memsys : MemSys
  tally : TallyFile
  host : HostIf
  parts : SMap Part
  foldq : List Fold                -- statistics and report folds on their way to memory (06 R205, 09 R306)
  mill : Mill
  power : Power
  reeve : Reeve
  nextUid : Nat                    -- next task number
deriving DecidableEq, Repr

/-- Why the device stops: no command does; every fault of the device is an effect on State (an event, a fault
register, a verdict). The type therefore has no constructor. Safe: nothing is shut out by it. -/
inductive Fault where
deriving DecidableEq, Repr

/-- Why a command has no meaning. -/
inductive Refusal where
  /-- Raised by an arm of exec for a row that has no meaning yet, under the row's mnemonic. Safe: nothing can be
  proved of a run through it. -/
  | notModelled (mnemonic : String)
  /-- Raised by a meaning for a command that WellFormed refuses: its operands name no event of the device (a
  transfer of no bytes, for instance). Safe: no event of the hardware is shut out. -/
  | illFormed
deriving DecidableEq, Repr


/-! ### Reset (16 R557, 18 R621; log entry 5) -/

/-- The memory system before training. -/
def MemSys.reset : MemSys := ⟨[], [], [], [], 15, [], [], [], [], [], [], [], [], [], 0, [], [], [], [], [], [], [], [], [], []⟩
/-- The tally file after reset (12 R390): nothing mapped, no waiter. -/
def TallyFile.reset : TallyFile := ⟨[], [], [], [], []⟩
/-- MSI-X after reset: off; every vector is masked in the table (log entry 65). -/
def Msix.reset : Msix := ⟨false, false, [], []⟩
/-- PCI configuration space after reset: no base, BAR2 of 1 GiB (log entry 65). -/
def Pci.reset : Pci := ⟨[0, 0, 0], [0, 0, 0], 0, 0⟩
/-- The host interface after reset. -/
def HostIf.reset : HostIf := ⟨[], 1, [], [], [], [], [], [], [], [], [], Pci.reset, [], []⟩
/-- Links and mill after reset: every lane out of service, no job loaded. -/
def Mill.reset : Mill := ⟨[], [], [], [], 0, [], []⟩
/-- The power path after reset: rails up, the bus at its typical 54 V, Pbar at 7,250 W (15 R494), nothing paced. -/
def Power.reset : Power :=
  { supply := .on, mv := 54000, ma := 0, hist := [], sumMv := 0, sumMa := 0, samples := 0, meanMv := 54000
    pbar := 7250000000000, bins := [], bin := 0, binPeriods := 0, spent := false, energy := 0
    sag := none, under := none, surge := none, low := none, high := none, good := some 0
    floors := [], base := 0, tests := [], flying := [], grants := [], amps := [], paced := [], lowest := [], pacedEv := []
    covered := [], hot := [], cool := [], capEv := [], therm := [], idle := [], hum := []
    humStep := [], gate := [], wake := [], pacedRest := [], humRest := [], forecast := [], sensors := [], change := [], ramps := []
    replan := false, pwrgd := true, alertN := true, perst := true, phy := false, e0Lost := false
    link := (0, 0, 0) }
/-- The flash as the factory leaves it: slot A of every image selected and running. -/
def Firmware.reset : Firmware :=
  ⟨[], [0, 0, 0, 0, 0, 0], [0, 0, 0, 0, 0, 0], [], [], [0, 0, 0, 0, 0, 0], 0, [], false, 0, 0, false⟩
/-- The reeve after reset, with an empty ledger. -/
def Reeve.reset : Reeve :=
  { log := [], journal := [], nextSeq := 0, second := 0, kindCount := [], suppressed := [], perm := []
    baseline := none, retired := [], hardRows := [], testing := [], alone := [], asked := none, fw := Firmware.reset
    coolAsked := none, coolAt := none, nextPoll := 0, mismatches := [], restart := none, i3c := none, eid := 0, tid := 0
    cause := 0 }

/-- The machine right after reset: every register at the value of its Reset column (an unlisted register word reads
as it), READY 0, nothing waiting, memory with nothing listed. -/
def State.reset : State :=
  { time := 0, pending := [], free := 0, regs := [], loLatch := [], hiLatch := [], subUnits := [], lockSince := []
    mem := [], owners := [], crofts := [], memsys := MemSys.reset, tally := TallyFile.reset, host := HostIf.reset
    parts := [], foldq := [], mill := Mill.reset, power := Power.reset, reeve := Reeve.reset, nextUid := 1 }

end Sys2Proof.Machine
end

