-- ==== Sys2Proof/Machine/Crypto.lean ====
section
/-!
DEFINITION. The functions that 16 R562, R563, R565 and 17 R586 name by their standards: SHA-384, HMAC and HKDF-Expand with it, and
AES-256 in Galois/Counter Mode. Constants come from the definitions of the standards, not from tables (log entry 7).
-/
namespace Sys2Proof.Machine

/-- Bytes as a number, and back, most significant byte first. -/
def beNat (l : List Byte) : Nat := natOf l.reverse
def beBytes (n v : Nat) : List Byte := (bytesOf n v).reverse

/-- Exclusive or of two byte strings. -/
def xorBytes (a b : List Byte) : List Byte := (a.zip b).map fun e => e.1 ^^^ e.2

/-- The blocks of `n` bytes of a string; `fuel` bounds their number. -/
def blocksFuel (n : Nat) : Nat → List Byte → List (List Byte)
  | 0, _ => []
  | fuel + 1, l => if l.isEmpty then [] else l.take n :: blocksFuel n fuel (l.drop n)
def blocksOf (n : Nat) (l : List Byte) : List (List Byte) := blocksFuel n (l.length / n + 1) l

/-! ### SHA-384 -/

/-- The first 80 primes. -/
def shaPrimes : List Nat := (rangeFrom 2 408).filter fun n => (rangeFrom 2 (n - 2)).all fun d => n % d != 0

/-- The integer cube root, bit by bit. -/
def icbrtFrom : Nat → Nat → Nat → Nat
  | 0, _, r => r
  | k + 1, n, r => if (r + 2 ^ k) ^ 3 ≤ n then icbrtFrom k n (r + 2 ^ k) else icbrtFrom k n r

/-- Round constants: 64 bits of the fraction of the cube roots of the primes. -/
def shaK : List (BitVec 64) := shaPrimes.map fun p => BitVec.ofNat 64 (icbrtFrom 67 (p * 2 ^ 192) 0)

/-- The eight words of the chaining value. -/
structure Sha where
  a : BitVec 64
  b : BitVec 64
  c : BitVec 64
  d : BitVec 64
  e : BitVec 64
  f : BitVec 64
  g : BitVec 64
  h : BitVec 64
deriving DecidableEq, Repr

def Sha.words (x : Sha) : List (BitVec 64) := [x.a, x.b, x.c, x.d, x.e, x.f, x.g, x.h]
def Sha.ofWords (l : List (BitVec 64)) : Sha :=
  let w (i : Nat) : BitVec 64 := (l[i]?).getD 0
  ⟨w 0, w 1, w 2, w 3, w 4, w 5, w 6, w 7⟩

/-- The initial value: the same of the square roots of the ninth to the sixteenth prime. -/
def shaInit : Sha := Sha.ofWords ((shaPrimes.drop 8).map fun p => BitVec.ofNat 64 (isqrt (p * 2 ^ 128)))

/-- The message schedule, newest word first. -/
def shaExtend : Nat → List (BitVec 64) → List (BitVec 64)
  | 0, l => l
  | n + 1, l =>
    let w (i : Nat) : BitVec 64 := (l[i]?).getD 0
    let s0 := (w 14).rotateRight 1 ^^^ (w 14).rotateRight 8 ^^^ (w 14 >>> 7)
    let s1 := (w 1).rotateRight 19 ^^^ (w 1).rotateRight 61 ^^^ (w 1 >>> 6)
    shaExtend n ((s1 + w 6 + s0 + w 15) :: l)

/-- One round with its constant and its word of the schedule. -/
def shaRound (x : Sha) (kw : BitVec 64 × BitVec 64) : Sha :=
  let s1 := x.e.rotateRight 14 ^^^ x.e.rotateRight 18 ^^^ x.e.rotateRight 41
  let t1 := x.h + s1 + ((x.e &&& x.f) ^^^ (~~~x.e &&& x.g)) + kw.1 + kw.2
  let s0 := x.a.rotateRight 28 ^^^ x.a.rotateRight 34 ^^^ x.a.rotateRight 39
  let t2 := s0 + ((x.a &&& x.b) ^^^ (x.a &&& x.c) ^^^ (x.b &&& x.c))
  ⟨t1 + t2, x.a, x.b, x.c, x.d + t1, x.e, x.f, x.g⟩

/-- Takes in one block of 128 bytes. -/
def shaBlock (x : Sha) (block : List Byte) : Sha :=
  let w := (shaExtend 64 ((blocksOf 8 block).map fun b => BitVec.ofNat 64 (beNat b)).reverse).reverse
  let y := (shaK.zip w).foldl shaRound x
  Sha.ofWords ((x.words.zip y.words).map fun e => e.1 + e.2)

/-- SHA-384 of a byte string: 48 bytes as produced. -/
def sha384 (l : List Byte) : List Byte :=
  let pad := List.replicate ((239 - l.length % 128) % 128) (0 : Byte)
  let x := (blocksOf 128 (l ++ [0x80] ++ pad ++ beBytes 16 (8 * l.length))).foldl shaBlock shaInit
  ((x.words.take 6).map fun w => beBytes 8 w.toNat).flatten

/-- HMAC with SHA-384. -/
def hmac384 (key l : List Byte) : List Byte :=
  let k := if 128 < key.length then sha384 key else key
  let k := k ++ List.replicate (128 - k.length) 0
  sha384 (k.map (· ^^^ 0x5C) ++ sha384 (k.map (· ^^^ 0x36) ++ l))

/-- HKDF-Expand with SHA-384, for at most 48 bytes. -/
def hkdf384 (secret info : List Byte) (n : Nat) : List Byte := (hmac384 secret (info ++ [1])).take n

/-! ### AES-256 -/

/-- Product in GF(2⁸) modulo x⁸ + x⁴ + x³ + x + 1. -/
def aesMul (a b : Nat) : Nat :=
  ((List.range 8).foldl (fun (e : Nat × Nat) i =>
    (if bit i b then e.1 ^^^ e.2 else e.1, if bit 7 e.2 then (2 * e.2) % 256 ^^^ 0x1B else 2 * e.2)) (0, a)).1

/-- The substitution of one byte: the affine image of its inverse, which is its 254th power. -/
def aesSub (x : Byte) : Byte :=
  let p (n : Nat) : Nat := aesMul n n
  let x2 := p x.toNat
  let x3 := aesMul x2 x.toNat
  let x12 := p (p x3)
  let x15 := aesMul x12 x3
  let x240 := p (p (p (p x15)))
  let inv : Byte := BitVec.ofNat 8 (aesMul (aesMul x240 x12) x2)
  inv ^^^ inv.rotateLeft 1 ^^^ inv.rotateLeft 2 ^^^ inv.rotateLeft 3 ^^^ inv.rotateLeft 4 ^^^ 0x63

/-- The powers of 2 that the key expansion adds. -/
def aesRcon (n : Nat) : Byte := BitVec.ofNat 8 ((List.range (n - 1)).foldl (fun r _ => aesMul r 2) 1)

/-- The key schedule's words, newest first: `n` more of them after those given, of which there are `i`. -/
def aesExpand : Nat → Nat → List (List Byte) → List (List Byte)
  | 0, _, l => l
  | n + 1, i, l =>
    let last := l.headD []
    let w := if i % 8 = 0 then xorBytes ((last.drop 1 ++ last.take 1).map aesSub) [aesRcon (i / 8), 0, 0, 0]
      else if i % 8 = 4 then last.map aesSub else last
    aesExpand n (i + 1) (xorBytes ((l[7]?).getD []) w :: l)

/-- The 15 round keys. -/
def aesKeys (key : List Byte) : List (List Byte) :=
  blocksOf 16 (aesExpand 52 8 (blocksOf 4 key).reverse).reverse.flatten

/-- Row r of the state moves left by r columns; the state lies column by column. -/
def aesShift (l : List Byte) : List Byte := (List.range 16).map fun i => (l[(i + 4 * (i % 4)) % 16]?).getD 0

/-- Mixes one column. -/
def aesMix (col : List Byte) : List Byte :=
  let c (i : Nat) : Nat := ((col[i % 4]?).getD 0).toNat
  (List.range 4).map fun i => BitVec.ofNat 8 (aesMul (c i) 2 ^^^ aesMul (c (i + 1)) 3 ^^^ c (i + 2) ^^^ c (i + 3))

/-- AES-256 of one block of 16 bytes under a key of 32 bytes. -/
def aes256 (key blk : List Byte) : List Byte :=
  let ks := aesKeys key
  let k (i : Nat) : List Byte := (ks[i]?).getD []
  let x := (rangeFrom 1 13).foldl (fun x i =>
    xorBytes ((blocksOf 4 (aesShift (x.map aesSub))).map aesMix).flatten (k i)) (xorBytes blk (k 0))
  xorBytes (aesShift (x.map aesSub)) (k 14)

/-! ### Galois/Counter Mode (16 R565) -/

/-- Product of two blocks in GF(2¹²⁸), the first bit of a block being its most significant. -/
def ghashMul (x y : BitVec 128) : BitVec 128 :=
  ((List.range 128).foldl (fun (e : BitVec 128 × BitVec 128) i =>
    (if x.getMsbD i then e.1 ^^^ e.2 else e.1,
      if e.2.getLsbD 0 then (e.2 >>> 1) ^^^ (0xE1#128 <<< 120) else e.2 >>> 1)) (0, y)).1

/-- A byte string filled with zeros to whole blocks. -/
def padBlock (l : List Byte) : List Byte := l ++ List.replicate ((16 - l.length % 16) % 16) 0

/-- The hash of whole blocks under a hash key. -/
def ghash (h : BitVec 128) (l : List Byte) : BitVec 128 :=
  (blocksOf 16 l).foldl (fun y b => ghashMul (y ^^^ BitVec.ofNat 128 (beNat b)) h) 0

/-- Block `n` of the key stream of a counter: the nonce is the direction's salt and the counter. -/
def gcmBlock (v : SealKey) (counter n : Nat) : List Byte := aes256 v.key (v.salt ++ bytesOf 8 counter ++ beBytes 4 n)

/-- Encrypts or decrypts bytes under a counter. -/
def gcmXor (v : SealKey) (counter : Nat) (l : List Byte) : List Byte :=
  let bs := blocksOf 16 l
  ((bs.zip (List.range bs.length)).map fun e => xorBytes e.1 (gcmBlock v counter (e.2 + 2))).flatten

/-- The tag of a ciphertext with its additional data: 16 bytes. -/
def gcmTag (v : SealKey) (counter : Nat) (aad cipher : List Byte) : List Byte :=
  let h := BitVec.ofNat 128 (beNat (aes256 v.key (List.replicate 16 0)))
  let y := ghash h (padBlock aad ++ padBlock cipher ++ beBytes 8 (8 * aad.length) ++ beBytes 8 (8 * cipher.length))
  xorBytes (beBytes 16 y.toNat) (gcmBlock v counter 1)

/-! ### The sealing values (16 R563) -/

/-- The characters of an info string. -/
def infoBytes (t : String) : List Byte := t.toList.map fun c => BitVec.ofNat 8 c.toNat

/-- Key and salt of the direction named `dir`, from a session's export master secret. -/
def sealKey (secret : List Byte) (dir : String) : SealKey :=
  ⟨hkdf384 secret (infoBytes ("psx4 key " ++ dir)) 32, hkdf384 secret (infoBytes ("psx4 salt " ++ dir)) 4⟩

end Sys2Proof.Machine
end

