-- ==== Sys2Proof/Config.lean ====
section
/-!
DEFINITION. What an implementation fixes and what the spec leaves open: opaque constants without a body, so that no
proof can see a value, and the few numbers a log entry names.
-/
namespace Sys2Proof.Config

/-- A free value: the n-th value the spec leaves open in a run (log entry 3). -/
opaque freeValue : Nat → Nat

/-- Byte `i` of a 64-byte granule of an outer tier, stored as one AES-XTS-256 data unit under one key pair and tweak, read
under another (10 R340): "unrelated bytes, not zeros" (10 R341; log entry 7). -/
opaque xtsView (stored used : Nat) (granule : List Byte) (i : Nat) : Byte

/-- ECDSA P-384 signature of the device identity key over a digest, with the free nonce `n` (16 R562; log entry 7). -/
opaque sign (digest : List Byte) (n : Nat) : List Byte

/-- Whether the ECDSA P-384 signature (r, s) over a digest verifies under one of the four public keys of the ROM (17 R587, R589; log
entry 7). -/
opaque verify (key : Nat) (digest : List Byte) (r s : Nat) : Bool

/-- The bytes of the reeve ROM (17 R586; log entry 6). -/
opaque romBytes : List Byte

/-- The device identity certificate chain of slot 0 (16 R562; log entry 7). -/
opaque certChain : List Byte

/-- The ECDHE shared secret's derivative that names a session (16 R562; log entry 7). -/
opaque sessionSecret (fn n : Nat) (peer : List Byte) : Nat

/-- The export master secret that the SPDM key schedule gives a session (16 R562, R563; log entry 7). -/
opaque exportSecret (session : Nat) : List Byte

/-- Tlalivos's PCI-SIG vendor ID (16 R525), which the spec does not number (log entry 65). -/
opaque vendorId : Nat

/-- Tlalivos's IANA enterprise number (17 R575), which the spec does not number (log entry 29). -/
opaque ianaNumber : Nat

/-- The code of the Tlalivos OEM event class (17 R580), which the spec does not number (log entry 29). -/
opaque eventClass : Byte

/-- The verify data of a FINISH exchange (16 R562; log entry 7). -/
opaque finishMac (secret : Nat) : List Byte

/-- The header the factory left in a slot of the flash die, by 2·image + slot (17 R587; log entry 6). -/
opaque factoryHeader : Nat → Flit

/-- The image body the factory left in a slot (17 R587; log entry 6). -/
opaque factoryBody : Nat → List Byte

/-- SLOPE_k of a physical croft in mV per 1 % of drift: factory data (15 R518; log entry 6). -/
opaque factorySlope (croft point : Nat) : Nat

end Sys2Proof.Config
end

