-- ==== Sys2Proof/Machine/Ops.lean ====
section
/-!
DEFINITION. Named operations over registers: block codes, the reset word of every register, reading and writing one
field, saturating counters, and ownership. Every register of every page has one home: the map `State.regs`.
-/
namespace Sys2Proof.Machine

/-! ### Block codes (18 R604 to R608); croft pages are keyed by physical croft (18 R606) -/

def bDevice : Nat := 0
def bHostIf : Nat := 1
def bSteward : Nat := 2
def bWell : Nat := 3
def bTally : Nat := 4
def bMill : Nat := 5
def bMemMap : Nat := 6
def bRepair : Nat := 7
def bReeve : Nat := 8
def bThermal : Nat := 9
def bFunction (f : Nat) : Nat := 16 + f
def bCroft (c : Nat) : Nat := 32 + c
def bHamlet (h : Nat) : Nat := 640 + h
def bHbm (h : Nat) : Nat := 656 + h
def bSlice (i : Nat) : Nat := 672 + i
def bDie (d : Nat) : Nat := 736 + d
def bEdge (e : Nat) : Nat := 740 + e
def bDdr (c : Nat) : Nat := 744 + c
def bCxl (x : Nat) : Nat := 756 + x
def bPort (v : Nat) : Nat := 760 + v

/-- The page kind of a block code. -/
def kindOf (b : Nat) : PageKind :=
  if b = 0 then .device else if b = 1 then .hostIf else if b = 2 then .steward else if b = 3 then .well
  else if b = 4 then .tally else if b = 5 then .mill else if b = 6 then .memMap else if b = 7 then .repair
  else if b = 8 then .reeve else if b = 9 then .thermal else if b < 32 then .function else if b < 640 then .croft
  else if b < 656 then .hamlet else if b < 672 then .hbm else if b < 736 then .slice else if b < 742 then .die
  else if b < 760 then .channel else .port

/-- A register of the function page that only a VF has: EV_TAG_BASE, HT_ROOT, HT_BYTES and CR_TAG_BASE (16 R569). -/
def vfOnly (off : Nat) : Bool :=
  off == 0x50 || off == 0x54 || off == 0x74 || off == 0x78 || off == 0x7C ||
    decide (0x100 ≤ off ∧ (off % 32 = 8 ∨ off % 32 = 12))

/-- The fields of the register at a page offset: the common header's below 0x040, else the block's. -/
def fieldsAt (b off : Nat) : List Field :=
  if b = 16 ∧ vfOnly off then []
  else (if off < 0x40 then fieldsCommon else fieldsOf (kindOf b)).filter (·.within off)

/-- The factory voltage of point k in mV (15 R492, R517: the typical row; log entry 6). -/
def factoryVolt (k : Nat) : Nat := (([580, 600, 630, 670, 710, 750, 800, 850] : List Nat)[k]?).getD 0

/-- The frequency of point k in MHz (15 R505). -/
def pointMhz (k : Nat) : Nat := (([600, 800, 1000, 1200, 1400, 1600, 1750, 1900] : List Nat)[k]?).getD 0

/-- The reset value the spec leaves to ledger, factory, strap or page, by block and offset (log entry 6). -/
def loadedWord (b off : Nat) : Nat :=
  match kindOf b with
  | .croft =>
    if 0x488 ≤ off ∧ off < 0x4A8 then factoryVolt ((off - 0x488) / 4) + pointMhz ((off - 0x488) / 4) * 2 ^ 16
    else if off = 0x4AC then 3000 + 500 * 2 ^ 16 else 0
  | .thermal => if off = 0x50 then 1000 else 0
  | .hamlet => if 0x80 ≤ off ∧ off < 0x110 then (off - 0x80) / 4 else if 0x110 ≤ off ∧ off < 0x118 then (off - 0x80) / 4 + 64 else 0
  | .function => if off = 0x80 ∧ b ≠ 16 then 2 ^ 32 - 16 else 0
  | .channel => if off = 0x44 ∧ 756 ≤ b then 1 else 0
  | _ => 0

/-- The reset value of a register word (18 "Reset behaviour", R621). -/
def resetWord (key : Nat) : Word :=
  let b := key / 1024
  let off := key % 1024 * 4
  BitVec.ofNat 32 ((fieldsAt b off).foldl (fun n f => n + f.reset * 2 ^ f.lo) 0 + loadedWord b off)

/-- The key of a register. -/
def regKey (b off : Nat) : Nat := b * 1024 + off / 4

/-- The stored word of a register. -/
def getW (b off : Nat) (s : State) : Word := mapGet resetWord s.regs (regKey b off)

/-- Stores a register word. -/
def setW (b off : Nat) (w : Word) (s : State) : State :=
  { s with regs := mapPut resetWord (regKey b off) w s.regs }

/-- A word with one field replaced. -/
def insertField (f : Field) (v : Nat) (w : Word) : Word :=
  BitVec.ofNat 32 (setBits f.lo f.width v w.toNat)

/-- The stored value of a field. -/
def getF (b : Nat) (f : Field) (s : State) : Nat := bits f.lo f.width (getW b f.off s).toNat

/-- Stores a field, whoever may write it. -/
def setF (b : Nat) (f : Field) (v : Nat) (s : State) : State :=
  setW b f.off (insertField f v (getW b f.off s)) s

/-- A one-bit field as a condition. -/
def flag (b : Nat) (f : Field) (s : State) : Bool := decide (getF b f s = 1)

/-- Adds to a counter, which saturates at all ones (04 R145 and the register chapters). -/
def addF (b : Nat) (f : Field) (n : Nat) (s : State) : State :=
  setF b f (min (getF b f s + n) (2 ^ f.width - 1)) s

/-- Adds to a counter that counts in units of 1,024, keeping the remainder. -/
def addUnits (b : Nat) (f : Field) (n : Nat) (s : State) : State :=
  let k := regKey b f.off
  let t := mapGet (fun _ => 0) s.subUnits k + n
  addF b f (t / 1024) { s with subUnits := mapPut (fun _ => 0) k (t % 1024) s.subUnits }

/-- A 64-bit register pair, low word first (18 R617). -/
def getPair (b : Nat) (lo hi : Field) (s : State) : Nat := getF b lo s + getF b hi s * 2 ^ 32

/-- Stores a 64-bit register pair. -/
def setPair (b : Nat) (lo hi : Field) (v : Nat) (s : State) : State :=
  setF b hi (v / 2 ^ 32) (setF b lo (v % 2 ^ 32) s)

/-- The next free value (log entry 3). -/
def fresh (s : State) : Nat × State := (Config.freeValue s.free, { s with free := s.free + 1 })

/-! ### Thermal sensors (15 R514, R523) -/

/-- The hottest of the 2,136 sensors: the stored reading and its index. One without a sample counts as 0 °C, the reset value of HOTTEST
(log entry 39). -/
def hottest (m : SMap Nat) : Nat × Nat :=
  let best := m.foldl (fun (b : Option (Nat × Nat)) e =>
    match b with
    | some x => if signed8 x.1 < signed8 e.2 then some (e.2, e.1) else b
    | none => some (e.2, e.1)) none
  let first := ((List.range m.length).zip m).find? fun e => e.1 != e.2.1
  let free := (0, (first.map Prod.fst).getD m.length)
  match best with
  | some x => if signed8 x.1 < 0 ∧ m.length < 2136 then free else x
  | none => free

/-- A reading of a sensor: HOTTEST and HOTTEST_ID show the hottest of all (15 R523). -/
def noteSensor (i : Nat) (t : BitVec 8) (s : State) : State :=
  let m := mapPut (fun _ => 0) i t.toNat s.power.sensors
  setF bThermal F.TH_HOTTEST (hottest m).1 (setF bThermal F.TH_HOTTEST_ID (hottest m).2
    { s with power := { s.power with sensors := m } })

/-! ### Crofts, slots and ownership -/

def Part.reset : Part :=
  ⟨none, false, none, [], none, [], false, [], [], [], 0, [], [], false⟩

def croftOf (c : Nat) (s : State) : Croft := mapGet (fun _ => Croft.reset) s.crofts c
def setCroft (c : Nat) (k : Croft) (s : State) : State :=
  { s with crofts := mapPut (fun _ => Croft.reset) c k s.crofts }
def updCroft (c : Nat) (f : Croft → Croft) (s : State) : State := setCroft c (f (croftOf c s)) s

def partOf (p : Nat) (s : State) : Part := mapGet (fun _ => Part.reset) s.parts p
def setPart (p : Nat) (k : Part) (s : State) : State :=
  { s with parts := mapPut (fun _ => Part.reset) p k s.parts }
def updPart (p : Nat) (f : Part → Part) (s : State) : State := setPart p (f (partOf p s)) s

/-- The physical croft bound to a slot of a hamlet (18 R606); a PHYS is at most 37 (18 R624). -/
def physOf (h slot : Nat) (s : State) : Nat := 38 * h + min (getF (bHamlet h) (F.HAM_PHYS.at slot) s) 37

/-- The slot to which a physical croft is bound. -/
def slotOf (c : Nat) (s : State) : Nat :=
  ((List.range 38).find? fun i => decide (physOf (c / 38) i s = c)).getD 0

/-- The physical croft that carries a global index (00 R7, R8). -/
def globalPhys (g : Nat) (s : State) : Nat := physOf (g / 36) (g % 36) s

/-- The number a croft carries in SOURCE, BLOCK_ID and INDEX: its global index, or 576 + 2·hamlet + spare
(18 R606). -/
def croftNumber (c : Nat) (s : State) : Nat :=
  let slot := slotOf c s
  if slot < 36 then 36 * (c / 38) + slot else 576 + 2 * (c / 38) + (slot - 36)

/-- A unit is fenced. -/
def fenced (b : Nat) (s : State) : Bool := flag b F.BLK_FENCED s

/-- The OWNER of a page: croft and HBM4 pages copy their hamlet's, function pages are fixed, commons pages have
none (18 R611). -/
def ownerOf (b : Nat) (s : State) : Option Nat :=
  let own (k : Nat) : Option Nat := if flag k F.BLK_ASSIGNED s then some (getF k F.BLK_PART s) else none
  match kindOf b with
  | .croft => own (bHamlet ((b - 32) / 38))
  | .hbm => own (bHamlet (b - 656))
  | .hamlet | .slice | .port | .die | .channel => own b
  | .function => if b = 16 then none else some (b - 17)
  | _ => none

/-- The context of a croft (03 R94). -/
def contextOf (c : Nat) (s : State) : Option Nat := ownerOf (bCroft c) s

/-- The hamlets a partition owns. -/
def hamletsOf (p : Nat) (s : State) : List Nat :=
  (List.range 16).filter fun h => decide (ownerOf (bHamlet h) s = some p)

/-- The 36 active crofts of every hamlet a partition owns, as physical crofts, and the hamlet's spares. -/
def croftsOf (p : Nat) (s : State) : List Nat :=
  ((hamletsOf p s).map fun h => (List.range 38).map fun i => physOf h i s).flatten

/-- The active crofts of a partition: those bound to slots 0 to 35. -/
def activeCrofts (p : Nat) (s : State) : List Nat :=
  ((hamletsOf p s).map fun h => (List.range 36).map fun i => physOf h i s).flatten

/-- Every queue of the partition is empty: no croft of it holds a task or has one under way. -/
def queuesEmpty (p : Nat) (s : State) : Bool :=
  (croftsOf p s).all fun c => (croftOf c s).queue.isEmpty && (croftOf c s).arriving.isEmpty

/-- The partition is assembled, confidential, in timed service (16 R569). -/
def assembled (p : Nat) (s : State) : Bool := flag (bFunction (p + 1)) F.FP_ASSEMBLED s
def confidential (p : Nat) (s : State) : Bool := flag (bFunction (p + 1)) F.FP_CONFIDENTIAL s
def timed (p : Nat) (s : State) : Bool := decide (getF (bFunction (p + 1)) F.FP_SERVICE s = 0)

/-- The croft is in timed service (03 R99, SEQ_CTRL.SERVICE). -/
def croftTimed (c : Nat) (s : State) : Bool := decide (getF (bCroft c) F.SEQ_CTRL_SERVICE s = 0)

end Sys2Proof.Machine
end

