-- ==== Sys2Proof/Machine/Memory.lean ====
section
/-!
DEFINITION. The one memory of the model: every byte of tiers 1 to 3, larders, granary slices and host memory under
its PLACE, how a space-0 or space-3 address reaches a place (10 R316 to R324), who may reach it (10 R318), the
encrypted view of the outer tiers (10 R340, R341), the cache-mode granary (11 R361 to R366), poison (10 R336), and the
translation of space 1 (16 R551, R552); the requests that wait at a controller or a slice (10 R327, R330, R331).
-/
namespace Sys2Proof.Machine

/-! ### Places -/

/-- Tier-1 byte: its space-0 address. -/
def plTier1 (a : Nat) : Nat := a
/-- Byte `o` of DDR5 channel `c`. -/
def plTier2 (c o : Nat) : Nat := 2 ^ 60 + c * 2 ^ 48 + o
/-- Byte `o` of the expander on CXL port `x`. -/
def plTier3 (x o : Nat) : Nat := 2 * 2 ^ 60 + x * 2 ^ 52 + o
/-- Byte `o` of the larder of physical croft `c`. -/
def plLarder (c o : Nat) : Nat := 3 * 2 ^ 60 + c * 2 ^ 22 + o
/-- Byte `o` of granary slice `i`. -/
def plSlice (i o : Nat) : Nat := 4 * 2 ^ 60 + i * 2 ^ 24 + o
/-- Host bus address. -/
def plHost (a : Nat) : Nat := 8 * 2 ^ 60 + a

/-- What a byte reads as that nothing has written (log entry 4). -/
def unwritten : Nat → Byte := fun _ => 0

/-- Reads the byte at a place. -/
def rd (p : Nat) (s : State) : Byte := mapGet unwritten s.mem p

/-- Writes the byte at a place. -/
def wr (p : Nat) (b : Byte) (s : State) : State := { s with mem := mapPut unwritten p b s.mem }

/-- Reads `n` bytes from a place on. -/
def rdN (p n : Nat) (s : State) : List Byte := (rangeFrom p n).map fun q => rd q s

/-- Writes bytes from a place on. -/
def wrN : Nat → List Byte → State → State
  | _, [], s => s
  | p, b :: r, s => wrN (p + 1) r (wr p b s)

/-- Memory with a free value in place of every listed byte that a test selects (log entry 3). -/
def freeBytes (sel : Nat → Bool) : Nat → List Host.Cell → List Host.Cell
  | _, [] => []
  | n, (p, b) :: r =>
    let v : Byte := if sel p then BitVec.ofNat 8 (Config.freeValue n) else b
    if v = unwritten p then freeBytes sel (n + 1) r else (p, v) :: freeBytes sel (n + 1) r

/-- The contents at the selected places are lost. -/
def loseBytes (sel : Nat → Bool) (s : State) : State :=
  { s with mem := freeBytes sel s.free s.mem, free := s.free + s.mem.length }

/-- The contents at the places from `lo` to before `hi` are lost. -/
def loseRange (lo hi : Nat) (s : State) : State := loseBytes (fun p => decide (lo ≤ p ∧ p < hi)) s

/-- The canonical form of memory. -/
def memWf (s : State) : Bool := mapWf unwritten s.mem

/-! ### Space 0 -/

/-- Bytes of one tier-1 stack, and of its window (10 R316). -/
def stackBytes : Nat := 64 * 10 ^ 9

/-- Access unit of an outer tier (10 R323, R324). -/
def tierUnit (tier : Nat) : Nat := if tier = 2 then 512 else 2048

/-- The set of a space-0 address in the outer windows. -/
def setOf (a : Nat) (s : State) : Option ISet :=
  s.memsys.sets.find? fun t => decide (t.base ≤ a ∧ a < t.base + t.size)

/-- The channel or port number, and the byte within it, of an address of a set (10 R323). -/
def inSet (t : ISet) (a : Nat) : Nat × Nat :=
  let u := (a - t.base) / tierUnit t.tier
  ((t.chans[u % t.chans.length]?).getD 0, u / t.chans.length * tierUnit t.tier + (a - t.base) % tierUnit t.tier)

/-- The place of a space-0 address, when it is populated (10 R316 to R324). -/
def place0 (a : Nat) (s : State) : Option Nat :=
  if a < 2 ^ 40 then (if a % 2 ^ 36 < stackBytes then some (plTier1 a) else none)
  else if a < 2 ^ 52 then
    (setOf a s).map fun t =>
      let c := inSet t a
      if t.tier = 2 then plTier2 c.1 c.2 else plTier3 c.1 c.2
  else none

/-- The BAR0 byte of the range owner table for an outer-tier address (18 R612). -/
def ownerByteOf (a : Nat) : Option Nat :=
  if a < 2 ^ 40 then none
  else if a < 2 ^ 44 then some (0x40000 + (a - 2 ^ 40) / 2 ^ 30)
  else if (a - 2 ^ 44) / 2 ^ 30 < 16384 then some (0x44000 + (a - 2 ^ 44) / 2 ^ 30)
  else none

/-- The partition that owns a space-0 address (10 R319, 18 R612). -/
def ownerOfAddr (a : Nat) (s : State) : Option Nat :=
  if a < 2 ^ 40 then ownerOf (bHamlet (a / 2 ^ 36)) s
  else match ownerByteOf a with
    | none => none
    | some k =>
      let b := (mapGet unwritten s.owners k).toNat
      if bit 3 b then some (bits 0 3 b) else none

/-- The physical pseudo-channel, row key and bank of a tier-1 address (10 R320). -/
def pcOf (a : Nat) : Nat :=
  let b := a % 2 ^ 36 / 256
  let k := b / 64
  (b % 64) ^^^ (k % 64) ^^^ (k / 64 % 64)
def rowOf (a : Nat) : Nat := a % 2 ^ 36 / 256 / 64 / 64
def bankOf (a : Nat) : Nat :=
  let k := a % 2 ^ 36 / 256 / 64
  (k / 4 % 16) ^^^ (rowOf a % 16)

/-! ### Poison and encryption, by granule -/

/-- First place of the ECC granule of a place: 32 bytes in tier 1, 64 in the outer tiers (10 R336). -/
def granuleOf (p : Nat) : Nat := if p < 2 ^ 60 then p / 32 * 32 else p / 64 * 64
def granuleSize (p : Nat) : Nat := if p < 2 ^ 60 then 32 else 64

def poisonedAt (p : Nat) (s : State) : Bool := mapGet (fun _ => false) s.memsys.poison (granuleOf p)
def setPoison (p : Nat) (v : Bool) (s : State) : State :=
  { s with memsys := { s.memsys with poison := mapPut (fun _ => false) (granuleOf p) v s.memsys.poison } }

/-- A place lies in an outer tier. -/
def outer (p : Nat) : Bool := decide (2 ^ 60 ≤ p ∧ p < 3 * 2 ^ 60)

/-- The generation of a confidential partition whose key pair has been destroyed: no key. -/
def noKey : Nat := 2 ^ 64

/-- The key generation under which a partition's outer-tier accesses run: 0 = plain (10 R340, R341). -/
def keyGenOf (p : Nat) (s : State) : Nat :=
  if confidential p s then
    let g := mapGet (fun _ => 0) s.memsys.keys p
    if g = 0 then noKey else g
  else 0

/-- What a granule of a key generation is written under: the key pair and, as its tweak, bits [51:6] of the granule's device
physical address (10 R340); 0 = plain. -/
def tagOf (g a : Nat) : Nat := if g = 0 then 0 else g * 2 ^ 46 + a / 64

/-- The byte at place `p` as key generation `g` sees it at address `a`: the bytes that were written under this key pair and
tweak, else what they decrypt to; under no key nothing decrypts (10 R341). -/
def viewByte (g a p : Nat) (s : State) : Byte :=
  if outer p then
    let t := mapGet (fun _ => 0) s.memsys.keyTag (granuleOf p)
    if t = tagOf g a ∧ g ≠ noKey then rd p s else Config.xtsView t (tagOf g a) (rdN (granuleOf p) 64 s) (p % 64)
  else rd p s

/-- Puts a whole granule under a key generation, keeping what that generation sees of it (10 R328, R340). -/
def retag (g a p : Nat) (s : State) : State :=
  let q := granuleOf p
  if outer p = false ∨ mapGet (fun _ => 0) s.memsys.keyTag q = tagOf g a then s
  else
    let old := (rangeFrom q 64).map fun x => viewByte g a x s
    wrN q old { s with memsys := { s.memsys with keyTag := mapPut (fun _ => 0) q (tagOf g a) s.memsys.keyTag } }

/-- Writes the byte at address `a` and place `p` under a key generation. -/
def storeByte (g a p : Nat) (b : Byte) (s : State) : State := wr p b (retag g a p s)

/-! ### The cache-mode granary -/

/-- The cache-mode slices of a partition, in order of die and slice (11 R361); a fenced one is out of its use (14 R485). -/
def cacheSlices (p : Nat) (s : State) : List Nat :=
  (List.range 64).filter fun i =>
    decide (ownerOf (bSlice i) s = some p ∧ getF (bSlice i) F.GR_MODE s = 2) && !flag (bSlice i) F.GR_FENCED s

/-- Slice and set of an outer-tier address, when the partition has cache slices. -/
def cacheHome (p a : Nat) (s : State) : Option (Nat × Nat) :=
  let l := cacheSlices p s
  if a < 2 ^ 40 ∨ l.isEmpty then none
  else some ((l[a / 2048 % l.length]?).getD 0, a / 2048 / l.length % 384)

def lineKey (slice set way : Nat) : Nat := slice * 6144 + set * 16 + way
def lineAt (slice set way : Nat) (s : State) : Option Line :=
  mapGet (fun _ => none) s.memsys.lines (lineKey slice set way)
def setLine (slice set way : Nat) (l : Option Line) (s : State) : State :=
  { s with memsys := { s.memsys with lines := mapPut (fun _ => none) (lineKey slice set way) l s.memsys.lines } }

/-- The way that holds a line address, if any. -/
def findWay (slice set tag : Nat) (s : State) : Option Nat :=
  (List.range 16).find? fun w =>
    match lineAt slice set w s with
    | some l => decide (l.tag = tag)
    | none => false

/-- Byte of the slice that holds byte `o` of a way's line. -/
def plWay (slice set way o : Nat) : Nat := plSlice slice ((set * 16 + way) * 2048 + o)

/-- A byte of a partition's space-0 memory as every access of it returns (11 R363, R366). -/
def loadByte (p a pl : Nat) (s : State) : Byte :=
  match cacheHome p a s with
  | none => viewByte (keyGenOf p s) a pl s
  | some (sl, set) =>
    match findWay sl set (a / 2048) s with
    | none => viewByte (keyGenOf p s) a pl s
    | some w =>
      match lineAt sl set w s with
      | some l => if l.valid.getLsbD (a % 2048 / 64) then rd (plWay sl set w (a % 2048)) s
                  else viewByte (keyGenOf p s) a pl s
      | none => viewByte (keyGenOf p s) a pl s

/-- Copies granule `i` of a line back to memory (11 R362). -/
def writeBack (p slice set way tag i : Nat) (s : State) : State :=
  let bytes := rdN (plWay slice set way (i * 64)) 64 s
  match place0 (tag * 2048 + i * 64) s with
  | none => s
  | some pl =>
    let s := addF (bSlice slice) F.GR_WRITEBACKS 1 s
    let s := (rangeFrom 0 64).foldl (fun t j => storeByte (keyGenOf p t) (tag * 2048 + i * 64 + j) (pl + j) ((bytes[j]?).getD 0) t) s
    setPoison pl (poisonedAt (plWay slice set way (i * 64)) s) s

/-- Writes back every dirty granule of one line and cleans it. -/
def cleanLine (p slice set way : Nat) (s : State) : State :=
  match lineAt slice set way s with
  | none => s
  | some l =>
    let s := (List.range 32).foldl (fun t i => if l.dirty.getLsbD i then writeBack p slice set way l.tag i t else t) s
    setLine slice set way (some { l with dirty := 0 }) s

/-- The way a new line takes: an empty one, else the least recently used (11 R361). -/
def victim (slice set : Nat) (s : State) : Nat :=
  let age (w : Nat) : Nat := match lineAt slice set w s with | none => 0 | some l => l.used + 1
  (List.range 16).foldl (fun best w => if age w < age best then w else best) 0

/-- The way that holds a line address, bringing in an empty line when none does; marks the use. -/
def takeLine (p slice set tag : Nat) (s : State) : Nat × State :=
  let stamp := s.nextUid
  let s := { s with nextUid := s.nextUid + 1 }
  match findWay slice set tag s with
  | some w =>
    match lineAt slice set w s with
    | some l => (w, setLine slice set w (some { l with used := stamp }) s)
    | none => (w, s)
  | none =>
    let w := victim slice set s
    (w, setLine slice set w (some ⟨tag, 0, 0, stamp⟩) (cleanLine p slice set w s))

/-- Controller code of a space-0 address: 64·stack + pseudo-channel, 1024 + DDR5 channel, 1036 + CXL port (10 R320, R323). -/
def ctrlOf (a : Nat) (s : State) : Option Nat :=
  if a < 2 ^ 40 then some (64 * (a / 2 ^ 36) + pcOf a)
  else (setOf a s).map fun t => if t.tier = 2 then 1024 + (inSet t a).1 else 1036 + (inSet t a).1

/-- Page of a controller code. -/
def ctrlPage (q : Nat) : Nat := if q < 1024 then bHbm (q / 64) else if q < 1036 then bDdr (q - 1024) else bCxl (q - 1036)

/-- POISON_READS of a controller. -/
def fPoison (q : Nat) : Field := if q < 1024 then F.HB_POISON_READS else F.MC_POISON_READS

/-- A read of an address was answered with poison (10 R343). -/
def poisonAnswered (a : Nat) (s : State) : State :=
  match ctrlOf a s with
  | some q => addF (ctrlPage q) (fPoison q) 1 s
  | none => s

/-- Fills granule `i` of a line from memory (11 R362). -/
def fillGranule (p slice set way tag i : Nat) (s : State) : State :=
  match place0 (tag * 2048 + i * 64) s, lineAt slice set way s with
  | some pl, some l =>
    let bytes := (rangeFrom pl 64).map fun q => viewByte (keyGenOf p s) (tag * 2048 + i * 64) q s
    let s := wrN (plWay slice set way (i * 64)) bytes s
    let s := setPoison (plWay slice set way (i * 64)) (poisonedAt pl s)
      (if poisonedAt pl s then poisonAnswered (tag * 2048 + i * 64) s else s)
    let s := setLine slice set way (some { l with valid := l.valid ||| (1#32 <<< i) }) s
    addF (bSlice slice) F.GR_MISSES 1 s
  | _, _ => s

/-- Granule `i` of the line is valid. -/
def granuleValid (slice set way i : Nat) (s : State) : Bool :=
  match lineAt slice set way s with
  | some l => l.valid.getLsbD i
  | none => false

/-- A cached write of bytes that lie in one granule at address `a` (11 R362). -/
def cacheWriteGranule (p slice set a : Nat) (bytes : List Byte) (s : State) : State :=
  let tag := a / 2048
  let i := a % 2048 / 64
  let (w, s) := takeLine p slice set tag s
  let s := if bytes.length = 64 ∨ granuleValid slice set w i s then addF (bSlice slice) F.GR_HITS 1 s
           else fillGranule p slice set w tag i s
  let s := wrN (plWay slice set w (a % 2048)) bytes s
  let s := if bytes.length = 64 then setPoison (plWay slice set w (i * 64)) false s else s
  match lineAt slice set w s with
  | none => s
  | some l => setLine slice set w (some { l with valid := l.valid ||| (1#32 <<< i), dirty := l.dirty ||| (1#32 <<< i) }) s

/-- A cached read of one granule (11 R362, R386): a hit, or a fill. -/
def cacheReadGranule (p slice set a : Nat) (s : State) : State :=
  let tag := a / 2048
  let i := a % 2048 / 64
  let (w, s) := takeLine p slice set tag s
  if granuleValid slice set w i s then addF (bSlice slice) F.GR_HITS 1 s
  else fillGranule p slice set w tag i s

/-- Cuts [a, a + len) at multiples of `unit`, in ascending order; `fuel` bounds the pieces. -/
def cutFuel (unit : Nat) : Nat → Nat → Nat → List (Nat × Nat)
  | 0, _, _ => []
  | _, _, 0 => []
  | fuel + 1, a, len =>
    let n := min len (unit - a % unit)
    (a, n) :: cutFuel unit fuel (a + n) (len - n)
def cut (unit a len : Nat) : List (Nat × Nat) := cutFuel unit (len / unit + 2) a len

/-- Writes bytes to a partition's space-0 memory at addresses known to be populated; whole granules lose their
poison (10 R336), partial ones of the outer tiers keep the rest (10 R328). -/
def store0 (p a : Nat) (bytes : List Byte) (s : State) : State :=
  (cut 32 a bytes.length).foldl (fun s c =>
    let part := (bytes.drop (c.1 - a)).take c.2
    match place0 c.1 s with
    | none => s
    | some pl =>
      match cacheHome p c.1 s with
      | some _ => s
      | none =>
        let s := (rangeFrom 0 c.2).foldl (fun t j => storeByte (keyGenOf p t) (c.1 + j) (pl + j) ((part[j]?).getD 0) t) s
        let ga := c.1 - (pl - granuleOf pl)
        if a ≤ ga ∧ ga + granuleSize pl ≤ a + bytes.length then setPoison pl false s else s)
    ((cut 64 a bytes.length).foldl (fun s c =>
      match cacheHome p c.1 s with
      | some (sl, set) => cacheWriteGranule p sl set c.1 ((bytes.drop (c.1 - a)).take c.2) s
      | none => s) s)

/-- Bytes of a partition's space-0 memory at addresses known to be populated. -/
def load0 (p a len : Nat) (s : State) : List Byte :=
  (rangeFrom a len).map fun x => match place0 x s with | some pl => loadByte p x pl s | none => 0

/-- The memory of a space-0 address answers with poison: a stack taken offline (10 R338), an interleave set with a
channel or port that is not online (10 R339). -/
def offline (a : Nat) (s : State) : Bool :=
  if a < 2 ^ 40 then flag (bHbm (a / 2 ^ 36)) F.HB_FENCED s
  else match setOf a s with
    | some t => t.chans.any fun c => !flag (if t.tier = 2 then bDdr c else bCxl c) F.MC_ONLINE s
    | none => false

/-- A slice of the partition has failed as a whole: its outer tiers answer with poison (11 R365). -/
def sliceLost (p a : Nat) (s : State) : Bool :=
  decide (2 ^ 40 ≤ a) && s.memsys.failedSlices.any fun i => decide (ownerOf (bSlice i) s = some p)

/-! ### Requests (10 R327, R330, R331) -/

/-- The access unit at which an access is cut (10 R327, 11 R347); a stream to a peer goes in packets of 16 pieces (13 R430). -/
def pieceUnit (space a : Nat) : Nat :=
  if space = 0 then (if a < 2 ^ 40 then 256 else if a < 2 ^ 44 then 512 else 2048) else if space = 2 then 4096 else 256

/-- DEFAULT_SLACK of a target in ns (10 R331; the outer tiers have no such register: log entry 15). -/
def slackNs (space a : Nat) (s : State) : Nat :=
  if space = 0 ∧ a < 2 ^ 40 then getF (bHbm (a / 2 ^ 36)) F.HB_DEFAULT_SLACK s * 1000 else 10000

def queueOf (q : Nat) (s : State) : List Req := mapGet (fun _ => []) s.memsys.queues q
def setQueue (q : Nat) (l : List Req) (s : State) : State :=
  { s with memsys := { s.memsys with queues := mapPut (fun _ => []) q l s.memsys.queues } }
def sliceQueue (i : Nat) (s : State) : List Req := mapGet (fun _ => []) s.memsys.slices i
def setSliceQueue (i : Nat) (l : List Req) (s : State) : State :=
  { s with memsys := { s.memsys with slices := mapPut (fun _ => []) i l s.memsys.slices } }

/-- The granary slice that an access goes to: the home of a cached address, or the slice that space 3 names. -/
def sliceFor (p space a : Nat) (s : State) : Option Nat :=
  if space = 0 then (cacheHome p a s).map Prod.fst
  else if space = 3 ∧ bit 32 a then some (bits 30 2 a * 16 + bits 24 4 a) else none

/-- The length at which an access to an address is cut: a cached address is cut like its slice (11 R347, R349). -/
def cutUnit (p space a : Nat) (s : State) : Nat := if (sliceFor p space a s).isSome then 256 else pieceUnit space a

/-- A controller holds a read back for others to merge with (11 R359). -/
def mergeHolds (q : Nat) (write : Bool) (s : State) : Bool :=
  !write && decide (q < 1024 ∧ 0 < getF (bHbm (q / 64)) F.HB_MERGE_HOLD s)

/-- A request arrives at a controller. -/
def arriveAt (q : Nat) (r : Req) (s : State) : State :=
  setQueue q (queueOf q s ++ [{ r with held := mergeHolds q r.write s }]) s

/-- Requests that an engine has outstanding at a controller. -/
def outstanding (eng q : Nat) (s : State) : Nat := ((queueOf q s).filter fun r => r.croft == eng).length

/-- The requesting engines beside the crofts: the mill's channel and the host interface's DMA channel of a partition (log entry
57). -/
def millEngine (p : Nat) : Nat := 608 + p
def hostEngine (p : Nat) : Nat := 616 + p

/-- One piece of an access of the mill or the host goes to its slice or its controller; one that would be the thirteenth at a
tier-1 pseudo-channel waits in its engine (10 R330). -/
def postReq (eng p space a n : Nat) (write : Bool) (s : State) : State :=
  let r : Req := ⟨eng, s.nextUid, p, a, n, write, s.time + slackNs space a s, s.time, false⟩
  let s := { s with nextUid := s.nextUid + 1 }
  match sliceFor p space a s, (if space = 0 then ctrlOf a s else none) with
  | some i, _ => setSliceQueue i (sliceQueue i s ++ [r]) s
  | none, some q =>
    if q < 1024 ∧ 12 ≤ outstanding eng q s then { s with memsys := { s.memsys with waiting := s.memsys.waiting ++ [r] } }
    else arriveAt q r s
  | none, none => s

/-- An access of the mill or the host is cut at the access units of its target (10 R327), and each piece is a request there. -/
def memAsk (eng p space a n : Nat) (write : Bool) (s : State) : State :=
  (cut (cutUnit p space a s) a n).foldl (fun s x => postReq eng p space x.1 x.2 write s) s

/-- Requests that waited in their engine for a controller go to it as far as they have room, and arrive there now. -/
def admitWaiting (q : Nat) (s : State) : State :=
  let l := s.memsys.waiting
  l.foldl (fun s r =>
    if ctrlOf r.addr s = some q then
      if 12 ≤ outstanding r.croft q s then { s with memsys := { s.memsys with waiting := s.memsys.waiting ++ [r] } }
      else arriveAt q { r with piece := s.nextUid, deadline := s.time + slackNs 0 r.addr s, arrival := s.time }
        { s with nextUid := s.nextUid + 1 }
    else { s with memsys := { s.memsys with waiting := s.memsys.waiting ++ [r] } })
    { s with memsys := { s.memsys with waiting := [] } }

/-- Marks the piece of a croft's request as served. -/
def servePiece (r : Req) (poison late : Bool) (s : State) : State :=
  if r.croft < 608 then
    updCroft r.croft (fun k => { k with pieces := k.pieces.map fun p =>
      if p.id = r.piece then { p with served := true, poison := p.poison || poison, late := late } else p }) s
  else s

/-- Answers every request of a controller with poison (10 R338, R339). -/
def poisonQueue (q : Nat) (s : State) : State :=
  let w := s.memsys.waiting.filter fun r => ctrlOf r.addr s == some q
  let l := queueOf q s ++ w
  let s := { s with memsys := { s.memsys with waiting := s.memsys.waiting.filter fun r => ctrlOf r.addr s != some q } }
  l.foldl (fun s r => servePiece r true false (if r.write then s else addF (ctrlPage q) (fPoison q) 1 s)) (setQueue q [] s)

/-- The granule that holds the byte at address `a` and place `pl`, where accesses find it, is poisoned: in its line when a cache slice
holds it, else in memory (10 R336; 11 R362). -/
def foundPoison (p a pl : Nat) (s : State) : Bool :=
  match cacheHome p a s with
  | some (sl, set) =>
    match findWay sl set (a / 2048) s with
    | some w => if granuleValid sl set w (a % 2048 / 64) s
                then poisonedAt (plWay sl set w (a % 2048)) s else poisonedAt pl s
    | none => poisonedAt pl s
  | none => poisonedAt pl s

/-- The granule at an address is poisoned, or lies in memory that is offline. -/
def granulePoison (p a : Nat) (s : State) : Bool :=
  offline a s || sliceLost p a s ||
  match place0 a s with
  | none => false
  | some pl => foundPoison p a pl s

/-- Some granule of the range is poisoned, or lies in memory that is offline. -/
def poison0 (p a len : Nat) (s : State) : Bool := (cut 32 a len).any fun c => granulePoison p c.1 s

/-- The ECC granule of an address: 32 bytes of tier 1, 64 bytes of the outer tiers (10 R336). -/
def granuleStart (a : Nat) : Nat := if a < 2 ^ 40 then a - a % 32 else a - a % 64

/-- The first granule of a range that a test selects; the range's first one when none does. -/
def firstGranule (f : Nat → Bool) (a len : Nat) : Nat :=
  granuleStart (match (cut 32 a len).find? fun c => f c.1 with | some c => c.1 | none => a)

/-- Every byte of [a, a + len) is populated and belongs to the partition (10 R318, R319). Populated parts and owned
ranges end at multiples of 32 bytes, so one byte of each granule decides. -/
def reach0 (p a len : Nat) (s : State) : Bool :=
  (cut 32 a len).all fun c => (place0 c.1 s).isSome && decide (ownerOfAddr c.1 s = some p)

/-! ### Space 3 -/

/-- The place of a space-3 address for a requester of partition `p`; `own` is the issuing croft, if any
(10 R317, R318). -/
def place3 (p : Nat) (own : Option Nat) (a len : Nat) (s : State) : Option Nat :=
  if bits 33 19 a ≠ 0 then none
  else if bit 32 a then
    let i := bits 30 2 a * 16 + bits 24 4 a
    let o := bits 0 24 a
    if bits 28 2 a ≠ 0 ∨ 0xC00000 < o + len then none
    else if ownerOf (bSlice i) s = some p ∧ getF (bSlice i) F.GR_MODE s = 1 ∧ flag (bSlice i) F.GR_FENCED s = false
    then some (plSlice i o) else none
  else
    let g := bits 22 10 a
    let o := bits 0 22 a
    if 0x300000 < o + len then none
    else if g = 0x3FF then own.map fun c => plLarder c o
    else if g < 576 then
      let c := globalPhys g s
      if contextOf c s = some p then some (plLarder c o) else none
    else none

/-! ### Space 1: translation (16 R551, R552) -/

/-- The translation region of a partition: base and bytes. -/
def htRoot (p : Nat) (s : State) : Nat := getPair (bFunction (p + 1)) F.FP_HT_ROOT_LO F.FP_HT_ROOT_HI s
def htBytes (p : Nat) (s : State) : Nat := getF (bFunction (p + 1)) F.FP_HT_BYTES s * 2 ^ 20

/-- A table of `n` bytes at `b` lies in the region and in the partition's tier-1 memory. -/
def tableOk (p b n : Nat) (s : State) : Bool :=
  decide (htRoot p s ≤ b ∧ b + n ≤ htRoot p s + htBytes p s ∧ b + n ≤ 2 ^ 40) &&
  reach0 p b 1 s && reach0 p (b + n - 1) 1 s

/-- Keeps a translation, dropping the oldest beyond the capacity (log entry 8). -/
def keepTrans (cap key e : Nat) (l : List Trans) : List Trans :=
  let l := l.filter fun t => decide (t.key ≠ key)
  (if cap ≤ l.length then l.drop (l.length + 1 - cap) else l) ++ [⟨key, e⟩]

/-- The level-1 entry for a partition-virtual address: a kept one, else the table's; an entry read with poison translates nothing (log
entry 57). -/
def level1 (p va : Nat) (s : State) : Option (Nat × State) :=
  let key := va / 2 ^ 30
  match (partOf p s).l1.find? fun t => decide (t.key = key) with
  | some t => some (t.entry, s)
  | none =>
    if tableOk p (htRoot p s) (2 ^ 21) s && !poison0 p (htRoot p s + 8 * key) 8 s then
      let e := natOf (load0 p (htRoot p s + 8 * key) 8 s)
      let s := memAsk (hostEngine p) p 0 (htRoot p s + 8 * key) 8 false s
      some (e, updPart p (fun k => { k with l1 := keepTrans 64 key e k.l1 }) s)
    else none

/-- The level-2 entry of a level-1 entry. -/
def level2 (p va e1 : Nat) (s : State) : Option (Nat × State) :=
  let key := va / 2 ^ 21
  match (partOf p s).l2.find? fun t => decide (t.key = key) with
  | some t => some (t.entry, s)
  | none =>
    let b := bits 12 40 e1 * 2 ^ 12
    if tableOk p b 4096 s && !poison0 p (b + 8 * (va / 2 ^ 21 % 512)) 8 s then
      let e := natOf (load0 p (b + 8 * (va / 2 ^ 21 % 512)) 8 s)
      let s := memAsk (hostEngine p) p 0 (b + 8 * (va / 2 ^ 21 % 512)) 8 false s
      some (e, updPart p (fun k => { k with l2 := keepTrans 512 key e k.l2 }) s)
    else none

/-- The access has its permission: R in bit 2, W in bit 3. -/
def permits (write : Bool) (e : Nat) : Bool := if write then bit 3 e else bit 2 e

/-- Host bus address of a partition-virtual address and whether it lies in a bounce page; none = the translation
fails (16 R551, R552), or the link to E0 and with it the host link is lost (01 R30). -/
def hostXlate (p va : Nat) (write : Bool) (s : State) : Option (Nat × Bool × State) :=
  if s.power.e0Lost || decide (2 ^ 48 ≤ va) then none
  else match level1 p va s with
    | none => none
    | some (e1, s) =>
      if !bit 0 e1 || bits 4 8 e1 ≠ 0 || !permits write e1 then none
      else if bit 1 e1 then
        if bits 12 18 e1 ≠ 0 then none else some (bits 30 34 e1 * 2 ^ 30 + va % 2 ^ 30, false, s)
      else if bits 52 12 e1 ≠ 0 then none
      else match level2 p va e1 s with
        | none => none
        | some (e2, s) =>
          if !bit 0 e2 || !bit 1 e2 || bits 5 16 e2 ≠ 0 || !permits write e2 then none
          else some (bits 21 43 e2 * 2 ^ 21 + va % 2 ^ 21, bit 4 e2, s)

end Sys2Proof.Machine
end

