-- ==== Sys2Proof/Machine/Events.lean ====
section
/-!
DEFINITION. Event records, event rings, MSI-X, journal entries and sealing: how a block reports (16 R545 to R549,
R565, R566, R659; 17 R582 to R584; 18 R610).
-/
namespace Sys2Proof.Machine

/-! ### Sealing (16 R565 to R568) -/

/-- Additional data of a sealed record: kind, partition, ring or 0xFF, 0x00, slot index (16 R565, R566). -/
def recordAad (kind p r slot : Nat) : List Byte :=
  [BitVec.ofNat 8 kind, BitVec.ofNat 8 p, BitVec.ofNat 8 r, 0] ++ bytesOf 4 slot

/-- Additional data of a data chunk (16 R567). -/
def chunkAad (p va bb : Nat) : List Byte :=
  [3, BitVec.ofNat 8 p, 0, 0, 0, 0, 0, 0] ++ bytesOf 8 va ++ bytesOf 8 bb

def sealOf (fn : Nat) (s : State) : Option Seal := mapGet (fun _ => none) s.host.sealing fn
def setSeal (fn : Nat) (k : Option Seal) (s : State) : State :=
  { s with host := { s.host with sealing := mapPut (fun _ => none) fn k s.host.sealing } }

/-! ### Host memory as a function reaches it -/

/-- Writes bytes at a function's address: a host bus address for the PF, a space-1 address for a VF, cut at 2 MiB
pages; none = a translation fails (16 R535, R552), or the host link is lost with E0 (01 R30). -/
def fnWrite (fn a : Nat) (l : List Byte) (s : State) : Option State :=
  if fn = 0 then (if s.power.e0Lost then none else some (wrN (plHost a) l s))
  else (cut (2 ^ 21) a l.length).foldl (fun o c =>
    match o with
    | none => none
    | some s =>
      match hostXlate (fn - 1) c.1 true s with
      | none => none
      | some (h, _, s) => some (wrN (plHost h) ((l.drop (c.1 - a)).take c.2) s)) (some s)

/-- A base register pair of a function page: a host bus address for the PF, and for a VF the 52 address bits of a
space-1 address; a base that is not aligned is used as it is written (16 R535, R551, R569; log entry 30). -/
def fnBase (fn : Nat) (lo hi : Field) (s : State) : Nat :=
  if fn = 0 then getPair (bFunction fn) lo hi s else bits 0 52 (getPair (bFunction fn) lo hi s)

/-- Reads bytes at a function's address. -/
def fnRead (fn a n : Nat) (s : State) : Option (List Byte × State) :=
  if fn = 0 then (if s.power.e0Lost then none else some (rdN (plHost a) n s, s))
  else (cut (2 ^ 21) a n).foldl (fun o c =>
    match o with
    | none => none
    | some (acc, s) =>
      match hostXlate (fn - 1) c.1 false s with
      | none => none
      | some (h, _, s) => some (acc ++ rdN (plHost h) c.2 s, s)) (some ([], s))

/-! ### Journal -/

/-- Number of a requester. -/
def reqCode : Requester → Nat
  | .host f => f.val
  | .control => 16
  | .dispatch => 17
  | .reeve => 18

/-- Hands an entry to the reeve, which commits it later (17 R583). -/
def journal (kind source part severity : Nat) (payload : Nat) (s : State) : State :=
  let e : JEntry := ⟨0, s.time, getF bThermal F.TH_POWERED_H s, getF bReeve F.RV_BOOTS s, kind, source, part, severity,
    BitVec.ofNat 224 payload⟩
  { s with reeve := { s.reeve with log := s.reeve.log ++ [e] } }

/-! ### MSI-X (16 R549) -/

/-- The vector of an event type of a function. -/
def vectorOf (fn type : Nat) (s : State) : Nat :=
  if type ≤ 8 then bits (4 * (type - 1)) 4 (getF (bFunction fn) F.FP_MSIX_MAP0 s)
  else bits (4 * (type - 9)) 4 (getF (bFunction fn) F.FP_MSIX_MAP1 s)

/-- MSI-X of a function. -/
def msixOf (fn : Nat) (s : State) : Msix := mapGet (fun _ => Msix.reset) s.host.msix fn
def setMsix (fn : Nat) (m : Msix) (s : State) : State :=
  { s with host := { s.host with msix := mapPut (fun _ => Msix.reset) fn m s.host.msix } }

/-- What the MSI-X table holds before it is written: every vector masked (log entry 65). -/
def msixEntry (k : Nat) : Nat := if k % 4 = 3 then 1 else 0

/-- A vector is masked: by its own bit in the table, or with the whole function. -/
def Msix.holds (m : Msix) (vec : Nat) : Bool := m.masked || bit 0 (mapGet msixEntry m.table (4 * vec + 3))

/-- Puts an MSI-X message on the link. -/
def sendMsix (fn vec : Nat) (s : State) : State := { s with host := { s.host with out := s.host.out ++ [.msix fn vec] } }

/-- An MSI-X message: nothing beyond its vector. A masked vector becomes pending; while MSI-X is off none is sent (log entry 65). -/
def fireMsix (fn vec : Nat) (s : State) : State :=
  let m := msixOf fn s
  let s := { s with host := { s.host with msixPend := mapDel (fn * 16 + vec) s.host.msixPend } }
  if !m.on then s
  else if m.holds vec then setMsix fn { m with waiting := vec :: m.waiting.filter fun v => v != vec } s
  else sendMsix fn vec s

/-- Takes new MSI-X settings: pending vectors that they no longer hold back are sent. -/
def changeMsix (fn : Nat) (m : Msix) (s : State) : State :=
  let go := m.waiting.filter fun v => m.on && !m.holds v
  go.foldl (fun s v => sendMsix fn v s) (setMsix fn { m with waiting := m.waiting.filter fun v => !(m.on && !m.holds v) } s)

/-- A record is pending for its vector: fires at the c-th, at once when COUNT is 0. -/
def pendMsix (fn vec : Nat) (s : State) : State :=
  let c := getF (bFunction fn) F.FP_COUNT s
  let k := fn * 16 + vec
  match mapGet (fun _ => none) s.host.msixPend k with
  | none =>
    if c ≤ 1 then fireMsix fn vec s
    else { s with host := { s.host with msixPend := mapPut (fun _ => none) k (some (1, s.time)) s.host.msixPend } }
  | some (n, t) =>
    if c ≤ n + 1 then fireMsix fn vec s
    else { s with host := { s.host with msixPend := mapPut (fun _ => none) k (some (n + 1, t)) s.host.msixPend } }

/-- The message that follows a record (16 R549): at once for a completion with IRQ, else under MSIX_TYPES. -/
def signal (fn type : Nat) (irq : Bool) (s : State) : State :=
  if irq then fireMsix fn (vectorOf fn type s) s
  else if bit type (getF (bFunction fn) F.FP_MSIX_TYPES s) then pendMsix fn (vectorOf fn type s) s
  else s

/-- An uncorrectable error that a function logs: its bit of the AER status register as PCI Express numbers them (16 R525; 18 R623; log entry
65). -/
def logAer (fn n : Nat) (s : State) : State :=
  addF bHostIf F.HI_AER_UNCORRECTABLE 1
    { s with host := { s.host with aer := mapPut (fun _ => 0) fn (setBits n 1 1 (mapGet (fun _ => 0) s.host.aer fn)) s.host.aer } }

/-! ### Event rings -/

def ringOf (fn : Nat) (s : State) : EvRing := mapGet (fun _ => EvRing.reset) s.host.rings fn
def setRing (fn : Nat) (r : EvRing) (s : State) : State :=
  { s with host := { s.host with rings := mapPut (fun _ => EvRing.reset) fn r s.host.rings } }

/-- Slots of a function's event ring. -/
def evSlots (fn : Nat) (s : State) : Nat := 2 ^ getF (bFunction fn) F.FP_EV_LOG2 s

/-- Commands of a function in flight (16 R542). -/
def inflight (fn : Nat) (s : State) : Nat := (s.host.cmds.filter fun c => decide (c.fn = fn)).length

/-- The ring takes records: enabled and not stopped. -/
def evLive (fn : Nat) (s : State) : Bool :=
  flag (bFunction fn) F.FP_EV_ENABLE s && !flag (bFunction fn) F.FP_EV_ERR s

/-- The 32 bytes of a record (16 R545). -/
def evBytes (e : Ev) (seq : Nat) (phase gap : Bool) : List Byte :=
  [BitVec.ofNat 8 e.type, BitVec.ofNat 8 e.subtype] ++ bytesOf 2 e.source ++
  [BitVec.ofNat 8 (if e.part < 8 then e.part else 8), BitVec.ofNat 8 (bitOf gap + 2 * bitOf e.ledger), 0, 0] ++
  bytesOf 8 e.time ++ bytesOf 4 (seq + bitOf phase * 2 ^ 31) ++ bytesOf 12 e.payload.toNat

/-- The slot after the last one written, and the phase it takes (16 R547). -/
def advanceRing (fn : Nat) (s : State) : State :=
  let r := ringOf fn s
  let wrap := r.tail + 1 = evSlots fn s
  setRing fn { r with tail := if wrap then 0 else r.tail + 1, phase := if wrap then !r.phase else r.phase,
                      used := r.used + 1, seq := (r.seq + 1) % 2 ^ 31, gap := false } s

/-- Writes a record of the PF or of a partition that is not confidential into the next slot; none = the write fails. -/
def putPlain (fn : Nat) (e : Ev) (s : State) : Option State :=
  let r := ringOf fn s
  let base := fnBase fn F.FP_EV_BASE_LO F.FP_EV_BASE_HI s
  (fnWrite fn (base + 32 * r.tail) (evBytes e r.seq r.phase r.gap) s).map (advanceRing fn)

/-- Writes a sealed record and its tag entry (16 R566). -/
def putSealed (fn : Nat) (k : Seal) (e : Ev) (s : State) : Option State :=
  let r := ringOf fn s
  let base := fnBase fn F.FP_EV_BASE_LO F.FP_EV_BASE_HI s
  let tags := fnBase fn F.FP_EV_TAG_BASE_LO F.FP_EV_TAG_BASE_HI s
  let plain := evBytes e r.seq r.phase r.gap
  let cipher := gcmXor k.d2h r.sealed plain
  let tag := gcmTag k.d2h r.sealed (recordAad 2 (fn - 1) 0xFF r.tail) cipher
  let entry := tag ++ bytesOf 8 r.sealed ++ [BitVec.ofNat 8 (bitOf r.phase), 0, 0, 0, 0, 0, 0, 0]
  match fnWrite fn (base + 32 * r.tail) cipher s with
  | none => none
  | some s =>
    (fnWrite fn (tags + 32 * r.tail) entry s).map fun s =>
      setRing fn { ringOf fn s with sealed := r.sealed + 1 } (advanceRing fn s)

/-- Writes a record, sealed for a confidential partition. -/
def putRecord (fn : Nat) (e : Ev) (s : State) : Option State :=
  if 0 < fn ∧ confidential (fn - 1) s then
    match sealOf fn s with
    | some k => putSealed fn k e s
    | none => none
  else putPlain fn e s

/-- An unsolicited record when a free slot beyond the reservation exists, else the hold queue, else dropped, and counted in SEQ all the
same (16 R547, R548). -/
def offer (fn : Nat) (e : Ev) (s : State) : Option State :=
  let r := ringOf fn s
  if r.held.isEmpty ∧ r.used + inflight fn s < evSlots fn s ∧ !flag (bFunction fn) F.FP_EV_ERR s then
    (putRecord fn e s).map (signal fn e.type false)
  else if r.held.length < 256 then some (setRing fn { r with held := r.held ++ [e] } s)
  else some (addF (bFunction fn) F.FP_EV_DROPPED 1 (setRing fn { r with seq := (r.seq + 1) % 2 ^ 31, gap := true } s))

/-- Delivers an unsolicited event to the PF's ring, whose writes need no translation. -/
def toPf (e : Ev) (s : State) : State :=
  if flag (bFunction 0) F.FP_EV_ENABLE s then (offer 0 e s).getD s else s

/-- The event ring of a function stops (16 R553): EV_ERR, and a report to the PF's ring. -/
def stopEvRing (fn : Nat) (s : State) : State :=
  let s := setF (bFunction fn) F.FP_EV_ERR 1 (addF (bFunction fn) F.FP_RING_ERRORS 1 s)
  if fn = 0 then s
  else toPf ⟨0x0C, 0x04, 7 * 4096 + fn, fn - 1, false, s.time, BitVec.ofNat 96 (fn - 1)⟩ s

/-- Delivers an unsolicited event to one function's ring. -/
def toFn (fn : Nat) (e : Ev) (s : State) : State :=
  if fn = 0 then toPf e s
  else if flag (bFunction fn) F.FP_EV_ENABLE s then
    match offer fn e s with
    | some s => s
    | none => stopEvRing fn s
  else s

/-- Whom an event concerns (16 R546). -/
inductive Scope where
  | part (p : Nat)       -- a partition: its VF's ring
  | none                 -- no partition: the PF's ring
  | all                  -- device-wide: every enabled ring
deriving DecidableEq, Repr

/-- SOURCE kind of a block (16 R545; log entry 9 for blocks without a code). -/
def sourceKind (b : Nat) : Nat :=
  match kindOf b with
  | .croft => 0 | .hbm => 1 | .slice => 2 | .tally => 3 | .mill => 4 | .well => 5
  | .hostIf | .function => 7
  | .port => 8
  | .channel => if b < 756 then 9 else 10
  | .reeve | .thermal => 11
  | _ => 6

/-- The instance number of a block (18 R609, 16 R545). -/
def instanceOf (b : Nat) (s : State) : Nat :=
  match kindOf b with
  | .croft => croftNumber (b - 32) s
  | .hamlet => b - 640
  | .hbm => b - 656
  | .slice => b - 672
  | .die => if b < 740 then b - 736 else b - 740
  | .channel => if b < 756 then b - 744 else b - 756
  | .port => b - 760
  | .function => b - 16
  | _ => 0

/-- SOURCE field of a block. -/
def sourceOf (b : Nat) (s : State) : Nat := sourceKind b * 4096 + instanceOf b s

/-- The gating class of an event type; none = never gated and not shown in SEEN (18 R610). -/
def classOf (type : Nat) : Option Nat :=
  match type with
  | 0x04 => some 0
  | 0x02 | 0x03 => some 1
  | 0x05 | 0x06 | 0x07 | 0x09 | 0x0B => some 2
  | 0x08 => some 3
  | 0x0A => some 4
  | _ => none

/-- Raises an event of a block: SEEN, the gate of CLASS_EN, and the rings (18 R610, 16 R546). -/
def raise (b type subtype : Nat) (sc : Scope) (ledger : Bool) (payload : Nat) (s : State) : State :=
  let s := match classOf type with
    | some c => setF b F.BLK_SEEN (getF b F.BLK_SEEN s ||| 2 ^ c) s
    | none => s
  let open_ := match classOf type with
    | some (c + 1) => bit c (getF b F.BLK_CLASS_EN s)
    | _ => true
  if open_ then
    let e (p : Nat) : Ev := ⟨type, subtype, sourceOf b s, p, ledger, s.time, BitVec.ofNat 96 payload⟩
    match sc with
    | .part p => toFn (p + 1) (e p) s
    | .none => toFn 0 (e 8) s
    | .all => (List.range 9).foldl (fun t fn => toFn fn (e 8) t) s
  else s

/-- The scope of a block's owner. -/
def ownerScope (b : Nat) (s : State) : Scope :=
  match ownerOf b s with
  | some p => .part p
  | none => .none

/-- A register write that is discarded and reported (16 R659, 18 R622): the event carries the BAR0 offset. -/
def discard (b bar0 : Nat) (sc : Scope) (s : State) : State :=
  raise b 0x04 0 sc false (bar0 * 2 ^ 64) (addF bDevice F.DEV_WRITES_DISCARDED 1 s)

/-- Drains the hold queue of a ring into free slots (16 R548). -/
def drainHeld (fn : Nat) : Nat → State → State
  | 0, s => s
  | fuel + 1, s =>
    let r := ringOf fn s
    match r.held with
    | [] => s
    | e :: rest =>
      if evLive fn s ∧ r.used + inflight fn s < evSlots fn s then
        match putRecord fn e (setRing fn { r with held := rest } s) with
        | some s => drainHeld fn fuel (signal fn e.type false s)
        | none => stopEvRing fn s
      else s

end Sys2Proof.Machine
end

