-- ==== Sys2Proof/Machine/Access.lean ====
section
/-!
DEFINITION. How a running task reads and writes memory (10 R316 to R318, 11 R345 to R351, 16 R551 to R568): a small
state monad whose errors are a task fault, or a stop until a peer has answered. The bytes move at once (11 R355: when
pieces move changes nothing); every access outside the croft's own larder also leaves a transfer that must run through
the shuttle before the task completes.
-/
namespace Sys2Proof.Machine

/-- A task fault (03 R95, 16 R659). -/
structure TFault where
  code : Nat
  operand : Nat
  detail : Nat
  space : Nat
  addr : Nat
  sets : List (Field × Nat)      -- what its unit records in the croft's page (GZ_FAULT, UP_FAULT, MV_FAULT, FN_FAULT)
deriving DecidableEq, Repr

/-- Why a task's run stops: a fault, a read answered with poison, a translation fault over a chunk whose tag failed, or bytes of
a peer that have not come yet. -/
inductive Stop where
  | fault (f : TFault)
  | poison (f : TFault)
  | tag (f : TFault)
  | park (addr len : Nat)
deriving DecidableEq, Repr

/-- A step of a task's work: it may stop, and keeps what it has done. -/
abbrev TM (α : Type) := EStateM Stop State α

/-- Who runs: physical croft, task, partition, unit class. -/
structure TCtx where
  croft : Nat
  uid : Nat
  part : Nat
  unit : Nat
  lo : Nat := 0        -- the bounds of the stream that the next accesses belong to; none = [0, 0): the access alone (11 R345)
  hi : Nat := 0
  picker : Bool := false   -- the next accesses are of one of the picker's own streams (11, before R377)
  bb : Nat := 0        -- BB_GEN when the task started (16 R567)
deriving DecidableEq, Repr

/-- The accesses of a tensor window, a tile range or a raw range, which bounds their streams (11 R345). -/
def TCtx.within (c : TCtx) (lo hi : Nat) : TCtx := { c with lo := lo, hi := hi }

/-- Stops with a fault that carries no address. -/
def tFault {α : Type} (code operand detail : Nat) : TM α := throw (.fault ⟨code, operand, detail, 0, 0, []⟩)

/-- Stops with a fault and a record in the unit's fault registers. -/
def tFaultSet {α : Type} (code operand detail : Nat) (sets : List (Field × Nat)) : TM α :=
  throw (.fault ⟨code, operand, detail, 0, 0, sets⟩)

/-- Refuses unless a check holds. -/
def tCheck (c : Bool) (code operand detail : Nat) : TM Unit := if c then pure () else tFault code operand detail

/-- Stops with UNIT_ERROR unless the data are good; the fault names the granule that is poisoned (10 R336). -/
def tSound (c : Bool) (granule : Nat) : TM Unit := if c then pure () else throw (.fault ⟨0x0B, 0, 5, 0, granule, []⟩)

/-- Applies an update. -/
def tUpd (f : State → State) : TM Unit := modify f

/-- Takes in what the memory of a partition answers on [a, a + len): a poisoned granule stops the task (10 R336). -/
def tAnswered (part a len : Nat) : TM Unit := do
  let s ← get
  if poison0 part a len s then
    throw (.poison ⟨0x0B, 0, 5, 0, firstGranule (fun x => granulePoison part x s) a len, []⟩)

/-- Applies an update that may find no room; then the step goes on as `m`. -/
def tTry (f : State → Option State) (m : TM Unit) : TM Unit := fun s =>
  match f s with
  | some t => .ok () t
  | none => m s

/-- The transfer of `rows` rows of `len` bytes at a fixed stride, bounded by what the task names (11 R345). -/
def logRows (c : TCtx) (space addr len rows stride : Nat) (write : Bool) (s : State) : State :=
  if len = 0 ∨ rows = 0 then s
  else
    let own : Nat × Nat := (addr, addr + (rows - 1) * stride + len)
    let ends := if c.hi = 0 then own else (c.lo, c.hi)
    let x : Xfer := ⟨c.uid, c.unit, space, addr, len, rows, stride, write, ends.1, ends.2, 0, 0, 0, 0, 0, s.time, c.picker⟩
    updCroft c.croft (fun k => { k with xfers := k.xfers ++ [x] }) s

/-- The transfer a task's access leaves for the shuttle or the courier (11 R345, R350). -/
def logXfer (c : TCtx) (space addr len : Nat) (write : Bool) (s : State) : State := logRows c space addr len 1 0 write s

/-- A translation fault of an operand (10 R318, 16 R659). -/
def tTranslation {α : Type} (operand space addr : Nat) : TM α := throw (.fault ⟨0x09, operand, 0, space, addr, []⟩)

/-- A failed tag: the SECURITY event and FAILED_TAGS (16 R568). -/
def failedTag (p addr : Nat) (s : State) : State :=
  raise (bFunction (p + 1)) 0x0D 0x02 (.part p) false addr (addF (bFunction (p + 1)) F.FP_FAILED_TAGS 1 s)

/-- One bounce-page chunk, opened: host bus address of its page, chunk number, chunk virtual address, BB_GEN (16 R567). The trailer does
not say which side has written the chunk: it opens under the host's key or else under the device's (log entry 63). -/
def openChunk (p page i va bb : Nat) (s : State) : Option (List Byte) :=
  match sealOf (p + 1) s with
  | none => none
  | some k =>
    let cipher := rdN (plHost (page + 4096 * i)) 4096 s
    let trailer := rdN (plHost (page + 2080768 + 32 * i)) 32 s
    let counter := natOf ((trailer.drop 16).take 8)
    let opened (v : SealKey) : Option (List Byte) :=
      let plain := gcmXor v counter cipher
      if gcmTag v counter (chunkAad p va bb) cipher = trailer.take 16 then some plain else none
    if bit 63 counter = false then none else (opened k.h2d).or (opened k.d2h)

/-- Seals one whole chunk the device writes (16 R567). -/
def sealChunk (p page i va bb : Nat) (plain : List Byte) (s : State) : State :=
  match sealOf (p + 1) s with
  | none => s
  | some k =>
    let counter := 2 ^ 63 + k.chunkCount
    let cipher := gcmXor k.d2h counter plain
    let tag := gcmTag k.d2h counter (chunkAad p va bb) cipher
    let s := setSeal (p + 1) (some { k with chunkCount := k.chunkCount + 1 }) s
    wrN (plHost (page + 2080768 + 32 * i)) (tag ++ bytesOf 8 counter ++ bytesOf 8 0) (wrN (plHost (page + 4096 * i)) cipher s)

/-- Translates one page part of a space-1 access of a task; with the link to E0 lost the request is discarded (01 R30, R31). -/
def tXlate (c : TCtx) (operand va : Nat) (write : Bool) : TM (Nat × Bool) := do
  if (← get).power.e0Lost then tFault 0x0C operand 0
  match hostXlate c.part va write (← get) with
  | none => tTranslation operand 1 va
  | some (h, bb, s) => set s; pure (h, bb)

/-- Reads space 1 for a task (16 R551, R567, R568). -/
def readHost (c : TCtx) (operand a len : Nat) : TM (List Byte) := do
  let conf := confidential c.part (← get)
  if conf then
    (cut 4096 a len).foldlM (fun acc x => do
      let (h, bb) ← tXlate c operand x.1 false
      let off := x.1 % 2 ^ 21
      let i := off / 4096
      if !bb || 508 ≤ i then tTranslation operand 1 x.1
      else
        match openChunk c.part (h - off) i (x.1 - x.1 % 4096) c.bb (← get) with
        | some plain => pure (acc ++ (plain.drop (x.1 % 4096)).take x.2)
        | none => throw (.tag ⟨0x09, operand, 0, 1, x.1, []⟩)) []
  else
    (cut (2 ^ 21) a len).foldlM (fun acc x => do
      let (h, _) ← tXlate c operand x.1 false
      pure (acc ++ rdN (plHost h) x.2 (← get))) []

/-- Writes space 1 for a task: whole chunks only in a confidential partition (16 R568). -/
def writeHost (c : TCtx) (operand a : Nat) (l : List Byte) : TM Unit := do
  let conf := confidential c.part (← get)
  if conf then
    if a % 4096 ≠ 0 ∨ l.length % 4096 ≠ 0 then tTranslation operand 1 a
    else
      (cut 4096 a l.length).forM fun x => do
        let (h, bb) ← tXlate c operand x.1 true
        let off := x.1 % 2 ^ 21
        if !bb || 508 ≤ off / 4096 then tTranslation operand 1 x.1
        else tUpd (sealChunk c.part (h - off) (off / 4096) x.1 c.bb ((l.drop (x.1 - a)).take 4096))
  else
    (cut (2 ^ 21) a l.length).forM fun x => do
      let (h, _) ← tXlate c operand x.1 true
      tUpd (wrN (plHost h) ((l.drop (x.1 - a)).take x.2))

/-- Every byte asked of the peer has come. -/
def PeerData.full (d : PeerData) : Bool := d.parts.foldl (fun n p => n + p.2.length) 0 == d.len
/-- The bytes of a peer, in address order. -/
def PeerData.bytes (d : PeerData) : List Byte := ((sortBy (fun a b => decide (a.1 ≤ b.1)) d.parts).map Prod.snd).flatten

/-- Reads a peer: the answer that has come, else the task stops until it does (13 R430). -/
def readPeer (c : TCtx) (a len : Nat) : TM (List Byte) := do
  let k := croftOf c.croft (← get)
  match k.peerIn.find? fun d => decide (d.uid = c.uid ∧ d.addr = a ∧ d.len = len) with
  | some d => if d.full then pure d.bytes else throw (.park a len)
  | none => throw (.park a len)

/-- The place lies in the croft's own larder. -/
def ownLarder (c : Nat) (p : Nat) : Bool := decide (plLarder c 0 ≤ p ∧ p < plLarder (c + 1) 0)

/-- An access at this space and address leaves the croft: it is a transfer of the shuttle or courier (11 R345). -/
def leaves (c : TCtx) (space a len : Nat) (s : State) : Bool :=
  space != 3 || (match place3 c.part (some c.croft) a len s with | some p => !ownLarder c.croft p | none => false)

/-- Reads `len` bytes at a space and address (10 R317, R318), without a transfer of its own. -/
def tPeek (c : TCtx) (operand space a len : Nat) : TM (List Byte) := do
  if len = 0 then pure []
  else if space = 3 then
    match place3 c.part (some c.croft) a len (← get) with
    | none => tTranslation operand 3 a
    | some p => pure (rdN p len (← get))
  else if space = 0 then
    if reach0 c.part a len (← get) then do
      tAnswered c.part a len
      pure (load0 c.part a len (← get))
    else tTranslation operand 0 a
  else if space = 1 then readHost c operand a len
  else readPeer c a len

/-- Reads `len` bytes at a bolt-encoded space and address. -/
def tRead (c : TCtx) (operand space a len : Nat) : TM (List Byte) := do
  if space != 2 && leaves c space a len (← get) then tUpd (logXfer c space a len false)
  tPeek c operand space a len

/-- Reads `rows` rows of `len` bytes at a fixed stride, as one stream. -/
def tReadRows (c : TCtx) (operand space a len rows stride : Nat) : TM (List (List Byte)) := do
  if space != 2 && leaves c space a len (← get) then tUpd (logRows c space a len rows stride false)
  (List.range rows).mapM fun i => tPeek c operand space (a + i * stride) len

/-- A write of part of a poisoned granule faults its task and leaves the poison; memory that is offline, or whose slice has failed,
takes no write (10 R336, R339; 11 R365). -/
def partialGranule (p a len x : Nat) (s : State) : Bool :=
  offline x s || sliceLost p x s ||
  match place0 x s with
  | none => false
  | some pl =>
    let ga := x - (pl - granuleOf pl)
    foundPoison p x pl s && !decide (a ≤ ga ∧ ga + granuleSize pl ≤ a + len)

def partialPoison (p a len : Nat) (s : State) : Bool := (cut 32 a len).any fun c => partialGranule p a len c.1 s

/-- Writes bytes at a space and address, without a transfer of its own. -/
def tPoke (c : TCtx) (operand space a : Nat) (l : List Byte) : TM Unit := do
  if l.isEmpty then pure ()
  else if space = 3 then
    match place3 c.part (some c.croft) a l.length (← get) with
    | none => tTranslation operand 3 a
    | some p => tUpd (wrN p l)
  else if space = 0 then
    if reach0 c.part a l.length (← get) then do
      let s ← get
      tSound (!partialPoison c.part a l.length s) (firstGranule (fun x => partialGranule c.part a l.length x s) a l.length)
      tUpd (store0 c.part a l)
    else tTranslation operand 0 a
  else if space = 1 then writeHost c operand a l
  else tUpd (updCroft c.croft fun k => { k with peerOut := k.peerOut ++ [⟨c.uid, a, l, 0⟩] })

/-- Writes bytes at a bolt-encoded space and address. -/
def tWrite (c : TCtx) (operand space a : Nat) (l : List Byte) : TM Unit := do
  if leaves c space a l.length (← get) then tUpd (logXfer c space a l.length true)
  tPoke c operand space a l

/-- Writes rows of equal length at a fixed stride, as one stream: rows that adjoin are one range, whose whole chunks they cover together
(16 R568). -/
def tWriteRows (c : TCtx) (operand space a stride : Nat) (rows : List (List Byte)) : TM Unit := do
  let len := (rows.headD []).length
  if leaves c space a len (← get) then tUpd (logRows c space a len rows.length stride true)
  if space = 1 ∧ stride = len then tPoke c operand space a rows.flatten
  else (rows.zip (List.range rows.length)).forM fun e => tPoke c operand space (a + e.2 * stride) e.1

/-- An address field as a bolt's BASE encodes it: space and address. -/
def spaceOf (b : Nat) : Nat := bits 52 2 b
def addrOf (b : Nat) : Nat := bits 0 52 b

/-- Reads at a BASE-encoded address plus an offset. -/
def tReadAt (c : TCtx) (operand base off len : Nat) : TM (List Byte) :=
  tRead c operand (spaceOf base) (addrOf base + off) len

/-- Writes at a BASE-encoded address plus an offset. -/
def tWriteAt (c : TCtx) (operand base off : Nat) (l : List Byte) : TM Unit :=
  tWrite c operand (spaceOf base) (addrOf base + off) l

/-- Reads the croft's own larder: no transfer, no fault. -/
def larderRead (croft off len : Nat) (s : State) : List Byte := rdN (plLarder croft off) len s
def larderWrite (croft off : Nat) (l : List Byte) (s : State) : State := wrN (plLarder croft off) l s

end Sys2Proof.Machine
end

