-- ==== Sys2Proof/Machine/Tasks.lean ====
section
/-!
DEFINITION. Task descriptors and the croft's task sequencer (03 R74 to R101): fields, arrival checks, start rules,
faults, completion bookkeeping, purging.
-/
namespace Sys2Proof.Machine

/-! ### Descriptor fields (03 R74, R78) -/

/-- The field of `n` bytes at byte `off` of a descriptor. -/
def dF (off n : Nat) (d : Desc) : Nat := bits (8 * off) (8 * n) d.toNat

def dOpcode (d : Desc) : Nat := dF 0 1 d
def dFlags (d : Desc) : Nat := dF 1 1 d
def dFence (d : Desc) : Bool := bit 0 (dFlags d)
def dEvent (d : Desc) : Bool := bit 1 (dFlags d)
def dDeadlineEn (d : Desc) : Bool := bit 2 (dFlags d)
def dTaskId (d : Desc) : Nat := dF 2 2 d
def dWaitTally (d : Desc) : Nat := bits 0 12 (dF 4 2 d)
def dWaitUse (d : Desc) : Bool := bit 15 (dF 4 2 d)
def dDoneTally (d : Desc) : Nat := bits 0 12 (dF 6 2 d)
def dDoneUse (d : Desc) : Bool := bit 15 (dF 6 2 d)
def dWaitValue (d : Desc) : Nat := dF 8 4 d
def dDoneAdd (d : Desc) : Nat := dF 12 2 d
def dEnergy (d : Desc) : Nat := dF 14 2 d
def dCycles (d : Desc) : Nat := dF 16 2 d
def dStepTag (d : Desc) : Nat := dF 18 2 d
def dDeadline (d : Desc) : Nat := dF 20 4 d

/-- The opcodes (03 R78). -/
def opGzPlain : Nat := 0x01
def opGzWeft : Nat := 0x02
def opLoomFwd : Nat := 0x08
def opLoomPair : Nat := 0x09
def opLookout : Nat := 0x0A
def opFnFwd : Nat := 0x10
def opFnDeriv : Nat := 0x11
def opUpdate : Nat := 0x18
def opThresh : Nat := 0x19
def opGlean : Nat := 0x1A
def opReweave : Nat := 0x1B
def opCopy : Nat := 0x20
def opGather : Nat := 0x21
def opTallyAdd : Nat := 0x28
def opTallyWait : Nat := 0x29
def opTallyExpect : Nat := 0x2A
def opStats : Nat := 0x30
def opSendTile : Nat := 0x38
def opParity : Nat := 0x39

/-- The operand fields of an opcode, as (offset, bytes, mask of its defined bits); `raw` is COPY's MODE[2]. -/
def operandFields (op : Nat) (raw : Bool) : List (Nat × Nat × Nat) :=
  let h (o : Nat) : Nat × Nat × Nat := (o, 4, 0xFFFFFFFF)
  let w (o : Nat) : Nat × Nat × Nat := (o, 2, 0xFFFF)
  let q (o : Nat) : Nat × Nat × Nat := (o, 8, 2 ^ 54 - 1)
  match op with
  | 0x01 | 0x02 => [h 0x18, h 0x1C, h 0x20, w 0x24, w 0x26, w 0x28, w 0x2A, w 0x2C, (0x2E, 1, 7), (0x2F, 1, 3)]
  | 0x08 => [h 0x18, h 0x1C, h 0x20, w 0x24, w 0x26, w 0x28, w 0x2A, (0x2E, 1, 3), (0x2F, 1, 3)]
  | 0x09 => [h 0x18, h 0x1C, h 0x20, h 0x24, h 0x28, w 0x2C, w 0x2E, w 0x30, w 0x32, (0x34, 1, 15)]
  | 0x0A => [h 0x18, h 0x1C, h 0x20, w 0x24, w 0x26, (0x28, 1, 0xFF)]
  | 0x10 => [h 0x18, h 0x1C, h 0x20, (0x24, 1, 0xFF), (0x25, 1, 0xFF), w 0x26, h 0x28, h 0x2C]
  | 0x11 => [h 0x18, h 0x1C, h 0x20, (0x24, 1, 0xFF), (0x25, 1, 0xFF), h 0x28, h 0x2C]
  | 0x18 => [h 0x18, h 0x1C, h 0x20, h 0x24, h 0x28, h 0x2C, h 0x30]
  | 0x19 => [h 0x18, h 0x1C, h 0x20, h 0x2C, h 0x30]
  | 0x1A => [h 0x18, h 0x1C, h 0x20, h 0x24, h 0x2C, h 0x30]
  | 0x1B => [h 0x18, h 0x1C, q 0x20, h 0x2C, h 0x30]
  | 0x20 => if raw then [q 0x18, q 0x20, h 0x28, (0x2D, 1, 7)]
            else [h 0x18, h 0x1C, h 0x20, h 0x24, h 0x28, (0x2C, 1, 0xFF), (0x2D, 1, 7)]
  | 0x21 => [h 0x18, h 0x1C, h 0x20, h 0x24, h 0x28]
  | 0x28 => [(0x18, 2, 0xFFF), h 0x1C]
  | 0x29 => [(0x18, 2, 0xFFF), h 0x1C]
  | 0x2A => [(0x18, 2, 0xFFF), h 0x1C, h 0x20]
  | 0x30 => [h 0x18, (0x1C, 1, 0xFF)]
  | 0x38 => [h 0x18, h 0x1C, w 0x20, w 0x22, h 0x24, w 0x28]
  | 0x39 => [h 0x18, q 0x20, (0x28, 8, 2 ^ 64 - 1)]
  | _ => []

/-- The opcode is defined. -/
def opDefined (op : Nat) : Bool := !(operandFields op false).isEmpty

/-- Unit class of an opcode: 0 G, 1 L, 2 F, 3 U, 4 P, 5 S, 6 Q (03 R78). -/
def unitOf (op : Nat) : Nat :=
  if op < 8 then 0 else if op < 0x10 then 1 else if op < 0x18 then 2 else if op < 0x20 then 3
  else if op = 0x21 then 4 else if op = 0x20 ∨ op = 0x38 ∨ op = 0x39 then 5 else 6

/-- Commit-class opcodes (03 R79). -/
def commitClass (op : Nat) : Bool := decide (op = 0x18 ∨ op = 0x19 ∨ op = 0x1A ∨ op = 0x1B ∨ op = 0x39)

/-- COPY's raw form. -/
def dRaw (d : Desc) : Bool := dOpcode d == opCopy && bit 2 (dF 0x2D 1 d)

/-- The first operand byte that holds a reserved bit, or the first operand field with a reserved value (03 R92, R11):
the offset to report. -/
def operandFault (d : Desc) : Option Nat :=
  let op := dOpcode d
  let fs := operandFields op (dRaw d)
  let bad (o : Nat) : Bool :=
    match fs.find? fun f => decide (f.1 ≤ o ∧ o < f.1 + f.2.1) with
    | none => dF o 1 d ≠ 0
    | some f => o == f.1 &&
      (decide (dF f.1 f.2.1 d % (f.2.2 + 1) ≠ dF f.1 f.2.1 d) ||
        (match op, o with
          | 0x01, 0x2E | 0x02, 0x2E => bits 0 2 (dF 0x2E 1 d) == 3
          | 0x08, 0x2E => bits 0 2 (dF 0x2E 1 d) == 0
          | 0x0A, 0x26 => decide (1024 < dF 0x26 2 d)
          | 0x10, 0x24 | 0x11, 0x24 => decide (15 < dF 0x24 1 d)
          | 0x10, 0x25 | 0x11, 0x25 => decide (2 < dF 0x25 1 d)
          | 0x30, 0x1C => decide (1 < dF 0x1C 1 d)
          | 0x39, 0x18 => decide (bits 6 10 (dF 0x18 4 d) ≠ 0 ∨ 2 ≤ bits 4 2 (dF 0x18 4 d))
          | _, _ => false))
  (rangeFrom 0x18 40).find? bad

/-- Reserved bits of the header: FLAGS[7:3] and the two tally fields' [14:12]. -/
def headerReserved (d : Desc) : Bool :=
  bits 3 5 (dFlags d) ≠ 0 || bits 12 3 (dF 4 2 d) ≠ 0 || bits 12 3 (dF 6 2 d) ≠ 0

/-- The map entry of a virtual tally in a context: physical index, when VALID (12 R391). -/
def tallyPhys (ctx v : Nat) (s : State) : Option Nat :=
  match mapGet (fun _ => 0) s.tally.maps (ctx * 4096 + v) with
  | 0 => none
  | n + 1 => if n < 16384 then some n else none

/-- A virtual ID is mapped in the croft's context (12 R393). -/
def tallyMapped (c v : Nat) (s : State) : Bool :=
  match contextOf c s with
  | none => false
  | some p => (tallyPhys p v s).isSome

/-- Arrival checks of a descriptor: the fault code and OPERAND it fails with, if any (03 R92). -/
def arrivalFault (c : Nat) (d : Desc) (s : State) : Option (Nat × Nat) :=
  let op := dOpcode d
  if !opDefined op then some (0x01, 0)
  else if headerReserved d then some (0x02, 0)
  else match operandFault d with
    | some o => some (0x02, o)
    | none =>
      if dWaitUse d && !tallyMapped c (dWaitTally d) s then some (0x03, 0)
      else if dDoneUse d && !tallyMapped c (dDoneTally d) s then some (0x03, 0)
      else if (op == opTallyAdd || op == opTallyWait || op == opTallyExpect) && !tallyMapped c (dF 0x18 2 d) s
      then some (0x03, 0x18)
      else none

/-! ### Queue -/

def findTask (c uid : Nat) (s : State) : Option Task := (croftOf c s).queue.find? fun t => decide (t.uid = uid)

def updTask (c uid : Nat) (f : Task → Task) (s : State) : State :=
  updCroft c (fun k => { k with queue := k.queue.map fun t => if t.uid = uid then f t else t }) s

/-- Sends a tally operation on fabric class 0. -/
def sendTally (ctx virt : Nat) (k : TallyKind) (src : TallySrc) (s : State) : State :=
  { s with tally := { s.tally with ops := s.tally.ops ++ [⟨ctx, virt, k, src⟩] } }

/-- Everything of a task that the memory system still holds is dropped (11 R383). -/
def dropTraffic (c uid : Nat) (s : State) : State :=
  updCroft c (fun k => { k with
    xfers := k.xfers.filter fun x => decide (x.uid ≠ uid)
    streams := k.streams.filter fun e => match e.2 with | some x => decide (x.uid ≠ uid) | none => true
    peerIn := k.peerIn.filter fun x => decide (x.uid ≠ uid)
    peerOut := k.peerOut.filter fun x => decide (x.uid ≠ uid)
    shadow := k.shadow.filter fun x => decide (x.uid ≠ uid)
    gz := k.gz.filter fun g => decide (g.uid ≠ uid)
    loom := k.loom.filter fun g => decide (g.uid ≠ uid)
    weave := k.weave.filter fun g => decide (g.uid ≠ uid)
    work := k.work.filter fun g => decide (g.uid ≠ uid)
    ending := k.ending.filter fun g => decide (g.uid ≠ uid) }) s

/-- Removes a task from its slot: the credit returns (03 R82). -/
def removeTask (c uid : Nat) (s : State) : State :=
  updCroft c (fun k => { k with queue := k.queue.filter fun t => decide (t.uid ≠ uid) }) (dropTraffic c uid s)

/-- Updates the commands in flight. -/
def mapCmds (f : Cmd → Cmd) (s : State) : State := { s with host := { s.host with cmds := s.host.cmds.map f } }

/-- A command whose task has ended with a status: the last task, or a status other than OK, ends the command; a STEP
ends when the last of its commit-class tasks, which run after its commit verdict only, has completed (16 R538, R540, R543). -/
def Cmd.taskEnded (k : Cmd) (status result : Nat) : Cmd :=
  if dF 0 1 k.words = 2 then
    (if status ≠ 0 then k
     else if k.left ≤ 1 then { k with left := 0, phase := .done }
     else { k with left := k.left - 1 })
  else
  let k := { k with left := k.left - 1 }
  if status ≠ 0 then { k with phase := .done, status := status, result := result }
  else if k.left = 0 then { k with phase := .done } else k

/-- One task of a host command has ended with a status. -/
def endOfTask (cmd status result : Nat) (s : State) : State :=
  if cmd = 0 then s
  else mapCmds (fun k => if k.uid = cmd ∧ (k.phase = .running ∨ k.phase = .waiting) then k.taskEnded status result
    else k) s

/-- Ends a whole command with a status. -/
def endCmd (uid status result : Nat) (s : State) : State :=
  mapCmds (fun k => if k.uid = uid ∧ k.phase ≠ .done then { k with phase := .done, status := status, result := result }
    else k) s

/-- The partition's step is to get a repeat; the first cause counts. -/
def askRepeat (p reason : Nat) (s : State) : State :=
  updPart p (fun k => { k with repeatDue := some (k.repeatDue.getD reason) }) s

/-- The step in progress, if it has no verdict yet, is to get a repeat (03 R96, R104; 12 R402; 13 R452). What still faults of an
attempt that has the verdict repeat asks for no other. -/
def stepRepeat (p reason : Nat) (s : State) : State :=
  if timed p s && (partOf p s).run.any fun r => !r.reissue then askRepeat p reason s else s

/-- Data of the job have been lost on a link: the job's current epoch, whether its step has been accepted here or not and whether or not
it waits to be reissued, does not commit; its REASON is 0x05 (01 R31; 13 R415, R446, R452). -/
def lossRepeat (p : Nat) (s : State) : State :=
  if timed p s && ((partOf p s).run.isSome || getF bMill (F.ML_JOB_ENABLE.at p) s == 1) then askRepeat p 0x05 s else s

/-- What a fault of a task means for its partition in timed service: the step repeats (03 R96), or commits stop (03 R97). Which of the
two a commit-class task of a committed step brings that has not started: log entry 47. -/
def stepFault (p : Nat) (stop : Bool) (reason : Nat) (s : State) : State :=
  if stop then (if timed p s then updPart p (fun k => { k with stopCommits := true }) s else s)
  else stepRepeat p reason s

/-- A granule of space 0 has been read poisoned in timed service: once in a step it is remembered, and again in a repeat of that
step it stops the partition's commits (10 R336). -/
def poisonRead (p granule : Nat) (s : State) : State :=
  match (partOf p s).run with
  | none => s
  | some r =>
    if !timed p s then s
    else if (partOf p s).poisoned.any fun e => e.1 == granule && decide (e.2 < r.attempt) then
      updPart p (fun k => { k with stopCommits := true }) s
    else updPart p (fun k => { k with poisoned := k.poisoned ++ [(granule, r.attempt)] }) s

/-- A STEP command: it waits for its commit-class tasks only (16 R540). -/
def stepTask (cmd : Nat) (s : State) : Bool := s.host.cmds.any fun k => k.uid == cmd && dF 0 1 k.words == 2

/-- A fault of the task stops the partition's commits: a commit-class task that has started (03 R97), or one of a step whose
verdict is commit, which can no longer be applied whole (03 R80; log entry 47). -/
def stopsCommits (c : Nat) (d : Desc) (started : Bool) (s : State) : Bool :=
  commitClass (dOpcode d) && (started || getF (bCroft c) F.COMMITTED_STEP s == dStepTag d)

/-- The end of a faulted task for its command: TASK_FAULT with the task and its croft. A STEP of which a commit-class task
stops the commits ends with it, since no later commit-class task of it will run (03 R97; log entry 24). -/
def faultEnds (c : Nat) (d : Desc) (cmd : Nat) (stop : Bool) (s : State) : State :=
  let result := dTaskId d + croftNumber c s % 1024 * 2 ^ 16
  if stop && stepTask cmd s then endCmd cmd 0x06 result s else endOfTask cmd 0x06 result s

/-- A round is abandoned on this device, once, whichever of its tasks faults first: ROUNDS_ABANDONED and the event of the group (14
R476). -/
def abandonRound (p group tag : Nat) (s : State) : State :=
  let j := mapGet (fun _ => Job.reset) s.mill.jobs p
  let step := (j.par.rounds.find? fun q => q % 2 ^ 16 == tag).getD tag
  if j.par.abandoned.contains step then s
  else
    let j := { j with par := { j.par with abandoned := step :: j.par.abandoned } }
    raise bMill 0x0B 3 (.part p) false group (addF bMill (F.ML_PAR_ROUNDS_ABANDONED.at p) 1
      { s with mill := { s.mill with jobs := mapPut (fun _ => Job.reset) p j s.mill.jobs } })

/-- A faulted PARITY task of a round (14 R476): one in rebuild mode belongs to no round, and one of a step that repeats comes again. -/
def parityFault (p c : Nat) (d : Desc) (started : Bool) (s : State) : State :=
  if dOpcode d == opParity && bits 4 2 (dF 0x18 4 d) != 1 && timed p s && stopsCommits c d started s then
    abandonRound p (dF 0x18 4 d % 16) (dStepTag d) s
  else s

/-- Reports a task fault: FAULT_CODE, FAULT_INFO, the event, HALTED, and what it means for the step (03 R95 to R97,
16 R659). -/
def reportFault (c : Nat) (d : Desc) (cmd : Nat) (started : Bool) (f : TFault) (s : State) : State :=
  let b := bCroft c
  let code := f.code + f.operand * 2 ^ 8
  let info := f.detail + dOpcode d * 2 ^ 8 + dTaskId d * 2 ^ 16
  let s := f.sets.foldl (fun s e => setF b e.1 e.2 s) s
  let s := setF b F.BLK_FAULT_INFO info (setF b F.BLK_FAULT_CODE code s)
  let s := setF b F.SEQ_STATUS_HALTED 1 s
  let s := if f.code = 0x09 then
      raise b 0x04 1 (ownerScope b s) false
        (0x09 + f.operand * 2 ^ 8 + dTaskId d * 2 ^ 16 + dOpcode d * 2 ^ 32 +
          (f.space + bits 48 4 f.addr * 4) * 2 ^ 40 + f.addr % 2 ^ 48 * 2 ^ 48) s
    else raise b 0x04 0 (ownerScope b s) false (code + info * 2 ^ 32) s
  let s := match contextOf c s with
    | some p =>
      let s := parityFault p c d started s
      let s := if f.code = 0x0B ∧ f.detail = 5 ∧ f.space = 0 then poisonRead p f.addr s else s
      stepFault p (stopsCommits c d started s) 0x01 s
    | none => s
  faultEnds c d cmd (stopsCommits c d started s) s

/-- The bytes of a span take free values: contents the spec leaves open (11 R375; log entries 3, 14). -/
def freeSpan (p c : Nat) (e : Nat × Nat × Nat) (s : State) : State :=
  let l := (List.range e.2.2).map fun i => BitVec.ofNat 8 (Config.freeValue (s.free + i))
  let s := { s with free := s.free + e.2.2 }
  if e.1 = 0 then store0 p e.2.1 l s
  else if e.1 = 3 then
    match place3 p (some c) e.2.1 e.2.2 s with
    | some q => wrN q l s
    | none => s
  else s

/-- The spans that an in-place COPY has begun to write (11 R375). -/
def firmOf (c uid : Nat) (s : State) : List (Nat × Nat × Nat) :=
  (((croftOf c s).work.filter fun w => decide (w.uid = uid)).map WorkRun.firm ++
    ((croftOf c s).ending.filter fun e => decide (e.uid = uid)).map Ending.firm).flatten

/-- A fault during the writes of an in-place COPY leaves its region with contents that are not defined (11 R375). -/
def freeFirm (c uid : Nat) (s : State) : State :=
  match contextOf c s with
  | some p => (firmOf c uid s).foldl (fun s e => freeSpan p c e s) s
  | none => s

/-- The slots of a product task that faults take back what they held, unless another task has used them since (04 R142; 05 R170; log
entry 62). -/
def undoSlots (c uid : Nat) (s : State) : State :=
  (((croftOf c s).ending.filter fun e => decide (e.uid = uid)).map Ending.undo).flatten.foldl (fun s e =>
    if larderRead c e.1 e.2.2.length s = e.2.2 then larderWrite c e.1 e.2.1 s else s) s

/-- A TALLY_ADD or TALLY_EXPECT of the task is on the fabric, and the tally file has not acknowledged it (12 R394). -/
def opOut (c uid : Nat) (s : State) : Bool :=
  s.tally.ops.any fun o => o.src == .task c uid && (match o.kind with | .add _ | .expect _ _ => true | _ => false)

/-- Ends a task that has not completed: its slot is freed, after the withdrawal of a registration that it still holds and the
acknowledgement of an operation that it has sent (12 R394, R400). -/
def abandonTask (c : Nat) (t : Task) (s : State) : State :=
  let leave (s : State) : State := updTask c t.uid (fun t => { t with phase := .leaving }) (dropTraffic c t.uid s)
  match contextOf c s with
  | some p =>
    if t.registered then
      sendTally p (if t.phase == .queued then dWaitTally t.desc else dF 0x18 2 t.desc) .withdraw (.task c t.uid) (leave s)
    else if opOut c t.uid s then leave s
    else removeTask c t.uid s
  | none => removeTask c t.uid s

/-- A task of the queue fails: reported, and its slot is freed (03 R82, R95; log entry 10). -/
def failTask (c uid : Nat) (f : TFault) (s : State) : State :=
  match findTask c uid s with
  | none => s
  | some t => abandonTask c t (reportFault c t.desc t.cmd (t.phase == .running) f (undoSlots c uid (freeFirm c uid s)))

/-! ### Starting (03 R83, R84) -/

/-- The highest point at or below `k` that is not withdrawn; 0 when every one is (15 R506). -/
def notWithdrawn (c : Nat) (s : State) : Nat → Nat
  | 0 => 0
  | k + 1 => if flag (bCroft c) (F.CP_POINT_WITHDRAWN.at (k + 1)) s then notWithdrawn c s k else k + 1

/-- The point a croft is to run at: its request, under its thermal cap, at a point that is not withdrawn (15 R505, R506,
R514). -/
def targetPoint (c : Nat) (s : State) : Nat :=
  notWithdrawn c s (min (getF (bCroft c) F.CP_CTRL_POINT_REQ s) (getF (bCroft c) F.CP_STATUS_CAP_POINT s))

/-- Clock of a croft in MHz (15 R505). -/
def clockMhz (c : Nat) (s : State) : Nat :=
  max 1 (getF (bCroft c) (F.CP_POINT_FREQ_MHZ.at (getF (bCroft c) F.CP_STATUS_POINT s)) s)
def nsToCycles (c ns : Nat) (s : State) : Nat := ns * clockMhz c s / 1000

/-- The rail of a croft that leaves Retention is still ramping (15 R504). -/
def asleep (c : Nat) (s : State) : Bool := decide (s.time < mapGet (fun _ => 0) s.power.wake c)

/-- A croft leaves Retention: its rail ramps for 50 µs (15 R504; log entry 68). -/
def leaveRetention (c : Nat) (s : State) : State :=
  setF (bCroft c) F.CP_STATUS_STATE 2
    { s with power := { s.power with wake := mapPut (fun _ => 0) c (s.time + 50000) s.power.wake } }

/-- The croft runs a task. -/
def runsTask (c : Nat) (s : State) : Bool := (croftOf c s).queue.any fun t => t.phase == .running

/-- The croft hums (15 R502): in a partition, STOP 0, no task running. -/
def hums (c : Nat) (s : State) : Bool :=
  (contextOf c s).isSome && !flag (bCroft c) F.SEQ_CTRL_STOP s && !runsTask c s

/-- Since when the croft has hummed without interruption (15 R503). -/
def setHum (c : Nat) (since : Option Nat) (s : State) : State :=
  { s with power := { s.power with idle := mapPut (fun _ => none) c since s.power.idle } }

/-- The croft's hum goes on, begins or ends. -/
def noteHum (c : Nat) (s : State) : State :=
  setHum c (if hums c s then some ((mapGet (fun _ => none) s.power.idle c).getD s.time) else none) s

/-- The croft may start tasks: not stopped, not halted, not fenced, its rail up, no point change asked for or under way
(03 R95, R101, R103, 15 R504, R505). -/
def mayStart (c : Nat) (s : State) : Bool :=
  !asleep c s && !flag (bCroft c) F.SEQ_CTRL_STOP s && !flag (bCroft c) F.SEQ_STATUS_HALTED s && !fenced (bCroft c) s &&
  !flag (bCroft c) F.CP_STATUS_CHANGING s && targetPoint c s == getF (bCroft c) F.CP_STATUS_POINT s

/-- The wait of a task is satisfied: by a release, by USE = 0, or by a wait value of 0 (12 R396). -/
def waitOk (t : Task) : Bool := t.satisfied || !dWaitUse t.desc || dWaitValue t.desc == 0

/-- The commit gate is open (03 R79), and the partition still commits (03 R97). -/
def gateOk (c : Nat) (d : Desc) (s : State) : Bool :=
  if commitClass (dOpcode d) then
    (!croftTimed c s || getF (bCroft c) F.COMMITTED_STEP s == dStepTag d) &&
    (match contextOf c s with | some p => !(timed p s && (partOf p s).stopCommits) | none => true)
  else true

/-- No unit class runs two tasks (03 R84). A unit is idle once it has done its work (04 R135); the picker and the shuttle,
whose whole work is a transfer (03 R78), once the transfer has ended. -/
def unitIdle (c u : Nat) (s : State) : Bool :=
  !((croftOf c s).queue.any fun t =>
    t.phase == .running && (!t.worked || u == 4 || u == 5) && unitOf (dOpcode t.desc) == u)

/-- The oldest task of a unit class that has not started, with the number of tasks before it in the queue that have not
completed: one that waits for the acknowledgement of its addition has (03 R87, 12 R400). -/
def oldestOf (u : Nat) : List Task → Nat → Option (Task × Nat)
  | [], _ => none
  | t :: r, n => if t.phase == .queued && unitOf (dOpcode t.desc) == u then some (t, n)
    else oldestOf u r (if t.phase == .leaving then n else n + 1)

/-- The task that a unit class starts at this start opportunity (03 R83, R84). -/
def startable (c u : Nat) (s : State) : Option Task :=
  if mayStart c s && unitIdle c u s then
    match oldestOf u (croftOf c s).queue 0 with
    | none => none
    | some (t, n) =>
      if waitOk t && (!dFence t.desc || n == 0) && gateOk c t.desc s then some t else none
  else none

/-- The task of a given opcode that starts now, if it is that one's turn. -/
def startableOp (c op : Nat) (s : State) : Option Task :=
  (startable c (unitOf op) s).filter fun t => dOpcode t.desc == op

/-- Notes that a commit-class task of the committed step has started (12 R402). -/
def noteCommit (c : Nat) (d : Desc) (s : State) : State :=
  match contextOf c s with
  | some p => if commitClass (dOpcode d) && timed p s then updPart p (fun k => { k with begun := true }) s else s
  | none => s

/-- BB_GEN of a croft's partition. -/
def bbOf (c : Nat) (s : State) : Nat := match contextOf c s with | some p => (partOf p s).bbGen | none => 0

/-- Marks a task started (03 R101 LAST_STARTED; 12 R405: a hum ends). -/
def markStarted (c : Nat) (t : Task) (s : State) : State :=
  let s := noteCommit c t.desc s
  let s := setHum c none s
  setF (bCroft c) F.LAST_STARTED (dTaskId t.desc + dOpcode t.desc * 2 ^ 16)
    (updTask c t.uid (fun t => { t with phase := .running, started := s.time, bb := bbOf c s }) s)

/-- The unit has done a task's work. -/
def markWorked (c uid : Nat) (s : State) : State := updTask c uid (fun t => { t with worked := true }) s

/-- A transfer that travels on the courier path: one that its task makes alone, not a part of the picker's streams (11 R350, R377). -/
def Xfer.courier (x : Xfer) : Bool := x.rows == 1 && !x.picker && decide (x.len ≤ 256 ∧ x.addr % 256 + x.len ≤ 256)

/-- Bytes of a transfer. -/
def Xfer.bytes (x : Xfer) : Nat := x.len * x.rows

/-- A transfer of a task that has no number yet. -/
def Xfer.unnumbered (uid : Nat) (x : Xfer) : Bool := x.uid == uid && x.batch == 0

/-- Gives one new transfer of tile `b` its tile, and a stream its offset among the bytes of its direction, read bytes and write bytes so
far (11 R352). -/
def numberOne (uid b rd wr : Nat) (a : Nat × Nat × List Xfer) (x : Xfer) : Nat × Nat × List Xfer :=
  if x.unnumbered uid then
    if x.courier then (a.1, a.2.1, a.2.2 ++ [{ x with batch := b }])
    else if x.write then (a.1, a.2.1 + x.bytes, a.2.2 ++ [{ x with batch := b, tile := wr, offset := a.2.1 }])
    else (a.1 + x.bytes, a.2.1, a.2.2 ++ [{ x with batch := b, tile := rd, offset := a.1 }])
  else (a.1, a.2.1, a.2.2 ++ [x])

/-- The transfers that a task has just named belong to one tile, block or record of it: to the next one, or when `same` holds to the one
whose reads it named before (11 R352, R353; log entry 15). -/
def numberXfers (same : Bool) (uid : Nat) (k : Croft) : Croft :=
  let new := k.xfers.filter (Xfer.unnumbered uid)
  let sum (w : Bool) := (new.filter fun x => !x.courier && x.write == w).foldl (fun n x => n + x.bytes) 0
  match new, k.queue.find? fun t => t.uid == uid with
  | _ :: _, some t =>
    let b := if same then max 1 t.batch else t.batch + 1
    let r := k.xfers.foldl (numberOne uid b (sum false) (sum true)) (t.readNamed, t.writeNamed, [])
    { k with xfers := r.2.2, queue := k.queue.map fun t =>
        if t.uid = uid then { t with batch := b, readNamed := r.1, writeNamed := r.2.1 } else t }
  | _, _ => k

/-- Asks a peer for bytes a parked task needs, as a read stream of its own (13 R430). -/
def askPeer (c uid unit addr len : Nat) (s : State) : State :=
  updCroft c (fun k =>
    if k.peerIn.any fun d => decide (d.uid = uid ∧ d.addr = addr ∧ d.len = len) then k
    else { k with
      peerIn := k.peerIn ++ [⟨uid, addr, len, []⟩]
      xfers := k.xfers ++ [⟨uid, unit, 2, addr, len, 1, 0, false, addr, addr + len, 0, 0, 0, 0, 0, s.time, false⟩] }) s

/-- Starts a task: its work runs; a fault refuses or fails it (03 R93, R95), missing peer bytes leave it queued. -/
def runTask (c : Nat) (t : Task) (work : TCtx → TM Unit) (s : State) : State :=
  match contextOf c s with
  | none => s
  | some p =>
    let ctx : TCtx := { croft := c, uid := t.uid, part := p, unit := unitOf (dOpcode t.desc), bb := (partOf p s).bbGen }
    match work ctx (markStarted c t s) with
    | .ok _ s' => updCroft c (numberXfers false t.uid) s'
    | .error (.fault f) s' => failTask c t.uid f s'
    | .error (.poison f) s' => failTask c t.uid f (poisonAnswered f.addr s')
    | .error (.tag f) s' => failTask c t.uid f (failedTag p (f.addr - f.addr % 4096) s')
    | .error (.park a n) _ => askPeer c t.uid (unitOf (dOpcode t.desc)) a n s

/-! ### Ending -/

/-- Nothing a task did is still on its way: its transfers, pieces, folds and peer accesses are done (03 R87). -/
def drained (c uid : Nat) (s : State) : Bool :=
  let k := croftOf c s
  !(k.xfers.any fun x => x.uid == uid) &&
  !(k.streams.any fun e => match e.2 with | some x => x.uid == uid | none => false) &&
  !(k.pieces.any fun x => x.uid == uid) && !(k.peerOut.any fun x => x.uid == uid) &&
  !(s.foldq.any fun x => x.croft == c && (x.uid == uid || x.waits.contains uid))

/-- A completing task's shadow cells are binned: SH_TILES, the histogram, and one record for the task when it added to the
bins 5 to 7 (06 R210, R212, R213; its subtype and payload: log entry 11). -/
def binShadow (c : Nat) (t : Task) (s : State) : State :=
  let p := bCroft c
  match (croftOf c s).shadow.find? fun x => decide (x.uid = t.uid) with
  | none => s
  | some x =>
    let s := updCroft c (fun k => { k with shadow := k.shadow.filter fun x => decide (x.uid ≠ t.uid) }) s
    let s := x.bins.foldl (fun s i => addF p (F.SH_BIN.at i) 1 s) (addF p F.SH_TILES 1 s)
    let cnt (i : Nat) : Nat := (x.bins.filter fun b => b == i).length
    if flag p F.NUM_CTRL_SHADOW_EVENT s && x.bins.any (fun b => decide (5 ≤ b)) then
      raise p 0x06 1 (ownerScope p s) false
        (dTaskId t.desc + dStepTag t.desc * 2 ^ 16 + cnt 5 * 2 ^ 32 + cnt 6 * 2 ^ 40 + cnt 7 * 2 ^ 48) s
    else s

/-- The event record of a completion, which follows the tally addition (03 R89). -/
def taskEvent (c : Nat) (d : Desc) (s : State) : State :=
  if dEvent d then
    raise (bCroft c) 0x02 0 (ownerScope (bCroft c) s) false
      (dTaskId d + dStepTag d * 2 ^ 16 + croftNumber c s * 2 ^ 32) s
  else s

/-- The descriptor's task is a commit-class task of a step whose verdict is commit (03 R79, R80). -/
def committedDesc (c : Nat) (d : Desc) (s : State) : Bool :=
  croftTimed c s && commitClass (dOpcode d) && decide (dStepTag d = getF (bCroft c) F.COMMITTED_STEP s)

/-- The descriptors on their way to a croft that a test selects are removed as if they had been queued: they leave the fabric
before a write that follows them (01 R27). A commit-class task of a committed step stays (03 R80). -/
def purgeArriving (c : Nat) (sel : Desc → Bool) (s : State) : State :=
  let out (a : Arrival) : Bool := sel a.desc && !committedDesc c a.desc s
  ((croftOf c s).arriving.filter out).foldl (fun s a => endOfTask a.cmd 0x07 0 s)
    (updCroft c (fun k => { k with arriving := k.arriving.filter fun a => !out a }) s)

/-- PURGE and PURGE_STEP: removes the unstarted tasks a test selects, and withdraws running TALLY_WAITs (03 R101). No purge removes a
commit-class task of a committed step (03 R80). -/
def purge (c : Nat) (sel : Task → Bool) (s : State) : State :=
  (croftOf c s).queue.foldl (fun s t =>
    if sel t && !committedDesc c t.desc s && (t.phase == .queued || (t.phase == .running && dOpcode t.desc == opTallyWait && !t.worked)) then
      endOfTask t.cmd 0x07 0 (abandonTask c t s)
    else s) s

end Sys2Proof.Machine
end

