-- ==== Sys2Proof/Machine/Bolts.lean ====
section
/-!
DEFINITION. Bolts and tiles (02 R47 to R73, R653; 04 R141): reading and checking a bolt, the shard a device holds,
directory entries, and reading twill and gauze tiles as exact values.
-/
namespace Sys2Proof.Machine

/-- The number of `n` bytes at an offset of a byte string. -/
def leAt (l : List Byte) (off n : Nat) : Nat := natOf ((l.drop off).take n)

/-- The fields of 128 bytes. -/
def Bolt.parse (l : List Byte) : Bolt :=
  { fmt := leAt l 1 1 % 16, cls := leAt l 2 1, flags := leAt l 3 1, tag := leAt l 4 4, rank := leAt l 8 1,
    meshRank := leAt l 9 1, switchNnz := leAt l 0xA 2, gen := leAt l 0xC 4,
    shape := (List.range 4).map fun d => leAt l (0x10 + 4 * d) 4,
    meshShape := (List.range 4).map fun a => leAt l (0x20 + 2 * a) 2,
    meshCoord := (List.range 4).map fun a => leAt l (0x28 + 2 * a) 2,
    shardMap := (List.range 4).map fun d => leAt l (0x30 + d) 1,
    pitch := leAt l 0x34 4, base := leAt l 0x38 8, dir := leAt l 0x40 8, scaleBase := leAt l 0x48 8,
    maskBase := leAt l 0x50 8, stats := leAt l 0x58 8 }

def Bolt.sparse (b : Bolt) : Bool := bit 0 b.flags
def Bolt.scaled (b : Bolt) : Bool := bit 1 b.flags
def Bolt.hasStats (b : Bolt) : Bool := bit 2 b.flags
def nth (l : List Nat) (i : Nat) : Nat := (l[i]?).getD 0
def Bolt.dim (b : Bolt) (d : Nat) : Nat := nth b.shape d
def Bolt.sharded (b : Bolt) (d : Nat) : Bool := bit 2 (nth b.shardMap d)
def Bolt.axis (b : Bolt) (d : Nat) : Nat := bits 0 2 (nth b.shardMap d)

/-- Bytes of one tile's values (02 R49, table "Storage of one twill tile"). -/
def tileBytes (fmt : Nat) : Nat := 16384 * fmtBits fmt / 8

/-- Global units of a dimension (02 R67). -/
def Bolt.units (b : Bolt) (d : Nat) : Nat :=
  if (2 ≤ b.rank ∧ d < 2) ∨ (b.rank = 1 ∧ d = 0) then cdiv (b.dim d) 128 else b.dim d

/-- First unit of the local shard (02 R68). -/
def Bolt.start (b : Bolt) (d : Nat) : Nat :=
  if b.sharded d then
    min (b.units d) (nth b.meshCoord (b.axis d) * cdiv (b.units d) (nth b.meshShape (b.axis d)))
  else 0

/-- Units of the local shard. -/
def Bolt.ext (b : Bolt) (d : Nat) : Nat :=
  if b.sharded d then
    min ((nth b.meshCoord (b.axis d) + 1) * cdiv (b.units d) (nth b.meshShape (b.axis d))) (b.units d) - b.start d
  else b.units d

/-- Local tiles of the shard (02 R70). -/
def Bolt.tiles (b : Bolt) : Nat := b.ext 0 * b.ext 1 * b.ext 2 * b.ext 3

/-- The local shard is empty (02 R68, R69). -/
def Bolt.empty (b : Bolt) : Bool := b.tiles == 0

/-! ### Validity (02 R73, R653) -/

/-- The flags agree with the format, the class and the rank. -/
def Bolt.flagsOk (b : Bolt) : Bool :=
  (!alwaysScaled b.fmt || b.scaled) && (decide (5 ≤ b.fmt ∧ b.fmt ≤ 8) || !b.scaled) &&
  (!(decide (1 ≤ b.cls ∧ b.cls ≤ 3) || b.cls == 7 || b.cls == 8) || !b.sparse) &&
  (!decide (1 ≤ b.cls ∧ b.cls ≤ 3) || b.hasStats) && (!(b.cls == 7 || b.cls == 8) || !b.hasStats) &&
  (b.rank != 1 || (!b.sparse && !b.scaled))

/-- An address field agrees with its flag and its alignment. -/
def addrOk (a : Nat) (flag : Bool) : Bool := a % 32 == 0 && (if flag then a != 0 else a == 0)

/-- Two sharded dimensions below and at `d` share a mesh axis. -/
def Bolt.axisTaken (b : Bolt) (d : Nat) : Bool :=
  b.sharded d && (List.range d).any fun e => b.sharded e && b.axis e == b.axis d

/-- The first byte of [off, off + n) whose reserved bits, of a mask over the field, are nonzero. -/
def reservedByte (l : List Byte) (off n mask : Nat) : List (Nat × Bool) :=
  (List.range n).map fun i => (off + i, (leAt l (off + i) 1 &&& bits (8 * i) 8 mask) == 0)

/-- Every condition of 02 R73 with the offset 02 R653 attributes it to; the pitch of a tensor of rank 1: log entry 61. -/
def boltChecks (l : List Byte) : List (Nat × Bool) :=
  let b := Bolt.parse l
  let addr (off a : Nat) (flag : Bool) : List (Nat × Bool) :=
    (off, addrOk a flag) :: reservedByte l off 8 (2 ^ 64 - 2 ^ 54)
  [(0x00, leAt l 0 1 == 1), (0x01, leAt l 1 1 < 12), (0x02, b.cls < 9), (0x03, b.flagsOk && b.flags < 8),
   (0x08, decide (1 ≤ b.rank ∧ b.rank ≤ 4)), (0x09, b.meshRank ≤ 4)] ++
  (List.range 4).map (fun d => (0x10 + 4 * d,
    decide (1 ≤ b.dim d) && (decide (d < b.rank) || b.dim d == 1) &&
    (!(decide (2 ≤ b.rank ∧ d < 2)) || decide (cdiv (b.dim d) 128 ≤ 65535)))) ++
  [(0x20, decide (nth b.meshShape 0 * nth b.meshShape 1 * nth b.meshShape 2 * nth b.meshShape 3 ≤ 8192))] ++
  (List.range 4).map (fun a => (0x20 + 2 * a, decide (a < b.meshRank) || nth b.meshShape a == 1)) ++
  (List.range 4).map (fun a => (0x28 + 2 * a, decide (nth b.meshCoord a < nth b.meshShape a))) ++
  (List.range 4).map (fun d => (0x30 + d,
    decide (nth b.shardMap d < 8) && !b.axisTaken d &&
    (!b.sharded d || (decide (b.axis d < b.meshRank) && decide (d < b.rank))))) ++
  [(0x34, b.pitch % 32 == 0 && (b.sparse || b.rank == 1 || decide (tileBytes b.fmt ≤ b.pitch)))] ++
  (0x38, b.base % 32 == 0) :: reservedByte l 0x38 8 (2 ^ 64 - 2 ^ 54) ++
  addr 0x40 b.dir b.sparse ++ addr 0x48 b.scaleBase b.scaled ++ addr 0x50 b.maskBase b.sparse ++
  addr 0x58 b.stats b.hasStats ++ reservedByte l 0x60 32 (2 ^ 256 - 1)

/-- The offset of the failing item with the lowest offset (02 R653). -/
def boltFault (l : List Byte) : Option Nat :=
  (boltChecks l).foldl (fun o e =>
    if e.2 then o else match o with
      | none => some e.1
      | some x => some (min x e.1)) none

/-- The handle that names no tensor (03 R75). -/
def noBolt : Nat := 0xFFFFFFFF

/-- BOLT_TABLE_BASE of a croft. -/
def boltTable (c : Nat) (s : State) : Nat := getPair (bCroft c) F.BOLT_TABLE_BASE_LO F.BOLT_TABLE_BASE_HI s

/-- Reads `n` bytes of the 128-byte entry a handle names (03 R75). -/
def readHandle (c : TCtx) (operand h n : Nat) : TM (List Byte) := do
  tReadAt c operand (boltTable c.croft (← get)) (128 * h) n

/-- Reads a bolt and checks it (03 R76, R93; 02 R73): BOLT_INVALID. -/
def readBolt (c : TCtx) (operand h : Nat) : TM Bolt := do
  let l ← readHandle c operand h 128
  match boltFault l with
  | some o => tFault 0x04 operand o
  | none => pure (Bolt.parse l)

/-- Reads the bolt of a handle when it names a tensor. -/
def readBolt? (c : TCtx) (operand h : Nat) : TM (Option Bolt) := do
  if h = noBolt then pure none else pure (some (← readBolt c operand h))

/-- The two bolts describe one sharded shape (08, 09, 13: SHAPE, MESH_SHAPE, MESH_COORD and SHARD_MAP agree). -/
def sameShape (a b : Bolt) : Bool :=
  a.shape == b.shape && a.meshShape == b.meshShape && a.meshCoord == b.meshCoord && a.shardMap == b.shardMap

/-! ### Tiles -/

/-- Local tile index of local column `c` and row `r` in matrix 0 (02 R70). -/
def Bolt.tileAt (b : Bolt) (c r : Nat) : Nat := r * b.ext 0 + c

/-- Global unit coordinates of local tile `t`: column, row, dimension 2, dimension 3. -/
def Bolt.gcol (b : Bolt) (t : Nat) : Nat := b.start 0 + t % b.ext 0
def Bolt.grow (b : Bolt) (t : Nat) : Nat := b.start 1 + t / b.ext 0 % b.ext 1
def Bolt.gd2 (b : Bolt) (t : Nat) : Nat := b.start 2 + t / b.ext 0 / b.ext 1 % b.ext 2
def Bolt.gd3 (b : Bolt) (t : Nat) : Nat := b.start 3 + t / b.ext 0 / b.ext 1 / b.ext 2

/-- Live rows and columns of a tile (02 R52). -/
def Bolt.liveRows (b : Bolt) (t : Nat) : Nat := min 128 (b.dim 1 - 128 * b.grow t)
def Bolt.liveCols (b : Bolt) (t : Nat) : Nat := min 128 (b.dim 0 - 128 * b.gcol t)

/-- Global linear index of element (r, c) of a tile (09 R291). -/
def Bolt.gindex (b : Bolt) (t r c : Nat) : Nat :=
  ((b.gd3 t * b.dim 2 + b.gd2 t) * b.dim 1 + 128 * b.grow t + r) * b.dim 0 + 128 * b.gcol t + c

/-- Global tile index (09 R291). -/
def Bolt.gtile (b : Bolt) (t : Nat) : Nat :=
  ((b.gd3 t * b.units 2 + b.gd2 t) * b.units 1 + b.grow t) * b.units 0 + b.gcol t

/-- Bytes of `n` elements; a half byte counts whole. -/
def elemBytes (fmt n : Nat) : Nat := cdiv (n * fmtBits fmt) 8

/-- Element `i` of packed bytes (02 R45, R49). -/
def elemAt (fmt : Nat) (l : Array Byte) (i : Nat) : Nat :=
  let w := fmtBits fmt
  if w < 8 then bits (i * w % 8) w ((l[i * w / 8]?).getD 0).toNat
  else if w = 8 then ((l[i]?).getD 0).toNat
  else natOf ((List.range (w / 8)).map fun j => (l[i * (w / 8) + j]?).getD 0)

/-- A directory entry (02 R71). -/
structure DirEntry where
  off : Nat
  twill : Bool
  nnz : Nat
  gen : Nat
deriving DecidableEq, Repr

def DirEntry.parse (n : Nat) : DirEntry := ⟨bits 0 32 n, bit 32 n, bits 33 15 n, bits 48 16 n⟩
/-- The arrays of a gauze tile with `n` entries: value bytes and scale bytes (02 R54). -/
def gzValBytes (fmt n : Nat) : Nat := elemBytes fmt n
def gzScaleBytes (scaled : Bool) (n : Nat) : Nat := if scaled then cdiv n 32 else 0
def gzTileBytes (fmt : Nat) (scaled : Bool) (n : Nat) : Nat := 290 + n + gzValBytes fmt n + gzScaleBytes scaled n

/-- Bytes of the stored form of a tile of a sparse tensor. -/
def DirEntry.bytes (e : DirEntry) (b : Bolt) : Nat := if e.twill then tileBytes b.fmt else gzTileBytes b.fmt b.scaled e.nnz

/-- A tile ends within the reach of a sparse tensor's OFFSET32, 128 GiB above BASE, which bounds its streams (02 R71, 11 R345; log entry
15). -/
def DirEntry.inWindow (b : Bolt) (d : DirEntry) : Bool := decide (32 * d.off + d.bytes b ≤ 2 ^ 37)

def DirEntry.word (d : DirEntry) : Nat := d.off + bitOf d.twill * 2 ^ 32 + d.nnz * 2 ^ 33 + d.gen % 65536 * 2 ^ 48

/-- The accesses of a tensor's values, scale bytes, masks and directory entries: the window of each array bounds their streams, that of a
sparse tensor's values as far as OFFSET32 reaches (11 R345; log entry 15). -/
def TCtx.values (x : TCtx) (b : Bolt) : TCtx :=
  x.within (addrOf b.base) (addrOf b.base +
    if b.sparse then 2 ^ 37 else b.tiles * if b.rank = 1 then 128 * fmtBits b.fmt / 8 else b.pitch)
def TCtx.scales (x : TCtx) (b : Bolt) : TCtx := x.within (addrOf b.scaleBase) (addrOf b.scaleBase + 512 * b.tiles)
def TCtx.masks (x : TCtx) (b : Bolt) : TCtx := x.within (addrOf b.maskBase) (addrOf b.maskBase + 2048 * b.tiles)
def TCtx.dirs (x : TCtx) (b : Bolt) : TCtx := x.within (addrOf b.dir) (addrOf b.dir + 8 * b.tiles)

/-- Reads the directory entry of a tile in one access (02 R72); a tile that it places outside the tensor faults (11 R345). -/
def readDir (c : TCtx) (operand : Nat) (b : Bolt) (t : Nat) : TM DirEntry := do
  let d := DirEntry.parse (natOf (← tReadAt (c.dirs b) operand b.dir (8 * t) 8))
  tCheck (d.inWindow b) 0x08 operand 0
  pure d

/-- Space and address of the values of a tile reached through its entry. -/
def sparseAt (d : DirEntry) : Nat := 32 * d.off

/-- Offset from BASE of the values of a tile of a tensor that is not sparse. -/
def Bolt.denseAt (b : Bolt) (t : Nat) : Nat := t * b.pitch

/-- Rows of `len` bytes at a fixed stride: as a stream, or without a transfer of their own. -/
def rowsAt (quiet : Bool) (c : TCtx) (operand space a len rows stride : Nat) : TM (List (List Byte)) :=
  if quiet then (List.range rows).mapM fun i => tPeek c operand space (a + i * stride) len
  else tReadRows c operand space a len rows stride

/-- Reads `nr` rows from row `r0`, columns [c0, c0 + nc), of a twill tile whose values lie at an offset from BASE, scales
applied (02 R49, R50). `c0` is a multiple of 4. -/
def twillPart (quiet : Bool) (c : TCtx) (operand : Nat) (b : Bolt) (t at_ r0 nr c0 nc : Nat) : TM (Array (Array Val)) := do
  let w := fmtBits b.fmt
  let rows ← rowsAt quiet (c.values b) operand (spaceOf b.base) (addrOf b.base + at_ + (128 * r0 + c0) * w / 8)
    (elemBytes b.fmt nc) nr (128 * w / 8)
  if b.scaled then
    let sc := ((← rowsAt quiet (c.scales b) operand (spaceOf b.scaleBase) (addrOf b.scaleBase + 512 * t + 4 * r0) (4 * nr) 1 0).flatten).toArray
    pure ((rows.zip (List.range nr)).map fun e =>
      let row := e.1.toArray
      ((List.range nc).map fun j =>
        decodeScaled b.fmt ((sc[4 * e.2 + (c0 + j) / 32]?).getD 0).toNat (elemAt b.fmt row j)).toArray).toArray
  else
    pure (rows.map fun l =>
      let row := l.toArray
      ((List.range nc).map fun j => decode b.fmt (elemAt b.fmt row j)).toArray).toArray

def readTwill (c : TCtx) (operand : Nat) (b : Bolt) (t at_ r0 nr c0 nc : Nat) : TM (Array (Array Val)) :=
  twillPart false c operand b t at_ r0 nr c0 nc

/-- The value at (r, c) of what was read; +0 outside it. -/
def valAt (a : Array (Array Val)) (r c : Nat) : Val := ((a[r]?).bind fun x => x[c]?).getD (.fin false 0 0)

/-- The 2,048-byte mask of a twill tile of a sparse tensor (02 R51). -/
def readMask (c : TCtx) (operand : Nat) (b : Bolt) (t : Nat) : TM (Array Byte) := do
  pure (← tReadAt (c.masks b) operand b.maskBase (2048 * t) 2048).toArray

/-- Mask bit of position 128·r + c. -/
def maskBit (m : Array Byte) (pos : Nat) : Bool := bit (pos % 8) ((m[pos / 8]?).getD 0).toNat

/-- An entry of a tile: row, column, value, and its element code. -/
structure Entry where
  r : Nat
  c : Nat
  v : Val
  code : Nat
deriving DecidableEq, Repr

/-- Why a gauze tile is malformed (04 R141): check, WHERE, IS_ROW. -/
structure GzBad where
  check : Nat
  pos : Nat
  isRow : Bool
deriving DecidableEq, Repr

/-- A gauze tile as read: its entries in entry order, its scale bytes, its size in bytes. -/
structure GzTile where
  entries : List Entry
  scales : List Nat
  bytes : Nat
deriving DecidableEq, Repr

/-- The failing check with the lowest number. -/
def firstBad (l : List (Option GzBad)) : Option GzBad :=
  l.foldl (fun o x =>
    match o, x with
    | none, x => x
    | some a, some b => if b.check < a.check then some b else some a
    | some a, none => some a) none

def badIf (c : Bool) (check pos : Nat) (isRow : Bool) : Option GzBad := if c then some ⟨check, pos, isRow⟩ else none

/-- Header checks (02 R58; 04 R141). -/
def gzHeaderBad (b : Bolt) (t : Nat) (d : DirEntry) (h : List Byte) : Option GzBad :=
  let fmt := leAt h 3 1 % 16
  let nnz := leAt h 4 2
  let scaled := bit 0 (leAt h 6 2)
  firstBad [
    badIf (leAt h 0 2 != 0x5A47 || leAt h 2 1 != 1) 1 0 false,
    badIf (!decide (1 ≤ fmt ∧ fmt ≤ 8) || fmt != b.fmt) 2 0 false,
    badIf (scaled != (alwaysScaled fmt || (fmt == 8 && b.scaled))) 3 0 false,
    badIf (leAt h 8 2 != (290 + nnz) % 65536 ||
      leAt h 0xA 2 != (if scaled then (290 + nnz + gzValBytes fmt nnz) % 65536 else 0) ||
      leAt h 0xC 2 != gzTileBytes fmt scaled nnz % 65536) 7 0 false,
    badIf (leAt h 0x10 4 != b.tag || leAt h 0x14 2 != b.grow t % 65536 || leAt h 0x16 2 != b.gcol t % 65536) 0xA 0 false,
    badIf (leAt h 0xE 2 != d.gen) 0xB 0 false,
    badIf (leAt h 3 1 / 16 != 0 || leAt h 6 2 / 2 != 0 || leAt h 0x1C 4 != 0) 0xC 0 false,
    badIf (nnz != d.nnz) 0xD 0 false]

/-- Row-pointer checks: `p` holds the 129 pointers. -/
def gzRowsBad (b : Bolt) (t : Nat) (h : List Byte) (p : Array Nat) : Option GzBad :=
  let nnz := leAt h 4 2
  let pt (r : Nat) : Nat := (p[r]?).getD 0
  let cnt (r : Nat) : Nat := pt (r + 1) - pt r
  let bad4 : Option Nat :=
    if pt 0 ≠ 0 then some 0
    else match (List.range 128).find? fun r => decide (pt (r + 1) < pt r) with
      | some r => some r
      | none => if pt 128 ≠ nnz ∨ 16384 < nnz then some 128 else none
  let maxRow := (List.range 128).foldl (fun m r => max m (cnt r)) 0
  let empty := ((List.range 128).filter fun r => cnt r == 0).length
  firstBad [
    bad4.map fun r => ⟨4, r, true⟩,
    badIf (leAt h 0x18 2 != maxRow || leAt h 0x1A 2 != empty) 8 0 true,
    ((List.range 128).find? fun r => decide (b.liveRows t ≤ r) && cnt r != 0).map fun r => ⟨9, r, true⟩]

/-- The row of each entry index, from the pointers. -/
def gzRowOf (p : Array Nat) : List Nat :=
  ((List.range 128).map fun r => List.replicate ((p[r + 1]?).getD 0 - (p[r]?).getD 0) r).flatten

/-- Entry-stream checks. -/
def gzEntriesBad (b : Bolt) (t : Nat) (fmt nnz : Nat) (cols : Array Byte) (vals : Array Byte) (rows : Array Nat) :
    Option GzBad :=
  let col (i : Nat) : Nat := ((cols[i]?).getD 0).toNat
  let row (i : Nat) : Nat := (rows[i]?).getD 0
  firstBad [
    ((List.range nnz).find? fun i => decide (128 ≤ col i)).map fun i => ⟨5, i, false⟩,
    ((List.range nnz).find? fun i => decide (0 < i) && row (i - 1) == row i && decide (col i ≤ col (i - 1))).map
      fun i => ⟨6, i, false⟩,
    ((List.range nnz).find? fun i => decide (b.liveCols t ≤ col i ∧ col i < 128)).map fun i => ⟨9, i, false⟩,
    badIf (fmt == 7 && nnz % 2 == 1 && decide (16 ≤ ((vals[nnz / 2]?).getD 0).toNat)) 0xC (nnz - 1) false]

/-- Reads a gauze tile and checks it (02 R54 to R58; 04 R141). -/
def readGauze (c : TCtx) (operand : Nat) (b : Bolt) (t : Nat) (d : DirEntry) : TM (Except GzBad GzTile) := do
  let h ← tReadAt (c.values b) operand b.base (sparseAt d) 32
  match gzHeaderBad b t d h with
  | some x => pure (.error x)
  | none =>
    let pb := (← tReadAt (c.values b) operand b.base (sparseAt d + 32) 258).toArray
    let p := ((List.range 129).map fun i => elemAt 11 pb i).toArray
    match gzRowsBad b t h p with
    | some x => pure (.error x)
    | none =>
      let n := d.nnz
      let body ← tReadAt (c.values b) operand b.base (sparseAt d + 290) (gzTileBytes b.fmt b.scaled n - 290)
      let cols := (body.take n).toArray
      let vals := ((body.drop n).take (gzValBytes b.fmt n)).toArray
      let scales := (body.drop (n + gzValBytes b.fmt n)).map BitVec.toNat
      let rows := (gzRowOf p).toArray
      match gzEntriesBad b t b.fmt n cols vals rows with
      | some x => pure (.error x)
      | none =>
        let sc := scales.toArray
        let val (i : Nat) : Val :=
          if b.scaled then decodeScaled b.fmt ((sc[i / 32]?).getD 0) (elemAt b.fmt vals i)
          else decode b.fmt (elemAt b.fmt vals i)
        pure (.ok ⟨(List.range n).map fun i =>
          ⟨(rows[i]?).getD 0, ((cols[i]?).getD 0).toNat, val i, elemAt b.fmt vals i⟩, scales,
          gzTileBytes b.fmt b.scaled n⟩)

/-- The counted positions of a twill tile, as entries in row-major order: those whose mask bit is 1, when there is a
mask, and that are live (02 R51, R52). -/
def twillEntries (b : Bolt) (t : Nat) (mask : Option (Array Byte)) (a : Array (Array Val)) : List Entry :=
  ((List.range (b.liveRows t)).map fun r =>
    ((List.range (b.liveCols t)).filter fun j =>
      match mask with
      | some m => maskBit m (128 * r + j)
      | none => true).map fun j => (⟨r, j, valAt a r j, 0⟩ : Entry)).flatten

/-- A tile of a sparse tensor with its stored form. -/
structure TileView where
  twill : Bool
  entries : List Entry
  dir : DirEntry
deriving DecidableEq, Repr

/-- Reads a twill tile of a sparse tensor that its directory entry reaches, with its mask. -/
def readTwillTile (c : TCtx) (operand : Nat) (b : Bolt) (t : Nat) (d : DirEntry) : TM (List Entry) := do
  let m ← readMask c operand b t
  let a ← readTwill c operand b t (sparseAt d) 0 (b.liveRows t) 0 (b.liveCols t)
  pure (twillEntries b t (some m) a)

/-- Reads a tile of a sparse tensor through its directory entry (02 R71; 04 R136). -/
def readSparse (c : TCtx) (operand : Nat) (b : Bolt) (t : Nat) : TM (Except GzBad TileView) := do
  let d ← readDir c operand b t
  if d.twill then pure (.ok ⟨true, ← readTwillTile c operand b t d, d⟩)
  else
    match ← readGauze c operand b t d with
    | .error x => pure (.error x)
    | .ok g => pure (.ok ⟨false, g.entries, d⟩)

/-- The largest counter index of a tensor's draws with eight elements per evaluation stays below 2^48 (09 R292). -/
def indexOk (b : Bolt) (t : Nat) : Bool := decide (b.gindex t (b.liveRows t - 1) (b.liveCols t - 1) / 8 < 2 ^ 48)

/-- The statistics address of a written tensor lies where a fold can reach it (06 R207). -/
def statsOk (b : Bolt) : Bool := !b.hasStats || (spaceOf b.stats != 1 && spaceOf b.stats != 2)

end Sys2Proof.Machine
end

