-- ==== Sys2Proof/Machine/Spindle.lean ====
section
/-!
DEFINITION. The spindle (09 R281 to R295): the function, its draws, and the commands PROBE and SP_CLEAR_COUNTS.
-/
namespace Sys2Proof.Machine

/-- The four state words. -/
structure SpState where
  x0 : Word
  x1 : Word
  x2 : Word
  x3 : Word
deriving DecidableEq, Repr

/-- Key word `i` of a seed (09 R282). -/
def spKey (seed : Nat) (i : Nat) : Word :=
  let k0 : Word := BitVec.ofNat 32 seed
  let k1 : Word := BitVec.ofNat 32 (seed / 2 ^ 32)
  if i % 3 = 0 then k0 else if i % 3 = 1 then k1 else k0 ^^^ k1 ^^^ 0x9E3779B9#32

/-- inject(s) (09 R283). -/
def spInject (seed i : Nat) (x : SpState) : SpState :=
  ⟨x.x0 + spKey seed i, x.x1 + spKey seed (i + 1), x.x2 + spKey seed (i + 2), x.x3 + BitVec.ofNat 32 i⟩

/-- The rotation amounts of a round. -/
def spRot (r : Nat) : Nat × Nat := (([(13, 17), (25, 9), (7, 23), (19, 11)] : List (Nat × Nat))[r % 4]?).getD (0, 0)

/-- One round, with the exchange of the odd words. -/
def spRound (r : Nat) (x : SpState) : SpState :=
  let a := x.x0 + x.x1
  let b := (x.x1.rotateLeft (spRot r).1) ^^^ a
  let c := x.x2 + x.x3
  let d := (x.x3.rotateLeft (spRot r).2) ^^^ c
  ⟨a, d, c, b⟩

/-- The output words of a seed and counter (09 R283, R284). -/
def spindle (seed : Nat) (c0 c1 c2 c3 : Word) : SpState :=
  (List.range 12).foldl (fun x r =>
    let x := spRound r x
    if r % 2 = 1 then spInject seed ((r + 1) / 2) x else x) (spInject seed 0 ⟨c0, c1, c2, c3⟩)

/-- Output word `i`. -/
def SpState.word (y : SpState) (i : Nat) : Nat :=
  (if i = 0 then y.x0 else if i = 1 then y.x1 else if i = 2 then y.x2 else y.x3).toNat

/-- One evaluation: tensor tag, step, counter index, purpose (09 R281). -/
def spEval (seed tag step index purpose : Nat) : SpState :=
  spindle seed (BitVec.ofNat 32 (index % 65536 * 65536 + purpose)) (BitVec.ofNat 32 (index / 65536))
    (BitVec.ofNat 32 step) (BitVec.ofNat 32 tag)

/-- The 16-bit draw of element `i` for a purpose (09 R290). -/
def draw16 (purpose seed tag step i : Nat) : Nat :=
  bits (16 * (i % 2)) 16 ((spEval seed tag step (i / 8) purpose).word (i % 8 / 2))

/-- The gleaning draw of element `i`. -/
def draw32 (seed tag step i : Nat) : Nat := (spEval seed tag step (i / 4) 3).word (i % 4)

/-- The shadow draw of a tile. -/
def drawShadow (seed tag step tile : Nat) : Nat := (spEval seed tag step tile 4).word 0

/-- The seed of a croft. -/
def seedOf (c : Nat) (s : State) : Nat := getPair (bCroft c) F.SP_SEED_LO F.SP_SEED_HI s

/-- The step of a task from its STEP_TAG (09 R288). -/
def stepOf (c tag : Nat) (s : State) : Nat :=
  let now := getPair (bCroft c) F.STEP_NOW_LO F.STEP_NOW_HI s
  let lo := if 32768 ≤ now then now - 32768 else 0
  lo + (tag + 65536 - lo % 65536) % 65536

/-- Place of a unit class in the order in which the spindle serves: gauze engine, twin looms, function unit, update unit;
place 4 is the shadow unit's. The units the rule does not name come after it (DESIGN CHOICE, log entry 55). -/
def spinPlace (unit : Nat) : Nat := if unit < 4 then unit else 5

/-- Evaluations asked for by one place more. -/
def spinAdd (place n : Nat) (l : List Nat) : List Nat :=
  (List.range 6).map fun i => (l[i]?).getD 0 + if i = place then n else 0

/-- Counts evaluations, in units of 1,024; `place` asks the spindle for them (09 R294, R314). -/
def countEvals (c place n : Nat) (s : State) : State :=
  if n = 0 then s
  else addUnits (bCroft c) F.SP_EVALS n (updCroft c (fun k => { k with spin := spinAdd place n k.spin }) s)

/-- One croft cycle of the spindle: 256 evaluations in serving order; answers the unit-cycles waited and what is left. -/
def spinCycle (l : List Nat) : Nat × List Nat :=
  let r := l.foldl (fun (a : Nat × Nat × List Nat) n =>
    let want := min 256 n
    let got := min want a.1
    (a.1 - got, a.2.1 + bitOf (decide (got < want)), a.2.2 ++ [n - got])) (256, 0, [])
  (r.2.1, if r.2.2.all fun n => n == 0 then [] else r.2.2)

/-- Some cycles of the spindle. -/
def spinCycles : Nat → List Nat → Nat × List Nat
  | 0, l => (0, l)
  | k + 1, l =>
    let a := spinCycle l
    let b := spinCycles k a.2
    (a.1 + b.1, b.2)

/-- The spindle of a croft over some of its cycles: each cycle that a unit waits adds 1 to SP_WAIT_CYCLES (09 R294). -/
def spinRun (c cycles : Nat) (s : State) : State :=
  let l := (croftOf c s).spin
  if l.isEmpty then s
  else
    let r := spinCycles cycles l
    addF (bCroft c) F.SP_WAIT_CYCLES r.1 (updCroft c (fun k => { k with spin := r.2 }) s)

end Sys2Proof.Machine
end

