-- ==== Sys2Proof/Machine/Output.lean ====
section
/-!
DEFINITION. How a row runs whose task works tile by tile, one piece a command (log entry 54); writing results (06 R195
to R213): conversion of cells, block scales, statistics counts and folds, accumulators, their slots, and shadow
sampling; and the commands STATS_CLEAR, STATS_FOLD and STATS_FOLD_APPLY.
-/
namespace Sys2Proof.Machine

/-! ### Counts (06 R202 to R207) -/

/-- Counts of written cells. -/
structure Cnt where
  n : Nat
  zeros : Nat
  sats : Nat
  nonfin : Nat
  mag : Nat
deriving DecidableEq, Repr

def Cnt.zero : Cnt := ⟨0, 0, 0, 0, 0⟩
def Cnt.add (a b : Cnt) : Cnt := ⟨a.n + b.n, a.zeros + b.zeros, a.sats + b.sats, a.nonfin + b.nonfin, max a.mag b.mag⟩

/-- One written cell: its conversion and the value the code stands for, scale applied (06 R203). -/
def Cnt.of (v : Conv) (written : Val) : Cnt :=
  ⟨1, bitOf (v.code == 0), bitOf v.sat, bitOf v.nonfin, if written.isFin then magPat written else 0⟩

/-- Saturating addition into a field of `w` bits. -/
def satAdd (w a b : Nat) : Nat := min (a + b) (2 ^ w - 1)

/-- Two records folded: counts added with saturation, larger magnitude, flags OR'd (06 R205). -/
def mergeStats (a b : List Nat) : List Nat :=
  let g (l : List Nat) (i : Nat) : Nat := nth l i
  let overrun := decide (2 ^ 32 ≤ g a 2 + g b 2) || decide (2 ^ 32 ≤ g a 3 + g b 3)
  [satAdd 64 (g a 0) (g b 0), satAdd 64 (g a 1) (g b 1), satAdd 32 (g a 2) (g b 2), satAdd 32 (g a 3) (g b 3),
   max (g a 4) (g b 4), (g a 5 ||| g b 5) ||| (if overrun then 4 else 0)]

def StatEntry.data (e : StatEntry) : List Nat := [e.elements, e.zeros, e.sats, e.nonfin, e.maxMag, e.flags]
def StatEntry.ofData (addr part : Nat) (l : List Nat) : StatEntry :=
  ⟨addr, part, nth l 0, nth l 1, nth l 2, nth l 3, nth l 4, nth l 5⟩

/-- Sends a fold to the memory that holds its record. -/
def sendFold (f : Fold) (s : State) : State :=
  let x : TCtx := { croft := f.croft, uid := f.uid, part := f.part, unit := 6 }
  let s := if leaves x (spaceOf f.addr) (addrOf f.addr) 32 s then logXfer x (spaceOf f.addr) (addrOf f.addr) 32 true s else s
  { s with foldq := s.foldq ++ [f] }

/-- Adds counts to the entry of a record, taking a free one, or evicting the least recently used (06 R204). -/
def statAdd (c part addr : Nat) (n : Cnt) (flags : Nat) (s : State) : State :=
  let l := (croftOf c s).stats
  let d := [n.n, n.zeros, n.sats, n.nonfin, n.mag, flags]
  match l.find? fun e => decide (e.addr = addr) with
  | some e =>
    updCroft c (fun k => { k with
      stats := (k.stats.filter fun e => decide (e.addr ≠ addr)) ++ [StatEntry.ofData addr part (mergeStats e.data d)] }) s
  | none =>
    let s := match l with
      | e :: r =>
        if l.length < 32 then s
        else addF (bCroft c) F.NUM_EVICTIONS 1
          (sendFold ⟨false, c, 0, [], e.part, e.addr, e.data⟩ (updCroft c (fun k => { k with stats := r }) s))
      | [] => s
    updCroft c (fun k => { k with stats := k.stats ++ [StatEntry.ofData addr part (mergeStats [] d)] }) s

/-- A task's counts for a tensor, when it has a record. -/
def tCount (c : TCtx) (b : Bolt) (n : Cnt) (flags : Nat) : TM Unit :=
  if b.hasStats && (n.n != 0 || flags != 0) then tUpd (statAdd c.croft c.part b.stats n flags) else pure ()

/-- The record of a tensor a task is about to write can be reached (10 R318). -/
def tStatsReach (c : TCtx) (operand : Nat) (b : Bolt) : TM Unit := do
  if b.hasStats then
    let s ← get
    let ok := match spaceOf b.stats with
      | 0 => reach0 c.part (addrOf b.stats) 32 s
      | 3 => (place3 c.part (some c.croft) (addrOf b.stats) 32 s).isSome
      | _ => false
    if ok then pure () else tTranslation operand (spaceOf b.stats) (addrOf b.stats)
  else pure ()

/-- The fields of a statistics record. -/
def parseStats (l : List Byte) : List Nat := [leAt l 0 8, leAt l 8 8, leAt l 16 4, leAt l 20 4, leAt l 24 4, leAt l 28 1]
def statBytes (d : List Nat) : List Byte :=
  bytesOf 8 (nth d 0) ++ bytesOf 8 (nth d 1) ++ bytesOf 4 (nth d 2) ++ bytesOf 4 (nth d 3) ++ bytesOf 4 (nth d 4) ++
  bytesOf 4 (nth d 5)

/-- The fields of an update report record (09 R306). -/
def parseReport (l : List Byte) : List Nat :=
  [leAt l 0 8, leAt l 8 4, leAt l 12 4, leAt l 16 4, leAt l 20 4, leAt l 24 4, leAt l 28 4]
def reportBytes (d : List Nat) : List Byte :=
  bytesOf 8 (nth d 0) ++ bytesOf 4 (nth d 1) ++ bytesOf 4 (nth d 2) ++ bytesOf 4 (nth d 3) ++ bytesOf 4 (nth d 4) ++
  bytesOf 4 (nth d 5) ++ bytesOf 4 (nth d 6)
def mergeReport (a b : List Nat) : List Nat :=
  [satAdd 64 (nth a 0) (nth b 0), satAdd 32 (nth a 1) (nth b 1), satAdd 32 (nth a 2) (nth b 2),
   satAdd 32 (nth a 3) (nth b 3), satAdd 32 (nth a 4) (nth b 4), max (nth a 5) (nth b 5), min (nth a 6) (nth b 6)]

/-- What a fold makes of a record's bytes (06 R205; 09 R306). -/
def foldBytes (f : Fold) (old : List Byte) : List Byte :=
  if f.report then reportBytes (mergeReport (parseReport old) f.data)
  else statBytes (mergeStats (parseStats old) f.data)

/-- A fold that fails faults the tasks that wait for it. -/
def failFold (f : Fold) (e : TFault) (s : State) : State := (f.uid :: f.waits).foldl (fun s u => failTask f.croft u e s) s

/-- Applies a fold at the memory: one indivisible 32-byte update. A record that can no longer be reached, or that is
poisoned, keeps its bytes, and the tasks that wait for the fold fault (10 R318, R336). -/
def applyFold (f : Fold) (s : State) : State :=
  let op := if f.report then 0x28 else 0x18
  let a := addrOf f.addr
  if spaceOf f.addr = 0 then
    if !reach0 f.part a 32 s then failFold f ⟨0x09, op, 0, 0, a, []⟩ s
    else if poison0 f.part a 32 s then failFold f ⟨0x0B, 0, 5, 0, granuleStart a, []⟩ s
    else store0 f.part a (foldBytes f (load0 f.part a 32 s)) s
  else match place3 f.part (some f.croft) a 32 s with
    | some p => wrN p (foldBytes f (rdN p 32 s)) s
    | none => failFold f ⟨0x09, op, 0, spaceOf f.addr, a, []⟩ s

/-! ### Conversion of cells (06 R195, R198 to R200) -/

/-- Who converts: seed, step and rounding mode of the task, and the tensor. -/
structure ConvCtx where
  seed : Nat
  step : Nat
  sr : Bool
deriving DecidableEq, Repr

/-- The rounding of an output of a class by the engines, the function unit, SEND_TILE and COPY (06 R195). -/
def classSr (cls : Nat) (srAct : Bool) : Bool :=
  decide (cls = 2 ∨ cls = 3 ∨ cls = 6) || (cls == 1 && srAct)

/-- The conversion context of a task's output. -/
def convCtx (c : TCtx) (stepTag cls : Nat) (s : State) : ConvCtx :=
  ⟨seedOf c.croft s, stepOf c.croft stepTag s, classSr cls (flag (bCroft c.croft) F.NUM_CTRL_SR_ACT s)⟩

/-- The draws of an output tile of an engine stay addressable: of its cells when the task writes them, and of its shadow
selection (09 R292). -/
def outDraws (c : Nat) (final : Bool) (b : Bolt) (t : Nat) (s : State) : Bool :=
  (!final || !classSr b.cls (flag (bCroft c) F.NUM_CTRL_SR_ACT s) || indexOk b t) &&
  (!(flag (bCroft c) F.NUM_CTRL_SHADOW_EN s && b.cls == 3) || decide (b.gtile t < 2 ^ 48))

/-- The rounding of the element with a global index. -/
def rndOf (k : ConvCtx) (tag i : Nat) : Rnd := if k.sr then .draw (draw16 1 k.seed tag k.step i) else .near

/-- A converted block or row part: codes, scale byte when scaled, counts. -/
structure Block where
  codes : List Nat
  scale : Nat
  cnt : Cnt
deriving DecidableEq, Repr

/-- Converts cells that share one scale (or none). `cells` are (global index, value). -/
def convBlock (k : ConvCtx) (b : Bolt) (cells : List (Nat × Val)) : Block :=
  let sc := if b.scaled then blockScale b.fmt (cells.map Prod.snd) else 127
  cells.foldl (fun o e =>
    let v := convert b.fmt (e.2.scale (127 - sc)) (rndOf k b.tag e.1)
    { o with codes := o.codes ++ [v.code]
             cnt := o.cnt.add (Cnt.of v (decodeScaled b.fmt sc v.code)) }) ⟨[], sc, Cnt.zero⟩

/-- Cuts a list into parts of `n`; `fuel` bounds the parts. -/
def chunksOf {α : Type} (n : Nat) : Nat → List α → List (List α)
  | 0, _ => []
  | _, [] => []
  | fuel + 1, l => l.take n :: chunksOf n fuel (l.drop n)

/-- Converts one row of cells: in blocks of 32 when scaled. -/
def convRow (k : ConvCtx) (b : Bolt) (cells : List (Nat × Val)) : List Block :=
  if b.scaled then (chunksOf 32 (cells.length / 32 + 1) cells).map (convBlock k b) else [convBlock k b cells]

/-- Packs element codes into bytes (02 R49). `keep` fills the high half of a last byte left half used. -/
def packCodes (fmt keep : Nat) : List Nat → List Byte
  | [] => []
  | x :: r =>
    if fmt = 7 then
      match r with
      | [] => [BitVec.ofNat 8 (x % 16 + keep / 16 * 16)]
      | y :: r => BitVec.ofNat 8 (x % 16 + y % 16 * 16) :: packCodes fmt keep r
    else bytesOf (fmtBits fmt / 8) x ++ packCodes fmt keep r

/-- Packs element codes of any format (02 R45, R49). -/
def packAny (fmt : Nat) (l : List Nat) : List Byte :=
  if fmtBits fmt = 1 then
    (chunksOf 8 (l.length / 8 + 1) l).map fun c =>
      BitVec.ofNat 8 (((List.range c.length).zip c).foldl (fun n e => n + e.2 % 2 * 2 ^ e.1) 0)
  else packCodes fmt 0 l

/-- Evaluations of the spindle that serve draws of these indices, `d` to one (09 R290). -/
def evalsBy (d : Nat) (l : List Nat) : Nat :=
  (l.foldl (fun (a : Nat × Option Nat) i => if a.2 = some (i / d) then a else (a.1 + 1, some (i / d))) (0, none)).1
def evalsOf (l : List Nat) : Nat := evalsBy 8 l

/-- Counts the evaluations that a task's unit asks for. -/
def tEvals (c : TCtx) (n : Nat) : TM Unit := tUpd (countEvals c.croft (spinPlace c.unit) n)

/-- Writes rows of converted cells of a twill tile whose values lie at an offset from BASE: rows from `r0`, each from
column `c0` (06 R134, R169, R200), and the scale bytes of the blocks they cover. -/
def writeRows (c : TCtx) (operand : Nat) (k : ConvCtx) (b : Bolt) (t at_ r0 c0 : Nat) (rows : List (List Val)) :
    TM Cnt := do
  let nc := (rows.headD []).length
  if nc = 0 then pure Cnt.zero
  else
    let idx (i j : Nat) : Nat := b.gindex t (r0 + i) (c0 + j)
    let blocks := (rows.zip (List.range rows.length)).map fun e =>
      convRow k b (((List.range nc).zip e.1).map fun x => (idx e.2 x.1, x.2))
    let stride := 128 * fmtBits b.fmt / 8
    let a := addrOf b.base + at_ + (128 * r0 + c0) * fmtBits b.fmt / 8
    let odd := b.fmt == 7 && nc % 2 == 1
    let bytes ← (blocks.zip (List.range rows.length)).mapM fun e => do
      let keep ← if odd then do pure (natOf (← tPeek c operand (spaceOf b.base) (a + e.2 * stride + nc / 2) 1)) else pure 0
      pure (packCodes b.fmt keep (e.1.map Block.codes).flatten)
    tWriteRows (c.values b) operand (spaceOf b.base) a stride bytes
    if b.scaled then
      tWriteRows (c.scales b) operand (spaceOf b.scaleBase) (addrOf b.scaleBase + 512 * t + 4 * r0 + c0 / 32) 4
        (blocks.map fun l => l.map fun x => BitVec.ofNat 8 x.scale)
    else pure ()
    if k.sr && b.fmt != 0 then
      tEvals c ((List.range rows.length).foldl (fun n i => n + evalsOf ((List.range nc).map (idx i))) 0)
    else pure ()
    pure ((blocks.flatten).foldl (fun n x => n.add x.cnt) Cnt.zero)

/-! ### Accumulators and their slots (04 R130 to R134; 05 R166 to R170; 06 R190 to R194) -/

def accGet (m : SMap Cell) (k : Nat) : Cell := mapGet (fun _ => Cell.zero) m k

/-- Folds group sums of one output row into an accumulator of `stride` columns (06 R188). -/
def accFold (stride : Nat) (g : GSumRow) (m : SMap Cell) : SMap Cell :=
  ((List.range g.sums.length).zip g.sums).foldl (fun m e =>
    let k := stride * g.row + g.col + e.1
    mapPut (fun _ => Cell.zero) k (foldCell (accGet m k) e.2) m) m

/-- Some cell makes the accumulator overflow (06 R193, R194). -/
def accOverflow (m : SMap Cell) : Bool := m.any fun e => cellOverflow e.2

/-- The value an output cell takes from the accumulator (06 R189, R194). -/
def accOut (m : SMap Cell) (ovf : Bool) (k : Nat) : Val :=
  ofPat (if ovf then spreadPat (readout (accGet m k)) else readout (accGet m k))

/-- Converts and writes an accumulator's live cells to columns [c0, c0 + nc) of output tile `t`, counts them, and
counts an overflow or a long sum (04 R134; 05 R169; 06 R192, R194). -/
def writeAcc (c : TCtx) (operand : Nat) (k : ConvCtx) (b : Bolt) (t stride c0 nc nextK : Nat) (m : SMap Cell) :
    TM Unit := do
  let ovf := accOverflow m
  let long := decide (2 ^ 20 < 32 * nextK)
  tStatsReach c operand b
  let rows := (List.range (b.liveRows t)).map fun r => (List.range nc).map fun j => accOut m ovf (stride * r + j)
  let n ← writeRows c operand k b t (b.denseAt t) 0 c0 rows
  tCount c b n (bitOf long + 2 * bitOf ovf)
  if ovf then tUpd (addF (bCroft c.croft) F.NUM_OVERFLOWS 1) else pure ()
  if long then tUpd (addF (bCroft c.croft) F.NUM_LONG_SUMS 1) else pure ()

/-- Where an engine keeps its slots: larder offset of the region, slots, bytes per slot, image columns. -/
structure SlotRegion where
  base : Nat
  n : Nat
  size : Nat
  cols : Nat
deriving DecidableEq, Repr

def gzSlots (c : Nat) (s : State) : SlotRegion :=
  ⟨getF (bCroft c) F.GZ_ACC_BASE s, getF (bCroft c) F.GZ_ACC_SLOTS s, 65792, 64⟩
def lmSlots (c : Nat) (s : State) : SlotRegion :=
  ⟨getF (bCroft c) F.LM_ACC_BASE s, getF (bCroft c) F.LM_ACC_SLOTS s, 131328, 128⟩

def SlotRegion.at (g : SlotRegion) (i : Nat) : Nat := g.base + g.size * i

/-- The header bytes of a slot. -/
def slotHeader (c : Nat) (g : SlotRegion) (i : Nat) (s : State) : List Byte := larderRead c (g.at i) 256 s

/-- Valid slots. -/
def slotsValid (c : Nat) (g : SlotRegion) (s : State) : Nat :=
  ((List.range g.n).filter fun i => leAt (slotHeader c g i s) 0 1 == 1).length

/-- The valid slot whose header meets a test of its key. -/
def findSlot (c : Nat) (g : SlotRegion) (key : List Byte → Bool) (s : State) : Option Nat :=
  (List.range g.n).find? fun i => let h := slotHeader c g i s; leAt h 0 1 == 1 && key h

/-- The lowest free slot. -/
def freeSlot (c : Nat) (g : SlotRegion) (s : State) : Option Nat :=
  (List.range g.n).find? fun i => leAt (slotHeader c g i s) 0 1 != 1

/-- Sets a slot free. -/
def releaseSlot (c : Nat) (g : SlotRegion) (i : Nat) (s : State) : State := larderWrite c (g.at i) [0] s

/-- Sets every slot free (04 R133, 05 R168). -/
def releaseSlots (c : Nat) (g : SlotRegion) (s : State) : State :=
  (List.range g.n).foldl (fun t i => releaseSlot c g i t) s

/-- The accumulator a slot holds; cell image: s and c of cell k at 8·k (log entry 13). -/
def loadSlot (c : Nat) (g : SlotRegion) (i width : Nat) (s : State) : SMap Cell :=
  (List.range (128 * g.cols)).filterMap fun k =>
    if k % g.cols < width then
      let l := larderRead c (g.at i + 256 + 8 * k) 8 s
      let x : Cell := ⟨leAt l 0 4, leAt l 4 4⟩
      if x = Cell.zero then none else some (k, x)
    else none

/-- Writes a slot: the header's fields and the image; its reserved bytes stay (log entry 61). -/
def storeSlot (c : Nat) (g : SlotRegion) (i width : Nat) (header : List Byte) (m : SMap Cell) (s : State) : State :=
  (List.range 128).foldl (fun s r =>
    larderWrite c (g.at i + 256 + 8 * (g.cols * r))
      ((List.range width).map fun j =>
        let x := accGet m (g.cols * r + j)
        bytesOf 4 x.s ++ bytesOf 4 x.c).flatten s) (larderWrite c (g.at i) header s)

/-- What ACC and FINAL make of the slots at a start (04 R132, 05 R167): the loaded accumulator, or a fault. `same` tests
ORIENT (and LANE); `kOff` is the operand of the chain index, also where no slot suits (log entry 61), `outOff` that of the output's
bolt. -/
def startSlot (c : TCtx) (g : SlotRegion) (acc final : Bool) (key same : List Byte → Bool) (nextAt kFirst width kOff
    outOff : Nat) : TM (SMap Cell) := do
  let s ← get
  if acc then
    match findSlot c.croft g key s with
    | none => tFault 0x06 kOff 0
    | some i =>
      let h := slotHeader c.croft g i s
      if !same h || leAt h nextAt 2 != kFirst then tFault 0x06 kOff 0
      else pure (loadSlot c.croft g i width s)
  else if final then pure []
  else
    match findSlot c.croft g key s, freeSlot c.croft g s with
    | none, none => tFault 0x08 outOff 0
    | _, _ => pure []

/-- Ends an accumulator that is not final: its slot is written. None = no slot is free. -/
def endSlot (c : Nat) (g : SlotRegion) (key : List Byte → Bool) (width : Nat) (header : List Byte) (m : SMap Cell)
    (s : State) : Option State :=
  match findSlot c g key s with
  | some i => some (storeSlot c g i width header m s)
  | none => (freeSlot c g s).map fun i => storeSlot c g i width header m s

/-- Ends a final accumulator: the slot it continued is set free. -/
def dropSlot (c : Nat) (g : SlotRegion) (key : List Byte → Bool) (s : State) : State :=
  match findSlot c g key s with
  | some i => releaseSlot c g i s
  | none => s

/-- What a slot operation changes of the larder: a slot set free, or the slot that is written, as (offset, old bytes, new bytes). -/
def dropUndo (c : Nat) (g : SlotRegion) (key : List Byte → Bool) (s : State) : List (Nat × List Byte × List Byte) :=
  match findSlot c g key s with
  | some i => [(g.at i, [1], [0])]
  | none => []
def storeUndo (c : Nat) (g : SlotRegion) (key : List Byte → Bool) (header : List Byte) (s : State) :
    List (Nat × List Byte × List Byte) :=
  match (findSlot c g key s).orElse fun _ => freeSlot c g s with
  | some i => [(g.at i, larderRead c (g.at i) g.size s, header)]
  | none => []

/-- Names the writes of an output of which nothing else takes effect yet, and converts its cells; a peer is sent its bytes (04 R142; 05
R170; log entry 62). -/
def tName (x : TCtx) (m : TM Unit) : TM Unit := fun s =>
  match m s with
  | .ok _ t => .ok () (updCroft x.croft (fun k => { k with
      xfers := k.xfers ++ ((croftOf x.croft t).xfers.drop k.xfers.length).filter fun y => y.uid == x.uid
      peerOut := (croftOf x.croft t).peerOut
      spin := (croftOf x.croft t).spin }) s)
  | .error e t => .error e t

/-! ### Shadow sampling (06 R210 to R213) -/

def PSum.merge (a b : PSum) : PSum := ⟨a.nan || b.nan, a.pinf || b.pinf, a.ninf || b.ninf, a.sum.add b.sum⟩

/-- Shadow cell `j` of an accumulator of width `w`: its row and column. -/
def shadowCell (w j : Nat) : Nat × Nat := (8 * j, j * w / 16)

/-- The starting sums of a sampled output tile: the loaded s and c of each shadow cell; empty when the tile is not
sampled (06 R210, R211). -/
def shadowStart (c : TCtx) (stepTag : Nat) (b : Bolt) (t w stride : Nat) (m : SMap Cell) (s : State) : List PSum :=
  let p := bCroft c.croft
  if flag p F.NUM_CTRL_SHADOW_EN s && b.cls == 3 &&
     drawShadow (seedOf c.croft s) b.tag (stepOf c.croft stepTag s) (b.gtile t) % 2 ^ getF p F.NUM_CTRL_SHADOW_S s == 0
  then (List.range 16).map fun j =>
    let x := accGet m (stride * (shadowCell w j).1 + (shadowCell w j).2)
    if x.c = markPat then ⟨isNan32 x.s, isInf32 x.s && !bit 31 x.s, isInf32 x.s && bit 31 x.s, Dyadic.zero⟩
    else (PSum.zero.take (ofPat x.s)).take (ofPat x.c)
  else []

/-- Adds one output cell's exact products to the shadow sums. -/
def shadowTake (w row col : Nat) (p : PSum) (l : List PSum) : List PSum :=
  ((List.range 16).zip l).map fun e => if shadowCell w e.1 = (row, col) then e.2.merge p else e.2

/-- The bins of the shadow cells of an output tile: columns [0, nc) of the accumulator are live. -/
def shadowBins (b : Bolt) (t w stride nc : Nat) (m : SMap Cell) (l : List PSum) : List Nat :=
  ((List.range 16).zip l).filterMap fun e =>
    let (r, j) := shadowCell w e.1
    if r < b.liveRows t ∧ j < nc then some (shadowBin (readout (accGet m (stride * r + j))) e.2.out.pat) else none

/-- The shadow cells of an output tile that is sampled are compared; they are binned when the task completes (06 R212). -/
def shadowEnd (c : TCtx) (b : Bolt) (t w stride nc : Nat) (m : SMap Cell) (l : List PSum) (s : State) : State :=
  if l.isEmpty then s
  else
    let bins := shadowBins b t w stride nc m l
    updCroft c.croft (fun k => { k with
      shadow := if k.shadow.any fun x => decide (x.uid = c.uid) then
          k.shadow.map fun x => if x.uid = c.uid then { x with bins := x.bins ++ bins } else x
        else k.shadow ++ [⟨c.uid, bins⟩] }) s

/-- The draw that selects a tile for sampling, counted (06 R210; 09 R314). -/
def shadowDraw (c : TCtx) (b : Bolt) (s : State) : State :=
  if flag (bCroft c.croft) F.NUM_CTRL_SHADOW_EN s && b.cls == 3 then countEvals c.croft 4 1 s else s

/-! ### Running over several steps -/

/-- Keeps what becomes of a task whose unit is free. -/
def putEnding (c : Nat) (e : Ending) (s : State) : State := updCroft c (fun k => { k with ending := k.ending ++ [e] }) s
def endingOf (c uid : Nat) (s : State) : Option Ending := (croftOf c s).ending.find? fun e => decide (e.uid = uid)

/-- Who a task is to its work, in its partition. -/
def ctxOf (c : Nat) (t : Task) (p : Nat) : TCtx :=
  { croft := c, uid := t.uid, part := p, unit := unitOf (dOpcode t.desc), bb := t.bb }

/-- Transfers of a task and a direction. -/
def Xfer.goes (uid : Nat) (write : Bool) (x : Xfer) : Bool := x.uid == uid && x.write == write

/-- The transfers that work which led from `s` to `t` has named. -/
def newXfers (c : Nat) (s t : State) : List Xfer := (croftOf c t).xfers.drop (croftOf c s).xfers.length

/-- The state after work that led from `s` to `t`, whose transfers of one direction had been named before. -/
def namedBefore (c uid : Nat) (write : Bool) (s t : State) : State :=
  updCroft c (fun k => { k with xfers := (croftOf c s).xfers ++ (newXfers c s t).filter fun x => !x.goes uid write }) t

/-- A later step of a started task: a fault fails the task, with what the step has written so far when `keep` holds and with
nothing of it otherwise; bytes of a peer still missing change nothing else. `asked`: it has named what it reads before. -/
def runPiece (keep asked : Bool) (c : Nat) (t : Task) (work : TCtx → TM Unit) (s : State) : State :=
  match contextOf c s with
  | none => s
  | some p =>
    match work (ctxOf c t p) s with
    | .ok _ s' => updCroft c (numberXfers asked t.uid) (if asked then namedBefore c t.uid false s s' else s')
    | .error (.fault f) s' => failTask c t.uid f (if keep then s' else s)
    | .error (.poison f) s' => failTask c t.uid f (poisonAnswered f.addr (if keep then s' else s))
    | .error (.tag f) s' => failTask c t.uid f (failedTag p (f.addr - f.addr % 4096) (if keep then s' else s))
    | .error (.park a n) _ => askPeer c t.uid (unitOf (dOpcode t.desc)) a n s
def stepTaskRun (c : Nat) (t : Task) (work : TCtx → TM Unit) (s : State) : State := runPiece false false c t work s

/-- The started task of an opcode whose unit works piece by piece, with its run. -/
def workOf (c op : Nat) (s : State) : Option (Task × WorkRun) :=
  (croftOf c s).work.findSome? fun w =>
    ((findTask c w.uid s).filter fun t => dOpcode t.desc == op).map fun t => (t, w)

/-- Stores a run. -/
def putWork (c : Nat) (w : WorkRun) (s : State) : State :=
  updCroft c (fun k => { k with work := (k.work.filter fun v => decide (v.uid ≠ w.uid)) ++ [w] }) s

/-- A run is over: the unit has done the task's work. -/
def endWork (c uid : Nat) (s : State) : State :=
  markWorked c uid (updCroft c (fun k => { k with work := k.work.filter fun v => decide (v.uid ≠ uid) }) s)

/-- A piece of the run is done. -/
def pieceDone (c : Nat) (w : WorkRun) (s : State) : State :=
  if w.next + 1 < w.count then putWork c { w with next := w.next + 1 } s else endWork c w.uid s

/-- What a task has asked to read is still on its way. -/
def readsOut (c uid : Nat) (s : State) : Bool :=
  let k := croftOf c s
  k.xfers.any (Xfer.goes uid false) || k.pieces.any (fun p => p.uid == uid && !p.write) ||
  k.streams.any fun e => match e.2 with | some x => x.goes uid false | none => false

/-- The next piece names what it reads, of which nothing else takes effect yet. -/
def askReads (c : Nat) (w : WorkRun) (s t : State) : State :=
  updCroft c (fun k => numberXfers false w.uid { k with xfers := k.xfers ++ (newXfers c s t).filter (Xfer.goes w.uid false) })
    (putWork c { w with asked := true } s)

/-- A piece before its reads have been named: it names them; one that reads nothing outside the larder runs at once. -/
def openPiece (keep : Bool) (c : Nat) (t : Task) (w : WorkRun) (work : TCtx → TM Unit) (s : State) : State :=
  match contextOf c s with
  | none => s
  | some p =>
    let go (s' : State) : State :=
      if (newXfers c s s').any (Xfer.goes w.uid false) then askReads c w s s' else runPiece keep false c t work s
    match work (ctxOf c t p) s with
    | .error (.park a n) _ => askPeer c t.uid (unitOf (dOpcode t.desc)) a n s
    | .error _ s' => go s'
    | .ok _ s' => go s'

/-- The next piece of a run: it names what it reads, and takes effect once that has come back without an error (11 R355; log entry
54). -/
def nextPiece (keep : Bool) (c : Nat) (t : Task) (w : WorkRun) (piece : WorkRun → TCtx → TM Unit) (s : State) : State :=
  if w.asked then
    if readsOut c t.uid s then s else runPiece keep true c t (piece { w with asked := false }) s
  else openPiece keep c t w (piece w) s

/-- A row whose task works piece by piece (log entry 54): the started task's next piece, which stops at a boundary once the
task is being abandoned; without one, the start checks of the task whose turn it is. `keep`: a fault in a piece keeps what
the piece has written. -/
def unitRowKeep (keep : Bool) (c op : Nat) (ok : Desc → Bool) (start : Desc → TCtx → TM Unit)
    (piece : Desc → WorkRun → TCtx → TM Unit) (s : State) : State :=
  match workOf c op s with
  | some (t, w) => if t.abandon && w.firm.isEmpty || !ok t.desc then s else nextPiece keep c t w (piece t.desc) s
  | none =>
    match startableOp c op s with
    | some t => if ok t.desc then runTask c t (start t.desc) s else s
    | none => s

/-- A row of which a faulting piece writes nothing. -/
def unitRow (c op : Nat) (ok : Desc → Bool) (start : Desc → TCtx → TM Unit) (piece : Desc → WorkRun → TCtx → TM Unit)
    (s : State) : State := unitRowKeep false c op ok start piece s

/-! ### STATS -/

/-- The bolt a STATS task names has a record (06 R207). -/
def statsBolt (c : TCtx) (d : Desc) : TM Bolt := do
  let b ← readBolt c 0x18 (dF 0x18 4 d)
  tCheck b.hasStats 0x08 0x18 0
  pure b

/-- The work of STATS_CLEAR. -/
def statsClearWork (d : Desc) (x : TCtx) : TM Unit := do
  let b ← statsBolt x d
  tUpd (updCroft x.croft fun k => { k with stats := k.stats.filter fun e => decide (e.addr ≠ b.stats) })
  tUpd (fun s => { s with foldq := s.foldq.filter fun f => decide (¬ (f.croft = x.croft ∧ f.addr = b.stats)) })
  tWriteAt x 0x18 b.stats 0 (bytesOf 32 0)
  tUpd (markWorked x.croft x.uid)

/-- STATS_CLEAR (06 R204): a STATS task with OP 0x00. -/
def execStatsClear (c : CroftId) (s : State) : Host.Outcome State Fault Refusal :=
  .next (match startableOp c.val opStats s with
    | some t => if dF 0x1C 1 t.desc ≠ 0 then s else runTask c.val t (statsClearWork t.desc) s
    | none => s)

/-- The folds of a croft for a record that are still on their way: this task waits for them too (06 R206). -/
def claimFolds (c uid addr : Nat) (s : State) : State :=
  { s with foldq := s.foldq.map fun f =>
      if f.croft = c ∧ f.addr = addr ∧ f.report = false then { f with waits := f.waits ++ [uid] } else f }

/-- The work of STATS_FOLD: this croft's counts of the record go out; the task completes when every fold of the record that
this croft has sent is visible (06 R204 to R206). -/
def statsFoldWork (d : Desc) (x : TCtx) : TM Unit := do
  let b ← statsBolt x d
  tUpd (claimFolds x.croft x.uid b.stats)
  match (croftOf x.croft (← get)).stats.find? fun e => decide (e.addr = b.stats) with
  | none => tUpd (markWorked x.croft x.uid)
  | some e =>
    tStatsReach x 0x18 b
    tUpd (updCroft x.croft fun k => { k with stats := k.stats.filter fun e => decide (e.addr ≠ b.stats) })
    tUpd (sendFold ⟨false, x.croft, x.uid, [], x.part, b.stats, e.data⟩)
    tUpd (markWorked x.croft x.uid)

/-- STATS_FOLD (06 R204): a STATS task with OP 0x01; it completes when its fold is visible (06 R205). -/
def execStatsFold (c : CroftId) (s : State) : Host.Outcome State Fault Refusal :=
  .next (match startableOp c.val opStats s with
    | some t => if dF 0x1C 1 t.desc ≠ 1 then s else runTask c.val t (statsFoldWork t.desc) s
    | none => s)

/-- STATS_FOLD_APPLY (06 R205; 09 R306): a memory performs the oldest fold on its way. -/
def execStatsFoldApply (s : State) : Host.Outcome State Fault Refusal :=
  .next (match s.foldq with
    | [] => s
    | f :: r => applyFold f { s with foldq := r })

end Sys2Proof.Machine
end

