-- ==== Sys2Proof/Machine/Tallies.lean ====
section
/-!
DEFINITION. The tally file (12 R388 to R405): operations, waiters, conditions, maps; and the meanings of the commands
of the tally family. A bank takes the oldest operation on the fabric that names a tally of the bank.
-/
namespace Sys2Proof.Machine

def tallyOf (p : Nat) (s : State) : Tally := mapGet (fun _ => Tally.reset) s.tally.tallies p
def setTally (p : Nat) (t : Tally) (s : State) : State :=
  { s with tally := { s.tally with tallies := mapPut (fun _ => Tally.reset) p t s.tally.tallies } }

/-- The kinds of operation, as the commands name them. -/
def TallyKind.isAdd : TallyKind → Bool | .add _ => true | _ => false
def TallyKind.isWait : TallyKind → Bool | .wait _ => true | _ => false
def TallyKind.isWithdraw : TallyKind → Bool | .withdraw => true | _ => false
def TallyKind.isExpect : TallyKind → Bool | .expect _ _ => true | _ => false

/-- Registrations held on a tally, in order of registration. -/
def heldOn (p : Nat) (s : State) : List Waiter := s.tally.waiters.filter fun w => decide (w.phys = p)

/-- The event record of a tally condition (12 R401; payload layout: log entry 11). -/
def tallyEvent (kind ctx virt phys epoch : Nat) (s : State) : State :=
  raise bTally 0x05 kind (.part ctx) false (kind + virt * 2 ^ 16 + phys * 2 ^ 32 + epoch * 2 ^ 64) s

/-- A condition that is a fault: FAULT_CODE, FAULT_INFO, the event, and what it means for the step (12 R401, R402). -/
def tallyFault (kind ctx virt phys epoch : Nat) (s : State) : State :=
  let s := setF bTally F.BLK_FAULT_CODE (kind + ctx * 2 ^ 8 + phys * 2 ^ 16) s
  let s := setF bTally F.BLK_FAULT_INFO (virt + epoch % 2 ^ 20 * 2 ^ 12) s
  let k := partOf ctx s
  stepFault ctx (k.run.isNone && !k.committed.isEmpty && k.begun) 0x06 (tallyEvent kind ctx virt phys epoch s)

/-- The waiter of a registration that the steward issued (12 R394): no croft has this number. A release of it reaches the
steward, which no register shows. -/
def stewardWaiter : Nat := 608

/-- Releases every registration that VALUE now reaches, in order of registration (12 R396). -/
def releaseReached (p : Nat) (s : State) : State :=
  let v := (tallyOf p s).value.toNat
  let go := s.tally.waiters.filter fun w => decide (w.phys = p ∧ w.value ≤ v)
  let s := addF bTally F.TL_RELEASES go.length s
  { s with tally := { s.tally with
      waiters := s.tally.waiters.filter fun w => !decide (w.phys = p ∧ w.value ≤ v)
      releases := s.tally.releases ++ (go.filter fun w => decide (w.croft ≠ stewardWaiter)).map fun w => (w.croft, w.uid) } }

/-- An addition (12 R394, R395, R401). -/
def tallyAdd (p a : Nat) (s : State) : State :=
  let t := tallyOf p s
  let sum := t.value.toNat + a
  let clip := decide (2 ^ 32 ≤ sum)
  let overrun := t.checked && t.remaining == 0
  let t' := { t with
    value := BitVec.ofNat 32 (min sum (2 ^ 32 - 1))
    remaining := if t.checked && !overrun then t.remaining - 1 else t.remaining
    sat := t.sat || clip
    overrun := t.overrun || overrun }
  let s := setTally p t' s
  let s := if overrun then addF bTally F.TL_OVERFLOWS 1 (tallyFault 0x01 t.context t.virt p t.epoch.toNat s) else s
  let s := if clip && !t.sat then addF bTally F.TL_SATURATIONS 1 (tallyEvent 0x05 t.context t.virt p t.epoch.toNat s)
           else s
  releaseReached p s

/-- An expect (12 R398). -/
def tallyExpect (p n e : Nat) (s : State) : State :=
  let t := tallyOf p s
  if t.opened && t.epoch.toNat == e then
    if t.declared.toNat == n then s
    else addF bTally F.TL_MISMATCHES 1 (tallyFault 0x04 t.context t.virt p t.epoch.toNat s)
  else
    let under := t.checked && t.remaining != 0
    let stranded := !(heldOn p s).isEmpty
    let s := if under then addF bTally F.TL_UNDERFLOWS 1 (tallyFault 0x02 t.context t.virt p t.epoch.toNat s) else s
    let s := if stranded then addF bTally F.TL_STRANDED 1 (tallyFault 0x03 t.context t.virt p t.epoch.toNat s) else s
    let t' := { t with
      value := 0, epoch := BitVec.ofNat 32 e, opened := true, declared := BitVec.ofNat 32 n, sat := false, overrun := false
      under := under, stranded := stranded, checked := n != 0
      remaining := if n = 0 then t.remaining else BitVec.ofNat 32 n }
    releaseReached p (setTally p t' s)

/-- The croft and task of an operation's issuer. -/
def TallySrc.task? : TallySrc → Option (Nat × Nat)
  | .task c u => some (c, u)
  | .done c u => some (c, u)
  | _ => none

/-- A completed task's DONE_TALLY addition has been applied: its event record follows, and its slot is free (03 R89, 12
R400). -/
def doneAcked (c u : Nat) (s : State) : State :=
  removeTask c u (match findTask c u s with
    | some t => taskEvent c t.desc s
    | none => s)

/-- A task's own addition or expect has been applied: the task has done its work, and one that has ended meanwhile frees its slot (12
R400). -/
def opAcked (c u : Nat) (s : State) : State :=
  match findTask c u s with
  | some t => if t.phase == .leaving then removeTask c u s else markWorked c u s
  | none => s

/-- Expects the control core has sent for the partition and that the tally file has not acknowledged (12 R399). -/
def expectsOpen (p : Nat) (s : State) : Bool :=
  s.tally.ops.any fun o => o.ctx == p && o.kind.isExpect && o.src.task?.isNone

/-- STEP_NOW and ACTIVE_PLANS of an accepted step (09 R288, 13 R434). -/
def writeStep (p step plans : Nat) (s : State) : State :=
  let s := (croftsOf p s).foldl (fun s c => setPair (bCroft c) F.STEP_NOW_LO F.STEP_NOW_HI step s) s
  setPair bMill (F.ML_JOB_ACTIVE_PLANS_LO.at p) (F.ML_JOB_ACTIVE_PLANS_HI.at p) plans s

/-- The registers of an accepted step are written once, when every expect of it has been acknowledged (16 R540, items 1 and 2). -/
def openStep (p : Nat) (s : State) : State :=
  match (partOf p s).run with
  | some r =>
    match r.plans with
    | some plans =>
      if expectsOpen p s then s
      else writeStep p r.step plans (updPart p (fun k => { k with run := some { r with plans := none } }) s)
    | none => s
  | none => s

/-- The issuer learns that its operation has been applied (12 R394, R400): a task's DONE_TALLY addition or withdrawal
frees its slot; the last expect of a STEP lets the control core go on. -/
def acknowledge (o : TallyOp) (s : State) : State :=
  match o.src, o.kind with
  | .done c u, _ => doneAcked c u s
  | .task c u, .withdraw => removeTask c u s
  | .task _ _, .wait _ => s
  | .task c u, _ => opAcked c u s
  | _, .expect _ _ => openStep o.ctx s
  | _, _ => s

/-- Applies one operation to the physical tally it names (12 R394). -/
def applyTally (o : TallyOp) (p : Nat) (s : State) : State :=
  let s := addUnits bTally F.TL_OPS 1 s
  let s := match o.kind with
    | .add a => tallyAdd p a s
    | .expect n e => tallyExpect p n e s
    | .wait w =>
      let (c, u) := o.src.task?.getD (stewardWaiter, 0)
      if w ≤ (tallyOf p s).value.toNat then
        addF bTally F.TL_RELEASES 1 (match o.src.task? with
          | some r => { s with tally := { s.tally with releases := s.tally.releases ++ [r] } }
          | none => s)
      else { s with tally := { s.tally with waiters := s.tally.waiters ++ [⟨p, w, c, u, s.time, false⟩] } }
    | .withdraw =>
      match o.src.task? with
      | some (c, u) =>
        { s with tally := { s.tally with
            waiters := s.tally.waiters.filter fun w => !decide (w.phys = p ∧ w.croft = c ∧ w.uid = u) } }
      | none => s
  acknowledge o s

/-- The oldest operation for a bank: banks take operations in the order they receive them (12 R388, R394). -/
def bankHead (bank : Nat) (s : State) : Option (TallyOp × Nat) :=
  s.tally.ops.findSome? fun o =>
    match tallyPhys o.ctx o.virt s with
    | some p => if p % 16 = bank then some (o, p) else none
    | none => none

/-- Takes an operation off the fabric. -/
def dropOp (o : TallyOp) (s : State) : State :=
  { s with tally := { s.tally with ops := s.tally.ops.erase o } }

/-- A bank applies its oldest operation when it is of the kind the command names. -/
def bankStep (bank : Nat) (k : TallyKind → Bool) (s : State) : State :=
  match bankHead bank s with
  | some (o, p) => if k o.kind then applyTally o p (dropOp o s) else s
  | none => s


/-! ### Maps and resets (12 R391, R392, R408) -/

/-- The reset of a tally apart from MAPPED and CONTEXT (12 R390, R392). -/
def clearTally (p : Nat) (s : State) : State :=
  let t := tallyOf p s
  setTally p { Tally.reset with mapped := t.mapped, context := t.context, virt := t.virt } s

/-- The state of 12 R390 for a tally that is mapped or unmapped: no waiter either. -/
def renewTally (p : Nat) (t : Tally) (s : State) : State :=
  setTally p t { s with tally := { s.tally with waiters := s.tally.waiters.filter fun w => decide (w.phys ≠ p) } }

/-- Unmaps a physical tally: reset first, then free of its context (12 R392). -/
def unmapTally (ctx v : Nat) (s : State) : State :=
  match tallyPhys ctx v s with
  | none => { s with tally := { s.tally with maps := mapDel (ctx * 4096 + v) s.tally.maps } }
  | some p => renewTally p Tally.reset { s with tally := { s.tally with maps := mapDel (ctx * 4096 + v) s.tally.maps } }

/-- Maps virtual ID `v` of a context to a physical tally, resetting it first. -/
def mapTally (ctx v p : Nat) (s : State) : State :=
  let s := unmapTally ctx v s
  let s := { s with tally := { s.tally with maps := mapPut (fun _ => 0) (ctx * 4096 + v) (p + 1) s.tally.maps } }
  renewTally p { Tally.reset with mapped := true, context := ctx, virt := v } s

/-- A map write is allowed: the queues of the context are empty and no other entry holds the physical tally. -/
def mapWriteOk (ctx v p : Nat) (valid : Bool) (s : State) : Bool :=
  queuesEmpty ctx s &&
  (!valid || !(tallyOf p s).mapped || decide (tallyPhys ctx v s = some p))

/-- What a write of TL_MAP_DATA does to the entry that TL_MAP_SEL names (12 R391 to R393). -/
def mapWrite (p : Nat) (valid : Bool) (s : State) : State :=
  let ctx := getF bTally F.TL_MAP_SEL_CONTEXT s
  let v := getF bTally F.TL_MAP_SEL_VIRTUAL s
  if valid then mapTally ctx v p s
  else
    let s := unmapTally ctx v s
    if p = 0 then s
    else { s with tally := { s.tally with maps := mapPut (fun _ => 0) (ctx * 4096 + v) (p + 16385) s.tally.maps } }

/-- PHYS and VALID of the entry that TL_MAP_SEL names. -/
def mapEntry (s : State) : Nat × Bool :=
  let n := mapGet (fun _ => 0) s.tally.maps (getF bTally F.TL_MAP_SEL_CONTEXT s * 4096 + getF bTally F.TL_MAP_SEL_VIRTUAL s)
  if n = 0 then (0, false) else if n ≤ 16384 then (n - 1, true) else (n - 16385, false)

/-- TL_RESET.GO is allowed: no registration is held, and for a mapped tally the queues of its partition are empty. -/
def tallyResetOk (p : Nat) (s : State) : Bool :=
  (heldOn p s).isEmpty && (!(tallyOf p s).mapped || queuesEmpty (tallyOf p s).context s)

/-! ### Meanings -/

/-- TALLY_OP_ADD (12 R394, R395, R401): a bank applies the addition at its head. -/
def execTallyOpAdd (bank : Fin 16) (s : State) : Host.Outcome State Fault Refusal :=
  .next (bankStep bank.val TallyKind.isAdd s)

/-- REGISTER_WAIT (12 R394, R396, R397). -/
def execRegisterWait (bank : Fin 16) (s : State) : Host.Outcome State Fault Refusal :=
  .next (bankStep bank.val TallyKind.isWait s)

/-- WITHDRAW_WAIT (12 R394, R400). -/
def execWithdrawWait (bank : Fin 16) (s : State) : Host.Outcome State Fault Refusal :=
  .next (bankStep bank.val TallyKind.isWithdraw s)

/-- EXPECT (12 R398). -/
def execExpect (bank : Fin 16) (s : State) : Host.Outcome State Fault Refusal :=
  .next (bankStep bank.val TallyKind.isExpect s)

/-- UNMAPPED: FAULT_CODE, FAULT_INFO and the event record carry the virtual ID (12 R401). -/
def reportUnmapped (ctx virt : Nat) (s : State) : State :=
  let s := setF bTally F.BLK_FAULT_CODE (0x07 + ctx * 2 ^ 8) s
  tallyEvent 0x07 ctx virt 0 0 (setF bTally F.BLK_FAULT_INFO virt s)

/-- A STEP whose expect is refused ends with UNMAPPED_TALLY and the index of the entry: it issues no further expect and
releases nothing (12 R393, 16 R540). -/
def refuseStep (p : Nat) (r : StepRun) (virt : Nat) (s : State) : State :=
  let s := { s with tally := { s.tally with ops := s.tally.ops.filter fun o =>
      !(o.ctx == p && o.src == .control && o.kind.isExpect) } }
  let s := updPart p (fun k => { k with run := none, repeatDue := none, rel := k.rel.filter fun x => decide (x.cmd ≠ r.cmd) }) s
  endCmd r.cmd 0x0F (r.expects.findIdx fun e => e.1 == virt) s

/-- An operation that touches no tally (12 R393): a refused expect of a STEP ends it, every other refusal is a fault of the
step (12 R402). -/
def refuseOp (o : TallyOp) (s : State) : State :=
  match (partOf o.ctx s).run with
  | some r =>
    if o.src == .control && o.kind.isExpect && r.expects.any (fun e => e.1 == o.virt) then
      refuseStep o.ctx r o.virt (reportUnmapped o.ctx o.virt s)
    else tallyFault 0x07 o.ctx o.virt 0 0 s
  | none => tallyFault 0x07 o.ctx o.virt 0 0 s

/-- UNMAPPED_TALLY_OP (12 R393, R401): the oldest operation of the steward, the mill or the host interface whose
virtual ID its context does not map touches no tally and raises UNMAPPED. -/
def execUnmappedTallyOp (s : State) : Host.Outcome State Fault Refusal :=
  .next (match s.tally.ops.find? fun o => o.src.task?.isNone && (tallyPhys o.ctx o.virt s).isNone with
    | some o => refuseOp o (dropOp o s)
    | none => s)

/-- A release reaches its task: the wait of a queued task is satisfied, a TALLY_WAIT is done (12 R396, R397). -/
def releaseTask (t : Task) : Task :=
  if t.phase == .queued then { t with satisfied := true, registered := false }
  else if t.phase == .running then { t with worked := true, registered := false } else t

/-- WAIT_RELEASE_ARRIVAL (12 R396): the oldest release for a croft arrives. -/
def execWaitReleaseArrival (c : CroftId) (s : State) : Host.Outcome State Fault Refusal :=
  .next (match s.tally.releases.find? fun r => decide (r.1 = c.val) with
    | some r =>
      updTask c.val r.2 releaseTask { s with tally := { s.tally with releases := s.tally.releases.erase r } }
    | none => s)

/-- A registration has been held for STALL_US and has not been reported (12 R401). -/
def stallDue (s : State) (w : Waiter) : Bool :=
  flag bTally F.TL_STALL_EN s && !w.stalled && decide (getF bTally F.TL_STALL_US s * 1000 ≤ s.time - w.since)

/-- Marks one registration as reported. -/
def markStalled (w : Waiter) (s : State) : State :=
  { s with tally := { s.tally with
      waiters := s.tally.waiters.map fun x => if x = w then { x with stalled := true } else x } }

/-- WAIT_STALL (12 R401): once per registration, an event and the counter, no fault. -/
def execWaitStall (s : State) : Host.Outcome State Fault Refusal :=
  .next (match s.tally.waiters.find? (stallDue s) with
    | some w =>
      let t := tallyOf w.phys s
      addF bTally F.TL_STALLS 1 (tallyEvent 0x06 t.context t.virt w.phys t.epoch.toNat (markStalled w s))
    | none => s)

end Sys2Proof.Machine
end

