-- ==== Sys2Proof/Machine/Sequencer.lean ====
section
/-!
DEFINITION. The task sequencer's commands: DESCRIPTOR_ARRIVAL, TASK_COMPLETE, ABANDON_STOP, and the sequencer's own
tasks TALLY_ADD, TALLY_WAIT and TALLY_EXPECT (03 R82 to R100; 12 R394 to R400).
-/
namespace Sys2Proof.Machine

/-- A descriptor that passes its checks takes a slot and registers its wait (03 R92, 12 R397). -/
def enqueue (c : Nat) (a : Arrival) (s : State) : State :=
  let reg := dWaitUse a.desc && dWaitValue a.desc != 0
  let t : Task := ⟨s.nextUid, a.desc, a.release, false, reg, .queued, false, false, 0, 0, 0, 0, 0, 0, 0, a.cmd⟩
  let s := updCroft c (fun k => { k with queue := k.queue ++ [t] }) { s with nextUid := s.nextUid + 1 }
  match reg, contextOf c s with
  | true, some p => sendTally p (dWaitTally a.desc) (.wait (dWaitValue a.desc)) (.task c t.uid) s
  | _, _ => s

/-- A direct-task command's descriptor. -/
def directTaskOf (cmd : Nat) (s : State) : Bool := s.host.cmds.any fun k => k.uid == cmd && dF 0 1 k.words == 3

/-- The fault with which the croft refuses an arriving descriptor: a direct task in timed service, else what its header
fails (03 R90, R92, R95). -/
def arrivalRefused (c : Nat) (a : Arrival) (s : State) : Option (Nat × Nat) :=
  if croftTimed c s && directTaskOf a.cmd s then some (0x0D, 0) else arrivalFault c a.desc s

/-- A descriptor that reaches a fenced croft goes back unqueued: a fenced croft holds no queued task (03 R103). When it is a
commit-class task of a committed step, no croft takes it over and the partition's commits stop (03 R80). -/
def turnAway (c : Nat) (a : Arrival) (s : State) : State :=
  let s := endOfTask a.cmd 0x07 0 s
  match contextOf c s with
  | some p => if committedDesc c a.desc s then updPart p (fun k => { k with stopCommits := true }) s else s
  | none => s

/-- A descriptor arrives: turned away, refused and reported, or queued. -/
def arrive (c : Nat) (a : Arrival) (s : State) : State :=
  if fenced (bCroft c) s then turnAway c a s
  else match arrivalRefused c a s with
    | some (code, o) => reportFault c a.desc a.cmd false ⟨code, o, 0, 0, 0, []⟩ s
    | none => enqueue c a s

/-- DESCRIPTOR_ARRIVAL (03 R92): the oldest descriptor on its way to the croft arrives. -/
def execDescriptorArrival (c : CroftId) (s : State) : Host.Outcome State Fault Refusal :=
  .next (match (croftOf c.val s).arriving with
    | [] => s
    | a :: r => arrive c.val a (updCroft c.val (fun k => { k with arriving := r }) s))

/-- TALLY_ADD (12 R394): sends the addition; done when it has been applied. -/
def execTallyAdd (c : CroftId) (s : State) : Host.Outcome State Fault Refusal :=
  .next (match startableOp c.val opTallyAdd s with
    | some t => runTask c.val t (fun x => do
        tUpd (sendTally x.part (dF 0x18 2 t.desc) (.add (dF 0x1C 4 t.desc)) (.task x.croft x.uid))) s
    | none => s)

/-- TALLY_WAIT (12 R397): registers its wait; a value of 0 is satisfied at once (12 R396). -/
def execTallyWait (c : CroftId) (s : State) : Host.Outcome State Fault Refusal :=
  .next (match startableOp c.val opTallyWait s with
    | some t => runTask c.val t (fun x => do
        if dF 0x1C 4 t.desc = 0 then tUpd (markWorked x.croft x.uid)
        else
          tUpd (updTask x.croft x.uid fun t => { t with registered := true })
          tUpd (sendTally x.part (dF 0x18 2 t.desc) (.wait (dF 0x1C 4 t.desc)) (.task x.croft x.uid))) s
    | none => s)

/-- TALLY_EXPECT (12 R398). -/
def execTallyExpect (c : CroftId) (s : State) : Host.Outcome State Fault Refusal :=
  .next (match startableOp c.val opTallyExpect s with
    | some t => runTask c.val t (fun x => do
        tUpd (sendTally x.part (dF 0x18 2 t.desc) (.expect (dF 0x1C 4 t.desc) (dF 0x20 4 t.desc))
          (.task x.croft x.uid))) s
    | none => s)

/-- The mill still owes the task an answer (13 R430, R442; 14 R472). -/
def millOwes (c uid : Nat) (s : State) : Bool :=
  s.mill.jobs.any fun e =>
    (e.2.pend.any fun x => x.croft == c && x.uid == uid) || e.2.accs.any fun x => x.croft == c && x.uid == uid

/-- The oldest task of a unit class that has done its work and whose traffic has drained. -/
def completable (c u : Nat) (s : State) : Option Task :=
  (croftOf c s).queue.find? fun t =>
    t.phase == .running && t.worked && unitOf (dOpcode t.desc) == u && drained c t.uid s && !millOwes c t.uid s

/-- A timed task that is late is reported and counted at its completion (03 R89). -/
def deadlineEvent (c : Nat) (t : Task) (s : State) : State :=
  let b := bCroft c
  let g := croftNumber c s
  if croftTimed c s && dDeadlineEn t.desc && decide (t.release + dDeadline t.desc < s.time) then
    let late := s.time - (t.release + dDeadline t.desc)
    addF b F.DEADLINE_MISSES 1
      (raise b 0x03 0 (ownerScope b s) false (dTaskId t.desc + g * 2 ^ 16 + late % 2 ^ 32 * 2 ^ 32) s)
  else s

/-- Completes a task (03 R87, R89; 12 R400): the addition and the completion record. Without an addition the event record is
written and the slot is free at once, else when the addition has been acknowledged. -/
def completeTask (c : Nat) (t : Task) (s : State) : State :=
  let s := deadlineEvent c t (binShadow c t (addF (bCroft c) F.TASKS_DONE 1 s))
  let s := if stepTask t.cmd s && !commitClass (dOpcode t.desc) then s else endOfTask t.cmd 0 0 s
  match dDoneUse t.desc, contextOf c s with
  | true, some p =>
    sendTally p (dDoneTally t.desc) (.add (dDoneAdd t.desc)) (.done c t.uid)
      (updTask c t.uid (fun t => { t with phase := .leaving }) s)
  | _, _ => removeTask c t.uid (taskEvent c t.desc s)

end Sys2Proof.Machine
end

