-- ==== Sys2Proof/Machine/Gauze.lean ====
section
/-!
DEFINITION. The gauze engine (04 R108 to R145) and the group sums both product engines form: GZ_PLAIN, GZ_WEFT,
GZ_ISSUE_CYCLE, GZ_COLLECTOR_FOLD, LOOM_TAKE_BORROWED and GZ_RUN_LENT_TILE.
-/
namespace Sys2Proof.Machine

/-! ### Group sums (06 R185 to R187) -/

/-- Group sums of the entries of one group row: exact sums per column, rounded once. `val red j` is the dense operand. -/
def groupSums (val : Nat → Nat → Val) (cols : Nat) (es : List GzEntry) : List PSum :=
  (List.range cols).map fun j => es.foldl (fun p e => p.take (mulVal e.v (val e.red j))) PSum.zero

/-- Every group sum of a tile: for each output row and group of `size` reduction indices that has an entry, in
ascending row and group. `base` is the tile's first global reduction index. -/
def tileSums (size base tile col cols : Nat) (val : Nat → Nat → Val) (es : List GzEntry) : List (GSumRow × List PSum) :=
  ((List.range 128).map fun row =>
    (List.range (128 / size)).filterMap fun g =>
      let l := es.filter fun e => e.out == row && e.red / size == g
      if l.isEmpty || cols == 0 then none
      else
        let p := groupSums val cols l
        some (⟨row, base + size * g, tile, col, p.map PSum.out⟩, p)).flatten

/-- Adds the exact sums of group rows to the shadow sums of an accumulator of width `w`. -/
def shadowRows (w : Nat) (l : List (GSumRow × List PSum)) (sh : List PSum) : List PSum :=
  if sh.isEmpty then sh
  else l.foldl (fun sh x =>
    ((List.range x.2.length).zip x.2).foldl (fun sh e => shadowTake w x.1.row (x.1.col + e.1) e.2 sh) sh) sh

/-! ### Operands -/

def gzWidth (lane : Nat) : Nat := if lane = 0 then 64 else if lane = 1 then 16 else 4
def gzPerUnit (w : Nat) : Nat := 64 / w
def gzUnits (rate8 : Bool) : Nat := if rate8 then 32 else 16

/-- Pane fill cycles (04 R113 table). -/
def gzFill (w : Nat) (b : Bolt) : Nat :=
  cdiv (128 * w * (if class8 b.fmt then 8 else 16) / 8 + (if b.scaled then 128 * (if w = 64 then 2 else 1) else 0)) 2048

/-- A descriptor's gauze operands. -/
def gzLane (d : Desc) : Nat := bits 0 2 (dF 0x2E 1 d)
def gzDual (d : Desc) : Bool := bit 2 (dF 0x2E 1 d)
def gzAcc (d : Desc) : Bool := bit 0 (dF 0x2F 1 d)
def gzFinal (d : Desc) : Bool := bit 1 (dF 0x2F 1 d)
def gzRow (d : Desc) : Nat := dF 0x24 2 d
def gzCol (d : Desc) : Nat := dF 0x26 2 d
def gzKFirst (d : Desc) : Nat := dF 0x28 2 d
def gzKCount (d : Desc) : Nat := dF 0x2A 2 d
def gzColBase (d : Desc) : Nat := dF 0x2C 2 d

/-- Key and state of the slot headers (04 R131). -/
def gzKey (d : Desc) (h : List Byte) : Bool :=
  leAt h 4 4 == dF 0x20 4 d && leAt h 8 2 == gzRow d && leAt h 0xA 2 == gzCol d && leAt h 0xC 2 == gzColBase d
def gzOrient (weft : Bool) : Nat := if weft then 2 else 1
def gzSame (d : Desc) (weft : Bool) (h : List Byte) : Bool := leAt h 1 1 == gzOrient weft && leAt h 2 1 == gzLane d
def gzHeader (d : Desc) (weft : Bool) (nextK : Nat) : List Byte :=
  bytesOf 1 1 ++ bytesOf 1 (gzOrient weft) ++ bytesOf 1 (gzLane d) ++ bytesOf 1 0 ++ bytesOf 4 (dF 0x20 4 d) ++
  bytesOf 2 (gzRow d) ++ bytesOf 2 (gzCol d) ++ bytesOf 2 (gzColBase d) ++ bytesOf 2 nextK ++ bytesOf 2 (dStepTag d)

/-- Formats an engine multiplies, and formats it writes (02 R47). -/
def productFmt (f : Nat) : Bool := decide (1 ≤ f ∧ f ≤ 8)
def outputFmt (f : Nat) : Bool := decide (f ≤ 8)

/-! ### Start (04 R110, R111, R654) -/

/-- The bolts are of the shape R110 asks; an absent B_BOLT fails like one of a wrong rank (log entry 61). -/
def gzStructure (a b c : Option Bolt) (d : Desc) : TM (Bolt × Bolt × Bolt) := do
  match a, b, c with
  | none, _, _ => tFault 0x08 0x18 0
  | some a, b, c =>
    tCheck (a.sparse && a.rank == 2) 0x08 0x18 0
    match b, c with
    | none, _ => tFault 0x08 0x1C 0
    | some b, c =>
      tCheck (!b.sparse && b.rank == 2) 0x08 0x1C 0
      match c with
      | none => tFault 0x08 0x20 0
      | some c =>
        tCheck (!c.sparse && c.rank == 2) 0x08 0x20 0
        tCheck (gzKCount d != 0) 0x08 0x2A 0
        pure (a, b, c)

/-- A new run of the engine. -/
def gzNew (x : TCtx) (d : Desc) (weft : Bool) (a b c : Bolt) (m : SMap Cell) (s : State) : GzRun :=
  let w := gzWidth (gzLane d)
  let r8 := class8 a.fmt && class8 b.fmt
  let ct := c.tileAt (gzCol d) (gzRow d)
  let cols := min w (min (c.liveCols ct) (b.liveCols (b.tileAt (gzCol d) (gzKFirst d))) - gzColBase d)
  { uid := x.uid, weft := weft, width := w, rate8 := r8, a := a, b := b, c := c, cols := cols, rows := c.liveRows ct,
    next := 0, started := 0, cycle := 0, panes := [], units := List.replicate (gzUnits r8) ⟨[], none, none, none⟩,
    lent := [], back := [], held := [], tenter := m, shadow := shadowStart x (dStepTag d) c ct w 64 m s, idle := 0,
    begun := false }

def setGz (c : Nat) (g : Option GzRun) (s : State) : State := updCroft c (fun k => { k with gz := g }) s
def setLoom (c : Nat) (g : Option LmRun) (s : State) : State := updCroft c (fun k => { k with loom := g }) s

/-- The start checks of a gauze task in the order of R654, then the run. -/
def gzStart (weft : Bool) (d : Desc) (x : TCtx) : TM Unit := do
  let a ← readBolt? x 0x18 (dF 0x18 4 d)
  let b ← readBolt? x 0x1C (dF 0x1C 4 d)
  let c ← readBolt? x 0x20 (dF 0x20 4 d)
  let (a, b, c) ← gzStructure a b c d
  tCheck (productFmt a.fmt) 0x05 0x18 0
  tCheck (productFmt b.fmt) 0x05 0x1C 0
  tCheck (outputFmt c.fmt) 0x05 0x20 0
  let w := gzWidth (gzLane d)
  tCheck (!(c.scaled && w != 64)) 0x05 0x20 0
  tCheck (gzColBase d % w == 0 && decide (gzColBase d + w ≤ 128)) 0x08 0x2C 0
  tCheck (!gzFinal d || statsOk c) 0x08 0x20 0
  tCheck (a.empty || b.empty || c.empty || outDraws x.croft (gzFinal d) c (c.tileAt (gzCol d) (gzRow d)) (← get)) 0x08 0x20 0
  if a.empty || b.empty || c.empty then tUpd (markWorked x.croft x.uid)
  else
    let kEnd := gzKFirst d + gzKCount d
    tCheck (decide (gzRow d < (if weft then a.ext 0 else a.ext 1)) && decide (gzRow d < c.ext 1)) 0x08 0x24 0
    tCheck (decide (gzCol d < b.ext 0) && decide (gzCol d < c.ext 0)) 0x08 0x26 0
    tCheck (decide (kEnd ≤ (if weft then a.ext 1 else a.ext 0)) && decide (kEnd ≤ b.ext 1)) 0x08 0x28 0
    let m ← startSlot x (gzSlots x.croft (← get)) (gzAcc d) (gzFinal d) (gzKey d) (gzSame d weft) 0xE (gzKFirst d) w
      0x28 0x20
    let g := gzNew x d weft a b c m (← get)
    tUpd (shadowDraw x c)
    tUpd (setGz x.croft (some g))

/-- GZ_PLAIN (04 R108). -/
def execGzPlain (c : CroftId) (s : State) : Host.Outcome State Fault Refusal :=
  .next (match startableOp c.val opGzPlain s with
    | some t => runTask c.val t (gzStart false t.desc) s
    | none => s)

/-- GZ_WEFT (04 R109). -/
def execGzWeft (c : CroftId) (s : State) : Host.Outcome State Fault Refusal :=
  .next (match startableOp c.val opGzWeft s with
    | some t => runTask c.val t (gzStart true t.desc) s
    | none => s)

/-! ### Dealing (04 R115 to R121, R136, R137) -/

/-- Local tile index of A tile k and B tile k of a run, k counted from K_FIRST. -/
def gzATile (g : GzRun) (d : Desc) (k : Nat) : Nat :=
  if g.weft then g.a.tileAt (gzRow d) (gzKFirst d + k) else g.a.tileAt (gzKFirst d + k) (gzRow d)
def gzBTile (g : GzRun) (d : Desc) (k : Nat) : Nat := g.b.tileAt (gzCol d) (gzKFirst d + k)
def gzCTile (g : GzRun) (d : Desc) : Nat := g.c.tileAt (gzCol d) (gzRow d)

/-- First global reduction index of A tile k (04 R122). -/
def gzBase (g : GzRun) (d : Desc) (k : Nat) : Nat :=
  128 * (if g.weft then g.a.grow (gzATile g d k) else g.a.gcol (gzATile g d k))

/-- Entries oriented for the product: output row and reduction row. -/
def orient (weft : Bool) (e : Entry) : GzEntry := if weft then ⟨e.c, e.r, e.v⟩ else ⟨e.r, e.c, e.v⟩

/-- What GZ_FAULT and GZ_FAULT_AT record of a malformed tile (04 R141, R144; the row of two checks of the row pointers as a whole: log
entry 61). -/
def gzFaultSets (k : Nat) (e : GzBad) : List (Field × Nat) :=
  [(F.GZ_FAULT_CHECK, e.check), (F.GZ_FAULT_TILE_K, k), (F.GZ_FAULT_AT_WHERE, e.pos), (F.GZ_FAULT_AT_IS_ROW, bitOf e.isRow)]

/-- Records a malformed tile and faults. -/
def gzMalformed {α : Type} (operand k : Nat) (e : GzBad) : TM α := tFaultSet 0x07 operand 0 (gzFaultSets k e)

/-- The picks of a gauze tile (04 R120, R121): rows in entry order, or bands of 16 rows sorted by column and row. -/
def gzPicks (weft : Bool) (k base : Nat) (es : List GzEntry) : List GzPick :=
  if weft then
    (List.range 8).map fun b =>
      ⟨k, base, b, ((List.range 128).map fun j => es.filter fun e => e.out == j && e.red / 16 == b).flatten, 0⟩
  else (List.range 128).map fun r => ⟨k, base, r, es.filter fun e => e.out == r, 0⟩

/-- Appends picks to the queues: pick number p to unit p mod U. `base` numbers the first one. -/
def dealPicks (base : Nat) (picks : List GzPick) (us : List GzUnit) : List GzUnit :=
  ((List.range us.length).zip us).map fun e =>
    { e.2 with queue := e.2.queue ++
      (((List.range picks.length).zip picks).filterMap fun p =>
        if (base + p.1) % us.length = e.1 then some p.2 else none) }

/-- The rows of a pane: the columns of the group that are live in B; a row or column in B's selvage holds +0, whether or not
it is listed here (04 R112, R115). -/
def readPane (x : TCtx) (g : GzRun) (d : Desc) (k : Nat) : TM (List (List Val)) := do
  let bt := gzBTile g d k
  let nr := g.b.liveRows bt
  let nc := min g.width (g.b.liveCols bt - gzColBase d)
  if nc = 0 then pure (List.replicate nr [])
  else
    let a ← readTwill x 0x1C g.b bt (g.b.denseAt bt) 0 nr (gzColBase d) nc
    pure (a.toList.map fun r => r.toList)

/-- Fill cycles of the pane of tile k. The first pane fills from cycle 10 of the task, before the first entry can issue at
cycle 28, which is cycle 0 of the run (04 R140); every later one takes its whole fill (04 R115). -/
def paneFill (g : GzRun) (k : Nat) : Nat := if k = 0 then 0 else gzFill g.width g.b

/-- A pane row has no nonzero element (04 R117). -/
def bareRow (rows : List (List Val)) (r : Nat) : Bool := ((rows[r]?).getD []).all Val.isZero

/-- The transfers named so far belong to the tile just taken up (11 R353). -/
def tTaken (x : TCtx) : TM Unit := tUpd (updCroft x.croft (numberXfers false x.uid))

/-- Takes up tile k (04 R136): a twill tile is lent, its picks counted among the task's (log entry 61); a gauze tile is checked, its
pane filled and its picks dealt. -/
def gzTakeTile (x : TCtx) (d : Desc) (g : GzRun) : TM GzRun := do
  let k := g.next
  let at_ := gzATile g d k
  let e ← readDir x 0x18 g.a at_
  if e.twill then
    tUpd (addF (bCroft x.croft) F.GZ_BORROWED 1)
    pure { g with next := k + 1, lent := g.lent ++ [⟨k, e.word⟩] }
  else
    match ← readGauze x 0x18 g.a at_ e with
    | .error b => gzMalformed 0x18 k b
    | .ok tile =>
      let rows ← readPane x g d k
      let all := tile.entries.map (orient g.weft)
      let keep := if gzDual d then all.filter fun n => !(bareRow rows n.red && n.v.isFin) else all
      tUpd (addF (bCroft x.croft) F.GZ_SKIPPED (all.length - keep.length))
      let picks := gzPicks g.weft k (gzBase g d k) keep
      pure { g with
        next := k + 1
        panes := g.panes ++ [⟨k, rows, paneFill g k⟩]
        units := dealPicks (k * picks.length) picks g.units }

/-- Tiles are taken up while a pane is free, in ascending k; not for a task being abandoned, nor while a loom task has
lent a tile and waits for the engine (04 R138). -/
def gzTakeTiles (x : TCtx) (d : Desc) (hold : Bool) : Nat → GzRun → TM GzRun
  | 0, g => pure g
  | fuel + 1, g => do
    if hold || decide (gzKCount d ≤ g.next) || decide (2 ≤ g.panes.length) then pure g
    else
      let g ← gzTakeTile x d g
      tTaken x
      gzTakeTiles x d hold fuel g

/-! ### Issue (04 R123 to R125, R129) -/

/-- Entries of a unit's not-started picks. A stolen pick begins to issue 2 cycles after it was taken, so it is not moved
again (04 R125 and the example after it, where the neighbours of a unit that has just stolen find nothing; log
entry 31). -/
def entriesLeft (u : GzUnit) : Nat :=
  ((u.queue.filter fun p => p.ready == 0).map fun p => p.entries.length).foldl (· + ·) 0

/-- One idle unit's steal (04 R125); the second component counts steals. -/
def stealOne (now i : Nat) (us : List GzUnit) (n : Nat) : List GzUnit × Nat :=
  let get (j : Nat) : GzUnit := (us[j]?).getD ⟨[], none, none, none⟩
  let u := get i
  if !u.queue.isEmpty || u.cur.isSome then (us, n)
  else
    let left := (i + us.length - 1) % us.length
    let right := (i + 1) % us.length
    let nl := entriesLeft (get left)
    let nr := entriesLeft (get right)
    let v := if 0 < nr ∧ nl ≤ nr then some right else if 0 < nl then some left else none
    match v with
    | none => (us, n)
    | some v =>
      match (get v).queue.getLast? with
      | none => (us, n)
      | some p =>
        (setAt (setAt us v { get v with queue := (get v).queue.dropLast }) i { u with queue := [{ p with ready := now + 2 }] },
         n + 1)

def stealAll (now : Nat) (us : List GzUnit) : List GzUnit × Nat :=
  (List.range us.length).foldl (fun a i => stealOne now i a.1 a.2) (us, 0)

/-- The pane of a tile is filled. -/
def paneReady (g : GzRun) (k : Nat) : Bool := g.panes.any fun p => p.tile == k && p.fill == 0

/-- The unit takes its next pick that may start; picks without entries are passed over. -/
def nextPick (g : GzRun) : Nat → GzUnit → GzUnit
  | 0, u => u
  | fuel + 1, u =>
    match u.cur, u.queue with
    | some p, _ => if p.entries.isEmpty then nextPick g fuel { u with cur := none } else u
    | none, p :: r =>
      if p.entries.isEmpty then nextPick g fuel { u with queue := r }
      else if decide (p.ready ≤ g.cycle) && paneReady g p.tile then { u with cur := some p, queue := r } else u
    | none, [] => u

/-- What one unit does in a cycle. -/
structure UnitStep where
  unit : GzUnit
  out : List (GSumRow × List PSum)     -- group sums emitted
  issued : Nat
  useful : Nat
deriving Repr

/-- First global reduction index of the group of an entry of a pick (04 R122). -/
def groupKey (p : GzPick) (red : Nat) : Nat := p.base + red / 16 * 16

def paneVal (g : GzRun) (k red j : Nat) : Val :=
  match g.panes.find? fun p => p.tile == k with
  | some p => (((p.rows[red]?).getD [])[j]?).getD (.fin false 0 0)
  | none => .fin false 0 0

/-- A group sum that its carry emits. -/
def emitCarry (y : GzCarry) : GSumRow × List PSum := (⟨y.row, y.key, y.tile, 0, y.sums.map PSum.out⟩, y.sums)

/-- Takes one entry into the open group, or emits that group and opens the next. No product is formed of a selvage cell of
either operand or of the output (02 R52). -/
def takeEntry (g : GzRun) (p : GzPick) (e : GzEntry) (r : UnitStep) : UnitStep :=
  let key := groupKey p e.red
  let live := (match g.panes.find? fun q => q.tile == p.tile with | some q => decide (e.red < q.rows.length) | none => false)
    && decide (e.out < g.rows)
  let prods := (List.range g.cols).map fun j => if live then some (mulVal e.v (paneVal g p.tile e.red j)) else none
  let add (sums : List PSum) : List PSum :=
    (sums.zip prods).map fun x => match x.2 with | some v => x.1.take v | none => x.1
  let fresh : GzCarry := ⟨p.tile, p.base, p.num, e.out, key, add (List.replicate g.cols PSum.zero)⟩
  let n := if live then g.cols else 0
  match r.unit.carry with
  | some y =>
    if y.tile = p.tile ∧ y.num = p.num ∧ y.row = e.out ∧ y.key = key then
      ⟨{ r.unit with carry := some { y with sums := add y.sums }, last := some (e.out, key) }, r.out, r.issued + 1, r.useful + n⟩
    else ⟨{ r.unit with carry := some fresh, last := some (e.out, key) }, r.out ++ [emitCarry y], r.issued + 1, r.useful + n⟩
  | none => ⟨{ r.unit with carry := some fresh, last := some (e.out, key) }, r.out, r.issued + 1, r.useful + n⟩

/-- Issues up to `n` entries of the window, crossing picks; a pick that ends emits its open group. -/
def issueWindow (g : GzRun) : Nat → UnitStep → UnitStep
  | 0, r => r
  | n + 1, r =>
    let u := nextPick g (r.unit.queue.length + 2) r.unit
    let r := { r with unit := u }
    match u.cur with
    | none => r
    | some p =>
      match p.entries with
      | [] => r
      | e :: rest =>
        let r := takeEntry g p e { r with unit := { u with cur := if rest.isEmpty then none else some { p with entries := rest } } }
        match rest, r.unit.carry with
        | [], some y => issueWindow g n { r with unit := { r.unit with carry := none }, out := r.out ++ [emitCarry y] }
        | _, _ => issueWindow g n r

/-- A group sum of (row, key) may be folded: no lower group can still contribute to the row (04 R128). -/
def foldable (g : GzRun) (x : GSumRow) : Bool :=
  let lower (tile : Nat) : Bool := decide (tile < x.tile)
  let blocks (p : GzPick) (running : Option Nat) : Bool :=
    if g.weft then
      decide (p.base + 16 * p.num < x.key) &&
      (match running with | some row => decide (row ≤ x.row) | none => true)
    else lower p.tile && p.num == x.row
  !(g.lent.any fun e => lower e.tile) &&
  !(g.units.any fun u =>
      (u.queue.any fun p => !p.entries.isEmpty && blocks p none) ||
      (match u.cur, u.carry with
        | some p, some y => blocks p (some (if y.tile = p.tile ∧ y.num = p.num then y.row else 0))
        | some p, none => blocks p none
        | none, some y => blocks ⟨y.tile, y.base, y.num, [], 0⟩ (some y.row)
        | none, none => false))

/-- What the units of a run did in one cycle. -/
structure CycleCount where
  issued : Nat
  holds : Nat
  stalls : Nat
  useful : Nat
  busy : Nat           -- units that issued or held
deriving DecidableEq, Repr

/-- Slots of the hold store in use: group sums that are not yet foldable (04 R129). -/
def holdUsed (g : GzRun) : Nat := (g.held.filter fun x => !foldable g x).length

/-- The run after unit `i` has issued a window of up to `n` entries from state `u`, with what it issued. -/
def windowOf (g : GzRun) (i n : Nat) (u : GzUnit) : GzRun × UnitStep :=
  let r := issueWindow g n ⟨u, [], 0, 0⟩
  let tiles := r.out.map (fun x => x.1.tile) ++ (match r.unit.carry with | some y => [y.tile] | none => [])
  ({ g with
      units := setAt g.units i r.unit
      held := g.held ++ r.out.map Prod.fst
      shadow := shadowRows g.width r.out g.shadow
      started := tiles.foldl (fun m k => max m (k + 1)) g.started }, r)

/-- The largest window of up to `n` entries whose group sums find room in the hold store (04 R123, R129; log entry 52). -/
def windowFit (g : GzRun) (i : Nat) (u : GzUnit) : Nat → Option (GzRun × UnitStep)
  | 0 => none
  | n + 1 =>
    let w := windowOf g i (n + 1) u
    if holdUsed w.1 ≤ 256 then some w else windowFit g i u n

/-- One unit's cycle: hold, wait for the hold store, or issue (04 R123, R124, R129). -/
def unitCycle (i : Nat) (a : GzRun × CycleCount) : GzRun × CycleCount :=
  let (g, n) := a
  match g.units[i]? with
  | none => a
  | some u0 =>
    let u := nextPick g (u0.queue.length + 2) u0
    let rest : GzRun := { g with units := setAt g.units i { u with last := none } }
    match u.cur.bind fun p => p.entries.head?.map fun e => (e.out, groupKey p e.red) with
    | none => (rest, n)
    | some f =>
      if u.last = some f then (rest, { n with holds := n.holds + 1, busy := n.busy + 1 })
      else match windowFit g i u (gzPerUnit g.width) with
        | none => (rest, { n with stalls := n.stalls + 1 })
        | some (g, r) => (g, { n with issued := n.issued + r.issued, useful := n.useful + r.useful, busy := n.busy + 1 })

/-- Some unit has entries of a tile. -/
def tileBusy (g : GzRun) (k : Nat) : Bool :=
  g.units.any fun u =>
    (u.queue.any fun p => p.tile == k && !p.entries.isEmpty) ||
    (match u.cur with | some p => p.tile == k && !p.entries.isEmpty | none => false)

/-- Some unit has an entry to issue. -/
def unitsBusy (g : GzRun) : Bool :=
  g.units.any fun u => (u.queue.any fun p => !p.entries.isEmpty) || (match u.cur with | some p => !p.entries.isEmpty | none => false)

/-- One pane at a time fills. -/
def fillStep : List GzPane → List GzPane
  | [] => []
  | p :: r => if p.fill = 0 then p :: fillStep r else { p with fill := p.fill - 1 } :: r

/-- A unit has entries to issue and waits for the pane of the first of them. -/
def paneWait (g : GzRun) (u : GzUnit) : Bool :=
  match u.cur, u.queue with
  | none, p :: _ => !paneReady g p.tile
  | _, _ => false

/-- What a cycle adds to the engine's counters (04 R144). -/
structure IssueCount where
  entries : Nat
  holds : Nat
  fillStalls : Nat
  idle : Nat
  holdStalls : Nat
  steals : Nat
  useful : Nat
deriving DecidableEq, Repr

def IssueCount.zero : IssueCount := ⟨0, 0, 0, 0, 0, 0, 0⟩
def IssueCount.add (a b : IssueCount) : IssueCount :=
  ⟨a.entries + b.entries, a.holds + b.holds, a.fillStalls + b.fillStalls, a.idle + b.idle, a.holdStalls + b.holdStalls,
   a.steals + b.steals, a.useful + b.useful⟩

/-- One cycle of the issue units, after tiles have been taken up: picks start, then idle units steal (the examples after
04 R144), then the units issue. `late` = bytes of the newest pane are still on their way, so that it does not fill. Idle
unit-cycles count within the issue span, so those since the last issue are kept until the next one (04 R144). A pane is let
go once it has been filled and no unit has an entry of its tile. -/
def issueCycle (steal late : Bool) (g : GzRun) : GzRun × IssueCount :=
  let us := g.units.map fun u => nextPick g (u.queue.length + 2) u
  let (us, steals) := if steal then stealAll g.cycle us else (us, 0)
  let g := { g with units := us }
  let waiting := unitsBusy g && g.units.all fun u => (u.queue.isEmpty && u.cur.isNone) || paneWait g u
  let (g, n) := (List.range g.units.length).foldl (fun a i => unitCycle i a) (g, ⟨0, 0, 0, 0, 0⟩)
  let begun := g.begun || decide (0 < n.issued)
  let idle := if begun then g.idle + (g.units.length - n.busy) else 0
  ({ g with
      cycle := g.cycle + 1
      panes := (if late then g.panes else fillStep g.panes).filter fun q => tileBusy g q.tile || q.fill != 0
      begun := begun
      idle := if 0 < n.issued then 0 else idle },
   ⟨n.issued, n.holds, bitOf waiting, if 0 < n.issued then idle else 0, n.stalls, steals, n.useful⟩)

/-- The engine's counters take what its cycles did. -/
def countIssue (c : Nat) (n : IssueCount) (s : State) : State :=
  let p := bCroft c
  addF p F.GZ_ENTRIES n.entries (addF p F.GZ_HOLDS n.holds (addF p F.GZ_FILL_STALLS n.fillStalls
    (addF p F.GZ_IDLE_UNIT_CYCLES n.idle (addF p F.GZ_HOLDSTORE_STALLS n.holdStalls (addF p F.GZ_STEALS n.steals
      (addUnits p F.GZ_USEFUL n.useful s))))))

/-- The newest pane is not filled yet. -/
def holdPane : List GzPane → List GzPane
  | [] => []
  | [p] => [{ p with fill := max 1 p.fill }]
  | p :: r => p :: holdPane r

/-- One cycle of a gauze task's issue units. -/
def gzIssue (c : Nat) (g : GzRun) (s : State) : State :=
  let late := !drained c g.uid s
  let (g, n) := issueCycle (flag (bCroft c) F.GZ_CTRL_STEAL s) late (if late then { g with panes := holdPane g.panes } else g)
  setGz c (some g) (countIssue c n s)

/-- The running gauze task of a croft, with its run. -/
def gzTask (c : Nat) (s : State) : Option (Task × GzRun) :=
  match (croftOf c s).gz with
  | none => none
  | some g => (findTask c g.uid s).map fun t => (t, g)

/-- A loom task of the croft has a tile on loan to the gauze engine. -/
def loomLent (c : Nat) (s : State) : Bool :=
  match (croftOf c s).loom with | some l => l.lent | none => false

/-- An abandoned task goes to the next tile boundary and no further: what it has taken up of tiles of which no entry has
issued, and which no loom has run, is given back (04 R143). -/
def gzGiveUp (g : GzRun) : GzRun :=
  let n := match g.back, g.lent with
    | _ :: _, e :: _ => max g.started (e.tile + 1)
    | _, _ => g.started
  { g with
    next := min n g.next
    panes := g.panes.filter fun p => decide (p.tile < n)
    lent := g.lent.filter fun e => decide (e.tile < n)
    units := g.units.map fun u => { u with
      queue := u.queue.filter fun p => decide (p.tile < n)
      cur := u.cur.filter fun p => decide (p.tile < n) } }

/-- GZ_ISSUE_CYCLE (04 R123): tiles are taken up, then the units issue. -/
def execGzIssueCycle (c : CroftId) (s : State) : Host.Outcome State Fault Refusal :=
  .next (match gzTask c.val s with
    | none => s
    | some (t, g) =>
      let hold := t.abandon || loomLent c.val s
      stepTaskRun c.val t (fun x => do
        let g ← gzTakeTiles x t.desc hold (gzKCount t.desc + 1) (if t.abandon then gzGiveUp g else g)
        tUpd (gzIssue x.croft g)) s)

/-! ### Collecting and output (04 R127 to R134, R137, R143) -/

/-- Orders group sums by first reduction index (05 R150). -/
def byKey (l : List GSumRow) : List GSumRow := sortBy (fun a b => decide (a.key ≤ b.key)) l

/-- The oldest tile on loan is back: its sums are with the engine, so that the tiles done reach it at least (04 R137, R143). -/
def lentBack (g : GzRun) : GzRun :=
  { g with lent := g.lent.drop 1, started := (g.lent.take 1).foldl (fun n e => max n (e.tile + 1)) g.started }

/-- The looms' group sums join the collector: those that are foldable, and others while the hold store has room. A tile that
is on loan is back when the last of its sums has been received (04 R128, R129, R137). -/
def gzReceive (g : GzRun) : GzRun :=
  let go := g.back.filter fun x => foldable g x
  let wait := g.back.filter fun x => !foldable g x
  let room := 256 - holdUsed g
  let back := wait.drop room
  let h := { g with held := g.held ++ go ++ wait.take room, back := back }
  if g.back.isEmpty || !back.isEmpty then h else lentBack h

/-- Folds every foldable group sum into the tenter in ascending group (04 R127, R128). -/
def gzFold (g : GzRun) : GzRun :=
  let g := gzReceive g
  let go := byKey (g.held.filter fun x => foldable g x)
  { g with tenter := go.foldl (fun m x => accFold 64 x m) g.tenter, held := g.held.filter fun x => !foldable g x }

/-- Every tile of the run that was taken up has been folded. -/
def gzQuiet (g : GzRun) : Bool :=
  !unitsBusy g && !(g.units.any fun u => u.carry.isSome) && g.lent.isEmpty && g.held.isEmpty

/-- The output cells of a gauze task and their counts (04 R134; 06 R190 to R194). -/
def gzWrite (d : Desc) (g : GzRun) (x : TCtx) : TM Unit := do
  let ct := gzCTile g d
  let k := convCtx x (dStepTag d) g.c.cls (← get)
  writeAcc x 0x20 k g.c ct 64 (gzColBase d) (min g.width (g.c.liveCols ct - gzColBase d)) (gzKFirst d + gzKCount d) g.tenter

/-- The end of a gauze task: C is on its way, or the slot is written (04 R132, R134; 06 R190 to R194, R211). -/
def gzFinish (d : Desc) (g : GzRun) (x : TCtx) : TM Unit := do
  let r := gzSlots x.croft (← get)
  let ct := gzCTile g d
  tUpd (shadowEnd x g.c ct g.width 64 (min g.width (g.c.liveCols ct - gzColBase d)) g.tenter g.shadow)
  if gzFinal d then
    tName x (gzWrite d g x)
    let s ← get
    let undo := if gzAcc d then dropUndo x.croft r (gzKey d) s else []
    if gzAcc d then tUpd (dropSlot x.croft r (gzKey d)) else pure ()
    tUpd (putEnding x.croft ⟨x.uid, some g, none, undo, [], 0⟩)
  else
    tTry (endSlot x.croft r (gzKey d) g.width (gzHeader d g.weft (gzKFirst d + gzKCount d)) g.tenter) (tFault 0x08 0x20 0)
  tUpd (setGz x.croft none)
  tUpd (markWorked x.croft x.uid)

/-- GZ_COLLECTOR_FOLD (04 R128): folds what is foldable; after the last fold, and once nothing the task has read can still
come back with an error, the task's result is written (04 R142). -/
def execGzCollectorFold (c : CroftId) (s : State) : Host.Outcome State Fault Refusal :=
  .next (match gzTask c.val s with
    | none => s
    | some (t, g) =>
      let g := gzFold g
      let s := setGz c.val (some g) s
      if gzQuiet g && decide (gzKCount t.desc ≤ g.next) && !t.abandon && drained c.val t.uid s then
        stepTaskRun c.val t (gzFinish t.desc g) s
      else s)

/-- The slot that an abandoned accumulator goes to: its task's, and a free one for a task that has none (04 R143, 05 R170). -/
def parkSlot (c : Nat) (r : SlotRegion) (slotless : Bool) (key : List Byte → Bool) (width : Nat) (header : List Byte)
    (m : SMap Cell) (s : State) : State :=
  if slotless then
    match freeSlot c r s with
    | some i => storeSlot c r i width header m s
    | none => s
  else (endSlot c r key width header m s).getD s

/-- The stop of an abandoned gauze task: the accumulator of the tiles done goes to its slot, when there is one
(04 R143). -/
def gzAbandon (c : Nat) (t : Task) (g : GzRun) (s : State) : State :=
  parkSlot c (gzSlots c s) (!gzAcc t.desc && gzFinal t.desc) (gzKey t.desc) g.width
    (gzHeader t.desc g.weft (gzKFirst t.desc + g.next)) g.tenter s

/-- Loom slots that a borrowed tile runs and skips (05 R155, R156): of the row blocks, the 32-column blocks that the group
touches and the reduction blocks, those run that hold an entry in live rows and a live column. -/
def borrowedSlots (es : List GzEntry) (cols width colBase : Nat) : Nat × Nat :=
  let touched (n : Nat) : Nat := if n = 0 then 0 else (colBase + n - 1) / 32 - colBase / 32 + 1
  let run := ((List.range 4).map fun o => ((List.range 4).filter fun r =>
    es.any fun e => e.out / 32 == o && e.red / 32 == r).length).foldl (· + ·) 0
  (run * touched cols, 16 * touched width - run * touched cols)

/-- A loom task leaves no loom to a borrowed tile at a tile boundary: a LOOM_PAIR that computes dX gives way only at its
completion (05 R164). -/
def keepsLooms (l : LmRun) : Bool := l.pair && (l.bolts[3]?).join.isSome

/-- The looms are free for a borrowed tile: idle, between the tiles of a task that gives way or before its first one, or one of them free
of a task that names the other (04 R138, R655; 05 R153, R164). -/
def loomFree (c : Nat) (s : State) : Bool :=
  match (croftOf c s).loom with
  | none => true
  | some l => (!keepsLooms l || l.next == 0) && (l.sel != 3 || (l.slotsA.isEmpty && l.slotsB.isEmpty))

/-- A gauze task of the croft waits for the looms with a tile on loan (04 R137, R655). -/
def gauzeWaits (c : Nat) (s : State) : Bool :=
  match (croftOf c s).gz with
  | none => false
  | some g => !g.lent.isEmpty

/-- The looms run the oldest tile a gauze task has lent: its group sums join the collector (04 R137, R138). -/
def borrowTile (d : Desc) (g : GzRun) (e : GzLent) (x : TCtx) : TM Unit := do
  let at_ := gzATile g d e.tile
  let entries ← readTwillTile x 0x18 g.a at_ (DirEntry.parse e.word)
  let rows ← readPane x g d e.tile
  let arr := (rows.map List.toArray).toArray
  let es := (entries.map (orient g.weft)).filter fun e => decide (e.out < g.rows ∧ e.red < rows.length)
  let sums := tileSums (if g.rate8 then 8 else 4) (gzBase g d e.tile) e.tile 0 g.cols (valAt arr) es
  let (run, skip) := borrowedSlots es g.cols g.width (gzColBase d)
  let p := bCroft x.croft
  tUpd (fun s => addF p F.LM_BORROWED 1 (addF p F.LM_SLOTS_RUN run (addF p F.LM_SLOTS_SKIPPED skip
    (addUnits p F.LM_USEFUL (es.length * g.cols) s))))
  let h := { g with back := sums.map Prod.fst, shadow := shadowRows g.width sums g.shadow }
  tUpd (setGz x.croft (some (if sums.isEmpty then lentBack h else h)))

/-- LOOM_TAKE_BORROWED (04 R137, R655). -/
def execLoomTakeBorrowed (c : CroftId) (s : State) : Host.Outcome State Fault Refusal :=
  .next (match gzTask c.val s with
    | none => s
    | some (t, g) =>
      match g.lent with
      | [] => s
      | e :: _ => if g.back.isEmpty && loomFree c.val s then stepTaskRun c.val t (borrowTile t.desc g e) s else s)

end Sys2Proof.Machine
end

