-- ==== Sys2Proof/Machine/Loom.lean ====
section
/-!
DEFINITION. The twin looms (05 R146 to R172): LOOM_FWD, LOOM_PAIR, LOOM_SLOT, and GZ_RUN_LENT_TILE, in which the gauze
engine runs a tile of a loom task.
-/
namespace Sys2Proof.Machine

/-! ### Operands -/

def lmAccBit (d : Desc) (i : Nat) : Bool := bit i (dF (if dOpcode d = opLoomPair then 0x34 else 0x2F) 1 d)

/-- One accumulator of a loom task: its operand's offset, beam, key row and column, ORIENT, ACC, FINAL, where the chain
index comes from, its first and next values. -/
structure LmAcc where
  outOff : Nat
  row : Nat
  col : Nat
  orient : Nat
  acc : Bool
  final : Bool
  kOff : Nat
  kFirst : Nat
  kCount : Nat
deriving DecidableEq, Repr

def pRow (d : Desc) : Nat := dF 0x2C 2 d
def pCol (d : Desc) : Nat := dF 0x2E 2 d
def pKFirst (d : Desc) : Nat := dF 0x30 2 d
def pKCount (d : Desc) : Nat := dF 0x32 2 d

def fwdAcc (d : Desc) : LmAcc :=
  ⟨0x20, gzRow d, gzCol d, 3, lmAccBit d 0, lmAccBit d 1, 0x28, gzKFirst d, gzKCount d⟩
def dxAcc (d : Desc) : LmAcc := ⟨0x24, pCol d, pKFirst d, 4, lmAccBit d 0, lmAccBit d 2, 0x2C, pRow d, 1⟩
def dwAcc (d : Desc) : LmAcc := ⟨0x28, pRow d, pCol d, 5, lmAccBit d 1, lmAccBit d 3, 0x30, pKFirst d, pKCount d⟩

/-- Slot key (05 R166, R167) and header. -/
def LmAcc.key (a : LmAcc) (d : Desc) (h : List Byte) : Bool :=
  leAt h 4 4 == dF a.outOff 4 d && leAt h 8 2 == a.row && leAt h 0xA 2 == a.col && leAt h 1 1 == a.orient
def LmAcc.header (a : LmAcc) (d : Desc) (nextK : Nat) : List Byte :=
  bytesOf 1 1 ++ bytesOf 1 a.orient ++ bytesOf 2 0 ++ bytesOf 4 (dF a.outOff 4 d) ++ bytesOf 2 a.row ++ bytesOf 2 a.col ++
  bytesOf 2 nextK ++ bytesOf 2 (dStepTag d)

def LmRun.bolt (g : LmRun) (i : Nat) : Option Bolt := (g.bolts[i]?).join

/-- Tiles the task goes through. -/
def LmRun.count (g : LmRun) (d : Desc) : Nat := if g.pair then pKCount d else gzKCount d

/-! ### Slots (05 R155, R156, R162, R164) -/

/-- Sub-blocks of an output or reduction extent that hold a live element. -/
def liveBlocks (n : Nat) : List Nat := (List.range 4).filter fun i => decide (32 * i < n)

/-- The slots of one product: column block outer, row block middle, reduction block inner, row blocks of this loom;
those not skipped, and how many are skipped. -/
def slotList (role : Nat) (obs : List Nat) (rows cols reds : Nat) (has : Nat → Nat → Bool) : List LmSlot × Nat :=
  let all := ((List.range 4).map fun n => (obs.map fun o => (List.range 4).map fun r => (⟨role, o, n, r⟩ : LmSlot)).flatten).flatten
  let run := all.filter fun x => (liveBlocks rows).contains x.ob && (liveBlocks cols).contains x.nb &&
    (liveBlocks reds).contains x.rb && has x.ob x.rb
  (run, all.length - run.length)

/-- Which mask sub-blocks have a bit set: row block and column block of the tile. -/
def maskHas (m : Option (Array Byte)) (rb cb : Nat) : Bool :=
  match m with
  | none => true
  | some m => (List.range 32).any fun i => (List.range 32).any fun j => maskBit m (128 * (32 * rb + i) + 32 * cb + j)

/-- Local tiles of the operands for tile `k` of a run: A or W, B or X, and the dense operand dY of a pair. -/
def fwdA (g : LmRun) (d : Desc) (k : Nat) : Nat := match g.bolt 0 with | some a => a.tileAt (gzKFirst d + k) (gzRow d) | none => 0
def fwdB (g : LmRun) (d : Desc) (k : Nat) : Nat := match g.bolt 1 with | some b => b.tileAt (gzCol d) (gzKFirst d + k) | none => 0
def fwdC (g : LmRun) (d : Desc) : Nat := match g.bolt 2 with | some c => c.tileAt (gzCol d) (gzRow d) | none => 0
def pairDy (g : LmRun) (d : Desc) (k : Nat) : Nat := match g.bolt 0 with | some b => b.tileAt (pKFirst d + k) (pRow d) | none => 0
def pairW (g : LmRun) (d : Desc) : Nat := match g.bolt 1 with | some b => b.tileAt (pCol d) (pRow d) | none => 0
def pairX (g : LmRun) (d : Desc) (k : Nat) : Nat := match g.bolt 2 with | some b => b.tileAt (pKFirst d + k) (pCol d) | none => 0
def pairDx (g : LmRun) (d : Desc) : Nat := match g.bolt 3 with | some b => b.tileAt (pKFirst d) (pCol d) | none => 0
def pairDw (g : LmRun) (d : Desc) : Nat := match g.bolt 4 with | some b => b.tileAt (pCol d) (pRow d) | none => 0

/-- Live output rows, output columns and reduction indices of a product of tile `k` (05 R155; 02 R52). -/
def extents (g : LmRun) (d : Desc) (role k : Nat) : Nat × Nat × Nat :=
  match role, g.bolt 0, g.bolt 1, g.bolt 2, g.bolt 3, g.bolt 4 with
  | 0, some a, some b, some c, _, _ =>
    (min (a.liveRows (fwdA g d k)) (c.liveRows (fwdC g d)), min (b.liveCols (fwdB g d k)) (c.liveCols (fwdC g d)),
     min (a.liveCols (fwdA g d k)) (b.liveRows (fwdB g d k)))
  | 1, some y, some w, _, some x, _ =>
    (min (w.liveCols (pairW g d)) (x.liveRows (pairDx g d)), min (y.liveCols (pairDy g d k)) (x.liveCols (pairDx g d)),
     min (w.liveRows (pairW g d)) (y.liveRows (pairDy g d k)))
  | 2, some y, _, some x, _, some w =>
    (min (y.liveRows (pairDy g d k)) (w.liveRows (pairDw g d)), min (x.liveRows (pairX g d k)) (w.liveCols (pairDw g d)),
     min (y.liveCols (pairDy g d k)) (x.liveCols (pairX g d k)))
  | _, _, _, _, _, _ => (0, 0, 0)

/-- The streams that carry a twill tile's values and scales to a loom port (11 R345). -/
def logTile (x : TCtx) (b : Option Bolt) (t at_ : Nat) : TM Unit := do
  match b with
  | none => pure ()
  | some b =>
    if leaves x (spaceOf b.base) (addrOf b.base + at_) (tileBytes b.fmt) (← get) then
      tUpd (logXfer (x.values b) (spaceOf b.base) (addrOf b.base + at_) (tileBytes b.fmt) false)
    else pure ()
    if b.scaled && leaves x (spaceOf b.scaleBase) (addrOf b.scaleBase + 512 * t) 512 (← get) then
      tUpd (logXfer (x.scales b) (spaceOf b.scaleBase) (addrOf b.scaleBase + 512 * t) 512 false)
    else pure ()

/-- The same for the tile of a tensor that is not sparse. -/
def logDense (x : TCtx) (b : Option Bolt) (t : Nat) : TM Unit :=
  logTile x b t (match b with | some b => b.denseAt t | none => 0)

/-- How an A or W tile is reached: its directory entry, read once; whether it is stored as gauze; where its values lie; its
mask (05 R154). -/
def lmReach (x : TCtx) (operand : Nat) (b : Bolt) (t : Nat) : TM (Nat × Bool × Nat × Option (Array Byte)) := do
  if b.sparse then
    let e ← readDir x operand b t
    if e.twill then pure (e.word, false, sparseAt e, some (← readMask x operand b t))
    else pure (e.word, true, sparseAt e, none)
  else pure (0, false, b.denseAt t, none)

/-- Takes up the next tile: its directory entry, its slots or its loan (05 R154, R155, R164). -/
def lmTakeTile (x : TCtx) (d : Desc) (g : LmRun) : TM LmRun := do
  let k := g.next
  let p := bCroft x.croft
  if g.pair then
    let both := (g.bolt 3).isSome && (g.bolt 4).isSome
    let (entry, gauze, off, mask) ← match g.bolt 3, g.bolt 1 with
      | some _, some w => lmReach x 0x1C w (pairW g d)
      | _, _ => pure (0, false, 0, none)
    let dx : List LmSlot × Nat :=
      if (g.bolt 3).isSome && !gauze then
        let (r, c, i) := extents g d 1 k
        slotList 1 (List.range 4) r c i (fun o b => maskHas mask b o)
      else ([], 0)
    let dw (obs : List Nat) : List LmSlot × Nat :=
      if (g.bolt 4).isSome then
        let (r, c, n) := extents g d 2 k
        -- dW steps token block outer, weight column block middle, row block inner (05 R162)
        let l := slotList 2 obs r c n (fun _ _ => true)
        (((List.range 4).map fun t => ((List.range 4).map fun c => l.1.filter fun s => s.rb == t && s.nb == c).flatten).flatten, l.2)
      else ([], 0)
    let split := gauze && (g.bolt 4).isSome
    let a := if split then dw [0, 1] else dx
    let b := if split then dw [2, 3] else if both || (g.bolt 4).isSome then dw (List.range 4) else ([], 0)
    logDense x (g.bolt 0) (pairDy g d k)
    logDense x (g.bolt 2) (pairX g d k)
    if (g.bolt 3).isSome && !gauze then logTile x (g.bolt 1) (pairW g d) off else pure ()
    tUpd (fun s => addF p F.LM_SLOTS_SKIPPED (a.2 + b.2) (if gauze then addF p F.LM_LENT 1 s else s))
    pure { g with next := k + 1, entry := entry, off := off, slotsA := a.1, slotsB := b.1, lent := gauze }
  else
    match g.bolt 0 with
    | none => pure g
    | some a => do
      let (entry, gauze, off, mask) ← lmReach x 0x18 a (fwdA g d k)
      if gauze then
        tUpd (addF p F.LM_LENT 1)
        pure { g with next := k + 1, entry := entry, off := off, lent := true }
      else
        let (r, c, i) := extents g d 0 k
        let has (o b : Nat) : Bool := maskHas mask o b
        let la := slotList 0 (if g.sel = 3 then [0, 1] else if g.sel = 1 then List.range 4 else []) r c i has
        let lb := slotList 0 (if g.sel = 3 then [2, 3] else if g.sel = 2 then List.range 4 else []) r c i has
        logTile x (some a) (fwdA g d k) off
        logDense x (g.bolt 1) (fwdB g d k)
        tUpd (addF p F.LM_SLOTS_SKIPPED (la.2 + lb.2))
        pure { g with next := k + 1, entry := entry, off := off, slotsA := la.1, slotsB := lb.1 }

/-- Takes up tiles until one has a slot or is on loan, or none is left. -/
def lmTakeTiles (x : TCtx) (d : Desc) (stop : Bool) : Nat → LmRun → TM LmRun
  | 0, g => pure g
  | fuel + 1, g => do
    if stop || !g.slotsA.isEmpty || !g.slotsB.isEmpty || g.lent || decide (g.count d ≤ g.next) then pure g
    else
      let g ← lmTakeTile x d g
      tTaken x
      lmTakeTiles x d stop fuel g

/-! ### One slot (05 R146, R149, R157) -/

/-- A 32 × 32 sub-block of a twill tile; its cells in the tile's selvage hold +0 (02 R52). -/
def subBlock (x : TCtx) (operand : Nat) (b : Bolt) (t at_ rb cb : Nat) : TM (Array (Array Val)) := do
  let a ← twillPart true x operand b t at_ (32 * rb) 32 (32 * cb) 32
  pure ((List.range 32).map fun i => ((List.range 32).map fun j =>
    if 32 * rb + i < b.liveRows t ∧ 32 * cb + j < b.liveCols t then valAt a i j else .fin false 0 0).toArray).toArray

/-- Mask bits of a tile, read without a transfer of its own. -/
def peekMask (x : TCtx) (operand : Nat) (b : Bolt) (t : Nat) : TM (Option (Array Byte)) := do
  if b.sparse then
    pure (some (← tPeek x operand (spaceOf b.maskBase) (addrOf b.maskBase + 2048 * t) 2048).toArray)
  else pure none

/-- Entries of a slot: the streamed or masked operand as (output, reduction) pairs within the tile. -/
def slotEntries (rows reds ob rb : Nat) (val : Nat → Nat → Val) (keep : Nat → Nat → Bool) : List GzEntry :=
  ((List.range 32).map fun i => (List.range 32).filterMap fun j =>
    let o := 32 * ob + i
    let r := 32 * rb + j
    if o < rows ∧ r < reds ∧ keep o r then some (⟨o, r, val i j⟩ : GzEntry) else none).flatten

/-- Place of a slot in the order of a pair: token block, weight column block, row block (05 R162). -/
def LmSlot.pos (sl : LmSlot) : Nat :=
  if sl.role = 2 then 16 * sl.rb + 4 * sl.nb + sl.ob else 16 * sl.nb + 4 * sl.ob + sl.rb

/-- The dY sub-block of a slot of a pair: loom A loads the one that loom B has streamed, so that the larder reads it once
(05 R162). -/
def dySub (x : TCtx) (d : Desc) (g : LmRun) (y : Bolt) (sl : LmSlot) : TM (Array (Array Val)) := do
  let t := pairDy g d (g.next - 1)
  match g.dy.find? fun e => sl.role == 1 && e.1.pos == sl.pos with
  | some e => pure (e.2.map List.toArray).toArray
  | none => if sl.role = 1 then subBlock x 0x18 y t (y.denseAt t) sl.rb sl.nb else subBlock x 0x18 y t (y.denseAt t) sl.ob sl.rb

/-- What a slot computes: group sums with exact sums, its useful products, and the run with the dY sub-block kept for, or
taken by, the other loom. -/
def runSlot (x : TCtx) (d : Desc) (g : LmRun) (sl : LmSlot) : TM (List (GSumRow × List PSum) × Nat × LmRun) := do
  let k := g.next - 1
  let (rows, cols, reds) := extents g d sl.role k
  let nc := min 32 (cols - 32 * sl.nb)
  let finish (size base : Nat) (es : List GzEntry) (val : Nat → Nat → Val) :
      List (GSumRow × List PSum) × Nat :=
    -- (group sums, useful products)
    (tileSums size base k (32 * sl.nb) nc (fun red j => val (red - 32 * sl.rb) j) es, es.length * nc)
  match sl.role, g.bolt 0, g.bolt 1, g.bolt 2 with
  | 0, some a, some b, _ => do
    let av ← subBlock x 0x18 a (fwdA g d k) g.off sl.ob sl.rb
    let m ← peekMask x 0x18 a (fwdA g d k)
    let bv ← subBlock x 0x1C b (fwdB g d k) (b.denseAt (fwdB g d k)) sl.rb sl.nb
    let keep (o r : Nat) : Bool := match m with | some m => maskBit m (128 * o + r) | none => true
    let (l, n) := finish (if class8 a.fmt && class8 b.fmt then 8 else 4) (128 * a.gcol (fwdA g d k))
      (slotEntries rows reds sl.ob sl.rb (valAt av) keep) (valAt bv)
    pure (l, n, g)
  | 1, some y, some w, _ => do
    let wv ← subBlock x 0x1C w (pairW g d) g.off sl.rb sl.ob
    let m ← peekMask x 0x1C w (pairW g d)
    let yv ← dySub x d g y sl
    let keep (o r : Nat) : Bool := match m with | some m => maskBit m (128 * r + o) | none => true
    let (l, n) := finish (if class8 w.fmt && class8 y.fmt then 8 else 4) (128 * w.grow (pairW g d))
      (slotEntries rows reds sl.ob sl.rb (fun i j => valAt wv j i) keep) (valAt yv)
    pure (l, n, { g with dy := g.dy.filter fun e => decide (sl.pos < e.1.pos) })
  | 2, some y, _, some xb => do
    let yv ← dySub x d g y sl
    let xv ← subBlock x 0x20 xb (pairX g d k) (xb.denseAt (pairX g d k)) sl.nb sl.rb
    let (l, n) := finish (if class8 y.fmt && class8 xb.fmt then 8 else 4) (128 * y.gcol (pairDy g d k))
      (slotEntries rows reds sl.ob sl.rb (valAt yv) (fun _ _ => true)) (fun red j => valAt xv j red)
    let want := g.slotsA.any fun e => e.role == 1 && e.pos == sl.pos
    pure (l, n, if want then { g with dy := g.dy ++ [(sl, yv.toList.map Array.toList)] } else g)
  | _, _, _, _ => pure ([], 0, g)

/-- Folds group sums into beam 0 (LOOM_FWD, dX) or 1 (dW), ascending in the reduction index (05 R150, R165). -/
def foldBeam (role : Nat) (l : List (GSumRow × List PSum)) (g : LmRun) : LmRun :=
  let sums := byKey (l.map Prod.fst)
  if role = 2 then
    { g with beam1 := sums.foldl (fun m e => accFold 128 e m) g.beam1, shadow1 := shadowRows 128 l g.shadow1 }
  else { g with beam0 := sums.foldl (fun m e => accFold 128 e m) g.beam0, shadow0 := shadowRows 128 l g.shadow0 }

/-! ### Ending (05 R167, R169) -/

/-- An accumulator at its task's end: its tensor and output tile, its beam and its sampled cells. -/
structure LmOut where
  acc : LmAcc
  bolt : Bolt
  tile : Nat
  beam : SMap Cell
  shadow : List PSum

/-- The accumulators of a loom task. -/
def lmOuts (d : Desc) (g : LmRun) : List LmOut :=
  let out (a : LmAcc) (b : Option Bolt) (t : Nat) (m : SMap Cell) (sh : List PSum) : List LmOut :=
    (b.map fun b => ⟨a, b, t, m, sh⟩).toList
  if g.pair then
    out (dxAcc d) (g.bolt 3) (pairDx g d) g.beam0 g.shadow0 ++ out (dwAcc d) (g.bolt 4) (pairDw g d) g.beam1 g.shadow1
  else out (fwdAcc d) (g.bolt 2) (fwdC g d) g.beam0 g.shadow0

/-- The output cells of a loom task and their counts (05 R169). -/
def lmWrite (d : Desc) (g : LmRun) (x : TCtx) : TM Unit :=
  ((lmOuts d g).filter fun o => o.acc.final).forM fun o => do
    let k := convCtx x (dStepTag d) o.bolt.cls (← get)
    writeAcc x o.acc.outOff k o.bolt o.tile 128 0 (o.bolt.liveCols o.tile) (o.acc.kFirst + o.acc.kCount) o.beam

/-- One accumulator's slot at the end of its task: set free by a final one that continued it, else written. What it changes is
answered. -/
def lmEndSlot (x : TCtx) (d : Desc) (o : LmOut) : TM (List (Nat × List Byte × List Byte)) := do
  let s ← get
  let r := lmSlots x.croft s
  let a := o.acc
  tUpd (shadowEnd x o.bolt o.tile 128 128 (o.bolt.liveCols o.tile) o.beam o.shadow)
  if a.final then
    if a.acc then
      tUpd (dropSlot x.croft r (a.key d))
      pure (dropUndo x.croft r (a.key d) s)
    else pure []
  else
    let h := a.header d (a.kFirst + a.kCount)
    tTry (endSlot x.croft r (a.key d) 128 h o.beam) (tFault 0x08 a.outOff 0)
    pure (storeUndo x.croft r (a.key d) h s)

/-- The end of a loom task: its beams go to their slots, and its outputs are on their way (05 R167, R169, R170). -/
def lmFinish (d : Desc) (g : LmRun) (x : TCtx) : TM Unit := do
  if (lmOuts d g).any fun o => o.acc.final then
    tName x (lmWrite d g x)
    let undo ← (lmOuts d g).mapM (lmEndSlot x d)
    tUpd (putEnding x.croft ⟨x.uid, none, some g, undo.flatten, [], 0⟩)
  else
    (lmOuts d g).forM fun o => do let _ ← lmEndSlot x d o
  tUpd (setLoom x.croft none)
  tUpd (markWorked x.croft x.uid)

/-- Stores the run, or ends the task after its last tile, once nothing it has read can still come back with an error
(05 R170). -/
def lmSettle (x : TCtx) (t : Task) (g : LmRun) : TM Unit := do
  if g.slotsA.isEmpty && g.slotsB.isEmpty && !g.lent && decide (g.count t.desc ≤ g.next) && !t.abandon &&
      drained x.croft x.uid (← get) then
    lmFinish t.desc g x
  else tUpd (setLoom x.croft (some g))

/-- The stop of an abandoned loom task (05 R170): each accumulator goes to its slot; one that computes dX writes
nothing. A tile that waits for the gauze engine has not been run. -/
def lmAbandon (c : Nat) (t : Task) (g : LmRun) (s : State) : State :=
  let d := t.desc
  let park (a : LmAcc) (m : SMap Cell) : State :=
    parkSlot c (lmSlots c s) (!a.acc && a.final) (a.key d) 128 (a.header d (a.kFirst + g.next - bitOf g.lent)) m s
  if g.pair then (if (g.bolt 3).isSome then s else park (dwAcc d) g.beam1)
  else park (fwdAcc d) g.beam0

/-! ### Start (05 R152, R160, R161, R167; 04 R654) -/

/-- The accumulator needs a slot it does not hold yet. -/
def needsFree (c : Nat) (d : Desc) (a : LmAcc) (s : State) : Bool :=
  !a.acc && !a.final && (findSlot c (lmSlots c s) (a.key d) s).isNone

/-- Free slots of the loom region. -/
def lmFree (c : Nat) (s : State) : Nat := (lmSlots c s).n - slotsValid c (lmSlots c s) s

/-- Start of one accumulator. -/
def lmStartAcc (x : TCtx) (d : Desc) (a : LmAcc) : TM (SMap Cell) := do
  startSlot x (lmSlots x.croft (← get)) a.acc a.final (a.key d) (fun _ => true) 0xC a.kFirst 128 a.kOff a.outOff

/-- Loom-cycles that the looms of a task wait at its start for the accumulators that it loads: they arrive 64 cycles apiece
from cycle 12, the first stationary operand 32/ρ cycles after the bolts and the directory entry (05 R171; log entry 53). -/
def loadWait (accs : Nat) (sparse rate8 : Bool) : Nat :=
  64 * accs - ((if sparse then 8 else 0) + (if rate8 then 16 else 32))

/-- Start of LOOM_FWD (05 R152; 04 R654; B_BOLT without a bolt: log entry 61). -/
def fwdStart (d : Desc) (x : TCtx) : TM Unit := do
  let a ← readBolt? x 0x18 (dF 0x18 4 d)
  let b ← readBolt? x 0x1C (dF 0x1C 4 d)
  let c ← readBolt? x 0x20 (dF 0x20 4 d)
  match a, b, c with
  | none, _, _ => tFault 0x08 0x18 0
  | some a, b, c =>
    tCheck (a.rank == 2) 0x08 0x18 0
    match b, c with
    | none, _ => tFault 0x08 0x1C 0
    | some b, c =>
      tCheck (!b.sparse && b.rank == 2) 0x08 0x1C 0
      match c with
      | none => tFault 0x08 0x20 0
      | some c =>
        tCheck (!c.sparse && c.rank == 2) 0x08 0x20 0
        tCheck (gzKCount d != 0) 0x08 0x2A 0
        tCheck (productFmt a.fmt) 0x05 0x18 0
        tCheck (productFmt b.fmt) 0x05 0x1C 0
        tCheck (outputFmt c.fmt) 0x05 0x20 0
        tCheck (!lmAccBit d 1 || statsOk c) 0x08 0x20 0
        tCheck (a.empty || b.empty || c.empty ||
          outDraws x.croft (lmAccBit d 1) c (c.tileAt (gzCol d) (gzRow d)) (← get)) 0x08 0x20 0
        if a.empty || b.empty || c.empty then tUpd (markWorked x.croft x.uid)
        else
          let kEnd := gzKFirst d + gzKCount d
          tCheck (decide (gzRow d < a.ext 1 ∧ gzRow d < c.ext 1)) 0x08 0x24 0
          tCheck (decide (gzCol d < b.ext 0 ∧ gzCol d < c.ext 0)) 0x08 0x26 0
          tCheck (decide (kEnd ≤ a.ext 0 ∧ kEnd ≤ b.ext 1)) 0x08 0x28 0
          let m ← lmStartAcc x d (fwdAcc d)
          let ct := c.tileAt (gzCol d) (gzRow d)
          let sh := shadowStart x (dStepTag d) c ct 128 128 m (← get)
          let sel := bits 0 2 (dF 0x2E 1 d)
          let r8 := class8 a.fmt && class8 b.fmt
          tUpd (addF (bCroft x.croft) F.LM_OPERAND_STALLS
            ((if sel = 3 then 2 else 1) * loadWait (bitOf (lmAccBit d 0)) a.sparse r8))
          tUpd (shadowDraw x c)
          tUpd (setLoom x.croft (some
            ⟨x.uid, false, [some a, some b, some c], 0, sel, 0, 0, [], [], [], none, false, m, [], sh, []⟩))

/-- A check that an optional bolt meets. -/
def onBolt (b : Option Bolt) (p : Bolt → Bool) : Bool := match b with | some b => p b | none => true

/-- Start of LOOM_PAIR (05 R160; 04 R654; faults that the rule does not name: log entry 61). -/
def pairStart (d : Desc) (x : TCtx) : TM Unit := do
  let y ← readBolt? x 0x18 (dF 0x18 4 d)
  let w ← readBolt? x 0x1C (dF 0x1C 4 d)
  let xb ← readBolt? x 0x20 (dF 0x20 4 d)
  let dx ← readBolt? x 0x24 (dF 0x24 4 d)
  let dw ← readBolt? x 0x28 (dF 0x28 4 d)
  tCheck (dx.isSome || dw.isSome) 0x08 0x24 0
  tCheck (y.isSome && onBolt y fun b => !b.sparse && b.rank == 2) 0x08 0x18 0
  tCheck (w.isSome == dx.isSome && onBolt w fun b => b.rank == 2) 0x08 0x1C 0
  tCheck (xb.isSome == dw.isSome && onBolt xb fun b => !b.sparse && b.rank == 2) 0x08 0x20 0
  tCheck (onBolt dx fun b => !b.sparse && b.rank == 2) 0x08 0x24 0
  tCheck (onBolt dw fun b => !b.sparse && b.rank == 2) 0x08 0x28 0
  tCheck (if dx.isSome then pKCount d == 1 else pKCount d != 0) 0x08 0x32 0
  tCheck (onBolt y fun b => productFmt b.fmt) 0x05 0x18 0
  tCheck (onBolt w fun b => productFmt b.fmt) 0x05 0x1C 0
  tCheck (onBolt xb fun b => productFmt b.fmt) 0x05 0x20 0
  tCheck (onBolt dx fun b => outputFmt b.fmt) 0x05 0x24 0
  tCheck (onBolt dw fun b => outputFmt b.fmt) 0x05 0x28 0
  tCheck (!lmAccBit d 2 || onBolt dx statsOk) 0x08 0x24 0
  tCheck (!lmAccBit d 3 || onBolt dw statsOk) 0x08 0x28 0
  let idle := [y, w, xb, dx, dw].any fun b => !onBolt b fun b => !b.empty
  let r := pRow d
  let c := pCol d
  let q ← get
  tCheck (idle || onBolt dx fun b => outDraws x.croft (lmAccBit d 2) b (b.tileAt (pKFirst d) c) q) 0x08 0x24 0
  tCheck (idle || onBolt dw fun b => outDraws x.croft (lmAccBit d 3) b (b.tileAt c r) q) 0x08 0x28 0
  if idle then tUpd (markWorked x.croft x.uid)
  else
    let kEnd := pKFirst d + pKCount d
    tCheck (onBolt y (fun b => decide (r < b.ext 1)) && onBolt w (fun b => decide (r < b.ext 1)) &&
      onBolt dw (fun b => decide (r < b.ext 1))) 0x08 0x2C 0
    tCheck (onBolt w (fun b => decide (c < b.ext 0)) && onBolt xb (fun b => decide (c < b.ext 1)) &&
      onBolt dx (fun b => decide (c < b.ext 1)) && onBolt dw (fun b => decide (c < b.ext 0))) 0x08 0x2E 0
    tCheck (onBolt y (fun b => decide (kEnd ≤ b.ext 0)) && onBolt xb (fun b => decide (kEnd ≤ b.ext 0)) &&
      onBolt dx (fun b => decide (kEnd ≤ b.ext 0))) 0x08 0x30 0
    let m0 ← if dx.isSome then lmStartAcc x d (dxAcc d) else pure []
    let m1 ← if dw.isSome then lmStartAcc x d (dwAcc d) else pure []
    let s ← get
    tCheck (!(dx.isSome && dw.isSome && needsFree x.croft d (dxAcc d) s && needsFree x.croft d (dwAcc d) s &&
      decide (lmFree x.croft s < 2))) 0x08 0x28 0
    let sh (b : Option Bolt) (t : Bolt → Nat) (m : SMap Cell) : List PSum :=
      match b with
      | some b => shadowStart x (dStepTag d) b (t b) 128 128 m s
      | none => []
    let n := (if dx.isSome && lmAccBit d 0 then 1 else 0) + (if dw.isSome && lmAccBit d 1 then 1 else 0)
    let rate (o : Option Bolt) : Bool := onBolt y (fun b => class8 b.fmt) && onBolt o fun b => class8 b.fmt
    let wait (o out : Option Bolt) : Nat :=
      if out.isSome then loadWait n (dx.isSome && !onBolt w fun b => !b.sparse) (rate o) else 0
    tUpd (addF (bCroft x.croft) F.LM_OPERAND_STALLS (wait w dx + wait xb dw))
    let draw (o : Option Bolt) (s : State) : State := match o with | some b => shadowDraw x b s | none => s
    tUpd (fun s => draw dw (draw dx s))
    tUpd (setLoom x.croft (some ⟨x.uid, true, [y, w, xb, dx, dw], 0, 3, 0, 0, [], [], [], none, false, m0, m1,
      sh dx (fun b => b.tileAt (pKFirst d) c) m0, sh dw (fun b => b.tileAt c r) m1⟩))

/-- LOOM_FWD (05 R151). -/
def execLoomFwd (c : CroftId) (s : State) : Host.Outcome State Fault Refusal :=
  .next (match startableOp c.val opLoomFwd s with
    | some t => runTask c.val t (fwdStart t.desc) s
    | none => s)

/-- LOOM_PAIR (05 R159). -/
def execLoomPair (c : CroftId) (s : State) : Host.Outcome State Fault Refusal :=
  .next (match startableOp c.val opLoomPair s with
    | some t => runTask c.val t (pairStart t.desc) s
    | none => s)

/-- The running loom task of a croft, with its run. -/
def lmTask (c : Nat) (s : State) : Option (Task × LmRun) :=
  match (croftOf c s).loom with
  | none => none
  | some g => (findTask c g.uid s).map fun t => (t, g)

/-- A loom cannot run its next slot yet: an operand has not arrived; or, when both products are computed, loom B has not
streamed the dY sub-block that loom A needs, or is two sub-blocks ahead of it (05 R162, R171). -/
def slotWaits (c l : Nat) (g : LmRun) (sl : LmSlot) (s : State) : Bool :=
  !drained c g.uid s ||
  (l == 0 && sl.role == 1 && (match g.slotsB with | b :: _ => decide (b.pos ≤ sl.pos) | [] => false)) ||
  (l == 1 && sl.role == 2 && decide (2 ≤ g.dy.length))

/-- The loom task takes up no tile of its own: it is being abandoned, or a gauze task's tile is to run first, which a LOOM_PAIR that
computes dX lets pass before its one tile (04 R137, R655). -/
def givesWay (c : Nat) (t : Task) (g : LmRun) (s : State) : Bool :=
  t.abandon || (gauzeWaits c s && g.sel == 3 && (!keepsLooms g || g.next == 0))

/-- One loom runs its next slot, after a tile has been taken up when none is in progress. -/
def slotStep (l : Nat) (t : Task) (g : LmRun) (x : TCtx) : TM Unit := do
  let g ← lmTakeTiles x t.desc (givesWay x.croft t g (← get)) (g.count t.desc + 1) g
  let s ← get
  match (if l = 0 then g.slotsA else g.slotsB) with
  | [] => lmSettle x t g
  | sl :: r =>
    if slotWaits x.croft l g sl s then tUpd (setLoom x.croft (some { g with wait := some (g.wait.getD s.time) }))
    else
      let p := bCroft x.croft
      tUpd (addF p F.LM_OPERAND_STALLS (match g.wait with | some w => nsToCycles x.croft (s.time - w) s | none => 0))
      let (sums, useful, g) ← runSlot x t.desc { g with wait := none } sl
      tUpd (fun s => addF p F.LM_SLOTS_RUN 1 (addUnits p F.LM_USEFUL useful s))
      lmSettle x t (foldBeam sl.role sums (if l = 0 then { g with slotsA := r } else { g with slotsB := r }))

/-- LOOM_SLOT (05 R146, R149): loom A (0) or B (1). -/
def execLoomSlot (c : CroftId) (l : Fin 2) (s : State) : Host.Outcome State Fault Refusal :=
  .next (match lmTask c.val s with
    | none => s
    | some (t, g) => stepTaskRun c.val t (slotStep l.val t g) s)

/-! ### A tile lent to the gauze engine (05 R154, R164) -/

/-- The gauze engine is between its own tiles (04 R138). -/
def gauzeFree (c : Nat) (s : State) : Bool :=
  match (croftOf c s).gz with
  | none => true
  | some g => !unitsBusy g

/-- The group sums of a lent gauze tile for each 64-column group with a live column. -/
def lentSums (weft : Bool) (rows cols reds base k : Nat) (val : Nat → Nat → Val) (es : List Entry) :
    List (GSumRow × List PSum) :=
  let l := (es.map (orient weft)).filter fun e => decide (e.out < rows ∧ e.red < reds)
  let group (b : Nat) : List (GSumRow × List PSum) :=
    tileSums 16 base k b (min 64 (cols - b)) (fun r j => val r (b + j)) l
  group 0 ++ (if 64 < cols then group 64 else [])

/-- The cycles of the issue units for one 64-column group of a lent tile, until its last entry has issued. Its group sums go
on to the beam as soon as they may be folded. -/
def lentCycles (steal : Bool) : Nat → GzRun → IssueCount → GzRun × IssueCount
  | 0, g, n => (g, n)
  | fuel + 1, g, n =>
    if unitsBusy g then
      let (g, m) := issueCycle steal false g
      lentCycles steal fuel { g with held := g.held.filter fun x => !foldable g x } (n.add m)
    else (g, n)

/-- What the issue units count over a lent tile: its picks are dealt, held and stolen as those of a gauze task's tile, in one
run for each 64-column group with a live column (05 R154, R164). -/
def lentCount (steal weft : Bool) (a b : Bolt) (rows cols base : Nat) (pane : List (List Val)) (es : List Entry) :
    IssueCount :=
  let r8 := class8 a.fmt && class8 b.fmt
  let run (col fill : Nat) : GzRun × IssueCount :=
    lentCycles steal (64 * (es.length + 16))
      { uid := 0, weft := weft, width := 64, rate8 := r8, a := a, b := b, c := b, cols := min 64 (cols - col), rows := rows,
        next := 1, started := 0, cycle := 0, panes := [⟨0, pane.map fun r => r.drop col, fill⟩],
        units := dealPicks 0 (gzPicks weft 0 base (es.map (orient weft))) (List.replicate (gzUnits r8) ⟨[], none, none, none⟩),
        lent := [], back := [], held := [], tenter := [], shadow := [], idle := 0, begun := false } IssueCount.zero
  if cols = 0 then IssueCount.zero
  else
    let (g, n) := run 0 0
    if 64 < cols then n.add (run 64 (gzFill 64 b - g.cycle)).2 else n

/-- Runs the tile of a loom task that is on loan. -/
def runLent (t : Task) (g : LmRun) (x : TCtx) : TM Unit := do
  let d := t.desc
  let k := g.next - 1
  let role := if g.pair then 1 else 0
  let off := if g.pair then 0x1C else 0x18
  let (rows, cols, reds) := extents g d role k
  match (if g.pair then g.bolt 1 else g.bolt 0), (if g.pair then g.bolt 0 else g.bolt 1) with
  | some a, some b => do
    let at_ := if g.pair then pairW g d else fwdA g d k
    let bt := if g.pair then pairDy g d k else fwdB g d k
    match ← readGauze x off a at_ (DirEntry.parse g.entry) with
    | .error bad => gzMalformed off k bad
    | .ok tile => do
      let bv ← readTwill x (if g.pair then 0x18 else 0x1C) b bt (b.denseAt bt) 0 (b.liveRows bt) 0 (b.liveCols bt)
      let base := 128 * (if g.pair then a.grow at_ else a.gcol at_)
      let sums := lentSums g.pair rows cols reds base k (valAt bv) tile.entries
      let steal := flag (bCroft x.croft) F.GZ_CTRL_STEAL (← get)
      tUpd (countIssue x.croft (lentCount steal g.pair a b rows cols base (bv.toList.map Array.toList) tile.entries))
      lmSettle x t (foldBeam role sums { g with lent := false })
  | _, _ => pure ()

/-- GZ_RUN_LENT_TILE (05 R154, R164). -/
def execGzRunLentTile (c : CroftId) (s : State) : Host.Outcome State Fault Refusal :=
  .next (match lmTask c.val s with
    | none => s
    | some (t, g) => if g.lent && gauzeFree c.val s then stepTaskRun c.val t (runLent t g) s else s)

end Sys2Proof.Machine
end

