-- ==== Sys2Proof/Machine/Fence.lean ====
section
/-!
DEFINITION. Taking units out of service (03 R103 to R107; 10 R338, R339; 14 R485, R487; 18 R621, R624): unit codes,
what a fence does to a croft, a hamlet and an interleave set, substitution of a spare, and the hamlet pages' summary.
-/
namespace Sys2Proof.Machine

/-- Code of a lane as a unit; the other units have their block codes. -/
def uLane (v l : Nat) : Nat := 2048 + 4 * v + l

/-- KIND of the repair page for a unit code (14 R488). -/
def unitKind (u : Nat) : Nat :=
  if 2048 ≤ u then 3
  else match kindOf u with
    | .croft => 1 | .hamlet => 2 | .port => 4 | .slice => 7 | .die => 8
    | .channel => if u < 756 then 5 else 6
    | _ => 0

/-- INDEX of the repair page for a unit code. -/
def unitIndex (u : Nat) (s : State) : Nat :=
  if 2048 ≤ u then u - 2048 else if u = bEdge 1 then 0 else instanceOf u s

def unitRetired (u : Nat) (s : State) : Bool := s.reeve.retired.any fun x => x == u

/-- Event and journal entry of a fence, a test result or a retirement (14 R487; payload: log entry 11). `result`:
1 = fenced, 2 = passed and returned, 3 = failed and retired, 5 = no spare. -/
def repairNote (u result severity : Nat) (s : State) : State :=
  let b := if 2048 ≤ u then bPort ((u - 2048) / 4) else u
  let pay := unitKind u + result * 2 ^ 8 + unitIndex u s * 2 ^ 16
  journal 7 (sourceOf b s) ((ownerOf b s).getD 8) severity pay
    (raise bRepair 0x0A result (ownerScope b s) true pay s)

/-- Event and journal entry of a croft substitution: the index and the spare that has it now (03 R105, 17 R582; log
entry 11). -/
def substitutionNote (c index spare : Nat) (s : State) : State :=
  let b := bCroft c
  journal 6 (sourceOf b s) ((ownerOf b s).getD 8) 1 (index + spare * 2 ^ 16)
    (raise bRepair 0x0A 4 (ownerScope b s) true (index + spare * 2 ^ 16) s)

/-! ### Hamlet and device pages (18 R622, R624) -/

/-- STATE of a slot of the croft map. -/
def slotState (h slot : Nat) (s : State) : Nat := getF (bHamlet h) (F.HAM_STATE.at slot) s
def setSlotState (h slot v : Nat) (s : State) : State := setF (bHamlet h) (F.HAM_STATE.at slot) v s

/-- Recomputes what the hamlet page and the device page show of slots and spares. -/
def refreshUnits (s : State) : State :=
  let freeOf (h : Nat) : Nat := ((List.range 38).filter fun i => slotState h i s == 1).length
  let on (h : Nat) : Bool := flag (bHbm h) F.HB_ONLINE s && !fenced (bHamlet h) s && !unitRetired (bHamlet h) s
  let s := (List.range 16).foldl (fun t h =>
    setF (bHamlet h) F.HAM_FENCED (bitOf (fenced (bHamlet h) s))
      (setF (bHamlet h) F.HAM_ONLINE (bitOf (on h)) (setF (bHamlet h) F.HAM_FREE_SPARES (freeOf h) t))) s
  let served := (List.range 16).foldl (fun n h => n + ((List.range 36).filter fun i => slotState h i s == 0).length) 0
  setF bDevice F.DEV_SERVED served
    (setF bDevice F.DEV_FREE_SPARES ((List.range 16).foldl (fun n h => n + freeOf h) 0)
      (setF bDevice F.DEV_HAMLETS_ONLINE ((List.range 16).foldl (fun n h => n + bitOf (on h) * 2 ^ h) 0) s))

/-- What the ledger restores after a reset: croft maps and states (18 R624). -/
def keepMap (h : Nat) (s : State) : State :=
  { s with reeve := { s.reeve with perm := (List.range 38).foldl (fun m i =>
      mapPut resetWord (regKey (bHamlet h) (0x80 + 4 * i)) (getW (bHamlet h) (0x80 + 4 * i) s) m) s.reeve.perm } }

/-- Exchanges the bindings of two slots of a hamlet (18 R624). -/
def exchangeSlots (h a b : Nat) (s : State) : State :=
  let wa := getW (bHamlet h) (0x80 + 4 * a) s
  let wb := getW (bHamlet h) (0x80 + 4 * b) s
  keepMap h (setW (bHamlet h) (0x80 + 4 * a) wb (setW (bHamlet h) (0x80 + 4 * b) wa s))

/-! ### Crofts -/

/-- The larder layout of a croft fits (03 R102). -/
def layoutOk (c : Nat) (s : State) : Bool :=
  let b := bCroft c
  let n := getF b F.GZ_ACC_SLOTS s
  let k := getF b F.LM_ACC_SLOTS s
  let l := (if 0 < n then [(getF b F.GZ_ACC_BASE s, 65792 * n)] else []) ++
    (if 0 < k then [(getF b F.LM_ACC_BASE s, 131328 * k)] else []) ++
    [(getF b F.FN_TABLE_BASE s, 131072), (getF b F.LK_RECALL_BASE s, 4096)] ++
    (if flag b F.SH_STAGE_EN s then [(getF b F.SH_STAGE_BASE s, 1048576)] else [])
  l.all (fun r => decide (r.1 + r.2 ≤ 0x300000)) && decide (l.Pairwise fun r q => r.1 + r.2 ≤ q.1 ∨ q.1 + q.2 ≤ r.1)

/-- A commit-class task of a committed step that has not started (03 R80). -/
def committedTask (c : Nat) (t : Task) (s : State) : Bool := t.phase == .queued && committedDesc c t.desc s

/-- Marks a unit's page fenced and counts it (14 R488, 18 R621). -/
def markFenced (u : Nat) (s : State) : State :=
  addF bRepair F.REP_FENCES 1 (if 2048 ≤ u then s else setF u F.BLK_FENCED 1 s)

/-- Takes one task from a croft that is fenced (03 R103): a registration it still holds is withdrawn first, a completed one
waits for the acknowledgement of its addition (12 R394, R400), and a commit-class task of a committed step goes on elsewhere
(03 R80). -/
def dropTask (c : Nat) (t : Task) (s : State) : State :=
  if t.phase == .leaving then s
  else if committedTask c t s then abandonTask c t s
  else
    endOfTask t.cmd 0x07 0 (abandonTask c t s)

/-- What the fence of a croft means for its partition (03 R97, R104): the step in progress repeats, and a commit-class task
that is cut off stops the commits. -/
def fenceFault (c : Nat) (s : State) : State :=
  let started := (croftOf c s).queue.any fun t => t.phase == .running && commitClass (dOpcode t.desc)
  match contextOf c s with
  | some p => stepRepeat p 0x01 (if started then stepFault p true 0x01 s else s)
  | none => s

/-- Takes a croft out of use: it starts nothing and holds no queued task (03 R103), its rail no longer ramps, and its larder is lost. -/
def stopCroft (c : Nat) (s : State) : State :=
  let b := bCroft c
  let s := { s with power := { s.power with ramps := s.power.ramps.filter fun r => r.spare != c } }
  let s := loseRange (plLarder c 0) (plLarder (c + 1) 0) s
  let s := setF b F.SEQ_STATUS_FENCED 1 (setF b F.SEQ_CTRL_STOP 1 s)
  let s := fenceFault c (setF b F.CP_STATUS_STATE 1 s)
  let s := (croftOf c s).queue.foldl (fun s t => dropTask c t s) s
  let gone := (croftOf c s).arriving
  gone.foldl (fun s a => if committedDesc c a.desc s then s else endOfTask a.cmd 0x07 0 s)
    (updCroft c (fun k => { k with arriving := [] }) s)

/-- Tasks of a committed step that the croft held, that are on their way to it, or that wait for its rail, and another croft must take
over (03 R80). -/
def toReissue (c : Nat) (s : State) : List (Desc × Nat) :=
  ((croftOf c s).queue.filter fun t => committedTask c t s).map (fun t => (t.desc, t.cmd)) ++
  ((croftOf c s).arriving.filter fun a => committedDesc c a.desc s).map (fun a => (a.desc, a.cmd)) ++
  ((s.power.ramps.filter fun r => r.spare == c).map Ramp.reissue).flatten

/-- PURGE_STEP of the uncommitted step on the other crofts of the partition (03 R105, step 2). -/
def purgeRun (p c : Nat) (s : State) : State :=
  match (partOf p s).run with
  | none => s
  | some r => (croftsOf p s).foldl (fun s k =>
      if k = c then s else purge k (fun t => decide (dStepTag t.desc = r.step % 2 ^ 16)) s) s

/-- Some task of a committed step is still to be released to an index (03 R80). -/
def relCommitted (p g : Nat) (s : State) : Bool :=
  (partOf p s).committed.any fun q =>
    (partOf p s).rel.any fun r => r.cmd == q.cmd && r.croft == g && commitClass (dOpcode r.desc)

/-- The tasks of the committed steps that have no croft any more leave the release order, and their STEP ends with VERDICT_STOP
(03 R80, 16 R540; log entry 24). -/
def dropCommitted (p : Nat) (s : State) : State :=
  (partOf p s).committed.foldl (fun s q =>
    endCmd q.cmd 0x0A 0 (updPart p (fun k => { k with rel := k.rel.filter fun r => decide (r.cmd ≠ q.cmd) }) s)) s

/-- No croft takes over tasks of a committed step: the partition stops its commits (03 R80). -/
def orphanCommit (p : Nat) (s : State) : State := dropCommitted p (stepFault p true 0x01 s)

/-- A free spare of a hamlet: its slot. -/
def freeSpare (h : Nat) (s : State) : Option Nat :=
  (36 :: 37 :: List.range 36).find? fun i => slotState h i s == 1 && !fenced (bCroft (physOf h i s)) s

/-- No croft takes over the index: the partition stops at the end of the step (03 R107). -/
def capacityLoss (p c g : Nat) (reissue : Bool) (s : State) : State :=
  let s := updPart p (fun k => { k with capLost := k.capLost ++ [g] }) s
  repairNote (bCroft c) 5 1 (if reissue || relCommitted p g s then orphanCommit p s else s)

/-- Maps the fenced croft's index to a free spare and starts the spare's ramp (03 R105, steps 4 and 5). -/
def substitute (c slot spare : Nat) (re : List (Desc × Nat)) (s : State) : State :=
  let h := c / 38
  let phys := physOf h spare s
  let s := setSlotState h spare 2 (setSlotState h slot 0 (exchangeSlots h slot spare s))
  let s := leaveRetention phys (keepMap h s)
  let ramp : Ramp := ⟨phys, c, 36 * h + slot, s.time + 50000, re⟩
  let s := { s with power := { s.power with ramps := s.power.ramps ++ [ramp] } }
  { s with reeve := { s.reeve with testing := s.reeve.testing ++ [bCroft c] } }

/-- The steward puts a free spare in the place of a fenced croft, at once when no partition holds the hamlet (03 R105, 00
R8). -/
def replaceCroft (c slot : Nat) (re : List (Desc × Nat)) (s : State) : State :=
  let h := c / 38
  match contextOf c s, freeSpare h s with
  | some p, some i => substitute c slot i re (purgeRun p c s)
  | some p, none => capacityLoss p c (36 * h + slot) (!re.isEmpty) (purgeRun p c s)
  | none, none => repairNote (bCroft c) 5 1 s
  | none, some i => keepMap h (setSlotState h i 2 (setSlotState h slot 0 (exchangeSlots h slot i s)))

/-- Fences a croft, with substitution when it carries an index (03 R103 to R107). -/
def fenceCroft (c : Nat) (s : State) : State :=
  if fenced (bCroft c) s then s
  else
    let h := c / 38
    let slot := slotOf c s
    let re := toReissue c s
    let s := stopCroft c (repairNote (bCroft c) 1 1 (markFenced (bCroft c) s))
    let s := keepMap h (setSlotState h slot 2 { s with reeve := { s.reeve with alone := s.reeve.alone ++ [c] } })
    refreshUnits (if slot < 36 then replaceCroft c slot re s else s)

/-! ### Hamlets, sets and dies -/

/-- A fault of the partition's memory or hamlet gives its step a repeat (10 R338, R339). -/
def repeatPart (p : Nat) (s : State) : State := stepFault p false 0x01 s

/-- Fences a hamlet: its stack answers with poison and its contents are lost, its crofts stop (01 R19, 10 R338, 14
R485). -/
def fenceHamlet (h : Nat) (s : State) : State :=
  if fenced (bHamlet h) s then s
  else
    let s := repairNote (bHamlet h) 1 1 (markFenced (bHamlet h) s)
    let s := setF (bHbm h) F.BLK_FENCED 1 (setF (bHbm h) F.HB_FENCED 1 (setF (bHbm h) F.HB_ONLINE 0 s))
    let s := loseRange (plTier1 (h * 2 ^ 36)) (plTier1 ((h + 1) * 2 ^ 36)) s
    let s := match ownerOf (bHamlet h) s with
      | some p => repeatPart p s
      | none => s
    let orphans := ((rangeFrom (38 * h) 38).any fun c => !(toReissue c s).isEmpty) ||
      (match ownerOf (bHamlet h) s with
       | some p => (rangeFrom (36 * h) 36).any fun g => relCommitted p g s
       | none => false)
    let s := match ownerOf (bHamlet h) s with
      | some p => if orphans then orphanCommit p s else s
      | none => s
    let s := (rangeFrom (38 * h) 38).foldl (fun s c =>
      if unitRetired (bCroft c) s then s else setF (bCroft c) F.BLK_FENCED 1 (stopCroft c s)) s
    refreshUnits (keepMap h ((List.range 38).foldl (fun s i =>
      if slotState h i s = 3 then s else setSlotState h i 2 s) s))

/-- Partitions that hold a range of a tier's set (10 R339). -/
def holdersOfSet (t : ISet) (s : State) : List Nat :=
  (List.range 8).filter fun p => (partOf p s).ranges.any fun r =>
    decide (r.1 * 2 ^ 30 < t.base + t.size ∧ t.base < (r.1 + r.2) * 2 ^ 30)

/-- Block of a channel or port by tier. -/
def chanBlock (tier n : Nat) : Nat := if tier = 2 then bDdr n else bCxl n

/-- A channel or port has trained or linked. -/
def trained (tier c : Nat) (s : State) : Bool := s.memsys.trained.any fun b => b == chanBlock tier c

/-- A channel can be in the map: present, trained and not fenced. -/
def usable (tier c : Nat) (s : State) : Bool := trained tier c s && !flag (chanBlock tier c) F.MC_FENCED s

/-- A set of the map serves requests: none of its channels has failed or is fenced (10 R339). -/
def setUp (s : State) (t : ISet) : Bool := t.chans.all fun c => usable t.tier c s

/-- The interleave set in the map that holds a channel or port. -/
def setWith (tier n : Nat) (s : State) : Option ISet :=
  s.memsys.sets.find? fun t => t.tier == tier && t.chans.any fun c => c == n

/-- ONLINE of a channel or port: trained or linked, and in the map with its whole set (10 R339, R343). -/
def showOnline (tier c : Nat) (s : State) : State :=
  setF (chanBlock tier c) F.MC_ONLINE (bitOf (usable tier c s && ((setWith tier c s).filter (setUp s)).isSome)) s

/-- What the pages of the map, the channels and the ports show of the sets that serve requests (10 R343). -/
def refreshMap (s : State) : State :=
  let up (tier : Nat) : List ISet := s.memsys.sets.filter fun t => t.tier == tier && setUp s t
  let mask (tier : Nat) : Nat := (up tier).foldl (fun n t => n + 2 ^ t.num) 0
  let gib (tier : Nat) : Nat := (up tier).foldl (fun n t => n + t.size / 2 ^ 30) 0
  let s := (List.range 4).foldl (fun s x => showOnline 3 x s) ((List.range 12).foldl (fun s c => showOnline 2 c s) s)
  setF bMemMap F.MAP_T2_GIB (gib 2) (setF bMemMap F.MAP_T3_GIB (gib 3)
    (setF bMemMap F.MAP_T2_SETS_ONLINE (mask 2) (setF bMemMap F.MAP_T3_SETS_ONLINE (mask 3) s)))

/-- Controller code of a channel or port by tier. -/
def chanCtrl (tier n : Nat) : Nat := if tier = 2 then 1024 + n else 1036 + n

/-- A channel or port has not trained, or is out of service. -/
def untrain (tier n : Nat) (s : State) : State :=
  { s with memsys := { s.memsys with trained := s.memsys.trained.filter fun b => b != chanBlock tier n } }

/-- A channel or port goes out of service and takes its set offline: the set's outstanding requests are answered with poison, and
the step of every partition that holds a range of it repeats (10 R339). -/
def failChannel (tier n : Nat) (s : State) : State :=
  let b := chanBlock tier n
  let s := untrain tier n (setF b F.BLK_FENCED 1 (setF b F.MC_FENCED 1 (setF b F.MC_ONLINE 0 s)))
  let s := match setWith tier n s with
    | some t => (holdersOfSet t s).foldl (fun s p => repeatPart p s) (t.chans.foldl (fun s c => poisonQueue (chanCtrl tier c) s) s)
    | none => poisonQueue (chanCtrl tier n) s
  refreshMap s

end Sys2Proof.Machine
end

