-- ==== Sys2Proof/Machine/Steward.lean ====
section
/-!
DEFINITION. The steward's part in steps (16 R540; 13 R452 to R455; 12 R403, R404; 03 R79, R80, R97, R107): what it does
with a verdict, when it may write READY, and REPEAT_REISSUE.
-/
namespace Sys2Proof.Machine

/-- Epoch of a step and attempt (12 R404). -/
def epochOf (step attempt : Nat) : Nat := step % 2 ^ 24 * 256 + attempt % 256

/-- LAST_COMMITTED of a partition (16 R569). -/
def lastCommitted (p : Nat) (s : State) : Nat := getPair (bFunction (p + 1)) F.FP_LAST_COMMITTED_LO F.FP_LAST_COMMITTED_HI s

/-- A PARTITION event with the partition and a state (16 R546; subtypes: log entry 11). -/
def partitionEvent (p subtype : Nat) (sc : Scope) (s : State) : State := raise bSteward 0x0C subtype sc false p s

/-- The steward stops the partition's commits and writes an event record (13 R455). -/
def haltCommits (p : Nat) (s : State) : State :=
  partitionEvent p 3 (.part p) (updPart p (fun k => { k with stopCommits := true }) s)

/-- Stops the partition's commits, if they go on (03 R97). -/
def stopCommits (p : Nat) (s : State) : State := if (partOf p s).stopCommits then s else haltCommits p s

/-- The tasks of a step in the release order that a repeat withholds (12 R403, step 1). -/
def withholdRel (p cmd : Nat) (s : State) : State :=
  updPart p (fun k => { k with rel := k.rel.filter fun r => decide (r.cmd ≠ cmd) }) s

/-- Tasks of a command that are in the release order, on the fabric, in a queue or waiting for a spare's rail, and that a test selects. -/
def tasksLeft (p cmd : Nat) (sel : Desc → Bool) (s : State) : Bool :=
  ((partOf p s).rel.any fun r => r.cmd == cmd && sel r.desc) ||
  (s.power.ramps.any fun r => contextOf r.spare s == some p && r.reissue.any fun e => e.2 == cmd && sel e.1) ||
  (croftsOf p s).any fun c =>
    ((croftOf c s).arriving.any fun a => a.cmd == cmd && sel a.desc) ||
    ((croftOf c s).queue.any fun t => t.cmd == cmd && sel t.desc)

/-- The commit verdict of the step in progress (16 R540, 13 R455): COMMITTED_STEP opens the gate on every croft,
LAST_COMMITTED is the step, and the STEP waits for its commit-class tasks. -/
def commitVerdict (p : Nat) (r : StepRun) (s : State) : State :=
  let s := (activeCrofts p s).foldl (fun s c => setF (bCroft c) F.COMMITTED_STEP r.step s) s
  let s := setPair (bFunction (p + 1)) F.FP_LAST_COMMITTED_LO F.FP_LAST_COMMITTED_HI r.step s
  let old := (partOf p s).committed.filter fun q => tasksLeft p q.cmd (fun d => commitClass (dOpcode d)) s
  let s := updPart p (fun k => { k with run := none, committed := old ++ [r], begun := false, repeatDue := none }) s
  mapCmds (fun k => if k.uid = r.cmd ∧ k.phase = .running ∧ k.left = 0 then { k with phase := .done } else k) s

/-- A commit verdict that reaches a partition whose commits have stopped (03 R97; log entry 24): the step has the verdict, but no
commit-class task of it starts here, and the STEP ends with VERDICT_STOP. -/
def heldCommit (p : Nat) (r : StepRun) (s : State) : State :=
  let s := setPair (bFunction (p + 1)) F.FP_LAST_COMMITTED_LO F.FP_LAST_COMMITTED_HI r.step s
  endCmd r.cmd 0x0A 0 (updPart p (fun k => { k with run := none, repeatDue := none }) (withholdRel p r.cmd s))

/-- Some task names an index without a croft (03 R107). -/
def usesLost (p : Nat) (l : List Rel) (s : State) : Bool := l.any fun r => (partOf p s).capLost.any fun g => g == r.croft

/-- A commit verdict of the step in progress. -/
def commitStep (p : Nat) (r : StepRun) (s : State) : State :=
  if (partOf p s).stopCommits then heldCommit p r s else commitVerdict p r s

/-- PURGE_STEP of a step on every croft of its partition, what is on its way to them included (12 R403). -/
def purgeAllOf (p step : Nat) (s : State) : State :=
  (croftsOf p s).foldl (fun s c =>
    purge c (fun t => decide (dStepTag t.desc = step % 2 ^ 16))
      (purgeArriving c (fun d => decide (dStepTag d = step % 2 ^ 16)) s)) s

/-- A task graph that uses an index without a croft is not reissued: the partition stops here, and its STEP ends with RESOURCE (03
R107; log entry 48). -/
def endLost (p : Nat) (r : StepRun) (s : State) : State :=
  endCmd r.cmd 0x05 0 (updPart p (fun k => { k with run := none, repeatDue := none }) s)

/-- A repeat verdict: PURGE_STEP on every croft, the rest of the release order withheld, a new attempt (12 R403). -/
def repeatStep (p : Nat) (r : StepRun) (s : State) : State :=
  let s := withholdRel p r.cmd (purgeAllOf p r.step s)
  if usesLost p r.tasks s then endLost p r s
  else
    updPart p (fun k => { k with run := some { r with attempt := r.attempt + 1, reissue := true }, repeatDue := none }) s

/-- A stop verdict: commits stop and the STEP ends with VERDICT_STOP (13 R455, 16 R540). -/
def stopStep (p : Nat) (r : StepRun) (s : State) : State :=
  endCmd r.cmd 0x0A 0 (haltCommits p (updPart p (fun k => { k with run := none, repeatDue := none }) (withholdRel p r.cmd s)))

/-- The steward acts on a verdict of an epoch: kind 1 = commit, 2 = repeat, 3 = stop (13 R455). An epoch accepted as a successor is a
later attempt of the step in progress (13 R446). -/
def stewardVerdict (p step attempt kind : Nat) (s : State) : State :=
  match (partOf p s).run with
  | some r =>
    if r.step = step ∧ r.attempt ≤ attempt then
      let r := { r with attempt := attempt }
      (if kind = 1 then commitStep p r s else if kind = 2 then repeatStep p r s else stopStep p r s)
    else if kind = 3 then haltCommits p s else s
  | none => if kind = 3 then haltCommits p s else s

/-- The steward may write READY for the step in progress: every task that is not commit-class has completed without a
fault (13 R453), and so has every PARITY task of the step before (14 R473). -/
def mayReady (p : Nat) (s : State) : Bool :=
  match (partOf p s).run with
  | none => false
  | some r =>
    !r.reissue && (partOf p s).repeatDue.isNone && !(partOf p s).stopCommits && !expectsOpen p s &&
    !tasksLeft p r.cmd (fun d => !commitClass (dOpcode d)) s &&
    (partOf p s).committed.all fun q => !tasksLeft p q.cmd (fun d => dOpcode d == opParity) s

/-- A committed step still has commit-class tasks to complete (03 R80). -/
def commitWork (p : Nat) (s : State) : Bool :=
  (partOf p s).committed.any fun q => tasksLeft p q.cmd (fun d => commitClass (dOpcode d)) s

/-- Sends the expects of a step with the epoch of its attempt (12 R404, 16 R540). -/
def sendExpects (p : Nat) (r : StepRun) (s : State) : State :=
  r.expects.foldl (fun s e => sendTally p e.1 (.expect e.2 (epochOf r.step r.attempt)) .control s) s

/-- Sets every accumulator slot of a croft free (04 R133, 05 R168). -/
def clearSlots (c : Nat) (s : State) : State := releaseSlots c (lmSlots c s) (releaseSlots c (gzSlots c s) s)

/-- REPEAT_REISSUE (12 R403, steps 3 to 5): with every croft of the partition empty, and every commit-class task of the
preceding step completed, the control core clears the
accumulators, reopens the tallies of the step and gives the dispatch core its release order again; data lost meanwhile still keep
the new attempt from committing (13 R415). A task graph that has lost an index meanwhile is not reissued (03 R107). -/
def execRepeatReissue (p : PartId) (s : State) : Host.Outcome State Fault Refusal :=
  .next (match (partOf p.val s).run with
    | none => s
    | some r =>
      if r.reissue && queuesEmpty p.val s && !commitWork p.val s then
        let r := { r with reissue := false }
        let s := (croftsOf p.val s).foldl (fun s c => clearSlots c s) s
        if usesLost p.val r.tasks s then endLost p.val r s
        else updPart p.val (fun k => { k with run := some r, rel := k.rel ++ r.tasks }) (sendExpects p.val r s)
      else s)

end Sys2Proof.Machine
end

