-- ==== Sys2Proof/Machine/Links.lean ====
section
/-!
DEFINITION. Verar lanes and packets (13 R410 to R431): flits with replay and credits, lanes entering and leaving
service, packets, routes, forwarding and sending; and the commands of the lane family. A packet is its bytes: the
32-byte head and its data.
-/
namespace Sys2Proof.Machine

/-! ### Packets (13 R421, R422) -/

/-- CRC-32C as a number (13 R417). -/
def crcOf (l : List Byte) : Nat := (crc32c l).toNat

/-- A packet: head and data. -/
abbrev Packet := List Byte

def pkKind (k : Packet) : Nat := leAt k 0 1
def pkCursor (k : Packet) : Nat := bits 0 3 (leAt k 1 1)
def pkHops (k : Packet) : Nat := bits 3 2 (leAt k 1 1) + 1
def pkRoute (k : Packet) (i : Nat) : Nat := bits (4 * i) 4 (leAt k 2 2)
def pkSrc (k : Packet) : Nat := bits 0 13 (leAt k 4 2)
def pkDst (k : Packet) : Nat := bits 0 13 (leAt k 6 2)
def pkJob (k : Packet) : Nat := leAt k 8 2
def pkStream (k : Packet) : Nat := leAt k 10 2
def pkLength (k : Packet) : Nat := leAt k 12 4
def pkEpoch (k : Packet) : Nat := leAt k 16 4
def pkArg0 (k : Packet) : Nat := leAt k 20 4
def pkArg1 (k : Packet) : Nat := leAt k 24 4
def pkPcrc (k : Packet) : Nat := leAt k 28 4
def pkData (k : Packet) : List Byte := k.drop 32

/-- A packet of a job. -/
def mkPacket (kind hops route src dst job stream epoch arg0 arg1 : Nat) (data : List Byte) : Packet :=
  [BitVec.ofNat 8 kind, BitVec.ofNat 8 (1 + (hops - 1) % 4 * 8)] ++ bytesOf 2 route ++ bytesOf 2 (src % 2 ^ 13) ++
  bytesOf 2 (dst % 2 ^ 13) ++ bytesOf 2 job ++ bytesOf 2 stream ++ bytesOf 4 data.length ++ bytesOf 4 epoch ++
  bytesOf 4 arg0 ++ bytesOf 4 arg1 ++ bytesOf 4 (if data.isEmpty then 0 else crcOf data) ++ data

/-- Channel of a packet kind (13 R422). -/
def vcOf (kind : Nat) : Nat :=
  match kind with
  | 0x01 => 1 | 0x03 | 0x0B => 2 | 0x08 | 0x0A => 3 | _ => 0

/-! ### Flits (13 R416) -/

/-- The bytes of a flit with its CRC. -/
def flitBytes (type seq ack ackValid credit len : Nat) (payload : List Byte) : List Byte :=
  let body := [BitVec.ofNat 8 type, BitVec.ofNat 8 seq, BitVec.ofNat 8 ack, BitVec.ofNat 8 ackValid] ++
    bytesOf 2 credit ++ bytesOf 2 len ++ [0, 0, 0, 0] ++ payload ++ List.replicate (240 - payload.length) 0
  body ++ bytesOf 4 (crcOf body)

/-- The word of 256 bytes. -/
def toFlit (l : List Byte) : Flit := BitVec.ofNat 2048 (natOf l)

def fByte (o n : Nat) (f : Flit) : Nat := bits (8 * o) (8 * n) f.toNat
def fKind (f : Flit) : Nat := bits 0 3 (fByte 0 1 f)
def fHead (f : Flit) : Bool := bit 3 (fByte 0 1 f)
def fTail (f : Flit) : Bool := bit 4 (fByte 0 1 f)
def fVc (f : Flit) : Nat := bits 5 2 (fByte 0 1 f)
def fSeq (f : Flit) : Nat := fByte 1 1 f
def fAck (f : Flit) : Nat := fByte 2 1 f
def fAckValid (f : Flit) : Bool := bit 0 (fByte 3 1 f)
def fCredit (f : Flit) : Nat × Nat := (bits 0 2 (fByte 4 2 f), bits 2 7 (fByte 4 2 f))
def fLen (f : Flit) : Nat := fByte 6 2 f
def fPayload (f : Flit) : List Byte := bytesOf (min 240 (fLen f)) (fByte 12 240 f)
/-- The CRC of a flit is correct (13 R416, R417). -/
def fCrcOk (f : Flit) : Bool := fByte 0xFC 4 f == crcOf (bytesOf 0xFC f.toNat)

/-- A field with bit `p` cleared. -/
def clearBit (p n : Nat) : Nat := if bit p n then n - 2 ^ p else n

/-! ### Lanes -/

def laneOf (l : Nat) (s : State) : Lane := mapGet (fun _ => Lane.reset) s.mill.lanes l
def setLane (l : Nat) (x : Lane) (s : State) : State :=
  { s with mill := { s.mill with lanes := mapPut (fun _ => Lane.reset) l x s.mill.lanes } }
def updLane (l : Nat) (f : Lane → Lane) (s : State) : State := setLane l (f (laneOf l s)) s

/-- Sends a flit on a lane. -/
def wire (l : Nat) (bytes : List Byte) (s : State) : State :=
  { s with mill := { s.mill with wire := s.mill.wire ++ [(l, toFlit bytes)] } }

/-- The credits a lane returns in its next flit: the first channel that owes any (13 R416). -/
def creditWord (x : Lane) : Nat × List Nat :=
  match x.owed.findIdx? fun n => decide (0 < n) with
  | none => (0, x.owed)
  | some v => (v + min 127 (nth x.owed v) * 4, setAt x.owed v (nth x.owed v - min 127 (nth x.owed v)))

/-- A flit leaves a lane carrying ACK and credits (13 R418). -/
def emit (l type seq len : Nat) (payload : List Byte) (s : State) : State :=
  let x := laneOf l s
  let (cr, owed) := creditWord x
  wire l (flitBytes type seq x.rxSeq 1 cr len payload)
    (setLane l { x with owed := owed, unacked := 0, lastSent := s.time } s)

/-- TYPE byte of a DATA flit. -/
def dataType (f : TxFlit) : Nat := 1 + bitOf f.head * 8 + bitOf f.tail * 16 + f.vc * 32

/-- The flit a lane sends next: the first packet of the lowest channel that has a flit, a credit and room in the replay
buffer (13 R418, R419; order among channels: log entry 17). -/
def nextTx (x : Lane) : Option (TxPkt × TxFlit) :=
  if x.up && decide (x.window.length < 64) then
    ([0, 1, 2, 3] : List Nat).findSome? fun v =>
      match x.out.find? fun p => p.vc == v with
      | some p =>
        match p.flits with
        | f :: _ => if 0 < nth x.credits v then some (p, f) else none
        | [] => none
      | none => none
  else none

/-- A lane owes its peer the credit of a flit that has left the lane's buffer (13 R419). -/
def oweCredit (l vc : Nat) (s : State) : State := updLane l (fun x => { x with owed := setAt x.owed vc (nth x.owed vc + 1) }) s

/-- A flit has left the buffer of the lane on which it came in. -/
def freeBuffer (f : TxFlit) (s : State) : State :=
  match f.came with
  | some m => oweCredit m f.vc s
  | none => s

/-- Sends every flit that a lane may send. -/
def pump (l : Nat) : Nat → State → State
  | 0, s => s
  | fuel + 1, s =>
    let x := laneOf l s
    match nextTx x with
    | none => s
    | some (p, f) =>
      let f := { f with seq := x.txSeq, sent := s.time }
      let out := x.out.filterMap fun q =>
        if q.id = p.id then (if f.tail then none else some { q with flits := q.flits.drop 1 }) else some q
      let x := { x with
        txSeq := (x.txSeq + 1) % 256
        window := x.window ++ [f]
        out := out
        credits := setAt x.credits f.vc (nth x.credits f.vc - 1) }
      let s := addUnits (bPort (l / 4)) F.VP_FLITS_TX 1 (freeBuffer f (setLane l x s))
      pump l fuel (emit l (dataType f) f.seq f.payload.length f.payload s)
def pumpLane (l : Nat) (s : State) : State := pump l 512 s

/-- Lanes of a port in service, ascending. -/
def lanesUp (v : Nat) (s : State) : List Nat := (rangeFrom (4 * v) 4).filter fun l => (laneOf l s).up

def portUp (v : Nat) (s : State) : Bool := !(lanesUp v s).isEmpty

/-- Records the peer that the port's lowest lane in service names (13 R413). -/
def recordPeer (v : Nat) (s : State) : State :=
  match (lanesUp v s).head?.bind fun l => (laneOf l s).peer with
  | some (dev, port, job) =>
    setF (bPort v) F.VP_PEER_JOB job (setF (bPort v) F.VP_PEER_PORT port (setF (bPort v) F.VP_PEER_DEVICE dev s))
  | none => s

/-- LANES_UP, UP and the peer of a port. -/
def refreshPort (v : Nat) (s : State) : State :=
  let up := lanesUp v s
  recordPeer v (setF (bPort v) F.VP_UP (bitOf (!up.isEmpty))
    (setF (bPort v) F.VP_LANES_UP (up.foldl (fun n l => n + 2 ^ (l % 4)) 0) s))

/-- Lane that carries a stream out of a port (13 R412). -/
def laneFor (v stream : Nat) (s : State) : Option Nat :=
  let up := lanesUp v s
  up[stream % max 1 up.length]?

/-- The flits of a packet (13 R421). -/
def flitsOf (id vc : Nat) (k : Packet) : List TxFlit :=
  let l := chunksOf 240 (k.length / 240 + 1) k
  ((List.range l.length).zip l).map fun e =>
    ⟨id, vc, e.1 == 0, e.1 + 1 == l.length, e.2, 0, 0, none⟩

/-- Queues a packet on a port; none when the port is down. -/
def txPacket (v : Nat) (k : Packet) (s : State) : Option (Nat × State) :=
  (laneFor v (pkStream k) s).map fun l =>
    let id := s.mill.nextPkt + 1
    let vc := vcOf (pkKind k)
    let s := { s with mill := { s.mill with nextPkt := id } }
    (id, pumpLane l (updLane l (fun x => { x with out := x.out ++ [⟨id, vc, flitsOf id vc k⟩] }) s))

/-! ### Jobs -/

def jobOf (p : Nat) (s : State) : Job := mapGet (fun _ => Job.reset) s.mill.jobs p
def setJob (p : Nat) (j : Job) (s : State) : State :=
  { s with mill := { s.mill with jobs := mapPut (fun _ => Job.reset) p j s.mill.jobs } }
def updJob (p : Nat) (f : Job → Job) (s : State) : State := setJob p (f (jobOf p s)) s

def mlF (f : Field) (p : Nat) (s : State) : Nat := getF bMill (f.at p) s
def setMl (f : Field) (p v : Nat) (s : State) : State := setF bMill (f.at p) v s
def jobEnabled (p : Nat) (s : State) : Bool := mlF F.ML_JOB_ENABLE p s == 1
def myDevice (p : Nat) (s : State) : Nat := mlF F.ML_JOB_DEVICE_ID p s

/-- The route entry of a destination: routes A and B when VALID (13 R427). -/
def routesTo (p dst : Nat) (s : State) : Option Nat × Option Nat :=
  let e := mapGet (fun _ => 0) (jobOf p s).routes dst
  let pick (r : Nat) : Option Nat := if bit 18 r then some r else none
  (pick (e % 2 ^ 32), pick (e / 2 ^ 32))

/-- A route can carry a packet: its first port is up. -/
def routeUp (r : Option Nat) (s : State) : Option Nat := r.filter fun w => portUp (bits 0 4 w) s

/-- Where a packet left: not at all, to this device itself, on route A or B. -/
inductive Sent where
  | no | self | onA | onB
deriving DecidableEq, Repr

/-- A fault event of the mill: a packet of its own that finds no usable route or is discarded (01 R31; 13 R415, R427), a table it refuses
(13 R428, R432; 14 R465). The payload is its FAULT_CODE and FAULT_INFO (16 R659), which no chapter defines (18 R609). -/
def millFault (p : Nat) (s : State) : State :=
  raise bMill 0x04 0 (.part p) false (getF bMill F.BLK_FAULT_CODE s + getF bMill F.BLK_FAULT_INFO s * 2 ^ 32) s

/-- Sends a packet of a job to a device, on its preferred route or the other (13 R423, R427, R428). `owner` is the task
that issued it, if one did; without a usable route the task is to fault, and a packet of the mill's own is reported. -/
def sendPacket (p kind dst epoch arg0 arg1 stream : Nat) (data : List Byte) (preferB : Bool) (owner : Option (Nat × Nat))
    (s : State) : Sent × State :=
  if !jobEnabled p s then (.no, s)
  else
    let me := myDevice p s
    let job := mlF F.ML_JOB_JOB_ID p s
    if dst = me then
      (.self, { s with mill := { s.mill with
        inbox := s.mill.inbox ++ [⟨p, mkPacket kind 1 0 me dst job stream epoch arg0 arg1 data, none⟩] } })
    else
      let (a, b) := routesTo p dst s
      let ra := (routeUp a s).map fun r => (Sent.onA, r)
      let rb := (routeUp b s).map fun r => (Sent.onB, r)
      match if preferB then rb.orElse (fun _ => ra) else ra.orElse (fun _ => rb) with
      | none => (.no, if owner.isNone then millFault p s else s)
      | some (w, r) =>
        match txPacket (bits 0 4 r) (mkPacket kind (bits 16 2 r + 1) (bits 0 16 r) me dst job stream epoch arg0 arg1 data) s with
        | none => (.no, s)
        | some (id, s) =>
          let o : PktOwner := match owner with | some (c, u) => ⟨id, c, u⟩ | none => ⟨id, 608 + p, 0⟩
          (w, { s with mill := { s.mill with owners := s.mill.owners ++ [o] } })

/-! ### Peer accesses (13 R429, R430) -/

/-- Sends an MWRITE or MREAD of a task; none = no route is usable. -/
def sendPeer (p croft uid piece stream : Nat) (fold : Bool) (addr len : Nat) (data : Option (List Byte)) (s : State) :
    Option State :=
  let j := jobOf p s
  let tag := if fold then 2 ^ 15 else j.nextTag % 2 ^ 15
  let kind := if data.isSome then 8 else 10
  let dst := bits 39 13 addr
  let off := bits 0 39 addr
  let s := setJob p { j with
    nextTag := j.nextTag + (if fold then 0 else 1)
    accs := j.accs ++ [⟨kind, fold, dst, off, tag, len, croft, uid, piece, s.time⟩] } s
  match sendPacket p kind dst 0 (off % 2 ^ 32) (off / 2 ^ 32 + tag * 2 ^ 8) stream (data.getD (bytesOf 4 len)) false
    (some (croft, uid)) s with
  | (.no, _) => none
  | (_, s) => some s

/-! ### Lanes leaving service (13 R415) -/

/-- A LINK event: port or bucket and devices (16 R546; subtypes and payload: log entry 11). -/
def linkEvent (b subtype : Nat) (sc : Scope) (a x y : Nat) (s : State) : State :=
  raise b 0x07 subtype sc false (a % 2 ^ 32 + x % 2 ^ 16 * 2 ^ 32 + y % 2 ^ 16 * 2 ^ 48) s

/-- Reports a discarded packet that this device issued: its task faults, or the mill reports it (01 R31, 13 R415). -/
def loseOwner (id : Nat) (s : State) : State :=
  match s.mill.owners.find? fun o => o.id == id with
  | none => s
  | some o =>
    let s := { s with mill := { s.mill with owners := s.mill.owners.filter fun x => x.id != id } }
    if o.croft < 608 then failTask o.croft o.uid ⟨0x0C, 0, 0, 0, 0, []⟩ s else millFault (o.croft - 608) s

/-- Removes a truncated packet from the lane it was being forwarded to; its flits leave the buffer they came into. -/
def cutForward (x : RxTo) (s : State) : State :=
  match x with
  | .forward l id =>
    let gone := ((laneOf l s).out.filter fun q => q.id == id).map fun q => q.flits
    gone.flatten.foldl (fun s f => freeBuffer f s) (updLane l (fun y => { y with out := y.out.filter fun q => q.id != id }) s)
  | _ => s

/-- A packet has been received in part, for the mill or for another port. -/
def RxTo.partly : RxTo → Bool
  | .mill _ | .forward _ _ => true
  | _ => false

/-- A lane leaves service: packets with a flit unacknowledged or unsent on it are discarded, and those received in
part. -/
def laneDown (l : Nat) (s : State) : State :=
  let x := laneOf l s
  if !x.up then setLane l { Lane.reset with aligned := x.aligned, lostAt := x.lostAt } s
  else
    let ids := ((x.window.map fun f => f.pkt) ++ (x.out.map fun p => p.id)).eraseDups
    let lost := ids.length + (x.rx.filter RxTo.partly).length
    let s := (x.out.map fun q => q.flits).flatten.foldl (fun s f => freeBuffer f s) s
    let s := x.rx.foldl (fun s r => cutForward r s) (setLane l Lane.reset s)
    let s := addF (bPort (l / 4)) F.VP_LANE_LOSSES 1 (refreshPort (l / 4) s)
    let s := addF bMill F.ML_LOST_PACKETS lost (ids.foldl (fun s i => loseOwner i s) s)
    match ownerOf (bPort (l / 4)) s with
    | some p => lossRepeat p s
    | none => s

/-! ### Receiving -/

/-- A packet whose last flit is acknowledged can no longer be discarded here. -/
def forgetPackets (done : List TxFlit) (s : State) : State :=
  { s with mill := { s.mill with owners := s.mill.owners.filter fun o => !(done.any fun t => t.tail && t.pkt == o.id) } }

/-- An ACK covers every flit before the SEQ it names. -/
def takeAck (l : Nat) (f : Flit) (s : State) : State :=
  if fAckValid f then
    let x := laneOf l s
    let open_ (t : TxFlit) : Bool := decide ((t.seq + 256 - fAck f) % 256 < 128)
    forgetPackets (x.window.filter fun t => !open_ t) (setLane l { x with window := x.window.filter open_ } s)
  else s

/-- Credits returned by the peer. -/
def takeCredit (l : Nat) (f : Flit) (s : State) : State :=
  let (v, n) := fCredit f
  updLane l (fun x => { x with credits := setAt x.credits v (min 32 (nth x.credits v + n)) }) s

/-- ACK and credits of a flit, and what they let the lane send. -/
def takeBack (l : Nat) (f : Flit) (s : State) : State := pumpLane l (takeCredit l f (takeAck l f s))

/-- Starts a replay from the oldest unacknowledged flit on (13 R418), unless the lane replays too often (R415). -/
def replay (l : Nat) (s : State) : State :=
  let x := laneOf l s
  if x.window.isEmpty then s
  else
    let recent := (x.replays.filter fun t => decide (s.time < t + 1000000)) ++ [s.time]
    let s := addF (bPort (l / 4)) F.VP_REPLAYS 1
      (setLane l { x with replays := recent, window := x.window.map fun f => { f with sent := s.time } } s)
    if getF (bPort (l / 4)) F.VP_REPLAY_LIMIT s < recent.length then laneDown l s
    else x.window.foldl (fun s f => emit l (dataType f) f.seq f.payload.length f.payload s) s

/-- Where a packet that begins on a lane goes (13 R423, R424): one whose CURSOR equals HOPS goes to the mill, whoever owns the
port (R425). -/
def headOf (l vc : Nat) (payload : List Byte) (s : State) : RxTo × State :=
  let v := l / 4
  let dropIt : RxTo × State := (.drop, addF (bPort v) F.VP_DISCARDED 1 s)
  if payload.length < 32 ∨ pkCursor payload = 0 ∨ pkHops payload < pkCursor payload then dropIt
  else if pkCursor payload = pkHops payload then (.mill [], s)
  else match ownerOf (bPort v) s with
    | none => dropIt
    | some p =>
      let o := pkRoute payload (pkCursor payload)
      if ownerOf (bPort o) s = some p ∧ pkJob payload = mlF F.ML_JOB_JOB_ID p s then
        match laneFor o (pkStream payload) s with
        | none => dropIt
        | some m =>
          let id := s.mill.nextPkt + 1
          let s := { s with mill := { s.mill with nextPkt := id } }
          (.forward m id, addF (bPort o) F.VP_FORWARDED 1 (updLane m (fun y => { y with out := y.out ++ [⟨id, vc, []⟩] }) s))
      else dropIt

/-- The head's payload as it is forwarded: CURSOR plus 1 (13 R423). -/
def bumpCursor (payload : List Byte) : List Byte :=
  setAt payload 1 (BitVec.ofNat 8 (leAt payload 1 1 - bits 0 3 (leAt payload 1 1) + (bits 0 3 (leAt payload 1 1) + 1) % 8))

/-- An accepted DATA flit reaches where its packet goes; its buffer is free at once, unless it waits to be forwarded (13 R419). -/
def acceptFlit (l : Nat) (f : Flit) (s : State) : State :=
  let vc := fVc f
  let cur := ((laneOf l s).rx[vc]?).getD .idle
  let (to_, s) := if fHead f then headOf l vc (fPayload f) (cutForward cur s) else (cur, s)
  let part := (ownerOf (bPort (l / 4)) s).getD 8
  let held := match to_ with | .forward m id => (laneOf m s).out.any fun q => q.id == id | _ => false
  let (next, s) : RxTo × State := match to_ with
    | .mill bytes =>
      let bytes := bytes ++ fPayload f
      if fTail f then (.idle, { s with mill := { s.mill with inbox := s.mill.inbox ++ [⟨part, bytes, some (l / 4)⟩] } })
      else (.mill bytes, s)
    | .forward m id =>
      let t : TxFlit := ⟨id, vc, fHead f, fTail f, if fHead f then bumpCursor (fPayload f) else fPayload f, 0, 0,
        some l⟩
      let s := pumpLane m (updLane m (fun y => { y with out := y.out.map fun q =>
        if q.id = id then { q with flits := q.flits ++ [t] } else q }) s)
      (if fTail f then .idle else to_, s)
    | .drop => (if fTail f then .idle else .drop, s)
    | .idle => (.idle, s)
  let s := updLane l (fun x => { x with rx := setAt x.rx vc next }) s
  if held then s else oweCredit l vc s

/-- A received flit whose CRC fails is discarded and counted. -/
def crcBad (l : Nat) (s : State) : State := addF (bPort (l / 4)) F.VP_CRC_ERRORS 1 s

/-- The first discard since the last accepted flit asks for a replay (13 R418). -/
def askReplay (l : Nat) (s : State) : State :=
  if (laneOf l s).asked then s
  else emit l 2 0 0 [] (updLane l (fun x => { x with asked := true }) s)

/-! ### Meanings -/

def laneNum (v : PortId) (l : LaneId) : Nat := 4 * v.val + l.val

/-- The lane may enter service (13 R459, 14 R485). -/
def laneAllowed (l : Nat) (s : State) : Bool :=
  let b := bPort (l / 4)
  flag b F.VP_ENABLE s && bit (l % 4) (getF b F.VP_LANE_EN s) && !flag b F.VP_FENCED s &&
  !(s.mill.fencedLanes.any fun x => x == l) &&
  !unitRetired (uLane (l / 4) (l % 4)) s && !(s.reeve.testing.any fun u => u == uLane (l / 4) (l % 4))

/-- FEC_ALIGNMENT_GAINED (13 R413): the lane sends HELLO. -/
def execFecAlignmentGained (v : PortId) (l : LaneId) (s : State) : Host.Outcome State Fault Refusal :=
  let n := laneNum v l
  .next (if laneAllowed n s ∧ (laneOf n s).aligned = false then
    let p := ownerOf (bPort v.val) s
    let dev := match p with | some p => myDevice p s | none => 0
    let job := match p with | some p => mlF F.ML_JOB_JOB_ID p s | none => 0
    wire n (flitBytes 3 0 0 0 0 16 (bytesOf 2 dev ++ bytesOf 2 v.val ++ bytesOf 2 l.val ++ bytesOf 2 job))
      (setLane n { laneOf n s with aligned := true, lostAt := none } s)
  else s)

/-- The codewords that a lane's FEC decoder corrected or could not correct (13 R459; log entry 64). -/
def countFec (v : Nat) (f : RxFlit) (s : State) : State :=
  addF (bPort v) F.VP_FEC_UNCORRECTABLE f.uncorrectable.toNat (addF (bPort v) F.VP_FEC_CORRECTED f.corrected.toNat s)

/-- HELLO (13 R413, R415): the lane enters service, stays out when it names another peer than the port's other lanes, or
leaves when its peer names another device. `rtt` is the round trip measured on the lane in ns (R414). -/
def execHello (v : PortId) (l : LaneId) (f : RxFlit) (rtt : BitVec 16) (s : State) : Host.Outcome State Fault Refusal :=
  let s := countFec v.val f s
  let f := f.flit
  let n := laneNum v l
  let b := bPort v.val
  let dev := bits 0 13 (fByte 12 2 f)
  let port := bits 0 4 (fByte 14 2 f)
  let job := fByte 18 2 f
  let x := laneOf n s
  .next (if !fCrcOk f then crcBad n s
  else if fKind f ≠ 3 then s
  else if x.up then (if dev ≠ getF b F.VP_PEER_DEVICE s then laneDown n s else s)
  else if !x.aligned ∨ !laneAllowed n s then s
  else if portUp v.val s ∧ (dev ≠ getF b F.VP_PEER_DEVICE s ∨ port ≠ getF b F.VP_PEER_PORT s) then
    linkEvent b 6 (ownerScope b s) (v.val + l.val * 2 ^ 8) dev port s
  else
    let slow := getF b F.VP_LANES_SLOW s
    let slow := if 655 < rtt.toNat then slow ||| 2 ^ l.val else clearBit l.val slow
    let s := setF b F.VP_LANES_SLOW slow (setF b F.VP_RTT_NS (max rtt.toNat (getF b F.VP_RTT_NS s)) s)
    refreshPort v.val (setLane n { Lane.reset with
      aligned := true, up := true, lastSent := s.time, peer := some (dev, port, job) } s))

/-- DATA_FLIT (13 R418, R423): accepted in sequence, or discarded with a REPLAY_REQ; its ACK and credits are taken. -/
def execDataFlit (v : PortId) (l : LaneId) (f : RxFlit) (s : State) : Host.Outcome State Fault Refusal :=
  let s := countFec v.val f s
  let f := f.flit
  let n := laneNum v l
  .next (if !(laneOf n s).up then s
  else if !fCrcOk f then askReplay n (crcBad n s)
  else if fKind f ≠ 1 then s
  else
    let s := takeBack n f s
    let x := laneOf n s
    if fSeq f = x.rxSeq then
      let s := setLane n { x with rxSeq := (x.rxSeq + 1) % 256, asked := false, unacked := x.unacked + 1 } s
      acceptFlit n f (addUnits (bPort v.val) F.VP_FLITS_RX 1 s)
    else askReplay n s)

/-- REPLAY_REQ (13 R418): resends every unacknowledged flit from the SEQ that its ACK names. -/
def execReplayReq (v : PortId) (l : LaneId) (f : RxFlit) (s : State) : Host.Outcome State Fault Refusal :=
  let s := countFec v.val f s
  let f := f.flit
  let n := laneNum v l
  .next (if !(laneOf n s).up then s
  else if !fCrcOk f then crcBad n s
  else if fKind f ≠ 2 then s
  else replay n (takeCredit n f (takeAck n f s)))

/-- IDLE_FLIT (13 R418): its ACK and credits. -/
def execIdleFlit (v : PortId) (l : LaneId) (f : RxFlit) (s : State) : Host.Outcome State Fault Refusal :=
  let s := countFec v.val f s
  let f := f.flit
  let n := laneNum v l
  .next (if !(laneOf n s).up then s
  else if !fCrcOk f then crcBad n s
  else if fKind f ≠ 0 then s
  else takeBack n f s)

/-- REPLAY_TIMEOUT (13 R418): the oldest unacknowledged flit has waited REPLAY_NS. -/
def execReplayTimeout (v : PortId) (l : LaneId) (s : State) : Host.Outcome State Fault Refusal :=
  let n := laneNum v l
  .next (match (laneOf n s).window with
    | f :: _ => if f.sent + getF (bPort v.val) F.VP_REPLAY_NS s ≤ s.time then replay n s else s
    | [] => s)

/-- IDLE_SEND_TIMER (13 R418): an IDLE after 16 accepted flits or 100 ns without a flit sent. -/
def execIdleSendTimer (v : PortId) (l : LaneId) (s : State) : Host.Outcome State Fault Refusal :=
  let n := laneNum v l
  let x := laneOf n s
  .next (if x.up ∧ (16 ≤ x.unacked ∨ x.lastSent + 100 ≤ s.time) then emit n 0 0 0 [] s else s)

/-- LANE_ALIGNMENT_LOSS (13 R415): the lane has lost FEC alignment for more than 10 µs. -/
def execLaneAlignmentLoss (v : PortId) (l : LaneId) (s : State) : Host.Outcome State Fault Refusal :=
  let n := laneNum v l
  .next (setLane n { laneOf n (laneDown n s) with aligned := false } (laneDown n s))

end Sys2Proof.Machine
end

