-- ==== Sys2Proof/Machine/Exchange.lean ====
section
/-!
DEFINITION. What the mill's commands share (13 R425, R433 to R436, R443, R446, R658): the mill's memory, plans and their
exchange state, epochs, the delivery checks, and the votes' bookkeeping.
-/
namespace Sys2Proof.Machine

/-! ### The mill's memory (13 R435, R658) -/

/-- The requests of a mill access at a BASE-encoded address plus an offset (10 R327). A read that is answered with poison counts at its
controller when it is served (10 R343). -/
def mlAsk (p base off n : Nat) (write : Bool) (s : State) : State :=
  memAsk (millEngine p) p (spaceOf base) (addrOf base + off) n write s

/-- Reads at a BASE-encoded address plus an offset, in space 0 or 3 of the job's partition; none = the access fails
(a poisoned granule fails it too: log entry 18). -/
def mlRead (p base off n : Nat) (s : State) : Option (List Byte) :=
  let a := addrOf base + off
  if spaceOf base = 0 then (if reach0 p a n s && !poison0 p a n s then some (load0 p a n s) else none)
  else if spaceOf base = 3 then (place3 p none a n s).map fun q => rdN q n s
  else none

/-- Writes at a BASE-encoded address plus an offset. -/
def mlWrite (p base off : Nat) (l : List Byte) (s : State) : Option State :=
  let a := addrOf base + off
  if l.isEmpty then some s
  else if spaceOf base = 0 then
    (if reach0 p a l.length s && !partialPoison p a l.length s then some (mlAsk p base off l.length true (store0 p a l s)) else none)
  else if spaceOf base = 3 then (place3 p none a l.length s).map fun q => mlAsk p base off l.length true (wrN q l s)
  else none

/-! ### Plans (13 R432 to R435, R443) -/

/-- ACTIVE_PLANS of a job (13 R434). -/
def activePlans (p : Nat) (s : State) : Nat :=
  mlF F.ML_JOB_ACTIVE_PLANS_LO p s + mlF F.ML_JOB_ACTIVE_PLANS_HI p s * 2 ^ 32

/-- The plans that take part in the step. -/
def livePlans (p : Nat) (s : State) : List Plan :=
  let on := activePlans p s
  let l := (jobOf p s).plans
  ((List.range l.length).zip l).filterMap fun e => if bit e.1 on then e.2 else none

/-- The active plan that covers a bucket. -/
def planFor (p b : Nat) (s : State) : Option Plan :=
  (livePlans p s).find? fun g => decide (g.first ≤ b ∧ b < g.first + g.count)

def Plan.owner (g : Plan) (b : Nat) : Nat := (b - g.first) / g.ownRun % g.size
def Plan.checker (g : Plan) (b : Nat) : Nat := (g.owner b + 1) % g.size
/-- The owned index o(b). -/
def Plan.owned (g : Plan) (b : Nat) : Nat :=
  let q := b - g.first
  q / (g.ownRun * g.size) * g.ownRun + q % g.ownRun
/-- The most buckets a rank owns, O. -/
def Plan.most (g : Plan) : Nat := cdiv g.count (g.ownRun * g.size) * g.ownRun
/-- The contribution slot size, CS. -/
def Plan.slotSize (g : Plan) : Nat := if g.dense then 32 + 16384 else 32 + 6 * g.k
/-- A bucket is sampled in a step (13 R443). -/
def Plan.sampled (g : Plan) (b step : Nat) : Bool :=
  g.checkEn && decide (2 ≤ g.size) && (b + step % 2 ^ 32) % 2 ^ g.checkS == 0
/-- The device of a rank. -/
def Plan.device (g : Plan) (r : Nat) : Nat := nth g.devices r
/-- Where a reduced slot or a dense output lies: BASE and offset. -/
def Plan.outAt (g : Plan) (b step : Nat) : Nat × Nat :=
  let q := b - g.first
  (if step % 2 = 0 then g.out0 else g.out1, if g.dense then 65536 * (q / 4) + 16384 * (q % 4) else g.outSlot * q)
/-- The store slot of a rank: BASE and offset. -/
def Plan.slotAt (g : Plan) (check : Bool) (b rank : Nat) : Nat × Nat :=
  (if check then g.check else g.store, (g.owned b * g.size + rank) * g.slotSize)
/-- The most entries of a reduced bucket. -/
def Plan.cap (g : Plan) : Nat := min 4096 (g.size * g.k)

/-- One half of an arrival record as an epoch sees it: REDUCED, DIGEST_OK, contributions arrived (13 R435). -/
structure Half where
  reduced : Bool
  digestOk : Bool
  count : Nat
deriving DecidableEq, Repr

def Half.parse (off step attempt : Nat) (l : List Byte) : Half :=
  if leAt l off 8 = step ∧ leAt l (off + 8) 1 = attempt then
    ⟨bit 0 (leAt l (off + 9) 1), bit 1 (leAt l (off + 9) 1), leAt l (off + 10) 2⟩
  else ⟨false, false, 0⟩

def Half.bytes (step attempt : Nat) (h : Half) : List Byte :=
  bytesOf 8 step ++ bytesOf 1 attempt ++ bytesOf 1 (bitOf h.reduced + 2 * bitOf h.digestOk) ++ bytesOf 2 h.count

/-- Offset of the record that keeps a bucket's state: the arrival record, or the return record of a member. -/
def Plan.recAt (g : Plan) (member : Bool) (b : Nat) : Nat := if member then 32 * (g.most + b - g.first) else 32 * g.owned b

/-- Reads one half of a record: 0 the owner's, 16 the checker's. -/
def readHalf (p : Nat) (g : Plan) (member : Bool) (off b step attempt : Nat) (s : State) : Option Half :=
  (mlRead p g.arrive (g.recAt member b) 32 s).map (Half.parse off step attempt)

/-- The request for the record that keeps a bucket's state. -/
def askRec (p : Nat) (g : Plan) (member : Bool) (b : Nat) (s : State) : State := mlAsk p g.arrive (g.recAt member b) 32 false s

/-- Updates one half of a record in one access; a digest is kept beside the owner's half. -/
def writeHalf (p : Nat) (g : Plan) (member : Bool) (off b step attempt : Nat) (h : Half) (digest : Option Nat) (s : State) :
    Option State :=
  match mlRead p g.arrive (g.recAt member b) 32 s with
  | none => none
  | some l =>
    let mid := match digest with | some d => bytesOf 4 d | none => (l.drop (off + 12)).take 4
    mlWrite p g.arrive (g.recAt member b) (l.take off ++ h.bytes step attempt ++ mid ++ l.drop (off + 16)) (askRec p g member b s)

/-! ### Epochs (13 R446) -/

/-- The step nearest to `cur` whose low 24 bits are `e`. -/
def nearestStep (cur e : Nat) : Nat :=
  let d := (e % 2 ^ 24 + 2 ^ 24 - cur % 2 ^ 24) % 2 ^ 24
  if d ≤ 2 ^ 23 ∨ cur < 2 ^ 24 - d then cur + d else cur - (2 ^ 24 - d)

/-- What an epoch is to a job: current or a successor, an earlier one, or any other. -/
inductive EpochOf where
  | ok (step attempt : Nat)
  | stale (step attempt : Nat)
  | bad (step attempt : Nat)
deriving DecidableEq, Repr

def classify (p epoch : Nat) (s : State) : EpochOf :=
  let j := jobOf p s
  let st := nearestStep j.step (epoch / 256)
  let a := epoch % 256
  if (st = j.step ∧ (a = j.attempt ∨ a = j.attempt + 1)) ∨ (st = j.step + 1 ∧ a = 0) then .ok st a
  else if st < j.step ∨ (st = j.step ∧ a < j.attempt) then .stale st a
  else .bad st a

/-! ### Votes' bookkeeping (13 R452) -/

def EpState.new (step attempt : Nat) : EpState := ⟨step, attempt, [], false, none, 0, 0, 0, none, false⟩
def EpState.is (step attempt : Nat) (e : EpState) : Bool := e.step == step && e.attempt == attempt

def epOf (p step attempt : Nat) (s : State) : EpState :=
  ((jobOf p s).eps.find? (EpState.is step attempt)).getD (EpState.new step attempt)
def updEp (p step attempt : Nat) (f : EpState → EpState) (s : State) : State :=
  let e := f (epOf p step attempt s)
  updJob p (fun j => { j with eps := (j.eps.filter fun x => !x.is step attempt) ++ [e] }) s

/-- The verdict held for an epoch (13 R456). -/
def verdictHeld (p step attempt : Nat) (s : State) : Option Verd :=
  (jobOf p s).verdicts.find? fun v => v.step == step && v.attempt == attempt

def isRoot (p : Nat) (s : State) : Bool := mlF F.ML_JOB_ROOT p s == 1
/-- The device's children: the first NCHILD of the table (13 R432, R459). -/
def kidsOf (p : Nat) (s : State) : List Nat := (jobOf p s).kids.take (mlF F.ML_JOB_NCHILD p s)

/-- Sends a vote to the parent; nothing leaves from the root (13 R452, R427). -/
def sendVote (p step attempt kind reason device : Nat) (preferB : Bool) (s : State) : State :=
  if isRoot p s then s
  else (sendPacket p 5 (mlF F.ML_JOB_PARENT p s) (epochOf step attempt) (kind + reason * 256) (device % 2 ^ 13) 0
    (bytesOf 8 step) preferB none s).2

/-- The device's vote for an epoch becomes repeat: the first cause is kept, and the vote is sent at once. Nothing changes
for an epoch that is past or whose verdict is held (13 R452). -/
def voteRepeat (p step attempt reason device : Nat) (s : State) : State :=
  let j := jobOf p s
  let e := epOf p step attempt s
  if !jobEnabled p s || decide (step < j.step ∨ (step = j.step ∧ attempt < j.attempt)) ||
     (verdictHeld p step attempt s).isSome || e.cause.isSome then s
  else
    sendVote p step attempt 2 reason device false
      (updEp p step attempt (fun e => { e with
        cause := some (reason, device), voted := 2, votedAt := if e.voted = 0 then s.time else e.votedAt }) s)

/-- A cause of this device's own. -/
def ownCause (p step attempt reason : Nat) (s : State) : State := voteRepeat p step attempt reason (myDevice p s) s

/-! ### Packets that are not accepted (13 R425, R446, R658) -/

/-- Discards a packet under R425: MALFORMED, an event, and the vote for its epoch; a port without an owner (partition 8) has no
job. -/
def badPacket (p : Nat) (k : Packet) (s : State) : State :=
  let sc : Scope := if p < 8 then .part p else .none
  let s := linkEvent bMill 1 sc (pkArg0 k) (pkSrc k) (pkKind k) (addF bMill F.ML_MALFORMED 1 s)
  let j := jobOf p s
  if p < 8 ∧ jobEnabled p s then
    if 1 ≤ pkKind k ∧ pkKind k ≤ 7 then ownCause p (nearestStep j.step (pkEpoch k / 256)) (pkEpoch k % 256) 0x02 s
    else if pkKind k = 0 ∨ 0x0B < pkKind k then ownCause p j.step j.attempt 0x02 s else s
  else s

/-- A packet of an earlier epoch. -/
def stalePacket (s : State) : State := addF bMill F.ML_STALE 1 s

/-- Other work of the mill for an epoch whose access failed (13 R658). -/
def workFailed (p b step attempt : Nat) (s : State) : State :=
  ownCause p step attempt 0x02 (linkEvent bMill 5 (.part p) b (myDevice p s) 0 s)

/-- The mill delivers the packet (13 R425). -/
def deliverable (p : Nat) (k : Packet) (s : State) : Bool :=
  decide (p < 8) && jobEnabled p s && pkDst k == myDevice p s && pkJob k == mlF F.ML_JOB_JOB_ID p s &&
  pkLength k == (pkData k).length && pkPcrc k == (if (pkData k).isEmpty then 0 else crcOf (pkData k)) &&
  decide (1 ≤ pkKind k ∧ pkKind k ≤ 0x0B)

/-- A parity fold write: an MWRITE with TAG[15] = 1 (14 R472). -/
def pkFold (k : Packet) : Bool := pkKind k == 8 && bit 23 (pkArg1 k)

/-- The route that a reply prefers: that of the packet it answers (13 R427), told by the port on which the packet came in when
that is the first port of one of the routes back, else by what the packet's sending preferred (log entry 51). -/
def replyB (p src : Nat) (port : Option Nat) (preferred : Bool) (s : State) : Bool :=
  let (a, b) := routesTo p src s
  let first (r : Option Nat) : Bool := match r, port with | some w, some v => bits 0 4 w == v | _, _ => false
  if first a then false else if first b then true else preferred

/-- Takes the oldest packet of a test out of the inbox: its partition, its bytes and the port it came in on. -/
def takeInboxAt (sel : Inb → Bool) (s : State) : Option (Inb × State) :=
  match s.mill.inbox.find? sel with
  | none => none
  | some x => some (x, { s with mill := { s.mill with inbox := removeFirst sel s.mill.inbox } })

/-- Takes the oldest packet of a test out of the inbox. -/
def takeInbox (sel : Inb → Bool) (s : State) : Option (Nat × Packet × State) :=
  (takeInboxAt sel s).map fun e => (e.1.part, e.1.bytes, e.2)

/-- The oldest deliverable packet of a kind, with the port it came in on. -/
def takeKindAt (kind : Nat) (s : State) : Option (Inb × State) :=
  takeInboxAt (fun x => pkKind x.bytes == kind && pkFold x.bytes == false && deliverable x.part x.bytes s) s

/-- The oldest deliverable packet of a kind. -/
def takeKind (kind : Nat) (fold : Bool) (s : State) : Option (Nat × Packet × State) :=
  takeInbox (fun x => pkKind x.bytes == kind && pkFold x.bytes == fold && deliverable x.part x.bytes s) s

end Sys2Proof.Machine
end

