-- ==== Sys2Proof/Machine/Parity.lean ====
section
/-!
DEFINITION. Parity of the training state (14 R461 to R484): the field, loading groups, rounds, the interval, the parity
tasks, and the commands of the parity family.
-/
namespace Sys2Proof.Machine

/-! ### The field GF(2^8) (14 R462) -/

/-- Times the element 0x02, polynomial 0x11D. -/
def gfDouble (a : Nat) : Nat := if 128 ≤ a then (2 * a) ^^^ 0x11D else 2 * a

/-- Product of two elements, by the bits of the second from the top. -/
def gfMul (a b : Nat) : Nat :=
  ([7, 6, 5, 4, 3, 2, 1, 0] : List Nat).foldl (fun r i => if bit i b then gfDouble r ^^^ a else gfDouble r) 0

/-- 2^e, with e taken mod 255. -/
def gfPow2 (e : Nat) : Nat := (List.range (e % 255)).foldl (fun r _ => gfDouble r) 1

/-- The inverse: the element that gives 1; 0 has none. -/
def gfInv (a : Nat) : Nat := ((List.range 256).find? fun b => gfMul a b == 1).getD 0

/-- Each byte times a coefficient. -/
def gfScale (k : Nat) (l : List Byte) : List Byte := if k = 1 then l else l.map fun b => BitVec.ofNat 8 (gfMul k b.toNat)

/-! ### Loading (14 R463 to R466) -/

/-- Bytes [off, off + n) of a string are 0. -/
def zeroAt (l : List Byte) (off n : Nat) : Bool := leAt l off n == 0

/-- A BASE-encoded address in space 0. -/
def inSpace0 (a : Nat) : Bool := decide (a < 2 ^ 52)

/-- A loaded entry of the group table and its member fields, as read. -/
def ParGroup.parse (l segs : List Byte) : ParGroup :=
  let n := leAt l 1 1 + leAt l 2 1
  { k := leAt l 1 1, m := leAt l 2 1, mine := leAt l 3 1, segList := leAt l 8 8
    segs := (List.range (leAt l 0x10 4)).map fun j => (leAt segs (32 * j) 8, leAt segs (32 * j + 8) 8, leAt segs (32 * j + 16) 8)
    header := leAt l 0x18 8, pBytes := leAt l 0x20 8, store := leAt l 0x28 8
    devices := (List.range n).map fun i => leAt l (0x40 + 12 * i) 2
    wins := (List.range n).map fun i => leAt l (0x44 + 12 * i) 8
    target := leAt l 0xE8 1, lost := leAt l 0xEA 2, step := leAt l 0xF0 8, rbWin := leAt l 0xF8 8, override := bit 1 (leAt l 0 1) }

def ParGroup.holder (g : ParGroup) : Bool := decide (g.k ≤ g.mine)
/-- Image offset of segment `j` (14 R466). -/
def ParGroup.segAt (g : ParGroup) (j : Nat) : Nat := 256 + (g.segs.take j).foldl (fun n e => n + e.2.2) 0
def ParGroup.image (g : ParGroup) : Nat := g.segAt g.segs.length

/-- A span of space 0. -/
abbrev Range := Nat × Nat
def rangesMeet (a b : Range) : Bool := decide (0 < a.2 ∧ 0 < b.2 ∧ a.1 < b.1 + b.2 ∧ b.1 < a.1 + a.2)
/-- No two of a list of ranges overlap. -/
def rangesApart : List Range → Bool
  | [] => true
  | a :: r => (r.all fun b => !rangesMeet a b) && rangesApart r
def ParGroup.lives (g : ParGroup) : List Range := g.segs.map fun e => (e.1, e.2.2)
/-- The snapshot header and the SNAP ranges. -/
def ParGroup.snaps (g : ParGroup) : List Range := (g.header, if g.holder then 0 else 256) :: g.segs.map fun e => (e.2.1, e.2.2)
def ParGroup.copies (g : ParGroup) : List Range := if g.holder then [(g.store, 2 * g.pBytes)] else []

/-- The segment list meets R466. -/
def segsOk (g : ParGroup) (raw : List Byte) : Bool :=
  (List.range g.segs.length).all (fun j =>
    leAt raw (32 * j) 8 % 256 == 0 && leAt raw (32 * j + 8) 8 % 256 == 0 && leAt raw (32 * j + 16) 8 % 256 == 0 &&
    inSpace0 (leAt raw (32 * j) 8) && inSpace0 (leAt raw (32 * j + 8) 8) &&
    decide (1 ≤ leAt raw (32 * j + 24) 1 ∧ leAt raw (32 * j + 24) 1 ≤ 0x0B) && zeroAt raw (32 * j + 25) 7) &&
  rangesApart g.lives && rangesApart g.snaps && (g.snaps.drop 1).all (fun a => g.lives.all fun b => !rangesMeet a b) &&
  decide (g.image ≤ g.pBytes)

/-- The entry's fields lie in their ranges and its reserved fields are 0 (14 R463, R465). -/
def groupFieldsOk (l : List Byte) : Bool :=
  let k := leAt l 1 1
  let m := leAt l 2 1
  let mine := leAt l 3 1
  let hold := decide (k ≤ mine)
  decide (leAt l 0 1 < 4 ∧ 1 ≤ k ∧ k ≤ 12 ∧ 1 ≤ m ∧ m ≤ 2 ∧ mine < k + m ∧ leAt l 0x10 4 ≤ 65533) &&
  zeroAt l 4 4 && zeroAt l 0x14 4 && zeroAt l 0x30 16 && zeroAt l 0xE9 1 && zeroAt l 0xEC 4 &&
  inSpace0 (leAt l 0x18 8) && inSpace0 (leAt l 0x28 8) &&
  (if hold then zeroAt l 8 8 && zeroAt l 0x10 4 && zeroAt l 0x18 8 else zeroAt l 0x28 8) &&
  leAt l 0x20 8 % 256 == 0 && decide (leAt l 0xE8 1 < k + m) &&
  ((List.range 14).all fun i =>
    decide (leAt l (0x40 + 12 * i) 2 < 8192 ∧ leAt l (0x42 + 12 * i) 1 < 16) && zeroAt l (0x43 + 12 * i) 1) &&
  (List.range k).all fun i => zeroAt l (0x44 + 12 * i) 8

/-- The feed identifiers of the members. -/
def feedsOf (l : List Byte) : List Nat := (List.range (leAt l 1 1 + leAt l 2 1)).map fun i => leAt l (0x42 + 12 * i) 1

/-- Window of a job: SIZE_GIB and BASE_GIB in bytes (13 R429). -/
def winSize (p : Nat) (s : State) : Nat := mlF F.ML_JOB_SIZE_GIB p s * 2 ^ 30
def winBase (p : Nat) (s : State) : Nat := mlF F.ML_JOB_BASE_GIB p s * 2 ^ 30

/-- The rebuild buffer. -/
def rebuildBuf (p : Nat) (s : State) : Range :=
  (mlF F.ML_PAR_RB_BASE_LO p s + mlF F.ML_PAR_RB_BASE_HI p s * 2 ^ 32, mlF F.ML_PAR_RB_MIB p s * 2 ^ 20)

/-- GROUP_TABLE of a partition, BASE-encoded. -/
def groupTable (p : Nat) (s : State) : Nat := mlF F.ML_PAR_GROUP_TABLE_LO p s + mlF F.ML_PAR_GROUP_TABLE_HI p s * 2 ^ 32

/-- An entry of the group table as read. -/
def readGroup (p g : Nat) (s : State) : Option (List Byte) := mlRead p (groupTable p s) (256 * g) 256 s

/-- The segment list of an entry; none = it cannot be read. -/
def readSegs (p : Nat) (l : List Byte) (s : State) : Option (List Byte) :=
  if leAt l 0x10 4 = 0 then some [] else mlRead p (leAt l 8 8) 0 (32 * leAt l 0x10 4) s

/-- The request for the segment list of an entry that was read and is VALID. -/
def askSegs (p : Nat) (entry : Option (List Byte)) (s : State) : State :=
  match entry with
  | some l => if bit 0 (leAt l 0 1) then mlAsk p (leAt l 8 8) 0 (32 * leAt l 0x10 4) false s else s
  | none => s

/-- The requests for an entry of the group table and, when it is VALID, its segment list. -/
def askGroup (p g : Nat) (s : State) : State :=
  let s := mlAsk p (groupTable p s) (256 * g) 256 false s
  askSegs p (readGroup p g s) s

/-- The checks of R464 and R465 on one entry, but for the overlaps with other entries. -/
def groupOk (p : Nat) (l raw : List Byte) (s : State) : Bool :=
  let g := ParGroup.parse l raw
  groupFieldsOk l &&
  nth (feedsOf l) g.mine == mlF F.ML_PAR_FEED_ID p s && (g.override || decide ((feedsOf l).Nodup)) &&
  decide g.devices.Nodup && nth g.devices g.mine == myDevice p s && segsOk g raw &&
  (!g.holder || (g.store == winBase p s + nth g.wins g.mine && mlF F.ML_JOB_WRITE_EN p s == 1 &&
    decide (nth g.wins g.mine + 2 * g.pBytes ≤ winSize p s)))

/-- The parity copies or the rebuild buffer overlap a segment or a snapshot. -/
def groupClear (p : Nat) (g : ParGroup) (all : List ParGroup) (s : State) : Bool :=
  let mine := g.lives ++ g.snaps
  let taken := rebuildBuf p s :: (all.map ParGroup.copies).flatten
  let theirs := (all.map fun h => h.lives ++ h.snaps).flatten
  (mine.all fun a => taken.all fun b => !rangesMeet a b) && (g.copies.all fun a => theirs.all fun b => !rangesMeet a b)

/-- An event about a group: 1 = a shared feed under OVERRIDE, 2 = refused, 3 = round abandoned (log entry 11). -/
def parityEvent (p subtype g : Nat) (s : State) : State := raise bMill 0x0B subtype (.part p) false (g + subtype * 2 ^ 8) s

def updPar (p : Nat) (f : Par → Par) (s : State) : State := updJob p (fun j => { j with par := f j.par }) s
def parOf (p : Nat) (s : State) : Par := (jobOf p s).par
def groupOf (p g : Nat) (s : State) : Option ParGroup := mapGet (fun _ => none) (parOf p s).groups g

/-- Every group the partition has loaded. -/
def groupsOf (p : Nat) (s : State) : List (Nat × ParGroup) :=
  (List.range 16).filterMap fun g => (groupOf p g s).map fun x => (g, x)

/-- Payload of a feed override in the ledger: the group and its members' feed IDs (17 R582; log entry 11). -/
def feedPay (g : Nat) (feeds : List Nat) : Nat := feeds.foldr (fun f n => n * 2 ^ 8 + f) 0 * 2 ^ 8 + g

/-- Refuses an entry: a fault event, and the event of the group. -/
def refuseGroup (p g : Nat) (s : State) : State := parityEvent p 2 g (millFault p s)

/-- Loads one entry with its segment list if it passes, or refuses it. -/
def loadGroup (p g : Nat) (l raw : List Byte) (all : List ParGroup) (s : State) : State :=
  let x := ParGroup.parse l raw
  if groupOk p l raw s && groupClear p x all s then
    let s := updPar p (fun r => { r with groups := mapPut (fun _ => none) g (some x) r.groups }) s
    let s := setMl F.ML_PAR_GROUPS_LOADED p (mlF F.ML_PAR_GROUPS_LOADED p s ||| 2 ^ g) s
    if x.override && !decide ((feedsOf l).Nodup) then
      journal 0x0B (sourceOf bMill s) p 2 (feedPay g (feedsOf l)) (parityEvent p 1 g (setMl F.ML_PAR_FEED_OVERRIDE p 1 s))
    else if x.override then setMl F.ML_PAR_FEED_OVERRIDE p 1 s else s
  else refuseGroup p g s

/-- What the group table holds at an index: nothing, an entry, or one that cannot be read, whether it is the entry or its segment list. -/
inductive GroupRead where
  | absent
  | entry (l raw : List Byte)
  | lost
deriving DecidableEq, Repr

def groupAt (p g : Nat) (s : State) : GroupRead :=
  match readGroup p g s with
  | none => .lost
  | some l =>
    if bit 0 (leAt l 0 1) then (match readSegs p l s with | some raw => .entry l raw | none => .lost) else .absent

/-- LOAD of the group table (14 R465); one that cannot be read is refused like one that fails a check (log entry 33). -/
def parityLoad (p : Nat) (s : State) : State :=
  let entries := (List.range 16).map fun g => (g, groupAt p g s)
  let all := entries.filterMap fun e => match e.2 with | .entry l raw => some (ParGroup.parse l raw) | _ => none
  let s := (List.range 16).foldl (fun s g => askGroup p g s) s
  let s := updPar p (fun r => { r with groups := [] }) (setMl F.ML_PAR_FEED_OVERRIDE p 0 (setMl F.ML_PAR_GROUPS_LOADED p 0 s))
  entries.foldl (fun s e => match e.2 with
    | .entry l raw => loadGroup p e.1 l raw all s
    | .lost => refuseGroup p e.1 s
    | .absent => s) s

/-- The job may be loaded: no queue holds a task, no step is uncommitted (13 R432, 14 R465). -/
def jobAtRest (p : Nat) (s : State) : Bool := queuesEmpty p s && (partOf p s).run.isNone

/-- PARITY_LOAD (14 R465). -/
def execParityLoad (p : PartId) (s : State) : Host.Outcome State Fault Refusal :=
  .next (if jobAtRest p.val s then parityLoad p.val s else s)

/-! ### The status array (14 R474) -/

/-- Bytes `off` on of group g's status entry. -/
def statusRead (p g off n : Nat) (s : State) : Nat :=
  match mlRead p (groupTable p s) (0x1000 + 32 * g) 32 s with
  | some l => leAt l off n
  | none => 0
def statusWrite (p g off n v : Nat) (s : State) : State :=
  (mlWrite p (groupTable p s) (0x1000 + 32 * g + off) (bytesOf n v) s).getD s

/-- The request of a read of group g's status entry. -/
def askStatus (p g : Nat) (s : State) : State := mlAsk p (groupTable p s) (0x1000 + 32 * g) 32 false s

/-- Copy of the current round. -/
def roundCopy (p : Nat) (s : State) : Nat := mlF F.ML_PAR_ROUNDS p s % 2

/-- Zeroes a range of space 0 of a partition: in tier 1 every byte at once, with the requests of the whole range. -/
def zeroRange (p a n : Nat) (s : State) : State :=
  if a + n ≤ 2 ^ 40 then
    let out (k : Nat) : Bool := !decide (a ≤ k ∧ k < a + n)
    let s := mlAsk p a 0 n true s
    { s with mem := s.mem.filter fun e => out e.1
             memsys := { s.memsys with poison := s.memsys.poison.filter fun e => out e.1 } }
  else (mlWrite p a 0 (List.replicate n 0) s).getD s

/-- CLEARING of the parity registers. -/
def refreshClearing (p : Nat) (s : State) : State :=
  setMl F.ML_PAR_CLEARING p (bitOf ((parOf p s).clearing || !(parOf p s).zeroing.isEmpty)) s

/-- Zeroing of copy c of every group held starts (14 R469). -/
def startZeroing (p : Nat) (s : State) : State :=
  let c := roundCopy p s
  let held := (groupsOf p s).filter fun e => e.2.holder
  let s := held.foldl (fun s e =>
    let s := askStatus p e.1 s
    let s := statusWrite p e.1 1 1 (clearBit c (statusRead p e.1 1 1 s)) s
    let s := statusWrite p e.1 2 1 (statusRead p e.1 2 1 s ||| 2 ^ c) s
    zeroRange p (e.2.store + c * e.2.pBytes) e.2.pBytes s) s
  refreshClearing p (updPar p (fun r => { r with zeroing := held.map Prod.fst }) s)

/-- HOLDER_ZERO_DONE (14 R469): the zeroing ends. -/
def execHolderZeroDone (p : PartId) (s : State) : Host.Outcome State Fault Refusal :=
  .next (if (parOf p.val s).zeroing.isEmpty then s
  else
    let s := (parOf p.val s).zeroing.foldl (fun s g => statusWrite p.val g 2 1 0 s) s
    refreshClearing p.val (updPar p.val (fun r => { r with zeroing := [] }) s))

/-! ### The interval (14 R478, R479) -/

/-- M and T_S from the registers. -/
def computeInterval (p : Nat) (s : State) : State :=
  let h := if mlF F.ML_PAR_ENABLE p s = 1 then s.time - (parOf p s).enabledAt else 0
  let num := mlF F.ML_PAR_W p s * 3600 * mlF F.ML_PAR_M0_H p s * 10 ^ 9 + h
  let den := (mlF F.ML_PAR_W p s + mlF F.ML_PAR_FAILURES p s) * 10 ^ 9
  let t := isqrt (2 * mlF F.ML_PAR_C_MS p s * num / (1000 * den))
  setMl F.ML_PAR_T_S p (min (max t (mlF F.ML_PAR_T_MIN_S p s)) (mlF F.ML_PAR_T_MAX_S p s))
    (setMl F.ML_PAR_M_S p (min (num / den) (2 ^ 32 - 1)) s)

/-- The cost of the round that the newest commit verdict validates, in ms: D_p − 2·D_0, with a free value for D_0 while
fewer than five commit verdicts are known (log entry 19). -/
def roundCost (p : Nat) (s : State) : Nat × State :=
  match (parOf p s).commits with
  | a :: _ :: c :: d :: e :: _ => (((a - c) - 2 * (d - e)) / 10 ^ 6, s)
  | a :: _ :: c :: _ =>
    let (v, s) := fresh s
    (((a - c) - 2 * v) / 10 ^ 6, s)
  | _ => let (v, s) := fresh s; (v, s)

/-- The commit verdict of the step after a parity step validates the round (14 R474). -/
def validateRound (p step : Nat) (s : State) : State :=
  let c := roundCopy p s
  let s := (groupsOf p s).foldl (fun s e =>
    if e.2.holder then
      statusWrite p e.1 (16 + 8 * c) 8 step (statusWrite p e.1 1 1 (2 ^ c) s)
    else statusWrite p e.1 8 8 step (statusWrite p e.1 0 1 2 s)) s
  let (cr, s) := roundCost p s
  let s := setMl F.ML_PAR_C_MS p (min ((3 * mlF F.ML_PAR_C_MS p s + cr) / 4) 65535) s
  let s := updPar p (fun r => { r with valid := true, measured := true, rounds := r.rounds.filter fun q => q != step }) s
  computeInterval p (addF bMill (F.ML_PAR_ROUNDS_VALID.at p) 1 s)

/-- PARITY_NEXT on the root's commit verdict of a step (14 R468, R484; log entry 19). -/
def parityNext (p step : Nat) (s : State) : Bool :=
  let r := parOf p s
  mlF F.ML_PAR_ENABLE p s == 1 && !r.rounds.contains step &&
  (!(r.valid || (decide (0 < step) && r.rounds.contains (step - 1))) ||
    decide (mlF F.ML_PAR_T_S p s * 10 ^ 9 ≤ s.time - r.lastRound))

/-- What a commit verdict of a step does to parity, before the steward has it (14 R468, R469, R474). -/
def parityCommit (p step : Nat) (next : Bool) (s : State) : State :=
  let s := updPar p (fun r => { r with
    commits := (s.time :: r.commits).take 5
    lastRound := if r.rounds.contains step then s.time else r.lastRound }) s
  let s := if 0 < step ∧ (parOf p s).rounds.contains (step - 1) ∧ !(parOf p s).abandoned.contains (step - 1) then
      validateRound p (step - 1) s
    else s
  if next then
    startZeroing p (updPar p (fun r => { r with rounds := (step + 1) :: r.rounds })
      (setMl F.ML_PAR_ROUNDS p ((mlF F.ML_PAR_ROUNDS p s + 1) % 2 ^ 32) s))
  else s

/-- FAILURES gains 1 (14 R478, R489). -/
def addFailure (p : Nat) (s : State) : State := addF bMill (F.ML_PAR_FAILURES.at p) 1 s

/-- A write of FAIL_ADD. -/
def failAdd (p : Nat) (s : State) : State := computeInterval p (addFailure p s)

/-- A write of REBUILD_CLEAR (14 R482). -/
def rebuildClear (p : Nat) (s : State) : State :=
  refreshClearing p (updPar p (fun r => { r with clearing := true })
    (zeroRange p (rebuildBuf p s).1 (rebuildBuf p s).2 s))

/-- REBUILD_CLEAR_DONE (14 R488). -/
def execRebuildClearDone (p : PartId) (s : State) : Host.Outcome State Fault Refusal :=
  .next (refreshClearing p.val (updPar p.val (fun r => { r with clearing := false }) s))

/-! ### PARITY tasks (14 R470 to R472, R476, R480 to R482) -/

def parGroupId (d : Desc) : Nat := bits 0 4 (dF 0x18 4 d)
def parMode (d : Desc) : Nat := bits 4 2 (dF 0x18 4 d)
def parSeg (d : Desc) : Nat := bits 16 16 (dF 0x18 4 d)
/-- SEG names the header, or a whole parity copy (14 R470, R482). -/
def parHead (d : Desc) : Bool := parSeg d == 0xFFFE
def parWhole (d : Desc) : Bool := parSeg d == 0xFFFF
def parSrc (d : Desc) : Nat := dF 0x20 8 d
def parBytes (d : Desc) : Nat := dF 0x28 8 d

/-- The range checks of a PARITY task: SRC_ADDR and BYTES within [base, base + n) (14 R470). -/
def parRange (d : Desc) (base n : Nat) : TM Unit := do
  tCheck (inSpace0 (parSrc d) && parSrc d % 256 == 0 && decide (base ≤ parSrc d ∧ parSrc d < base + n)) 0x08 0x20 0
  tCheck (parBytes d != 0 && parBytes d % 256 == 0 && decide (parSrc d + parBytes d ≤ base + n)) 0x08 0x28 0

/-- Sends fold writes of bytes to a window offset of a device (14 R472); without a route the task faults. -/
def sendFolds (x : TCtx) (dst off : Nat) (l : List Byte) : TM Unit :=
  (chunksOf 4096 (l.length / 4096 + 1) l).zip (List.range (l.length / 4096 + 1)) |>.forM fun e =>
    tTry (sendPeer x.part x.croft x.uid 0 (x.croft * 16 % 65536) true (dst * 2 ^ 39 + off + 4096 * e.2) e.1.length (some e.1))
      (tFault 0x0C 0 0)

/-- The 256 bytes of a snapshot header (14 R466). -/
def snapHeader (x : TCtx) (gi : Nat) (g : ParGroup) (step : Nat) (s : State) : List Byte :=
  let raw := (mlRead x.part g.segList 0 (32 * g.segs.length) s).getD []
  bytesOf 2 0x4950 ++ bytesOf 1 1 ++ bytesOf 1 gi ++ bytesOf 2 (mlF F.ML_JOB_JOB_ID x.part s) ++ bytesOf 2 (myDevice x.part s) ++
  bytesOf 8 step ++ bytesOf 8 (seedOf x.croft s) ++ bytesOf 4 (mlF F.ML_PAR_ROUNDS x.part s) ++ bytesOf 4 (crcOf raw) ++
  bytesOf 8 g.image ++ bytesOf 4 g.segs.length ++ List.replicate 212 0

/-- The segment a task names: (LIVE, SNAP, BYTES), the header for any index past the segments. -/
def parSegment (d : Desc) (g : ParGroup) : Nat × Nat × Nat := (g.segs[parSeg d]?).getD (g.header, g.header, 256)
/-- Where that segment lies in the member's image. -/
def parPlace (d : Desc) (g : ParGroup) : Nat := if parHead d then 0 else g.segAt (parSeg d)

/-- The work of a round-mode task (14 R471). -/
def parityRound (d : Desc) (x : TCtx) : TM Unit := do
  let s ← get
  match groupOf x.part (parGroupId d) s with
  | none => tFault 0x08 0x18 0
  | some g =>
    tCheck (parMode d == 0 && !g.holder && croftTimed x.croft s && (decide (parSeg d < g.segs.length) || parHead d)) 0x08 0x18 0
    let seg := parSegment d g
    parRange d seg.1 seg.2.2
    let o := parPlace d g + (parSrc d - seg.1)
    tUpd (askStatus x.part (parGroupId d))
    if parHead d then tUpd (mlAsk x.part g.segList 0 (32 * g.segs.length) false) else pure ()
    let bytes ← if parHead d then pure (snapHeader x (parGroupId d) g (stepOf x.croft (dStepTag d) s) s)
      else tRead x 0x20 0 (parSrc d) (parBytes d)
    tUpd (statusWrite x.part (parGroupId d) 0 1 1)
    tWrite x 0x20 0 (seg.2.1 + (parSrc d - seg.1)) bytes
    let c := roundCopy x.part s
    (List.range g.m).forM fun h =>
      sendFolds x (nth g.devices (g.k + h)) (nth g.wins (g.k + h) + c * g.pBytes + o)
        (gfScale (if h = 0 then 1 else gfPow2 g.mine) bytes)
    tUpd (markWorked x.croft x.uid)

/-- The members lost. -/
def ParGroup.gone (g : ParGroup) : List Nat := (List.range (g.k + g.m)).filter fun i => bit i g.lost

/-- The coefficient of R481; none = the losses do not fit level 2. -/
def rebuildCoeff (g : ParGroup) : Option Nat :=
  let x := g.target
  let lostData := g.gone.filter fun i => decide (i < g.k)
  let row0 := bit g.k g.lost
  let i := g.mine
  if !bit x g.lost || decide (g.k ≤ x) || decide (g.m < g.gone.length) then none
  else if bit i g.lost then some 0
  else match lostData with
    | [_] =>
      if row0 then (if i < g.k then some (gfPow2 (i + 255 - x)) else some (gfPow2 (255 - x)))
      else if i < g.k then some 1
      else some (if i = g.k then 1 else 0)
    | [a, b] =>
      let y := if a = x then b else a
      let inv := gfInv (gfPow2 x ^^^ gfPow2 y)
      if i < g.k then some (gfMul inv (gfPow2 i ^^^ gfPow2 y))
      else some (if i = g.k then gfMul inv (gfPow2 y) else inv)
    | _ => none

/-- The copy a holder rebuilds from: a valid one whose COPY_STEP is REBUILD_STEP. -/
def rebuildCopy (p gi : Nat) (g : ParGroup) (s : State) : Option Nat :=
  ([0, 1] : List Nat).find? fun c =>
    bit c (statusRead p gi 1 1 s) && statusRead p gi (16 + 8 * c) 8 s == g.step

/-- Sends a rebuild's contribution and ends the work: nothing is sent with the coefficient 0 (14 R481). -/
def rebuildSend (x : TCtx) (g : ParGroup) (k off : Nat) (bytes : List Byte) : TM Unit := do
  if k = 0 then pure () else sendFolds x (nth g.devices g.target) (g.rbWin + off) (gfScale k bytes)
  tUpd (markWorked x.croft x.uid)

/-- A holder's part of a rebuild: its whole copy (14 R482). -/
def rebuildFromCopy (d : Desc) (x : TCtx) (g : ParGroup) (k c : Nat) : TM Unit := do
  tCheck (parWhole d) 0x08 0x18 0
  parRange d (g.store + c * g.pBytes) g.pBytes
  let bytes ← tRead x 0x20 0 (parSrc d) (parBytes d)
  rebuildSend x g k (parSrc d - g.store - c * g.pBytes) bytes

/-- A member's part of a rebuild: a segment of its snapshot, which a live member's status must call valid (14 R482). -/
def rebuildFromSnap (d : Desc) (x : TCtx) (g : ParGroup) (k : Nat) (ok : Bool) : TM Unit := do
  tCheck (decide (parSeg d < g.segs.length) || parHead d) 0x08 0x18 0
  tCheck ok 0x08 0x18 0
  parRange d (parSegment d g).2.1 (parSegment d g).2.2
  let bytes ← tRead x 0x20 0 (parSrc d) (parBytes d)
  rebuildSend x g k (parPlace d g + (parSrc d - (parSegment d g).2.1)) bytes

/-- The work of a rebuild-mode task for a loaded group (14 R480 to R482): a holder whose copy is not used, since its coefficient is 0, needs
no valid one. -/
def rebuildGroup (d : Desc) (x : TCtx) (g : ParGroup) (s : State) : TM Unit := do
  tCheck (!croftTimed x.croft s) 0x08 0x18 0
  tUpd (askStatus x.part (parGroupId d))
  match rebuildCoeff g with
  | none => tFault 0x08 0x18 0
  | some k =>
    if g.holder then
      match rebuildCopy x.part (parGroupId d) g s with
      | none =>
        tCheck (k == 0) 0x08 0x18 0
        tCheck (parWhole d) 0x08 0x18 0
        tUpd (markWorked x.croft x.uid)
      | some c => rebuildFromCopy d x g k c
    else
      rebuildFromSnap d x g k (bit g.mine g.lost ||
        (statusRead x.part (parGroupId d) 0 1 s == 2 && statusRead x.part (parGroupId d) 8 8 s == g.step))

/-- The work of a rebuild-mode task, whose group must be loaded. -/
def rebuildLoaded (d : Desc) (x : TCtx) (o : Option ParGroup) (s : State) : TM Unit :=
  match o with
  | none => tFault 0x08 0x18 0
  | some g => rebuildGroup d x g s

/-- The work of a rebuild-mode task (14 R480 to R482). -/
def parityRebuild (d : Desc) (x : TCtx) : TM Unit := do
  let s ← get
  rebuildLoaded d x (groupOf x.part (parGroupId d) s) s

/-- PARITY_ROUND (14 R470, R471): a PARITY task with MODE 0b00; a reserved MODE is refused. -/
def execParityRound (c : CroftId) (s : State) : Host.Outcome State Fault Refusal :=
  .next (match startableOp c.val opParity s with
    | some t => if parMode t.desc ≠ 1 then runTask c.val t (parityRound t.desc) s else s
    | none => s)

/-- PARITY_REBUILD (14 R482): a PARITY task with MODE 0b01. -/
def execParityRebuild (c : CroftId) (s : State) : Host.Outcome State Fault Refusal :=
  .next (match startableOp c.val opParity s with
    | some t => if parMode t.desc = 1 then runTask c.val t (parityRebuild t.desc) s else s
    | none => s)

end Sys2Proof.Machine
end

