-- ==== Sys2Proof/Machine/Votes.lean ====
section
/-!
DEFINITION. Votes and verdicts (13 R452 to R456): local readiness, the root's decision, taking a verdict, and the
commands of the vote family.
-/
namespace Sys2Proof.Machine

/-! ### Local readiness (13 R453) -/

/-- What one bucket of an active plan still owes for an epoch: some true = nothing, none = its record cannot be read. -/
def bucketReady (p : Nat) (g : Plan) (b step attempt : Nat) (s : State) : Option Bool :=
  let mine : Option Bool :=
    if g.owner b = g.rank then
      (readHalf p g false 0 b step attempt s).map fun h => h.reduced && (!g.sampled b step || h.digestOk)
    else if g.ret then (readHalf p g true 0 b step attempt s).map fun h => h.reduced
    else some true
  let due : Option Bool :=
    if g.sampled b step ∧ g.checker b = g.rank then (readHalf p g false 16 b step attempt s).map fun h => h.reduced
    else some true
  match mine, due with
  | some a, some c => some (a && c)
  | _, _ => none

/-- Every bucket of every active plan: some true = ready, none = a record cannot be read. -/
def bucketsReady (p step attempt : Nat) (s : State) : Option Bool :=
  (livePlans p s).foldl (fun a g =>
    (List.range g.count).foldl (fun a i =>
      match a with
      | some true => bucketReady p g (g.first + i) step attempt s
      | x => x) a) (some true)

/-- Nothing that has happened since READY forbids the step in progress to commit (03 R96, R97, R104; 13 R415). -/
def mayCommit (p : Nat) (s : State) : Bool := (partOf p s).repeatDue.isNone && !(partOf p s).stopCommits

/-- The device is locally ready for an epoch. -/
def localReady (p step attempt : Nat) (s : State) : Bool :=
  let e := epOf p step attempt s
  e.ready && e.cause.isNone && mayCommit p s && bucketsReady p step attempt s == some true

/-- Every child has voted ready for an epoch. -/
def kidsReady (p step attempt : Nat) (s : State) : Bool :=
  let e := epOf p step attempt s
  (kidsOf p s).all fun k => e.kids.contains (k, 1)

/-- LOCAL of a job's registers: 2 = repeat, 1 = locally ready. -/
def localState (p : Nat) (s : State) : Nat :=
  let j := jobOf p s
  if (epOf p j.step j.attempt s).cause.isSome then 2 else if localReady p j.step j.attempt s then 1 else 0

/-- CHILDREN_READY of a job's registers. -/
def kidsCount (p : Nat) (s : State) : Nat :=
  let j := jobOf p s
  ((epOf p j.step j.attempt s).kids.filter fun k => k.2 == 1).length

/-! ### Taking a verdict (13 R455, R456) -/

/-- Sets the current epoch and its register (13 R446). -/
def setEpoch (p step attempt : Nat) (s : State) : State :=
  let keep (e : EpState) : Bool :=
    e.voted != 0 || decide (step < e.step ∨ (e.step = step ∧ attempt ≤ e.attempt))
  setMl F.ML_JOB_EPOCH p (epochOf step attempt)
    (updJob p (fun j => { j with
      step := step, attempt := attempt, eps := j.eps.filter keep
      seen := j.seen.filter fun v => decide (step < v.1 ∨ (v.1 = step ∧ attempt ≤ v.2.1)) ||
        j.verdicts.any fun w => w.step == v.1 && w.attempt == v.2.1 }) s)

/-- Where an epoch moves on a verdict. -/
def nextEpoch (kind step attempt : Nat) : Nat × Nat :=
  if kind = 1 then (step + 1, 0) else if kind = 2 then (step, attempt + 1) else (step, attempt)

/-- Sends a verdict to a device (13 R455, R456). -/
def sendVerdict (p dst : Nat) (v : Verd) (preferB : Bool) (s : State) : State :=
  (sendPacket p 6 dst (epochOf v.step v.attempt) v.arg0 (v.device % 2 ^ 13) 0 (bytesOf 8 v.step) preferB none s).2

/-- Counts a verdict. -/
def countVerdict (kind : Nat) (s : State) : State :=
  addF bMill (if kind = 1 then F.ML_VERDICTS_COMMIT else if kind = 2 then F.ML_VERDICTS_REPEAT else F.ML_VERDICTS_STOP) 1 s

/-- Takes a verdict of an epoch not yet decided here, in the order of R455: to the children, into LAST_VERDICT and the
counts, to the steward. -/
def takeVerdict (p : Nat) (v : Verd) (s : State) : State :=
  let kind := v.arg0 % 4
  let s := (kidsOf p s).foldl (fun s d => sendVerdict p d v false s) s
  let s := countVerdict kind (setMl F.ML_JOB_LAST_REASON p (bits 8 8 v.arg0) (setMl F.ML_JOB_LAST_VERDICT p kind s))
  let s := updJob p (fun j => { j with
    verdicts := (j.verdicts ++ [v]).drop (j.verdicts.length + 1 - 16)
    eps := j.eps.filter fun e => !e.is v.step v.attempt }) s
  let s := if kind = 1 then parityCommit p v.step (bit 16 v.arg0) s else s
  let s := if kind = 3 then addFailure p s else s
  let j := jobOf p s
  let n := nextEpoch kind v.step v.attempt
  let s := if j.step < n.1 ∨ (j.step = n.1 ∧ j.attempt < n.2) then setEpoch p n.1 n.2 s else s
  stewardVerdict p v.step v.attempt kind s

/-- A second verdict for an epoch changes nothing. -/
def newVerdict (p : Nat) (v : Verd) (s : State) : State :=
  if (verdictHeld p v.step v.attempt s).isSome ∨ v.arg0 % 4 = 0 then s else takeVerdict p v s

/-- The root's repeat for an epoch, or its stop at the limit (13 R454). -/
def repeatOrStop (p step attempt reason device : Nat) (s : State) : Verd :=
  ⟨step, attempt, (if attempt + 1 < mlF F.ML_JOB_REPEAT_LIMIT p s then 2 else 3) + reason * 256, device⟩

/-- What the root decides for the current epoch because of a repeat vote. -/
def rootRepeat (p : Nat) (s : State) : Option Verd :=
  let j := jobOf p s
  if jobEnabled p s && isRoot p s && (verdictHeld p j.step j.attempt s).isNone then
    (epOf p j.step j.attempt s).cause.map fun c => repeatOrStop p j.step j.attempt c.1 c.2 s
  else none

/-- The root decides while the epoch it reaches already has a repeat vote; the limit bounds the attempts. -/
def settleRoot (p : Nat) : Nat → State → State
  | 0, s => s
  | n + 1, s =>
    match rootRepeat p s with
    | some v => settleRoot p n (takeVerdict p v s)
    | none => s

/-- Notes when the root becomes locally ready with votes missing (13 R454). -/
def noteRoot (p : Nat) (s : State) : State :=
  let j := jobOf p s
  if jobEnabled p s && isRoot p s && (epOf p j.step j.attempt s).ready && (epOf p j.step j.attempt s).rootAt.isNone &&
     localReady p j.step j.attempt s then
    updEp p j.step j.attempt (fun e => { e with rootAt := some s.time }) s
  else s

/-- What follows at once from anything that may change a vote. -/
def settle (p : Nat) (s : State) : State := noteRoot p (settleRoot p 257 s)

/-! ### Commands -/

/-- MALFORMED_PACKET (13 R422, R425): the oldest packet that fails the delivery checks. -/
def execMalformedPacket (s : State) : Host.Outcome State Fault Refusal :=
  .next (match takeInbox (fun x => !deliverable x.part x.bytes s) s with
    | none => s
    | some (p, k, s) => settle p (badPacket p k s))

/-- Records a child's vote; a second one for the epoch counts as the same (13 R452). -/
def childVote (p step attempt : Nat) (k : Packet) (s : State) : State :=
  let kind := pkArg0 k % 4
  if !(kidsOf p s).contains (pkSrc k) then s
  else if kind = 1 then
    updEp p step attempt (fun e =>
      if e.kids.any fun x => x.1 == pkSrc k then e else { e with kids := e.kids ++ [(pkSrc k, 1)] }) s
  else if kind = 2 then
    voteRepeat p step attempt (bits 8 8 (pkArg0 k)) (pkArg1 k % 2 ^ 13)
      (updEp p step attempt (fun e => { e with kids := (e.kids.filter fun x => x.1 != pkSrc k) ++ [(pkSrc k, 2)] }) s)
  else s

/-- VOTE of an epoch: answered with a verdict held, else recorded. A vote sent again prefers route B, as its answer does (13
R427, R456). -/
def takeVote (p step attempt : Nat) (k : Packet) (port : Option Nat) (current : Bool) (s : State) : State :=
  let again := (jobOf p s).seen.contains (step, attempt, pkSrc k)
  let s := if again || !(kidsOf p s).contains (pkSrc k) then s
    else updJob p (fun j => { j with seen := j.seen ++ [(step, attempt, pkSrc k)] }) s
  match verdictHeld p step attempt s with
  | some v => sendVerdict p (pkSrc k) v (replyB p (pkSrc k) port again s) s
  | none => if current then childVote p step attempt k s else stalePacket s

/-- VOTE (13 R452, R456). -/
def execVote (s : State) : Host.Outcome State Fault Refusal :=
  .next (match takeKindAt 5 s with
    | none => s
    | some (x, s) =>
      settle x.part (match classify x.part (pkEpoch x.bytes) s with
        | .ok st a => takeVote x.part st a x.bytes x.port true s
        | .stale st a => takeVote x.part st a x.bytes x.port false s
        | .bad _ _ => badPacket x.part x.bytes s))

/-- VOTE_READY_SEND (13 R452, R454): the device votes ready, or the root commits. -/
def execVoteReadySend (p : PartId) (s : State) : Host.Outcome State Fault Refusal :=
  let j := jobOf p.val s
  let e := epOf p.val j.step j.attempt s
  .next (if !jobEnabled p.val s ∨ e.voted ≠ 0 ∨ e.cause.isSome ∨ !e.ready ∨
      (verdictHeld p.val j.step j.attempt s).isSome then s
  else if (bucketsReady p.val j.step j.attempt s).isNone then settle p.val (workFailed p.val 0 j.step j.attempt s)
  else if !localReady p.val j.step j.attempt s then s
  else if !kidsReady p.val j.step j.attempt s then noteRoot p.val s
  else if isRoot p.val s then
    settle p.val (takeVerdict p.val ⟨j.step, j.attempt, 1 + bitOf (parityNext p.val j.step s) * 2 ^ 16, 0⟩ s)
  else
    sendVote p.val j.step j.attempt 1 0 0 false
      (updEp p.val j.step j.attempt (fun e => { e with voted := 1, votedAt := s.time }) s))

/-- VERDICT (13 R455): from the parent. -/
def execVerdict (s : State) : Host.Outcome State Fault Refusal :=
  .next (match takeKind 6 false s with
    | none => s
    | some (p, k, s) =>
      settle p (match classify p (pkEpoch k) s with
        | .ok st a => if isRoot p s then s else newVerdict p ⟨st, a, pkArg0 k, pkArg1 k % 2 ^ 13⟩ s
        | .stale _ _ => stalePacket s
        | .bad _ _ => badPacket p k s))

/-- QUERY of an epoch: answered, or passed on to the parent (13 R427, R456). -/
def takeQuery (p step attempt : Nat) (k : Packet) (port : Option Nat) (current : Bool) (s : State) : State :=
  match verdictHeld p step attempt s with
  | some v => sendVerdict p (pkSrc k) v (replyB p (pkSrc k) port true s) s
  | none =>
    if !current then stalePacket s
    else if isRoot p s then s
    else (sendPacket p 7 (mlF F.ML_JOB_PARENT p s) (pkEpoch k) 0 0 0 [] true none s).2

/-- QUERY (13 R456). -/
def execQuery (s : State) : Host.Outcome State Fault Refusal :=
  .next (match takeKindAt 7 s with
    | none => s
    | some (x, s) =>
      settle x.part (match classify x.part (pkEpoch x.bytes) s with
        | .ok st a => takeQuery x.part st a x.bytes x.port true s
        | .stale st a => takeQuery x.part st a x.bytes x.port false s
        | .bad _ _ => badPacket x.part x.bytes s))

/-- Microseconds of a job register, in ns. -/
def jobUs (f : Field) (p : Nat) (s : State) : Nat := mlF f p s * 1000

/-- ROOT_VERDICT_TIMEOUT (13 R454). -/
def execRootVerdictTimeout (p : PartId) (s : State) : Host.Outcome State Fault Refusal :=
  let j := jobOf p.val s
  let e := epOf p.val j.step j.attempt s
  .next (match e.rootAt with
    | none => s
    | some t =>
      if jobEnabled p.val s ∧ isRoot p.val s = true ∧ t + jobUs F.ML_JOB_VERDICT_WAIT_US p.val s ≤ s.time ∧
         kidsReady p.val j.step j.attempt s = false ∧ (verdictHeld p.val j.step j.attempt s).isNone then
        settle p.val (takeVerdict p.val (repeatOrStop p.val j.step j.attempt 0x07 (myDevice p.val s) s) s)
      else s)

/-- An epoch that waits for a verdict and has waited `n` times VERDICT_WAIT_US. -/
def waited (p n : Nat) (s : State) (e : EpState) : Bool :=
  e.voted != 0 && !isRoot p s && (verdictHeld p e.step e.attempt s).isNone &&
  decide (e.votedAt + n * jobUs F.ML_JOB_VERDICT_WAIT_US p s ≤ s.time)

/-- VERDICT_WAIT_TIMEOUT (13 R456): the vote again on route B, then a QUERY. -/
def execVerdictWaitTimeout (p : PartId) (s : State) : Host.Outcome State Fault Refusal :=
  .next (match (jobOf p.val s).eps.find? fun e => decide (e.again < 2) && waited p.val (e.again + 1) s e with
    | none => s
    | some e =>
      let s := updEp p.val e.step e.attempt (fun e => { e with again := e.again + 1 }) s
      if e.again = 0 then
        let c := e.cause.getD (0, 0)
        sendVote p.val e.step e.attempt e.voted c.1 c.2 true s
      else (sendPacket p.val 7 (mlF F.ML_JOB_PARENT p.val s) (epochOf e.step e.attempt) 0 0 0 [] true none s).2)

/-- VERDICT_LOST (13 R456). -/
def execVerdictLost (p : PartId) (s : State) : Host.Outcome State Fault Refusal :=
  .next (match (jobOf p.val s).eps.find? fun e =>
      !e.lost && waited p.val 0 s e && decide (e.votedAt + jobUs F.ML_JOB_VERDICT_LOST_US p.val s ≤ s.time) with
    | none => s
    | some e =>
      stopCommits p.val (linkEvent bMill 4 (.part p.val) (epochOf e.step e.attempt) (myDevice p.val s) 0
        (updEp p.val e.step e.attempt (fun e => { e with lost := true }) s)))

/-- The steward's READY for the current epoch (13 R453). -/
def writeReady (p : Nat) (s : State) : State :=
  let j := jobOf p s
  if jobEnabled p s then settle p (updEp p j.step j.attempt (fun e => { e with ready := true }) s) else s

/-- The steward's REPEAT for the current epoch with a REASON (13 R452). -/
def writeRepeat (p reason : Nat) (s : State) : State :=
  let j := jobOf p s
  settle p (ownCause p j.step j.attempt reason s)

/-- LOCAL_READY (13 R453; 14 R469, R473): the control core writes READY once every task of the step that must complete
before the verdict has done so, and a holder's zeroing has ended. -/
def execLocalReady (p : PartId) (s : State) : Host.Outcome State Fault Refusal :=
  .next (if mayReady p.val s && (parOf p.val s).zeroing.isEmpty then writeReady p.val s else s)

/-- LOCAL_REPEAT (13 R452; 03 R96): the control core writes REPEAT on any cause of a repeat. -/
def execLocalRepeat (p : PartId) (s : State) : Host.Outcome State Fault Refusal :=
  .next (match (partOf p.val s).run, (partOf p.val s).repeatDue with
    | some _, some r => writeRepeat p.val r s
    | _, _ => s)

/-- Starts a job: its current epoch is (LAST_COMMITTED + 1, 0), and nothing is held of earlier epochs (13 R446; 14 R468;
log entry 20). -/
def startJob (p : Nat) (s : State) : State :=
  let s := updPart p (fun k => if k.run.isNone then { k with repeatDue := none } else k) s
  setEpoch p (lastCommitted p s + 1) 0 (updJob p (fun j => { j with
    eps := [], digests := [], verdicts := [], seen := []
    par := { j.par with rounds := [], abandoned := [], valid := false } }) s)

/-- JOBS_ENABLED follows the jobs' ENABLE. -/
def refreshJobs (s : State) : State :=
  setF bMill F.ML_JOBS_ENABLED ((List.range 8).foldl (fun n p => n + bitOf (jobEnabled p s) * 2 ^ p) 0) s

/-- A write of a job's ENABLE. -/
def writeJobEnable (p v : Nat) (s : State) : State :=
  let was := jobEnabled p s
  let s := refreshJobs (setMl F.ML_JOB_ENABLE p v s)
  if v = 1 ∧ !was then startJob p s else s

end Sys2Proof.Machine
end

