-- ==== Sys2Proof/Machine/Mill.lean ====
section
/-!
DEFINITION. The mill (13 R429 to R451, R658): storing contributions, forming reduced buckets and digests, returning
them, acknowledgements, peer memory, and loading the job's tables.
-/
namespace Sys2Proof.Machine

/-! ### Contributions (13 R441, R445, R447) -/

/-- A bucket's entries: indices with FP32 patterns. -/
abbrev Entries := List (Nat × Nat)

/-- Data of a CONTRIB or REDUCED packet (13 R422). -/
def entryData (dense : Bool) (es : Entries) : List Byte :=
  let vals := (es.map fun e => bytesOf 4 e.2).flatten
  if dense then vals
  else (es.map fun e => bytesOf 2 e.1).flatten ++ (if es.length % 2 = 1 then [0, 0] else []) ++ vals

/-- Length of that data. -/
def dataLength (dense : Bool) (count : Nat) : Nat := if dense then 16384 else 2 * (count + count % 2) + 4 * count

/-- Entries of packet data. -/
def parseData (dense : Bool) (count : Nat) (l : List Byte) : Entries :=
  if dense then (List.range 4096).map fun i => (i, leAt l (4 * i) 4)
  else (List.range count).map fun i => (leAt l (2 * i) 2, leAt l (2 * (count + count % 2) + 4 * i) 4)

/-- Indices strictly ascend and lie below 4,096. -/
def ascending : List Nat → Bool
  | [] => true
  | [a] => decide (a < 4096)
  | a :: b :: r => decide (a < b) && ascending (b :: r)

/-- The digest of a bucket: its indices, then its values (13 R436, R451). -/
def digestOf (dense : Bool) (es : Entries) : Nat :=
  crcOf ((if dense then [] else (es.map fun e => bytesOf 2 e.1).flatten) ++ (es.map fun e => bytesOf 4 e.2).flatten)

/-- Number of entries a bucket announces. -/
def countOf (dense : Bool) (es : Entries) : Nat := if dense then 4096 else es.length

/-- The header of a store slot (13 R435). -/
def slotHead (b rank step attempt count pcrc : Nat) : List Byte :=
  bytesOf 4 b ++ bytesOf 1 attempt ++ [0] ++ bytesOf 2 rank ++ bytesOf 8 step ++ bytesOf 2 count ++ [0, 0] ++ bytesOf 4 pcrc ++
  List.replicate 8 0

/-- Offset of the values in a store slot. -/
def Plan.valuesAt (g : Plan) : Nat := 32 + 2 * g.k

/-- Reads the entries of a store slot that holds `count`. -/
def readSlotEntries (p : Nat) (g : Plan) (at_ : Nat × Nat) (count : Nat) (s : State) : Option Entries :=
  if g.dense then
    (mlRead p at_.1 (at_.2 + 32) 16384 s).map fun l => (List.range 4096).map fun i => (i, leAt l (4 * i) 4)
  else if count = 0 then some []
  else match mlRead p at_.1 (at_.2 + 32) (2 * count) s, mlRead p at_.1 (at_.2 + g.valuesAt) (4 * count) s with
    | some a, some b => some ((List.range count).map fun i => (leAt a (2 * i) 2, leAt b (4 * i) 4))
    | _, _ => none

/-- The requests for the entries of a store slot that holds `count`. -/
def askEntries (p : Nat) (g : Plan) (at_ : Nat × Nat) (count : Nat) (s : State) : State :=
  if g.dense then mlAsk p at_.1 (at_.2 + 32) 16384 false s
  else mlAsk p at_.1 (at_.2 + g.valuesAt) (4 * count) false (mlAsk p at_.1 (at_.2 + 32) (2 * count) false s)

/-- COUNT in the header of a store slot. -/
def slotCount (p : Nat) (at_ : Nat × Nat) (s : State) : Nat := ((mlRead p at_.1 at_.2 32 s).map fun h => leAt h 16 2).getD 0

/-- The requests for a store slot: its header and the entries that it counts. -/
def askSlot (p : Nat) (g : Plan) (at_ : Nat × Nat) (s : State) : State :=
  askEntries p g at_ (slotCount p at_ s) (mlAsk p at_.1 at_.2 32 false s)

/-- Writes a store slot: header, indices, values. -/
def writeSlot (p : Nat) (g : Plan) (at_ : Nat × Nat) (head : List Byte) (es : Entries) (s : State) : Option State :=
  let put (o : Nat) (l : List Byte) (s : Option State) : Option State := s.bind (mlWrite p at_.1 (at_.2 + o) l)
  let vals := (es.map fun e => bytesOf 4 e.2).flatten
  if g.dense then put 32 vals (put 0 head (some s))
  else put g.valuesAt vals (put 32 (es.map fun e => bytesOf 2 e.1).flatten (put 0 head (some s)))

/-- What becomes of a contribution that reaches its slot. -/
inductive Stored where
  | failed                       -- an access failed: not accepted (13 R658)
  | duplicate                    -- equal to the one held
  | differs                      -- unlike the one held
  | kept (n : Nat) (s : State)   -- stored and counted; `n` have now arrived

/-- Stores a contribution of a rank, or compares it with the one held (13 R445, R447). -/
def storeContrib (p : Nat) (g : Plan) (check : Bool) (b rank step attempt : Nat) (es : Entries) (s : State) : Stored :=
  let off := if check then 16 else 0
  let at_ := g.slotAt check b rank
  let data := entryData g.dense es
  let head := slotHead b rank step attempt (countOf g.dense es) (if data.isEmpty then 0 else crcOf data)
  match readHalf p g false off b step attempt s, mlRead p at_.1 at_.2 32 s with
  | some h, some old =>
    if 0 < h.count ∧ leAt old 4 1 = attempt % 256 ∧ leAt old 6 2 = rank ∧ leAt old 8 8 = step then
      match readSlotEntries p g at_ (leAt old 16 2) s with
      | some es' => if old = head ∧ es' = es then .duplicate else .differs
      | none => .failed
    else
      match writeSlot p g at_ head es s with
      | none => .failed
      | some s =>
        match writeHalf p g false off b step attempt { h with count := h.count + 1 } none s with
        | some s => .kept (h.count + 1) s
        | none => .failed
  | _, _ => .failed

/-! ### Reduced buckets (13 R436, R448 to R451) -/

/-- Folds the R contributions in ascending rank: every index of the union with its cell (13 R448). -/
def foldRanks (l : List Entries) : Entries :=
  let m : SMap (Option Cell) := l.foldl (fun m es =>
    es.foldl (fun m e =>
      let x := (mapGet (fun _ => none) m e.1).getD Cell.zero
      mapPut (fun _ => none) e.1 (some (foldCell x ⟨e.2, false⟩)) m) m) []
  m.filterMap fun e => e.2.map fun x => (e.1, readout x)

/-- The contributions of every rank, as stored. -/
def readRanks (p : Nat) (g : Plan) (check : Bool) (b : Nat) (s : State) : Option (List Entries) :=
  (List.range g.size).foldl (fun o r =>
    match o, mlRead p (g.slotAt check b r).1 (g.slotAt check b r).2 32 s with
    | some l, some h => (readSlotEntries p g (g.slotAt check b r) (leAt h 16 2) s).map fun es => l ++ [es]
    | _, _ => none) (some [])

/-- The requests for the contributions of every rank. -/
def askRanks (p : Nat) (g : Plan) (check : Bool) (b : Nat) (s : State) : State :=
  (List.range g.size).foldl (fun s r => askSlot p g (g.slotAt check b r) s) s

/-- Some value is ±∞ or NaN. -/
def nonFinite (es : Entries) : Bool := es.any fun e => !isFin32 e.2

/-- Writes a reduced slot or a dense output (13 R435, R436). -/
def writeReduced (p : Nat) (g : Plan) (b step attempt : Nat) (es : Entries) (s : State) : Option State :=
  let (base, o) := g.outAt b step
  let vals := (es.map fun e => bytesOf 4 e.2).flatten
  if g.dense then mlWrite p base o vals s
  else
    let vo := 0x20 + 2 * g.cap
    let head := bytesOf 4 b ++ bytesOf 2 es.length ++ bytesOf 1 (1 + 4 * bitOf (nonFinite es)) ++ bytesOf 1 attempt ++
      bytesOf 8 step ++ bytesOf 2 g.size ++ bytesOf 2 vo ++ bytesOf 4 (digestOf false es) ++ List.replicate 8 0
    ((mlWrite p base o head s).bind (mlWrite p base (o + 0x20) (es.map fun e => bytesOf 2 e.1).flatten)).bind
      (mlWrite p base (o + vo) vals)

/-- Digest and COUNT of the owner's bucket (13 R451). -/
def ownDigest (p : Nat) (g : Plan) (b step : Nat) (s : State) : Option (Nat × Nat) :=
  if g.dense then (mlRead p g.arrive (g.recAt false b) 32 s).map fun l => (leAt l 12 4, 4096)
  else (mlRead p (g.outAt b step).1 (g.outAt b step).2 32 s).map fun l => (leAt l 0x14 4, leAt l 4 2)

/-- The request for the digest of a bucket held: in its record, or in the header of its reduced slot. -/
def askDigest (p : Nat) (g : Plan) (member : Bool) (b step : Nat) (s : State) : State :=
  if g.dense then askRec p g member b s else mlAsk p (g.outAt b step).1 (g.outAt b step).2 32 false s

/-- Compares the checker's digest with the owner's bucket (13 R451); none = an access fails. -/
def compareDigest (p : Nat) (g : Plan) (d : Dig) (s : State) : Option State :=
  let s := askRec p g false d.bucket (askDigest p g false d.bucket d.step s)
  match ownDigest p g d.bucket d.step s, readHalf p g false 0 d.bucket d.step d.attempt s with
  | some own, some h =>
    if own = (d.digest, d.count) then
      let (base, o) := g.outAt d.bucket d.step
      match writeHalf p g false 0 d.bucket d.step d.attempt { h with digestOk := true } none s with
      | none => none
      | some s =>
        let s := addF bMill F.ML_CHECKED 1 s
        if g.dense then some s
        else (mlRead p base (o + 6) 1 s).bind fun l => mlWrite p base (o + 6) (bytesOf 1 (leAt l 0 1 ||| 2)) (mlAsk p base (o + 6) 1 false s)
    else
      let s := linkEvent bMill 3 (.part p) d.bucket (g.device (g.owner d.bucket)) (g.device (g.checker d.bucket))
        (addF bMill F.ML_MISMATCHES 1 s)
      some (ownCause p d.step d.attempt 0x04 s)
  | _, _ => none

/-- Sends a reduced bucket to every other rank (13 R450). -/
def returnBucket (p : Nat) (g : Plan) (b step attempt : Nat) (es : Entries) (s : State) : State :=
  (List.range g.size).foldl (fun s r =>
    if r = g.rank then s
    else
      match sendPacket p 3 (g.device r) (epochOf step attempt) b (bitOf g.dense * 2 ^ 15 + countOf g.dense es * 2 ^ 16)
          (b % 2 ^ 16) (entryData g.dense es) false none s with
      | (.no, s) => s
      | (_, s) => addF bMill F.ML_REDUCED_SENT 1 s) s

/-- The owner forms a reduced bucket once R contributions have arrived (13 R448, R450, R451); none = an access fails. -/
def formReduced (p : Nat) (g : Plan) (b step attempt : Nat) (s : State) : Option State :=
  let s := askRec p g false b (askRanks p g false b s)
  match readRanks p g false b s with
  | none => none
  | some l =>
    let es := foldRanks l
    match writeReduced p g b step attempt es s, readHalf p g false 0 b step attempt s with
    | some s, some h =>
      match writeHalf p g false 0 b step attempt { h with reduced := true }
          (if g.dense then some (digestOf true es) else none) s with
      | none => none
      | some s =>
        let s := addF bMill F.ML_BUCKETS_REDUCED 1 s
        let s := if g.ret then returnBucket p g b step attempt es s else s
        match (jobOf p s).digests.find? fun d => d.step == step && d.attempt == attempt && d.bucket == b with
        | none => some s
        | some d => compareDigest p g d (updJob p (fun j => { j with digests := removeFirst (fun x => x == d) j.digests }) s)
    | _, _ => none

/-- The checker folds its copies and sends its digest on route B (13 R451). A digest that could not leave is still owed. -/
def formDigest (p : Nat) (g : Plan) (b step attempt : Nat) (s : State) : Option State :=
  let s := askRec p g false b (askRanks p g true b s)
  match readRanks p g true b s, readHalf p g false 16 b step attempt s with
  | some l, some h =>
    let es := foldRanks l
    match sendPacket p 4 (g.device (g.owner b)) (epochOf step attempt) b (countOf g.dense es * 2 ^ 16) (b % 2 ^ 16)
        (bytesOf 4 (digestOf g.dense es)) true none s with
    | (.no, s) => some s
    | (_, s) => writeHalf p g false 16 b step attempt { h with reduced := true } none s
  | _, _ => none

/-- The requests with which the mill looks at the slot and the record of a contribution that has come. -/
def askContrib (p : Nat) (g : Plan) (check : Bool) (b rank : Nat) (s : State) : State :=
  askSlot p g (g.slotAt check b rank) (askRec p g false b s)

/-- What follows a stored contribution: the bucket or the digest is formed when it was the last (13 R448, R658). -/
def afterStore (p : Nat) (g : Plan) (check : Bool) (b step attempt n : Nat) (s : State) : State :=
  let s := addF bMill F.ML_CONTRIBS_RECEIVED 1 s
  if n = g.size then
    ((if check then formDigest p g b step attempt s else formReduced p g b step attempt s)).getD (workFailed p b step attempt s)
  else s

/-- A contribution unlike the one held (13 R447). -/
def differingCopy (p b rank step attempt : Nat) (s : State) : State :=
  ownCause p step attempt 0x03 (linkEvent bMill 2 (.part p) b rank 0 (addF bMill F.ML_MISMATCHES 1 s))

/-- The conditions of R445 on a CONTRIB packet, with the plan it belongs to. -/
def contribPlan (p : Nat) (k : Packet) (step : Nat) (s : State) : Option Plan :=
  let b := pkArg0 k
  let check := bit 13 (pkArg1 k)
  let dense := bit 15 (pkArg1 k)
  let count := bits 16 13 (pkArg1 k)
  (planFor p b s).filter fun g =>
    decide (pkArg1 k % 2 ^ 13 < g.size) && g.rank == (if check then g.checker b else g.owner b) &&
    (!check || g.sampled b step) && dense == g.dense && (dense || decide (count ≤ g.k)) &&
    (pkData k).length == dataLength dense count && ascending ((parseData dense count (pkData k)).map Prod.fst)

/-- A CONTRIB of an accepted epoch (13 R445, R447). The acknowledgement prefers the route of the packet (R427). -/
def takeContrib (p step attempt : Nat) (k : Packet) (port : Option Nat) (s : State) : State :=
  match contribPlan p k step s with
  | none => badPacket p k s
  | some g =>
    let b := pkArg0 k
    let rank := pkArg1 k % 2 ^ 13
    let check := bit 13 (pkArg1 k)
    let es := parseData g.dense (bits 16 13 (pkArg1 k)) (pkData k)
    let ack (s : State) : State :=
      (sendPacket p 2 (pkSrc k) (pkEpoch k) b (pkArg1 k % 2 ^ 14) (pkStream k) []
        (replyB p (pkSrc k) port (check != bit 14 (pkArg1 k)) s) none s).2
    let s := askContrib p g check b rank s
    match storeContrib p g check b rank step attempt es s with
    | .failed => badPacket p k s
    | .duplicate => ack (addF bMill F.ML_DUPLICATES 1 s)
    | .differs => differingCopy p b rank step attempt s
    | .kept n s => afterStore p g check b step attempt n (ack s)

/-- CONTRIB (13 R445). -/
def execContrib (s : State) : Host.Outcome State Fault Refusal :=
  .next (match takeKindAt 1 s with
    | none => s
    | some (x, s) =>
      settle x.part (match classify x.part (pkEpoch x.bytes) s with
        | .ok st a => takeContrib x.part st a x.bytes x.port s
        | .stale _ _ => stalePacket s
        | .bad _ _ => badPacket x.part x.bytes s))

/-! ### Acknowledgements (13 R442) -/

/-- CONTRIB_ACK (13 R442). -/
def execContribAck (s : State) : Host.Outcome State Fault Refusal :=
  .next (match takeKind 2 false s with
    | none => s
    | some (p, k, s) =>
      settle p (match classify p (pkEpoch k) s with
        | .ok st a =>
          updJob p (fun j => { j with pend := removeFirst (fun x =>
            x.step == st && x.attempt == a && x.bucket == pkArg0 k && x.check == bit 13 (pkArg1 k) && x.dst == pkSrc k) j.pend }) s
        | .stale _ _ => stalePacket s
        | .bad _ _ => badPacket p k s))

/-- Everything the mill still waits for on behalf of a task is given up; its peer pieces give their slots back. -/
def forgetTask (p croft uid : Nat) (s : State) : State :=
  let s := updJob p (fun j => { j with
    pend := j.pend.filter fun x => !(x.croft == croft && x.uid == uid)
    accs := j.accs.filter fun x => !(x.croft == croft && x.uid == uid) }) s
  updCroft croft (fun k => { k with
    pieces := k.pieces.map fun x => if x.uid = uid ∧ x.space = 2 then { x with served := true } else x }) s

/-- A task faults because of the exchange. -/
def failExchange (p croft uid code : Nat) (space addr : Nat) (s : State) : State :=
  forgetTask p croft uid (failTask croft uid ⟨code, 0, 0, space, addr, []⟩ s)

/-- CONTRIB_ACK_TIMEOUT (13 R442): once more on the other route, then LINK_LOST. -/
def execContribAckTimeout (p : PartId) (s : State) : Host.Outcome State Fault Refusal :=
  .next (match (jobOf p.val s).pend.find? fun x => decide (x.sent + jobUs F.ML_JOB_ACK_TIMEOUT_US p.val s ≤ s.time) with
    | none => s
    | some x =>
      if x.resent then failExchange p.val x.croft x.uid 0x0C 0 0 s
      else
        match sendPacket p.val 1 x.dst (epochOf x.step x.attempt) x.bucket (x.arg1 + 2 ^ 14) (x.bucket % 2 ^ 16) x.body
            (!x.routeB) (some (x.croft, x.uid)) s with
        | (.no, s) => failExchange p.val x.croft x.uid 0x0C 0 0 s
        | (w, s) =>
          let y : Pend := { x with resent := true, sent := s.time, routeB := w == .onB }
          addF bMill F.ML_RESENT 1 (addF bMill F.ML_CONTRIBS_SENT 1
            (updJob p.val (fun j => { j with pend := mapFirst (fun z => z == x) (fun _ => y) j.pend }) s)))

/-! ### Returned buckets and digests (13 R450, R451) -/

/-- A REDUCED of an accepted epoch. -/
def takeReduced (p step attempt : Nat) (k : Packet) (s : State) : State :=
  let b := pkArg0 k
  let dense := bit 15 (pkArg1 k)
  let count := bits 16 13 (pkArg1 k)
  let ok (g : Plan) : Bool :=
    g.ret && g.owner b != g.rank && pkSrc k == g.device (g.owner b) && dense == g.dense &&
    (dense || decide (count ≤ g.cap)) && (pkData k).length == dataLength dense count &&
    ascending ((parseData dense count (pkData k)).map Prod.fst)
  match (planFor p b s).filter ok with
  | none => badPacket p k s
  | some g =>
    let es := parseData dense count (pkData k)
    let s := askRec p g true b s
    match readHalf p g true 0 b step attempt s with
    | none => badPacket p k s
    | some h =>
      if h.reduced then
        let s := askDigest p g true b step s
        let held := if g.dense then (mlRead p g.arrive (g.recAt true b) 32 s).map fun l => leAt l 12 4
          else (mlRead p (g.outAt b step).1 (g.outAt b step).2 32 s).map fun l => leAt l 0x14 4
        match held with
        | none => badPacket p k s
        | some d =>
          if d = digestOf dense es then addF bMill F.ML_DUPLICATES 1 s
          else differingCopy p b (g.owner b) step attempt s
      else
        match (writeReduced p g b step attempt es s).bind
            (writeHalf p g true 0 b step attempt { h with reduced := true } (if dense then some (digestOf true es) else none)) with
        | some s => s
        | none => badPacket p k s

/-- REDUCED (13 R450). -/
def execReduced (s : State) : Host.Outcome State Fault Refusal :=
  .next (match takeKind 3 false s with
    | none => s
    | some (p, k, s) =>
      settle p (match classify p (pkEpoch k) s with
        | .ok st a => takeReduced p st a k s
        | .stale _ _ => stalePacket s
        | .bad _ _ => badPacket p k s))

/-- A DIGEST of an accepted epoch: compared at once when the owner's bucket is formed, else kept. -/
def takeDigest (p step attempt : Nat) (k : Packet) (s : State) : State :=
  let b := pkArg0 k
  match (planFor p b s).filter fun g => g.sampled b step && g.owner b == g.rank && (pkData k).length == 4 with
  | none => badPacket p k s
  | some g =>
    let d : Dig := ⟨step, attempt, b, leAt (pkData k) 0 4, bits 16 13 (pkArg1 k)⟩
    let s := askRec p g false b s
    match readHalf p g false 0 b step attempt s with
    | none => badPacket p k s
    | some h =>
      if h.digestOk then s
      else if h.reduced then (compareDigest p g d s).getD (badPacket p k s)
      else updJob p (fun j => { j with
        digests := (j.digests.filter fun x => !(x.step == step && x.attempt == attempt && x.bucket == b)) ++ [d] }) s

/-- DIGEST (13 R451). -/
def execDigest (s : State) : Host.Outcome State Fault Refusal :=
  .next (match takeKind 4 false s with
    | none => s
    | some (p, k, s) =>
      settle p (match classify p (pkEpoch k) s with
        | .ok st a => takeDigest p st a k s
        | .stale _ _ => stalePacket s
        | .bad _ _ => badPacket p k s))

/-! ### Peer memory (13 R429 to R431; 14 R472) -/

/-- Window offset and TAG of a peer access. -/
def pkOffset (k : Packet) : Nat := pkArg0 k + bits 0 7 (pkArg1 k) * 2 ^ 32
def pkTag (k : Packet) : Nat := bits 8 16 (pkArg1 k)
def pkError (k : Packet) : Bool := bit 31 (pkArg1 k)

/-- The space-0 address of an allowed window access of `n` bytes. -/
def windowAddr (p off n : Nat) (write : Bool) (s : State) : Option Nat :=
  if 1 ≤ n ∧ n ≤ 4096 ∧ off + n ≤ winSize p s ∧ mlF (if write then F.ML_JOB_WRITE_EN else F.ML_JOB_READ_EN) p s = 1
  then some (winBase p s + off) else none

/-- Answers a peer access. -/
def answerPeer (p kind : Nat) (k : Packet) (error : Bool) (data : List Byte) (s : State) : State :=
  (sendPacket p kind (pkSrc k) 0 (pkArg0 k) (pkArg1 k % 2 ^ 31 + bitOf error * 2 ^ 31) (pkStream k) data false none s).2

/-- A write of a peer into the window: plain, or a fold. -/
def windowWrite (p : Nat) (k : Packet) (fold : Bool) (s : State) : State :=
  let d := pkData k
  match windowAddr p (pkOffset k) d.length true s with
  | none => answerPeer p 9 k true [] s
  | some a =>
    let s := if fold then mlAsk p a 0 d.length false s else s
    let data : Option (List Byte) := if fold then (mlRead p a 0 d.length s).map (xorBytes d) else some d
    match data.bind fun l => mlWrite p a 0 l s with
    | some s => answerPeer p 9 k false [] s
    | none => answerPeer p 9 k true [] s

/-- MWRITE (13 R430). -/
def execMwrite (s : State) : Host.Outcome State Fault Refusal :=
  .next (match takeKind 8 false s with
    | none => s
    | some (p, k, s) => windowWrite p k false s)

/-- FOLD_WRITE (14 R472). -/
def execFoldWrite (s : State) : Host.Outcome State Fault Refusal :=
  .next (match takeKind 8 true s with
    | none => s
    | some (p, k, s) => windowWrite p k true s)

/-- The access that an answer belongs to. -/
def accOf (p kind : Nat) (k : Packet) (s : State) : Option PeerAcc :=
  (jobOf p s).accs.find? fun x => x.kind == kind && x.dst == pkSrc k && x.off == pkOffset k && x.tag == pkTag k

def dropAcc (p : Nat) (x : PeerAcc) (s : State) : State :=
  updJob p (fun j => { j with accs := removeFirst (fun y => y == x) j.accs }) s

/-- A space-2 address. -/
def peerAddr (x : PeerAcc) : Nat := x.dst * 2 ^ 39 + x.off

/-- The piece of an answered access may return (11 R348). -/
def servePeer (x : PeerAcc) (s : State) : State :=
  updCroft x.croft (fun k => { k with pieces := k.pieces.map fun q => if q.id = x.piece then { q with served := true } else q }) s

/-- Bytes of a peer write are acknowledged; when all are, the write is done. -/
def ackWrite (x : PeerAcc) (s : State) : State :=
  let hit (w : PeerWrite) : Bool :=
    w.uid == x.uid && decide (w.addr ≤ peerAddr x ∧ peerAddr x + x.len ≤ w.addr + w.data.length ∧ w.acked < w.data.length)
  updCroft x.croft (fun k => { k with
    peerOut := (mapFirst hit (fun w => { w with acked := w.acked + x.len }) k.peerOut).filter
      fun w => decide (w.acked < w.data.length) }) s

/-- MWRITE_ACK (13 R430, R431). -/
def execMwriteAck (s : State) : Host.Outcome State Fault Refusal :=
  .next (match takeKind 9 false s with
    | none => s
    | some (p, k, s) =>
      match accOf p 8 k s with
      | none => s
      | some x =>
        let s := servePeer x (dropAcc p x s)
        if pkError k then failExchange p x.croft x.uid 0x09 2 (peerAddr x) s
        else if x.fold then s else ackWrite x s)

/-- MREAD (13 R430). -/
def execMread (s : State) : Host.Outcome State Fault Refusal :=
  .next (match takeKind 10 false s with
    | none => s
    | some (p, k, s) =>
      let n := if (pkData k).length = 4 then leAt (pkData k) 0 4 else 0
      match windowAddr p (pkOffset k) n false s with
      | some a =>
        let s := mlAsk p a 0 n false s
        (match mlRead p a 0 n s with
         | some l => answerPeer p 11 k false l s
         | none => answerPeer p 11 k true [] s)
      | none => answerPeer p 11 k true [] s)

/-- Delivers read bytes to the task that asked for them. -/
def deliverRead (x : PeerAcc) (l : List Byte) (s : State) : State :=
  let hit (d : PeerData) : Bool :=
    d.uid == x.uid && decide (d.addr ≤ peerAddr x ∧ peerAddr x + x.len ≤ d.addr + d.len) &&
    !(d.parts.any fun q => q.1 == peerAddr x - d.addr)
  updCroft x.croft (fun k => { k with
    peerIn := mapFirst hit (fun d => { d with parts := d.parts ++ [(peerAddr x - d.addr, l)] }) k.peerIn }) s

/-- MREAD_DATA (13 R430, R431). -/
def execMreadData (s : State) : Host.Outcome State Fault Refusal :=
  .next (match takeKind 11 false s with
    | none => s
    | some (p, k, s) =>
      match accOf p 10 k s with
      | none => s
      | some x =>
        if pkError k then failExchange p x.croft x.uid 0x09 2 (peerAddr x) (servePeer x (dropAcc p x s))
        else if (pkData k).length ≠ x.len then s
        else deliverRead x (pkData k) (servePeer x (dropAcc p x s)))

/-- PEER_ACCESS_TIMEOUT (13 R431). -/
def execPeerAccessTimeout (p : PartId) (s : State) : Host.Outcome State Fault Refusal :=
  .next (match (jobOf p.val s).accs.find? fun x => decide (x.sent + jobUs F.ML_JOB_ACK_TIMEOUT_US p.val s ≤ s.time) with
    | none => s
    | some x =>
      failExchange p.val x.croft x.uid 0x0C 0 0
        (lossRepeat p.val (servePeer x (dropAcc p.val x (addF bMill F.ML_LOST_PACKETS 1 s)))))

/-! ### Loading the job's tables (13 R427, R428, R432) -/

/-- TABLE_BASE of a job. -/
def tableBase (p : Nat) (s : State) : Nat := mlF F.ML_JOB_TABLE_BASE_LO p s + mlF F.ML_JOB_TABLE_BASE_HI p s * 2 ^ 32

/-- A BASE-encoded address in space 0 or 3. -/
def mlAddrOk (a : Nat) : Bool := decide (a < 2 ^ 54) && (spaceOf a == 0 || spaceOf a == 3)

/-- `n` bytes at a BASE-encoded address, a multiple of 32 as a bolt's BASE is (02 R65, R73), lie in the job's partition (13 R435).
Ranges end at multiples of 2¹⁵ bytes in memory, so that the ends of each 64 MiB decide. -/
def mlRegionOk (p a n : Nat) (s : State) : Bool :=
  mlAddrOk a && a % 32 == 0 &&
  (if spaceOf a = 0 then
    (cut (2 ^ 26) (addrOf a) n).all fun c => reach0 p c.1 1 s && reach0 p (c.1 + c.2 - 1) 1 s
   else (place3 p none (addrOf a) n s).isSome)

/-- The regions of a plan lie in the job's partition (13 R435). -/
def Plan.regionsOk (p : Nat) (g : Plan) (s : State) : Bool :=
  let out := if g.dense then 16384 * g.count else g.outSlot * g.count
  mlRegionOk p g.out0 out s && mlRegionOk p g.out1 out s &&
  mlRegionOk p g.arrive (32 * (g.most + if g.ret then g.count else 0)) s &&
  mlRegionOk p g.store (g.most * g.size * g.slotSize) s &&
  (!g.checkEn || mlRegionOk p g.check (g.most * g.size * g.slotSize) s)

/-- A group of the table: none = not VALID, some none = refused, else R, this rank and the devices. -/
def loadJobGroup (p : Nat) (l : List Byte) (s : State) : Option (Option (Nat × Nat × List Nat)) :=
  if !bit 0 (leAt l 4 1) then none
  else
    let r := leAt l 0 2
    let ok := decide (1 ≤ r ∧ r ≤ 8192 ∧ leAt l 2 2 < r ∧ leAt l 4 1 < 2) && zeroAt l 5 3 && zeroAt l 0x10 16 && mlAddrOk (leAt l 8 8)
    match ok, mlRead p (leAt l 8 8) 0 (2 * r) s with
    | true, some d =>
      let ds := (List.range r).map fun i => leAt d (2 * i) 2
      some (if ds.all fun x => decide (x < 8192) then some (r, leAt l 2 2, ds) else none)
    | _, _ => some none

/-- A plan of the table: none = not VALID, some none = refused. -/
def loadPlan (p : Nat) (s : State) (gs : List (Option (Option (Nat × Nat × List Nat)))) (l : List Byte) : Option (Option Plan) :=
  let f := leAt l 9 1
  if !bit 0 f then none
  else
    let dense := bit 1 f
    let k := leAt l 0xA 2
    let count := leAt l 4 4
    match (gs[leAt l 8 1]?).join.join with
    | none => some none
    | some (r, mine, ds) =>
      let slot := leAt l 0x20 4
      let ok := count % 4 == 0 && decide (4 ≤ count ∧ leAt l 0 4 + count ≤ 2 ^ 32 ∧ 1 ≤ leAt l 0xC 2) &&
        (if dense then k == 0 else decide (16 ≤ k ∧ k ≤ 4096) && k % 16 == 0) &&
        zeroAt l 0xE 2 && zeroAt l 0x24 4 &&
        (dense || (slot % 32 == 0 && decide (32 + 6 * min 4096 (r * k) ≤ slot))) &&
        (bit 3 f || zeroAt l 0x38 8)
      let g : Plan := ⟨leAt l 0 4, count, dense, bit 2 f, bit 3 f, bits 4 4 f, k, leAt l 0xC 2, leAt l 0x10 8,
        leAt l 0x18 8, slot, leAt l 0x28 8, leAt l 0x30 8, leAt l 0x38 8, r, mine, ds⟩
      some (if ok && g.regionsOk p s then some g else none)

/-- A route entry meets R428. -/
def routeOk (p e : Nat) (s : State) : Bool :=
  let a := e % 2 ^ 32
  let b := e / 2 ^ 32
  let own (r : Nat) : Bool := !bit 18 r || ownerOf (bPort (bits 0 4 r)) s == some p
  own a && own b && !(bit 18 a && bit 18 b && bits 0 4 a == bits 0 4 b)

/-- The block as read and checked: children, plans, routes. -/
def loadBlock (p : Nat) (s : State) : Option (List Nat × List (Option Plan) × SMap Nat) :=
  if spaceOf (tableBase p s) ≠ 0 then none
  else match mlRead p (tableBase p s) 0 0x1240 s, mlRead p (tableBase p s) 0x1240 65536 s with
    | some l, some r =>
      let gs := (List.range 16).map fun i => loadJobGroup p ((l.drop (0x40 + 32 * i)).take 32) s
      let ps := (List.range 64).map fun i => loadPlan p s gs ((l.drop (0x240 + 64 * i)).take 64)
      let rs : SMap Nat := ((List.range 8192).zip (chunksOf 8 8193 r)).filterMap fun e =>
        if leAt e.2 0 8 = 0 then none else some (e.1, leAt e.2 0 8)
      if gs.all (fun g => g != some none) && ps.all (fun g => g != some none) && rs.all fun e => routeOk p e.2 s then
        some ((List.range 16).map fun i => leAt l (2 * i) 2, ps.map Option.join, rs)
      else none
    | _, _ => none

/-- Takes the tables that a table block gives, or refuses it and leaves the job disabled. -/
def installJob (p : Nat) (o : Option (List Nat × List (Option Plan) × SMap Nat)) (s : State) : State :=
  match o with
  | some (kids, plans, routes) =>
    updJob p (fun j => { j with loaded := true, kids := kids, plans := plans, routes := routes }) s
  | none =>
    millFault p (updJob p (fun j => { j with loaded := false, kids := [], plans := [], routes := [] }) (writeJobEnable p 0 s))

/-- The requests for the device lists of the groups of a table block that was read. -/
def askPlans (p : Nat) (o : Option (List Byte)) (s : State) : State :=
  match o with
  | none => s
  | some l => (List.range 16).foldl (fun s i =>
      if bit 0 (leAt l (32 * i + 4) 1) ∧ leAt l (32 * i) 2 ≤ 8192 ∧ mlAddrOk (leAt l (32 * i + 8) 8) then
        mlAsk p (leAt l (32 * i + 8) 8) 0 (2 * leAt l (32 * i) 2) false s
      else s) s

/-- The requests for a table block and for the device lists of its groups. -/
def askBlock (p : Nat) (s : State) : State :=
  let t := tableBase p s
  let s := mlAsk p t 0x1240 65536 false (mlAsk p t 0 0x1240 false s)
  askPlans p (mlRead p t 0x40 512 s) s

/-- A write of RELOAD (13 R432). -/
def reloadJob (p : Nat) (s : State) : State :=
  if spaceOf (tableBase p s) = 0 then installJob p (loadBlock p s) (askBlock p s) else installJob p (loadBlock p s) s

/-- RELOAD (13 R432): written only while the job is at rest. -/
def execReload (p : PartId) (s : State) : Host.Outcome State Fault Refusal :=
  .next (if jobAtRest p.val s then reloadJob p.val s else s)

end Sys2Proof.Machine
end

