-- ==== Sys2Proof/Machine/Complete.lean ====
section
/-!
DEFINITION. The end of a task: TASK_COMPLETE (03 R87, R89) and ABANDON_STOP (03 R100; 04 R143; 05 R170; 08 R271; 11 R375,
R383).
-/
namespace Sys2Proof.Machine

/-- The croft hums from now on when it runs no task and is not stopped (12 R405, 15 R502). -/
def humFrom (c : Nat) (s : State) : State := setHum c (if hums c s then some s.time else none) s

/-- Destination tiles, 64 KiB blocks or records that a shuttle or picker task has done (11 R383). -/
def pointOf (c : Nat) (t : Task) (s : State) : Nat :=
  match (croftOf c s).work.find? fun w => decide (w.uid = t.uid) with
  | some w => w.next
  | none => match endingOf c t.uid s with | some e => e.done | none => 0

/-- An abandoned task's transfers issue no further pieces (11 R383). -/
def haltTraffic (c uid : Nat) (s : State) : State :=
  updCroft c (fun k => { k with
    xfers := k.xfers.filter fun x => decide (x.uid ≠ uid)
    streams := k.streams.map fun e => (e.1, e.2.map fun x => if x.uid = uid then { x with next := x.len * x.rows } else x) }) s

/-- Frees the slot of an abandoned task: no DONE_TALLY addition, and its end carries the status abandoned. -/
def freeAbandoned (c : Nat) (t : Task) (s : State) : State :=
  let s := if unitOf (dOpcode t.desc) = 4 ∨ unitOf (dOpcode t.desc) = 5 then setF (bCroft c) F.SH_ABANDON_POINT (pointOf c t s) s else s
  let s := match contextOf c s with
    | some p => forgetTask p c t.uid s
    | none => s
  humFrom c (endOfTask t.cmd 0x07 0 (abandonTask c t s))

/-- A task whose work is done has no boundary left to stop at: it completes (03 R100; 08 R271). Nor has an in-place COPY that
has begun to write (11 R375). -/
def pastAbandon (c : Nat) (t : Task) (s : State) : Bool := t.worked || !(firmOf c t.uid s).isEmpty

/-- The output of a product task whose writes have drained. -/
def endingWork (t : Task) (e : Ending) (x : TCtx) : TM Unit :=
  match e.gz, e.lm with
  | some g, _ => gzWrite t.desc g x
  | none, some g => lmWrite t.desc g x
  | none, none => pure ()

/-- The end of a task with an Ending: an abandoned in-place COPY ends as abandoned now (11 R375); the output of a product task takes
effect, whose transfers, peer writes and draws went before (04 R142; 05 R170; log entry 62). -/
def endTask (c : Nat) (t : Task) (e : Ending) (p : Nat) (s : State) : State :=
  if t.abandon && !e.firm.isEmpty then freeAbandoned c t s
  else match endingWork t e (ctxOf c t p) s with
    | .ok _ s' =>
      let k := croftOf c s
      humFrom c (completeTask c t
        (updCroft c (fun x => { x with peerOut := k.peerOut, spin := k.spin }) (namedBefore c t.uid true s s')))
    | .error (.fault f) _ => failTask c t.uid f s
    | .error (.poison f) _ => failTask c t.uid f s
    | .error (.tag f) _ => failTask c t.uid f s
    | .error (.park _ _) _ => s

/-- TASK_COMPLETE (03 R87): the oldest task of the unit class that has done its work, once its writes are visible. -/
def execTaskComplete (c : CroftId) (u : Fin 7) (s : State) : Host.Outcome State Fault Refusal :=
  .next (match completable c.val u.val s with
    | none => s
    | some t =>
      match endingOf c.val t.uid s, contextOf c.val s with
      | some e, some p => endTask c.val t e p s
      | _, _ => humFrom c.val (completeTask c.val t s))

/-- The stop of an abandoned task at its boundary; nothing happens before it. -/
def stopAbandoned (c : Nat) (t : Task) (s : State) : State :=
  if pastAbandon c t s then s
  else match ((croftOf c s).gz.filter fun g => g.uid == t.uid), ((croftOf c s).loom.filter fun g => g.uid == t.uid) with
    | some g, _ =>
      let g := gzGiveUp g
      if gzQuiet g && drained c t.uid s then freeAbandoned c t (gzAbandon c t g s) else s
    | none, some g =>
      if g.slotsA.isEmpty && g.slotsB.isEmpty && drained c t.uid s then freeAbandoned c t (lmAbandon c t g s) else s
    | none, none =>
      let s := haltTraffic c t.uid s
      if (croftOf c s).pieces.any fun p => decide (p.uid = t.uid) then s else freeAbandoned c t s

/-- ABANDON_STOP (03 R100). -/
def execAbandonStop (c : CroftId) (u : Fin 7) (s : State) : Host.Outcome State Fault Refusal :=
  .next (match (croftOf c.val s).queue.find? fun t =>
      t.phase == .running && t.abandon && unitOf (dOpcode t.desc) == u.val with
    | some t => stopAbandoned c.val t s
    | none => s)

end Sys2Proof.Machine
end

