-- ==== Sys2Proof/Machine/Lookout.lean ====
section
/-!
DEFINITION. The lookout (05 R173 to R182): LOOKOUT in its select form or bypassed, and LOOKOUT_COUNT.
-/
namespace Sys2Proof.Machine

def lkLayer (d : Desc) : Nat := dF 0x24 2 d
def lkKeep (d : Desc) : Nat := dF 0x26 2 d
def lkRecall (d : Desc) : Nat := dF 0x28 1 d

/-- The layer's LK_ENABLE and LK_VALID bits are both 1 (05 R173). -/
def lkOn (c layer : Nat) (s : State) : Bool :=
  let b (f : Field) : Bool := bit (layer % 32) (getF (bCroft c) (f.at (layer / 32)) s)
  b F.LK_ENABLE && b F.LK_VALID

/-- A score as a number to compare: none for NaN, which ranks below every number (05 R177). -/
def scoreOf (p : Nat) : Option Int := if isNan32 p then none else some (posOf p)

/-- a ranks above b: larger first. -/
def scoreAbove (a b : Option Int) : Bool :=
  match a, b with
  | some x, some y => decide (y < x)
  | some _, none => true
  | none, _ => false

/-- The `q` indices with the largest scores, ties to the lower index, in ascending index (05 R177). -/
def topIndices (q : Nat) (l : List (Option Int)) : List Nat :=
  let ranked := sortBy (fun a b => !scoreAbove b.2 a.2) ((List.range l.length).zip l)
  let chosen := (ranked.take q).map Prod.fst
  (List.range l.length).filter fun i => chosen.contains i

/-- The largest of scores; NaN only when every one is NaN. -/
def scoreMax (l : List (Option Int)) : Option Int :=
  l.foldl (fun m x => if scoreAbove x m then x else m) none

/-! ### Writing a selection (05 R178) -/

/-- Sets the mask bits of group `g` in the rows of neuron tile `u`: MASK1 element 128·r + c of SEL's tile (g div 128, u),
c = g mod 128; other bits keep their values. -/
def writeSel (x : TCtx) (sel : Bolt) (u g live : Nat) (chosen : List Nat) : TM Unit := do
  let t := sel.tileAt (g / 128) u
  let a := addrOf sel.base + sel.denseAt t + g % 128 / 8
  let old ← tReadRows (x.values sel) 0x20 (spaceOf sel.base) a 1 live 16
  let new := ((List.range live).zip old).map fun e =>
    [BitVec.ofNat 8 (setBits (g % 8) 1 (bitOf (chosen.contains e.1)) ((e.2.headD 0).toNat))]
  tWriteRows (x.values sel) 0x20 (spaceOf sel.base) a 16 new

/-- Writes the fetch record of (u, g): the selected indices, then 0xFFFF (05 R178). -/
def writeFetch (x : TCtx) (fetch : Bolt) (units u g : Nat) (chosen : List Nat) : TM Unit :=
  tWriteAt (x.values fetch) 0x20 fetch.base (256 * (g * units + u))
    (((chosen ++ List.replicate (128 - chosen.length) 0xFFFF).take 128).map (bytesOf 2)).flatten

/-- Pairs of local neuron tiles and token groups of a selection tensor. -/
def selPairs (sel : Bolt) (groups : Nat) : List (Nat × Nat) :=
  ((List.range (sel.ext 1)).map fun u => (List.range groups).map fun g => (u, g)).flatten

/-- Local token groups a selection tensor holds. -/
def selGroups (sel : Bolt) : Nat := min (128 * sel.ext 0) (sel.dim 0 - 128 * sel.start 0)

/-- Live neurons of local neuron tile `u`. -/
def selLive (sel : Bolt) (u : Nat) : Nat := min 128 (sel.dim 1 - 128 * (sel.start 1 + u))

/-- The two bolts of the selection: MASK1 and IDX16 (05 R178; 02 R47; another rank: log entry 61). -/
def readSel (x : TCtx) (d : Desc) : TM (Bolt × Bolt) := do
  tCheck (dF 0x20 4 d != noBolt) 0x08 0x20 0
  let sel ← readBolt x 0x20 (dF 0x20 4 d)
  let fetch ← readBolt x 0x20 (dF 0x20 4 d + 1)
  tCheck (!sel.sparse && sel.rank == 2 && fetch.rank == 1) 0x08 0x20 0
  tCheck (sel.fmt == 9 && fetch.fmt == 11) 0x05 0x20 0
  pure (sel, fetch)

/-- The bypassed run (05 R173): every live neuron selected, a full fetch list. -/
def lkBypass (x : TCtx) (sel fetch : Bolt) : TM Unit := do
  (selPairs sel (selGroups sel)).forM fun e => do
    let all := List.range (selLive sel e.1)
    writeSel x sel e.1 e.2 (selLive sel e.1) all
    writeFetch x fetch (sel.units 1) e.1 e.2 all
  tUpd (addF (bCroft x.croft) F.LK_BYPASSED 1)

/-! ### The predictor (05 R175) -/

/-- One product tile over a reduction list, as FP32 readouts: `a` and `b` give the operands by reduction tile, group size
by class; rows × cols cells. -/
def predict (size rows cols : Nat) (tiles : List (Nat × List GzEntry × (Nat → Nat → Val))) : SMap Cell :=
  tiles.foldl (fun m t =>
    (byKey ((tileSums size (128 * t.1) t.1 0 cols t.2.2 (t.2.1.filter fun e => decide (e.out < rows))).map Prod.fst)).foldl
      (fun m g => accFold 128 g m) m) []

/-- Entries of a dense tile as a stationary or streamed operand. -/
def denseEntries (rows reds : Nat) (a : Array (Array Val)) : List GzEntry :=
  ((List.range rows).map fun r => (List.range reds).map fun j => (⟨r, j, valAt a r j⟩ : GzEntry)).flatten

/-- Both looms run the slots of a product tile that hold a live element; the others of its 64 are skipped (05 R155, R157, R183). -/
def lkSlots (c rows cols reds : Nat) (s : State) : State :=
  let n := (liveBlocks rows).length * (liveBlocks cols).length * (liveBlocks reds).length
  addF (bCroft c) F.LM_SLOTS_RUN n (addF (bCroft c) F.LM_SLOTS_SKIPPED (64 - n)
    (addUnits (bCroft c) F.LM_USEFUL (rows * cols * reds) s))

/-- Reads a whole tile of a tensor that is not sparse. -/
def readDense (x : TCtx) (operand : Nat) (b : Bolt) (t : Nat) : TM (Array (Array Val)) :=
  readTwill x operand b t (b.denseAt t) 0 128 0 128

/-- Scores of local neuron tile `u` for token column tile `n`: FP32 patterns by row and column. -/
def lkScores (x : TCtx) (xb v u : Bolt) (ut n : Nat) : TM (Nat × Nat × SMap Cell) := do
  let size := if class8 xb.fmt then 8 else 4
  let cols := xb.liveCols (xb.tileAt n 0)
  let rank := min 128 (v.dim 1)
  let hs ← (List.range (min (v.ext 0) (xb.ext 1))).mapM fun k => do
    let va ← readDense x 0x1C v (v.tileAt k 0)
    let xa ← readDense x 0x18 xb (xb.tileAt n k)
    let reds := min (v.liveCols (v.tileAt k 0)) (xb.liveRows (xb.tileAt n k))
    tUpd (lkSlots x.croft rank cols reds)
    pure (v.gcol (v.tileAt k 0), denseEntries rank reds va, valAt xa)
  let h := predict size rank cols hs
  let hv (r j : Nat) : Val := decode 3 (convert 3 (ofPat (readout (accGet h (128 * r + j)))) .near).code
  let ua ← readDense x 0x1C u (u.tileAt 0 ut)
  let rows := u.liveRows (u.tileAt 0 ut)
  tUpd (lkSlots x.croft rows cols (min rank (u.liveCols (u.tileAt 0 ut))))
  let m := predict 8 rows cols [(0, denseEntries rows (min rank (u.liveCols (u.tileAt 0 ut))) ua, hv)]
  pure (rows, cols, m)

/-- Selection of one neuron tile in one 64-column group (05 R177). -/
def lkSelect (keep rows cols g : Nat) (m : SMap Cell) : List Nat :=
  let lo := 64 * g
  let n := min 64 (cols - lo)
  topIndices (cdiv (keep * rows) 1024)
    ((List.range rows).map fun r => scoreMax ((List.range n).map fun j => scoreOf (readout (accGet m (128 * r + lo + j)))))

/-- Local elements of a vector. -/
def vecLen (b : Bolt) : Nat := min (128 * b.ext 0) (b.dim 0 - 128 * b.start 0)

/-- The selection tensor holds the first `tiles` local neuron tiles of the first `groups` token groups, and the fetch list
their records, of which a token group has `units` (05 R178; 03 R93; the fault of tensors that are too short: log entry 61). -/
def selCovers (sel fetch : Bolt) (tiles groups units : Nat) : Bool :=
  decide (tiles ≤ sel.ext 1) && decide (groups ≤ selGroups sel) &&
  (tiles == 0 || groups == 0 || decide (128 * ((groups - 1) * units + tiles) ≤ vecLen fetch))

/-- Token groups of local token columns [0, n). -/
def sampleGroups (n : Nat) : Nat := cdiv n 64

/-- Local live columns of a tensor, over all its tile columns. -/
def localCols (b : Bolt) : Nat := min (128 * b.ext 0) (b.dim 0 - 128 * b.start 0)

/-- The start of the select form: its checks, then a run with one piece for each neuron tile and token column tile, which is
scored, and one more that writes the selection; the first datum is 0 when the layer is bypassed (05 R173, R175 to R178). -/
def lkBegin (d : Desc) (x : TCtx) : TM Unit := do
  tCheck (dF 0x18 4 d != noBolt) 0x08 0x18 0
  let xb ← readBolt x 0x18 (dF 0x18 4 d)
  tCheck (dF 0x1C 4 d != noBolt) 0x08 0x1C 0
  let v ← readBolt x 0x1C (dF 0x1C 4 d)
  let u ← readBolt x 0x1C (dF 0x1C 4 d + 1)
  let (sel, fetch) ← readSel x d
  tCheck (!xb.sparse && xb.rank == 2 && !xb.sharded 1) 0x08 0x18 0
  tCheck (!v.sparse && v.rank == 2 && v.fmt == 8 && !u.sparse && u.rank == 2 && u.fmt == 8 &&
    v.dim 0 == xb.dim 1 && u.dim 0 == v.dim 1 && decide (u.dim 0 ≤ 128)) 0x08 0x1C 0
  tCheck (decide (lkLayer d < 256)) 0x08 0x24 0
  tCheck (lkRecall d == 0xFF) 0x08 0x28 0
  tCheck (productFmt xb.fmt) 0x05 0x18 0
  if [xb, v, u, sel, fetch].any Bolt.empty then tUpd (markWorked x.croft x.uid)
  else
    let on := lkOn x.croft (lkLayer d) (← get)
    tCheck (if on then selCovers sel fetch (u.ext 1) (sampleGroups (localCols xb)) (u.units 1)
      else selCovers sel fetch (sel.ext 1) (selGroups sel) (sel.units 1)) 0x08 0x20 0
    tUpd (putWork x.croft (.start x.uid [some xb, some v, some u, some sel, some fetch] [bitOf on]
      (if on then u.ext 1 * xb.ext 0 + 1 else 1)))

/-- A selected set in a run's data: neuron tile, token group, number of neurons, their indices. -/
def packChosen (u g : Nat) (l : List Nat) : List Nat := u :: g :: l.length :: l

/-- The selected sets that a run's data hold; `fuel` bounds them. -/
def chosenSets : Nat → List Nat → List (Nat × Nat × List Nat)
  | fuel + 1, u :: g :: n :: l => (u, g, l.take n) :: chosenSets fuel (l.drop n)
  | _, _ => []

/-- The next piece of the select form: the scores of a neuron tile for a token column tile, or, when nothing that the task has
read can still come back with an error, the writing of the whole selection (05 R170, R175 to R178). -/
def lkPiece (d : Desc) (w : WorkRun) (x : TCtx) : TM Unit := do
  match w.bolts with
  | [some xb, some v, some u, some sel, some fetch] =>
    if w.next + 1 < w.count then
      let ut := w.next / xb.ext 0
      let n := w.next % xb.ext 0
      let (rows, cols, m) ← lkScores x xb v u ut n
      let sets := ((List.range (cdiv cols 64)).map fun g => packChosen ut (2 * n + g) (lkSelect (lkKeep d) rows cols g m)).flatten
      tUpd (pieceDone x.croft { w with data := w.data ++ sets })
    else if drained x.croft x.uid (← get) then
      if w.data.headD 0 = 0 then lkBypass x sel fetch
      else
        (chosenSets w.data.length (w.data.drop 1)).forM fun e => do
          writeSel x sel e.1 e.2.1 (min (selLive sel e.1) (u.liveRows (u.tileAt 0 e.1))) e.2.2
          writeFetch x fetch (u.units 1) e.1 e.2.1 e.2.2
      tUpd (pieceDone x.croft w)
    else pure ()
  | _ => tUpd (pieceDone x.croft w)

/-! ### Recall (05 R181, R182) -/

/-- Selection bits of neuron tile `u` in group `g`. -/
def readSelBits (x : TCtx) (sel : Bolt) (u g live : Nat) : TM (List Bool) := do
  let t := sel.tileAt (g / 128) u
  let old ← tReadRows (x.values sel) 0x20 (spaceOf sel.base) (addrOf sel.base + sel.denseAt t + g % 128 / 8) 1 live 16
  pure (old.map fun l => bit (g % 8) (l.headD 0).toNat)

/-- TRUE and HITS of one neuron tile and one column. -/
def recallOf (bits_ : List Bool) (vals : List (Option Int)) : Nat × Nat :=
  let p := (bits_.filter id).length
  let top := topIndices p vals
  (top.length, (top.filter fun i => (bits_[i]?).getD false).length)

/-- Pre-activations compare as FP32 values do. -/
def valScore (v : Val) : Option Int :=
  match v with
  | .nan => none
  | .inf s => some (if s then -(2 ^ 600) else 2 ^ 600)
  | .fin s m e => some ((if s then -1 else 1) * ((m * 2 ^ (e + 300).toNat : Nat) : Int))

/-- Adds a count into a 32-bit field of the recall table, saturating. -/
def addRecall (c off n : Nat) (s : State) : State :=
  larderWrite c off (bytesOf 4 (satAdd 32 (leAt (larderRead c off 4 s) 0 4) n)) s

/-- Token group of column `j` of tile column `n` of the sampled pre-activations (05 R181). -/
def sampledGroup (d : Desc) (n j : Nat) : Nat := (128 * n + j) * 2 ^ lkRecall d / 64

/-- The start of the count form: its checks, then a run with one piece for each token column tile and one more that counts; the
first datum is 0 when the layer is bypassed, then SAMPLED, TRUE and HITS so far (05 R181, R182; the faults of P_BOLT and RECALL_S: log entry
61). -/
def lkCountBegin (d : Desc) (x : TCtx) : TM Unit := do
  tCheck (dF 0x18 4 d != noBolt) 0x08 0x18 0
  let xb ← readBolt x 0x18 (dF 0x18 4 d)
  let (sel, fetch) ← readSel x d
  tCheck (!xb.sparse && xb.rank == 2) 0x08 0x18 0
  tCheck (dF 0x1C 4 d == noBolt) 0x08 0x1C 0
  tCheck (decide (lkLayer d < 256)) 0x08 0x24 0
  tCheck (decide (lkRecall d ≤ 16)) 0x08 0x28 0
  tCheck (outputFmt xb.fmt) 0x05 0x18 0
  if xb.empty || sel.empty || fetch.empty then tUpd (markWorked x.croft x.uid)
  else
    let on := lkOn x.croft (lkLayer d) (← get)
    let last := sampledGroup d 0 (localCols xb - 1)
    tCheck (if on then decide (xb.ext 1 ≤ sel.ext 1) && decide (last < selGroups sel)
      else selCovers sel fetch (sel.ext 1) (selGroups sel) (sel.units 1)) 0x08 0x20 0
    tUpd (putWork x.croft (.start x.uid [some xb, some sel, some fetch] [bitOf on, 0, 0, 0] (if on then xb.ext 0 + 1 else 1)))

/-- SAMPLED, TRUE and HITS of token column tile `n` of the pre-activations (05 R181). -/
def lkTally (d : Desc) (x : TCtx) (xb sel : Bolt) (n : Nat) : TM (Nat × Nat × Nat) := do
  let nc := xb.liveCols (xb.tileAt n 0)
  let (t, h) ← (List.range (xb.ext 1)).foldlM (fun (a : Nat × Nat) u => do
    let xa ← readDense x 0x18 xb (xb.tileAt n u)
    let live := min (selLive sel u) (xb.liveRows (xb.tileAt n u))
    (List.range nc).foldlM (fun (a : Nat × Nat) j => do
      let b ← readSelBits x sel u (sampledGroup d n j) live
      let (t, h) := recallOf b ((List.range live).map fun r => valScore (valAt xa r j))
      pure (a.1 + t, a.2 + h)) a) (0, 0)
  pure (nc, t, h)

/-- The counts of a count-form task go to the recall table, the registers and, below the floor, an event (05 R182; its subtype
and payload: log entry 11). -/
def lkRecord (d : Desc) (c cols true_ hits : Nat) (s : State) : State :=
  let p := bCroft c
  let e := getF p F.LK_RECALL_BASE s + 16 * lkLayer d
  let s := addRecall c e cols (addRecall c (e + 4) true_ (addRecall c (e + 8) hits s))
  let s := addF p F.LK_SAMPLED cols (addF p F.LK_TRUE true_ (addF p F.LK_HITS hits s))
  if flag p F.LK_CTRL_RECALL_EVENT s && decide (256 * hits < getF p F.LK_CTRL_RECALL_FLOOR s * true_) then
    raise p 0x06 0 (ownerScope p s) false (lkLayer d + true_ % 2 ^ 32 * 2 ^ 32 + hits % 2 ^ 32 * 2 ^ 64) s
  else s

/-- The next piece of the count form. -/
def lkCountPiece (d : Desc) (w : WorkRun) (x : TCtx) : TM Unit := do
  match w.bolts with
  | [some xb, some sel, some fetch] =>
    if w.next + 1 < w.count then
      let (n, t, h) ← lkTally d x xb sel w.next
      tUpd (pieceDone x.croft { w with data := [nth w.data 0, nth w.data 1 + n, nth w.data 2 + t, nth w.data 3 + h] })
    else if drained x.croft x.uid (← get) then
      if w.data.headD 0 = 0 then lkBypass x sel fetch
      else tUpd (lkRecord d x.croft (nth w.data 1) (nth w.data 2) (nth w.data 3))
      tUpd (pieceDone x.croft w)
    else pure ()
  | _ => tUpd (pieceDone x.croft w)

/-- A select-form task gives the looms up between its product tiles to one that a gauze task has lent (04 R137, R655). -/
def lkGivesWay (c : Nat) (s : State) : Bool :=
  gauzeWaits c s && match workOf c opLookout s with | some (_, w) => decide (w.next + 1 < w.count) | none => false

/-- LOOKOUT (05 R175): a LOOKOUT task with KEEP = 1 to 1,024. -/
def execLookout (c : CroftId) (s : State) : Host.Outcome State Fault Refusal :=
  .next (if lkGivesWay c.val s then s else unitRow c.val opLookout (fun d => lkKeep d != 0) lkBegin lkPiece s)

/-- LOOKOUT_COUNT (05 R181): a LOOKOUT task with KEEP = 0. -/
def execLookoutCount (c : CroftId) (s : State) : Host.Outcome State Fault Refusal :=
  .next (unitRow c.val opLookout (fun d => lkKeep d == 0) lkCountBegin lkCountPiece s)

end Sys2Proof.Machine
end

