-- ==== Sys2Proof/Machine/Function.lean ====
section
/-!
DEFINITION. The function unit (07 R217 to R244): table slots, segment selection, evaluation, saves and dropout, and
the commands FN_FWD and FN_DERIV, a tile a piece.
-/
namespace Sys2Proof.Machine

/-! ### Spans (02 R49; 07 R221) -/

/-- Bytes a task touches: space, first byte, end. Larder and granary addresses count as the places they name. -/
structure Span where
  space : Nat
  lo : Nat
  hi : Nat
deriving DecidableEq, Repr

def Span.meets (a b : Span) : Bool :=
  a.space == b.space && decide (a.lo < a.hi ∧ b.lo < b.hi) && decide (a.lo < b.hi ∧ b.lo < a.hi)

/-- The span of `n` bytes at a BASE-encoded address and offset. -/
def spanAt (x : TCtx) (base off n : Nat) (s : State) : Span :=
  let a := addrOf base + off
  if spaceOf base = 3 then
    match place3 x.part (some x.croft) a 1 s with
    | some p => ⟨3, p, p + n⟩
    | none => ⟨3, a, a + n⟩
  else ⟨spaceOf base, a, a + n⟩

/-- The spans of the values of tiles [t, t + n) of a tensor that is not sparse. -/
def valueSpans (x : TCtx) (b : Bolt) (t n : Nat) (s : State) : List Span :=
  (rangeFrom t n).map fun i => spanAt x b.base (b.denseAt i) (tileBytes b.fmt) s

/-- The span of their scales. -/
def scaleSpans (x : TCtx) (b : Bolt) (t n : Nat) (s : State) : List Span :=
  if b.scaled && n != 0 then [spanAt x b.scaleBase (512 * t) (512 * n) s] else []

/-- Values, then scales when scaled. -/
def tileSpans (x : TCtx) (b : Bolt) (t n : Nat) (s : State) : List Span := valueSpans x b t n s ++ scaleSpans x b t n s

/-- The span of a tensor's statistics record. -/
def statSpans (x : TCtx) (b : Bolt) (s : State) : List Span := if b.hasStats then [spanAt x b.stats 0 32 s] else []

/-- The two bolts describe exactly the same bytes in formats of one width. -/
def sameBytes (x : TCtx) (a b : Bolt) (t n : Nat) (s : State) : Bool :=
  fmtBits a.fmt == fmtBits b.fmt && tileSpans x a t n s == tileSpans x b t n s

/-! ### Table slots (07 R223 to R225) -/

/-- A slot image as copied. -/
structure FnTable where
  bytes : Array Byte
deriving DecidableEq, Repr

def FnTable.le (t : FnTable) (off n : Nat) : Nat := natOf ((List.range n).map fun i => (t.bytes[off + i]?).getD 0)
def FnTable.f32 (t : FnTable) (off : Nat) : Val := ofPat (t.le off 4)
def FnTable.s8 (t : FnTable) (off : Nat) : Int := signed8 (t.le off 1)
def FnTable.binade (t : FnTable) : Bool := t.le 4 1 == 1
def FnTable.segExp (t : FnTable) : Int := t.s8 5
def FnTable.eLo (t : FnTable) : Int := t.s8 6
def FnTable.saveExp (t : FnTable) : Int := t.s8 7
def FnTable.maskable (t : FnTable) : Bool := bit 0 (t.le 3 1)

/-- Coefficient offsets of a slot image, ascending. -/
def coeffOffsets : List Nat :=
  [0x08, 0x0C, 0x10, 0x14] ++ (List.range 12).map (fun i => 0x18 + 4 * i) ++ (List.range 1536).map fun i => 0x80 + 4 * i

/-- Reserved bytes of a slot image with the bits that must be 0. -/
def FnTable.reservedSet (t : FnTable) : Option Nat :=
  if t.le 3 1 / 2 ≠ 0 then some 3
  else (rangeFrom 0x48 56 ++ rangeFrom 0x1880 1920).find? fun o => t.le o 1 != 0

/-- The failing check of a slot image with the lowest number, and the offset of the failing field (07 R225). -/
def FnTable.bad (t : FnTable) (mask drop : Bool) : Option (Nat × Nat) :=
  let inR (v : Int) (lo hi : Int) : Bool := decide (lo ≤ v ∧ v ≤ hi)
  if t.le 0 2 ≠ 0x5446 then some (1, 0)
  else if t.le 2 1 ≠ 1 then some (1, 2)
  else if 1 < t.le 4 1 then some (2, 4)
  else if !inR t.segExp (-64) 64 then some (3, 5)
  else if !inR t.eLo (-126) 96 then some (3, 6)
  else if !inR t.saveExp (-64) 64 then some (3, 7)
  else if !t.binade && !(fAdd (t.f32 8) (.fin false 256 t.segExp)).isFin then some (3, 8)
  else match coeffOffsets.find? fun o => !(t.f32 o).isFin with
    | some o => some (4, o)
    | none =>
      if mask && !t.maskable then some (5, 3)
      else if mask && drop && !(t.f32 0x10).isZero then some (6, 0x10)
      else t.reservedSet.map fun o => (7, o)

/-! ### Evaluation (07 R226 to R229) -/

/-- What an input selects: a tail by its image offset from FWD_LEFT, or a segment and its position. -/
inductive FnSel where
  | tail (off : Nat)
  | seg (i : Nat) (f : Val)
  | nan
deriving DecidableEq, Repr

/-- Uniform map (07 R226). -/
def FnTable.uniform (t : FnTable) (x : Val) : FnSel :=
  match rnd32 ((fAdd x (negVal (t.f32 8))).scale (-t.segExp)) with
  | .nan => .nan
  | .inf neg => .tail (if neg then 0 else 8)
  | .fin neg m e =>
    if neg && m != 0 then .tail 0
    else
      let i := if 0 ≤ e then m * 2 ^ e.toNat else m / 2 ^ (-e).toNat
      if 256 ≤ i then .tail 8
      else .seg i (if 0 ≤ e then .fin false 0 0 else .fin false (m % 2 ^ (-e).toNat) e)

/-- Binade map (07 R227). -/
def FnTable.binadeSel (t : FnTable) (x : Val) : FnSel :=
  match x with
  | .nan => .nan
  | .inf neg => .tail (if neg then 0 else 8)
  | .fin neg m e =>
    let ex : Int := if m = 0 then -127 else Nat.log2 m + e
    if m = 0 ∨ ex < t.eLo ∨ ex < -126 then .tail 16
    else if t.eLo + 32 ≤ ex then .tail (if neg then 0 else 8)
    else
      let frac := bits 0 23 (pat32 x)
      .seg (128 * bitOf neg + 4 * (ex - t.eLo).toNat + frac / 2 ^ 21) (.fin false (frac % 2 ^ 21) (-21))

def FnTable.select (t : FnTable) (x : Val) : FnSel :=
  match x with
  | .nan => .nan
  | .inf neg => .tail (if neg then 0 else 8)
  | x => if t.binade then t.binadeSel x else t.uniform x

/-- One fused operation of the unit: every zero result is +0 (07 R228). -/
def fnFma (a b c : Val) : Val :=
  match fma a b c with
  | .fin _ 0 _ => .fin false 0 0
  | v => v

/-- The value of a table at x, and whether a tail gave it: `seg` and `tails` are the table's image offsets
(07 R228, R229). -/
def FnTable.eval (t : FnTable) (segs tails : Nat) (x : Val) : Val × Bool :=
  match t.select x with
  | .nan => (.nan, false)
  | .tail o =>
    let t0 := t.f32 (tails + o)
    let t1 := t.f32 (tails + o + 4)
    match x with
    | .inf neg => (if t1.isZero then t0 else .inf (neg != t1.neg?), true)
    | x => (fnFma x t1 t0, true)
  | .seg i f =>
    let a := segs + 12 * i
    (fnFma f (fnFma f (t.f32 (a + 8)) (t.f32 (a + 4))) (t.f32 a), false)

def FnTable.fwd (t : FnTable) (x : Val) : Val × Bool := t.eval 0x80 0x18 x
def FnTable.der (t : FnTable) (x : Val) : Val × Bool := t.eval 0xC80 0x30 x

/-! ### Start (07 R219 to R225, R233) -/

def fnTable (d : Desc) : Nat := dF 0x24 1 d
def fnSave (d : Desc) : Nat := dF 0x25 1 d
def fnDrop (d : Desc) : Nat := if dOpcode d = opFnFwd then dF 0x26 2 d else 0
def fnFirst (d : Desc) : Nat := dF 0x28 4 d
def fnCount (d : Desc) : Nat := dF 0x2C 4 d

def fnFmt (f : Nat) : Bool := decide (1 ≤ f ∧ f ≤ 6)

/-- SAVE_BOLT matches the table "Save modes". -/
def saveOk (fwd : Bool) (save : Nat) (b : Option Bolt) : Bool :=
  match save, b with
  | 0, none => fwd
  | 0, some b => !fwd && fnFmt b.fmt && b.cls == 1
  | 1, some b => b.fmt == 9 && b.cls == 7
  | 2, some b => b.fmt == 3 && b.cls == 1 && b.hasStats
  | _, _ => false

/-- The tensors agree as R219 asks. -/
def fnSame (a b : Bolt) : Bool := sameShape a b && a.rank == b.rank

/-- Copies and checks the slot image (07 R224, R225). -/
def fnCopyTable (x : TCtx) (d : Desc) : TM FnTable := do
  let s ← get
  let t : FnTable := ⟨(larderRead x.croft (getF (bCroft x.croft) F.FN_TABLE_BASE s + 8192 * fnTable d) 8192 s).toArray⟩
  match t.bad (fnSave d == 1) (fnDrop d != 0) with
  | none => pure t
  | some (k, o) => tFaultSet 0x08 0x24 0 [(F.FN_FAULT_CHECK, k), (F.FN_FAULT_OFFSET, o)]

/-- A written tensor's draws stay addressable (09 R292). -/
def drawsOk (b : Bolt) (ts : List Nat) : Bool := ts.all (indexOk b)

/-- A running function task: its tensors, its table, its tiles. -/
structure FnRun where
  src : Bolt
  out : Bolt
  save : Option Bolt
  table : FnTable
  tiles : List Nat
deriving DecidableEq, Repr

/-- The bytes of the bolts that a descriptor's handles name. -/
def boltSpans (x : TCtx) (hs : List Nat) (s : State) : List Span :=
  (hs.filter fun h => h != noBolt).map fun h => spanAt x (boltTable x.croft s) (128 * h) 128 s

/-- Some byte lies in two ranges of which the first is written: a tensor's values, scales and record among one another, and
with every range of `others`. -/
def selfHit (vals scales stats others : List Span) : Bool :=
  let hit (a b : List Span) : Bool := a.any fun y => b.any y.meets
  hit vals (scales ++ stats) || hit scales stats || hit (vals ++ scales ++ stats) others

/-- No written range overlaps another range of the task but the in-place pair (07 R221): the operand that fails (which of two, and the
statistics record as a written range: log entry 61). -/
def fnOverlap (x : TCtx) (d : Desc) (fwd : Bool) (src out : Bolt) (save : Option Bolt) (s : State) : Option Nat :=
  let t := fnFirst d
  let n := fnCount d
  let img : Span := spanAt x ((0x3FF * 2 ^ 22) + 3 * 2 ^ 52) (getF (bCroft x.croft) F.FN_TABLE_BASE s + 8192 * fnTable d) 8192 s
  let fixed := img :: boltSpans x [dF 0x18 4 d, dF 0x1C 4 d, dF 0x20 4 d] s
  let ins := tileSpans x src t n s
  let saves := match save with
    | some b => tileSpans x b t n s ++ if fwd then statSpans x b s else []
    | none => []
  let places := sameBytes x src out t n s
  if selfHit (valueSpans x out t n s) (scaleSpans x out t n s) (statSpans x out s) (fixed ++ saves ++ if places then [] else ins)
  then some 0x1C
  else match save with
    | some b =>
      if fwd && selfHit (valueSpans x b t n s) (scaleSpans x b t n s) (statSpans x b s) (fixed ++ ins) then some 0x20 else none
    | none => none

/-- The start checks of a function task; none = an empty shard (07 R219 to R225, R233; 02 R69; 03 R93; their order, and bolts that are not named: log
entry 61). -/
def fnStart (x : TCtx) (d : Desc) (fwd : Bool) : TM (Option FnRun) := do
  let src ← readBolt? x 0x18 (dF 0x18 4 d)
  let out ← readBolt? x 0x1C (dF 0x1C 4 d)
  let save ← readBolt? x 0x20 (dF 0x20 4 d)
  match src, out with
  | none, _ => tFault 0x08 0x18 0
  | _, none => tFault 0x08 0x1C 0
  | some src, some out =>
    tCheck (fnFmt src.fmt) 0x05 0x18 0
    tCheck (fnFmt out.fmt && out.cls == (if fwd then 1 else 2)) 0x05 0x1C 0
    tCheck (saveOk fwd (fnSave d) save) 0x05 0x20 0
    let shape (b : Bolt) : Bool := !b.sparse && b.rank != 1 && fnSame src b
    tCheck (shape src) 0x08 0x18 0
    tCheck (shape out && statsOk out) 0x08 0x1C 0
    match save with
    | some b => tCheck (shape b && (!fwd || statsOk b)) 0x08 0x20 0
    | none => pure ()
    tCheck (!(fnDrop d != 0 && fnSave d == 0)) 0x08 0x26 0
    if src.empty then
      let _ ← fnCopyTable x d
      pure none
    else
      tCheck (fnCount d != 0) 0x08 0x2C 0
      tCheck (decide (fnFirst d + fnCount d ≤ src.tiles)) 0x08 0x28 0
      let tiles := rangeFrom (fnFirst d) (fnCount d)
      let s ← get
      let sr := (convCtx x (dStepTag d) out.cls s).sr
      tCheck (!(sr || fnDrop d != 0) || drawsOk out tiles) 0x08 0x1C 0
      match save with
      | some b => tCheck (!(fwd && fnSave d == 2 && flag (bCroft x.croft) F.NUM_CTRL_SR_SAVE s) || drawsOk b tiles) 0x08 0x20 0
      | none => pure ()
      let table ← fnCopyTable x d
      match fnOverlap x d fwd src out save (← get) with
      | some o => tFault 0x0A o 0
      | none => pure ()
      tStatsReach x 0x1C out
      match save with
      | some b => if fwd then tStatsReach x 0x20 b else pure ()
      | none => pure ()
      pure (some ⟨src, out, save, table, tiles⟩)

/-! ### FN_FWD (07 R231 to R236) -/

/-- One live element of FN_FWD: its index, input, output, tail, dropped. -/
structure FnElem where
  i : Nat
  x : Val
  y : Val
  tail : Bool
  dropped : Bool
deriving DecidableEq, Repr

/-- Evaluates one row of a tile; an input that FP32 does not hold is rounded to it first (07 R231; log entry 32). -/
def fnRow (x : TCtx) (d : Desc) (g : FnRun) (t r : Nat) (row : List Val) (s : State) : List FnElem :=
  ((List.range row.length).zip row).map fun e =>
    let v := rnd32 e.2
    let i := g.out.gindex t r e.1
    let (y, tail) := g.table.fwd v
    let dropped := fnDrop d != 0 &&
      decide (draw16 2 (seedOf x.croft s) g.out.tag (stepOf x.croft (dStepTag d) s) i < fnDrop d)
    ⟨i, v, if dropped then .fin false 0 0 else y, tail, dropped⟩

/-- Merges mask bits of one row into its bytes. -/
def mergeBits (old : List Byte) (bs : List Bool) : List Byte :=
  ((List.range old.length).zip old).map fun e =>
    BitVec.ofNat 8 ((List.range 8).foldl (fun n k =>
      match bs[8 * e.1 + k]? with
      | some b => setBits k 1 (bitOf b) n
      | none => n) e.2.toNat)

/-- Writes mask bits of a tile of a MASK1 tensor, selvage bits untouched (07 R220, R235). -/
def writeMask (x : TCtx) (operand : Nat) (b : Bolt) (t : Nat) (rows : List (List Bool)) : TM Unit := do
  let a := addrOf b.base + b.denseAt t
  let n := cdiv (rows.headD []).length 8
  let old ← (List.range rows.length).mapM fun r => tPeek x operand (spaceOf b.base) (a + 16 * r) n
  tWriteRows (x.values b) operand (spaceOf b.base) a 16 ((old.zip rows).map fun e => mergeBits e.1 e.2)

/-- Reads the live bits of a tile of a MASK1 tensor. -/
def readBits (x : TCtx) (operand : Nat) (b : Bolt) (t : Nat) : TM (Array (Array Byte)) := do
  let rows ← tReadRows (x.values b) operand (spaceOf b.base) (addrOf b.base + b.denseAt t) (cdiv (b.liveCols t) 8) (b.liveRows t) 16
  pure (rows.map List.toArray).toArray

/-- Writes the narrow save of a tile (07 R236). -/
def writeNarrow (x : TCtx) (d : Desc) (g : FnRun) (b : Bolt) (t : Nat) (rows : List (List FnElem)) : TM Unit := do
  let s ← get
  let sr := flag (bCroft x.croft) F.NUM_CTRL_SR_SAVE s
  let k : ConvCtx := ⟨seedOf x.croft s, stepOf x.croft (dStepTag d) s, sr⟩
  let cells := rows.map fun l => l.map fun e =>
    if e.dropped then (0x80, (⟨1, 0, 0, 0, 0⟩ : Cnt))
    else
      let v := convert 3 (e.x.scale (-g.table.saveExp)) (rndOf k b.tag e.i)
      (v.code, Cnt.of v (decode 3 v.code))
  tWriteRows (x.values b) 0x20 (spaceOf b.base) (addrOf b.base + b.denseAt t) 128
    (cells.map fun l => l.map fun e => BitVec.ofNat 8 e.1)
  tCount x b ((cells.flatten).foldl (fun n e => n.add e.2) Cnt.zero) 0
  if sr then tEvals x (rows.foldl (fun n l => n + evalsOf ((l.filter fun e => !e.dropped).map FnElem.i)) 0) else pure ()

/-- One tile of FN_FWD: read in full, then written (07 R220). -/
def fnFwdTile (x : TCtx) (d : Desc) (g : FnRun) (t : Nat) : TM Unit := do
  let nr := g.src.liveRows t
  let nc := g.src.liveCols t
  let a ← readTwill x 0x18 g.src t (g.src.denseAt t) 0 nr 0 nc
  let s ← get
  let rows := (List.range nr).map fun r => fnRow x d g t r ((List.range nc).map fun j => valAt a r j) s
  let n ← writeRows x 0x1C (convCtx x (dStepTag d) 1 s) g.out t (g.out.denseAt t) 0 0 (rows.map fun l => l.map FnElem.y)
  tCount x g.out n 0
  match g.save with
  | none => pure ()
  | some b =>
    if fnSave d = 1 then
      writeMask x 0x20 b t (rows.map fun l => l.map fun e =>
        !e.dropped && !e.x.isNan && scoreAbove (valScore e.x) (valScore (g.table.f32 0xC)))
    else writeNarrow x d g b t rows
  let p := bCroft x.croft
  let flat := rows.flatten
  if fnDrop d ≠ 0 then tEvals x (rows.foldl (fun n l => n + evalsOf (l.map FnElem.i)) 0) else pure ()
  tUpd fun s => addUnits p F.FN_ELEMENTS flat.length (addF p F.FN_TAILS (flat.filter FnElem.tail).length
    (addF p F.FN_DROPPED (flat.filter FnElem.dropped).length s))

/-! ### FN_DERIV (07 R237, R238) -/

/-- The saves of a tile: by row and column the derivative, or none for a dropped element, and whether a tail gave it. -/
def fnSaves (x : TCtx) (d : Desc) (g : FnRun) (t : Nat) : TM (Nat → Nat → Option (Val × Bool)) := do
  match g.save with
  | none => pure fun _ _ => none
  | some b =>
    if fnSave d = 1 then
      let m ← readBits x 0x20 b t
      pure fun r j =>
        let y := ((m[r]?).bind fun l => l[j / 8]?).getD 0
        some (g.table.f32 (if bit (j % 8) y.toNat then 0x14 else 0x10), false)
    else if fnSave d = 2 then
      let rows ← tReadRows (x.values b) 0x20 (spaceOf b.base) (addrOf b.base + b.denseAt t) (b.liveCols t) (b.liveRows t) 128
      let m := (rows.map List.toArray).toArray
      pure fun r j =>
        let y := (((m[r]?).bind fun l => l[j]?).getD 0).toNat
        if y = 0x80 then none else some (g.table.der ((decode 3 y).scale g.table.saveExp))
    else
      let a ← readTwill x 0x20 b t (b.denseAt t) 0 (b.liveRows t) 0 (b.liveCols t)
      pure fun r j => some (g.table.der (rnd32 (valAt a r j)))

/-- One tile of FN_DERIV. -/
def fnDerivTile (x : TCtx) (d : Desc) (g : FnRun) (t : Nat) : TM Unit := do
  let nr := g.src.liveRows t
  let nc := g.src.liveCols t
  let a ← readTwill x 0x18 g.src t (g.src.denseAt t) 0 nr 0 nc
  let sv ← fnSaves x d g t
  let s ← get
  let cells := (List.range nr).map fun r => (List.range nc).map fun j =>
    match sv r j with
    | none => (Val.fin false 0 0, false)
    | some (v, tail) => (fMul (valAt a r j) v, tail)
  let n ← writeRows x 0x1C (convCtx x (dStepTag d) 2 s) g.out t (g.out.denseAt t) 0 0 (cells.map fun l => l.map Prod.fst)
  tCount x g.out n 0
  let p := bCroft x.croft
  tUpd fun s => addUnits p F.FN_ELEMENTS (nr * nc) (addF p F.FN_TAILS ((cells.flatten).filter Prod.snd).length s)

/-! ### The two rows -/

/-- The start of a function task: its checks, and the copies of its bolts and of its slot image (07 R224). -/
def fnBegin (fwd : Bool) (d : Desc) (x : TCtx) : TM Unit := do
  match ← fnStart x d fwd with
  | some g =>
    tUpd (putWork x.croft (.start x.uid [some g.src, some g.out, g.save] (g.table.bytes.toList.map BitVec.toNat) g.tiles.length))
  | none => tUpd (markWorked x.croft x.uid)

/-- The run that a started function task goes on with. -/
def fnRunOf (d : Desc) (w : WorkRun) : Option FnRun :=
  match w.bolts with
  | [some src, some out, save] =>
    some ⟨src, out, save, ⟨(w.data.map (BitVec.ofNat 8)).toArray⟩, rangeFrom (fnFirst d) (fnCount d)⟩
  | _ => none

/-- The next tile of a function task (07 R220, R222). -/
def fnPiece (fwd : Bool) (d : Desc) (w : WorkRun) (x : TCtx) : TM Unit := do
  match fnRunOf d w with
  | some g => if fwd then fnFwdTile x d g (fnFirst d + w.next) else fnDerivTile x d g (fnFirst d + w.next)
  | none => pure ()
  tUpd (pieceDone x.croft w)

/-- FN_FWD (07 R231): its start checks, then a tile at a time. -/
def execFnFwd (c : CroftId) (s : State) : Host.Outcome State Fault Refusal :=
  .next (unitRow c.val opFnFwd (fun _ => true) (fnBegin true) (fnPiece true) s)

/-- FN_DERIV (07 R237): its start checks, then a tile at a time. -/
def execFnDeriv (c : CroftId) (s : State) : Host.Outcome State Fault Refusal :=
  .next (unitRow c.val opFnDeriv (fun _ => true) (fnBegin false) (fnPiece false) s)

end Sys2Proof.Machine
end

