-- ==== Sys2Proof/Machine/Update.lean ====
section
/-!
DEFINITION. The update unit's UPDATE (09 R296 to R313, R656): linings, reduced buckets as it reads them, the optimiser,
reports, residual commit.
-/
namespace Sys2Proof.Machine

/-! ### Element arrays in entry order (08 R248; 02 R49, R54, R71) -/

/-- Distinct numbers in order of first appearance. -/
def distinct : List Nat → List Nat
  | [] => []
  | x :: r => x :: (distinct r).filter fun y => y != x

/-- The values of one tile of one tensor, addressed by entry: element `idx[i]` and scale block `blk[i]` of the array are
entry i's. A write puts the elements `out` of a twill array, and the whole of any other. -/
structure Arr where
  bolt : Bolt
  t : Nat
  twill : Bool
  out : List Nat
  area : Nat × Nat           -- rows and columns that the stream of a write covers
  at_ : Nat                  -- offset of the values from BASE
  scaleBase : Nat            -- BASE-encoded place of the scale bytes, when scaled
  codes : Array Nat
  scales : Array Nat
  idx : List Nat
  blk : List Nat
deriving DecidableEq, Repr

/-- Runs of consecutive numbers of a rising list: first and length. -/
def runsOf : List Nat → List (Nat × Nat)
  | [] => []
  | p :: r =>
    match runsOf r with
    | [] => [(p, 1)]
    | (q, n) :: l => if q = p + 1 then (p, n + 1) :: l else (p, 1) :: (q, n) :: l

/-- The array of a tile in gauze form: `ps.length` values in entry order, its scales behind them. -/
def readPacked (x : TCtx) (operand : Nat) (b : Bolt) (t at_ : Nat) (ps : List Nat) : TM Arr := do
  let n := ps.length
  let bytes := (← tReadAt (x.values b) operand b.base at_ (elemBytes b.fmt n)).toArray
  let sb := b.base + at_ + elemBytes b.fmt n
  let sc ← if b.scaled then tReadAt (x.values b) operand sb 0 (cdiv n 32) else pure []
  pure ⟨b, t, false, [], (0, 0), at_, sb, ((List.range n).map fun i => elemAt b.fmt bytes i).toArray, (sc.map BitVec.toNat).toArray,
    List.range n, (List.range n).map fun i => i / 32⟩

/-- Element (r, c) of rows of packed bytes, 0 outside them. -/
def rowElem (fmt : Nat) (rows : Array (Array Byte)) (i : Nat) : Nat :=
  match rows[i / 128]? with
  | some l => elemAt fmt l (i % 128)
  | none => 0

/-- The array of a twill tile: its live cells and their scales; no selvage cell is read (02 R53, 09 R309). -/
def readLive (x : TCtx) (operand : Nat) (b : Bolt) (t at_ : Nat) (ps : List Nat) : TM Arr := do
  let nc := b.liveCols t
  let rows ← tReadRows (x.values b) operand (spaceOf b.base) (addrOf b.base + at_) (elemBytes b.fmt nc) (b.liveRows t) (elemBytes b.fmt 128)
  let a := (rows.map List.toArray).toArray
  let sb := b.scaleBase + 512 * t
  let sc ← if b.scaled then tReadRows (x.scales b) operand (spaceOf sb) (addrOf sb) (cdiv nc 32) (b.liveRows t) 4 else pure []
  let m := (sc.map List.toArray).toArray
  pure ⟨b, t, true, ps, (b.liveRows t, nc), at_, sb, ((List.range 16384).map (rowElem b.fmt a)).toArray,
    ((List.range 512).map fun i => ((((m[i / 4]?).getD #[])[i % 4]?).getD 0).toNat).toArray, ps, ps.map fun i => i / 32⟩

/-- Reads the array of a tile. `ps` are the entries' positions. -/
def readArr (x : TCtx) (operand : Nat) (b : Bolt) (t at_ : Nat) (twill : Bool) (ps : List Nat) : TM Arr :=
  if twill then readLive x operand b t at_ ps else readPacked x operand b t at_ ps

/-- Writes one run of elements of a twill array; the other bits of a byte that the run shares stay. -/
def putRun (x : TCtx) (operand : Nat) (a : Arr) (e : Nat × Nat) : TM Unit := do
  let w := fmtBits a.bolt.fmt
  let place (i : Nat) : Nat := addrOf a.bolt.base + a.at_ + i * w / 8
  let code (i : Nat) : Nat := (a.codes[i]?).getD 0
  let per := 8 / w
  if w < 8 ∧ (e.1 % per ≠ 0 ∨ e.2 % per ≠ 0) then
    let i0 := e.1 / per * per
    let n := (e.1 + e.2 - 1) / per + 1 - e.1 / per
    let old := (← tPeek x operand (spaceOf a.bolt.base) (place i0) n).toArray
    tPoke x operand (spaceOf a.bolt.base) (place i0) (packAny a.bolt.fmt ((List.range (per * n)).map fun i =>
      if e.1 ≤ i0 + i ∧ i0 + i < e.1 + e.2 then code (i0 + i) else elemAt a.bolt.fmt old i))
  else tPoke x operand (spaceOf a.bolt.base) (place e.1) (packAny a.bolt.fmt ((rangeFrom e.1 e.2).map code))

/-- Writes the values of an array: of a twill array the elements of `out` only, as one stream over the live rows. -/
def writeVals (x : TCtx) (operand : Nat) (a : Arr) : TM Unit := do
  if a.twill then
    let b := a.bolt
    let nc := elemBytes b.fmt a.area.2
    if !a.out.isEmpty && leaves x (spaceOf b.base) (addrOf b.base + a.at_) nc (← get) then
      tUpd (logRows (x.values b) (spaceOf b.base) (addrOf b.base + a.at_) nc a.area.1 (elemBytes b.fmt 128) true)
    (runsOf a.out).forM (putRun x operand a)
  else tWriteAt (x.values a.bolt) operand a.bolt.base a.at_ (packCodes a.bolt.fmt 0 a.codes.toList)

/-- Writes the scales of an array: of a twill array those of the blocks that hold an element of `out`. -/
def writeScales (x : TCtx) (operand : Nat) (a : Arr) : TM Unit := do
  if !a.bolt.scaled then pure ()
  else if a.twill then
    let sb := a.scaleBase
    if !a.out.isEmpty && leaves x (spaceOf sb) (addrOf sb) 512 (← get) then
      let y := if sb = a.bolt.scaleBase + 512 * a.t then x.scales a.bolt else x
      tUpd (logRows y (spaceOf sb) (addrOf sb) (cdiv a.area.2 32) a.area.1 4 true)
    (runsOf (distinct (a.out.map fun i => i / 32))).forM fun e =>
      tPoke x operand (spaceOf sb) (addrOf sb + e.1) ((rangeFrom e.1 e.2).map fun i => BitVec.ofNat 8 ((a.scales[i]?).getD 0))
  else tWriteAt (x.values a.bolt) operand a.scaleBase 0 (a.scales.toList.map fun b => BitVec.ofNat 8 b)

/-- Writes the array back. -/
def writeArr (x : TCtx) (operand : Nat) (a : Arr) : TM Unit := do
  writeVals x operand a
  writeScales x operand a

/-- Code and value of entry `i`. -/
def Arr.code (a : Arr) (i : Nat) : Nat := (a.codes[nth a.idx i]?).getD 0
def Arr.val (a : Arr) (i : Nat) : Val :=
  if a.bolt.scaled then decodeScaled a.bolt.fmt ((a.scales[nth a.blk i]?).getD 0) (a.code i) else decode a.bolt.fmt (a.code i)
def Arr.setCode (a : Arr) (i c : Nat) : Arr := { a with codes := a.codes.setIfInBounds (nth a.idx i) c }

/-- What a stored value counts when a task writes its bits unchanged (09 R656). -/
def Cnt.kept (code : Nat) (v : Val) : Cnt := ⟨1, bitOf (code == 0), 0, bitOf (!v.isFin), if v.isFin then magPat v else 0⟩

/-- Writes new values of an unscaled array: none keeps the bits of an entry. `is` are the global indices. -/
def Arr.convert (a : Arr) (k : ConvCtx) (is : List Nat) (vs : List (Option Val)) : Arr × Cnt × Nat :=
  ((List.range vs.length).zip (is.zip vs)).foldl (fun o e =>
    let i := e.1
    match e.2.2 with
    | none => (o.1, o.2.1.add (Cnt.kept (a.code i) (a.val i)), o.2.2)
    | some v =>
      let r := Machine.convert a.bolt.fmt v (rndOf k a.bolt.tag e.2.1)
      (o.1.setCode i r.code, o.2.1.add (Cnt.of r (decode a.bolt.fmt r.code)), o.2.2 + bitOf (r.sat || r.nonfin)))
    (a, Cnt.zero, 0)

/-- Writes new values of a scaled array: each block that holds an entry is scaled and encoded anew (06 R200; 09 R302).
The last two counts are saturated or non-finite conversions, and entries whose value changes by the encoding. -/
def Arr.encode (a : Arr) (k : ConvCtx) (is : List Nat) (vs : List Val) : Arr × Cnt × Nat × Nat :=
  let es := (List.range vs.length).zip ((is.zip vs).zip a.blk)
  (distinct a.blk).foldl (fun o q =>
    let l := es.filter fun e => e.2.2 == q
    let sc := blockScale a.bolt.fmt (l.map fun e => e.2.1.2)
    l.foldl (fun o e =>
      let r := Machine.convert a.bolt.fmt (e.2.1.2.scale (127 - sc)) (rndOf k a.bolt.tag e.2.1.1)
      let w := decodeScaled a.bolt.fmt sc r.code
      (o.1.setCode e.1 r.code, o.2.1.add (Cnt.of r w), o.2.2.1 + bitOf (r.sat || r.nonfin),
        o.2.2.2 + bitOf (pat32 w != pat32 e.2.1.2 && !(w.isZero && e.2.1.2.isZero))))
      ({ o.1 with scales := o.1.scales.setIfInBounds q sc }, o.2.1, o.2.2.1, o.2.2.2)) (a, Cnt.zero, 0, 0)

/-! ### Linings (08 R247, R248) -/

/-- A sparse rank-2 BF16 weight of class 0x0. -/
def weightOk (w : Bolt) : Bool := w.sparse && w.rank == 2 && w.fmt == 1 && w.cls == 0

/-- The tensor has the weight's shape and mesh, and the class and format given; a lining of a sparse weight has its ranks too (08 R247,
09 R296). -/
def liningOk (w b : Bolt) (cls fmt : Nat) : Bool :=
  b.sparse == w.sparse && (!w.sparse || (b.rank == w.rank && b.meshRank == w.meshRank)) && sameShape w b && b.cls == cls &&
  b.fmt == fmt

/-- The entry of a lining agrees with the weight's in FORM, NNZ and GEN. -/
def dirAgree (a b : DirEntry) : Bool := a.twill == b.twill && a.nnz == b.nnz && a.gen == b.gen

/-- The step of a task (09 R288). -/
def taskStep (x : TCtx) (d : Desc) (s : State) : Nat := stepOf x.croft (dStepTag d) s

/-! ### Operands and checks (09 R296 to R298, R312) -/

def upRes (d : Desc) : Nat := dF 0x18 4 d + 3

/-- The update parameter block (09 R297). -/
structure UpParam where
  mode : Nat
  bias : Bool
  res : Bool
  layer : Nat
  lr : Val
  beta1 : Val
  omb1 : Val
  beta2 : Val
  omb2 : Val
  eps2 : Val
  wd : Val
  gscale : Val
  clip : Val
  start : Nat
  lrx : Nat
  report : Nat
deriving DecidableEq, Repr

def UpParam.parse (l : List Byte) : UpParam :=
  let f (o : Nat) : Val := ofPat (leAt l o 4)
  ⟨leAt l 2 1, bit 0 (leAt l 3 1), bit 1 (leAt l 3 1), leAt l 4 1, f 8, f 0xC, f 0x10, f 0x14, f 0x18, f 0x1C, f 0x20, f 0x24,
   f 0x28, leAt l 0x30 8, leAt l 0x38 8, leAt l 0x40 8⟩

/-- A finite value in a range: not below zero, and below or at one; −0 is not below zero (09 R297; log entry 32). -/
def nonNeg (v : Val) : Bool := v.isFin && (v.isZero || !v.neg?)
def belowOne (v : Val) : Bool := nonNeg v && magLt v (.fin false 1 0)
def uptoOne (v : Val) : Bool := nonNeg v && !magLt (.fin false 1 0) v

/-- The block meets its table (check 0x04). -/
def upParamOk (l : List Byte) : Bool :=
  let p := UpParam.parse l
  leAt l 0 1 == 0x55 && leAt l 1 1 == 1 && p.mode < 2 && leAt l 3 1 < 4 && leAt l 5 3 == 0 && leAt l 0x2C 4 == 0 &&
  leAt l 0x48 56 == 0 && nonNeg p.lr && belowOne p.beta1 && uptoOne p.omb1 && belowOne p.beta2 && uptoOne p.omb2 &&
  nonNeg p.eps2 && !p.eps2.isZero && nonNeg p.wd && p.gscale.isFin && nonNeg p.clip &&
  decide (p.lrx < 2 ^ 54 ∧ p.report < 2 ^ 54)

/-- Refuses with an UPDATE check (09 R312). -/
def upFault {α : Type} (check gz tile code operand : Nat) : TM α :=
  tFaultSet code operand 0 [(F.UP_FAULT_CHECK, check), (F.UP_FAULT_GZ_CHECK, gz), (F.UP_FAULT_TILE, tile)]
def upCheck (c : Bool) (check operand : Nat) : TM Unit := if c then pure () else upFault check 0 0 0x08 operand

/-- A running UPDATE. -/
structure UpRun where
  w : Bolt
  m1 : Bolt
  m2 : Bolt
  g : Bolt
  res : Option (Bolt × Bolt)
  p : UpParam
  lr : Val
  bc1 : Val
  bc2 : Val
  slot : Nat
  k : ConvCtx
deriving DecidableEq, Repr

/-- The staged residual has the residual's format, class and directory entries over a tile range (09 R308). -/
def stagedOk (x : TCtx) (operand : Nat) (w r q : Bolt) (ts : List Nat) : TM Bool := do
  if liningOk w r 6 1 && liningOk w q 6 1 && (w.sparse || r.pitch == q.pitch) then
    if w.sparse then
      ts.foldlM (fun ok t => do
        let a ← readDir x operand r t
        let b ← readDir x operand q t
        pure (ok && a == b)) true
    else pure true
  else pure false

/-- An UPDATE made of its bolts, its parameter block, its exponent byte, its step and the seed (09 R298, R300). -/
def upMake (w m1 m2 g : Bolt) (res : Option (Bolt × Bolt)) (pb : List Byte) (e step seed : Nat) : UpRun :=
  let p := UpParam.parse pb
  let bc (beta : Val) : Val := if p.bias then biasCorr beta (step - p.start + 1) else .fin false 1 0
  ⟨w, m1, m2, g, res, p, rnd32 (p.lr.scale (signed8 e)), bc p.beta1, bc p.beta2, g.dim 0 / w.tiles, ⟨seed, step, true⟩⟩

/-- The start checks of UPDATE, and what its tiles then go by: the bolts, the exponent byte, the step, the report so far and
the parameter block; none = an empty shard (09 R296, R312; the check that a STATS address in space 1 or 2 fails: log entry 61). -/
def upStart (x : TCtx) (d : Desc) : TM (Option WorkRun) := do
  let hw := dF 0x18 4 d
  let w ← readBolt? x 0x18 hw
  let g ← readBolt? x 0x1C (dF 0x1C 4 d)
  let m1 ← readBolt? x 0x20 (dF 0x20 4 d)
  let m2 ← readBolt? x 0x24 (dF 0x24 4 d)
  let pb ← readHandle x 0x28 (dF 0x28 4 d) 128
  match w with
  | none => upFault 1 0 0 0x08 0x18
  | some w =>
    upCheck (w.rank == 2 && w.fmt == 1 && w.cls == 0 && statsOk w) 1 0x18
    let hand (h i : Nat) : Bool := !w.sparse || h == hw + i
    match m1, m2, g with
    | none, _, _ => upFault 2 0 0 0x08 0x20
    | some _, none, _ => upFault 2 0 0 0x08 0x24
    | some m1, some m2, g =>
      upCheck (liningOk w m1 4 1 && hand (dF 0x20 4 d) 1 && statsOk m1) 2 0x20
      upCheck (liningOk w m2 5 5 && hand (dF 0x24 4 d) 2 && statsOk m2) 2 0x24
      match g with
      | none => upFault 3 0 0 0x08 0x1C
      | some g =>
        let tn := w.tiles
        let slot := g.dim 0 / tn
        upCheck (g.rank == 1 && g.fmt == 0 && g.cls == 3 &&
          (tn == 0 || (g.dim 0 % tn == 0 && slot % 32 == 0 && decide (32 ≤ slot)))) 3 0x1C
        upCheck (upParamOk pb) 4 0x28
        let p := UpParam.parse pb
        let ts := rangeFrom (dF 0x2C 4 d) (dF 0x30 4 d)
        upCheck (tn == 0 || (dF 0x30 4 d != 0 && decide (dF 0x2C 4 d + dF 0x30 4 d ≤ tn))) 5 0x2C
        upCheck (spaceOf p.report != 1 && spaceOf p.report != 2 && spaceOf p.lrx != 1 && spaceOf p.lrx != 2) 9 0x28
        let lrx := leAt (← tReadAt x 0x28 p.lrx p.layer 1) 0 1
        let e := signed8 lrx
        let step := taskStep x d (← get)
        upCheck (decide (-64 ≤ e ∧ e ≤ 64) && (!p.bias || decide (p.start ≤ step))) 6 0x28
        let res ← if p.res then do
            let r ← readBolt x 0x28 (upRes d)
            let q ← readBolt x 0x28 (upRes d + 1)
            upCheck (← stagedOk x 0x28 w r q (if tn = 0 then [] else ts)) 0xA 0x28
            upCheck (statsOk r) 0xA 0x28
            pure (some (r, q))
          else pure none
        if tn = 0 ∨ g.empty then pure none
        else
          tCheck (drawsOk w ts) 0x08 0x18 0
          tCheck (drawsOk m1 ts) 0x08 0x20 0
          tCheck (drawsOk m2 ts) 0x08 0x24 0
          tStatsReach x 0x18 w
          tStatsReach x 0x20 m1
          tStatsReach x 0x24 m2
          match res with
          | some (r, _) => tStatsReach x 0x28 r
          | none => pure ()
          pure (some (.start x.uid [some w, some m1, some m2, some g, res.map Prod.fst, res.map Prod.snd]
            (lrx :: step :: ([0, 0, 0, 0, 0, 0, 0x7F800000] ++ pb.map BitVec.toNat)) (dF 0x30 4 d)))

/-- The report so far of a started UPDATE. -/
def upSoFar (w : WorkRun) : List Nat := (w.data.drop 2).take 7

/-- The UPDATE that a started task goes on with. -/
def upRunOf (x : TCtx) (w : WorkRun) (s : State) : Option UpRun :=
  match w.bolts with
  | [some b, some m1, some m2, some g, r, q] =>
    some (upMake b m1 m2 g (match r, q with | some r, some q => some (r, q) | _, _ => none)
      ((w.data.drop 9).map (BitVec.ofNat 8)) (nth w.data 0) (nth w.data 1) (seedOf x.croft s))
  | _ => none

/-! ### Reduced buckets (09 R299; 13 R436, R437) -/

/-- Indices strictly rise and stay below 4,096. -/
def idxOk : List Nat → Bool
  | [] => true
  | [a] => decide (a < 4096)
  | a :: b :: r => decide (a < 4096 ∧ a < b) && idxOk (b :: r)

/-- The entries of one bucket: position in the tile and gradient. -/
def readBucket (x : TCtx) (g : Bolt) (slot t j : Nat) : TM (List (Nat × Val)) := do
  let at_ := slot * (4 * t + j)
  let h ← tReadAt x 0x1C g.base at_ 32
  let n := leAt h 4 2
  let vo := leAt h 0x12 2
  if vo < 32 ∨ (vo - 32) / 2 < n ∨ slot < vo + 4 * n then upFault 7 0 t 0x08 0x1C
  else
    let il ← tReadAt x 0x1C g.base (at_ + 32) (2 * n)
    let is := (List.range n).map fun i => leAt il (2 * i) 2
    if !idxOk is then upFault 7 0 t 0x08 0x1C
    else
      let vl ← tReadAt x 0x1C g.base (at_ + vo) (4 * n)
      pure (((List.range n).zip is).map fun e => (4096 * j + e.2, ofPat (leAt vl (4 * e.1) 4)))

/-! ### The optimiser (09 R301 to R305) -/

/-- What one entry becomes: none keeps it (a gradient that is not finite). -/
structure UpOut where
  x : Val
  m1 : Val
  m2 : Val
  d : Val
deriving DecidableEq, Repr

def clipVal (c g : Val) : Val :=
  if c.isZero then g else if magLt c g then (if g.neg? then negVal c else c) else g

/-- R301 for one entry. -/
def upEntry (r : UpRun) (w m1 m2 g0 : Val) : Option UpOut :=
  let g := fMul g0 r.p.gscale
  if !g.isFin then none
  else
    let g := clipVal r.p.clip g
    let g := if r.p.mode = 1 then fma r.p.wd w g else g
    let a := fma r.p.beta1 m1 (fMul r.p.omb1 g)
    let b := fma r.p.beta2 m2 (fMul r.p.omb2 (fMul g g))
    let den := fSqrt (fAdd (fMul b r.bc2) r.p.eps2)
    let q := fDiv (fMul a r.bc1) den
    let u := if r.p.mode = 0 then fma r.p.wd w q else q
    let d := fMul r.lr u
    some ⟨addVal w (negVal d), a, b, d⟩

/-- Exponent of the BF16 spacing between w and its neighbour towards w − d (09 R305). -/
def spacingTowards (w d : Val) : Option Int :=
  match w, d with
  | .fin s m e, .fin t n _ =>
    if n = 0 then none
    else if m = 0 then some (-133)
    else
      -- w on the BF16 grid: spacing outward is the quantum, inward half of it below a power of two
      let q := quantum bf16 m e
      let inward := s == t
      if inward && decide (m = 2 ^ Nat.log2 m) && decide (-133 < q) && decide ((Nat.log2 m : Int) + e = q + 7) then some (q - 1)
      else some q
  | _, _ => none

/-- LOST, and the step ratio's FP32 pattern when nonzero (09 R305). -/
def upStepOf (w d : Val) : Bool × Option Nat :=
  match spacingTowards w d, d with
  | some q, .fin _ n f =>
    let p := round32 false n (f - q)
    (magLt (.fin false n f) (.fin false 1 (q - 16)), if p = 0 then none else some p)
  | _, _ => (false, none)

/-! ### One tile (09 R299 to R309, R656) -/

/-- The entries of a weight tile and where its arrays lie: positions, the values' form, offsets from each BASE. -/
structure TileLay where
  twill : Bool
  ps : List Nat
  wAt : Nat
  ats : List Nat              -- offsets of the other tensors' values
deriving DecidableEq, Repr

/-- Position of an entry. -/
def Entry.pos (e : Entry) : Nat := 128 * e.r + e.c

/-- Local tile positions that are live. -/
def livePos (b : Bolt) (t : Nat) : List Nat :=
  ((List.range (b.liveRows t)).map fun r => (List.range (b.liveCols t)).map fun c => 128 * r + c).flatten

/-- Reads the entries of a weight tile reached through its entry, or what makes it malformed. -/
def tileEntries (x : TCtx) (operand : Nat) (b : Bolt) (t : Nat) (d : DirEntry) : TM (Except GzBad (List Nat)) := do
  if d.twill then
    let m ← readMask x operand b t
    pure (.ok ((livePos b t).filter (maskBit m)))
  else
    match ← readGauze x operand b t d with
    | .error e => pure (.error e)
    | .ok g => pure (.ok (g.entries.map Entry.pos))

/-- The layout of tile `t` for UPDATE: checks 0x08 and 0x0B, and the offsets of the other tensors' arrays. -/
def upLayout (x : TCtx) (w : Bolt) (others : List (Nat × Bolt)) (t : Nat) : TM TileLay := do
  if w.sparse then
    let d ← readDir x 0x18 w t
    let ds ← others.mapM fun e => readDir x e.1 e.2 t
    if !(ds.all (dirAgree d)) then upFault 8 0 t 0x08 0x20
    else
      match ← tileEntries x 0x18 w t d with
      | .error e => upFault 0xB e.check t 0x07 0x18
      | .ok ps => pure ⟨d.twill, ps, sparseAt d + (if d.twill then 0 else 290 + d.nnz), ds.map sparseAt⟩
  else pure ⟨true, livePos w t, w.denseAt t, others.map fun e => e.2.denseAt t⟩

/-- Copies the staged residual of a tile into the residual, bit for bit (09 R308). -/
def upCommitRes (x : TCtx) (r q : Bolt) (t : Nat) (y : TileLay) (at_ : Nat) : TM Unit := do
  let a ← readArr x 0x28 r t at_ y.twill y.ps
  let b ← readArr x 0x28 q t at_ y.twill y.ps
  let n := y.ps.length
  writeArr x 0x28 ((List.range n).foldl (fun a i => a.setCode i (b.code i)) a)
  tCount x r ((List.range n).foldl (fun c i => c.add (Cnt.kept (b.code i) (b.val i))) Cnt.zero) 0

/-- One tile of UPDATE; answers its share of the report. -/
def upTile (x : TCtx) (r : UpRun) (t : Nat) : TM (List Nat) := do
  let bk ← (List.range 4).mapM fun j => readBucket x r.g r.slot t j
  let bk := bk.flatten
  let rq := match r.res with | some e => [(0x28, e.1)] | none => []
  let y ← upLayout x r.w ([(0x20, r.m1), (0x24, r.m2)] ++ rq) t
  let wa ← readArr x 0x18 r.w t y.wAt y.twill y.ps
  let aa ← readArr x 0x20 r.m1 t (nth y.ats 0) y.twill y.ps
  let ba ← readArr x 0x24 r.m2 t (nth y.ats 1) y.twill y.ps
  let n := y.ps.length
  let grad (p : Nat) : Val := ((bk.find? fun e => e.1 == p).map Prod.snd).getD (.fin false 0 0)
  let outs := (List.range n).map fun i => upEntry r (wa.val i) (aa.val i) (ba.val i) (grad (nth y.ps i))
  let is (b : Bolt) : List Nat := y.ps.map fun p => b.gindex t (p / 128) (p % 128)
  let (wn, wc, ws) := wa.convert r.k (is r.w) (outs.map fun o => o.map UpOut.x)
  let (an, ac, as_) := aa.convert r.k (is r.m1) (outs.map fun o => o.map UpOut.m1)
  let m2s := ((List.range n).zip outs).map fun e => match e.2 with | some o => o.m2 | none => ba.val e.1
  let (bn, bc, bs, _) := ba.encode r.k (is r.m2) m2s
  writeArr x 0x18 wn
  writeArr x 0x20 an
  writeArr x 0x24 bn
  tCount x r.w wc 0
  tCount x r.m1 ac 0
  tCount x r.m2 bc 0
  match r.res with
  | some (a, b) => upCommitRes x a b t y (nth y.ats 2)
  | none => pure ()
  let steps := ((List.range n).zip outs).map fun e =>
    match e.2 with
    | some o => upStepOf (wa.val e.1) o.d
    | none => (false, none)
  let ratios := steps.filterMap Prod.snd
  let lost := (steps.filter Prod.fst).length
  let nonf := (outs.filter Option.isNone).length
  let off := (bk.filter fun e => !y.ps.contains e.1).length
  let sat := ws + as_ + bs
  let u := bCroft x.croft
  let drawn (b : Bolt) : List Nat := ((is b).zip outs).filterMap fun e => e.2.map fun _ => e.1
  tEvals x (evalsOf (drawn r.w) + evalsOf (drawn r.m1) + evalsOf (is r.m2))
  tUpd fun s => addUnits u F.UP_ELEMENTS n (addF u F.UP_LOST lost (addF u F.UP_NONFINITE_G nonf (addF u F.UP_OFFMASK off
    (addF u F.UP_SATURATED sat s))))
  pure [n, lost, nonf, off, sat, ratios.foldl max 0, ratios.foldl min 0x7F800000]

/-- The report table's record can be reached (10 R318). -/
def upReportReach (x : TCtx) (a : Nat) : TM Unit := do
  let s ← get
  let ok := if spaceOf a = 0 then reach0 x.part (addrOf a) 32 s
    else (place3 x.part (some x.croft) (addrOf a) 32 s).isSome
  if ok then pure () else tTranslation 0x28 (spaceOf a) (addrOf a)

/-- The report record of an UPDATE's layer. -/
def UpRun.record (r : UpRun) : Nat := r.p.report + 32 * r.p.layer

/-- The start of UPDATE. -/
def upBegin (d : Desc) (x : TCtx) : TM Unit := do
  match ← upStart x d with
  | none => tUpd (markWorked x.croft x.uid)
  | some w =>
    match upRunOf x w (← get) with
    | some r => upReportReach x r.record
    | none => pure ()
    tUpd (putWork x.croft w)

/-- The next tile of UPDATE: written only when it has been read in full, and whole (09 R311); after the last one the report
goes out (09 R306). -/
def upPiece (d : Desc) (w : WorkRun) (x : TCtx) : TM Unit := do
  match upRunOf x w (← get) with
  | some r =>
    let a := mergeReport (upSoFar w) (← upTile x r (dF 0x2C 4 d + w.next))
    if w.next + 1 < w.count then pure () else tUpd (sendFold ⟨true, x.croft, x.uid, [], x.part, r.record, a⟩)
    tUpd (pieceDone x.croft { w with data := w.data.take 2 ++ a ++ w.data.drop 9 })
  | none => tUpd (pieceDone x.croft w)

/-- UPDATE (09 R296): its start checks, then a tile at a time. -/
def execUpdate (c : CroftId) (s : State) : Host.Outcome State Fault Refusal :=
  .next (unitRow c.val opUpdate (fun _ => true) upBegin upPiece s)

end Sys2Proof.Machine
end

