-- ==== Sys2Proof/Machine/Masks.lean ====
section
/-!
DEFINITION. The mask tasks (08 R245 to R280): THRESH and GLEAN, a tile a piece, REWEAVE and REWEAVE_SWAP.
-/
namespace Sys2Proof.Machine

/-! ### Operands, parameter block, work record (08 R249 to R251) -/

def mvFirst (d : Desc) : Nat := dF 0x2C 4 d
def mvCount (d : Desc) : Nat := dF 0x30 4 d

def mvFault {α : Type} (check gz tile code operand : Nat) : TM α :=
  tFaultSet code operand 0 [(F.MV_FAULT_CHECK, check), (F.MV_FAULT_GZ_CHECK, gz), (F.MV_FAULT_TILE, tile)]
def mvCheck (c : Bool) (check tile operand : Nat) : TM Unit := if c then pure () else mvFault check 0 tile 0x08 operand

/-- The mask parameter block. -/
structure MvParam where
  tmode : Nat
  gmode : Nat
  mag : Nat
  tquota : Nat
  grule : Nat
  gquota : Nat
  floor_ : Nat
  ceil_ : Nat
deriving DecidableEq, Repr

def MvParam.parse (l : List Byte) : MvParam :=
  ⟨leAt l 2 1, leAt l 3 1, leAt l 4 4, leAt l 8 2, leAt l 0xA 1, leAt l 0xC 2, leAt l 0xE 2, leAt l 0x10 2⟩

/-- Check 0x01. -/
def mvParamOk (l : List Byte) : Bool :=
  let p := MvParam.parse l
  leAt l 0 1 == 0x4D && leAt l 1 1 == 1 && decide (p.tmode < 2 ∧ p.gmode < 2 ∧ p.grule < 2 ∧ p.tquota ≤ 1024 ∧
    p.gquota ≤ 1024 ∧ p.floor_ ≤ 16384 ∧ p.floor_ ≤ p.ceil_ ∧ p.ceil_ ≤ 16384) &&
  nonNeg (ofPat p.mag) && leAt l 0xB 1 == 0 && leAt l 0x12 110 == 0

/-- A work record. -/
structure WorkRec where
  state : Nat
  genIn : Nat
  step : Nat
  nnzIn : Nat
  pruned : Nat
  grown : Nat
  nnzOut : Nat
  shortfall : Nat
  keep : Array Byte
  change : Array Byte
deriving DecidableEq, Repr

def WorkRec.parse (l : List Byte) : WorkRec :=
  ⟨leAt l 0 1, leAt l 2 2, leAt l 8 8, leAt l 0x10 2, leAt l 0x12 2, leAt l 0x14 2, leAt l 0x16 2, leAt l 0x18 2,
   ((l.drop 0x40).take 2048).toArray, ((l.drop 0x840).take 2048).toArray⟩
def WorkRec.bytes (r : WorkRec) : List Byte :=
  bytesOf 2 r.state ++ bytesOf 2 r.genIn ++ bytesOf 4 0 ++ bytesOf 8 r.step ++ bytesOf 2 r.nnzIn ++ bytesOf 2 r.pruned ++
  bytesOf 2 r.grown ++ bytesOf 2 r.nnzOut ++ bytesOf 2 r.shortfall ++ bytesOf 38 0 ++ r.keep.toList ++ r.change.toList

def readRec (x : TCtx) (work : Bolt) (t : Nat) : TM WorkRec := do
  pure (WorkRec.parse (← tReadAt x 0x1C work.base (4160 * t) 4160))
def writeRec (x : TCtx) (work : Bolt) (t : Nat) (r : WorkRec) : TM Unit := tWriteAt x 0x1C work.base (4160 * t) r.bytes

/-- Belongs to a step (08 R252). -/
def WorkRec.ofStep (r : WorkRec) (step : Nat) : Bool := r.state != 0 && r.step == step

/-- A mask as bytes, from the positions whose bits are 1. -/
def maskOf (ps : List Nat) : Array Byte :=
  ps.foldl (fun m p => m.setIfInBounds (p / 8) (((m[p / 8]?).getD 0) ||| BitVec.ofNat 8 (2 ^ (p % 8)))) (Array.replicate 2048 0)

/-- Positions that meet a test. -/
def positions (f : Nat → Bool) : List Nat := (List.range 16384).filter f

def WorkRec.kept (r : WorkRec) (p : Nat) : Bool := maskBit r.keep p
def WorkRec.changed (r : WorkRec) (p : Nat) : Bool := maskBit r.change p
/-- The mask before the step (08 R251). -/
def WorkRec.old (r : WorkRec) (p : Nat) : Bool := r.kept p != r.changed p

/-- A position is live. -/
def liveAt (b : Bolt) (t p : Nat) : Bool := decide (p / 128 < b.liveRows t ∧ p % 128 < b.liveCols t)

/-- Check 0x08 on a record of the step with STATE 0x01 or 0x02. -/
def recOk (w : Bolt) (t : Nat) (d : DirEntry) (r : WorkRec) : Bool :=
  let n (f : Nat → Bool) : Nat := (positions f).length
  r.nnzIn == d.nnz && n r.old == r.nnzIn && n (fun p => r.changed p && !r.kept p) == r.pruned &&
  n (fun p => r.changed p && r.kept p) == r.grown && n r.kept == r.nnzOut && r.nnzOut + r.pruned == r.nnzIn + r.grown &&
  (positions fun p => !liveAt w t p && (r.kept p || r.changed p)).isEmpty

/-! ### Start (08 R247, R250, R277) -/

/-- A mask task's tensors. -/
structure MvRun where
  w : Bolt
  linings : List Bolt
  work : Bolt
  step : Nat
deriving DecidableEq, Repr

/-- Checks 0x02 and 0x03. -/
def mvBolts (x : TCtx) (d : Desc) : TM MvRun := do
  let h := dF 0x18 4 d
  match ← readBolt? x 0x18 h with
  | none => mvFault 2 0 0 0x08 0x18
  | some w =>
    let m1 ← readBolt x 0x18 (h + 1)
    let m2 ← readBolt x 0x18 (h + 2)
    let r ← readBolt x 0x18 (h + 3)
    mvCheck (weightOk w && liningOk w m1 4 1 && liningOk w m2 5 5 && liningOk w r 6 1) 2 0 0x18
    match ← readBolt? x 0x1C (dF 0x1C 4 d) with
    | none => mvFault 3 0 0 0x08 0x1C
    | some k =>
      mvCheck (k.rank == 1 && k.fmt == 9 && k.cls == 7 && k.meshRank == 0 && decide (33280 * w.tiles ≤ k.dim 0)) 3 0 0x1C
      pure ⟨w, [m1, m2, r], k, taskStep x d (← get)⟩

/-- The range check 0x05; false = the weight's local shard is empty (02 R69). -/
def mvRange (d : Desc) (w : Bolt) : TM Bool := do
  if w.empty then pure false
  else
    mvCheck (mvCount d != 0 && decide (mvFirst d + mvCount d ≤ w.tiles)) 5 0 0x2C
    pure true

/-- Directory entries of the weight and its linings, with check 0x07. -/
def mvDirs (x : TCtx) (g : MvRun) (t : Nat) (op : Nat) : TM (DirEntry × List DirEntry) := do
  let d ← readDir x op g.w t
  let ds ← g.linings.mapM fun b => readDir x op b t
  mvCheck (ds.all (dirAgree d)) 7 t 0x18
  pure (d, ds)

/-- What a task finds at a tile: the weight's entry, its linings' entries, the record, and whether it belongs to the
step; none = the tile's record is woven and the task skips it (checks 0x06 to 0x08). -/
def mvTile (x : TCtx) (g : MvRun) (t : Nat) : TM (Option (DirEntry × List DirEntry × WorkRec × Bool)) := do
  let r ← readRec x g.work t
  let mine := r.ofStep g.step
  if mine && r.state == 3 then pure none
  else
    let d ← readDir x 0x18 g.w t
    mvCheck (!(mine && decide (r.state < 3)) || r.genIn == d.gen) 6 t 0x1C
    let (d, ds) ← mvDirs x g t 0x18
    mvCheck (!mine || (decide (r.state < 3) && recOk g.w t d r)) 8 t 0x1C
    pure (some (d, ds, r, mine))

/-- The weight tile's entries in position order with their element codes; check 0x0B. -/
def mvEntries (x : TCtx) (g : MvRun) (t : Nat) (d : DirEntry) : TM (List (Nat × Nat)) := do
  match ← tileEntries x 0x18 g.w t d with
  | .error e => mvFault 0xB e.check t 0x07 0x18
  | .ok ps =>
    let a ← readArr x 0x18 g.w t (sparseAt d + (if d.twill then 0 else 290 + d.nnz)) d.twill ps
    pure (((List.range ps.length).zip ps).map fun e => (e.2, a.code e.1))

/-- A fresh record of a tile: the mask as it is, nothing changed. -/
def newRec (step : Nat) (d : DirEntry) (ps : List Nat) : WorkRec :=
  ⟨1, d.gen, step, d.nnz, 0, 0, d.nnz, 0, maskOf ps, Array.replicate 2048 0⟩

/-! ### THRESH (08 R254 to R256) -/

/-- Magnitude to rank a BF16 code by: NaN above infinity. -/
def rankMag (code : Nat) : Nat := if 0x7F80 < code % 0x8000 then 0x7FFF else code % 0x8000

/-- How many entries of the ranking are pruned. -/
def pruneCount (p : MvParam) (nnz : Nat) (es : List (Nat × Nat)) : Nat :=
  let n := if p.tmode = 0 then
      (es.filter fun e => decide (rankMag e.2 ≤ 0x7F80) && magLt (decode 1 (e.2 % 0x8000)) (ofPat p.mag) &&
        decide (rankMag e.2 < 0x7F80)).length
    else p.tquota * nnz / 1024
  min n (nnz - p.floor_)

/-- The record of a threshed tile. -/
def threshRec (p : MvParam) (step : Nat) (d : DirEntry) (es : List (Nat × Nat)) : WorkRec :=
  let ranked := sortBy (fun a b => decide (rankMag a.2 ≤ rankMag b.2)) es
  let out := (ranked.take (pruneCount p d.nnz es)).map Prod.fst
  let r := newRec step d (es.map Prod.fst)
  { r with pruned := out.length, nnzOut := d.nnz - out.length
           keep := maskOf ((es.map Prod.fst).filter fun q => !out.contains q), change := maskOf out }

/-- Reads and checks the parameter block (check 0x01). -/
def mvParam (x : TCtx) (d : Desc) : TM (List Byte) := do
  let l ← readHandle x 0x20 (dF 0x20 4 d) 128
  mvCheck (mvParamOk l) 1 0 0x20
  pure l

def threshTile (x : TCtx) (g : MvRun) (p : MvParam) (t : Nat) : TM Unit := do
  match ← mvTile x g t with
  | none => pure ()
  | some (d, _, _, mine) =>
    let es ← mvEntries x g t d
    if mine then pure ()
    else
      let r := threshRec p g.step d es
      writeRec x g.work t r
      tUpd (addF (bCroft x.croft) F.MV_PRUNED r.pruned)

/-- Starts the run of THRESH or GLEAN over its range; an empty shard has nothing to do (02 R69). -/
def mvBegin (d : Desc) (x : TCtx) (g : MvRun) (pb : List Byte) (sample : Option Bolt) (go : Bool) : TM Unit :=
  if go then
    tUpd (putWork x.croft (.start x.uid (some g.w :: some g.work :: sample :: g.linings.map some)
      (g.step :: pb.map BitVec.toNat) (mvCount d)))
  else tUpd (markWorked x.croft x.uid)

/-- What a started THRESH or GLEAN goes on with: its tensors, its parameter block, its sample. -/
def mvRunOf (w : WorkRun) : Option (MvRun × MvParam × Option Bolt) :=
  match w.bolts with
  | some b :: some k :: sample :: l =>
    some (⟨b, l.filterMap id, k, nth w.data 0⟩, MvParam.parse ((w.data.drop 1).map (BitVec.ofNat 8)), sample)
  | _ => none

/-- The start of THRESH. -/
def threshBegin (d : Desc) (x : TCtx) : TM Unit := do
  let pb ← mvParam x d
  let g ← mvBolts x d
  mvBegin d x g pb none (← mvRange d g.w)

/-- The next tile of THRESH. -/
def threshPiece (d : Desc) (w : WorkRun) (x : TCtx) : TM Unit := do
  match mvRunOf w with
  | some (g, p, _) => threshTile x g p (mvFirst d + w.next)
  | none => pure ()
  tUpd (pieceDone x.croft w)

/-- THRESH (08 R254): its start checks, then a tile at a time. -/
def execThresh (c : CroftId) (s : State) : Host.Outcome State Fault Refusal :=
  .next (unitRow c.val opThresh (fun _ => true) threshBegin threshPiece s)

/-! ### GLEAN (08 R257 to R260) -/

/-- The sample tensor meets the mode (check 0x04). -/
def sampleOk (p : MvParam) (w : Bolt) (b : Option Bolt) : Bool :=
  match b with
  | none => p.gmode == 1
  | some b => p.gmode == 0 && !b.sparse && b.rank == 2 && b.fmt == 0 && b.cls == 3 && sameShape w b && b.meshRank == w.meshRank

/-- The candidates in ranking order: those eligible only (08 R259). -/
def gleanRank (x : TCtx) (g : MvRun) (sample : Option Bolt) (t : Nat) (cands : List Nat) : TM (List Nat) := do
  match sample with
  | some b => do
    let a ← readTwill x 0x24 b t (b.denseAt t) 0 (b.liveRows t) 0 (b.liveCols t)
    let el := cands.filterMap fun p =>
      let v := valAt a (p / 128) (p % 128)
      if v.isFin && !v.isZero then some (p, v) else none
    pure ((sortBy (fun a b => !magLt a.2 b.2) el).map Prod.fst)
  | none => do
    let s ← get
    let seed := seedOf x.croft s
    tEvals x (evalsBy 4 (cands.map fun p => g.w.gindex t (p / 128) (p % 128)))
    pure ((sortBy (fun (a b : Nat × Nat) => decide (a.2 ≤ b.2))
      (cands.map fun p => (p, draw32 seed g.w.tag g.step (g.w.gindex t (p / 128) (p % 128))))).map Prod.fst)

def gleanTile (x : TCtx) (g : MvRun) (p : MvParam) (sample : Option Bolt) (t : Nat) : TM Unit := do
  match ← mvTile x g t with
  | none => pure ()
  | some (d, _, r, mine) =>
    let es ← mvEntries x g t d
    if mine && r.state == 2 then pure ()
    else
      let r := if mine then r else newRec g.step d (es.map Prod.fst)
      let cands := (livePos g.w t).filter fun q => !r.kept q && !r.changed q
      let ranked ← gleanRank x g sample t cands
      let target := min (if p.grule = 0 then r.pruned else p.gquota * r.nnzIn / 1024) (p.ceil_ - (r.nnzIn - r.pruned))
      let grow := ranked.take target
      let short := target - grow.length
      writeRec x g.work t { r with
        state := 2, grown := grow.length, nnzOut := r.nnzIn - r.pruned + grow.length, shortfall := short
        keep := maskOf ((positions r.kept) ++ grow), change := maskOf ((positions r.changed) ++ grow) }
      tUpd (fun s => addF (bCroft x.croft) F.MV_GROWN grow.length (addF (bCroft x.croft) F.MV_SHORTFALL short s))

/-- The start of GLEAN. -/
def gleanBegin (d : Desc) (x : TCtx) : TM Unit := do
  let pb ← mvParam x d
  let p := MvParam.parse pb
  let g ← mvBolts x d
  let sample ← readBolt? x 0x24 (dF 0x24 4 d)
  mvCheck (sampleOk p g.w sample) 4 0 0x24
  let go ← mvRange d g.w
  tCheck (!go || p.gmode == 0 || (rangeFrom (mvFirst d) (mvCount d)).all fun q =>
    decide (g.w.gindex q (g.w.liveRows q - 1) (g.w.liveCols q - 1) / 4 < 2 ^ 48)) 0x08 0x18 0
  mvBegin d x g pb sample go

/-- The next tile of GLEAN. -/
def gleanPiece (d : Desc) (w : WorkRun) (x : TCtx) : TM Unit := do
  match mvRunOf w with
  | some (g, p, sample) => gleanTile x g p sample (mvFirst d + w.next)
  | none => pure ()
  tUpd (pieceDone x.croft w)

/-- GLEAN (08 R258): its start checks, then a tile at a time. -/
def execGlean (c : CroftId) (s : State) : Host.Outcome State Fault Refusal :=
  .next (unitRow c.val opGlean (fun _ => true) gleanBegin gleanPiece s)

/-! ### REWEAVE (08 R262 to R269) -/

/-- The stored form of a tile of `n` entries (02 R59, R60). -/
def formTwill (b : Bolt) (n : Nat) : Bool :=
  decide ((if b.switchNnz = 0 then 4916 else b.switchNnz) ≤ n) ||
  decide (tileBytes b.fmt + (if b.scaled then 512 else 0) < gzTileBytes b.fmt b.scaled n)

/-- Bytes of a tile's array: of the weight (`lining` false) or of a lining. -/
def arrBytes (b : Bolt) (lining twill : Bool) (n : Nat) : Nat :=
  if twill then tileBytes b.fmt
  else if lining then elemBytes b.fmt n + gzScaleBytes b.scaled n else gzTileBytes b.fmt b.scaled n

/-- A tile of the range after the pre-pass. -/
structure WovePlan where
  t : Nat
  d : DirEntry
  ds : List DirEntry
  r : WorkRec
  mine : Bool
  changed : Bool
  twill : Bool
  at_ : Nat                  -- offset of the new arrays from each BASE
deriving DecidableEq, Repr

/-- Places the new arrays from an offset (08 R266). -/
def placeNew (w : Bolt) : Nat → List WovePlan → List WovePlan
  | _, [] => []
  | o, p :: r =>
    if p.changed then
      let a := cdiv o 32 * 32
      { p with at_ := a } :: placeNew w (a + arrBytes w false p.twill p.r.nnzOut) r
    else p :: placeNew w o r

/-- The spans of the four arrays of a tile, old or new. -/
def tileArrs (x : TCtx) (g : MvRun) (offs : List Nat) (twill : Bool) (n : Nat) (s : State) : List Span :=
  ((g.w :: g.linings).zip ((List.range 4).zip offs)).map fun e =>
    spanAt x e.1.base e.2.2 (arrBytes e.1 (e.2.1 != 0) twill n) s

/-- The first changed tile with a new array that overlaps an old one of any tile of the range (check 0x0A). -/
def newOverOld (x : TCtx) (g : MvRun) (ps : List WovePlan) (s : State) : Option WovePlan :=
  let old := (ps.map fun p => tileArrs x g ((p.d :: p.ds).map sparseAt) p.d.twill p.d.nnz s).flatten
  ps.find? fun p => p.changed &&
    (tileArrs x g (List.replicate 4 p.at_) p.twill p.r.nnzOut s).any fun a => old.any a.meets

/-- The gauze header and structure of a new weight tile (02 R54, R57; 08 R263): entries are positions. -/
def gauzeHead (b : Bolt) (t gen : Nat) (ps : List Nat) : List Byte :=
  let n := ps.length
  let cnt (r : Nat) : Nat := (ps.filter fun p => p / 128 == r).length
  let cs := (List.range 128).map cnt
  let ptr := (List.range 129).map fun r => (cs.take r).foldl (· + ·) 0
  bytesOf 2 0x5A47 ++ bytesOf 1 1 ++ bytesOf 1 b.fmt ++ bytesOf 2 n ++ bytesOf 2 (bitOf b.scaled) ++ bytesOf 2 (290 + n) ++
  bytesOf 2 (if b.scaled then 290 + n + gzValBytes b.fmt n else 0) ++ bytesOf 2 (gzTileBytes b.fmt b.scaled n) ++
  bytesOf 2 gen ++ bytesOf 4 b.tag ++ bytesOf 2 (b.grow t) ++ bytesOf 2 (b.gcol t) ++ bytesOf 2 (cs.foldl max 0) ++
  bytesOf 2 (cs.filter fun k => k == 0).length ++ bytesOf 4 0 ++ (ptr.map (bytesOf 2)).flatten ++ ps.map fun p => BitVec.ofNat 8 (p % 128)

/-- An array in a new form, all +0; of a twill tile the live cells are written, its selvage stays untouched (02 R53). -/
def zeroArr (b : Bolt) (t at_ : Nat) (twill lining : Bool) (ps : List Nat) : Arr :=
  let n := if twill then 16384 else ps.length
  let idx := if twill then ps else List.range n
  let vAt := at_ + (if twill || lining then 0 else 290 + n)
  ⟨b, t, twill, livePos b t, (b.liveRows t, b.liveCols t), vAt, if twill then b.scaleBase + 512 * t else b.base + vAt + elemBytes b.fmt n, Array.replicate n 0,
    Array.replicate (if twill then 512 else cdiv n 32) 0x7F, idx, idx.map fun i => i / 32⟩

/-- What the cells of a new array count: every live cell written (06 R203). -/
def weaveCnt (b : Bolt) (t : Nat) (twill : Bool) (n : Nat) (c : Cnt) : Cnt :=
  if twill then let z := b.liveRows t * b.liveCols t - n; c.add ⟨z, z, 0, 0, 0⟩ else c

/-- Builds one changed tile (08 R263 to R265, R269 phase 1). -/
def buildTile (x : TCtx) (g : MvRun) (p : WovePlan) : TM WeaveTile := do
  let es ← mvEntries x g p.t p.d
  let old := es.map Prod.fst
  mvCheck (maskOf old == maskOf (positions p.r.old)) 8 p.t 0x1C
  let new := positions p.r.kept
  let gen := (p.r.genIn + 1) % 65536
  let word (b : Bolt) : Nat := let _ := b; (DirEntry.mk (p.at_ / 32) p.twill p.r.nnzOut gen).word
  -- unscaled tensors keep the bits of every kept position
  let moved (b : Bolt) (lining : Bool) (a : Arr) : Arr :=
    ((List.range new.length).zip new).foldl (fun z e =>
      match old.findIdx? fun q => q == e.2 with
      | some i => z.setCode e.1 (a.code i)
      | none => z) (zeroArr b p.t p.at_ p.twill lining new)
  let wa ← readArr x 0x18 g.w p.t (sparseAt p.d + (if p.d.twill then 0 else 290 + p.d.nnz)) p.d.twill old
  let wn := moved g.w false wa
  if p.twill then pure () else tWriteAt (x.values g.w) 0x20 g.w.base p.at_ (gauzeHead g.w p.t gen new)
  writeArr x 0x20 wn
  let kept (a : Arr) : Cnt := (List.range new.length).foldl (fun c i => c.add (Cnt.kept (a.code i) (a.val i))) Cnt.zero
  tCount x g.w (weaveCnt g.w p.t p.twill new.length (kept wn)) 0
  match g.linings, p.ds with
  | [m1, m2, rs], [d1, d2, d3] => do
    let a1 ← readArr x 0x18 m1 p.t (sparseAt d1) p.d.twill old
    let n1 := moved m1 true a1
    writeArr x 0x20 n1
    tCount x m1 (weaveCnt m1 p.t p.twill new.length (kept n1)) 0
    let a3 ← readArr x 0x18 rs p.t (sparseAt d3) p.d.twill old
    let n3 := moved rs true a3
    writeArr x 0x20 n3
    tCount x rs (weaveCnt rs p.t p.twill new.length (kept n3)) 0
    let a2 ← readArr x 0x18 m2 p.t (sparseAt d2) p.d.twill old
    let vs := new.map fun q => match old.findIdx? fun y => y == q with | some i => a2.val i | none => Val.fin false 0 0
    let (n2, c2, _, rounded) := (zeroArr m2 p.t p.at_ p.twill true new).encode ⟨0, 0, false⟩ (List.replicate new.length 0) vs
    writeVals x 0x20 n2
    if p.twill then pure () else writeScales x 0x20 n2
    tCount x m2 (weaveCnt m2 p.t p.twill new.length c2) 0
    let dropped := ((List.range old.length).zip old).filter fun e => !p.r.kept e.2 && !(a3.val e.1).isZero
    let u := bCroft x.croft
    tUpd (fun s => addF u F.MV_M2_ROUNDED rounded (addF u F.MV_RES_DROPPED dropped.length s))
    pure ⟨p.t, true, p.twill, [word g.w, word m1, word m2, word rs], (maskOf new).toList,
      n2.scales.toList.map fun b => BitVec.ofNat 8 b, true, p.twill != p.d.twill⟩
  | _, _ => pure ⟨p.t, false, p.twill, [], [], [], p.mine, false⟩

/-- The pre-pass over one tile. Of a tile whose record is woven only the place of its arrays counts. -/
def weavePlan (x : TCtx) (g : MvRun) (t : Nat) : TM WovePlan := do
  match ← mvTile x g t with
  | some (e, es, r, mine) =>
    pure ⟨t, e, es, r, mine, mine && decide (0 < r.pruned + r.grown), formTwill g.w r.nnzOut, 0⟩
  | none =>
    let e ← readDir x 0x18 g.w t
    let es ← g.linings.mapM fun b => readDir x 0x18 b t
    pure ⟨t, e, es, newRec g.step e [], false, false, e.twill, 0⟩

/-- The pre-pass and the build. -/
def weaveRun (x : TCtx) (d : Desc) (g : MvRun) : TM Unit := do
  let nb := dF 0x20 8 d
  let o0 := addrOf nb - addrOf g.w.base
  let plans ← (rangeFrom (mvFirst d) (mvCount d)).mapM (weavePlan x g)
  let plans := placeNew g.w o0 plans
  match plans.find? fun p => p.changed && !decide (p.at_ / 32 < 2 ^ 32) with
  | some p => mvFault 9 0 p.t 0x08 0x20
  | none => pure ()
  match newOverOld x g plans (← get) with
  | some p => mvFault 0xA 0 p.t 0x0A 0x20
  | none => pure ()
  let tiles ← plans.mapM fun p =>
    if p.changed then buildTile x g p else pure ⟨p.t, false, p.twill, [], [], [], p.mine, false⟩
  tUpd (updCroft x.croft fun k => { k with weave := some ⟨x.uid, g.w, g.linings, g.work, tiles, false⟩ })

/-- The work of REWEAVE: everything but its swap. -/
def reweaveWork (d : Desc) (x : TCtx) : TM Unit := do
  let g ← mvBolts x d
  tCheck ((g.w :: g.linings).all statsOk) 0x08 0x18 0
  mvCheck (decide (mvCount d ≤ 256)) 5 0 0x2C
  let go ← mvRange d g.w
  let nb := dF 0x20 8 d
  mvCheck (nb % 32 == 0 && spaceOf nb == spaceOf g.w.base && decide (addrOf g.w.base ≤ addrOf nb)) 9 0 0x20
  if go then
    (g.w :: g.linings).forM (tStatsReach x 0x18)
    weaveRun x d g
  else tUpd (markWorked x.croft x.uid)

/-- REWEAVE (08 R263): checks, pre-pass and build. A fault in any of them leaves directory, slots and records as they
were (08 R271). -/
def execReweave (c : CroftId) (s : State) : Host.Outcome State Fault Refusal :=
  .next (match startableOp c.val opReweave s with
    | some t => runTask c.val t (reweaveWork t.desc) s
    | none => s)

/-- Swaps one tile (08 R269 phase 2): slots, lining entries, the weight's entry last, the record's STATE. -/
def swapTile (x : TCtx) (g : WeaveRun) (p : WeaveTile) : TM Unit := do
  if p.changed then
    let m2 := g.linings[1]?
    if p.twill then
      tWriteAt (x.masks g.w) 0x18 g.w.maskBase (2048 * p.t) p.mask
      match m2 with
      | some b => tWriteAt (x.scales b) 0x18 b.scaleBase (512 * p.t) p.scales
      | none => pure ()
    else pure ()
    (g.linings.zip (p.words.drop 1)).forM fun e => tWriteAt (x.dirs e.1) 0x18 e.1.dir (8 * p.t) (bytesOf 8 e.2)
    tWriteAt (x.dirs g.w) 0x18 g.w.dir (8 * p.t) (bytesOf 8 (nth p.words 0))
    let u := bCroft x.croft
    tUpd (fun s => addF u F.MV_TILES_WOVEN 1 (addF u F.MV_FORM_CHANGES (bitOf p.reformed) s))
  else pure ()
  if p.record then tWriteAt x 0x1C g.work.base (4160 * p.t) [3] else pure ()

/-- The work of the swap. -/
def swapWork (g : WeaveRun) (x : TCtx) : TM Unit := do
  g.tiles.forM (swapTile x g)
  tUpd (updCroft x.croft fun k => { k with weave := some { g with swapped := true } })
  tUpd (markWorked x.croft x.uid)

/-- REWEAVE_SWAP (08 R269, R271): the swap, once every build write is visible, of a task that is not being abandoned. -/
def execReweaveSwap (c : CroftId) (s : State) : Host.Outcome State Fault Refusal :=
  .next (match (croftOf c.val s).weave with
    | none => s
    | some g =>
      match findTask c.val g.uid s with
      | none => s
      | some t =>
        if drained c.val g.uid s && !g.swapped && !t.abandon then
          stepTaskRun c.val t (swapWork g) s
        else s)

end Sys2Proof.Machine
end

