-- ==== Sys2Proof/Machine/Copy.lean ====
section
/-!
DEFINITION. COPY and GATHER, a tile, a block of 64 KiB or a record a piece (11 R367 to R380).
-/
namespace Sys2Proof.Machine

/-! ### Tiles as codes -/

/-- Offset from BASE of the values of local tile or unit `t`: a rank-1 tensor is contiguous (02 R67; log entry 14). -/
def Bolt.valuesAt (b : Bolt) (t : Nat) : Nat := if b.rank = 1 then t * (128 * fmtBits b.fmt / 8) else b.denseAt t

/-- Elements of one tile or unit, and its rows. -/
def Bolt.cells (b : Bolt) : Nat := if b.rank = 1 then 128 else 16384
def Bolt.tileRows (b : Bolt) : Nat := b.cells / 128

/-- A tile of codes and scale bytes, by position. -/
structure Codes where
  codes : Array Nat
  scales : Array Nat
deriving DecidableEq, Repr

def Arr.cells (a : Arr) : Codes := ⟨a.codes, a.scales⟩

/-- Reads the live cells of a tile and their scales. -/
def readCodes (x : TCtx) (operand : Nat) (b : Bolt) (t : Nat) : TM Codes := do
  pure (← readLive x operand b t (b.valuesAt t) []).cells

/-- The value of a cell. -/
def Codes.val (k : Codes) (b : Bolt) (p : Nat) : Val :=
  let c := (k.codes[p]?).getD 0
  if b.scaled then decodeScaled b.fmt ((k.scales[p / 32]?).getD 0) c else decode b.fmt c

/-! ### The tensor form (11 R367 to R376) -/

def cpSrcTile (d : Desc) : Nat := dF 0x20 4 d
def cpDstTile (d : Desc) : Nat := dF 0x24 4 d
def cpCount (d : Desc) : Nat := dF 0x28 4 d
def cpPerm (d : Desc) (i : Nat) : Nat := bits (2 * i) 2 (dF 0x2C 1 d)
def cpWrite (d : Desc) : Bool := bit 0 (dF 0x2D 1 d)
def cpInPlace (d : Desc) : Bool := bit 1 (dF 0x2D 1 d)

/-- PERM maps {0, 1} and {2, 3} each onto itself (11 R368). -/
def permOk (d : Desc) : Bool :=
  let p := (List.range 4).map (cpPerm d)
  (p.take 2 == [0, 1] || p.take 2 == [1, 0]) && (p.drop 2 == [2, 3] || p.drop 2 == [3, 2])

/-- Local coordinates of a tile (02 R70). -/
def Bolt.coords (b : Bolt) (t : Nat) : List Nat :=
  [t % b.ext 0, t / b.ext 0 % b.ext 1, t / b.ext 0 / b.ext 1 % b.ext 2, t / b.ext 0 / b.ext 1 / b.ext 2]

/-- The source tile of a destination tile; none = outside the source's local extents (11 R367). -/
def cpSource (d : Desc) (src dst : Bolt) (t : Nat) : Option Nat :=
  let dc := dst.coords t
  let d0 := dst.coords (cpDstTile d)
  let s0 := src.coords (cpSrcTile d)
  let c : List Int := (List.range 4).map fun j =>
    match (List.range 4).find? fun i => cpPerm d i == j with
    | some i => (nth s0 j : Int) + (nth dc i : Int) - (nth d0 i : Int)
    | none => -1
  if ((List.range 4).zip c).all fun e => decide (0 ≤ e.2 ∧ e.2 < (src.ext e.1 : Int)) then
    let n (i : Nat) : Nat := (((c)[i]?).getD 0).toNat
    some (((n 3 * src.ext 2 + n 2) * src.ext 1 + n 1) * src.ext 0 + n 0)
  else none

/-- The spans a list of tiles of a tensor covers (11, before R372). -/
def cpSpans (x : TCtx) (b : Bolt) (ts : List Nat) (s : State) : List Span :=
  match ts with
  | [] => []
  | t0 :: _ =>
    let lo := ts.foldl min t0
    let hi := ts.foldl max t0
    let n := hi - lo + 1
    (if b.sparse then [] else
      [spanAt x b.base (b.valuesAt lo) (b.valuesAt hi - b.valuesAt lo + elemBytes b.fmt b.cells) s]) ++
    (if b.scaled then [spanAt x b.scaleBase (512 * lo) (512 * n) s] else []) ++
    (if b.sparse then [spanAt x b.maskBase (2048 * lo) (2048 * n) s, spanAt x b.dir (8 * lo) (8 * n) s] else [])

def spansMeet (a b : List Span) : Bool := a.any fun y => b.any y.meets

/-- Exact aliasing (11 R374). -/
def cpAliased (d : Desc) (src dst : Bolt) : Bool :=
  src.base == dst.base && src.pitch == dst.pitch && src.fmt == dst.fmt && src.scaleBase == dst.scaleBase && !src.sparse &&
  !dst.sparse && cpSrcTile d == cpDstTile d

/-- A sparse tensor holds a format that a gauze tile may hold (02 R47). -/
def gauzeFmt (b : Bolt) : Bool := !b.sparse || decide (1 ≤ b.fmt ∧ b.fmt ≤ 8)

/-- The tiles of one matrix of the shard fit the staging region (11 R374). -/
def aliasSize (b : Bolt) : Bool := decide (b.ext 0 * b.ext 0 * (tileBytes b.fmt + (if b.scaled then 512 else 0)) ≤ 2 ^ 20)

/-- An aliased COPY is allowed (11 R374). -/
def cpAliasOk (x : TCtx) (d : Desc) (src dst : Bolt) (s : State) : Bool :=
  let n := src.ext 0
  cpInPlace d && dF 0x2C 1 d == 0xE1 && src.ext 1 == n && dst.ext 0 == n && dst.ext 1 == n && cpSrcTile d == 0 &&
  cpCount d == n * n && aliasSize src &&
  flag (bCroft x.croft) F.SH_STAGE_EN s

/-- Formats COPY converts between: any two value formats; the others only to themselves (11 R369; 02 R47). -/
def cpPairOk (a b : Nat) : Bool := decide (a ≤ 8 ∧ b ≤ 8) || a == b

/-- A cell of the destination tile that lies in its selvage. -/
def cpDead (dst : Bolt) (td p : Nat) : Bool := !liveAt dst td p

/-- What a copied tile becomes: the array with the cells to write, their counts, and the evaluations its draws take
(11 R369, R376). A cell that is live in the destination without a live source is not written; a selvage cell is written +0
under WRITE only. -/
def cpTile (x : TCtx) (d : Desc) (src dst : Bolt) (ts td : Nat) (a : Codes) (s : State) : Arr × Cnt × Nat :=
  let swap := cpPerm d 0 == 1
  let sr := if swap then src.liveCols ts else src.liveRows ts
  let sc := if swap then src.liveRows ts else src.liveCols ts
  let nr := min (dst.liveRows td) sr
  let nc := min (dst.liveCols td) sc
  let k := convCtx x (dStepTag d) dst.cls s
  let srcPos (r c : Nat) : Nat := if swap then 128 * c + r else 128 * r + c
  let raw := decide (8 < dst.fmt)
  let rows := (List.range nr).map fun r =>
    let cells := (List.range nc).map fun c => (dst.gindex td r c, src.fmt, a.val src (srcPos r c), (a.codes[srcPos r c]?).getD 0)
    if raw then [(⟨cells.map fun e => e.2.2.2, 127, ⟨nc, 0, 0, 0, 0⟩⟩ : Block)]
    else if src.fmt = 0 ∧ dst.fmt = 0 then
      [⟨cells.map fun e => (convert 0 e.2.2.1 .near).code, 127,
        (cells.map fun e => Cnt.of (convert 0 e.2.2.1 .near) (decode 0 (convert 0 e.2.2.1 .near).code)).foldl Cnt.add Cnt.zero⟩]
    else convRow k dst (cells.map fun e => (e.1, e.2.2.1))
  let put (o : Codes) (r : Nat) (l : List Block) : Codes :=
    let cs := (l.map Block.codes).flatten
    let o := ((List.range cs.length).zip cs).foldl (fun o e => { o with codes := o.codes.setIfInBounds (128 * r + e.1) e.2 }) o
    if dst.scaled then
      ((List.range l.length).zip l).foldl (fun o e => { o with scales := o.scales.setIfInBounds (4 * r + e.1) e.2.scale }) o
    else o
  let o := ((List.range nr).zip rows).foldl (fun o e => put o e.1 e.2) ⟨Array.replicate dst.cells 0, Array.replicate 512 0x7F⟩
  let out := (List.range dst.cells).filter fun p =>
    decide (p / 128 < nr ∧ p % 128 < nc) || cpWrite d && cpDead dst td p
  let evals := if k.sr && dst.fmt != 0 && !raw then
      ((List.range nr).map fun r => evalsOf ((List.range nc).map fun c => dst.gindex td r c)).foldl (· + ·) 0 else 0
  (⟨dst, td, true, out, if cpWrite d then (dst.tileRows, 128) else (nr, nc), dst.valuesAt td, dst.scaleBase + 512 * td,
    o.codes, o.scales, [], []⟩, (rows.flatten).foldl (fun n y => n.add y.cnt) Cnt.zero, evals)

/-- A sparse tile in its stored form: the bytes of a gauze tile, or the cells, scales and mask of a twill tile. -/
structure SpTile where
  e : DirEntry
  bytes : List Byte
  cells : Codes
  mask : List Byte
deriving DecidableEq, Repr

/-- A tile read ahead, as numbers, and back (11 R373). -/
def SpTile.data (y : SpTile) : List (List Nat) :=
  [[y.e.word], y.bytes.map BitVec.toNat, y.cells.codes.toList, y.cells.scales.toList, y.mask.map BitVec.toNat]
def SpTile.ofData (l : List (List Nat)) : SpTile :=
  let n (i : Nat) : List Nat := (l[i]?).getD []
  ⟨DirEntry.parse (nth (n 0) 0), (n 1).map (BitVec.ofNat 8), ⟨(n 2).toArray, (n 3).toArray⟩, (n 4).map (BitVec.ofNat 8)⟩
def Codes.data (k : Codes) : List (List Nat) := [k.codes.toList, k.scales.toList]
def Codes.ofData (l : List (List Nat)) : Codes := ⟨((l[0]?).getD []).toArray, ((l[1]?).getD []).toArray⟩

/-- Reads a sparse tile in its stored form. -/
def cpSparseRead (x : TCtx) (src : Bolt) (ts : Nat) : TM SpTile := do
  let e ← readDir x 0x18 src ts
  if e.twill then
    let a ← readLive x 0x18 src ts (sparseAt e) []
    let m ← tReadAt (x.masks src) 0x18 src.maskBase (2048 * ts) 2048
    pure ⟨e, [], a.cells, m⟩
  else
    let l ← tReadAt (x.values src) 0x18 src.base (sparseAt e) (e.bytes src)
    pure ⟨e, l, ⟨#[], #[]⟩, []⟩

/-- What a sparse tile written counts: its live cells as twill, its entries as gauze (06 R203). -/
def SpTile.count (y : SpTile) (b : Bolt) (t : Nat) : Cnt :=
  if y.e.twill then
    (livePos b t).foldl (fun n p => n.add (Cnt.kept ((y.cells.codes[p]?).getD 0) (y.cells.val b p))) Cnt.zero
  else
    let n := y.e.nnz
    let v := ((y.bytes.drop (290 + n)).take (gzValBytes b.fmt n)).toArray
    let sc := ((y.bytes.drop (290 + n + gzValBytes b.fmt n)).map BitVec.toNat).toArray
    (List.range n).foldl (fun k i =>
      let c := elemAt b.fmt v i
      k.add (Cnt.kept c (if b.scaled then decodeScaled b.fmt ((sc[i / 32]?).getD 0) c else decode b.fmt c))) Cnt.zero

/-- Writes a sparse tile as it is stored, its directory entry last (11 R370); the selvage of a twill tile follows SELVAGE
(11 R376). -/
def cpSparseWrite (x : TCtx) (d : Desc) (dst : Bolt) (td : Nat) (y : SpTile) : TM Unit := do
  if y.e.twill then
    let live := livePos dst td
    let codes := (y.cells.codes.toList.zip (List.range 16384)).map fun e => if cpDead dst td e.2 then 0 else e.1
    let a : Arr := ⟨dst, td, true, if cpWrite d then List.range 16384 else live,
      if cpWrite d then (128, 128) else (dst.liveRows td, dst.liveCols td), sparseAt y.e, dst.scaleBase + 512 * td,
      codes.toArray, y.cells.scales, [], []⟩
    writeVals x 0x1C a
    tWriteAt (x.masks dst) 0x1C dst.maskBase (2048 * td) y.mask
    writeScales x 0x1C { a with out := live, area := (dst.liveRows td, dst.liveCols td) }
  else tWriteAt (x.values dst) 0x1C dst.base (sparseAt y.e) (y.bytes.take 0x10 ++ bytesOf 4 dst.tag ++ y.bytes.drop 0x14)
  tCount x dst (y.count dst td) 0
  tWriteAt (x.dirs dst) 0x1C dst.dir (8 * td) (bytesOf 8 y.e.word)

/-- The spans of the stored forms of sparse tiles, and where their copies go. -/
def cpStored (x : TCtx) (src dst : Bolt) (tiles : List (Nat × Nat)) : TM (List (Span × Span)) :=
  tiles.mapM fun e => do
    let en := DirEntry.parse (natOf (← tPeek x 0x18 (spaceOf src.dir) (addrOf src.dir + 8 * e.1) 8))
    let s ← get
    pure (spanAt x src.base (sparseAt en) (en.bytes src) s, spanAt x dst.base (sparseAt en) (en.bytes dst) s)

/-- What holds of an exactly aliased COPY beside its tile range, and of one that does not alias (11 R374). -/
def cpAliasFit (x : TCtx) (d : Desc) (src dst : Bolt) (s : State) : Bool :=
  if cpAliased d src dst then
    cpInPlace d && dF 0x2C 1 d == 0xE1 && src.ext 0 == src.ext 1 && dst.ext 0 == src.ext 0 && dst.ext 1 == src.ext 1 &&
    aliasSize src && flag (bCroft x.croft) F.SH_STAGE_EN s
  else !cpInPlace d

/-- The staging region takes the whole region of an in-place COPY: the packed codes of its tiles in order, then their scale
bytes (11 R375; log entry 14). -/
def cpStage (x : TCtx) (src : Bolt) (n : Nat) : TM Unit := do
  let l ← (List.range n).mapM fun t => tReadAt (x.values src) 0x18 src.base (src.denseAt t) (tileBytes src.fmt)
  let sc ← if src.scaled then tReadAt (x.scales src) 0x18 src.scaleBase 0 (512 * n) else pure []
  tUpd fun s => larderWrite x.croft (getF (bCroft x.croft) F.SH_STAGE_BASE s) (l.flatten ++ sc) s

/-- A tile from the staging region. -/
def cpStaged (x : TCtx) (src : Bolt) (n t : Nat) (s : State) : Codes :=
  let base := getF (bCroft x.croft) F.SH_STAGE_BASE s
  let a := (larderRead x.croft (base + t * tileBytes src.fmt) (tileBytes src.fmt) s).toArray
  ⟨((List.range 16384).map fun i => elemAt src.fmt a i).toArray,
   if src.scaled then ((larderRead x.croft (base + n * tileBytes src.fmt + 512 * t) 512 s).map BitVec.toNat).toArray else #[]⟩

/-- Reads a source tile as a run holds one. -/
def cpHold (x : TCtx) (src : Bolt) (t : Nat) : TM (Nat × List (List Nat)) := do
  if src.sparse then pure (t, (← cpSparseRead x src t).data) else pure (t, (← readCodes x 0x18 src t).data)

/-- The spans of a COPY share bytes: how the shuttle orders its pieces (11 R373). -/
def noteOverlap (x : TCtx) (meet down : Bool) (s : State) : State :=
  updTask x.croft x.uid (fun t => { t with overlap := if meet then 1 + bitOf down else 0 }) s

/-- The start of a tensor-form COPY over its tiles: whether it goes downwards, and what it reads before it writes. Every
source tile of an overlapping COPY is read before a byte is written, so that no write covers a byte not yet read (11 R373). -/
def cpStart (x : TCtx) (d : Desc) (src dst : Bolt) (tiles : List (Nat × Nat)) : TM Unit := do
  let s ← get
  let alias_ := cpAliased d src dst
  let ss := cpSpans x src (tiles.map Prod.fst) s
  let ds := cpSpans x dst (tiles.map Prod.snd) s
  let stored ← if src.sparse then cpStored x src dst tiles else pure []
  let ss := stored.map Prod.fst ++ ss
  let ds := stored.map Prod.snd ++ ds
  let meet := spansMeet ss ds
  tCheck (alias_ || !meet || (dF 0x2C 1 d == 0xE4 && src.fmt == dst.fmt)) 0x0A 0x1C 0
  tStatsReach x 0x1C dst
  let down := meet && !alias_ && !decide (((ds.head?).map Span.lo).getD 0 < ((ss.head?).map Span.lo).getD 0)
  if alias_ then cpStage x src (cpCount d) else pure ()
  let held ← if meet && !alias_ then tiles.mapM fun e => cpHold x src e.1 else pure []
  tUpd (noteOverlap x meet down)
  tUpd (putWork x.croft { WorkRun.start x.uid [some src, some dst] [bitOf down, bitOf alias_] (cpCount d) with held := held })

/-- The checks of COPY in its tensor form (11 R368 to R374); an empty shard has nothing to do (02 R69). -/
def cpTensor (x : TCtx) (d : Desc) : TM Unit := do
  let a ← readBolt? x 0x18 (dF 0x18 4 d)
  let b ← readBolt? x 0x1C (dF 0x1C 4 d)
  match a, b with
  | none, _ => tFault 0x08 0x18 0
  | _, none => tFault 0x08 0x1C 0
  | some src, some dst =>
    tCheck (gauzeFmt src) 0x05 0x18 0
    tCheck (gauzeFmt dst && cpPairOk src.fmt dst.fmt) 0x05 0x1C 0
    tCheck (permOk d) 0x08 0x2C 0
    tCheck (src.rank == dst.rank && statsOk dst) 0x08 0x1C 0
    tCheck (!(src.sparse || dst.sparse) || (src.sparse && dst.sparse && src.fmt == dst.fmt && src.scaled == dst.scaled &&
      sameShape src dst && src.meshRank == dst.meshRank)) 0x08 0x1C 0
    tCheck (!src.sparse || dF 0x2C 1 d == 0xE4) 0x08 0x2C 0
    if src.empty || dst.empty then
      tCheck (cpAliasFit x d src dst (← get)) 0x0A 0x1C 0
      tUpd (markWorked x.croft x.uid)
    else
      tCheck (cpCount d != 0 && decide (cpDstTile d + cpCount d ≤ dst.tiles)) 0x08 0x28 0
      tCheck (decide (cpSrcTile d < src.tiles)) 0x08 0x20 0
      let tiles ← (rangeFrom (cpDstTile d) (cpCount d)).mapM fun t =>
        match cpSource d src dst t with
        | some q => pure (q, t)
        | none => tFault 0x08 0x20 0
      let s ← get
      tCheck (!(convCtx x (dStepTag d) dst.cls s).sr || dst.fmt == 0 || decide (8 < dst.fmt) ||
        drawsOk dst (tiles.map Prod.snd)) 0x08 0x1C 0
      tCheck (if cpAliased d src dst then cpAliasOk x d src dst s else !cpInPlace d) 0x0A 0x1C 0
      cpStart x d src dst tiles

/-- The spans of an in-place COPY's region. -/
def cpRegion (b : Bolt) (n : Nat) : List (Nat × Nat × Nat) :=
  ((List.range n).map fun t => (spaceOf b.base, addrOf b.base + b.denseAt t, tileBytes b.fmt)) ++
  (if b.scaled then [(spaceOf b.scaleBase, addrOf b.scaleBase, 512 * n)] else [])

/-- A piece of COPY is done; an in-place one that ends keeps what it has written and the number of its tiles (11 R375). -/
def cpDone (c : Nat) (w : WorkRun) (s : State) : State :=
  let s := pieceDone c w s
  if w.firm.isEmpty || decide (w.next + 1 < w.count) then s else putEnding c ⟨w.uid, none, none, [], w.firm, w.count⟩ s

/-- The next destination tile of a tensor-form COPY. -/
def cpTileWork (x : TCtx) (d : Desc) (w : WorkRun) (src dst : Bolt) : TM Unit := do
  let td := cpDstTile d + (if nth w.data 0 = 1 then w.count - 1 - w.next else w.next)
  let ts := (cpSource d src dst td).getD 0
  let held := (w.held.find? fun e => e.1 == ts).map Prod.snd
  let staged := nth w.data 1 == 1
  if src.sparse then
    let y ← match held with
      | some l => pure (SpTile.ofData l)
      | none => cpSparseRead x src ts
    cpSparseWrite x d dst td y
  else
    let k ← match held with
      | some l => pure (Codes.ofData l)
      | none => if staged then do pure (cpStaged x src w.count ts (← get)) else readCodes x 0x18 src ts
    let (a, cnt, evals) := cpTile x d src dst ts td k (← get)
    writeArr x 0x1C a
    tCount x dst cnt 0
    tEvals x evals
  tUpd (cpDone x.croft w)

/-- An in-place COPY begins to write once its whole region is staged; from then on it is not abandoned (11 R375). -/
def cpTilePiece (x : TCtx) (d : Desc) (w : WorkRun) (src dst : Bolt) : TM Unit := do
  if nth w.data 1 = 1 ∧ w.firm.isEmpty then
    if readsOut x.croft x.uid (← get) then pure () else tUpd (putWork x.croft { w with firm := cpRegion dst w.count })
  else cpTileWork x d w src dst

/-! ### The raw form (11 R371, R373) -/

/-- The start of a raw COPY: 64 KiB blocks, from the top down when the ranges overlap and the destination does not lie below
the source. -/
def cpRaw (x : TCtx) (d : Desc) : TM Unit := do
  let n := dF 0x28 4 d
  tCheck (n != 0) 0x08 0x28 0
  let s ← get
  let a := spanAt x (dF 0x18 8 d) 0 n s
  let b := spanAt x (dF 0x20 8 d) 0 n s
  let down := b.meets a && !decide (b.lo < a.lo)
  tUpd (noteOverlap x (b.meets a) down)
  tUpd (putWork x.croft (.start x.uid [] [bitOf down] (cdiv n 65536)))

/-- The next block of a raw COPY. -/
def cpRawPiece (x : TCtx) (d : Desc) (w : WorkRun) : TM Unit := do
  let o := 65536 * (if nth w.data 0 = 1 then w.count - 1 - w.next else w.next)
  let n := dF 0x28 4 d
  let range (a : Nat) : TCtx := x.within (addrOf a) (addrOf a + n)
  let l ← tReadAt (range (dF 0x18 8 d)) 0x18 (dF 0x18 8 d) o (min 65536 (n - o))
  tWriteAt (range (dF 0x20 8 d)) 0x20 (dF 0x20 8 d) o l
  tUpd (pieceDone x.croft w)

/-- The start of COPY, and its next tile or block. -/
def cpBegin (d : Desc) (x : TCtx) : TM Unit := if dRaw d then cpRaw x d else cpTensor x d
def cpPiece (d : Desc) (w : WorkRun) (x : TCtx) : TM Unit :=
  match w.bolts with
  | [some src, some dst] => cpTilePiece x d w src dst
  | _ => cpRawPiece x d w

/-- COPY (11 R367): its start, then a destination tile or a 64 KiB block at a time (11 R383). -/
def execCopy (c : CroftId) (s : State) : Host.Outcome State Fault Refusal :=
  .next (unitRow c.val opCopy (fun _ => true) cpBegin cpPiece s)

/-! ### GATHER (11 R377 to R380) -/

def gaRowBase (d : Desc) : Nat := dF 0x24 4 d
def gaCount (d : Desc) : Nat := dF 0x28 4 d

/-- Local rows of a tensor's shard. -/
def Bolt.localRows (b : Bolt) : Nat := min (128 * b.ext 1) (b.dim 1 - 128 * b.start 1)

/-- The picker's own streams: of indices and of rows (11, before R377). -/
def TCtx.picks (x : TCtx) : TCtx := { x with picker := true }

/-- Reads `n` entries of an index record. -/
def gaIndex (x : TCtx) (idx : Bolt) (rec n : Nat) : TM (List Nat) := do
  let l ← tReadAt (x.values idx).picks 0x1C idx.base (256 * rec) (2 * n)
  pure ((List.range n).map fun m => leAt l (2 * m) 2)

/-- Copies one row of codes between tiles of one tile column (11 R378). -/
def gaRow (x : TCtx) (src dst : Bolt) (col r m : Nat) : TM Unit := do
  let ts := src.tileAt col (r / 128)
  let td := dst.tileAt col (m / 128)
  let w := fmtBits src.fmt
  let nc := min (src.liveCols ts) (dst.liveCols td)
  let n := elemBytes src.fmt nc
  let l ← tReadAt (x.values src).picks 0x18 src.base (src.denseAt ts + 128 * (r % 128) * w / 8) n
  let oa := dst.denseAt td + 128 * (m % 128) * w / 8
  let old ← if nc * w % 8 = 0 then pure l else tPeek x 0x20 (spaceOf dst.base) (addrOf dst.base + oa) n
  let a := l.toArray
  let b := old.toArray
  let cs := (List.range (n * 8 / w)).map fun i => if i < nc then elemAt src.fmt a i else elemAt src.fmt b i
  tWriteAt (x.values dst) 0x20 dst.base oa (packAny src.fmt cs)
  let sc ← if src.scaled then tReadAt (x.scales src).picks 0x18 src.scaleBase (512 * ts + 4 * (r % 128)) (cdiv nc 32) else pure []
  if src.scaled then tWriteAt (x.scales dst) 0x20 dst.scaleBase (512 * td + 4 * (m % 128)) sc else pure ()
  let cnt := (List.range nc).foldl (fun k i =>
    let c := elemAt src.fmt a i
    k.add (Cnt.kept c (if src.scaled then decodeScaled src.fmt (((sc[i / 32]?).getD 0).toNat) c else decode src.fmt c))) Cnt.zero
  tCount x dst cnt 0

/-- One record of the dense form (11 R378). -/
def gaDensePiece (x : TCtx) (d : Desc) (src idx dst : Bolt) (rec : Nat) : TM Unit := do
  let is ← gaIndex x idx rec (min 128 (gaCount d - 128 * rec))
  ((List.range is.length).zip is).forM fun e => do
    if e.2 = 0xFFFF then tUpd (addF (bCroft x.croft) F.PK_SKIPPED 1)
    else
      let r := gaRowBase d + e.2
      tCheck (decide (r < src.localRows)) 0x08 0x1C 0
      (List.range (src.ext 0)).forM fun col => gaRow x src dst col r (128 * rec + e.1)
      tUpd (addF (bCroft x.croft) F.PK_ROWS 1)

/-- The selected rows of one record, up to its first 0xFFFF. -/
def recordRows (l : List Nat) : List Nat := l.takeWhile fun v => v != 0xFFFF

/-- An entry of a selected row: position, code, value. -/
structure Picked where
  pos : Nat
  code : Nat
  v : Val
deriving DecidableEq, Repr

/-- Column indices of entries with their rows keep R56: below 128, live, rising within a row. -/
def pickedOk (b : Bolt) (t : Nat) : List (Nat × Nat) → Bool
  | [] => true
  | [e] => decide (e.2 < 128 ∧ e.2 < b.liveCols t)
  | e :: f :: r => decide (e.2 < 128 ∧ e.2 < b.liveCols t) && (e.1 != f.1 || decide (e.2 < f.2)) && pickedOk b t (f :: r)

/-- The entries of rows [r0, r0 + n) of a gauze tile with row pointers `p`: their column indices, values and scales, and
nothing else of its arrays (11 R379). None = malformed. -/
def pickRun (x : TCtx) (b : Bolt) (t : Nat) (d : DirEntry) (p : Array Nat) (run : Nat × Nat) : TM (Option (List Picked)) := do
  let pt (r : Nat) : Nat := (p[r]?).getD 0
  let i0 := pt run.1
  let n := pt (run.1 + run.2) - i0
  if n = 0 then pure (some [])
  else
    let w := fmtBits b.fmt
    let at_ := sparseAt d + 290
    let cols := (← tReadAt (x.values b) 0x18 b.base (at_ + i0) n).toArray
    let v0 := i0 * w / 8
    let vals := (← tReadAt (x.values b) 0x18 b.base (at_ + d.nnz + v0) (cdiv ((i0 + n) * w) 8 - v0)).toArray
    let sAt := at_ + d.nnz + gzValBytes b.fmt d.nnz
    let sc ← if b.scaled then tReadAt (x.values b) 0x18 b.base (sAt + i0 / 32) ((i0 + n - 1) / 32 + 1 - i0 / 32) else pure []
    let row (i : Nat) : Nat := ((rangeFrom run.1 run.2).find? fun r => decide (i < pt (r + 1))).getD 0
    let col (i : Nat) : Nat := ((cols[i - i0]?).getD 0).toNat
    let code (i : Nat) : Nat := elemAt b.fmt vals (i - v0 * 8 / w)
    let is := rangeFrom i0 n
    if pickedOk b t (is.map fun i => (row i, col i)) then
      pure (some (is.map fun i => ⟨128 * row i + col i, code i,
        if b.scaled then decodeScaled b.fmt (((sc[i / 32 - i0 / 32]?).getD 0).toNat) (code i) else decode b.fmt (code i)⟩))
    else pure none

/-- The entries of some rows of a gauze tile, whose header and row pointers are checked; none = malformed. -/
def pickGauze (x : TCtx) (b : Bolt) (t : Nat) (d : DirEntry) (runs : List (Nat × Nat)) : TM (Option (List Picked)) := do
  let h ← tReadAt (x.values b) 0x18 b.base (sparseAt d) 290
  let pb := (h.drop 32).toArray
  let p := ((List.range 129).map fun i => elemAt 11 pb i).toArray
  if (gzHeaderBad b t d (h.take 32)).isSome || (gzRowsBad b t (h.take 32) p).isSome then pure none
  else runs.foldlM (fun o r => do
    match o, ← pickRun x b t d p r with
    | some l, some y => pure (some (l ++ y))
    | _, _ => pure none) (some [])

/-- The entries of some rows of a twill tile of a sparse tensor. -/
def pickTwill (x : TCtx) (b : Bolt) (t : Nat) (d : DirEntry) (runs : List (Nat × Nat)) : TM (List Picked) := do
  let nc := b.liveCols t
  let w := fmtBits b.fmt
  let l ← runs.mapM fun run => do
    let n := min run.2 (b.liveRows t - run.1)
    let m := (← tReadAt (x.masks b) 0x18 b.maskBase (2048 * t + 16 * run.1) (16 * n)).toArray
    let rows ← tReadRows (x.values b) 0x18 (spaceOf b.base) (addrOf b.base + sparseAt d + 128 * run.1 * w / 8) (elemBytes b.fmt nc) n (16 * w)
    let sc ← if b.scaled then tReadAt (x.scales b) 0x18 b.scaleBase (512 * t + 4 * run.1) (4 * n) else pure []
    pure (((List.range n).zip rows).map fun e =>
      let row := e.2.toArray
      ((List.range nc).filter fun c => maskBit m (128 * e.1 + c)).map fun c =>
        let code := elemAt b.fmt row c
        (⟨128 * (run.1 + e.1) + c, code,
          if b.scaled then decodeScaled b.fmt (((sc[4 * e.1 + c / 32]?).getD 0).toNat) code else decode b.fmt code⟩ : Picked)).flatten
  pure l.flatten

/-- Writes the tile that keeps the entries of the selected rows (11 R379, R380). -/
def gaTile (x : TCtx) (src dst : Bolt) (t : Nat) (rows : List Nat) : TM Unit := do
  let e ← readDir x 0x18 src t
  let runs := runsOf ((List.range 128).filter rows.contains)
  let keep ← if e.twill then pickTwill x src t e runs
    else match ← pickGauze x src t e runs with
      | some l => pure l
      | none => tFault 0x07 0x18 0
  let new := keep.map Picked.pos
  let twill := formTwill dst new.length
  let bytes := if twill then tileBytes dst.fmt else gzTileBytes dst.fmt dst.scaled new.length
  tCheck (decide (bytes ≤ dst.pitch)) 0x08 0x20 0
  let z := zeroArr dst t (dst.denseAt t) twill false new
  let (n, cnt, rr) :=
    if dst.scaled then
      let (n, c, _, r) := z.encode ⟨0, 0, false⟩ (List.replicate new.length 0) (keep.map Picked.v)
      (n, c, r)
    else
      let n := ((List.range keep.length).zip keep).foldl (fun (z : Arr) q => z.setCode q.1 q.2.code) z
      (n, (List.range keep.length).foldl (fun c i => c.add (Cnt.kept (n.code i) (n.val i))) Cnt.zero, 0)
  if twill then tWriteAt (x.masks dst) 0x20 dst.maskBase (2048 * t) (maskOf new).toList
  else tWriteAt (x.values dst) 0x20 dst.base (dst.denseAt t) (gauzeHead dst t e.gen new)
  writeArr x 0x20 n
  tCount x dst (weaveCnt dst t twill new.length cnt) 0
  tUpd (addF (bCroft x.croft) F.PK_REROUNDED rr)
  tWriteAt (x.dirs dst) 0x20 dst.dir (8 * t) (bytesOf 8 (DirEntry.mk (dst.denseAt t / 32) twill new.length e.gen).word)

/-- One record of the row-select form. -/
def gaSelectPiece (x : TCtx) (d : Desc) (src idx dst : Bolt) (rec : Nat) : TM Unit := do
  let rows := recordRows (← gaIndex x idx rec 128)
  let tr := gaRowBase d / 128 + rec
  tCheck (decide (tr < src.ext 1)) 0x08 0x1C 0
  tCheck (rows.all fun v => decide (v < 128 ∧ 128 * tr + v < src.localRows)) 0x08 0x1C 0
  (List.range (src.ext 0)).forM fun col => gaTile x src dst (src.tileAt col tr) rows
  tUpd (fun s => addF (bCroft x.croft) F.PK_ROWS rows.length (addF (bCroft x.croft) F.PK_SKIPPED (128 - rows.length) s))

/-- What GATHER asks of its tensors and of ROW_BASE and COUNT (11 R378, R379). -/
def gaCheck (d : Desc) (src dst : Bolt) : TM Unit :=
  if src.sparse then do
    tCheck (dst.sparse && dst.fmt == src.fmt && dst.scaled == src.scaled && sameShape src dst && dst.meshRank == src.meshRank)
      0x08 0x20 0
    tCheck (gaRowBase d % 128 == 0) 0x08 0x24 0
    tCheck (gaCount d % 128 == 0) 0x08 0x28 0
  else do
    tCheck (src.rank == 2) 0x08 0x18 0
    tCheck (dst.rank == 2 && !dst.sparse && dst.fmt == src.fmt && dst.scaled == src.scaled && dst.ext 0 == src.ext 0) 0x08 0x20 0
    tCheck (src.empty || dst.empty || decide (gaCount d ≤ dst.localRows)) 0x08 0x20 0

/-- The start of GATHER. -/
def gaBegin (d : Desc) (x : TCtx) : TM Unit := do
  let a ← readBolt? x 0x18 (dF 0x18 4 d)
  let i ← readBolt? x 0x1C (dF 0x1C 4 d)
  let b ← readBolt? x 0x20 (dF 0x20 4 d)
  match a, i, b with
  | none, _, _ => tFault 0x08 0x18 0
  | _, none, _ => tFault 0x08 0x1C 0
  | _, _, none => tFault 0x08 0x20 0
  | some src, some idx, some dst =>
    tCheck (productFmt src.fmt) 0x05 0x18 0
    tCheck (idx.fmt == 11) 0x05 0x1C 0
    tCheck (productFmt dst.fmt) 0x05 0x20 0
    tCheck (idx.rank == 1 && (idx.empty || decide (gaCount d ≤ 128 * idx.ext 0))) 0x08 0x1C 0
    tCheck (statsOk dst) 0x08 0x20 0
    gaCheck d src dst
    if src.empty || idx.empty || dst.empty || gaCount d == 0 then tUpd (markWorked x.croft x.uid)
    else
      tStatsReach x 0x20 dst
      tUpd (putWork x.croft (.start x.uid [some src, some idx, some dst] [] (cdiv (gaCount d) 128)))

/-- The next record of GATHER. -/
def gaPiece (d : Desc) (w : WorkRun) (x : TCtx) : TM Unit := do
  match w.bolts with
  | [some src, some idx, some dst] =>
    if src.sparse then gaSelectPiece x d src idx dst w.next else gaDensePiece x d src idx dst w.next
  | _ => pure ()
  tUpd (pieceDone x.croft w)

/-- GATHER (11 R378, R379): its start, then an index record at a time (11 R383). A fault at an index leaves what the indices
before it wrote. -/
def execGather (c : CroftId) (s : State) : Host.Outcome State Fault Refusal :=
  .next (unitRowKeep true c.val opGather (fun _ => true) gaBegin gaPiece s)

end Sys2Proof.Machine
end

