-- ==== Sys2Proof/Machine/Shuttle.lean ====
section
/-!
DEFINITION. The shuttle and the courier (11 R345 to R356): STREAM_GRANT, PIECE_ISSUE, PIECE_RETURN and
COURIER_TRANSFER. Pieces change when data move, never which bytes a task reads or writes (11 R355).
-/
namespace Sys2Proof.Machine

/-! ### Targets -/

/-- Every piece of a transfer in order, as (offset, address, bytes): rows that adjoin are contiguous bytes (11 R345, R347). -/
def Xfer.cuts (x : Xfer) (p : Nat) (s : State) : List (Nat × Nat × Nat) :=
  let (rows, len) := if x.stride = x.len then (1, x.len * x.rows) else (x.rows, x.len)
  ((List.range rows).map fun i =>
    let a := x.addr + i * x.stride
    (cut (cutUnit p x.space a s) a len).map fun c => (i * len + (c.1 - a), c.1, c.2)).flatten

/-- The next piece to issue: pieces go in ascending order, and from the end down in an overlapping COPY whose destination does not lie
below its source (11 R373). -/
def Xfer.nextCut (x : Xfer) (down : Bool) (p : Nat) (s : State) : Option (Nat × Nat × Nat) :=
  if down then (x.cuts p s).reverse.find? fun c => decide (c.1 + c.2.2 + x.next ≤ x.bytes)
  else (x.cuts p s).find? fun c => decide (x.next ≤ c.1)

/-- The transfer once the piece of `l` bytes at offset `o` is issued. -/
def Xfer.issued (x : Xfer) (down : Bool) (o l : Nat) : Xfer := { x with next := if down then x.bytes - o else o + l }

/-- An overlapping COPY issues no write while a read of the same or an earlier tile or block is still out (11 R373). -/
def writeHeld (c : Nat) (t : Task) (x : Xfer) (s : State) : Bool :=
  let k := croftOf c s
  let read (y : Xfer) : Bool := y.uid == x.uid && !y.write && decide (y.batch ≤ x.batch)
  x.write && t.overlap != 0 &&
  (k.xfers.any read || (k.streams.any fun e => match e.2 with | some y => read y | none => false) ||
   k.pieces.any fun p => p.uid == x.uid && !p.write && p.stream == 6)

/-! ### Deadlines (11 R349, R352, R353) -/

/-- Die of a croft. -/
def dieOf (c : Nat) : Nat := c / 152

/-- The ring link between two compute dies, if they are neighbours. -/
def ringLink (a b : Nat) : Option Nat :=
  if (a + 1) % 4 = b then some a else if (b + 1) % 4 = a then some b else none

/-- Traffic between two dies goes through the commons: diagonal dies, and neighbours whose ring link is out of service
(01 R28, R30). -/
def viaCommons (a b : Nat) (s : State) : Bool :=
  match ringLink a b with
  | some d => getF (bDie d) F.DIE_LINK_NEXT s == 0
  | none => true

/-- Boundaries between two compute dies (01 R28). -/
def dieHops (a b : Nat) (s : State) : Nat := if a = b then 0 else if viaCommons a b s then 2 else 1

/-- The cache slice that holds the granule of an address, if it is valid there (11 R361, R362). -/
def cacheHit (p a : Nat) (s : State) : Option Nat :=
  match cacheHome p a s with
  | some (sl, set) =>
    match findWay sl set (a / 2048) s with
    | some w => if granuleValid sl set w (a % 2048 / 64) s then some sl else none
    | none => none
  | none => none

/-- HOST_RD_NS of a function: the mean round trip of its host reads over the last 1 ms, 0 without one (16 R550, R569). -/
def hostRdNs (fn : Nat) (s : State) : Nat :=
  let l := s.host.trips.filter fun t => t.fn == fn && decide (s.time ≤ t.at_ + 10 ^ 6)
  min (2 ^ 16 - 1) (l.foldl (fun n t => n + t.ns) 0 / l.length)

/-- A host read has come back: its round trip counts for 1 ms. -/
def noteTrip (c piece : Nat) (s : State) : State :=
  match s.host.reads.find? fun r => r.croft == c && r.piece == piece with
  | some r => { s with host := { s.host with
      reads := s.host.reads.filter fun q => q != r
      trips := (s.host.trips.filter fun t => decide (s.time ≤ t.at_ + 10 ^ 6)) ++ [⟨r.part + 1, s.time, s.time - r.issued⟩] } }
  | none => s

/-- Idle latency of a target (11 R349): a cache hit has that of its slice; an encrypted range adds 10 ns (10 R340). -/
def idleNs (c space a : Nat) (s : State) : Nat :=
  let enc := match contextOf c s with | some p => if keyGenOf p s = 0 then 0 else 10 | none => 0
  match space with
  | 0 =>
    if a < 2 ^ 40 then 140 + 25 * dieHops (dieOf c) (a / 2 ^ 38) s
    else match cacheHit ((contextOf c s).getD 8) a s with
      | some sl => 40 + 25 * dieHops (dieOf c) (sl / 16) s
      | none => (if a < 2 ^ 44 then 320 else 700) + enc
  | 1 => hostRdNs ((contextOf c s).getD 8 + 1) s + 50
  | 3 => if bit 32 a then 40 + 25 * dieHops (dieOf c) (bits 30 2 a) s
         else 60 + 25 * dieHops (dieOf c) (dieOf (globalPhys (bits 22 10 a) s)) s
  | _ => 60

/-- How far a task has come, in tiles, blocks or records: those it has taken up and all of them. -/
def progress (c : Nat) (t : Task) (s : State) : Option (Nat × Nat) :=
  let k := croftOf c s
  match k.work.find? fun w => decide (w.uid = t.uid) with
  | some w => some (w.next, w.count)
  | none =>
    let all := dF (if dOpcode t.desc = opLoomPair then 0x32 else 0x2A) 2 t.desc
    match k.gz.filter fun g => decide (g.uid = t.uid), k.loom.filter fun g => decide (g.uid = t.uid) with
    | some g, _ => some (g.next, all)
    | none, some g => some (g.next, all)
    | none, none => none

/-- Stream bytes of a task in one direction (11 R352): the bytes of a raw COPY; else what its work has named so far, in proportion
to the tiles, blocks or records that are still to come (log entry 15). -/
def streamBytes (c : Nat) (t : Task) (write : Bool) (s : State) : Nat :=
  let named := if write then t.writeNamed else t.readNamed
  if dRaw t.desc then dF 0x28 4 t.desc
  else match progress c t s with
    | some (n, all) => if 0 < n then named * all / n else named
    | none => named

/-- Nanoseconds that `n` bytes take at the rate estimate of a task's unit class (11 R353). -/
def atRate (c : Nat) (t : Task) (x : Xfer) (n : Nat) (s : State) : Nat :=
  let l := mapGet (fun _ => []) (croftOf c s).rates x.unit
  let cycles :=
    if l.length < 64 then n * (dCycles t.desc * 256) / max 1 (streamBytes c t x.write s)
    else
      let mean := (l.foldl (fun m e => m + e.1 * 65536 / max 1 e.2) 0) / 64
      n * 65536 / max 1 mean
  cycles * 1000 / clockMhz c s

/-- When a unit runs dry without the bytes at offset `o` of a read transfer of its task (11 R352). -/
def needAt (c : Nat) (t : Task) (x : Xfer) (o : Nat) (s : State) : Nat := s.time + atRate c t x (x.offset + o - t.readBack) s

/-- A transfer of COPY, SEND_TILE or PARITY, or a write of GATHER, whose deadlines come from the task's DEADLINE; the reads of
the picker are a read stream of its class (11 R352, R377). -/
def Xfer.byTask (x : Xfer) : Bool := x.unit == 5 || (x.unit == 4 && x.write)

/-- Deadline of a piece at offset `o` of a transfer (11 R352); with EST_CYCLES 0 it is due at once (11 R353). -/
def deadlineOf (c : Nat) (t : Task) (x : Xfer) (o addr n : Nat) (s : State) : Nat :=
  if dCycles t.desc = 0 then s.time
  else if x.byTask then
    if dDeadlineEn t.desc then t.release + dDeadline t.desc * (x.offset + o + n) / max 1 (streamBytes c t x.write s)
    else s.time + slackNs x.space addr s
  else if x.write then s.time + atRate c t x x.next s
  else max s.time (needAt c t x o s - idleNs c x.space addr s)

/-! ### Streams (11 R346) -/

def streamOf (c n : Nat) (s : State) : Option Xfer := mapGet (fun _ => none) (croftOf c s).streams n
def setStream (c n : Nat) (x : Option Xfer) (s : State) : State :=
  updCroft c (fun k => { k with streams := mapPut (fun _ => none) n x k.streams }) s

/-- Stream numbers a transfer may take: the picker has two of its own, for indices and for rows, which do not count among the six (11,
before R377). -/
def streamNumbers (picker : Bool) : List Nat := if picker then [8, 9] else List.range 6

/-- The stream a transfer is granted now, if any: a free one, at most two of the six to a unit class. -/
def freeStream (c : Nat) (x : Xfer) (s : State) : Option Nat :=
  let l := streamNumbers x.picker
  let used := l.filter fun n => match streamOf c n s with | some y => y.unit == x.unit | none => false
  if 2 ≤ used.length then none else l.find? fun n => (streamOf c n s).isNone

/-- Removes the first transfer equal to `x`. -/
def dropXfer (c : Nat) (x : Xfer) (s : State) : State :=
  updCroft c (fun k => { k with xfers := removeFirst (fun y => y == x) k.xfers }) s

/-- One transfer asks for its stream before another: in an earlier croft cycle, or in the same one with the earlier unit class, in
the order G, L, F, U, P, S (11 R346). -/
def asksBefore (c : Nat) (x y : Xfer) (s : State) : Bool :=
  decide (nsToCycles c x.asked s < nsToCycles c y.asked s) ||
  (nsToCycles c x.asked s == nsToCycles c y.asked s && decide (x.unit < y.unit))

/-- The transfer whose turn it is: of those that may have a stream, the first to ask. -/
def nextAsk (c : Nat) (s : State) : Option Xfer :=
  ((croftOf c s).xfers.filter fun x => !x.courier && (freeStream c x s).isSome).foldl (fun b x =>
    match b with
    | none => some x
    | some y => if asksBefore c x y s then some x else some y) none

/-- STREAM_GRANT (11 R346): the transfer that asked first, of those that may have a stream, is granted one. -/
def execStreamGrant (c : CroftId) (s : State) : Host.Outcome State Fault Refusal :=
  .next (match nextAsk c.val s with
    | none => s
    | some x =>
      match freeStream c.val x s with
      | none => s
      | some n => setStream c.val n (some x) (dropXfer c.val x s))

/-- A unit waits for a stream: one that it has asked for is not to be had (11 R346). -/
def waitsForStream (c u : Nat) (s : State) : Bool :=
  (croftOf c s).xfers.any fun x => x.unit == u && !x.courier && (freeStream c x s).isNone

/-- When a unit runs dry without the next piece of a read transfer that is still to be issued: at once without what it reads alone,
else when it has used what has come back (11 R352). -/
def runsDryAt (c : Nat) (x : Xfer) (s : State) : Nat :=
  match findTask c x.uid s with
  | some t => if x.courier then x.asked else x.asked + atRate c t x (x.offset + x.next - t.readBack) s
  | none => s.time

/-- A unit waits for a piece of what feeds it: one that is still out, or still to be issued, and the unit has run dry (11 R352, R356). -/
def waitsForPiece (c u : Nat) (s : State) : Bool :=
  let k := croftOf c s
  let dry (x : Xfer) : Bool := x.unit == u && !x.write && decide (x.next < x.bytes) && decide (runsDryAt c x s < s.time)
  decide (u < 5) && (k.pieces.any (fun p => p.unit == u && !p.write && decide (p.need < s.time)) ||
    k.xfers.any dry || k.streams.any fun e => match e.2 with | some x => dry x | none => false)

/-- The waits of a croft's units over some cycles (11 R346, R356). -/
def countWaits (c cycles : Nat) (s : State) : State :=
  let n (f : Nat → Bool) : Nat := ((List.range 7).filter f).length * cycles
  addF (bCroft c) F.SH_STREAM_WAITS (n fun u => waitsForStream c u s)
    (addF (bCroft c) F.SH_DRY_CYCLES (n fun u => waitsForPiece c u s) s)

/-! ### Pieces (11 R347, R354; 10 R330) -/

/-- Request slots of a piece: one for each 256-byte piece of a packet to a peer (11 R347, 13 R430). -/
def slotsOf (space a n : Nat) : Nat := if space = 2 then cdiv (a % 256 + n) 256 else 1

/-- Slots in use, by kind. -/
def slotsUsed (c : Nat) (s : State) : Nat :=
  (croftOf c s).pieces.foldl (fun n p => if p.stream = 6 then n else n + slotsOf p.space p.addr p.len) 0
def courierUsed (c : Nat) (s : State) : Nat := ((croftOf c s).pieces.filter fun p => p.stream == 6).length

/-- A piece has room at its target: at most 12 outstanding to one tier-1 pseudo-channel (10 R330). -/
def roomAt (c space a : Nat) (s : State) : Bool :=
  if space = 0 ∧ a < 2 ^ 40 then
    decide (((croftOf c s).pieces.filter fun p => p.space == 0 && decide (p.addr < 2 ^ 40) &&
      ctrlOf p.addr s == ctrlOf a s).length < 12)
  else true

/-- The bytes a task has put up for a peer at an address. -/
def peerBytes (c uid a n : Nat) (s : State) : List Byte :=
  match (croftOf c s).peerOut.find? fun w => decide (w.uid = uid ∧ w.addr ≤ a ∧ a + n ≤ w.addr + w.data.length) with
  | some w => (w.data.drop (a - w.addr)).take n
  | none => List.replicate n 0

/-- A piece for a peer leaves as one packet; without a usable route its task faults with LINK_LOST (13 R427, R430). -/
def submitPeer (c : Nat) (x : Xfer) (part id stream addr n : Nat) (s : State) : State :=
  let data := if x.write then some (peerBytes c x.uid addr n s) else none
  match sendPeer part c x.uid id ((c * 16 + stream) % 2 ^ 16) false addr n data s with
  | some s => s
  | none =>
    failTask c x.uid ⟨0x0C, 0, 0, 0, 0, []⟩
      (updCroft c (fun k => { k with pieces := k.pieces.map fun q => if q.id = id then { q with served := true } else q }) s)

/-- A new piece is sent to what serves it: a controller, a slice, or at once for larders, peers and the host. -/
def submit (c : Nat) (x : Xfer) (stream addr n deadline need : Nat) (s : State) : State :=
  let id := s.nextUid
  let s := { s with nextUid := id + 1 }
  let part := (contextOf c s).getD 0
  let req : Req := ⟨c, id, part, addr, n, x.write, deadline, s.time, false⟩
  let slice := sliceFor part x.space addr s
  let ctrl : Option Nat := if x.space = 0 ∧ slice.isNone then ctrlOf addr s else none
  let s := updCroft c (fun k => { k with
    pieces := k.pieces ++ [⟨id, x.uid, x.unit, stream, x.space, addr, n, x.write, deadline, need,
      slice.isNone && ctrl.isNone && x.space != 2, false, false, s.time⟩] }) s
  match slice, ctrl with
  | some i, _ => setSliceQueue i (sliceQueue i s ++ [req]) s
  | none, some q => arriveAt q req s
  | none, none =>
    if x.space = 2 then submitPeer c x part id stream addr n s
    else if x.space = 1 ∧ !x.write then { s with host := { s.host with reads := s.host.reads ++ [⟨c, id, part, s.time⟩] } } else s

/-- The piece each stream could issue: stream, transfer, offset, address, bytes, deadline. -/
def issuable (c : Nat) (s : State) : List (Nat × Xfer × Nat × Nat × Nat × Nat) :=
  (List.range 10).filterMap fun n =>
    match streamOf c n s with
    | none => none
    | some x =>
      match findTask c x.uid s,
        x.nextCut (((findTask c x.uid s).map Task.overlap).getD 0 == 2) ((contextOf c s).getD 0) s with
      | some t, some (o, a, l) =>
        let picker := ((croftOf c s).pieces.filter fun p => p.unit == 4 && p.stream != 6).foldl
          (fun n p => n + slotsOf p.space p.addr p.len) 0
        if !writeHeld c t x s && roomAt c x.space a s && (x.unit != 4 || decide (picker + slotsOf x.space a l ≤ 24)) then
          some (n, x, o, a, l, deadlineOf c t x o a l s)
        else none
      | _, _ => none

/-- The earliest of some candidates; ties go to the lower stream number. -/
def earliest (l : List (Nat × Xfer × Nat × Nat × Nat × Nat)) : Option (Nat × Xfer × Nat × Nat × Nat × Nat) :=
  l.foldl (fun b e =>
    match b with
    | none => some e
    | some y => if e.2.2.2.2.2 < y.2.2.2.2.2 then some e else some y) none

/-- Issues a piece of a stream; one outside the stream's bounds is never issued, and its task faults (11 R345). -/
def issuePiece (c n : Nat) (x : Xfer) (o a l d : Nat) (s : State) : State :=
  if x.lo ≤ a ∧ a + l ≤ x.hi then
    let t := findTask c x.uid s
    let down := (t.map Task.overlap).getD 0 == 2
    let need := match t with
      | some t => if x.write || x.byTask then d else needAt c t x o s
      | none => d
    submit c x n a l d need (setStream c n (some (x.issued down o l)) s)
  else failTask c x.uid ⟨0x08, 0, 0, 0, 0, []⟩ s

/-- PIECE_ISSUE (11 R354): one piece, the earliest deadline first. -/
def execPieceIssue (c : CroftId) (s : State) : Host.Outcome State Fault Refusal :=
  .next (if slotsUsed c.val s < 48 then
    match earliest ((issuable c.val s).filter fun e =>
      decide (slotsUsed c.val s + slotsOf e.2.1.space e.2.2.2.1 e.2.2.2.2.1 ≤ 48)) with
    | none => s
    | some (n, x, o, a, l, d) => issuePiece c.val n x o a l d s
  else s)

/-- A courier transfer takes a courier slot; one outside its bounds is never issued, and its task faults (11 R350, R351). -/
def issueCourier (c : Nat) (x : Xfer) (s : State) : State :=
  if x.lo ≤ x.addr ∧ x.addr + x.len ≤ x.hi then
    addF (bCroft c) F.SH_COURIER_OPS 1 (submit c x 6 x.addr x.len s.time s.time (dropXfer c x s))
  else failTask c x.uid ⟨0x08, 0, 0, 0, 0, []⟩ s

/-- COURIER_TRANSFER (11 R350, R351): the oldest transfer of the courier path takes a courier slot. -/
def execCourierTransfer (c : CroftId) (s : State) : Host.Outcome State Fault Refusal :=
  .next (if courierUsed c.val s < 8 then
    match (croftOf c.val s).xfers.find? fun x => x.courier && roomAt c.val x.space x.addr s &&
        !(match findTask c.val x.uid s with | some t => writeHeld c.val t x s | none => false) with
    | none => s
    | some x => issueCourier c.val x s
  else s)

/-- Some transfer of the same tile and direction as `x` is still to come back. -/
def tileMoving (c : Nat) (x : Xfer) (s : State) : Bool :=
  let same (y : Xfer) : Bool := y.uid == x.uid && y.batch == x.batch && y.write == x.write && !y.courier
  (croftOf c s).xfers.any same || (croftOf c s).streams.any fun e => match e.2 with | some y => same y | none => false

/-- The rate sample of a tile that has moved whole: its bytes, and the croft cycles since its unit asked for it or had moved its
last tile (11 R353; log entry 15). -/
def sampleTile (c : Nat) (x : Xfer) (s : State) : State :=
  if tileMoving c x s then s
  else updCroft c (fun k =>
    let from_ := max x.asked (mapGet (fun _ => 0) k.sampled x.unit)
    let l := mapGet (fun _ => []) k.rates x.unit ++ [(x.tile, nsToCycles c (s.time - from_) s)]
    { k with rates := mapPut (fun _ => []) x.unit (l.drop (l.length - 64)) k.rates
             sampled := mapPut (fun _ => 0) x.unit s.time k.sampled }) s

/-- A stream whose last byte has returned is free; with the last one of a tile comes a rate sample (11 R353). -/
def endStream (c n : Nat) (s : State) : State :=
  match streamOf c n s with
  | none => s
  | some x => if x.len * x.rows ≤ x.back then sampleTile c x (setStream c n none s) else s

/-- A piece was served after its deadline: as its controller or slice saw it, else at its return. -/
def pieceLate (p : Piece) (s : State) : Bool :=
  if p.space = 0 ∨ (p.space = 3 ∧ bit 32 p.addr) then p.late else decide (p.deadline < s.time)

/-- What a returned piece counts (11 R356, R384). -/
def countPiece (c : Nat) (p : Piece) (s : State) : State :=
  let b := bCroft c
  let s := if pieceLate p s then addF b F.SH_LATE_PIECES 1 s else s
  let s := if p.write || p.stream == 6 then s else updTask c p.uid (fun t => { t with readBack := t.readBack + p.len }) s
  addUnits b (if p.write then F.SH_BYTES_WRITTEN else F.SH_BYTES_READ) p.len s

/-- The fault of a task whose piece came with poison: the granule of space 0 that is poisoned (10 R336). -/
def poisonFault (c : Nat) (p : Piece) (s : State) : TFault :=
  let part := (contextOf c s).getD 0
  ⟨0x0B, 0, 5, p.space, firstGranule (fun x => granulePoison part x s) p.addr p.len, []⟩

/-- PIECE_RETURN (11 R348; 10 R336): the oldest piece of a stream, once it has been served, frees its slot; poison
faults its task. -/
def execPieceReturn (c : CroftId) (n : Fin 10) (s : State) : Host.Outcome State Fault Refusal :=
  .next (match (croftOf c.val s).pieces.find? fun p => p.stream == n.val with
    | none => s
    | some p =>
      if p.served then
        let s := updCroft c.val (fun k => { k with pieces := k.pieces.filter fun q => q.id != p.id }) (countPiece c.val p s)
        let s := noteTrip c.val p.id s
        let s := match streamOf c.val n.val s with
          | some x => if x.uid = p.uid then endStream c.val n.val (setStream c.val n.val (some { x with back := x.back + p.len }) s) else s
          | none => s
        if p.poison then failTask c.val p.uid (poisonFault c.val p s) s else s
      else s)

end Sys2Proof.Machine
end

