-- ==== Sys2Proof/Machine/MemCtl.lean ====
section
/-!
DEFINITION. The memory controllers and the granary (10 R321 to R344, 11 R357 to R366, 01 R30, R31, 19 R641): serving
requests, merging, error handling, refresh, retraining, patrol scrub, failures, the interleave maps, key pairs, and
cache-mode slices. What a request returns was fixed when its task read it (11 R355); serving it decides when, and
whether it comes with poison.
-/
namespace Sys2Proof.Machine

/-! ### Interleave maps (10 R321 to R324) -/

/-- Channels of each set of a tier under a mode, by set number. -/
def setChannels (tier mode : Nat) : List (List Nat) :=
  let n := if tier = 2 then 12 else 4
  let ways := if tier = 2 then (if mode = 0 then 12 else if mode = 1 then 6 else if mode = 2 then 2 else 1)
              else (if mode = 0 then 4 else if mode = 1 then 2 else 1)
  (List.range (n / ways)).map fun i => rangeFrom (i * ways) ways

/-- Smallest capacity of a set in GiB. -/
def setGib (tier : Nat) (l : List Nat) (s : State) : Nat :=
  l.foldl (fun m c => min m (getF (chanBlock tier c) F.MC_CAPACITY_MIB s / 1024)) (2 ^ 32)

/-- Places the sets of a tier from a base on, in ascending order. -/
def placeSets (tier : Nat) (s : State) : Nat → List (Nat × List Nat) → List ISet
  | _, [] => []
  | base, (i, l) :: r =>
    let size := l.length * setGib tier l s * 2 ^ 30
    ⟨tier, i, l, base, size⟩ :: placeSets tier s (base + size) r

/-- The sets in use of a tier under its mode. -/
def setsOf (tier mode : Nat) (s : State) : List ISet :=
  let l := setChannels tier mode
  placeSets tier s (if tier = 2 then 2 ^ 40 else 2 ^ 44)
    (((List.range l.length).zip l).filter fun e => e.2.all fun c => usable tier c s)

/-- The channels of a set have unequal capacities (10 R326). -/
def unequal (t : ISet) (s : State) : Bool :=
  t.chans.any fun c => t.chans.any fun d =>
    getF (chanBlock t.tier c) F.MC_CAPACITY_MIB s != getF (chanBlock t.tier d) F.MC_CAPACITY_MIB s

/-- What the HDM decoders of the expanders in the tier-3 sets are programmed with (10 R324). -/
def hdmOf (l : List ISet) : List Hdm :=
  (l.map fun t => ((List.range t.chans.length).zip t.chans).map fun e => (⟨e.2, t.chans.length, 2048, e.1⟩ : Hdm)).flatten

/-- MAP_CTRL.APPLY: rebuilds both maps (10 R322, R324, R343), with a capacity event for unequal sets (R326). -/
def mapApply (s : State) : State :=
  let l2 := setsOf 2 (getF bMemMap F.MAP_TIER2_MODE s) s
  let l3 := setsOf 3 (getF bMemMap F.MAP_TIER3_MODE s) s
  let s := refreshMap { s with memsys := { s.memsys with sets := l2 ++ l3, hdm := hdmOf l3 } }
  (l2 ++ l3).foldl (fun s t =>
    if unequal t s then raise bMemMap 0x09 2 .none false (t.tier + t.num * 2 ^ 8) s else s) s

/-- Some partition holds a tier-2 or tier-3 range. -/
def rangesHeld (s : State) : Bool := (List.range 8).any fun p => !(partOf p s).ranges.isEmpty

/-! ### Key pairs (10 R341, 17 R571) -/

/-- Generates and loads a key pair in both edge dies. -/
def keyGenerate (p : Nat) (s : State) : State :=
  let g := s.memsys.nextKey + 1
  let s := { s with memsys := { s.memsys with nextKey := g, keys := mapPut (fun _ => 0) p g s.memsys.keys } }
  let s := setF bMemMap F.MAP_KEY_VALID (getF bMemMap F.MAP_KEY_VALID s ||| 2 ^ p) s
  let s := (List.range 2).foldl (fun s e => setF (bEdge e) F.DIE_KEYS_LOADED (getF (bEdge e) F.DIE_KEYS_LOADED s ||| 2 ^ p) s) s
  journal 0x0A (sourceOf bReeve s) p 1 (p + 256) s

/-- Destroys a key pair. -/
def keyDestroy (p : Nat) (s : State) : State :=
  let s := { s with memsys := { s.memsys with keys := mapDel p s.memsys.keys } }
  let s := setF bMemMap F.MAP_KEY_VALID (clearBit p (getF bMemMap F.MAP_KEY_VALID s)) s
  let s := (List.range 2).foldl (fun s e => setF (bEdge e) F.DIE_KEYS_LOADED (clearBit p (getF (bEdge e) F.DIE_KEYS_LOADED s)) s) s
  journal 0x0A (sourceOf bReeve s) p 1 p s

def keyHeld (p : Nat) (s : State) : Bool := bit p (getF bMemMap F.MAP_KEY_VALID s)

/-! ### Controllers -/

/-- Controller code, as `ctrlOf` gives it. -/
def ctrlCode : CtrlId → Nat
  | .hbm h pc => 64 * h.val + pc.val
  | .ddr c => 1024 + c.val
  | .cxl x => 1036 + x.val
def chanTier : ChanId → Nat | .ddr _ => 2 | .cxl _ => 3
def chanNum : ChanId → Nat | .ddr c => c.val | .cxl x => x.val
def chanCode : ChanId → Nat | .ddr c => 1024 + c.val | .cxl x => 1036 + x.val

/-- The counters of a controller: CE, UE, DEADLINE_MISSES, MERGED, LAST_UE. -/
def fCe (q : Nat) : Field := if q < 1024 then F.HB_CE else F.MC_CE
def fUe (q : Nat) : Field := if q < 1024 then F.HB_UE else F.MC_UE
def fMiss (q : Nat) : Field := if q < 1024 then F.HB_DEADLINE_MISSES else F.MC_DEADLINE_MISSES
def fMerged (q : Nat) : Field := if q < 1024 then F.HB_MERGED else F.MC_MERGED
def setLastUe (q a : Nat) (s : State) : State :=
  if q < 1024 then setPair (ctrlPage q) F.HB_LAST_UE_LO F.HB_LAST_UE_HI a s
  else setPair (ctrlPage q) F.MC_LAST_UE_LO F.MC_LAST_UE_HI a s

/-- The access unit of a request (10 R327). -/
def unitOfReq (r : Req) : Nat := r.addr / pieceUnit 0 r.addr

/-- Two requests share a 256-byte block, within which the order of arrival holds (10 R331). -/
def sameBlock (x y : Req) : Bool :=
  decide (x.addr / 256 ≤ (y.addr + y.len - 1) / 256 ∧ y.addr / 256 ≤ (x.addr + x.len - 1) / 256)

/-- No request of a list that shares a block with `r` has arrived before it. -/
def firstOfBlock (l : List Req) (r : Req) : Bool := !(l.any fun x => decide (x.piece < r.piece) && sameBlock x r)

/-- The request of the earliest deadline, ties by arrival (10 R331); `due` gives each one's deadline. -/
def earliestReq (due : Req → Nat) (l : List Req) : Option Req :=
  l.foldl (fun b r =>
    match b with
    | none => some r
    | some y => if due r < due y ∨ (due r = due y ∧ r.piece < y.piece) then some r else some y) none

/-- The requests that a controller holds: up to 64 (10 R331). -/
def holdOf (q : Nat) (s : State) : List Req := (queueOf q s).take 64

/-- A controller with room takes requests from the admission queue, earliest deadline first (10 R331). -/
def refill : Nat → List Req → List Req → List Req
  | 0, hold, rest => hold ++ rest
  | n + 1, hold, rest =>
    if 64 ≤ hold.length then hold ++ rest
    else match earliestReq Req.deadline (rest.filter (firstOfBlock rest)) with
      | none => hold
      | some r => refill n (hold ++ [r]) (rest.filter fun x => x.piece != r.piece)

/-- Requests that a controller has served leave it, and those that waited for room come. -/
def dropReqs (q : Nat) (gone : Req → Bool) (s : State) : State :=
  let keep (l : List Req) : List Req := l.filter fun r => !gone r
  let rest := keep ((queueOf q s).drop 64)
  admitWaiting q (setQueue q (refill rest.length (keep (holdOf q s)) rest) s)

/-! ### Errors (10 R336, R337) -/

/-- The bank of a tier-1 address, among all. -/
def bankKey (a : Nat) : Nat := (a / 2 ^ 36 * 64 + pcOf a) * 16 + bankOf a

/-- Key of a tier-1 row: stack, pseudo-channel, bank and row. -/
def rowKey (a : Nat) : Nat := bankKey a * 2 ^ 24 + rowOf a

/-- When a bank is free: the end of its stall, and of the retraining of its pseudo-channel (10 R333, R335, R337). -/
def bankFree (bank : Nat) (s : State) : Nat :=
  max s.time (max (mapGet (fun _ => 0) s.memsys.bankBusy bank) (mapGet (fun _ => 0) s.memsys.retrainEnd (bank / 16)))

/-- Soft post-package repair of a row, while spare rows remain: its bank stalls for the copy, once it is free. -/
def softRepair (a : Nat) (s : State) : State :=
  let b := bHbm (a / 2 ^ 36)
  if getF b F.HB_PPR_LEFT s = 0 then s
  else
    let s := setF b F.HB_PPR_LEFT (getF b F.HB_PPR_LEFT s - 1) (addF b F.HB_PPR_DONE 1 s)
    { s with memsys := { s.memsys with
        softRepairs := s.memsys.softRepairs ++ [rowKey a]
        rowErrs := s.memsys.rowErrs.filter fun e => e.row != rowKey a
        bankBusy := mapPut (fun _ => 0) (bankKey a) (bankFree (bankKey a) s + 2000) s.memsys.bankBusy } }

/-- A correctable error: corrected in data and memory, counted; a second one of a tier-1 row within 24 h repairs it. -/
def correctable (q a : Nat) (s : State) : State :=
  let s := addF (ctrlPage q) (fCe q) 1 s
  if q < 1024 then
    let day := 86400 * 10 ^ 9
    let old := s.memsys.rowErrs.filter fun e => decide (s.time < e.since + day)
    if old.any fun e => e.row == rowKey a then softRepair a s
    else { s with memsys := { s.memsys with rowErrs := old ++ [⟨rowKey a, s.time⟩] } }
  else s

/-- The counts of an uncorrectable error, and the poison of its granule (10 R336). -/
def noteUe (q pl : Nat) (s : State) : State :=
  addF (ctrlPage q) (fPoison q) 1 (addF (ctrlPage q) (fUe q) 1 (setPoison pl true s))

/-- An uncorrectable error at an address: the granule is poisoned, counted, reported and recorded. -/
def uncorrectable (q a : Nat) (s : State) : State :=
  let s := setLastUe q a (match place0 a s with | some pl => noteUe q pl s | none => s)
  let sc : Scope := match ownerOfAddr a s with | some p => .part p | none => .none
  let s := journal 0x08 (sourceOf (ctrlPage q) s) ((ownerOfAddr a s).getD 8) 2 a (raise (ctrlPage q) 0x09 1 sc true a s)
  if q < 1024 then softRepair a s else s

/-! ### Serving requests -/

/-- The bank of a request is being refreshed or repaired (10 R333, R337). -/
def bankStalled (q : Nat) (r : Req) (s : State) : Bool :=
  decide (q < 1024) && decide (s.time < mapGet (fun _ => 0) s.memsys.bankBusy (bankKey r.addr))

/-- Reads that one access serves with `r` out of those queued: the same partition and access unit, with no write between in order
of arrival (11 R357). -/
def mergedWith (l : List Req) (r : Req) : List Req :=
  if r.write then []
  else l.filter fun x =>
    !x.write && x.part == r.part && x.piece != r.piece && unitOfReq x == unitOfReq r &&
    !(l.any fun w => w.write && unitOfReq w == unitOfReq r && decide (min r.piece x.piece < w.piece ∧ w.piece < max r.piece x.piece))

/-- The deadline of the access that serves a request: the earliest among the requests it merges (11 R357). -/
def dueOf (l : List Req) (r : Req) : Nat := (mergedWith l r).foldl (fun d x => min d x.deadline) r.deadline

/-- The request a controller serves now, out of those it holds: no stall, not held back by MERGE_HOLD before its deadline, first of
its block, earliest deadline, then arrival (10 R331, 11 R357, R359). -/
def nextReq (q : Nat) (s : State) : Option Req :=
  if s.time < mapGet (fun _ => 0) s.memsys.retrainEnd q then none
  else
    let l := holdOf q s
    earliestReq (dueOf l) (l.filter fun r =>
      firstOfBlock (queueOf q s) r && !bankStalled q r s && (!r.held || decide (dueOf l r ≤ s.time)))

/-- A write that covers the whole granule of an address, which it therefore does not read (10 R328). -/
def coversGranule (r : Req) (a : Nat) : Bool :=
  let g := if a < 2 ^ 40 then 32 else 64
  r.write && decide (r.addr ≤ granuleStart a ∧ granuleStart a + g ≤ r.addr + r.len)

/-- What the protection finds when an access reads a byte (10 R336). -/
def applyEcc (q a : Nat) (ecc : Ecc) (s : State) : State :=
  match ecc with
  | .clean => s
  | .corrected => correctable q a s
  | .uncorrectable => uncorrectable q a s

/-- A request is answered with poison: one to memory that is offline, or a read that names a poisoned granule (10 R336, R338, R339); a
write of a part of a granule in which its own access has found an error. -/
def answeredBad (found : Bool) (r x : Req) (s : State) : Bool :=
  (found && x.piece == r.piece) || (if x.write then offline x.addr s || sliceLost x.part x.addr s else poison0 x.part x.addr x.len s)

/-- Marks one request of an access as served, with the late and the poisoned ones counted. An error that this access has found has
already counted one read. -/
def answerReq (q : Nat) (found : Bool) (r x : Req) (s : State) : State :=
  let late := decide (x.deadline < s.time)
  let bad := answeredBad found r x s
  let s := if late then addF (ctrlPage q) (fMiss q) 1 s else s
  let s := if bad && !x.write && !(found && x.piece == r.piece) then addF (ctrlPage q) (fPoison q) 1 s else s
  servePiece x bad late s

/-- Serves a request and those merged with it, each of which gets the bytes that it names (11 R357). -/
def serveReq (q : Nat) (r : Req) (ecc : Ecc) (off : Nat) (s : State) : State :=
  let also := mergedWith (holdOf q s) r
  let a := r.addr + off % max 1 r.len
  let ecc := if coversGranule r a then .clean else ecc
  let s := dropReqs q (fun x => x.piece == r.piece || also.any fun y => y.piece == x.piece) s
  let s := applyEcc q a ecc (addF (ctrlPage q) (fMerged q) also.length s)
  (r :: also).foldl (fun s x => answerReq q (ecc == .uncorrectable) r x s) s

/-- MEMORY_REQUEST (10 R331, R336; 11 R357): a controller serves its next request; `ecc` is what its protection finds,
at byte `off` of the piece. -/
def execMemoryRequest (c : CtrlId) (ecc : Ecc) (off : Nat) (s : State) : Host.Outcome State Fault Refusal :=
  .next (match nextReq (ctrlCode c) s with
    | some r => serveReq (ctrlCode c) r ecc off s
    | none => s)

/-- MERGE_HOLD_EXPIRE (11 R359): read pieces whose hold has passed become eligible. -/
def execMergeHoldExpire (h : HamletId) (pc : Fin 64) (s : State) : Host.Outcome State Fault Refusal :=
  let q := 64 * h.val + pc.val
  let hold := getF (bHbm h.val) F.HB_MERGE_HOLD s
  .next (setQueue q ((queueOf q s).map fun r => if r.arrival + hold ≤ s.time then { r with held := false } else r) s)

/-! ### Temperature and refresh (10 R333, R334; 15 R499) -/

/-- Refresh rate code of a stack at a temperature, with 3 K of hysteresis. -/
def refreshCode (cur : Nat) (t : Int) : Nat :=
  if 95 < t then 2 else if cur = 2 ∧ 92 < t then 2 else if 85 < t then 1 else if 1 ≤ cur ∧ 82 < t then 1 else 0

/-- HBM_TEMP_SAMPLE (10 R333, 15 R499): the stack's temperature, its refresh rate and its hamlet's demand cap. -/
def execHbmTempSample (h : HamletId) (temp : BitVec 8) (s : State) : Host.Outcome State Fault Refusal :=
  let b := bHbm h.val
  let t := temp.toInt
  let s := setF b F.HB_REFRESH (refreshCode (getF b F.HB_REFRESH s) t) (setF b F.HB_TEMP temp.toNat s)
  let s := noteSensor (1600 + 4 * h.val) temp s
  let hot := s.power.hot.any fun x => x == h.val
  .next (if 95 < t ∧ hot = false then
      raise b 0x08 0x0C (ownerScope b s) false (h.val + temp.toNat * 2 ^ 8)
        { s with power := { s.power with hot := s.power.hot ++ [h.val] } }
    else if t < 92 then { s with power := { s.power with hot := s.power.hot.filter fun x => x != h.val } }
    else s)

/-- Refresh interval of a stack in ns. -/
def refreshNs (code : Nat) : Nat := if code = 0 then 3900 else if code = 1 then 1950 else 975

/-- HBM_REFRESH (10 R332, R333, R335): a bank's interval has expired and it is refreshed, which blocks it for 280 ns; not while
its pseudo-channel retrains. -/
def execHbmRefresh (h : HamletId) (pc : Fin 64) (bank : Fin 16) (s : State) : Host.Outcome State Fault Refusal :=
  let k := (64 * h.val + pc.val) * 16 + bank.val
  .next (if mapGet (fun _ => 0) s.memsys.refreshDue k ≤ s.time ∧
      mapGet (fun _ => 0) s.memsys.retrainEnd (64 * h.val + pc.val) ≤ s.time then
    let due := s.time + refreshNs (getF (bHbm h.val) F.HB_REFRESH s)
    let free := max (mapGet (fun _ => 0) s.memsys.bankBusy k) (s.time + 280)
    { s with memsys := { s.memsys with
        refreshDue := mapPut (fun _ => 0) k due s.memsys.refreshDue
        bankBusy := mapPut (fun _ => 0) k free s.memsys.bankBusy } }
  else s)

/-- DDR_THERMAL_SAMPLE (10 R334): the hottest module of a channel; doubled refresh above 85 °C, a thermal event when it
first exceeds 95 °C. -/
def execDdrThermalSample (c : Fin 12) (temp : BitVec 8) (s : State) : Host.Outcome State Fault Refusal :=
  let b := bDdr c.val
  let t := temp.toInt
  let s := setF b F.MC_REFRESH_2X (bitOf (decide (85 < t))) (setF b F.MC_TEMP temp.toNat s)
  let was := mapGet (fun _ => 0) s.memsys.hotSince c.val
  let now := if 95 < t then 1 else 0
  let s := { s with memsys := { s.memsys with hotSince := mapPut (fun _ => 0) c.val now s.memsys.hotSince } }
  .next (if now = 1 ∧ was = 0 then raise b 0x09 3 .none false (c.val + temp.toNat * 2 ^ 8) s else s)

/-- The modules in the slots of a DDR5 channel. -/
def dimmsOf (c : Nat) (s : State) : List Dimm :=
  (s.memsys.modules.map fun m =>
    match m with
    | .ddr d a b => if d.val = c then a.toList ++ b.toList else []
    | .cxl _ _ _ => []).flatten

/-- tRFC of a channel: its modules' longest, from their SPD (10 R334). -/
def trfcOf (c : Nat) (s : State) : Nat := (dimmsOf c s).foldl (fun n d => max n d.trfc) 0

/-- DDR_REFRESH (10 R334): the channel's interval has expired and all its banks are refreshed, which blocks it for tRFC. -/
def execDdrRefresh (c : Fin 12) (s : State) : Host.Outcome State Fault Refusal :=
  let k := 16384 + c.val
  .next (if mapGet (fun _ => 0) s.memsys.refreshDue k ≤ s.time then
    let due := s.time + (if flag (bDdr c.val) F.MC_REFRESH_2X s then 1950 else 3900)
    { s with memsys := { s.memsys with
        refreshDue := mapPut (fun _ => 0) k due s.memsys.refreshDue
        retrainEnd := mapPut (fun _ => 0) (1024 + c.val) (s.time + trfcOf c.val s) s.memsys.retrainEnd } }
  else s)

/-! ### Retraining and failures -/

/-- Takes a stack offline: its queues answer with poison and its hamlet is fenced (10 R338). -/
def stackOffline (h pc : Nat) (s : State) : State :=
  let f := if pc < 32 then F.HB_PC_OFFLINE_LO else F.HB_PC_OFFLINE_HI
  let s := setF (bHbm h) f (getF (bHbm h) f s ||| 2 ^ (pc % 32)) s
  fenceHamlet h ((rangeFrom (64 * h) 64).foldl (fun s q => poisonQueue q s) s)

/-- Retraining of a pseudo-channel is due, none of its banks is being refreshed or repaired and no other of its stack is retraining. -/
def retrainOk (h pc : Nat) (s : State) : Bool :=
  flag (bHbm h) F.HB_ONLINE s && decide (mapGet (fun _ => 0) s.memsys.retrainDue (64 * h + pc) ≤ s.time) &&
  ((rangeFrom (64 * h) 64).all fun q => decide (mapGet (fun _ => 0) s.memsys.retrainEnd q ≤ s.time)) &&
  (rangeFrom (16 * (64 * h + pc)) 16).all fun k => decide (mapGet (fun _ => 0) s.memsys.bankBusy k ≤ s.time)

/-- HBM_RETRAIN (10 R335, R338): a pseudo-channel is retrained, stalling it, and is due again one period later; three failures in
succession, or banks that cannot all be repaired (log entry 58), take the stack offline. -/
def execHbmRetrain (h : HamletId) (pc : Fin 64) (stall : Fin 4001) (ended : Retrained) (s : State) :
    Host.Outcome State Fault Refusal :=
  let q := 64 * h.val + pc.val
  let b := bHbm h.val
  let ok := ended == .passed
  .next (if retrainOk h.val pc.val s then
    let fails := if ok then 0 else mapGet (fun _ => 0) s.memsys.trainFails q + 1
    let due := s.time + getF b F.HB_RETRAIN_MS s * 10 ^ 6
    let s := { s with memsys := { s.memsys with
        retrainEnd := mapPut (fun _ => 0) q (s.time + stall.val) s.memsys.retrainEnd
        retrainDue := mapPut (fun _ => 0) q due s.memsys.retrainDue
        trainFails := mapPut (fun _ => 0) q fails s.memsys.trainFails } }
    let s := setF b F.HB_RETRAIN_PC pc.val s
    if ok then addF b F.HB_RETRAINS 1 s
    else if 3 ≤ fails ∨ ended = .beyondRepair then stackOffline h.val pc.val s else s
  else s)

/-- Space-0 address of a byte of an outer channel, when the map reaches it. -/
def outerAddr (tier c o : Nat) (s : State) : Option Nat :=
  match setWith tier c s with
  | none => none
  | some t =>
    let u := tierUnit tier
    ((t.chans.findIdx? fun x => x == c).map fun i => t.base + (o / u * t.chans.length + i) * u + o % u).filter
      fun a => decide (a < t.base + t.size)

/-- Access units of a controller page's memory. -/
def scrubUnits (q : Nat) (s : State) : Nat :=
  if q < 1024 then stackBytes / 256 else getF (ctrlPage q) F.MC_CAPACITY_MIB s * 2 ^ 20 / 512

/-- The unit the patrol scrub of a controller page reads next. -/
def scrubAt (q : Nat) (s : State) : Nat := mapGet (fun _ => 0) s.memsys.scrubPos (ctrlPage q)

/-- Its space-0 address, when the map reaches it. -/
def scrubAddr (q : Nat) (s : State) : Option Nat :=
  if q < 1024 then some (q / 64 * 2 ^ 36 + scrubAt q s * 256) else outerAddr 2 (q - 1024) (scrubAt q s * 512) s

/-- The controller scrubs: tiers 1 and 2, while SCRUB_EN is 1. -/
def scrubOn (q : Nat) (s : State) : Bool :=
  if q < 1024 then flag (ctrlPage q) F.HB_SCRUB_EN s && flag (ctrlPage q) F.HB_ONLINE s
  else decide (q < 1036) && flag (ctrlPage q) F.MC_SCRUB_EN s && trained 2 (q - 1024) s

/-- Nanoseconds between two units of the scrub: its period, SCRUB_HOURS, spread evenly over the memory (10 R337). -/
def scrubStep (q : Nat) (s : State) : Nat :=
  getF (ctrlPage q) (if q < 1024 then F.HB_SCRUB_HOURS else F.MC_SCRUB_HOURS) s * 3600 * 10 ^ 9 / max 1 (scrubUnits q s)

/-- The scrub of a controller page goes on to its next unit, which is due one step later. -/
def scrubOnward (q : Nat) (s : State) : State :=
  let due := mapGet (fun _ => 0) s.memsys.scrubDue (ctrlPage q)
  let next := (if due = 0 then s.time else due) + scrubStep q s
  let pos := if scrubAt q s + 1 < scrubUnits q s then scrubAt q s + 1 else 0
  { s with memsys := { s.memsys with
      scrubPos := mapPut (fun _ => 0) (ctrlPage q) pos s.memsys.scrubPos
      scrubDue := mapPut (fun _ => 0) (ctrlPage q) next s.memsys.scrubDue } }

/-- What the scrub finds in a unit that the map does not reach: the counts and the poison, and the ledger's record with the byte of
the channel for an address (log entry 59). -/
def unmappedEcc (q : Nat) (ecc : Ecc) (s : State) : State :=
  match ecc with
  | .clean => s
  | .corrected => addF (ctrlPage q) (fCe q) 1 s
  | .uncorrectable =>
    let s := setLastUe q (scrubAt q s * 512) (noteUe q (plTier2 (q - 1024) (scrubAt q s * 512)) s)
    journal 0x08 (sourceOf (ctrlPage q) s) 8 2 (scrubAt q s * 512) (raise (ctrlPage q) 0x09 1 .none true (scrubAt q s * 512) s)

/-- PATROL_SCRUB (10 R337): a controller reads the next unit of its memory, when it is due, and corrects or poisons what it
finds. -/
def execPatrolScrub (c : CtrlId) (ecc : Ecc) (s : State) : Host.Outcome State Fault Refusal :=
  let q := ctrlCode c
  .next (if scrubOn q s && decide (mapGet (fun _ => 0) s.memsys.scrubDue (ctrlPage q) ≤ s.time) then
    scrubOnward q (match scrubAddr q s with
      | some a => applyEcc q a ecc s
      | none => unmappedEcc q ecc s)
  else s)

/-- A channel or port that fails is fenced, with the counts and the record of a fence (10 R339; 14 R485, R487, R488). -/
def fenceChannel (tier n : Nat) (s : State) : State :=
  let b := chanBlock tier n
  if fenced b s then failChannel tier n s else repairNote b 1 1 (markFenced b (failChannel tier n s))

/-- CHANNEL_FAIL (10 R339): a channel or port in the map fails and takes its set offline. -/
def execChannelFail (c : ChanId) (s : State) : Host.Outcome State Fault Refusal :=
  .next (if trained (chanTier c) (chanNum c) s then
    raise (chanBlock (chanTier c) (chanNum c)) 0x04 0 .none false 0 (fenceChannel (chanTier c) (chanNum c) s)
  else s)

/-- EXPANDER_REMOVED (19 R641): an expander removed while its port is online fails the port. -/
def execExpanderRemoved (x : Fin 4) (s : State) : Host.Outcome State Fault Refusal :=
  let s' := if flag (bCxl x.val) F.MC_ONLINE s then fenceChannel 3 x.val s else untrain 3 x.val s
  let s' := setF (bCxl x.val) F.BLK_PRESENT 0 (setF (bCxl x.val) F.MC_PRESENT 0 s')
  .next { s' with memsys := { s'.memsys with modules := s'.memsys.modules.filter fun m =>
    match m with
    | .cxl y _ _ => decide (y ≠ x)
    | .ddr _ _ _ => true } }

/-! ### The granary (11 R361 to R366, R386) -/

/-- The 64-byte granules a request covers, as addresses. -/
def granulesOf (r : Req) : List Nat := (cut 64 r.addr r.len).map Prod.fst

/-- A granule of a slice's line that shows an uncorrectable error is written back as poisoned (11 R365). -/
def sliceError (slice : Nat) (r : Req) (s : State) : State :=
  match cacheHome r.part r.addr s with
  | some (sl, set) =>
    match findWay sl set (r.addr / 2048) s with
    | some w => setPoison (plWay sl set w (r.addr % 2048)) true s
    | none => s
  | none => let _ := slice; s

/-- A request reads through the cache. -/
def readsCache (r : Req) (s : State) : Bool := (cacheHome r.part r.addr s).isSome && !r.write

/-- The granules that serving a read fills: those it covers that are not valid (11 R362). -/
def missing (r : Req) (s : State) : List Nat :=
  if readsCache r s then (granulesOf r).filter fun g => (cacheHit r.part g s).isNone else []

/-- The queued reads that find a granule being filled, which the slice merges (11 R359): no earlier write to the granule stands
between. -/
def granaryMerges (l : List Req) (r : Req) (s : State) : List Req :=
  let fill := missing r s
  let shares (x : Req) : Bool := (granulesOf x).any fun g => fill.any fun h => h / 64 == g / 64
  l.filter fun x => readsCache x s && x.part == r.part && x.piece != r.piece && shares x && firstOfBlock (l.filter Req.write) x

/-- A read goes through the cache, granule by granule. -/
def readThrough (r : Req) (s : State) : State :=
  if readsCache r s then
    (granulesOf r).foldl (fun s g =>
      match cacheHome r.part g s with
      | some (sl, set) => cacheReadGranule r.part sl set g s
      | none => s) s
  else s

/-- What the slice's own protection finds. -/
def sliceEcc (i : Nat) (r : Req) (ecc : Ecc) (s : State) : State :=
  match ecc with
  | .clean => s
  | .corrected => addF (bSlice i) F.GR_CE 1 s
  | .uncorrectable => sliceError i r (addF (bSlice i) F.GR_UE 1 s)

/-- A slice answers one of the requests that it serves together; poison comes with the bytes it names. -/
def answerSlice (cached : Bool) (bad : Bool) (x : Req) (s : State) : State :=
  servePiece x (!x.write && (bad || (cached && poison0 x.part x.addr x.len s))) (decide (x.deadline < s.time)) s

/-- GRANARY_ACCESS (11 R354, R359, R362, R366): a slice serves its requests as a controller does, earliest deadline first: in cache
mode with hits and fills, merging the reads of the granules it fills. -/
def execGranaryAccess (i : SliceId) (ecc : Ecc) (s : State) : Host.Outcome State Fault Refusal :=
  .next (let l := sliceQueue i.val s
    match earliestReq Req.deadline (l.filter (firstOfBlock l)) with
    | none => s
    | some r =>
      let also := granaryMerges l r s
      let cached := readsCache r s
      let s := setSliceQueue i.val (l.filter fun x => x.piece != r.piece && !(also.any fun y => y.piece == x.piece)) s
      let s := sliceEcc i.val r ecc (addF (bSlice i.val) F.GR_MERGES also.length ((r :: also).foldl (fun s x => readThrough x s) s))
      (r :: also).foldl (fun s x => answerSlice cached (ecc == .uncorrectable && x.piece == r.piece) x s) s)

/-- Lines of a slice in use, as (set, way). -/
def linesOf (slice : Nat) (s : State) : List (Nat × Nat) :=
  s.memsys.lines.filterMap fun e =>
    if e.1 / 6144 = slice ∧ e.2.isSome then some (e.1 % 6144 / 16, e.1 % 16) else none

def dirtyLines (slice : Nat) (s : State) : Nat :=
  ((linesOf slice s).filter fun e => match lineAt slice e.1 e.2 s with | some l => l.dirty != 0 | none => false).length

/-- Starts a flush of a slice (11 R364). -/
def flushStart (slice : Nat) (s : State) : State :=
  if s.memsys.flushing.any fun x => x == slice then s
  else { s with memsys := { s.memsys with flushing := s.memsys.flushing ++ [slice] } }

/-- Writes back every dirty granule of a slice. -/
def flushSlice (slice : Nat) (s : State) : State :=
  match ownerOf (bSlice slice) s with
  | some p => (linesOf slice s).foldl (fun s e => cleanLine p slice e.1 e.2 s) s
  | none => s

/-- Discards every line of a slice. -/
def dropLines (slice : Nat) (s : State) : State :=
  (linesOf slice s).foldl (fun s e => setLine slice e.1 e.2 none s) s

/-- The number of a partition's cache slices has changed: its lines lie elsewhere, and every slice that cached for it starts empty (11
R361, R364). -/
def remapCache (s0 s : State) : State :=
  (List.range 8).foldl (fun s p =>
    if cacheSlices p s0 = cacheSlices p s then s
    else (cacheSlices p s0 ++ cacheSlices p s).foldl (fun s i => dropLines i s) s) s

/-- GRANARY_FLUSH_DONE (11 R364, R386): the write-back ends and BUSY clears; an invalidated slice has no line left. -/
def execGranaryFlushDone (i : SliceId) (s : State) : Host.Outcome State Fault Refusal :=
  .next (if s.memsys.flushing.any fun x => x == i.val then
    let s := flushSlice i.val s
    { s with memsys := { s.memsys with flushing := s.memsys.flushing.filter fun x => x != i.val } }
  else s)

/-- GRANARY_SLICE_FAIL (11 R365): the slice is out of use, its lines are lost, and its owner's outer tiers are treated as
a failed set. -/
def execGranarySliceFail (i : SliceId) (s0 : State) : Host.Outcome State Fault Refusal :=
  .next (if fenced (bSlice i.val) s0 then s0
  else
    let s := setF (bSlice i.val) F.GR_FENCED 1 (markFenced (bSlice i.val) (repairNote (bSlice i.val) 1 1 s0))
    let own := ownerOf (bSlice i.val) s
    let s := remapCache s0 s
    let s := (sliceQueue i.val s).foldl (fun s r => servePiece r true false s) (setSliceQueue i.val [] s)
    let s := dropLines i.val { s with memsys := { s.memsys with failedSlices := s.memsys.failedSlices ++ [i.val] } }
    match own with
    | some p => repeatPart p s
    | none => s)

/-! ### Die-to-die links (01 R30, R31) -/

/-- Die of the controller or stack of a space-0 address: 0 to 3, 4 = commons, 5 and 6 = E0 and E1. -/
def homeDie (a : Nat) (s : State) : Nat :=
  if a < 2 ^ 40 then a / 2 ^ 38
  else match setOf a s with
    | some t => let c := (inSet t a).1; if t.tier = 2 then 5 + c / 6 else 5 + c / 2
    | none => 4

/-- The ways from die to die that an access of a partition takes from die `a`: to what serves it, and from a cache slice on to memory
for a granule that the slice does not hold (01 R26; 11 R362). -/
def legsFrom (a part space addr : Nat) (s : State) : List (Nat × Nat) :=
  match space with
  | 0 =>
    let home := homeDie addr s
    match cacheHome part addr s with
    | some (sl, set) =>
      let holds := match findWay sl set (addr / 2048) s with
        | some w => granuleValid sl set w (addr % 2048 / 64) s
        | none => false
      (a, sl / 16) :: if holds then [] else [(sl / 16, home)]
    | none => [(a, home)]
  | 1 => [(a, 5)]
  | 3 => [(a, if bit 32 addr then bits 30 2 addr else dieOf (globalPhys (bits 22 10 addr) s))]
  | _ => [(a, 4)]

/-- Die of a requesting engine: a croft's, the commons for the mill, E0 for the host interface (01 R26). -/
def engineDie (eng : Nat) : Nat := if eng < 608 then dieOf eng else if eng < 616 then 4 else 5

/-- The way between two dies crosses a link (01 R26, R28). -/
def legCrosses (l : D2D) (s : State) (ab : Nat × Nat) : Bool :=
  let (a, b) := ab
  a != b && match l with
  | .ring d => decide (b < 4) && !viaCommons a b s && ringLink a b == some d.val
  | .commons d => if b < 4 then viaCommons a b s && (a == d.val || b == d.val) else a == d.val
  | .edge e => b == 5 + e.val

/-- A piece in flight, out or back, crosses a link. -/
def crosses (c : Nat) (p : Piece) (l : D2D) (s : State) : Bool :=
  (legsFrom (dieOf c) ((contextOf c s).getD 0) p.space p.addr s).any (legCrosses l s)

/-- A request at a controller or a slice has crossed a link, or its answer will. -/
def reqCrosses (l : D2D) (s : State) (r : Req) : Bool := (legsFrom (engineDie r.croft) r.part 0 r.addr s).any (legCrosses l s)

/-- The requests that a test selects leave every controller and slice unserved. -/
def discardReqs (gone : Req → Bool) (s : State) : State :=
  let s := (s.memsys.queues.map Prod.fst).foldl (fun s q => if (queueOf q s).any gone then dropReqs q gone s else s) s
  (s.memsys.slices.map Prod.fst).foldl (fun s i => setSliceQueue i ((sliceQueue i s).filter fun r => !gone r) s) s

/-- What a croft has on a link is discarded, and every task that issued some of it faults with LINK_LOST (01 R31). -/
def loseCroft (l : D2D) (c : Nat) (s : State) : State :=
  let lost := (croftOf c s).pieces.filter fun p => crosses c p l s
  let ids := lost.map fun p => p.id
  if ids.isEmpty then s
  else
    let s := discardReqs (fun r => r.croft == c && ids.contains r.piece) s
    let s := { s with host := { s.host with reads := s.host.reads.filter fun r => !(r.croft == c && ids.contains r.piece) } }
    let s := updCroft c (fun k => { k with pieces := k.pieces.filter fun p => !ids.contains p.id }) s
    (lost.map fun p => p.uid).eraseDups.foldl (fun s u => failTask c u ⟨0x0C, 0, 0, 0, 0, []⟩ s) s

/-- The mill or the host interface has lost requests of a partition: it reports a fault, and the step in progress repeats (01 R31). -/
def loseEngine (eng p : Nat) (s : State) : State :=
  let b := if eng < 616 then bMill else bFunction (p + 1)
  lossRepeat p (raise b 0x04 0 (.part p) false 0 s)

/-- The requests of the mill and the host interface on a link are discarded (01 R31). -/
def loseEngines (l : D2D) (s : State) : State :=
  let on (r : Req) : Bool := decide (608 ≤ r.croft) && reqCrosses l s r
  let lost := ((s.memsys.queues.map Prod.snd).flatten ++ (s.memsys.slices.map Prod.snd).flatten).filter on
  (lost.map fun r => (r.croft, r.part)).eraseDups.foldl (fun s e => loseEngine e.1 e.2 s)
    (discardReqs (fun r => lost.any fun x => x.piece == r.piece) s)

/-- The requests in flight on a link that leaves service are discarded (01 R31). -/
def loseRequests (l : D2D) (s : State) : State :=
  loseEngines l ((s.crofts.map Prod.fst).foldl (fun s c => loseCroft l c s) s)

/-- The units of edge die E1 (14 R485). -/
def e1Channels : List (Nat × Nat) := (rangeFrom 6 6).map (fun c => (2, c)) ++ [(3, 2), (3, 3)]

/-- Fences E1, as one unit: its channels, and its ports with them (14 R485, R487). -/
def fenceE1 (s : State) : State :=
  if fenced (bEdge 1) s then s
  else
    let s := setF (bEdge 1) F.DIE_FENCED 1 (markFenced (bEdge 1) s)
    let s := e1Channels.foldl (fun s e => failChannel e.1 e.2 s) s
    repairNote (bEdge 1) 1 1
      ((rangeFrom 8 8).foldl (fun s v => setF (bPort v) F.VP_FENCED 1 (setF (bPort v) F.BLK_FENCED 1 s)) s)

/-- The state of a link, as a die's page shows it (18 R625). -/
def linkState (l : D2D) (s : State) : Nat :=
  match l with
  | .ring d => getF (bDie d.val) F.DIE_LINK_NEXT s
  | .commons d => getF (bDie d.val) F.DIE_LINK_COMMONS s
  | .edge e => getF (bEdge e.val) F.DIE_LINK_COMMONS s

/-- Lane repair has restored a link: its state and the counter on the pages of its dies (18 R625). -/
def repairLink (l : D2D) (s : State) : State :=
  match l with
  | .ring d =>
    let n := (d.val + 1) % 4
    addF (bDie n) F.DIE_LANE_REPAIRS 1 (setF (bDie n) F.DIE_LINK_PREV 2
      (addF (bDie d.val) F.DIE_LANE_REPAIRS 1 (setF (bDie d.val) F.DIE_LINK_NEXT 2 s)))
  | .commons d => addF (bDie d.val) F.DIE_LANE_REPAIRS 1 (setF (bDie d.val) F.DIE_LINK_COMMONS 2 s)
  | .edge e => addF (bEdge e.val) F.DIE_LANE_REPAIRS 1 (setF (bEdge e.val) F.DIE_LINK_COMMONS 2 s)

/-- The event, the counter and the journal entry of a lost link; the link's number in the entry: log entry 11. -/
def noteLoss (b code : Nat) (s : State) : State :=
  journal 0x0D (sourceOf b s) 8 3 code (raise b 0x04 0 .none true 0 (addF b F.DIE_LINK_LOSSES 1 s))

/-- A link leaves service (01 R30). Log entry 49: the memory and the ports of E0, and the tally operations that a die has sent. -/
def loseLink (l : D2D) (s : State) : State :=
  match l with
  | .ring d =>
    let n := (d.val + 1) % 4
    noteLoss (bDie d.val) d.val (setF (bDie d.val) F.DIE_LINK_NEXT 0
      (setF (bDie n) F.DIE_LINK_PREV 0 (addF (bDie n) F.DIE_LINK_LOSSES 1 s)))
  | .commons d =>
    noteLoss (bDie d.val) (4 + d.val) ((rangeFrom (4 * d.val) 4).foldl (fun s h => fenceHamlet h s)
      (setF (bDie d.val) F.DIE_LINK_COMMONS 0 s))
  | .edge e =>
    let s := noteLoss (bEdge e.val) (8 + e.val) (setF (bEdge e.val) F.DIE_LINK_COMMONS 0 s)
    if e.val = 1 then fenceE1 s
    else
      let s := { s with power := { s.power with e0Lost := true } }
      setF bHostIf F.HI_SPEED 0 (setF bHostIf F.HI_WIDTH 0 (setF bHostIf F.HI_FLIT 0 s))

end Sys2Proof.Machine
end

