-- ==== Sys2Proof/Machine/Journal.lean ====
section
/-!
DEFINITION. The ledger (17 R580 to R585): committing journal entries, suppression, reading an entry, and the permanent
area's words.
-/
namespace Sys2Proof.Machine

/-- Entries of a full journal, and of one block of it (17 R583 and the flash layout). -/
def journalEntries : Nat := 4194304
def journalBlock : Nat := 1024

/-- The 64 bytes of an entry (17 R582); the CRC-32C covers the first 60. -/
def entryBytes (e : JEntry) : List Byte :=
  let body := bytesOf 8 e.seq ++ bytesOf 8 e.time ++ bytesOf 4 e.powered ++ bytesOf 4 e.boot ++ bytesOf 2 e.kind ++
    bytesOf 2 e.source ++ bytesOf 1 (if e.part < 8 then e.part else 8) ++ bytesOf 1 (e.severity % 4) ++ bytesOf 2 0 ++
    bytesOf 28 e.payload.toNat
  body ++ bytesOf 4 (crc32c body).toNat

/-- Shows the newest and the oldest entry held (17 R601). -/
def showLedger (s : State) : State :=
  let newest := match s.reeve.journal.getLast? with | some e => e.seq | none => 0
  let oldest := match s.reeve.journal.head? with | some e => e.seq | none => 0
  setPair bReeve F.RV_LG_NEWEST_LO F.RV_LG_NEWEST_HI newest
    (setPair bReeve F.RV_LG_OLDEST_LO F.RV_LG_OLDEST_HI oldest s)

/-- The event message of a ledger entry: format version, terminus, the OEM event class, the entry (17 R580; log entry 29). -/
def eventMessage (e : JEntry) (s : State) : List Byte := [1, BitVec.ofNat 8 s.reeve.tid, Config.eventClass] ++ entryBytes e

/-- A message on the service port: PLDM type and command, and its body. -/
def mctpOut (type cmd : Nat) (body : List Byte) (s : State) : State :=
  { s with host := { s.host with out := s.host.out ++ [.mctp (type * 256 + cmd) body] } }

/-- Writes an entry into the journal, erasing the oldest block when it is full, and forwards a warning or failure to
the bus owner (17 R580, R583). -/
def writeEntry (e : JEntry) (s : State) : State :=
  let e := { e with seq := s.reeve.nextSeq }
  let old := if journalEntries ≤ s.reeve.journal.length then s.reeve.journal.drop journalBlock else s.reeve.journal
  let s := showLedger { s with reeve := { s.reeve with journal := old ++ [e], nextSeq := s.reeve.nextSeq + 1 } }
  if 2 ≤ e.severity then mctpOut 2 0x0A (eventMessage e s) s else s

/-- Commits one entry, or counts it as suppressed beyond 256 of its kind in the second (17 R584). -/
def commitEntry (e : JEntry) (s : State) : State :=
  let n := mapGet (fun _ => 0) s.reeve.kindCount e.kind
  if e.kind = 0x10 then writeEntry e s
  else if n < 256 then
    writeEntry e { s with reeve := { s.reeve with kindCount := mapPut (fun _ => 0) e.kind (n + 1) s.reeve.kindCount } }
  else
    let k := mapGet (fun _ => 0) s.reeve.suppressed e.kind + 1
    { s with reeve := { s.reeve with suppressed := mapPut (fun _ => 0) e.kind k s.reeve.suppressed } }

/-- Commits every entry that waits, oldest first. -/
def commitAll (s : State) : State :=
  let l := s.reeve.log
  l.foldl (fun s e => commitEntry e s) { s with reeve := { s.reeve with log := [] } }

/-- JOURNAL_COMMIT (17 R583): the oldest entry that waits is committed. The reeve commits nothing while it restarts
(17 R572). -/
def execJournalCommit (s : State) : Host.Outcome State Fault Refusal :=
  .next (match s.reeve.log with
    | [] => s
    | e :: r => if s.reeve.restart.isSome then s else commitEntry e { s with reeve := { s.reeve with log := r } })

/-- The suppression entry of one kind (17 R584). -/
def suppressionEntry (kind n : Nat) (s : State) : State :=
  addF bReeve F.RV_LG_SUPPRESSED n (commitEntry ⟨0, s.time, getF bThermal F.TH_POWERED_H s, getF bReeve F.RV_BOOTS s,
    0x10, sourceOf bReeve s, 8, 2, BitVec.ofNat 224 (kind + n * 2 ^ 16)⟩ s)

/-- SUPPRESSION_SECOND_END (17 R584): a second has ended; one entry of kind 0x10 for each kind held back in it. -/
def execSuppressionSecondEnd (s : State) : Host.Outcome State Fault Refusal :=
  .next (if s.reeve.second + 10 ^ 9 ≤ s.time then
    let l := s.reeve.suppressed
    let s := { s with reeve := { s.reeve with second := s.time, kindCount := [], suppressed := [] } }
    l.foldl (fun s e => suppressionEntry e.1 e.2 s) s
  else s)

/-- The entry with a sequence number, while it is held. -/
def entryOf (seq : Nat) (s : State) : Option JEntry := s.reeve.journal.find? fun e => e.seq == seq

/-- Loads LG_DATA with the entry that LG_SELECT names; zeros and LG_GONE when it is not held (17 R585). -/
def loadEntry (s : State) : State :=
  let seq := getPair bReeve F.RV_LG_SELECT_LO F.RV_LG_SELECT_HI s
  let bytes := match entryOf seq s with | some e => entryBytes e | none => bytesOf 64 0
  let s := setF bReeve F.RV_LG_GONE (bitOf (entryOf seq s).isNone) s
  (List.range 16).foldl (fun s i => setF bReeve (F.RV_LG_DATA.at i) (natOf ((bytes.drop (4 * i)).take 4)) s) s

/-- Writes a field and keeps it in the permanent area, from which every reset restores it (17 R581). -/
def setPerm (b : Nat) (f : Field) (v : Nat) (s : State) : State :=
  let k := regKey b f.off
  setF b f v { s with reeve := { s.reeve with
    perm := mapPut resetWord k (insertField f v (mapGet resetWord s.reeve.perm k)) s.reeve.perm } }

end Sys2Proof.Machine
end

