-- ==== Sys2Proof/Machine/Firmware.lean ====
section
/-!
DEFINITION. Firmware images (17 R586 to R593): headers, the checks, the candidate set, the group fallback, and what a
start-up runs.
-/
namespace Sys2Proof.Machine

/-- A field of an image header. -/
def hF (off n : Nat) (h : Flit) : Nat := bits (8 * off) (8 * n) h.toNat

/-- The images by code, their slot sizes in bytes and their transfer order (17 R586). -/
def imageCodes : List Nat := [1, 2, 3, 4, 5, 6]
def slotBytes (i : Nat) : Nat := (([0, 4, 16, 16, 4, 8, 4] : List Nat)[i]?).getD 0 * 2 ^ 20
def transferOrder (i : Nat) : Nat := if 1 ≤ i ∧ i ≤ 6 then 7 - i else 0

/-- What slot 0 (A) or 1 (B) of an image holds; at first what the factory left there (log entry 6). -/
def factorySlot (k : Nat) : Option ImgSlot := some ⟨Config.factoryHeader k, Config.factoryBody k⟩
def fwSlot (i b : Nat) (s : State) : Option ImgSlot := mapGet factorySlot s.reeve.fw.slots (2 * i + b)
def updFw (f : Firmware → Firmware) (s : State) : State := { s with reeve := { s.reeve with fw := f s.reeve.fw } }

/-- Entry of image i in a list by code. -/
def byImage (l : List Nat) (i : Nat) : Nat := (l[i - 1]?).getD 0
def putImage (l : List Nat) (i v : Nat) : List Nat := setAt l (i - 1) v

def imgVersion (i b : Nat) (s : State) : Nat := match fwSlot i b s with | some x => hF 0x0C 4 x.header | none => 0

/-- A set of slots is compatible (17 R588). -/
def compatible (set : List Nat) (s : State) : Bool :=
  imageCodes.all fun i =>
    match fwSlot i (byImage set i) s with
    | none => true
    | some x =>
      decide (hF 0x20 4 x.header ≤ getF bReeve F.RV_ROM_VER s) &&
      imageCodes.all fun j => j == i || decide (hF (0x20 + 4 * j) 4 x.header ≤ imgVersion j (byImage set j) s)

/-- Reserved fields, and BODY_SIZE, break R587; a REVOKE bit of the image's own key counts as reserved (17 R593). -/
def badHeader (i : Nat) (h : Flit) : Bool :=
  let size := hF 0x14 4 h
  let rev := hF 0x0B 1 h
  size % 256 != 0 || decide (size < 256 ∨ slotBytes i - 256 < size) || bits 4 4 rev != 0 || bit (hF 0x0A 1 h) rev ||
  hF 0x18 8 h != 0 || hF 0x3C 4 h != 0 || hF 0x70 16 h != 0 || hF 0xE0 32 h != 0

/-- Bytes of an image header. -/
def hBytes (off n : Nat) (h : Flit) : List Byte := bytesOf n (hF off n h)

/-- The signature verifies: over the SHA-384 of header bytes 0x00 to 0x7F, with r and s as 48-byte big-endian strings, r first (17
R587). -/
def verified (h : Flit) : Bool :=
  decide (hF 0x0A 1 h ≤ 3) &&
  Config.verify (hF 0x0A 1 h) (sha384 (hBytes 0 128 h)) (beNat (hBytes 0x80 48 h)) (beNat (hBytes 0xB0 48 h))

/-- The body of an image: BODY_SIZE bytes, when the slot holds as many. -/
def imgBody (x : ImgSlot) : Option (List Byte) :=
  let n := hF 0x14 4 x.header
  if n ≤ x.body.length then some (x.body.take n) else none

/-- The first check of R589 that an image in a slot fails; check 0x06 only where a candidate set is given. -/
def failedCheck (i b : Nat) (set : Option (List Nat)) (s : State) : Option Nat :=
  match fwSlot i b s with
  | none => some 1
  | some x =>
    let h := x.header
    if hF 0 4 h ≠ 0x46345850 ∨ hF 4 1 h ≠ 1 then some 1
    else if hF 5 1 h ≠ i then some 2
    else if hF 6 2 h ≠ 0x0404 then some 3
    else if bit 2 (hF 8 2 h) = false then some 4
    else if badHeader i h then some 5
    else if (match set with | some l => !compatible l s | none => false) then some 6
    else if hF 0x10 4 h < byImage s.reeve.fw.floors i then some 7
    else if bit (hF 0x0A 1 h) s.reeve.fw.revoked then some 8
    else if !verified h then some 9
    else if (imgBody x).map sha384 = some (hBytes 0x40 48 h) then none
    else some 10

/-- Journal entry of kind 0x0F: what happened (1 = slot written, 2 = check failed, 3 = activation, 4 = rollback,
5 = floor raised), image, slot, check, and the version in that slot; at a raised floor also the floor and the revocation bits (17 R582, R592;
log entry 11). -/
def fwNote (what severity i b check more : Nat) (s : State) : State :=
  journal 0x0F (sourceOf bReeve s) 8 severity
    (what + i * 2 ^ 8 + b * 2 ^ 16 + check * 2 ^ 24 + imgVersion i b s * 2 ^ 32 + more * 2 ^ 64) s

/-- Records a failed check in FW_FAULT, its counter and the journal (17 R589). -/
def recordFail (i b check : Nat) (s : State) : State :=
  fwNote 2 2 i b check 0 (addF bReeve F.RV_FW_CHECK_FAILS 1
    (setF bReeve F.RV_FW_CHECK check (setF bReeve F.RV_FW_IMAGE i (setF bReeve F.RV_FW_SLOT b s))))

/-- Validates a set of slots: every image is judged, every failure recorded. -/
def validateSet (set : List Nat) (s : State) : Bool × State :=
  imageCodes.foldl (fun a i =>
    match failedCheck i (byImage set i) (some set) a.2 with
    | some c => (false, recordFail i (byImage set i) c a.2)
    | none => a) (true, s)

/-- One entry for each image of a group, with the slot that is selected for it; one that names no image for an empty group. -/
def noteGroup (what severity : Nat) (group : List Nat) (s : State) : State :=
  (if group.isEmpty then [0] else group).foldl (fun s i => fwNote what severity i (byImage s.reeve.fw.selected i) 0 0 s) s

/-- Every image of the most recent activation group falls back to its other slot (17 R590). -/
def fallBack (s : State) : State :=
  let s := updFw (fun f => { f with
    selected := f.group.foldl (fun l i => putImage l i (1 - byImage l i)) f.selected, fresh := false }) s
  noteGroup 4 2 s.reeve.fw.group (setF bReeve F.RV_ROLLED_BACK 1 s)

/-- The REEVE slot the ROM runs: the selected one, or else the other (17 R591). -/
def romChoice (s : State) : Option Nat × State :=
  let b := byImage s.reeve.fw.selected 1
  match failedCheck 1 b none s with
  | none => (some b, s)
  | some c =>
    let s := recordFail 1 b c s
    match failedCheck 1 (1 - b) none s with
    | none => (some (1 - b), s)
    | some c => (none, recordFail 1 (1 - b) c s)

/-- Payload of the start-up entry: the versions of the six images, their slots and the ROM version (17 R582; log entry 11). -/
def startPay (sel : List Nat) (s : State) : Nat :=
  imageCodes.foldl (fun n i => n + imgVersion i (byImage sel i) s * 2 ^ (32 * (i - 1)) + byImage sel i * 2 ^ (191 + i)) 0 +
    getF bReeve F.RV_ROM_VER s % 2 ^ 24 * 2 ^ 200

/-- Loads a validated set: the reeve is starting until READY, and the start-up entry (17 R591, R601). -/
def loadImages (s : State) : State :=
  let sel := s.reeve.fw.selected
  let s := updFw (fun f => { f with running := sel, updating := false, current := 0, last := 0 }) s
  let s := setF bReeve F.RV_PENDING 0 (setF bReeve F.RV_UPDATING 0 (setF bReeve F.RV_STATE 1 s))
  journal 0x01 (sourceOf bReeve s) 8 1 (startPay sel s) s

/-- The group fallback, and the check of the set that results. -/
def fallBackSet (s : State) : Bool × State := let s := fallBack s; validateSet s.reeve.fw.selected s

/-- The start of the reeve from its ROM (17 R590, R591): the REEVE slot that runs, the check of the whole candidate set, and the fallback;
false = no valid, compatible set. -/
def chooseSet (s : State) : Bool × State :=
  match romChoice (setF bReeve F.RV_ROLLED_BACK 0 s) with
  | (none, s) => (false, s)
  | (some b, s) =>
    if b ≠ byImage s.reeve.fw.selected 1 then fallBackSet s
    else
      let (ok, s) := validateSet s.reeve.fw.selected s
      if ok then (true, s) else fallBackSet s

/-- The start-up of the reeve and the images (17 R590, R591): false = no valid, compatible set. -/
def startImages (s : State) : Bool × State :=
  let (ok, s) := chooseSet s
  (ok, if ok then loadImages s else s)

/-- On the first READY after an activation: floors and revocations of the activation group (17 R592). -/
def raiseFloors (s : State) : State :=
  if s.reeve.fw.fresh && !flag bReeve F.RV_PENDING s then
    let s := s.reeve.fw.group.foldl (fun s i =>
      let b := byImage s.reeve.fw.running i
      match fwSlot i b s with
      | none => s
      | some x =>
        fwNote 5 1 i b 0 (hF 0x10 4 x.header + bits 0 4 (hF 0x0B 1 x.header) * 2 ^ 32) (updFw (fun f => { f with
          floors := putImage f.floors i (hF 0x10 4 x.header), revoked := f.revoked ||| bits 0 4 (hF 0x0B 1 x.header) }) s)) s
    updFw (fun f => { f with fresh := false }) s
  else s

end Sys2Proof.Machine
end

