-- ==== Sys2Proof/Machine/Reset.lean ====
section
/-!
DEFINITION. Resets of the whole device (16 R556, R557, R564; 18 R620, R621; 19 R647 to R652), the orderly stop (15 R512,
R513), the dead-to-host state (17 R599), power-on, DEVICE_RESET, RESET_READY and PERST_DEASSERT. What a sequence does
over time it does here in one step.
-/
namespace Sys2Proof.Machine

/-! ### Sealing keys and memory -/

/-- SPDM state of a function. -/
def spdmOf (fn : Nat) (s : State) : Spdm := mapGet (fun _ => Spdm.reset) s.host.spdm fn

/-- A VF's sealing values exist: derived in its session, or in use (16 R563). -/
def hasKeys (fn : Nat) (s : State) : Bool := (sealOf fn s).isSome || (spdmOf fn s).session.isSome

/-- The SECURITY event of the end of a VF's sealing values (16 R564; reasons and subtype: log entry 11). -/
def noteKeys (fn reason : Nat) (s : State) : State :=
  if hasKeys fn s then raise (bFunction fn) 0x0D 1 (.part (fn - 1)) false reason s else s

/-- Forgets an SPDM session, and the sealing values with it. -/
def dropSession (fn : Nat) (s : State) : State :=
  let s := if hasKeys fn s then setSeal fn none (setF (bFunction fn) F.FP_KEYS_LIVE 0 s) else s
  let d := { spdmOf fn s with handshake := none, session := none }
  { s with host := { s.host with spdm := mapPut (fun _ => Spdm.reset) fn d s.host.spdm } }

/-- Ends an SPDM session and the sealing values, with the event. -/
def endSession (fn reason : Nat) (s : State) : State := dropSession fn (noteKeys fn reason s)

/-- The place lies in a tier-1 stack, a larder or a granary slice of the partition (10 R342). -/
def heldPlace (p pl : Nat) (s : State) : Bool :=
  if pl < 2 ^ 60 then decide (ownerOf (bHamlet (pl / 2 ^ 36)) s = some p)
  else if plLarder 0 0 ≤ pl ∧ pl < plSlice 0 0 then decide (ownerOf (bCroft ((pl - plLarder 0 0) / 2 ^ 22)) s = some p)
  else if plSlice 0 0 ≤ pl ∧ pl < plHost 0 then decide (ownerOf (bSlice ((pl - plSlice 0 0) / 2 ^ 24)) s = some p)
  else false

/-- Writes zeros to what a partition holds on the device (10 R342). -/
def zeroHeld (p : Nat) (s : State) : State :=
  { s with mem := s.mem.filter fun e => !heldPlace p e.1 s
           memsys := { s.memsys with poison := s.memsys.poison.filter fun e => !heldPlace p e.1 s } }

/-- Contents of device memory that are not promised (16 R556, 15 R513); host memory is not the device's. -/
def loseMemory (s : State) : State := loseBytes (fun p => decide (p < plHost 0)) s

/-! ### Memory training (10 R325, R326; 16 R557, step 6) -/

/-- A module that a DDR5 channel uses: registered multiplexed-rank, with on-module ECC, rated for at most 8,800 MT/s (10 R326). -/
def dimmOk (d : Dimm) : Bool := d.multiplexed && d.ecc && decide (d.rate.toNat ≤ 88)

/-- Populations that a DDR5 channel accepts (10 R326): slot 1 empty or with a module of the same part as slot 0. -/
def ddrOk (a b : Option Dimm) : Bool :=
  match a, b with
  | some x, none => dimmOk x
  | some x, some y => dimmOk x && dimmOk y && x.part == y.part
  | none, _ => false

/-- The highest rate that all modules of a channel support (10 R326). -/
def ddrRate (a b : Option Dimm) : Nat :=
  match a, b with
  | some x, some y => min x.rate.toNat y.rate.toNat
  | some x, none | none, some x => x.rate.toNat
  | none, none => 0

/-- MiB in a slot. -/
def slotMib (a : Option Dimm) : Nat := (a.map Dimm.mib).getD 0

/-- A unit out of use is not brought online. -/
def unusable (u : Nat) (s : State) : Bool := unitRetired u s || s.reeve.testing.any fun x => x == u

/-- A channel or port has trained or linked, when it may be used. -/
def noteTrained (b : Nat) (ok : Bool) (s : State) : State :=
  let l := s.memsys.trained.filter fun x => x != b
  { s with memsys := { s.memsys with trained := if ok && !unusable b s then l ++ [b] else l } }

/-- Shows one module or expander, and trains its channel or links its port when it may be used (10 R325, R326). -/
def trainModule (m : Module) (s : State) : State :=
  match m with
  | .ddr c a b =>
    let k := bDdr c.val
    let s := setF k F.MC_PRESENT 1 (setF k F.BLK_PRESENT 1 s)
    let s := setF k F.MC_SLOTS (bitOf a.isSome + bitOf b.isSome) (setF k F.MC_RATE (ddrRate a b) s)
    noteTrained k (ddrOk a b) (setF k F.MC_CAPACITY_MIB (slotMib a + slotMib b) s)
  | .cxl x mib rate =>
    let k := bCxl x.val
    let s := setF k F.MC_PRESENT 1 (setF k F.BLK_PRESENT 1 s)
    noteTrained k true (setF k F.MC_CAPACITY_MIB mib (setF k F.MC_RATE rate.toNat s))

/-- CXL_PERST_N of the ports in a set of bits is asserted, of the others released (19 R639). -/
def drivePerst (mask : Nat) (s : State) : State := { s with memsys := { s.memsys with perst := mask } }

/-- Brings up the stacks, the channels and the ports, and builds the maps; the ports leave their reset first (19 R639). -/
def trainMemory (s : State) : State :=
  let s := drivePerst 0 s
  let s := (List.range 16).foldl (fun s h =>
    setF (bHbm h) F.HB_ONLINE (bitOf (!unusable (bHamlet h) s && !fenced (bHamlet h) s)) s) s
  let s := (rangeFrom 0 16).foldl (fun s c => setF (bDdr c) F.BLK_PRESENT 0 s) s
  mapApply (s.memsys.modules.foldl (fun s m => trainModule m s) s)

/-! ### Registers -/

/-- The FENCED bit that a unit's own registers have beside the common one. -/
def showFence (u : Nat) (s : State) : State :=
  match kindOf u with
  | .slice => setF u F.GR_FENCED 1 s
  | .port => setF u F.VP_FENCED 1 s
  | .channel => setF u F.MC_FENCED 1 s
  | .hamlet => setF (bHbm (u - 640)) F.HB_FENCED 1 s
  | .die => if u = bEdge 1 then setF u F.DIE_FENCED 1 s else s
  | _ => s

/-- Shows retired units, and the crofts that the ledger holds as fenced (14 R487, 18 R624). -/
def showRetired (s : State) : State :=
  let s := s.reeve.retired.foldl (fun s u =>
    if 2048 ≤ u then s else showFence u (setF u F.BLK_FENCED 1 (setF u F.BLK_RETIRED 1 s))) s
  (List.range 608).foldl (fun s c =>
    let st := slotState (c / 38) (slotOf c s) s
    if 2 ≤ st then
      setF (bCroft c) F.CP_STATUS_STATE (if st = 3 then 0 else 1)
        (setF (bCroft c) F.SEQ_STATUS_FENCED 1 (setF (bCroft c) F.BLK_FENCED 1 s))
    else if st = 1 then setF (bCroft c) F.CP_STATUS_STATE 1 s else s) s

/-- Every register at its reset value, with what the permanent area restores (17 R581, 18 R621). -/
def resetRegs (s : State) : State :=
  { s with regs := s.reeve.perm, loLatch := [], hiLatch := [], subUnits := [], lockSince := [], owners := [] }

/-- Copies fields of a page from before a reset. -/
def keepFields (b : Nat) (fs : List Field) (old s : State) : State :=
  fs.foldl (fun s f => setF b f (getF b f old) s) s

/-- Fields of the reeve page that the running reeve keeps over a device reset (16 R556). -/
def reeveKept : List Field :=
  [F.RV_STATE, F.RV_ROLLED_BACK, F.RV_ROM_VER, F.RV_PENDING]

/-- What the supply path and the well keep over a device reset: the bus as it is, and the peak window (15 R494, R495:
Pbar starts anew, the bins only at power-on). -/
def resetPower (w : Power) : Power :=
  { Power.reset with
    supply := w.supply, mv := w.mv, ma := w.ma, hist := w.hist, meanMv := w.meanMv, bins := w.bins, bin := w.bin
    binPeriods := w.binPeriods, spent := w.spent, sag := w.sag, under := w.under, surge := w.surge, low := w.low
    high := w.high, good := w.good, pwrgd := w.pwrgd, alertN := w.alertN, perst := w.perst, phy := w.phy, e0Lost := w.e0Lost
    link := w.link }

/-- An update in progress ends: nothing stays staged (17 R596). -/
def endUpdate (f : Firmware) : Firmware := { f with staged := [], updating := false, last := 0, current := 0 }

/-- Takes everything volatile to its reset state (16 R557, steps 1 to 7). -/
def clearDevice (s : State) : State :=
  let r := s.reeve
  let s := { s with
    crofts := [], tally := TallyFile.reset, parts := [], foldq := [], mill := Mill.reset
    host := { HostIf.reset with out := s.host.out, nextUid := s.host.nextUid }
    memsys := { MemSys.reset with
      modules := s.memsys.modules, nextKey := s.memsys.nextKey, keyTag := s.memsys.keyTag, perst := s.memsys.perst }
    power := resetPower s.power
    reeve := { r with
      testing := [], asked := none, coolAsked := none, coolAt := none
      fw := endUpdate r.fw } }
  resetRegs s

/-- The hard repairs that a device reset makes of soft ones, in the ledger (10 R337); a loss of power makes none. -/
def noteRepairs (rows : List Nat) (s : State) : State :=
  rows.foldl (fun s r => journal 0x09 (sourceOf bReeve s) 8 1 r s)
    { s with reeve := { s.reeve with hardRows := s.reeve.hardRows ++ rows } }

/-- Destroys the key pair of every partition that holds one (10 R341). -/
def destroyKeys (s : State) : State := (List.range 8).foldl (fun s p => if keyHeld p s then keyDestroy p s else s) s

/-- The teardown of a device reset: keys and sessions ended, confidential contents zeroed, the rest not promised
(16 R557; 10 R341, R342). -/
def teardown (s : State) : State :=
  let old := s
  let s := (rangeFrom 1 8).foldl (fun s fn => endSession fn 4 s) s
  let s := destroyKeys s
  let s := (List.range 8).foldl (fun s p => if confidential p s then zeroHeld p s else s) s
  let s := noteRepairs old.memsys.softRepairs (loseMemory s)
  let s := showLedger (clearDevice s)
  let s := keepFields bReeve reeveKept old s
  let s := (List.range 16).foldl (fun s h => keepFields (bHbm h) [F.HB_PPR_LEFT] old s) s
  refreshUnits (trainMemory (showRetired s))

/-! ### The orderly stop and the dead-to-host state -/

/-- Journal entry and event of a power event (15 R522); severities: log entry 11. -/
def powerEvent (subtype : Nat) (sc : Scope) (ledger : Bool) (payload : Nat) (s : State) : State :=
  let sev := if subtype = 4 then 3 else if subtype = 1 ∨ subtype = 9 ∨ subtype = 0x0B then 1 else 2
  let part := match sc with | .part p => p | _ => 8
  let s := raise bWell 0x08 subtype sc ledger payload s
  if ledger then journal 0x04 (sourceOf bWell s) part sev (subtype + payload * 2 ^ 8) s else s

/-- The event of an episode of the bus that ends: its lowest or highest voltage in 10 mV, and its duration in µs (15 R512, R522; log entry
21). -/
def closeEpisode (subtype : Nat) (o : Option Episode) (s : State) : State :=
  match o with
  | some e => powerEvent subtype .all true (e.mv / 10 % 2 ^ 16 + (s.time - e.since) / 1000 % 2 ^ 32 * 2 ^ 16) s
  | none => s

/-- Every episode of the bus ends. -/
def closeEpisodes (s : State) : State :=
  let w := s.power
  closeEpisode 3 w.surge (closeEpisode 2 w.under (closeEpisode 1 w.sag
    { s with power := { w with sag := none, under := none, surge := none } }))

/-- Each hamlet's grant is its floor (15 R512, R513). -/
def grantFloors (s : State) : State :=
  (List.range 16).foldl (fun s h =>
    let f := mapGet (fun _ => 0) s.power.floors h
    setF bWell (F.WELL_GRANT.at h) f
      { s with power := { s.power with grants := mapPut (fun _ => 0) h f s.power.grants, flying := [] } }) s

/-- The steps of an orderly stop before the rails fall (15 R513, steps 1 to 7): floors, STOP everywhere, each mill's vote,
the POWER_STOP event and the ledger entry, committed, with the destruction of the keys (10 R341). Cause: 1 under-voltage, 2 over-voltage, 3
thermal trip, 4 the third lockstep mismatch (17 R574). The episodes of the bus end here. -/
def stopSteps (cause : Nat) (s : State) : State :=
  let s := grantFloors (setF bReeve F.RV_STATE 4 (setF bWell F.WELL_STATE 4 s))
  let s := (List.range 608).foldl (fun s c => setF (bCroft c) F.SEQ_CTRL_STOP 1 s) s
  let s := (List.range 8).foldl (fun s p =>
    if jobEnabled p s then ownCause p (jobOf p s).step (jobOf p s).attempt 1 s else s) s
  let s := destroyKeys (powerEvent 4 .all true cause (closeEpisodes s))
  commitAll (journal 0x03 (sourceOf bReeve s) 8 3 (cause + s.power.mv * 2 ^ 8 + s.power.ma * 2 ^ 40 + s.time * 2 ^ 72) s)

/-- The rails have fallen: nothing but the ledger and the flash is left, and the status outputs are low (15 R513,
step 8; 19 R652). -/
def railsOff (supply : Supply) (s : State) : State :=
  let w := s.power
  let s := drivePerst 15 (showLedger (clearDevice (loseMemory s)))
  { s with power := { Power.reset with
      supply := supply, mv := w.mv, ma := w.ma, good := w.good, pwrgd := false, alertN := false, phy := false
      perst := w.perst } }

/-- Fields of the reeve page that the reeve, which runs on in the dead-to-host state, keeps: what failed, and its counters, which only a
device reset clears (17 R589, R599, R602). -/
def deadKept : List Field :=
  [F.RV_FW_CHECK, F.RV_FW_IMAGE, F.RV_FW_SLOT, F.RV_FW_CHECK_FAILS, F.RV_LG_SUPPRESSED, F.RV_SP_DISCARDS, F.RV_ROLLED_BACK]

/-- The dead-to-host state (17 R599). -/
def deadToHost (s : State) : State := setF bReeve F.RV_STATE 3 (keepFields bReeve deadKept s (railsOff .dead s))

/-- An orderly stop begins, and runs to its end whatever the bus does (15 R513). -/
def orderlyStop (cause : Nat) (s : State) : State :=
  match s.power.supply with
  | .on => let s := stopSteps cause s; { s with power := { s.power with supply := .stopping cause s.time } }
  | _ => s

/-- The rails fall 400 µs after the confirmation (15 R513, step 8); after the third lockstep mismatch the device is then dead to host (17
R574). -/
def stopEnds (s : State) : State :=
  match s.power.supply with
  | .stopping cause since =>
    if since + 400000 ≤ s.time then (if cause = 4 then deadToHost s else railsOff .off s) else s
  | _ => s

/-! ### Power-on -/

/-- The ageing baseline of a first power-on: every monitor's delay at point 5 (15 R517). -/
def takeBaseline (delays : List Nat) (s : State) : State :=
  if s.reeve.baseline.isSome then s
  else journal 0x0C (sourceOf bReeve s) 8 1 0 { s with reeve := { s.reeve with baseline := some delays } }

/-- Straps and counts of a power-on (19 R632, 17 R601), kept until the next one. -/
def sampleStraps (slot feed : Nat) (s : State) : State :=
  let s := setPerm bReeve F.RV_FEED_ID feed (setPerm bReeve F.RV_SLOT_ID slot s)
  let s := (List.range 8).foldl (fun s p => setPerm bMill (F.ML_PAR_FEED_ID.at p) feed s) s
  setPerm bReeve F.RV_BOOTS (getF bReeve F.RV_BOOTS s + 1) s

/-- The power-on sequence (19 R647, R648): the timebase restarts, straps are sampled, images are judged, memory trains;
READY follows with RESET_READY. -/
def powerOn (slot feed : Nat) (modules : List Module) (spares delays : List Nat) (s : State) : State :=
  let s := drivePerst 15 (showLedger (clearDevice (loseMemory s)))
  let s := sampleStraps slot feed { s with
    time := 0
    power := { Power.reset with mv := s.power.mv, ma := s.power.ma, alertN := s.power.alertN, perst := true, phy := false }
    reeve := { s.reeve with second := 0, kindCount := [], suppressed := [], mismatches := [], restart := none,
                            coolAsked := none, coolAt := none, nextPoll := 0, i3c := none, eid := 0, tid := 0, cause := 0 } }
  let (ok, s) := startImages (takeBaseline delays s)
  if ok then
    let s := { s with memsys := { s.memsys with modules := modules } }
    let s := ((List.range 16).zip spares).foldl (fun s e => setF (bHbm e.1) F.HB_PPR_LEFT e.2 s) s
    refreshUnits (trainMemory (showRetired s))
  else deadToHost s

/-- POWER_ON (19 R647, R648): the bus has been within 40 to 60 V for 10 ms with the rails off. -/
def execPowerOn (slot : BitVec 5) (feed : BitVec 4) (modules : List Module) (reads : DieReads) (s : State) :
    Host.Outcome State Fault Refusal :=
  .next (match s.power.supply, s.power.good with
    | .off, some t =>
      if t + 10 ^ 7 ≤ s.time then
        powerOn slot.toNat feed.toNat modules (reads.spares.map BitVec.toNat) (reads.delays.map BitVec.toNat) s
      else s
    | _, _ => s)

/-- The fields of the host interface page that show the trained link (18 R623). -/
def linkFields : List Field := [F.HI_SPEED, F.HI_WIDTH, F.HI_FLIT]

/-- The host interface page shows the link as E0's PHY has trained it, unless E0 is cut off (18 R623; 01 R30). -/
def showLink (s : State) : State :=
  if s.power.e0Lost then s
  else setF bHostIf F.HI_SPEED s.power.link.1 (setF bHostIf F.HI_WIDTH s.power.link.2.1 (setF bHostIf F.HI_FLIT s.power.link.2.2 s))

/-- PERST_DEASSERT (19 R649): the PHY leaves reset and the link trains to a speed and width. -/
def execPerstDeassert (speed : BitVec 4) (width : BitVec 5) (flit : Bool) (s : State) : Host.Outcome State Fault Refusal :=
  .next (match s.power.supply with
    | .on =>
      showLink { s with power := { s.power with
        perst := false, phy := true, link := (speed.toNat, width.toNat, bitOf flit) } }
    | _ => { s with power := { s.power with perst := false } })

/-! ### Device reset -/

def resetCauseCode : ResetCause → Nat
  | .perst => 1 | .hotReset => 2 | .linkDown => 3 | .linkDisable => 4 | .pfFlr => 5 | .service => 6

/-- Payload of the ledger's entry of a device reset: its cause and its requester, which is the reeve for the service port
and the PF's side of the link otherwise (17 R582; 16 R556; log entry 11). -/
def resetPay (cause : Nat) : Nat := cause + reqCode (if cause = 6 then .reeve else .host 0) * 2 ^ 8

/-- A device reset (16 R556, R557): an activation that waits takes effect (17 R597). One through the service port recovers the link of
E0, and the host link with it (01 R30). -/
def deviceReset (cause : Nat) (s : State) : State :=
  let pending := flag bReeve F.RV_PENDING s
  let old := s
  let s := teardown (journal 0x02 (sourceOf bReeve s) 8 1 (resetPay cause) s)
  let s := if cause = 1 then s else keepFields bHostIf linkFields old s
  let s := { s with reeve := { s.reeve with cause := cause }, power := { s.power with e0Lost := s.power.e0Lost && cause != 6 } }
  let s := if cause = 6 && old.power.e0Lost && s.power.phy then showLink s else s
  if pending then
    match startImages s with
    | (true, s) => s
    | (false, s) => deadToHost s
  else s

/-- The device is in a reset: READY of the PF's function page is 0 (18 R620). -/
def inReset (s : State) : Bool := !flag (bFunction 0) F.FP_READY s

/-- DEVICE_RESET (16 R556): PERST# counts only after READY (19 R649). Over the host link, which is lost with E0's, none comes (01 R30). -/
def execDeviceReset (c : ResetCause) (s : State) : Host.Outcome State Fault Refusal :=
  .next (match s.power.supply, c with
    | .on, .perst =>
      if inReset s then { s with power := { s.power with perst := true, phy := false } }
      else deviceReset 1 { s with power := { s.power with perst := true, phy := false } }
    | .on, .service => deviceReset 6 s
    | .on, c => if s.power.e0Lost then s else deviceReset (resetCauseCode c) s
    | _, _ => s)

/-- The die-to-die links are in service after a reset (18 R625): the dies' pages show them. The link of E0, once lost, comes
back with a device reset through the service port only (01 R30). -/
def linksUp (s : State) : State :=
  let s := (List.range 4).foldl (fun s d =>
    setF (bDie d) F.DIE_LINK_COMMONS 1 (setF (bDie d) F.DIE_LINK_NEXT 1 (setF (bDie d) F.DIE_LINK_PREV 1 s))) s
  setF (bEdge 1) F.DIE_LINK_COMMONS 1 (if s.power.e0Lost then s else setF (bEdge 0) F.DIE_LINK_COMMONS 1 s)

/-- RESET_READY (16 R557, step 8): READY, with what the first READY after an activation records (17 R592). -/
def execResetReady (s : State) : Host.Outcome State Fault Refusal :=
  .next (match s.power.supply with
    | .on =>
      if inReset s then
        let s := setF (bFunction 0) F.FP_READY 1 (setF bReeve F.RV_STATE 2 (linksUp (raiseFloors s)))
        { s with power := { s.power with pwrgd := true, alertN := true } }
      else s
    | _ => s)

end Sys2Proof.Machine
end

