-- ==== Sys2Proof/Machine/Repair.lean ====
section
/-!
DEFINITION. Online repair (03 R103 to R107; 14 R485 to R489; 15 R519): CROFT_FENCE, SPARE_RAMP_DONE, SELF_TEST_DONE and the
repair page's actions.
-/
namespace Sys2Proof.Machine

/-! ### Units -/

/-- The unit that the repair page names (14 R488). -/
def unitNamed (kind index : Nat) (s : State) : Option Nat :=
  match kind with
  | 1 => if index < 576 then some (bCroft (globalPhys index s))
         else if index < 608 then some (bCroft (physOf ((index - 576) / 2) (36 + (index - 576) % 2) s)) else none
  | 2 => if index < 16 then some (bHamlet index) else none
  | 3 => if index < 64 then some (2048 + index) else none
  | 4 => if index < 16 then some (bPort index) else none
  | 5 => if index < 12 then some (bDdr index) else none
  | 6 => if index < 4 then some (bCxl index) else none
  | 7 => if index < 64 then some (bSlice index) else none
  | 8 => if index = 0 then some (bEdge 1) else none
  | _ => none

/-- The code of a unit. -/
def unitCode : UnitId → Nat
  | .croft c => bCroft c.val
  | .hamlet h => bHamlet h.val
  | .slice i => bSlice i.val
  | .ddr c => bDdr c.val
  | .cxl x => bCxl x.val
  | .port v => bPort v.val
  | .lane v l => uLane v.val l.val
  | .edge1 => bEdge 1

/-- Takes every lane of a port out of service. -/
def portDown (v : Nat) (s : State) : State := (rangeFrom (4 * v) 4).foldl (fun s l => laneDown l s) s

/-- D2D_LINK_LOSS (01 R30, R31): a link that loses lanes is first repaired; one that lane repair cannot restore leaves service,
and with the link of E1 the lanes of V8 to V15 go. -/
def execD2dLinkLoss (l : LinkLoss) (s : State) : Host.Outcome State Fault Refusal :=
  .next (if linkState l.link s = 0 then s
  else if l.restored then repairLink l.link s
  else
    let s := loseLink l.link (loseRequests l.link s)
    if l.link = .edge 1 then (rangeFrom 8 8).foldl (fun s v => portDown v s) s else s)

/-- Fences a slice: its lines and its scratchpad are lost (14 R485), and its partition's cache has one slice less (11 R361). -/
def fenceSlice (i : Nat) (s : State) : State :=
  remapCache s (loseRange (plSlice i 0) (plSlice (i + 1) 0) (setF (bSlice i) F.GR_FENCED 1 (dropLines i s)))

/-- The unit is out of use already. -/
def unitFenced (u : Nat) (s : State) : Bool :=
  if 2048 ≤ u then s.mill.fencedLanes.any (fun x => x == u - 2048) else fenced u s

/-- Fences a lane: it leaves service and stays out (14 R485). -/
def fenceLane (l : Nat) (s : State) : State :=
  laneDown l { s with mill := { s.mill with fencedLanes := s.mill.fencedLanes ++ [l] } }

/-- Tier and number of a channel's or a port's page. -/
def chanOf (u : Nat) : Nat × Nat := if u < 756 then (2, u - 744) else (3, u - 756)

/-- Fences a unit, with its effect in timed service (14 R485). -/
def fenceUnit (u : Nat) (s : State) : State :=
  if unitFenced u s then s
  else if 2048 ≤ u then repairNote u 1 1 (markFenced u (fenceLane (u - 2048) s))
  else match kindOf u with
    | .croft => fenceCroft (u - 32) s
    | .hamlet => fenceHamlet (u - 640) s
    | .port => repairNote u 1 1 (markFenced u (setF u F.VP_FENCED 1 (portDown (u - 760) s)))
    | .channel => fenceChannel (chanOf u).1 (chanOf u).2 s
    | .slice => repairNote u 1 1 (markFenced u (fenceSlice (u - 672) s))
    | _ => (rangeFrom 8 8).foldl (fun s v => portDown v s) (fenceE1 s)

/-- A port is in reset while it is under self-test (19 R639; log entry 56). -/
def portReset (u : Nat) (on : Bool) (s : State) : State :=
  if 756 ≤ u ∧ u < 760 then
    drivePerst (if on then s.memsys.perst ||| 2 ^ (u - 756) else clearBit (u - 756) s.memsys.perst) s
  else s

/-- Clears the fence of a channel or port of memory and trains or enumerates what is plugged in anew (10 R325; 19 R639, R641): it is
online again when its set is in the map. -/
def returnChannel (u : Nat) (s : State) : State :=
  let s := portReset u false (setF u F.MC_FENCED 0 (setF u F.BLK_FENCED 0 s))
  let s := s.memsys.modules.foldl (fun s m =>
    match m with
    | .ddr c _ _ => if bDdr c.val = u then trainModule m s else s
    | .cxl x _ _ => if bCxl x.val = u then trainModule m s else s) s
  refreshMap (showOnline (chanOf u).1 (chanOf u).2 s)

/-- A croft is no longer out of use on its own account (03 R106). -/
def forgetAlone (c : Nat) (s : State) : State :=
  { s with reeve := { s.reeve with alone := s.reeve.alone.filter fun x => x != c } }

/-- A croft that is not retired is out of its fence. -/
def returnCroft (c state : Nat) (s : State) : State :=
  if unitRetired (bCroft c) s then s
  else
    let s := forgetAlone c s
    let s := setF (bCroft c) F.BLK_FENCED 0 (setF (bCroft c) F.SEQ_STATUS_FENCED 0 s)
    setSlotState (c / 38) (slotOf c s) state (setF (bCroft c) F.CP_STATUS_STATE 1 s)

/-- A croft that has passed its self-test is a free spare (03 R106): one that still lies under its former index leaves it for the
slot of a spare that is not free, whose croft the index then names. -/
def freeCroft (c : Nat) (s : State) : State :=
  let h := c / 38
  let slot := slotOf c s
  match ([36, 37] : List Nat).find? fun i => slotState h i s != 1 with
  | some i => returnCroft c 1 (if slot < 36 then exchangeSlots h slot i s else s)
  | none => returnCroft c 1 s

/-- The unit lies behind a die-to-die link that is out of service (01 R30). -/
def linkOut (u : Nat) (s : State) : Bool :=
  if 2048 ≤ u then decide (32 ≤ u - 2048) && getF (bEdge 1) F.DIE_LINK_COMMONS s == 0
  else match kindOf u with
    | .croft => getF (bDie ((u - 32) / 152)) F.DIE_LINK_COMMONS s == 0
    | .hamlet => getF (bDie ((u - 640) / 4)) F.DIE_LINK_COMMONS s == 0
    | .port => decide (768 ≤ u) && getF (bEdge 1) F.DIE_LINK_COMMONS s == 0
    | .channel => (decide (750 ≤ u ∧ u < 756) || decide (758 ≤ u)) && getF (bEdge 1) F.DIE_LINK_COMMONS s == 0
    | .die => u == bEdge 1 && getF (bEdge 1) F.DIE_LINK_COMMONS s == 0
    | _ => false

/-- A croft that was fenced on its own account, or is under self-test, does not come back with its hamlet (03 R106). -/
def staysOut (c : Nat) (s : State) : Bool :=
  (s.reeve.alone.any fun x => x == c) || s.reeve.testing.any fun u => u == bCroft c

/-- E1 returns: what is retired or under self-test of its channels and ports stays out (14 R487). -/
def returnE1 (s : State) : State :=
  let out (u : Nat) : Bool := unitRetired u s || s.reeve.testing.any fun x => x == u
  let s := setF (bEdge 1) F.DIE_FENCED 0 (setF (bEdge 1) F.BLK_FENCED 0 s)
  let s := e1Channels.foldl (fun s e => if out (chanBlock e.1 e.2) then s else returnChannel (chanBlock e.1 e.2) s) s
  (rangeFrom 8 8).foldl (fun s v =>
    if out (bPort v) then s else setF (bPort v) F.VP_FENCED 0 (setF (bPort v) F.BLK_FENCED 0 s)) s

/-- A unit returns to service (14 R487); behind a link that is out of service it stays as it is (01 R30). -/
def returnUnit (u : Nat) (s : State) : State :=
  if linkOut u s then s
  else if 2048 ≤ u then { s with mill := { s.mill with fencedLanes := s.mill.fencedLanes.filter fun x => x != u - 2048 } }
  else match kindOf u with
    | .croft => refreshUnits (keepMap ((u - 32) / 38) (freeCroft (u - 32) s))
    | .hamlet =>
      let h := u - 640
      let s := setF u F.BLK_FENCED 0 (setF (bHbm h) F.BLK_FENCED 0 (setF (bHbm h) F.HB_FENCED 0 s))
      let s := setF (bHbm h) F.HB_PC_OFFLINE_LO 0 (setF (bHbm h) F.HB_PC_OFFLINE_HI 0 (setF (bHbm h) F.HB_ONLINE 1 s))
      let s := (List.range 38).foldl (fun s i =>
        if staysOut (physOf h i s) s then s else returnCroft (physOf h i s) (if i < 36 then 0 else 1) s) s
      refreshUnits (keepMap h s)
    | .port => setF u F.VP_FENCED 0 (setF u F.BLK_FENCED 0 s)
    | .channel => returnChannel u s
    | .slice =>
      let t := setF u F.GR_FENCED 0 (setF u F.BLK_FENCED 0 s)
      remapCache s
        { t with memsys := { t.memsys with failedSlices := t.memsys.failedSlices.filter fun x => x != u - 672 } }
    | _ => returnE1 s

/-- A unit is retired, for good (14 R487): it stays so after every reset. -/
def retireUnit (u : Nat) (s : State) : State :=
  let s := forgetAlone (u - 32) { s with reeve := { s.reeve with retired := s.reeve.retired ++ [u] } }
  let s := repairNote u 3 2 (addF bRepair F.REP_RETIRED 1 s)
  if 2048 ≤ u then s
  else
    let s := setF u F.BLK_RETIRED 1 (setF u F.BLK_FENCED 1 s)
    match kindOf u with
    | .croft =>
      let c := u - 32
      refreshUnits (keepMap (c / 38) (setSlotState (c / 38) (slotOf c s) 3 (setF u F.CP_STATUS_STATE 0 s)))
    | _ => refreshUnits s

/-! ### The repair page's actions -/

/-- Before a slice is fenced the queues of its owner must be empty, and before a cache-mode slice is, every cache-mode slice of the
owner must have been flushed (11 R360, R364). -/
def sliceFree (u : Nat) (s : State) : Bool :=
  if u < 2048 ∧ kindOf u = .slice then
    match ownerOf u s with
    | some p => queuesEmpty p s && (getF u F.GR_MODE s != 2 || (cacheSlices p s).all fun i =>
        dirtyLines i s == 0 && !(s.memsys.flushing.any fun x => x == i))
    | none => true
  else true

/-- RESULT of the repair page. -/
def repResult (v : Nat) (s : State) : State := setF bRepair F.REP_RESULT v s

/-- An ACTION (14 R485, R488, R489): 1 = fence, 2 = self-test, which fences a unit that is not fenced yet, 3 = return. -/
def repairAction (kind index action : Nat) (s : State) : State :=
  match unitNamed kind index s with
  | none => repResult 3 s
  | some u =>
    if flag bRepair F.REP_BUSY s || unitRetired u s then repResult 3 s
    else if action = 3 then
      if linkOut u s || s.reeve.testing.any fun x => x == u then repResult 3 s
      else if unitFenced u s then repResult 0 (returnUnit u s) else s
    else if !sliceFree u s then repResult 3 s
    else
      let s := repResult 0 (fenceUnit u s)
      if action = 2 then
        let l := if s.reeve.testing.any fun x => x == u then s.reeve.testing else s.reeve.testing ++ [u]
        portReset u true (setF bRepair F.REP_BUSY 1 { s with reeve := { s.reeve with testing := l, asked := some u } })
      else s

/-- A croft whose point 5 is withdrawn does not return to service (15 R519). -/
def unfit (u : Nat) (s : State) : Bool :=
  decide (u < 2048 ∧ kindOf u = .croft) && flag u (F.CP_POINT_WITHDRAWN.at 5) s

/-- SELF_TEST_DONE (14 R487): a unit under self-test passes and returns to service, or fails and is retired. -/
def execSelfTestDone (u : UnitId) (pass : Bool) (s : State) : Host.Outcome State Fault Refusal :=
  let u := unitCode u
  .next (if s.reeve.testing.any fun x => x == u then
    let byPage := s.reeve.asked == some u
    let s := { s with reeve := { s.reeve with testing := s.reeve.testing.filter fun x => x != u } }
    let good := pass && !unfit u s
    let s := if good then repairNote u 2 1 (addF bRepair F.REP_PASSED 1 (returnUnit u s)) else retireUnit u s
    if byPage then
      repResult (if good then 1 else 2) (setF bRepair F.REP_BUSY 0 { s with reeve := { s.reeve with asked := none } })
    else s
  else s)

/-! ### Crofts -/

/-- UNIT_ERROR of a croft (03 R95): the task that its unit runs, or for the larder the oldest one that runs, fails; without one
the croft reports the error alone and halts. -/
def unitError (c d : Nat) (s : State) : State :=
  match (croftOf c s).queue.find? fun t => t.phase == .running && (d == 7 || unitOf (dOpcode t.desc) == d) with
  | some t => failTask c t.uid ⟨0x0B, 0, d, 0, 0, []⟩ s
  | none =>
    let b := bCroft c
    let s := setF b F.BLK_FAULT_INFO d (setF b F.BLK_FAULT_CODE 0x0B s)
    raise b 0x04 0 (ownerScope b s) false (0x0B + d * 2 ^ 32) (setF b F.SEQ_STATUS_HALTED 1 s)

/-- CROFT_FENCE (03 R103): the steward fences a croft after UNIT_ERROR, or on request of the reeve or of software. -/
def execCroftFence (o : FenceOrder) (s : State) : Host.Outcome State Fault Refusal :=
  .next (fenceCroft o.croft.val (match o.err with
    | some d => if fenced (bCroft o.croft.val) s then s else unitError o.croft.val d.val s
    | none => s))

/-- The registers that give a spare its predecessor's context (03 R105, step 6): every RW field but STOP. -/
def contextFields : List Field :=
  (fieldsOf .croft).filter fun f => f.acc == .rw && f != F.SEQ_CTRL_STOP

/-- Copies a field in all its copies. -/
def copyField (src dst : Nat) (f : Field) (s : State) : State :=
  (List.range f.n).foldl (fun s i => setF dst (f.at i) (getF src (f.at i) s) s) s

/-- The control core clears STOP of a spare; with a larder layout that does not fit, the write is discarded and reported (03
R102). -/
def startSpare (c : Nat) (s : State) : State :=
  if layoutOk c s then setF (bCroft c) F.SEQ_CTRL_STOP 0 s
  else discard (bCroft c) (0x400000 * (c / 152 + 1) + 0x1000 * (38 * (c / 38 % 4) + slotOf c s) + 0x40) (ownerScope (bCroft c) s) s

/-- SPARE_RAMP_DONE (03 R105, steps 6 to 8): the spare's rail has ramped; it gets its context, STOP clears, and the
restore list and the tasks to reissue go to the dispatch core. -/
def execSpareRampDone (c : CroftId) (restore : List Desc) (s : State) : Host.Outcome State Fault Refusal :=
  let b := bCroft c.val
  .next (match s.power.ramps.find? fun r => r.spare == c.val with
    | none => s
    | some r =>
      if r.till ≤ s.time then
        let s := { s with power := { s.power with ramps := s.power.ramps.filter fun x => x.spare != c.val } }
        let s := contextFields.foldl (fun s f => copyField (bCroft r.from_) b f s) s
        let s := startSpare c.val (setF b F.CP_STATUS_POINT (targetPoint c.val s) (setF b F.CP_STATUS_STATE 2 s))
        let tasks := (restore.map fun d => (d, 0)) ++ r.reissue
        let rel := tasks.map fun e => (⟨e.1, r.index, e.2, none, false, false⟩ : Rel)
        let s := match contextOf c.val s with
          | some p => updPart p (fun k => { k with rel := rel ++ k.rel }) s
          | none => s
        substitutionNote r.from_ r.index c.val s
      else s)

end Sys2Proof.Machine
end

