-- ==== Sys2Proof/Machine/Power.lean ====
section
/-!
DEFINITION. The well and the power path (15 R490 to R506, R512, R513; 19 R647, R652): bus samples, grant periods, grants,
pacing, hum, operating points, the passing of time. Currents of grants and demands are in units of 0.25 A, powers in µW,
Pbar in nW (log entry 21).
-/
namespace Sys2Proof.Machine

/-! ### Figures of an operating point (15, "Factory operating points"), in µW -/

def pTyp (k : Nat) : Nat := (([1900000, 2600000, 3500000, 4800000, 6200000, 8000000, 9900000, 12100000] : List Nat)[k]?).getD 0
def pMax (k : Nat) : Nat := (([2600000, 3500000, 4800000, 6500000, 8400000, 11000000, 13500000, 16500000] : List Nat)[k]?).getD 0
def pLeak (k : Nat) : Nat := (([270000, 300000, 350000, 450000, 600000, 800000, 950000, 1100000] : List Nat)[k]?).getD 0

/-- Croft-side power as bus current in units, at a bus voltage in mV (15 R492), rounded up or down. -/
def unitsUp (uw mv : Nat) : Nat := cdiv (4 * uw) (910 * mv)
def unitsDown (uw mv : Nat) : Nat := 4 * uw / (910 * mv)

/-- The current operating point of a croft. -/
def pointOfCroft (c : Nat) (s : State) : Nat := getF (bCroft c) F.CP_STATUS_POINT s

/-- Declared power of a task at a point (15 R507). -/
def pDecl (d : Desc) (k : Nat) : Nat :=
  if dEnergy d = 0 ∨ dCycles d = 0 then pTyp k else dEnergy d * pointMhz k * 10 ^ 6 / (1024 * dCycles d)

/-- Descriptors enqueued at a croft and not completed: a task that only waits for the acknowledgement of its addition has (03 R87). -/
def enqueuedAt (c : Nat) (s : State) : List Desc :=
  (((croftOf c s).queue.filter fun t => t.phase != .leaving).map fun t => t.desc) ++ (croftOf c s).arriving.map fun a => a.desc

/-- Planned power of a croft with some tasks at a point (15 R508). -/
def plannedOf (l : List Desc) (k : Nat) : Nat :=
  let dyn := (List.range 7).foldl (fun n u =>
    n + (l.filter fun d => unitOf (dOpcode d) == u).foldl (fun m d => max m (pDecl d k - pLeak k)) 0) 0
  min (pMax k) (max (pTyp k) (pLeak k + dyn))

def planned (c : Nat) (s : State) : Nat := plannedOf (enqueuedAt c s) (pointOfCroft c s)

/-- The crofts that carry a hamlet's indices. -/
def hamletCrofts (h : Nat) (s : State) : List Nat := (List.range 36).map fun i => physOf h i s

/-- Demand of a hamlet (15 R508), capped while its stack is hot (15 R499). -/
def demand (h mv : Nat) (s : State) : Nat :=
  let full := (hamletCrofts h s).foldl (fun n c => n + planned c s) 0
  let capped := (hamletCrofts h s).foldl (fun n c => n + plannedOf (enqueuedAt c s) 4) 0
  unitsUp (if s.power.hot.any fun x => x == h then min full capped else full) mv

/-! ### The well's budget (15 R493 to R498) -/

/-- Coolant inlet temperature as the well takes it (15 R516). -/
def coolantIn (s : State) : Int := if flag bThermal F.TH_STALE s then 45 else signed8 (getF bThermal F.TH_T_IN s)

/-- Ps in W (15 R493). -/
def sustained (s : State) : Nat := max 6000 (8500 - getF bWell F.WELL_DERATE s * (coolantIn s - 40).toNat)

/-- Is and Ip in mA (15 R493). -/
def limitSustained (mv : Nat) (s : State) : Nat := min 160000 (sustained s * 10 ^ 6 / mv)
def limitPeak (mv : Nat) : Nat := min 220000 (11000 * 10 ^ 6 / mv)

/-- window_used() (15 R495). -/
def windowUsed (s : State) : Nat := s.power.bins.foldl (fun n b => n + b) s.power.bin

/-- peak_ok (15 R493). -/
def peakOk (s : State) : Bool :=
  flag bWell F.WELL_PEAK_EN s && decide (s.power.pbar < sustained s * 10 ^ 9) && decide (windowUsed s < 20000)

/-- The grant pool in units at a bus voltage and a base current in mA (15 R493). -/
def poolAt (mv base : Nat) (s : State) : Nat :=
  let ilim := if peakOk s then limitPeak mv else limitSustained mv s
  let cap := getF bWell F.WELL_CAP_W s
  let ilim := if 0 < cap then min ilim (cap * 10 ^ 6 / mv) else ilim
  (ilim - base - 250 * getF bWell F.WELL_GUARD s) / 250

def floorOf (h : Nat) (s : State) : Nat := mapGet (fun _ => 0) s.power.floors h

/-- Scales demands down to a sum, in proportion to D − F (15 R497). -/
def scaleTo (sum : Nat) (l : List (Nat × Nat)) (s : State) : List (Nat × Nat) :=
  let f := l.foldl (fun n e => n + floorOf e.1 s) 0
  let span := l.foldl (fun n e => n + (e.2 - floorOf e.1 s)) 0
  l.map fun e => (e.1, floorOf e.1 s + (sum - f) * (e.2 - floorOf e.1 s) / span)

/-- The demands of the partitions' hamlets after the partition caps (15 R497). -/
def cappedDemands (mv : Nat) (s : State) : List (Nat × Nat) :=
  ((List.range 8).map fun p =>
    let l := (hamletsOf p s).map fun h => (h, demand h mv s)
    let cap := getF bWell (F.WELL_PART_CAP_W.at p) s
    let lim := unitsDown (cap * 10 ^ 6) mv
    if 0 < cap ∧ lim < l.foldl (fun n e => n + e.2) 0 then scaleTo lim l s else l).flatten

/-- Divides the pool (15 R497). -/
def divide (pool : Nat) (l : List (Nat × Nat)) (s : State) : List (Nat × Nat) :=
  let sum := l.foldl (fun n e => n + e.2) 0
  if sum ≤ pool then l.map fun e => (e.1, e.2 + (pool - sum) / l.length) else scaleTo pool l s

/-- Sends a hamlet's grant on its way (15 R497: fabric class 0, 0.2 µs). -/
def sendGrant (h g : Nat) (s : State) : State :=
  setF bWell (F.WELL_GRANT.at h) (min g 1023) { s with power := { s.power with flying := s.power.flying ++ [(h, g, s.time)] } }

/-- Grants of one recomputation (15 R497, R498, R512): the pool divided after the units under self-test have their
demand; hamlets of no partition get their retention draw; below 38 V everyone gets the floor. `tests` lists the demands
that the repair engine reports, by hamlet. -/
def grantAll (mv base : Nat) (tests : List (Nat × Nat)) (s : State) : State :=
  let testSum := tests.foldl (fun n e => n + e.2) 0
  let pool := poolAt mv base s
  let dem := cappedDemands mv s
  let gr := divide (pool - testSum) dem s
  let s := setF bWell F.WELL_POOL (min pool 1023) (setF bWell F.WELL_BASE (min (base / 250) 1023) s)
  let s := (List.range 16).foldl (fun s h =>
    setF bWell (F.WELL_DEMAND.at h) (match dem.find? fun e => e.1 == h with | some e => min e.2 1023 | none => 0) s) s
  (List.range 16).foldl (fun s h =>
    let own := match gr.find? fun e => e.1 == h with | some e => e.2 | none => floorOf h s
    let extra := (tests.filter fun e => e.1 == h).foldl (fun n e => n + e.2) 0
    sendGrant h (if s.power.low.isSome then floorOf h s else own + extra) s) s

/-- Pbar after a period of mean power `uw` (15 R493). -/
def nextPbar (pbar uw : Nat) : Nat :=
  let p := uw * 1000
  if pbar ≤ p then pbar + (p - pbar) / 10 ^ 6 else pbar - (pbar - p) / 10 ^ 6

/-- Counts the period in the peak window (15 R495). -/
def countPeriod (overrun : Bool) (w : Power) : Power :=
  let bin := w.bin + bitOf overrun
  if 1000 ≤ w.binPeriods + 1 then { w with bins := bin :: w.bins.take 199, bin := 0, binPeriods := 0 }
  else { w with bin := bin, binPeriods := w.binPeriods + 1 }

/-- Raises PEAK_EXHAUSTED once per window (15 R522). -/
def noteSpent (s : State) : State :=
  if 20000 ≤ windowUsed s then
    if s.power.spent then s
    else powerEvent 5 .all false (getF bWell F.WELL_PBAR_W s + s.power.meanMv / 10 * 2 ^ 16)
      (addF bWell F.WELL_WINDOWS_SPENT 1 { s with power := { s.power with spent := true } })
  else { s with power := { s.power with spent := false } }

/-- Adds the energy of a period, in pJ (15 R523: ENERGY in mJ). -/
def addEnergy (pj : Nat) (s : State) : State :=
  let t := s.power.energy + pj
  let e := getPair bWell F.WELL_ENERGY_LO F.WELL_ENERGY_HI s + t / 10 ^ 9
  setPair bWell F.WELL_ENERGY_LO F.WELL_ENERGY_HI (e % 2 ^ 64) { s with power := { s.power with energy := t % 10 ^ 9 } }

/-- A grant period (15 R493), with the measured base current in mA, the measured floors of the hamlets and the demands
of units under self-test. -/
def grantPeriod (base : Nat) (floors : List Nat) (tests : List (Nat × Nat)) (s : State) : State :=
  let w := s.power
  let v := if w.samples = 0 then w.mv else w.sumMv / w.samples
  let i := if w.samples = 0 then w.ma else w.sumMa / w.samples
  let fl : SMap Nat := ((List.range 16).zip floors).foldl (fun m e => mapPut (fun _ => 0) e.1 e.2 m) []
  let w := countPeriod (decide (limitSustained v s < i)) { w with
    sumMv := 0, sumMa := 0, samples := 0, meanMv := v, pbar := nextPbar w.pbar (v * i), floors := fl, base := base, tests := tests }
  let s := addEnergy (v * i) { s with power := w }
  let paced := ((List.range 16).filter fun h => decide (getF bWell (F.WELL_PACE.at h) s < 16)).length
  let s := addF bWell F.WELL_PACED_US paced s
  let s := setF bWell F.WELL_BUS_V (min (v / 10) 8191) (setF bWell F.WELL_BUS_I (min (i / 250) 1023) s)
  let s := setF bWell F.WELL_PBAR_W (min (w.pbar / 10 ^ 9) 65535) (setF bWell F.WELL_PSUST_W (min (sustained s) 65535) s)
  let s := setF bWell F.WELL_PEAK_USED (min (windowUsed s) 32767) (setF bWell F.WELL_PEAK_OK (bitOf (peakOk s)) s)
  noteSpent (grantAll v base tests s)

/-- GRANT_PERIOD (15 R493). -/
def execGrantPeriod (base : BitVec 18) (floors : List (BitVec 10)) (tests : List (HamletId × BitVec 10)) (s : State) :
    Host.Outcome State Fault Refusal :=
  .next (match s.power.supply with
    | .on => grantPeriod base.toNat (floors.map BitVec.toNat) (tests.map fun e => (e.1.val, e.2.toNat)) s
    | _ => s)

/-- GRANT_DELIVERY (15 R497): the oldest grant on its way to the hamlet group arrives 0.2 µs after it was issued. -/
def execGrantDelivery (h : HamletId) (s : State) : Host.Outcome State Fault Refusal :=
  .next (match s.power.flying.find? fun e => e.1 == h.val with
    | some (_, g, t) =>
      if t + 200 ≤ s.time then
        let rest := removeFirst (fun e => e.1 == h.val) s.power.flying
        { s with power := { s.power with flying := rest, grants := mapPut (fun _ => 0) h.val g s.power.grants } }
      else s
    | none => s)

/-! ### Bus samples (15 R512, R513; 19 R650, R652) -/

/-- The state code the well shows (15 R523). -/
def wellState (w : Power) : Nat := if w.surge.isSome then 3 else if w.under.isSome then 2 else if w.sag.isSome then 1 else 0
def showWell (s : State) : State := setF bWell F.WELL_STATE (wellState s.power) s

/-- A timer that runs while a condition holds. -/
def timerWhile (c : Bool) (now : Nat) (t : Option Nat) : Option Nat := if c then some (t.getD now) else none

/-- The extreme of an episode with one more sample. -/
def lowest (mv : Nat) (e : Episode) : Episode := { e with mv := min e.mv mv }
def highest (mv : Nat) (e : Episode) : Episode := { e with mv := max e.mv mv }

/-- Begins a SAG episode, or extends it; grants are recomputed at once, the base current scaled to the new voltage. -/
def sagSample (mv : Nat) (s : State) : State :=
  let s := match s.power.sag with
    | some e => { s with power := { s.power with sag := some (lowest mv e) } }
    | none => addF bWell F.WELL_SAGS 1 { s with power := { s.power with sag := some ⟨mv, s.time⟩ } }
  grantAll mv (s.power.base * s.power.meanMv / mv) s.power.tests s

/-- Begins an UNDERVOLT episode, or extends it. -/
def underSample (mv : Nat) (s : State) : State :=
  match s.power.under with
  | some e => { s with power := { s.power with under := some (lowest mv e) } }
  | none => addF bWell F.WELL_UNDERVOLTS 1 { s with power := { s.power with under := some ⟨mv, s.time⟩ } }

/-- Begins a SURGE episode, or extends it. -/
def surgeSample (mv : Nat) (s : State) : State :=
  match s.power.surge with
  | some e => { s with power := { s.power with surge := some (highest mv e) } }
  | none => addF bWell F.WELL_SURGES 1 { s with power := { s.power with surge := some ⟨mv, s.time⟩ } }

/-- What every sample leaves: the bus, the last 10 µs, the period's sums, and the timers. -/
def recordSample (mv ma : Nat) (s : State) : State :=
  let w := s.power
  { s with power := { w with
      mv := mv, ma := ma, hist := mv :: w.hist.take 100, sumMv := w.sumMv + mv, sumMa := w.sumMa + ma
      samples := w.samples + 1
      low := timerWhile (decide (mv < 38000)) s.time w.low
      high := timerWhile (decide (60000 < mv)) s.time w.high
      good := timerWhile (decide (40000 ≤ mv ∧ mv ≤ 60000)) s.time w.good } }

/-- The bus is below SAG_V, or has fallen by more than 4 V within 10 µs. -/
def isSag (mv : Nat) (s : State) : Bool :=
  decide (mv < 1000 * getF bWell F.WELL_SAG_V s) || s.power.hist.any fun x => decide (mv + 4000 < x)

/-- A bus sample while the rails are up (15 R512). -/
def sampleOn (mv ma : Nat) (s : State) : State :=
  let s := recordSample mv ma s
  if 66000 < mv then orderlyStop 2 s
  else
    let s := if 60000 < mv then surgeSample mv s else s
    let s := if mv < 40000 then underSample mv s else s
    let s := if isSag mv s then sagSample mv s else s
    showWell (if mv < 38000 then (List.range 16).foldl (fun s h => sendGrant h (floorOf h s) s) s else s)

/-- The status outputs with the rails off (19 R652). -/
def outputsOff (mv : Nat) (w : Power) : Power :=
  if mv < 20000 then { w with pwrgd := true, alertN := true }
  else if w.pwrgd then { w with pwrgd := false, alertN := true } else w

/-- BUS_SAMPLE (15 R512): voltage in mV and current in mA. An orderly stop under way heeds no sample; with the rails off only the input
supervisor runs; a device that is dead to host and loses the bus is off (17 R600: a power cycle). -/
def execBusSample (mv : BitVec 17) (ma : BitVec 19) (s : State) : Host.Outcome State Fault Refusal :=
  .next (match s.power.supply with
    | .on => sampleOn mv.toNat ma.toNat s
    | .dead =>
      let s := recordSample mv.toNat ma.toNat s
      if mv.toNat < 20000 then railsOff .off s else s
    | .stopping _ _ => recordSample mv.toNat ma.toNat s
    | .off =>
      let s := recordSample mv.toNat ma.toNat s
      { s with power := outputsOff mv.toNat s.power })

/-- UNDERVOLT_CONFIRM (15 R512): below 38 V for more than 100 µs. -/
def execUndervoltConfirm (s : State) : Host.Outcome State Fault Refusal :=
  .next (match s.power.low with
    | some t => if t + 100000 < s.time then orderlyStop 1 s else s
    | none => s)

/-- SURGE_TIMEOUT (15 R512): at 60 to 66 V for more than 100 ms. -/
def execSurgeTimeout (s : State) : Host.Outcome State Fault Refusal :=
  .next (match s.power.high with
    | some t => if t + 10 ^ 8 < s.time then orderlyStop 2 s else s
    | none => s)

/-- EPISODE_END (15 R512, R522): the bus has been within 40 to 60 V for 10 ms; the episodes end with their events. -/
def execEpisodeEnd (s : State) : Host.Outcome State Fault Refusal :=
  .next (match s.power.good with
    | some t =>
      if t + 10 ^ 7 ≤ s.time then
        showWell (closeEpisodes s)
      else s
    | none => s)

/-! ### Pacing and hum (15 R500 to R504) -/

def thermLevel (c : Nat) (s : State) : Nat := mapGet (fun _ => 16) s.power.therm c
def humLevel (c : Nat) (s : State) : Nat := mapGet (fun _ => 16) s.power.hum c

/-- The effective pacing level of a croft (15 R501). -/
def effectivePace (c : Nat) (s : State) : Nat := min (getF bWell (F.WELL_PACE.at (c / 38)) s) (thermLevel c s)
def showPace (c : Nat) (s : State) : State := setF (bCroft c) F.CP_STATUS_PACE (effectivePace c s) s

/-- The level of a croft's ramp between Idle, from which every croft starts, and Hum (15 R504). -/
def gateLevel (c : Nat) (s : State) : Nat := mapGet (fun _ => 0) s.power.gate c

/-- The ramp moves by one level: up for a croft that hums or runs, down for one in Idle (15 R504). -/
def stepGate (c : Nat) (s : State) : State :=
  let g := gateLevel c s
  let g := if hums c s || runsTask c s then min 16 (g + 1) else g - 1
  { s with power := { s.power with gate := mapPut (fun _ => 0) c g s.power.gate } }

/-- Adds cycles of a croft, given in 1/160 cycle, to PACED_CYCLES or HUM_CYCLES; what is left of a cycle is kept. -/
def addPaced (c n : Nat) (s : State) : State :=
  let t := mapGet (fun _ => 0) s.power.pacedRest c + n
  addUnits (bCroft c) F.CP_PACED_CYCLES (t / 160)
    { s with power := { s.power with pacedRest := mapPut (fun _ => 0) c (t % 160) s.power.pacedRest } }
def addHummed (c n : Nat) (s : State) : State :=
  let t := mapGet (fun _ => 0) s.power.humRest c + n
  addUnits (bCroft c) F.CP_HUM_CYCLES (t / 160)
    { s with power := { s.power with humRest := mapPut (fun _ => 0) c (t % 160) s.power.humRest } }

/-- One croft over 100 ns: ramp, hum timer and level (15 R503, R504), HUM_CYCLES and PACED_CYCLES: at level p, 16 − p of 16 cycles are
withheld. -/
def croftStep (c : Nat) (s : State) : State :=
  let p := min (effectivePace c s) (gateLevel c s)
  let mhz := pointMhz (pointOfCroft c s)
  let s := noteHum c (stepGate c (showPace c s))
  if hums c s then addHummed c (mhz * min p (humLevel c s)) (addPaced c (mhz * (16 - p)) s)
  else if runsTask c s then
    let h := humLevel c s
    let s := { s with power := { s.power with hum := mapPut (fun _ => 16) c (min 16 (h + 1)) s.power.hum } }
    addPaced c (mhz * (16 - min p h)) s
  else s

/-- The PACING event of a hamlet (15 R522): below 16 for 1 ms without interruption, once per second. -/
def pacingEvent (h : Nat) (s : State) : State :=
  match mapGet (fun _ => none) s.power.paced h with
  | none => s
  | some t =>
    let due := match mapGet (fun _ => none) s.power.pacedEv h with | some e => decide (e + 10 ^ 9 ≤ s.time) | none => true
    if t + 10 ^ 6 ≤ s.time ∧ due = true then
      let pay := h + mapGet (fun _ => 16) s.power.lowest h * 2 ^ 8 + getF bWell (F.WELL_GRANT.at h) s * 2 ^ 16
      powerEvent 6 (ownerScope (bHamlet h) s) false pay
        { s with power := { s.power with pacedEv := mapPut (fun _ => none) h (some s.time) s.power.pacedEv } }
    else s

/-- Highest point a hamlet's crofts may be raised to: the aim of the partition (15 R511). -/
def aimOf (p : Nat) (s : State) : Nat :=
  let k := getF bSteward (F.SCH_PART_POINT.at p) s
  if flag bSteward (F.SCH_BOOST_EN.at p) s then k else min k 5

/-- The next point of a croft when its hamlet is raised: one more, at most the aim and the thermal cap. -/
def raisedPoint (p c : Nat) (s : State) : Nat :=
  let r := getF (bCroft c) F.CP_CTRL_POINT_REQ s
  max r (min (r + 1) (min (aimOf p s) (getF (bCroft c) F.CP_STATUS_CAP_POINT s)))

/-- G_h covers the planned current of the hamlet at the next higher point, below the aim (15 R511). -/
def coversNext (h : Nat) (s : State) : Bool :=
  match ownerOf (bHamlet h) s with
  | none => false
  | some p =>
    let l := hamletCrofts h s
    (l.any fun c => decide (getF (bCroft c) F.CP_CTRL_POINT_REQ s < raisedPoint p c s)) &&
    decide (unitsUp (l.foldl (fun n c => n + plannedOf (enqueuedAt c s) (raisedPoint p c s)) 0) s.power.meanMv
      ≤ getF bWell (F.WELL_GRANT.at h) s)

/-- Moves a hamlet's pacing level by at most one (15 R500). -/
def nextPace (level ma grant : Nat) : Nat :=
  if grant * 250 < ma then level - 1 else if ma + 250 < grant * 250 ∧ level < 16 then level + 1 else level

/-- A pacing step of a hamlet group (15 R500, R501) with its measured current in mA. -/
def pacingStep (h ma : Nat) (s : State) : State :=
  let old := getF bWell (F.WELL_PACE.at h) s
  let level := nextPace old ma (mapGet (fun _ => 0) s.power.grants h)
  let w := s.power
  let since := timerWhile (decide (level < 16)) s.time (mapGet (fun _ => none) w.paced h)
  let low := if level < 16 then min level (mapGet (fun _ => 16) w.lowest h) else 16
  let cov := timerWhile (coversNext h s) s.time (mapGet (fun _ => none) w.covered h)
  let s := setF bWell (F.WELL_PACE.at h) level { s with power := { w with
    amps := mapPut (fun _ => 0) h ma w.amps
    paced := mapPut (fun _ => none) h since w.paced
    lowest := mapPut (fun _ => 16) h low w.lowest
    covered := mapPut (fun _ => none) h cov w.covered } }
  pacingEvent h ((rangeFrom (38 * h) 38).foldl (fun s c => croftStep c s) s)

/-- PACING_STEP (15 R500). -/
def execPacingStep (h : HamletId) (ma : BitVec 16) (s : State) : Host.Outcome State Fault Refusal :=
  .next (match s.power.supply with
    | .on => pacingStep h.val ma.toNat s
    | _ => s)

/-- HUM_TAPER (15 R503): after HUM_HOLD_US of hum, one level less every 100 ns, down to HUM_FLOOR. -/
def execHumTaper (c : CroftId) (s : State) : Host.Outcome State Fault Refusal :=
  let b := bCroft c.val
  let hold := getF b F.CP_CTRL_HUM_HOLD_US s
  .next (match mapGet (fun _ => none) s.power.idle c.val with
    | none => s
    | some t =>
      let level := humLevel c.val s
      if hums c.val s && decide (0 < hold ∧ t + 1000 * hold ≤ s.time ∧ getF b F.CP_CTRL_HUM_FLOOR s < level ∧
          mapGet (fun _ => 0) s.power.humStep c.val ≤ s.time) then
        { s with power := { s.power with
            hum := mapPut (fun _ => 16) c.val (level - 1) s.power.hum
            humStep := mapPut (fun _ => 0) c.val (s.time + 100) s.power.humStep } }
      else s)

/-! ### Operating points (15 R505, R506) -/

/-- POINT_CHANGE (15 R505): with its tasks completed, the croft changes voltage and frequency, humming at the lower of
the two points. -/
def execPointChange (c : CroftId) (s : State) : Host.Outcome State Fault Refusal :=
  let b := bCroft c.val
  let new := targetPoint c.val s
  let old := getF b F.CP_STATUS_POINT s
  .next (if new = old ∨ flag b F.CP_STATUS_CHANGING s ∨ runsTask c.val s then s
  else
    let till := s.time + (if old < new then 1000 else 200)
    let s := { s with power := { s.power with change := mapPut (fun _ => none) c.val (some ⟨new, till⟩) s.power.change } }
    setF b F.CP_STATUS_POINT (min old new) (setF b F.CP_STATUS_CHANGING 1 s))

/-- POINT_CHANGE_DONE (15 R505). -/
def execPointChangeDone (c : CroftId) (s : State) : Host.Outcome State Fault Refusal :=
  let b := bCroft c.val
  .next (match mapGet (fun _ => none) s.power.change c.val with
    | none => s
    | some (x : PointChange) =>
      if x.till ≤ s.time then
        let s := { s with power := { s.power with change := mapDel c.val s.power.change } }
        addF b F.CP_POINT_CHANGES 1 (setF b F.CP_STATUS_POINT x.point (setF b F.CP_STATUS_CHANGING 0 s))
      else s)

/-! ### Time (log entry 2) -/

/-- One hour in ns. -/
def hourNs : Nat := 3600 * 10 ^ 9

/-- The croft cycles that end in the nanosecond that has just passed: the spindle's (09 R294), and the waits of the units for
streams and pieces (11 R346, R356). -/
def cycleTick (s : State) : State :=
  s.crofts.foldl (fun t e =>
    let n := nsToCycles e.1 t.time t - nsToCycles e.1 (t.time - 1) t
    spinRun e.1 n (countWaits e.1 n t)) s

/-- One nanosecond of the commons timebase; each full powered hour adds 1 to POWERED_H (15 R523), and an orderly stop comes to its end (15
R513). -/
def tick (s : State) : State :=
  let s := stopEnds (cycleTick { s with time := s.time + 1 })
  if s.time % hourNs = 0 then
    match s.power.supply with
    | .on => setPerm bThermal F.TH_POWERED_H (min (getF bThermal F.TH_POWERED_H s + 1) (2 ^ 32 - 1)) s
    | _ => s
  else s

end Sys2Proof.Machine
end

