-- ==== Sys2Proof/Machine/Thermal.lean ====
section
/-!
DEFINITION. Temperatures, coolant, ageing and re-planning (15 R514 to R521; 17 R578).
-/
namespace Sys2Proof.Machine

/-! ### Sensors (15 R514) -/

/-- A croft's temperature as its page shows it. -/
def tempOf (c : Nat) (s : State) : Int := signed8 (getF (bCroft c) F.CP_STATUS_TEMP s)

/-- An 8-bit two's complement reading as it is stored. -/
def store8 (t : Int) : Nat := (t % 256).toNat

/-- The cap point falls by one (15 R514), with its event once per second (R522). -/
def capFalls (c : Nat) (s : State) : State :=
  let b := bCroft c
  let k := getF b F.CP_STATUS_CAP_POINT s
  if k = 0 then s
  else
    let s := setF b F.CP_STATUS_CAP_POINT (k - 1) s
    let due := match mapGet (fun _ => none) s.power.capEv c with | some e => decide (e + 10 ^ 9 ≤ s.time) | none => true
    if due then
      powerEvent 7 (ownerScope b s) false (croftNumber c s + (k - 1) * 2 ^ 16 + getF b F.CP_STATUS_TEMP s * 2 ^ 24)
        { s with power := { s.power with capEv := mapPut (fun _ => none) c (some s.time) s.power.capEv } }
    else s

/-- Thermal pacing (15 R514): 8 from T_LIMIT on, 16 again below T_LIMIT − 2 °C, with the event on entry. -/
def thermalPace (c : Nat) (t : Int) (s : State) : State :=
  let lim : Int := getF bThermal F.TH_T_LIMIT s
  let b := bCroft c
  let s' := if lim ≤ t then
      let n := { s with power := { s.power with therm := mapPut (fun _ => 16) c 8 s.power.therm } }
      if thermLevel c s = 16 then powerEvent 8 (ownerScope b n) true (croftNumber c n + store8 t * 2 ^ 16) n else n
    else if t < lim - 2 then { s with power := { s.power with therm := mapPut (fun _ => 16) c 16 s.power.therm } }
    else s
  showPace c s'

/-- THERMAL_SAMPLE (15 R514): a croft acts on the hotter of its two readings. -/
def execThermalSample (c : CroftId) (t0 t1 : BitVec 8) (s : State) : Host.Outcome State Fault Refusal :=
  let t := max t0.toInt t1.toInt
  let cap : Int := getF bThermal F.TH_T_CAP s
  let s := setF (bCroft c.val) F.CP_STATUS_TEMP (store8 t) s
  let s := noteSensor (2 * c.val + 1) t1 (noteSensor (2 * c.val) t0 s)
  let cool := timerWhile (decide (t < cap - 5)) s.time (mapGet (fun _ => none) s.power.cool c.val)
  let s := { s with power := { s.power with cool := mapPut (fun _ => none) c.val cool s.power.cool } }
  let s := if cap ≤ t then capFalls c.val s else s
  .next (thermalPace c.val t s)

/-- THERMAL_CAP_RISE (15 R514): after 1 ms below T_CAP − 5 °C, one point up. -/
def execThermalCapRise (c : CroftId) (s : State) : Host.Outcome State Fault Refusal :=
  let b := bCroft c.val
  .next (match mapGet (fun _ => none) s.power.cool c.val with
    | none => s
    | some t =>
      if t + 10 ^ 6 ≤ s.time then
        setF b F.CP_STATUS_CAP_POINT (min 7 (getF b F.CP_STATUS_CAP_POINT s + 1))
          { s with power := { s.power with cool := mapPut (fun _ => none) c.val (some s.time) s.power.cool } }
      else s)

/-- THERMAL_TRIP (15 R514; 17 R573): a sensor has read `t` for 10 µs; at or above T_TRIP the reeve, or the comparators
while it restarts, begins an orderly stop. -/
def execThermalTrip (sensor : Fin 2136) (t : BitVec 8) (s : State) : Host.Outcome State Fault Refusal :=
  .next (if (getF bThermal F.TH_T_TRIP s : Int) ≤ t.toInt then orderlyStop 3 (noteSensor sensor.val t s) else noteSensor sensor.val t s)

/-- The factory value of R_c, from which the device starts after every reset (15 R515). -/
def factoryR (c : Nat) : Nat := bits F.CP_R_MKW.lo F.CP_R_MKW.width (resetWord (regKey (bCroft c) F.CP_R_MKW.off)).toNat

/-- R_c moved by 1/16 of the relative error of a rise in mK and kept within [0.5, 2] times its factory value (15 R515). -/
def nextR (c r : Nat) (measured predicted : Int) : Nat :=
  let d : Int := if predicted = 0 then 0 else ((r : Int) * (measured - predicted)) / (16 * predicted)
  let n := ((r : Int) + d).toNat
  max (factoryR c / 2) (min (2 * factoryR c) n)

/-- THERMAL_MODEL_UPDATE (15 R515): the rise measured since the steward's last prediction for the croft, against the rise it predicted (log
entry 39). -/
def execThermalModelUpdate (c : CroftId) (t0 t1 : BitVec 8) (s : State) : Host.Outcome State Fault Refusal :=
  let b := bCroft c.val
  .next (match mapGet (fun _ => none) s.power.forecast c.val with
    | some (f : Forecast) =>
      setF b F.CP_R_MKW (nextR c.val (getF b F.CP_R_MKW s) (1000 * (max t0.toInt t1.toInt - f.temp)) f.rise)
        { s with power := { s.power with forecast := mapDel c.val s.power.forecast } }
    | none => s)

/-! ### Coolant (15 R516; 17 R578) -/

/-- COOLANT_POLL (17 R578): once per second the reeve asks the bus owner for the configured sensor. -/
def execCoolantPoll (s : State) : Host.Outcome State Fault Refusal :=
  let id := getF bReeve F.RV_COOLANT_SENSOR s
  .next (if id ≠ 0 ∧ s.reeve.nextPoll ≤ s.time ∧ s.reeve.restart.isNone ∧ s.power.supply = .on then
    mctpOut 2 0x11 (bytesOf 2 id)
      { s with reeve := { s.reeve with coolAsked := some s.time, nextPoll := s.time + 10 ^ 9 } }
  else s)

/-- The COOLANT event (15 R516). -/
def coolantEvent (s : State) : State :=
  powerEvent 9 .all true (getF bThermal F.TH_T_IN s + getF bThermal F.TH_STALE s * 2 ^ 8) s

/-- COOLANT_READING (15 R516; 17 R573, R578): the bus owner's answer; unavailable, or later than 500 ms, it is not a reading; none is taken
while the reeve restarts. -/
def execCoolantReading (value : BitVec 8) (available : Bool) (s : State) : Host.Outcome State Fault Refusal :=
  .next (match s.reeve.coolAsked, s.reeve.restart with
    | none, _ | _, some _ => s
    | some t, none =>
      let s := { s with reeve := { s.reeve with coolAsked := none } }
      if available && decide (s.time ≤ t + 5 * 10 ^ 8) then
        let was := signed8 (getF bThermal F.TH_T_IN s)
        let s := setF bThermal F.TH_T_IN value.toNat (setF bThermal F.TH_STALE 0 s)
        let s := { s with reeve := { s.reeve with coolAt := some s.time } }
        if was ≤ 40 ∧ 40 < value.toInt then coolantEvent s else s
      else s)

/-- COOLANT_STALE (15 R516): the last reading is older than 5 s. -/
def execCoolantStale (s : State) : Host.Outcome State Fault Refusal :=
  .next (match s.reeve.coolAt with
    | none => s
    | some t =>
      if t + 5 * 10 ^ 9 < s.time then
        coolantEvent (setF bThermal F.TH_STALE 1 { s with reeve := { s.reeve with coolAt := none } })
      else s)

/-! ### Ageing and re-planning (15 R517 to R521) -/

/-- A re-plan begins (15 R518). -/
def startReplan (s : State) : State := { s with power := { s.power with replan := true } }

/-- MARGIN_ALARM (15 R521): a monitor's slack, in ps, is below its alarm level. -/
def execMarginAlarm (c : CroftId) (monitor : Fin 4) (slack : BitVec 16) (s : State) : Host.Outcome State Fault Refusal :=
  let b := bCroft c.val
  let s := addF bThermal F.TH_MARGIN_ALARMS 1 (setF b F.CP_STATUS_MARGIN_ALARM 1 s)
  let s := powerEvent 0x0A (ownerScope b s) true (croftNumber c.val s + monitor.val * 2 ^ 16 + slack.toNat * 2 ^ 24) s
  .next (startReplan (setF b F.CP_CTRL_POINT_REQ
    (min (getF b F.CP_CTRL_POINT_REQ s - 1) (getF b F.CP_STATUS_CAP_POINT s)) s))

/-- REPLAN_HOURS_DUE (15 R518). -/
def execReplanHoursDue (s : State) : Host.Outcome State Fault Refusal :=
  .next (if getF bThermal F.TH_NEXT_REPLAN_H s ≤ getF bThermal F.TH_POWERED_H s then startReplan s else s)

/-- Increase of point k in mV for a drift d − 1 in 0.01 % (15 R518). -/
def increase (slope : Nat) (drift : Int) : Nat := 5 * cdiv (slope * drift.toNat) 500

/-- The first point that the drift withdraws, 8 when none (15 R518). -/
def firstWithdrawn (c : Nat) (drift : Int) : Nat :=
  ((List.range 8).find? fun k => decide (60 < increase (Config.factorySlope c k) drift)).getD 8

/-- The drift of a croft, d − 1 in 0.01 %, rounded down (15 R517): the largest delay of its four monitors now, over the same monitor's
baseline. A monitor without a reading stands at its baseline (log entry 39). -/
def driftOf (c : Nat) (delays base : List Nat) : Int :=
  let was (m : Nat) : Nat := nth base (4 * c + m)
  let now (m : Nat) : Nat := (delays[4 * c + m]?).getD (was m)
  let m := ([1, 2, 3] : List Nat).foldl (fun b i => if now b < now i then i else b) 0
  if was m = 0 then 0 else ((now m * 10000 / was m : Nat) : Int) - 10000

/-- The new table of one croft (15 R518), kept in the ledger: the voltage of every point; VOLT_MV holds no more than 1,023. -/
def replanCroft (c : Nat) (drift : Int) (s : State) : State :=
  let b := bCroft c
  let w := firstWithdrawn c drift
  let s := setPerm b F.CP_DRIFT (BitVec.ofInt 16 drift).toNat s
  (List.range 8).foldl (fun s k =>
    let s := setPerm b (F.CP_POINT_VOLT_MV.at k) (min 1023 (factoryVolt k + increase (Config.factorySlope c k) drift)) s
    if w ≤ k then setPerm b (F.CP_POINT_WITHDRAWN.at k) 1 s else s) s

/-- A croft's table: voltages and withdrawals. -/
def tableOf (c : Nat) (s : State) : List (Nat × Nat) :=
  (List.range 8).map fun k => (getF (bCroft c) (F.CP_POINT_VOLT_MV.at k) s, getF (bCroft c) (F.CP_POINT_WITHDRAWN.at k) s)

/-- Withdrawn points of a croft. -/
def withdrawnOf (c : Nat) (s : State) : Nat :=
  (List.range 8).foldl (fun n k => n + getF (bCroft c) (F.CP_POINT_WITHDRAWN.at k) s) 0

/-- A croft whose point 5 is withdrawn is fenced and retired (15 R519). -/
def retireWorn (c : Nat) (s : State) : State :=
  if unfit (bCroft c) s && !unitRetired (bCroft c) s then
    let s := fenceCroft c s
    retireUnit (bCroft c) { s with reeve := { s.reeve with testing := s.reeve.testing.filter fun x => x != bCroft c } }
  else s

/-- Every croft's new table from the delays measured now (15 R517, R518). -/
def replanAll (delays base : List Nat) (s : State) : State :=
  (List.range 608).foldl (fun s c => replanCroft c (driftOf c delays base) s) s

/-- REPLAN_DONE (15 R518, R519, R522): the new tables, with how many crofts have changed, how many points are withdrawn, and the largest
drift. -/
def execReplanDone (delays : List (BitVec 16)) (s : State) : Host.Outcome State Fault Refusal :=
  let delays := delays.map BitVec.toNat
  let base := s.reeve.baseline.getD delays
  .next (if s.power.replan then
    let old := s
    let s := replanAll delays base s
    let changed := ((List.range 608).filter fun c => tableOf c s != tableOf c old).length
    let gone := (List.range 608).foldl (fun n c => n + (withdrawnOf c s - withdrawnOf c old)) 0
    let worst := (List.range 608).foldl (fun m c => max m (driftOf c delays base).toNat) 0
    let s := setPerm bThermal F.TH_NEXT_REPLAN_H (getF bThermal F.TH_POWERED_H s + 1000) s
    let s := setPerm bThermal F.TH_POINTS_WITHDRAWN (getF bThermal F.TH_POINTS_WITHDRAWN s + gone) s
    let s := setF bThermal F.TH_REPLAN_REQ 0 { s with power := { s.power with replan := false } }
    let s := journal 0x0C (sourceOf bReeve s) 8 1 (changed + gone * 2 ^ 32 + worst * 2 ^ 64) s
    let s := powerEvent 0x0B .all true (changed + gone * 2 ^ 32) s
    (List.range 608).foldl (fun s c => retireWorn c s) s
  else s)

end Sys2Proof.Machine
end

