-- ==== Sys2Proof/Machine/Release.lean ====
section
/-!
DEFINITION. The dispatch core (03 R90, R91; 15 R507 to R511): releasing tasks by credit, grant and temperature, and
setting the crofts' operating points.
-/
namespace Sys2Proof.Machine

/-- Credits that feeders hold for a croft (03 R91): 16 less the slots taken and the descriptors on their way. -/
def creditsOf (c : Nat) (s : State) : Nat := 16 - ((croftOf c s).queue.length + (croftOf c s).arriving.length)

/-- The croft takes descriptors: a credit is held, and it carries its index and is not out of use or ramping. -/
def takes (c : Nat) (s : State) : Bool :=
  decide (0 < creditsOf c s) && !fenced (bCroft c) s && slotState (c / 38) (slotOf c s) s == 0 && !(s.power.ramps.any fun r => r.spare == c)

/-- The hamlet's planned current with a task added, in units (15 R508, R509). -/
def plannedWith (c : Nat) (d : Desc) (s : State) : Nat :=
  let l := hamletCrofts (c / 38) s
  unitsUp (l.foldl (fun n k =>
    n + plannedOf (if k = c then enqueuedAt k s ++ [d] else enqueuedAt k s) (pointOfCroft k s)) 0) s.power.meanMv

/-- The planned current fits the last grant. -/
def fitsGrant (c : Nat) (d : Desc) (s : State) : Bool :=
  decide (plannedWith c d s ≤ getF bWell (F.WELL_GRANT.at (c / 38)) s)

/-- The rise in mK that the steward predicts for a task (15 R515). A task that declares no cycles counts as longer than τ_c. -/
def predictedRise (c : Nat) (d : Desc) (s : State) : Int :=
  let k := pointOfCroft c s
  let r : Int := getF (bCroft c) F.CP_R_MKW s
  let tau := getF (bCroft c) F.CP_TAU_US s
  let us := dCycles d * 256 / pointMhz k
  let dp : Int := (pDecl d k : Int) - planned c s
  let part := if dCycles d = 0 ∨ tau ≤ us then 1000 else us * 1000 / tau
  r * dp / 10 ^ 6 * part / 1000

/-- Predicted temperature at the end of a task, in mK above 0 °C (15 R515). -/
def predicted (c : Nat) (d : Desc) (s : State) : Int := 1000 * tempOf c s + predictedRise c d s

/-- Puts a descriptor on its way to a croft (03 R89, R91), with the prediction for it kept (15 R515). -/
def enqueueAt (c : Nat) (d : Desc) (cmd : Nat) (s : State) : State :=
  let f : Forecast := ⟨tempOf c s, predictedRise c d s⟩
  let s := { s with power := { s.power with forecast := mapPut (fun _ => none) c (some f) s.power.forecast } }
  updCroft c (fun k => { k with arriving := k.arriving ++ [⟨d, s.time, cmd⟩] }) s

def fitsHeat (c : Nat) (d : Desc) (s : State) : Bool :=
  decide (predicted c d s ≤ 1000 * (getF bThermal F.TH_T_CAP s : Int))

/-- Marks a release-order entry as held back, and counts it once for power and once for temperature (15 R510). -/
def holdBack (r : Rel) (power heat : Bool) (s : State) : Rel × State :=
  let s := if power && !r.heldP then addF bSteward F.SCH_HELD_POWER 1 s else s
  let s := if heat && !r.heldT then addF bSteward F.SCH_HELD_THERMAL 1 s else s
  ({ r with failSince := some (r.failSince.getD s.time), heldP := r.heldP || power, heldT := r.heldT || heat }, s)

/-- Walks the first entries of the release order (15 R509): those passed over, and the rest after the one that was
enqueued. `seen` holds the crofts of entries still waiting. -/
def walkRel : Nat → List Nat → List Rel → State → List Rel × State
  | 0, _, l, s => (l, s)
  | _, _, [], s => ([], s)
  | n + 1, seen, r :: l, s =>
    let c := globalPhys r.croft s
    if !takes c s || seen.any (fun g => g == r.croft) then
      let (l', s') := walkRel n (r.croft :: seen) l s
      (r :: l', s')
    else
      let p := !fitsGrant c r.desc s
      let h := !fitsHeat c r.desc s
      if p || h then
        let (r', s) := holdBack r p h s
        let (l', s') := walkRel n (r.croft :: seen) l s
        (r' :: l', s')
      else (l, enqueueAt c r.desc r.cmd s)

/-- The partition's release order is open: its step's expects are acknowledged (12 R399, 16 R540). -/
def mayRelease (p : Nat) (s : State) : Bool := !expectsOpen p s

/-- LOOKOUT tasks of the layer run bypassed on the partition, whose crofts hold the same bits (05 R173, R174). -/
def layerBypassed (p layer : Nat) (s : State) : Bool :=
  match croftsOf p s with
  | c :: _ => !lkOn c layer s
  | [] => true

/-- The release order begins with a task list. -/
def beginsWith : List (Fin 576 × Desc) → List Rel → Bool
  | [], _ => true
  | e :: l, r :: m => r.croft == e.1.val && r.desc == e.2 && beginsWith l m
  | _ :: _, [] => false

/-- A release order with a task list in place of another, wherever it stands whole; `n` bounds the entries looked at. -/
def replaceList (old new : List (Fin 576 × Desc)) : Nat → List Rel → List Rel
  | 0, l => l
  | _, [] => []
  | n + 1, r :: l =>
    if !old.isEmpty && beginsWith old (r :: l) then
      (new.map fun e => ⟨e.2, e.1.val, r.cmd, none, false, false⟩) ++ replaceList old new n ((r :: l).drop old.length)
    else r :: replaceList old new n l

/-- Tasks of a release order that a command waits for: all of a list's, the commit-class ones of a STEP's (16 R538, R540). -/
def awaited (cmd : Nat) (l : List Rel) (s : State) : Nat :=
  (l.filter fun r => r.cmd == cmd && (!stepTask cmd s || commitClass (dOpcode r.desc))).length

/-- A command whose list has changed waits for as many tasks as the list has now; a list with none left is complete. -/
def recount (old new : List Rel) (s : State) (k : Cmd) : Cmd :=
  let n := k.left + awaited k.uid new s - awaited k.uid old s
  if n = 0 ∧ 0 < awaited k.uid old s ∧ stepTask k.uid s = false then { k with left := 0, phase := .done } else { k with left := n }

/-- The steward takes the bypass lists of the layers that are bypassed in place of the narrowed ones (05 R179). -/
def chooseLists (p : Nat) (lists : List LayerLists) (s : State) : State :=
  let old := (partOf p s).rel
  let new := lists.foldl (fun l e =>
    if layerBypassed p e.layer.val s then replaceList e.narrow e.bypass l.length l else l) old
  if new = old then s
  else mapCmds (recount old new s) (updPart p (fun k => { k with rel := new }) s)

/-- DISPATCH (05 R179; 15 R509, R510): one opportunity of the dispatch core for a partition. -/
def execDispatch (d : DispatchTurn) (s : State) : Host.Outcome State Fault Refusal :=
  .next (if mayRelease d.part.val s then
    let s := chooseLists d.part.val d.lists s
    let (l, s) := walkRel (getF bSteward F.SCH_LOOKAHEAD s) [] (partOf d.part.val s).rel s
    updPart d.part.val (fun k => { k with rel := l }) s
  else s)

/-- The first entry that has failed to fit for STARVE_US and whose croft holds a credit, taken out of the order. -/
def takeStarved (s : State) : Nat → List Nat → List Rel → Option (Rel × List Rel)
  | 0, _, _ => none
  | _, _, [] => none
  | n + 1, seen, r :: l =>
    let due := match r.failSince with
      | some t => decide (t + 1000 * getF bSteward F.SCH_STARVE_US s ≤ s.time)
      | none => false
    if due && takes (globalPhys r.croft s) s && !(seen.any fun g => g == r.croft) then some (r, l)
    else (takeStarved s n (r.croft :: seen) l).map fun e => (e.1, r :: e.2)

/-- STARVE_TIMEOUT (15 R510). -/
def execStarveTimeout (p : PartId) (s : State) : Host.Outcome State Fault Refusal :=
  .next (if mayRelease p.val s then
    match takeStarved s (getF bSteward F.SCH_LOOKAHEAD s) [] (partOf p.val s).rel with
    | none => s
    | some (r, l) =>
      addF bSteward F.SCH_STARVED 1
        (enqueueAt (globalPhys r.croft s) r.desc r.cmd (updPart p.val (fun k => { k with rel := l }) s))
  else s)

/-! ### Operating points (15 R511) -/

/-- The highest point at which a hamlet's crofts at P_typ fit a grant; 0 when none does. -/
def fittingPoint (n grant mv : Nat) : Nat → Nat
  | 0 => 0
  | k + 1 => if unitsUp (n * pTyp (k + 1)) mv ≤ grant then k + 1 else fittingPoint n grant mv k

/-- The lower of a point, the croft's request and its thermal cap (15 R511, R514). -/
def loweredPoint (k c : Nat) (s : State) : Nat :=
  min k (min (getF (bCroft c) F.CP_CTRL_POINT_REQ s) (getF (bCroft c) F.CP_STATUS_CAP_POINT s))

/-- POINT_LOWER (15 R511): a hamlet of a partition in timed service that has paced below 16 for LOWER_US has its crofts
lowered to the highest point that fits G_h; and no croft stays above its partition's aim, or is set above its thermal cap. -/
def execPointLower (h : HamletId) (s : State) : Host.Outcome State Fault Refusal :=
  .next (match ownerOf (bHamlet h.val) s with
    | none => s
    | some p =>
      if timed p s then
        let l := hamletCrofts h.val s
        let due := match mapGet (fun _ => none) s.power.paced h.val with
          | some t => decide (t + 1000 * getF bSteward F.SCH_LOWER_US s ≤ s.time)
          | none => false
        let fit := fittingPoint l.length (getF bWell (F.WELL_GRANT.at h.val) s) s.power.meanMv 7
        let k := if due then min fit (aimOf p s) else aimOf p s
        if l.any fun c => decide (k < getF (bCroft c) F.CP_CTRL_POINT_REQ s) then
          let s := if due && l.any fun c => decide (fit < getF (bCroft c) F.CP_CTRL_POINT_REQ s) then
            addF bSteward F.SCH_POINT_LOWERS 1 s else s
          l.foldl (fun s c => setF (bCroft c) F.CP_CTRL_POINT_REQ (loweredPoint k c s) s) s
        else s
      else s)

/-- POINT_RAISE (15 R511): the grant has covered the next higher point for RAISE_US. -/
def execPointRaise (h : HamletId) (s : State) : Host.Outcome State Fault Refusal :=
  .next (match ownerOf (bHamlet h.val) s, mapGet (fun _ => none) s.power.covered h.val with
    | some p, some t =>
      if timed p s && decide (t + 1000 * getF bSteward F.SCH_RAISE_US s ≤ s.time) then
        let s := (hamletCrofts h.val s).foldl (fun s c => setF (bCroft c) F.CP_CTRL_POINT_REQ (raisedPoint p c s) s) s
        { s with power := { s.power with covered := mapDel h.val s.power.covered } }
      else s
    | _, _ => s)

end Sys2Proof.Machine
end

