-- ==== Sys2Proof/Machine/RegRead.lean ====
section
/-!
DEFINITION. The BAR0 page map (18 R603 to R608) and register reads: status fields that follow from the state, WO fields
reading 0, LO and HI pairs (18 R609 to R617), and what the host sees (16 R527, 18 R612, R620).
-/
namespace Sys2Proof.Machine

/-! ### The page map -/

/-- The block code of a page. -/
def pageBlock (p : Page) (s : State) : Nat :=
  match p with
  | .device => bDevice | .hostIf => bHostIf | .steward => bSteward | .well => bWell | .tally => bTally | .mill => bMill
  | .memMap => bMemMap | .repair => bRepair | .reeve => bReeve | .thermal => bThermal
  | .function f => bFunction f.val
  | .croftSlot h i => bCroft (physOf h.val i.val s)
  | .hamlet h => bHamlet h.val
  | .hbm h => bHbm h.val
  | .slice i => bSlice i.val
  | .die d => bDie d.val
  | .edge e => bEdge e.val
  | .ddr c => bDdr c.val
  | .cxl x => bCxl x.val
  | .port v => bPort v.val

/-- BAR0 offset of compute die d and of edge die e (18 R603). -/
def dieBase (d : Nat) : Nat := 0x400000 + d * 0x400000
def edgeBase (e : Nat) : Nat := 0x1400000 + e * 0x200000

/-- BAR0 offset of a block's page (18 R604, R605, R608). -/
def pageBase (b : Nat) (s : State) : Nat :=
  match kindOf b with
  | .function => 0x10000 + (b - 16) * 0x1000
  | .croft => let c := b - 32; dieBase (c / 152) + 0x1000 * (38 * (c / 38 % 4) + slotOf c s)
  | .hamlet => let h := b - 640; dieBase (h / 4) + 0xA0000 + 0x1000 * (h % 4)
  | .hbm => let h := b - 656; dieBase (h / 4) + 0xB0000 + 0x1000 * (h % 4)
  | .slice => let i := b - 672; dieBase (i / 16) + 0xC0000 + 0x1000 * (i % 16)
  | .die => if b < 740 then dieBase (b - 736) + 0xD0000 else edgeBase (b - 740)
  | .channel =>
    if b < 756 then let c := b - 744; edgeBase (c / 6) + 0x1000 + 0x1000 * (c % 6)
    else let x := b - 756; edgeBase (x / 2) + 0x8000 + 0x1000 * (x % 2)
  | .port => let v := b - 760; edgeBase (v / 8) + 0x10000 + 0x1000 * (v % 8)
  | _ => b * 0x1000

/-- BAR0 offset of a register. -/
def bar0Of (b off : Nat) (s : State) : Nat := pageBase b s + off

/-- The block whose page lies at a BAR0 offset; none = a reserved page or the range owner table. -/
def pageAt (x : Nat) (s : State) : Option Nat :=
  if x < 0x400000 then
    let j := x / 0x1000
    if j < 10 then some j else if 0x10 ≤ j ∧ j ≤ 0x18 then some (bFunction (j - 0x10)) else none
  else if x < 0x1400000 then
    let d := x / 0x400000 - 1
    let j := x % 0x400000 / 0x1000
    if j < 152 then some (bCroft (physOf (4 * d + j / 38) (j % 38) s))
    else if 0xA0 ≤ j ∧ j < 0xA4 then some (bHamlet (4 * d + (j - 0xA0)))
    else if 0xB0 ≤ j ∧ j < 0xB4 then some (bHbm (4 * d + (j - 0xB0)))
    else if 0xC0 ≤ j ∧ j < 0xD0 then some (bSlice (16 * d + (j - 0xC0)))
    else if j = 0xD0 then some (bDie d) else none
  else if x < 0x1800000 then
    let e := (x - 0x1400000) / 0x200000
    let j := (x - 0x1400000) % 0x200000 / 0x1000
    if j = 0 then some (bEdge e)
    else if j ≤ 6 then some (bDdr (6 * e + (j - 1)))
    else if j = 8 ∨ j = 9 then some (bCxl (2 * e + (j - 8)))
    else if 0x10 ≤ j ∧ j ≤ 0x17 then some (bPort (8 * e + (j - 0x10))) else none
  else none

/-! ### Status that follows from the state -/

/-- KIND of a block (18 R609). -/
def kindCode (b : Nat) : Nat :=
  match kindOf b with
  | .croft => 0x00 | .hbm => 0x01 | .slice => 0x02 | .tally => 0x03 | .mill => 0x04 | .well => 0x05 | .steward => 0x06
  | .hostIf => 0x07 | .port => 0x08 | .channel => if b < 756 then 0x09 else 0x0A
  | .reeve => 0x0B | .hamlet => 0x0C | .die => if b < 740 then 0x0D else 0x0E
  | .device => 0x0F | .memMap => 0x10 | .repair => 0x11 | .thermal => 0x12 | .function => 0x13
  | .common => 0

/-- DIE of a block (18 R609). -/
def dieCode (b : Nat) : Nat :=
  match kindOf b with
  | .croft => (b - 32) / 152
  | .hamlet => (b - 640) / 4
  | .hbm => (b - 656) / 4
  | .slice => (b - 672) / 16
  | .die => if b < 740 then b - 736 else 5 + (b - 740)
  | .channel => if b < 756 then 5 + (b - 744) / 6 else 5 + (b - 756) / 2
  | .port => 5 + (b - 760) / 8
  | _ => 4

/-- PART as it was written: a croft's or an HBM4 controller's is its hamlet's, a function's is fixed (18 R609, R611). -/
def partShown (b : Nat) (s : State) : Nat :=
  match kindOf b with
  | .function => b - 17
  | .croft => getF (bHamlet ((b - 32) / 38)) F.BLK_PART s
  | .hbm => getF (bHamlet (b - 656)) F.BLK_PART s
  | _ => getF b F.BLK_PART s

/-- The common header's fields that follow from the state (18 R609, R611). -/
def headerShown (b : Nat) (s : State) : List (Field × Nat) :=
  [(F.BLK_KIND, kindCode b), (F.BLK_INSTANCE, instanceOf b s), (F.BLK_DIE, dieCode b),
   (F.BLK_FAULT, bitOf (getF b F.BLK_FAULT_CODE s != 0)), (F.BLK_LOCKED, bitOf (getF b F.BLK_HOLDER s != 0)),
   (F.BLK_PART, partShown b s), (F.BLK_ASSIGNED, bitOf (ownerOf b s).isSome)]

/-- The running task of a unit class that a test selects, if any; one whose work is done gives way to the next. -/
def runningWhere (c u : Nat) (sel : Task → Bool) (s : State) : Option Task :=
  let l := (croftOf c s).queue.filter fun t => t.phase == .running && unitOf (dOpcode t.desc) == u && sel t
  (l.find? fun t => !t.worked).orElse fun _ => l.head?
def runningOf (c u : Nat) (s : State) : Option Task := runningWhere c u (fun _ => true) s

/-- A value of the running task of a unit class, 0 when none runs. -/
def ofRunning (c u : Nat) (f : Desc → Nat) (s : State) : Nat :=
  match runningOf c u s with
  | some t => f t.desc
  | none => 0

def isUpdate (t : Task) : Bool := dOpcode t.desc == opUpdate

/-- What a loom is running, with its rate (05 R147, R183): the slots of its task, of which those of dW multiply dY by X; else a tile of a
gauze task; else the products of a LOOKOUT task, whose V and U are INT8. -/
def loomOn (c : Nat) (s : State) (slots : LmRun → List LmSlot) : Option Bool :=
  let k := croftOf c s
  let own : Option Bool := k.loom.bind fun g => (slots g).head?.map fun sl =>
    let with8 (i : Nat) : Bool := match (g.bolts[i]?).join with | some b => class8 b.fmt | none => false
    with8 0 && with8 (if sl.role = 2 then 2 else 1)
  let lent : Option Bool := k.gz.bind fun g => if g.back.isEmpty then none else some g.rate8
  let look : Option Bool := k.work.findSome? fun w =>
    match findTask c w.uid s with
    | some t => if dOpcode t.desc = opLookout ∧ dF 0x26 2 t.desc ≠ 0 ∧ w.next + 1 < w.count then
        (w.bolts.head?.join).map fun b => class8 b.fmt else none
    | none => none
  (own.orElse fun _ => lent).orElse fun _ => look

/-- The sequencer's and the engines' status (03 R101, 04 R144, 05 R183). -/
def enginesShown (c : Nat) (s : State) : List (Field × Nat) :=
  let k := croftOf c s
  let busy := (List.range 7).foldl (fun n u => n + bitOf (runningOf c u s).isSome * 2 ^ u) 0
  let st := getF (bCroft c) F.CP_STATUS_STATE s
  let gz (f : GzRun → Nat) : Nat := match k.gz with | some g => f g | none => 0
  let lm (f : LmRun → Nat) : Nat := match k.loom with | some g => f g | none => 0
  [(F.SEQ_STATUS_OCCUPIED, k.queue.length), (F.SEQ_STATUS_HUMMING, bitOf (hums c s)), (F.SEQ_STATUS_BUSY, busy),
   (F.GZ_STATUS_RUNNING, bitOf (runningOf c 0 s).isSome),
   (F.GZ_STATUS_WEFT, ofRunning c 0 (fun d => bitOf (dOpcode d == opGzWeft)) s),
   (F.GZ_STATUS_LANE, ofRunning c 0 (fun d => bits 0 2 (dF 0x2E 1 d)) s),
   (F.GZ_STATUS_LENT, gz fun g => bitOf (!g.lent.isEmpty)),
   (F.GZ_STATUS_SLOTS_VALID, slotsValid c (gzSlots c s) s),
   (F.GZ_STATUS_HOLD_USED, gz fun g => holdUsed g),
   (F.LM_STATUS_RUN_A, bitOf (loomOn c s LmRun.slotsA).isSome), (F.LM_STATUS_RUN_B, bitOf (loomOn c s LmRun.slotsB).isSome),
   (F.LM_STATUS_PAIR, ofRunning c 1 (fun d => bitOf (dOpcode d == opLoomPair)) s),
   (F.LM_STATUS_RATE8_A, bitOf ((loomOn c s LmRun.slotsA).getD false)),
   (F.LM_STATUS_RATE8_B, bitOf ((loomOn c s LmRun.slotsB).getD false)),
   (F.LM_STATUS_BORROWED, gz fun g => bitOf (!g.back.isEmpty)),
   (F.LM_STATUS_LENT, lm fun g => bitOf g.lent),
   (F.LM_STATUS_SLOTS_VALID, slotsValid c (lmSlots c s) s),
   (F.CP_STATUS_STATE, if st = 2 then (if asleep c s then 1 else if runsTask c s then 4 else if hums c s then 3 else 2) else st)]

/-- The other units' status (06 R215, 07 R243, 08 R279, 09 R314). -/
def unitsShown (c : Nat) (s : State) : List (Field × Nat) :=
  let k := croftOf c s
  let up := runningWhere c 3 isUpdate s
  let mask := runningWhere c 3 (fun t => !isUpdate t) s
  let weave := k.weave.filter fun w => k.queue.any fun t => t.uid == w.uid && t.phase == .running
  [(F.NUM_STATUS_STATS_ENTRIES, k.stats.length),
   (F.NUM_STATUS_SHADOW_BUSY, bitOf ((match k.gz with | some g => !g.shadow.isEmpty | none => false) ||
      (match k.loom with | some g => !g.shadow0.isEmpty || !g.shadow1.isEmpty | none => false))),
   (F.FN_STATUS_RUNNING, bitOf (runningOf c 2 s).isSome),
   (F.FN_STATUS_DERIV, ofRunning c 2 (fun d => bitOf (dOpcode d == opFnDeriv)) s),
   (F.FN_STATUS_SLOT, ofRunning c 2 (fun d => dF 0x24 1 d % 16) s),
   (F.FN_STATUS_SAVE, ofRunning c 2 (fun d => dF 0x25 1 d % 4) s),
   (F.UP_STATUS_RUNNING, bitOf up.isSome),
   (F.UP_STATUS_LAYER, match up.bind fun t => k.work.find? fun w => decide (w.uid = t.uid) with
      | some w => (w.data[13]?).getD 0
      | none => 0),
   (F.MV_STATUS_RUNNING, bitOf mask.isSome),
   (F.MV_STATUS_OP, match mask with | some t => dOpcode t.desc - opUpdate | none => 0),
   (F.MV_STATUS_SWAP, match weave with | some w => bitOf w.swapped | none => 0),
   (F.MV_STATUS_TILES_LEFT, match weave with | some w => if w.swapped then 0 else w.tiles.length | none => 0)]

/-- Stream n of a croft, 0 to 5. -/
def streamShown (c n : Nat) (s : State) : List (Field × Nat) :=
  let held := (croftOf c s).pieces.filter fun p => p.stream == n
  let slots := held.foldl (fun n p => n + slotsOf p.space p.addr p.len) 0
  match streamOf c n s with
  | none => [(F.SH_STREAM_USER.at n, 0), (F.SH_STREAM_SLOTS.at n, slots)]
  | some x =>
    [(F.SH_STREAM_USER.at n, x.unit + 1), (F.SH_STREAM_DIR.at n, bitOf x.write), (F.SH_STREAM_SPACE.at n, x.space),
     (F.SH_STREAM_SLOTS.at n, slots),
     (F.SH_STREAM_LATE.at n, match held with | p :: _ => bitOf (decide (p.deadline < s.time)) | [] => 0)]

/-- The shuttle's status (11 R384). -/
def shuttleShown (c : Nat) (s : State) : List (Field × Nat) :=
  let k := croftOf c s
  let staging := k.queue.any fun t =>
    t.phase == .running && dOpcode t.desc == opCopy && !dRaw t.desc && bit 1 (dF 0x2D 1 t.desc)
  let ready := (List.range 7).foldl (fun n u =>
    n + bitOf (decide (64 ≤ (mapGet (fun _ => []) k.rates u).length)) * 2 ^ u) 0
  [(F.SH_STATUS_STREAMS, ((List.range 6).filter fun n => (streamOf c n s).isSome).length),
   (F.SH_STATUS_SLOTS_USED, slotsUsed c s), (F.SH_STATUS_COURIER_USED, courierUsed c s),
   (F.SH_STATUS_PICKER_BUSY, bitOf (runningOf c 4 s).isSome), (F.SH_STATUS_STAGING, bitOf staging),
   (F.SH_RATE_READY, ready)] ++ ((List.range 6).map fun n => streamShown c n s).flatten

/-- The tally file's status and selected entries (12 R408). -/
def tallyShown (s : State) : List (Field × Nat) :=
  let t := tallyOf (getF bTally F.TL_SELECT s) s
  [(F.TL_MAPPED, (s.tally.tallies.filter fun e => e.2.mapped).length), (F.TL_WAITERS, s.tally.waiters.length),
   (F.TL_VALUE, t.value.toNat), (F.TL_EPOCH, t.epoch.toNat), (F.TL_REMAINING, if t.checked then t.remaining.toNat else 0),
   (F.TL_STATE_MAPPED, bitOf t.mapped), (F.TL_STATE_CONTEXT, if t.mapped then t.context else 0),
   (F.TL_STATE_CHECKED, bitOf t.checked), (F.TL_STATE_SAT, bitOf t.sat), (F.TL_STATE_OVER, bitOf t.overrun),
   (F.TL_STATE_UNDER, bitOf t.under), (F.TL_STATE_STRANDED, bitOf t.stranded),
   (F.TL_STATE_HELD, (heldOn (getF bTally F.TL_SELECT s) s).length), (F.TL_STATE_OPEN, bitOf t.opened),
   (F.TL_MAP_DATA_PHYS, (mapEntry s).1), (F.TL_MAP_DATA_VALID, bitOf (mapEntry s).2)]

/-- Each job's status (13 R459). -/
def millShown (s : State) : List (Field × Nat) :=
  (F.ML_JOBS_ENABLED, (List.range 8).foldl (fun n p => n + bitOf (jobEnabled p s) * 2 ^ p) 0) ::
  ((List.range 8).map fun p =>
    [(F.ML_JOB_LOCAL.at p, localState p s), (F.ML_JOB_CHILDREN_READY.at p, kidsCount p s)]).flatten

/-- A pseudo-channel of the stack is retraining. -/
def retraining (h : Nat) (s : State) : Bool :=
  s.memsys.retrainEnd.any fun e => e.1 / 64 == h && decide (s.time < e.2)

/-- The images that run: their versions, and the slots they run from (17 R601). -/
def reeveShown (s : State) : List (Field × Nat) :=
  let run := s.reeve.fw.running
  (F.RV_SLOT_B, imageCodes.foldl (fun n i => n + byImage run i * 2 ^ (i - 1)) 0) ::
    imageCodes.map fun i => (F.RV_IMAGE_VER.at (i - 1), imgVersion i (byImage run i) s)

/-- The fields of a block's own registers that follow from the state. -/
def blockShown (b : Nat) (s : State) : List (Field × Nat) :=
  match kindOf b with
  | .croft => let c := b - 32; enginesShown c s ++ unitsShown c s ++ shuttleShown c s
  | .hbm => [(F.HB_RETRAINING, bitOf (retraining (b - 656) s))]
  | .channel => if b < 756 then [] else [(F.MC_SCRUB_EN, 0)]
  | .slice =>
    let i := b - 672
    [(F.GR_BUSY, bitOf (s.memsys.flushing.any fun x => x == i)), (F.GR_DIRTY, bitOf (decide (0 < dirtyLines i s))),
     (F.GR_DIRTY_LINES, dirtyLines i s)]
  | .tally => tallyShown s
  | .mill => millShown s
  | .device => [(F.DEV_TIME_LO, s.time % 2 ^ 32), (F.DEV_TIME_HI, s.time / 2 ^ 32)]
  | .function =>
    let f := b - 16
    [(F.FP_EV_TAIL, (ringOf f s).tail), (F.FP_EV_PHASE, bitOf (ringOf f s).phase),
     (F.FP_EV_HELD, (ringOf f s).held.length), (F.FP_INFLIGHT_NOW, inflight f s), (F.FP_HOST_RD_NS, hostRdNs f s)]
  | .hostIf =>
    [(F.HI_WEDGED, (List.range 8).foldl (fun n p => n + getF (bFunction (p + 1)) F.FP_WEDGED s * 2 ^ p) 0)]
  | .reeve => reeveShown s ++ [(F.RV_LOCKSTEP_ERRS, (s.reeve.mismatches.filter fun t => decide (s.time < t + hourNs)).length)]
  | _ => []

/-! ### Reading -/

/-- The word of a register as a read returns it, but for the latched halves of pairs. -/
def shownWord (b off : Nat) (s : State) : Nat :=
  let l := if off < 0x40 then headerShown b s else blockShown b s
  l.foldl (fun w e => if e.1.off = off then setBits e.1.lo e.1.width e.2 w else w) (getW b off s).toNat

/-- A field as a read shows it. -/
def shown (b : Nat) (f : Field) (s : State) : Nat := bits f.lo f.width (shownWord b f.off s)

/-- The low half of a read-only pair: its high half follows it (18 R617). -/
def roPair (b off : Nat) : Bool :=
  match kindOf b with
  | .device => off == 0x4C
  | .well => off == 0xD4
  | .reeve => off == 0x68 || off == 0x70
  | .hbm => off == 0x50 || off == 0x78
  | .channel => off == 0x60
  | _ => false

def latchKey (who : Requester) (b off : Nat) : Nat := reqCode who * 2 ^ 20 + regKey b off

/-- A read of a register by a requester (18 R617): the low half of a read-only pair latches the high half, which the
requester's next read of it returns. -/
def regRead (who : Requester) (b off : Nat) (s : State) : Nat × State :=
  let w := shownWord b off s
  if roPair b off then
    let h := some (BitVec.ofNat 32 (shownWord b (off + 4) s))
    (w, { s with hiLatch := mapPut (fun _ => none) (latchKey who b (off + 4)) h s.hiLatch })
  else
    match mapGet (fun _ => none) s.hiLatch (latchKey who b off) with
    | some (h : Word) => (h.toNat, { s with hiLatch := mapDel (latchKey who b off) s.hiLatch })
    | none => (w, s)

/-- The host's view of a page (16 R527): the PF sees all but a confidential partition's pages, a VF its partition's. -/
def hostSees (fn b : Nat) (s : State) : Bool :=
  match ownerOf b s with
  | some p => !confidential p s && (fn == 0 || fn == p + 1)
  | none => fn == 0

/-- Four bytes of the range owner table at a BAR0 offset (18 R612). -/
def ownerWord (x : Nat) (s : State) : Nat := natOf ((rangeFrom x 4).map fun k => mapGet unwritten s.owners k)

/-- The device answers the host: powered, READY and its link up (16 R557, 18 R620). -/
def hostLive (s : State) : Bool :=
  s.power.supply == .on && !inReset s && getF bHostIf F.HI_SPEED s != 0

/-- What an aligned host read of four bytes of BAR0 returns (16 R527, 18 R612, R616, R620). No command of the table is
such a read; REGS reads registers for software. -/
def hostRead (fn : FnId) (x : Nat) (s : State) : Nat × State :=
  if inReset s then (0, s)
  else match pageAt x s with
    | some b => if hostSees fn.val b s then regRead (.host fn) b (x % 0x1000 / 4 * 4) s else (0, s)
    | none => (if 0x40000 ≤ x ∧ x < 0x48000 ∧ fn.val = 0 then ownerWord x s else 0, s)

end Sys2Proof.Machine
end

