-- ==== Sys2Proof/Machine/RegWrite.lean ====
section
/-!
DEFINITION. Register writes: access types (00 R11 to R13), requesters and locks (18 R609 to R621 and the register rules of
the chapters), refused values and states, and what the written fields set off.
-/
namespace Sys2Proof.Machine

/-- A write of one register: requester, page, offset, data, and the mask of the bits it covers. -/
structure Wr where
  who : Requester
  b : Nat
  off : Nat
  v : Nat
  m : Nat
deriving DecidableEq, Repr

/-- The bits of a field as written. -/
def Wr.get (w : Wr) (f : Field) : Nat := if f.off = w.off then bits f.lo f.width (w.v &&& w.m) else 0
/-- The write covers a bit of the field. -/
def Wr.hits (w : Wr) (f : Field) : Bool := f.off == w.off && bits f.lo f.width w.m != 0
/-- The write has a 1 in a one-bit field. -/
def Wr.one (w : Wr) (f : Field) : Bool := w.get f == 1
/-- The requester is the control core or the reeve; either core of the steward. -/
def Wr.keeper (w : Wr) : Bool := w.who == .control || w.who == .reeve
def Wr.steward (w : Wr) : Bool := w.who == .control || w.who == .dispatch

/-! ### Stored value of a field (00 R12, R13) -/

/-- One field of a written word. -/
def writeField (w : Wr) (f : Field) (word : Nat) : Nat :=
  let o := bits f.lo f.width word
  let m := bits f.lo f.width w.m
  let v := bits f.lo f.width w.v &&& m
  let keep := o &&& (m ^^^ (2 ^ f.width - 1))
  match f.acc with
  | .rw => setBits f.lo f.width (keep ||| v) word
  | .sp => if w.who = .reeve then setBits f.lo f.width (keep ||| v) word else word
  | .w1c => setBits f.lo f.width (o &&& (v ^^^ (2 ^ f.width - 1))) word
  | .w1s => setBits f.lo f.width (o ||| v) word
  | .ro | .wo => word

/-- The low half of a pair that takes effect with its high half (18 R617). -/
def loHalf (b off : Nat) : Bool :=
  match kindOf b with
  | .croft => off == 0x48 || off == 0x340 || off == 0x348
  | .mill => decide (0x100 ≤ off ∧ off < 0x300 ∧ (off % 64 = 0x14 ∨ off % 64 = 0x1C)) ||
      decide (0x300 ≤ off ∧ off < 0x500 ∧ (off % 64 = 0x08 ∨ off % 64 = 0x10))
  | .function => off == 0x48 || off == 0x50 || off == 0x6C || off == 0x74 || off == 0xA0 ||
      decide (0x100 ≤ off ∧ (off % 32 = 0 ∨ off % 32 = 8))
  | .reeve => off == 0x78
  | _ => false

/-- The written word before the write: a latched low half stands for its register. -/
def wordBefore (w : Wr) (s : State) : Nat :=
  if w.b = bTally ∧ w.off = F.TL_MAP_DATA_PHYS.off then shownWord w.b w.off s
  else if loHalf w.b w.off then
    match mapGet (fun _ => none) s.loLatch (regKey w.b w.off) with
    | some (x : Word) => x.toNat
    | none => (getW w.b w.off s).toNat
  else (getW w.b w.off s).toNat

/-- The written word after the write. -/
def wordAfter (w : Wr) (s : State) : Nat := (fieldsAt w.b w.off).foldl (fun x f => writeField w f x) (wordBefore w s)

/-- The state with the written word in place, and with it the low half that waited for it. -/
def placeWord (w : Wr) (s : State) : State :=
  let s := setW w.b w.off (BitVec.ofNat 32 (wordAfter w s)) s
  if loHalf w.b (w.off - 4) then
    match mapGet (fun _ => none) s.loLatch (regKey w.b (w.off - 4)) with
    | some (x : Word) => { setW w.b (w.off - 4) x s with loLatch := mapDel (regKey w.b (w.off - 4)) s.loLatch }
    | none => s
  else s

/-! ### Who may write (the register rules of the chapters; 18 R611) -/

/-- The page's OWNER can be written. -/
def ownerWritable (b : Nat) : Bool :=
  match kindOf b with
  | .hamlet | .slice | .port | .die | .channel => true
  | _ => false

/-- The requester may write the register's RW, WO, W1C and W1S fields. The header's fields but OWNER name no
requester. -/
def mayWrite (w : Wr) : Bool :=
  if w.off = F.BLK_PART.off then w.who == .control && ownerWritable w.b
  else if w.off < 0x40 then true
  else match kindOf w.b with
    | .croft =>
      if w.off < 0x480 then w.steward
      else w.keeper || (w.who == .dispatch && w.off == 0x480 && w.m / 8 == 0)
    | .hamlet => w.who == .control
    | .function => w.who == .control || (match w.who with | .host f => w.b == bFunction f.val | _ => false)
    | _ => w.keeper

/-- The requester's LOCK code; 0 = it may hold no lock (18 R613). -/
def lockCode (w : Wr) : Nat :=
  match w.who with
  | .control => 1
  | .reeve => 2
  | .host f => if w.b = bFunction f.val then 3 else 0
  | .dispatch => 0

/-- The page is locked against this write (18 R614). -/
def lockedOut (w : Wr) (s : State) : Bool :=
  let h := getF w.b F.BLK_HOLDER s
  decide (0x40 ≤ w.off) && h != 0 && h != lockCode w &&
  !(w.who == .dispatch && decide (kindOf w.b = .croft) && w.off == F.CP_CTRL_POINT_REQ.off)

/-- Who hears of a discarded or refused write: the host's function, else the page's owner. -/
def writeScope (w : Wr) (s : State) : Scope :=
  match w.who with
  | .host f => if f.val = 0 then .none else .part (f.val - 1)
  | _ => ownerScope w.b s

/-- Discards a write for its requester, lock or state, and reports it. -/
def discardWrite (w : Wr) (s : State) : State := discard w.b (bar0Of w.b w.off s) (writeScope w s) s

/-- Reports a refused write: a reserved value (00 R11), data at an offset that holds no register (18 R619). -/
def refuseWrite (w : Wr) (s : State) : State :=
  raise w.b 0x04 0 (writeScope w s) false (bar0Of w.b w.off s * 2 ^ 64) s

/-- A host writes its own function's page only (16 R527, 18 R609). -/
def ownPage (w : Wr) : Bool :=
  match w.who with
  | .host f => w.b == bFunction f.val
  | _ => true

/-- An SP field written by another than the reeve (00 R12, 17 R601): reported as well on the reeve page, off a function's own page (16
R527), and past another's lock (18 R614). -/
def discardSp (w : Wr) (s : State) : State :=
  let s := addF bReeve F.RV_SP_DISCARDS 1 (journal 0x05 (sourceOf w.b s) ((ownerOf w.b s).getD 8) 2
    (bar0Of w.b w.off s + reqCode w.who * 2 ^ 32 + w.v * 2 ^ 64) s)
  if w.b == bReeve || !ownPage w || lockedOut w s then discardWrite w s else addF bDevice F.DEV_WRITES_DISCARDED 1 s

/-! ### The lock (18 R613) -/

def setLock (b code : Nat) (s : State) : State :=
  let s := setF b F.BLK_HOLDER code s
  { s with lockSince := if code = 0 then mapDel b s.lockSince else mapPut (fun _ => 0) b s.time s.lockSince }

def writeLock (w : Wr) (s : State) : State :=
  let h := getF w.b F.BLK_HOLDER s
  let v := w.get F.BLK_HOLDER
  if !w.hits F.BLK_HOLDER then s
  else if v = 0 then (if h ≠ 0 ∧ h = lockCode w then setLock w.b 0 s else discardWrite w s)
  else if v = lockCode w then
    (if h = 0 then setLock w.b v s else if h = v then s else addF bDevice F.DEV_WRITES_DISCARDED 1 s)
  else discardWrite w s

/-! ### Refused values (00 R11) -/

/-- A croft register takes the value it would hold in `t`; HUM_FLOOR is in `valueOk`. -/
def croftValueOk (b off : Nat) (t : State) : Bool :=
  let g (f : Field) : Nat := getF b f t
  let lay := flag b F.SEQ_CTRL_STOP t || layoutOk (b - 32) t
  if off = 0x108 then g F.GZ_ACC_BASE % 256 == 0 && lay
  else if off = 0x10C then decide (g F.GZ_ACC_SLOTS ≤ 16) && lay
  else if off = 0x188 then g F.LM_ACC_BASE % 256 == 0 && lay
  else if off = 0x18C then decide (g F.LM_ACC_SLOTS ≤ 8) && lay
  else if off = 0x204 then g F.LK_RECALL_BASE % 4096 == 0 && lay
  else if off = 0x308 then g F.FN_TABLE_BASE % 8192 == 0 && decide (g F.FN_TABLE_BASE ≤ 0x300000 - 131072) && lay
  else if off = 0x408 then g F.SH_STAGE_BASE % 2 ^ 20 == 0 && decide (g F.SH_STAGE_BASE ≤ 0x200000) && lay
  else true

/-- A mill register takes the value (13 R459, 14 R488). -/
def millValueOk (off : Nat) (t : State) : Bool :=
  let p := (off - 0x100) / 64 % 8
  let g (f : Field) : Nat := mlF f p t
  let r := off % 64
  if off < 0x100 ∨ 0x500 ≤ off then true
  else if off < 0x300 then
    if r = 0x08 then decide (g F.ML_JOB_NCHILD ≤ 16) && g F.ML_JOB_REPEAT_LIMIT != 0
    else if r = 0x0C then
      g F.ML_JOB_VERDICT_WAIT_US != 0 && decide (2 * g F.ML_JOB_VERDICT_WAIT_US < g F.ML_JOB_VERDICT_LOST_US)
    else if r = 0x10 then g F.ML_JOB_ACK_TIMEOUT_US != 0
    else if r = 0x18 then g F.ML_JOB_TABLE_BASE_LO % 4096 == 0
    else if r = 0x38 then decide (g F.ML_JOB_SIZE_GIB ≤ 512)
    else true
  else
    if r = 0x0C then g F.ML_PAR_GROUP_TABLE_LO % 4096 == 0
    else if r = 0x14 then g F.ML_PAR_RB_BASE_LO % 4096 == 0
    else if r = 0x20 then g F.ML_PAR_W != 0
    else if r = 0x24 then g F.ML_PAR_T_MAX_S != 0 && decide (g F.ML_PAR_T_MIN_S ≤ g F.ML_PAR_T_MAX_S)
    else true

/-- A function page register takes the value (16 R569). -/
def functionValueOk (b off : Nat) (t : State) : Bool :=
  let g (f : Field) : Nat := getF b f t
  if off = 0x70 then getPair b F.FP_BAR2_BASE_LO F.FP_BAR2_BASE_HI t % 2 ^ 30 == 0
  else if off = 0x78 then g F.FP_HT_ROOT_LO % 2 ^ 21 == 0
  else true

/-- A field that the write covers takes its value; a field it does not cover is not written (00 R11, 18 R616). -/
def coversOk (w : Wr) (f : Field) (ok : Nat → Bool) (t : State) : Bool := !w.hits f || ok (getF w.b f t)

/-- The register takes the value it would hold in `t`. -/
def valueOk (w : Wr) (t : State) : Bool :=
  let g (f : Field) : Nat := getF w.b f t
  match kindOf w.b with
  | .croft => croftValueOk w.b w.off t && coversOk w F.CP_CTRL_HUM_FLOOR (fun n => decide (n ≤ 16)) t
  | .mill => millValueOk w.off t
  | .function => functionValueOk w.b w.off t && coversOk w F.FP_EV_LOG2 (fun n => decide (6 ≤ n ∧ n ≤ 16)) t &&
      coversOk w (F.FP_LOG2.at ((w.off - 0x100) / 32)) (fun n => decide (4 ≤ n ∧ n ≤ 16)) t
  | .hbm => coversOk w F.HB_SCRUB_HOURS (fun n => n != 0) t
  | .channel => coversOk w F.MC_SCRUB_HOURS (fun n => n != 0) t
  | .memMap => coversOk w F.MAP_TIER3_MODE (fun n => n != 3) t
  | .slice => coversOk w F.GR_MODE (fun n => n != 3) t
  | .tally => coversOk w F.TL_STALL_US (fun n => n != 0) t
  | .port => coversOk w F.VP_REPLAY_NS (fun n => n != 0) t
  | .repair => w.off != 0x40 ||
      (decide (1 ≤ g F.REP_KIND ∧ g F.REP_KIND ≤ 8) && (!w.hits F.REP_ACTION || w.get F.REP_ACTION != 0))
  | .steward => (w.off != 0x40 || g F.SCH_LOOKAHEAD != 0) &&
      (!decide (0x48 ≤ w.off ∧ w.off < 0x68) ||
        (let i := (w.off - 0x48) / 4
         decide (g (F.SCH_PART_POINT.at i) ≤ 5) || g (F.SCH_BOOST_EN.at i) == 1))
  | .thermal => w.off != 0x40 ||
      decide (g F.TH_T_CAP < g F.TH_T_LIMIT ∧ g F.TH_T_LIMIT < g F.TH_T_TRIP)
  | .reeve => w.off != 0xC0 || w.get F.RV_REQ_OP == 1 || w.get F.RV_REQ_OP == 2
  | .hamlet => !decide (0x80 ≤ w.off) || decide (bits 0 6 (wordAfter w t) ≤ 37)
  | _ => true

/-! ### Writes that the state discards -/

/-- Some ring of the function is enabled. -/
def ringsOn (b : Nat) (s : State) : Bool :=
  flag b F.FP_EV_ENABLE s || (List.range 14).any fun r => flag b (F.FP_ENABLE.at r) s

/-- A STEP of the partition is in flight. -/
def stepInFlight (p : Nat) (s : State) : Bool := s.host.cmds.any fun c => c.fn == p + 1 && bits 0 8 c.words.toNat == 0x02

/-- LAST_COMMITTED may be written (16 R569). -/
def committedWritable (b : Nat) (s : State) : Bool := getF b F.FP_SERVICE s == 1 && !stepInFlight (b - 17) s

/-- A confidential partition without keys enables no ring (16 R561). -/
def keysMissing (b : Nat) (s : State) : Bool := flag b F.FP_CONFIDENTIAL s && !flag b F.FP_KEYS_LIVE s

/-- A function page's write that the state discards; `t` holds the written value. -/
def functionBarred (w : Wr) (t s : State) : Bool :=
  let ch (f : Field) : Bool := getF w.b f t != getF w.b f s
  let sets (f : Field) : Bool := getF w.b f t == 1 && getF w.b f s == 0
  if w.off = 0x40 then
    (ch F.FP_EV_LOG2 && ringsOn w.b s) ||
    (w.hits F.FP_EV_ENABLE && !flag w.b F.FP_EV_ENABLE t && decide (0 < inflight (w.b - 16) s)) ||
    (sets F.FP_EV_ENABLE && keysMissing w.b s)
  else if w.off = 0x4C then (ch F.FP_EV_BASE_LO || ch F.FP_EV_BASE_HI) && ringsOn w.b s
  else if w.off = 0x54 then (ch F.FP_EV_TAG_BASE_LO || ch F.FP_EV_TAG_BASE_HI) && ringsOn w.b s
  else if w.off = 0x78 then (ch F.FP_HT_ROOT_LO || ch F.FP_HT_ROOT_HI) && ringsOn w.b s
  else if w.off = 0xA0 ∨ w.off = 0xA4 then !committedWritable w.b s
  else if 0x100 ≤ w.off ∧ w.off % 32 = 0x10 then
    let r := (w.off - 0x100) / 32
    (sets (F.FP_ENABLE.at r) && keysMissing w.b s) || (ch (F.FP_LOG2.at r) && flag w.b (F.FP_ENABLE.at r) s)
  else false

/-- A croft that a change of the croft map must find at rest (18 R624). -/
def croftBusy (c : Nat) (s : State) : Bool := !flag (bCroft c) F.SEQ_CTRL_STOP s || !(croftOf c s).queue.isEmpty

/-- The slot of a hamlet that holds a physical number. -/
def holderSlot (h phys : Nat) (s : State) : Nat :=
  ((List.range 38).find? fun i => getF (bHamlet h) (F.HAM_PHYS.at i) s == phys).getD 0

/-- Discards by state: `t` holds the written value, `s` the state before. -/
def barred (w : Wr) (t s : State) : Bool :=
  let ch (f : Field) : Bool := getF w.b f t != getF w.b f s
  match kindOf w.b with
  | .croft => w.off == 0x40 && ((w.hits F.SEQ_CTRL_STOP && !flag w.b F.SEQ_CTRL_STOP t && !layoutOk (w.b - 32) t) ||
      (w.one F.SEQ_CTRL_ABANDON && croftTimed (w.b - 32) s))
  | .memMap => w.off == 0x40 && rangesHeld s
  | .slice => (ch F.GR_MODE || w.hits F.BLK_PART || w.hits F.BLK_ASSIGNED) &&
      (decide (0 < dirtyLines (w.b - 672) s) || (match ownerOf w.b s with | some p => !queuesEmpty p s | none => false))
  | .tally =>
    let x := wordAfter w s
    (w.off == 0x60 && !mapWriteOk (getF bTally F.TL_MAP_SEL_CONTEXT s) (getF bTally F.TL_MAP_SEL_VIRTUAL s) (bits 0 14 x)
      (bit 31 x) s) ||
    (w.off == 0x64 && w.one F.TL_RESET_GO && !tallyResetOk (w.get F.TL_RESET_PHYS) s)
  | .function => functionBarred w t s
  | .reeve => w.off == 0xC0 && !flag bReeve F.RV_DONE s
  | .hamlet =>
    let h := w.b - 640
    let a := (w.off - 0x80) / 4
    decide (0x80 ≤ w.off) &&
      (croftBusy (physOf h a s) s || croftBusy (38 * h + bits 0 6 (wordAfter w s)) s)
  | _ => false

/-! ### What a write sets off -/

/-- Sets the counters at a range of offsets to 0. -/
def clearWords (b lo hi : Nat) (s : State) : State :=
  (rangeFrom (lo / 4) ((hi - lo) / 4 + 1)).foldl (fun s i =>
    setW b (4 * i) 0 { s with subUnits := mapDel (regKey b (4 * i)) s.subUnits }) s

/-- Acts when the write has a 1 in the field. -/
def onOne (w : Wr) (f : Field) (g : State → State) (s : State) : State := if w.one f then g s else s

/-- Marks the running tasks of a croft to stop (03 R100). -/
def abandonRunning (c : Nat) (s : State) : State :=
  updCroft c (fun k => { k with queue := k.queue.map fun t => if t.phase = .running then { t with abandon := true } else t }) s

/-- Clears HALTED, FAULT_CODE and FAULT_INFO (03 R101). -/
def clearHalt (b : Nat) (s : State) : State :=
  setF b F.SEQ_STATUS_HALTED 0 (setF b F.BLK_FAULT_CODE 0 (setF b F.BLK_FAULT_INFO 0 s))

/-- The service mode of a partition (03 R99): its function page and every croft of it. -/
def setService (p mode : Nat) (s : State) : State :=
  setF (bFunction (p + 1)) F.FP_SERVICE mode ((croftsOf p s).foldl (fun s c => setF (bCroft c) F.SEQ_CTRL_SERVICE mode s) s)

/-- A change of the service mode: in open service a restore can begin, commits are no longer stopped, and no step waits for a repeat (log
entry 24). -/
def changeService (p mode : Nat) (s : State) : State :=
  setService p mode (if mode = 1 then updPart p (fun k => { k with stopCommits := false, repeatDue := none }) s else s)

/-- SEQ_CTRL (03 R101); a change of SERVICE is made on every croft of the partition (R99). -/
def onSeqCtrl (w : Wr) (s : State) : State :=
  let c := w.b - 32
  let s := match ownerOf w.b s with
    | some p => if w.hits F.SEQ_CTRL_SERVICE then changeService p (getF w.b F.SEQ_CTRL_SERVICE s) s else s
    | none => s
  let s := if w.hits F.SEQ_CTRL_STOP then noteHum c s else s
  let s := onOne w F.SEQ_CTRL_CLEAR_HALT (clearHalt w.b) s
  let s := onOne w F.SEQ_CTRL_CLEAR_COUNTS (clearWords w.b 0x54 0x58) s
  let s := onOne w F.SEQ_CTRL_PURGE (purge c fun _ => true) s
  let s := onOne w F.SEQ_CTRL_PURGE_STEP (purge c fun t => dStepTag t.desc == w.get F.SEQ_CTRL_PURGE_TAG) s
  onOne w F.SEQ_CTRL_ABANDON (abandonRunning c) s

/-- ACC_CLEAR: frees the accumulator slots, or is ignored and reported while a task of the unit runs (04 R133, 05 R168). -/
def accClear (w : Wr) (u : Nat) (s : State) : State :=
  let c := w.b - 32
  if (runningOf c u s).isSome then discardWrite w s
  else releaseSlots c (if u = 0 then gzSlots c s else lmSlots c s) s

/-- PROBE (09 R295). -/
def probe (c : Nat) (s : State) : State :=
  let b := bCroft c
  let k (i : Nat) : Word := BitVec.ofNat 32 (getF b (F.SP_PROBE_CTR.at i) s)
  let y := spindle (seedOf c s) (k 0) (k 1) (k 2) (k 3)
  let s := (List.range 4).foldl (fun s i => setF b (F.SP_PROBE_OUT.at i) (y.word i) s) s
  addUnits b F.SP_EVALS 1 (setF b F.SP_STATUS_PROBE_DONE 1 s)

/-- What a write of a croft register sets off. -/
def onCroft (w : Wr) (s : State) : State :=
  let b := w.b
  if w.off = 0x40 then onSeqCtrl w s
  else if w.off = 0x100 then
    onOne w F.GZ_CTRL_ACC_CLEAR (accClear w 0) (onOne w F.GZ_CTRL_CLEAR_COUNTS (clearWords b 0x110 0x130)
      (onOne w F.GZ_CTRL_CLEAR_FAULT (clearWords b 0x140 0x144) s))
  else if w.off = 0x180 then
    onOne w F.LM_CTRL_ACC_CLEAR (accClear w 1) (onOne w F.LM_CTRL_CLEAR_COUNTS (clearWords b 0x190 0x1A4) s)
  else if w.off = 0x200 then onOne w F.LK_CTRL_CLEAR_COUNTS (clearWords b 0x250 0x25C) s
  else if w.off = 0x280 then onOne w F.NUM_CTRL_CLEAR_COUNTS (clearWords b 0x288 0x2B4) s
  else if w.off = 0x300 then
    onOne w F.FN_CTRL_CLEAR_COUNTS (clearWords b 0x310 0x318) (onOne w F.FN_CTRL_CLEAR_FAULT (clearWords b 0x30C 0x30C) s)
  else if w.off = 0x350 then
    onOne w F.SP_CTRL_PROBE (probe (b - 32)) (onOne w F.SP_CTRL_CLEAR_COUNTS (clearWords b 0x378 0x37C) s)
  else if w.off = 0x380 then
    onOne w F.UP_CTRL_CLEAR_COUNTS (clearWords b 0x390 0x3A0) (onOne w F.UP_CTRL_CLEAR_FAULT (clearWords b 0x388 0x38C) s)
  else if w.off = 0x3C0 then
    onOne w F.MV_CTRL_CLEAR_COUNTS (clearWords b 0x3D0 0x3E8) (onOne w F.MV_CTRL_CLEAR_FAULT (clearWords b 0x3C8 0x3CC) s)
  else if w.off = 0x400 then
    onOne w F.SH_CTRL_CLEAR_COUNTS (clearWords b 0x410 0x430)
      (onOne w F.SH_CTRL_CLEAR_RATES (updCroft (b - 32) fun k => { k with rates := [] }) s)
  else if w.off = 0x480 then onOne w F.CP_CTRL_CLEAR_COUNTS (clearWords b 0x4B0 0x4B8) s
  else s

/-- A key action of the reeve on a partition: RESULT of RV_REQ (10 R341, 17 R571, R601). -/
def keyAction (p : Nat) (destroy : Bool) (s : State) : Nat × State :=
  if destroy then (if keyHeld p s then (0, keyDestroy p s) else (1, s))
  else if confidential p s && !keyHeld p s then (0, keyGenerate p s) else (1, s)

/-- MAP_KEY: the reeve's own key actions (10 R341, R343). -/
def onMapKey (w : Wr) (s : State) : State :=
  let p := getF bMemMap F.MAP_KEY_PART s
  let s := onOne w F.MAP_KEY_GENERATE (fun s => (keyAction p false s).2) s
  let s := onOne w F.MAP_KEY_DESTROY (fun s => (keyAction p true s).2) s
  setF bMemMap F.MAP_KEY_GENERATE 0 (setF bMemMap F.MAP_KEY_DESTROY 0 s)

/-- MODE, FLUSH, INVALIDATE and CLEAR_COUNTS of a slice (11 R360, R364, R386): a change of mode drops the lines, a slice
switched off holds nothing. -/
def onSlice (w : Wr) (s0 s : State) : State :=
  let i := w.b - 672
  if w.off ≠ 0x40 then s
  else
    let was := getF w.b F.GR_MODE s0
    let now := getF w.b F.GR_MODE s
    let s := if was = now then s else dropLines i s
    let s := if was ≠ now ∧ now = 0 then loseRange (plSlice i 0) (plSlice (i + 1) 0) s else s
    let s := remapCache s0 s
    let s := onOne w F.GR_FLUSH (flushStart i) s
    let s := onOne w F.GR_INVALIDATE (fun s => flushStart i (dropLines i s)) s
    onOne w F.GR_CLEAR_COUNTS (clearWords w.b 0x48 0x5C) s

/-- The tally file's control, map and reset (12 R391, R392, R408). -/
def onTally (w : Wr) (s : State) : State :=
  if w.off = 0x40 then
    onOne w F.TL_CLEAR_COUNTS (clearWords w.b 0x70 0x8C)
      (onOne w F.TL_CLEAR_FAULT (fun s => setF bTally F.BLK_FAULT_CODE 0 (setF bTally F.BLK_FAULT_INFO 0 s)) s)
  else if w.off = 0x60 then
    let x := wordAfter w s
    mapWrite (bits 0 14 x) (bit 31 x) s
  else if w.off = 0x64 then onOne w F.TL_RESET_GO (clearTally (w.get F.TL_RESET_PHYS)) s
  else s

/-- The mill's control, jobs and parity (13 R446, R452, R453, R459; 14 R465, R478, R482, R488). -/
def onMill (w : Wr) (s0 s : State) : State :=
  let r := w.off % 64
  if w.off = 0x40 then onOne w F.ML_CLEAR_COUNTS (clearWords w.b 0x48 0x7C) s
  else if 0x100 ≤ w.off ∧ w.off < 0x300 then
    let p := (w.off - 0x100) / 64
    if r = 0 then
      let s := refreshJobs s
      if jobEnabled p s && !jobEnabled p s0 then startJob p s else s
    else if r = 0x2C then
      let s := onOne w (F.ML_JOB_READY.at p) (writeReady p) s
      onOne w (F.ML_JOB_REPEAT.at p) (writeRepeat p (w.get (F.ML_JOB_REASON.at p))) s
    else if r = 0x30 then onOne w (F.ML_JOB_RELOAD.at p) (fun s => if jobAtRest p s then reloadJob p s else s) s
    else s
  else if 0x300 ≤ w.off ∧ w.off < 0x500 then
    let p := (w.off - 0x300) / 64
    if r = 0 then
      let s := if mlF F.ML_PAR_ENABLE p s = 1 ∧ mlF F.ML_PAR_ENABLE p s0 = 0 then
          updPar p (fun q => { q with enabledAt := s.time }) s else s
      let s := onOne w (F.ML_PAR_LOAD.at p) (fun s => if jobAtRest p s then parityLoad p s else s) s
      let s := onOne w (F.ML_PAR_REBUILD_CLEAR.at p) (rebuildClear p) s
      let s := onOne w (F.ML_PAR_FAIL_ADD.at p) (failAdd p) s
      onOne w (F.ML_PAR_CLEAR_COUNTS.at p) (clearWords bMill (w.off + 0x38) (w.off + 0x3C)) s
    else if r = 0x1C then
      if (parOf p s).measured then s else setMl F.ML_PAR_C_MS p (mlF F.ML_PAR_C_INIT_MS p s) s
    else s
  else s

/-- EV_ENABLE, CLEAR_COUNTS and CLEAR_ERR of a function (16 R547, R553, R569). -/
def onFnCtrl (w : Wr) (s0 s : State) : State :=
  let fn := w.b - 16
  let s := onOne w F.FP_CLEAR_COUNTS (clearWords w.b 0xA8 0xBC) s
  let s := onOne w F.FP_CLEAR_ERR (fun s =>
    (List.range 14).foldl (fun s r => setF w.b (F.FP_ERR.at r) 0 s) (setF w.b F.FP_EV_ERR 0 s)) s
  if flag w.b F.FP_EV_ENABLE s && !flag w.b F.FP_EV_ENABLE s0 then
    setRing fn { EvRing.reset with sealed := (ringOf fn s).sealed } (setF w.b F.FP_EV_ERR 0 s)
  else s

/-- ENABLE of a command ring: a ring switched on has no error, one switched off has no unfetched record (16 R535,
R569). -/
def onRing (w : Wr) (s0 s : State) : State :=
  let r := (w.off - 0x100) / 32
  let on := flag w.b (F.FP_ENABLE.at r) s
  let was := flag w.b (F.FP_ENABLE.at r) s0
  if on && !was then setF w.b (F.FP_ERR.at r) 0 s
  else if was && !on then setF w.b (F.FP_CR_HEAD.at r) (mapGet (fun _ => 0) s.host.tails ((w.b - 16) * 16 + r)) s
  else s

/-- LG_SELECT, RV_REQ and COOLANT_SENSOR (17 R571, R579, R585). -/
def onReeve (w : Wr) (s : State) : State :=
  if w.off = 0x7C then loadEntry s
  else if w.off = 0xC0 then
    let x := keyAction (w.get F.RV_REQ_ARG) (w.get F.RV_REQ_OP == 2) s
    setF bReeve F.RV_RES_CODE x.1 (setF bReeve F.RV_DONE 1 x.2)
  else if w.off = 0xC8 then setPerm bReeve F.RV_COOLANT_SENSOR (getF bReeve F.RV_COOLANT_SENSOR s) s
  else s

/-- A change of the croft map (18 R624). -/
def onCroftMap (w : Wr) (s : State) : State :=
  let h := w.b - 640
  refreshUnits (exchangeSlots h ((w.off - 0x80) / 4) (holderSlot h (bits 0 6 (wordAfter w s)) s) s)

/-- What a write sets off: `s0` is the state before it, `s` holds the written value. -/
def onWrite (w : Wr) (s0 s : State) : State :=
  if w.off = F.BLK_CLEAR_FAULT.off then
    onOne w F.BLK_CLEAR_FAULT (fun s => setF w.b F.BLK_FAULT_CODE 0 (setF w.b F.BLK_FAULT_INFO 0 s)) s
  else if w.off < 0x40 then (if kindOf w.b = .slice then remapCache s0 s else s)
  else match kindOf w.b with
    | .croft => onCroft w s
    | .hbm => if w.off = 0x40 then onOne w F.HB_CLEAR_COUNTS (fun s => clearWords w.b 0x84 0x84 (clearWords w.b 0x58 0x6C s)) s else s
    | .channel => if w.off = 0x40 then onOne w F.MC_CLEAR_COUNTS (fun s => clearWords w.b 0x68 0x68 (clearWords w.b 0x50 0x5C s)) s else s
    | .memMap => if w.off = 0x40 then onOne w F.MAP_APPLY mapApply s else if w.off = 0x50 then onMapKey w s else s
    | .slice => onSlice w s0 s
    | .tally => onTally w s
    | .mill => onMill w s0 s
    | .port => if w.off = 0x40 then onOne w F.VP_CLEAR_COUNTS (clearWords w.b 0x58 0x78) s else s
    | .repair =>
      if w.off = 0x40 ∧ w.hits F.REP_ACTION then
        repairAction (getF bRepair F.REP_KIND s) (getF bRepair F.REP_INDEX s) (w.get F.REP_ACTION) s
      else s
    | .well => if w.off = 0x40 then onOne w F.WELL_CLEAR_COUNTS (clearWords w.b 0xC0 0xD0) s else s
    | .thermal => if w.off = 0x54 then onOne w F.TH_REPLAN_REQ startReplan s else s
    | .device => if w.off = 0x40 then onOne w F.DEV_CLEAR_COUNTS (clearWords w.b 0x54 0x5C) s else s
    | .hostIf => if w.off = 0x40 then onOne w F.HI_CLEAR_COUNTS (clearWords w.b 0x4C 0x58) s else s
    | .die => if w.off = 0x40 then onOne w F.DIE_CLEAR_COUNTS (clearWords w.b 0x48 0x50) s else s
    | .function =>
      if w.off = 0x40 then onFnCtrl w s0 s
      else if 0x100 ≤ w.off ∧ w.off % 32 = 0x10 then onRing w s0 s else s
    | .reeve => onReeve w s
    | .hamlet => if 0x80 ≤ w.off then onCroftMap w s else s
    | .steward | .common => s

/-! ### One write -/

/-- The register's word is not stored by the write itself: the croft map and the tally map change through what the write
sets off. -/
def hookOnly (w : Wr) : Bool :=
  (decide (kindOf w.b = .hamlet) && decide (0x80 ≤ w.off)) || (w.b == bTally && w.off == 0x60)

/-- What becomes of a write. -/
inductive WFate where
  | nothing        -- it names no field that a write changes
  | act
  | discard        -- discarded for its requester, lock or state, and reported
  | refuse         -- refused under 00 R11, or data at an offset that holds no register; reported
  | sp             -- an SP field, and the requester is not the reeve
deriving DecidableEq, Repr

/-- The state with the written value in place; a low half waits, and some registers change through what the write sets
off only. -/
def candidate (w : Wr) (s : State) : State :=
  if loHalf w.b w.off then
    let x := some (BitVec.ofNat 32 (wordAfter w s))
    { s with loLatch := mapPut (fun _ => none) (regKey w.b w.off) x s.loLatch }
  else if hookOnly w then s
  else placeWord w s

/-- The registers of a croft that the steward writes only while the partition's queues are empty: SERVICE, when it changes (03
R99), LK_ENABLE and LK_VALID (05 R174), NUM_CTRL (06 R215), FN_TABLE_BASE (07 R243), SP_SEED and STEP_NOW (09 R285). -/
def ruledWrite (w : Wr) (s : State) : Bool :=
  (w.off == 0x40 && w.hits F.SEQ_CTRL_SERVICE && w.get F.SEQ_CTRL_SERVICE != getF w.b F.SEQ_CTRL_SERVICE s) ||
  decide (0x210 ≤ w.off ∧ w.off < 0x250) || w.off == 0x280 || w.off == 0x308 || decide (0x340 ≤ w.off ∧ w.off < 0x350)

/-- STOP or a PURGE of every task, which the control core sets only when each commit-class task of a committed step has
completed (03 R80). -/
def stopWrite (w : Wr) : Bool :=
  w.who == .control && w.off == 0x40 && (w.one F.SEQ_CTRL_STOP || w.one F.SEQ_CTRL_PURGE)

/-- A write that earlier chapters allow the steward only in a state of the partition finds that state (03 R80, R99; 05 R174; 06
R215; 07 R243; 09 R285; 11 R364; 13 R432; 14 R465). The tally and croft-map rules are checked with the write itself. -/
def regsQuiet (w : Wr) (s : State) : Bool :=
  match kindOf w.b with
  | .croft =>
    (match ownerOf w.b s with
     | some p => (!ruledWrite w s || queuesEmpty p s) && (!stopWrite w || !commitWork p s)
     | none => true)
  | .slice =>
    let t := candidate w s
    (List.range 8).all fun p => cacheSlices p t == cacheSlices p s || (cacheSlices p s).all fun i =>
      dirtyLines i s == 0 && !(s.memsys.flushing.any fun x => x == i)
  | .mill =>
    let p := (w.off - 0x100) / 64 % 8
    let reload := decide (0x100 ≤ w.off ∧ w.off < 0x300) && w.off % 64 == 0x30 && w.one (F.ML_JOB_RELOAD.at p)
    let load := decide (0x300 ≤ w.off ∧ w.off < 0x500) && w.off % 64 == 0 && w.one (F.ML_PAR_LOAD.at p)
    !(reload || load) || jobAtRest p s
  | _ => true

/-- The registers that the steward writes alike on every croft of a partition (05 R174, 09 R285). -/
def alike (w : Wr) : Bool :=
  decide (kindOf w.b = .croft) && (decide (0x210 ≤ w.off ∧ w.off < 0x250) || decide (0x340 ≤ w.off ∧ w.off < 0x350))

/-- The same write on the partition's other crofts. -/
def spread (w : Wr) (s : State) : State :=
  if alike w then
    match ownerOf w.b s with
    | some p => (croftsOf p s).foldl (fun s c => if bCroft c = w.b then s else candidate { w with b := bCroft c } s) s
    | none => s
  else s

/-- The fate of a write of a register other than LOCK (00 R11, R12; 18 R611, R614, R621): a lock bars every write from 0x040 on, whatever
it covers. -/
def fateOf (w : Wr) (s : State) : WFate :=
  let fs := fieldsAt w.b w.off
  let hits (f : Field) : Bool := bits f.lo f.width w.m != 0
  let t := candidate w s
  if w.who != .reeve && fs.any (fun f => f.acc == .sp && hits f) then .sp
  else if lockedOut w s then .discard
  else if fs.isEmpty then (if w.v &&& w.m = 0 then .nothing else .refuse)
  else if !(fs.any fun f => f.acc != .ro && hits f) then .nothing
  else if !mayWrite w || (fenced w.b s && !w.keeper && w.off != F.BLK_SEEN.off) || barred w t s then .discard
  else if !valueOk w t then .refuse
  else .act

/-- Bits that no field of the register covers. -/
def reservedBits (fs : List Field) : Nat := fs.foldl (fun m f => setBits f.lo f.width 0 m) (2 ^ 32 - 1)

/-- The device is there for a requester: powered, and answering a host's. -/
def liveFor (who : Requester) (s : State) : Bool :=
  match who with
  | .host _ => hostLive s
  | _ => s.power.supply == .on

/-- Bits written as 1 that no field covers are counted (18 R619). -/
def countReserved (w : Wr) (s : State) : State :=
  let fs := fieldsAt w.b w.off
  if fs.isEmpty || w.v &&& w.m &&& reservedBits fs == 0 then s else addF bDevice F.DEV_RSVD_WRITES 1 s

/-- What becomes of a write under its fate. The steward does not make a write that a rule lets it make in another state only
(log entry 50). -/
def byFate (w : Wr) (s : State) : WFate → State
  | .nothing => s
  | .discard => discardWrite w s
  | .refuse => refuseWrite w s
  | .sp => discardSp w s
  | .act => if w.steward && !regsQuiet w s then s else spread w (onWrite w s (candidate w s))

/-- The write covers a bit of an SP field (00 R12). -/
def hitsSp (w : Wr) : Bool := (fieldsAt w.b w.off).any fun f => f.acc == .sp && bits f.lo f.width w.m != 0

/-- A write of one register by a requester (00 R11 to R13; 16 R527; 18 R611 to R621). An SP field that another than the reeve
writes is reported as such, whatever else bars the write (00 R12, 17 R601). -/
def regWrite (w : Wr) (s : State) : State :=
  if !liveFor w.who s then s
  else if !ownPage w then (if hitsSp w then discardSp w s else discardWrite w s)
  else
    let s := countReserved w s
    if w.off = F.BLK_HOLDER.off then writeLock w s else byFate w s (fateOf w s)

/-! ### The range owner table (18 R612) -/

/-- One byte of the table by BAR0 offset, written by the control core. -/
def ownerByteWrite (x v : Nat) (s : State) : State :=
  if 0x43C00 ≤ x ∧ x < 0x44000 then (if v = 0 then s else addF bDevice F.DEV_RSVD_WRITES 1 s)
  else
    let s := if v / 16 = 0 then s else addF bDevice F.DEV_RSVD_WRITES 1 s
    { s with owners := mapPut unwritten x (BitVec.ofNat 8 (v % 16)) s.owners }

/-- A write of bytes of the table; `v` and `m` are the data and mask of the aligned four bytes at `x`. -/
def ownerWrite (who : Requester) (x v m : Nat) (s : State) : State :=
  if who = .control then
    (List.range 4).foldl (fun s i =>
      let mi := bits (8 * i) 8 m
      let o := (mapGet unwritten s.owners (x + i)).toNat
      if mi = 0 then s else ownerByteWrite (x + i) ((o &&& (mi ^^^ 255)) ||| (bits (8 * i) 8 v &&& mi)) s) s
  else
    let sc : Scope := match who with | .host f => if f.val = 0 then .none else .part (f.val - 1) | _ => .none
    discard bSteward x sc s

/-- A write of four aligned bytes of BAR0, under a mask (18 R603, R616). -/
def barWrite (who : Requester) (x v m : Nat) (s : State) : State :=
  match pageAt x s with
  | some b => regWrite ⟨who, b, x % 0x1000 / 4 * 4, v, m⟩ s
  | none =>
    let sc : Scope := match who with | .host f => if f.val = 0 then .none else .part (f.val - 1) | _ => .none
    if !liveFor who s then s
    else if 0x40000 ≤ x ∧ x < 0x48000 then ownerWrite who x v m s
    else match who with
      | .host _ => discard bHostIf x sc s
      | _ => if v &&& m = 0 then s else raise bDevice 0x04 0 sc false (x * 2 ^ 64) s

end Sys2Proof.Machine
end

