-- ==== Sys2Proof/Machine/Rings.lean ====
section
/-!
DEFINITION. Command rings and records: fetch, doorbells, operands of commands, completion records, MSI-X moderation
(16 R535 to R538, R541 to R544, R549, R553, R565, R568).
-/
namespace Sys2Proof.Machine

/-! ### Records (16 R537, R538) -/

def cOp (d : Desc) : Nat := dF 0 1 d
def cFence (d : Desc) : Bool := bit 0 (dF 1 1 d)
def cIrq (d : Desc) : Bool := bit 1 (dF 1 1 d)
def cTag (d : Desc) : Nat := dF 2 2 d

/-- Operand bytes of an opcode, as (offset, size); none = the function kind has no such command. -/
def cmdOperands (pf : Bool) (op : Nat) : Option (List (Nat × Nat)) :=
  match op with
  | 0x06 => some [(8, 8), (0x10, 2)]
  | 0x09 => some []
  | 0x01 => if pf then none else some [(8, 8), (0x10, 4)]
  | 0x02 => if pf then none else some [(8, 8), (0x10, 4), (0x14, 4), (0x18, 8), (0x20, 8), (0x28, 8)]
  | 0x03 => if pf then none else some [(8, 2), (0x10, 8)]
  | 0x04 => if pf then none else some [(8, 1)]
  | 0x05 => if pf then none else some []
  | 0x07 => if pf then none else some [(8, 8), (0x10, 8)]
  | 0x08 => if pf then none else some [(8, 8)]
  | 0x10 => if pf then some [(8, 8)] else none
  | 0x11 | 0x12 => if pf then some [(8, 1)] else none
  | 0x13 => if pf then some [(8, 1), (0x0A, 2)] else none
  | _ => none

/-- An address operand of a VF command names space 0 or 1 with its reserved bits 0. -/
def baseOk (b : Nat) : Bool := decide (b / 2 ^ 54 = 0 ∧ spaceOf b < 2)

/-- The operands hold defined values (16 R538). -/
def cmdValuesOk (pf : Bool) (d : Desc) : Bool :=
  match cOp d with
  | 0x01 => decide (1 ≤ dF 0x10 4 d ∧ dF 0x10 4 d ≤ 2 ^ 20) && baseOk (dF 8 8 d)
  | 0x02 => decide (1 ≤ dF 0x10 4 d ∧ dF 0x10 4 d ≤ 2 ^ 20 ∧ dF 0x14 4 d ≤ 4096) && baseOk (dF 8 8 d) &&
      (dF 0x14 4 d == 0 || baseOk (dF 0x18 8 d))
  | 0x03 => baseOk (dF 0x10 8 d)
  | 0x04 => decide (dF 8 1 d < 2)
  | 0x06 => decide (1 ≤ dF 0x10 2 d ∧ dF 0x10 2 d ≤ 256) && (pf || baseOk (dF 8 8 d))
  | 0x11 | 0x12 => decide (dF 8 1 d < 8)
  | 0x13 => decide (dF 8 1 d < 8 ∧ 1 ≤ dF 0x0A 2 d ∧ dF 0x0A 2 d ≤ 496)
  | _ => true

/-- A reserved field or value of the record is set (16 R537, R538). -/
def recordReserved (pf : Bool) (ops : List (Nat × Nat)) (d : Desc) : Bool :=
  dF 1 1 d / 4 != 0 || dF 4 4 d != 0 ||
  (rangeFrom 8 56).any (fun i => !(ops.any fun o => decide (o.1 ≤ i ∧ i < o.1 + o.2)) && dF i 1 d != 0) ||
  !cmdValuesOk pf d

/-- The status with which a record completes at once, 0 when it waits for its start (16 R538, R541, R559). -/
def fetchStatus (fn : Nat) (d : Desc) (s : State) : Nat :=
  if s.host.cmds.any fun c => c.fn == fn && cTag c.words == cTag d then 0x0D
  else if fn ≠ 0 ∧ flag (bFunction fn) F.FP_WEDGED s then 0x0E
  else match cmdOperands (fn == 0) (cOp d) with
    | none => 0x01
    | some ops => if recordReserved (fn == 0) ops d then 0x02 else 0

/-! ### Fetch (16 R535, R536, R553, R565) -/

/-- The function exists: the PF, or a VF enabled (16 R530). -/
def functionExists (fn : Nat) (s : State) : Bool :=
  fn == 0 || (flag bHostIf F.HI_VF_ENABLE s && decide (fn ≤ getF bHostIf F.HI_NUM_VFS s))

def tailOf (fn r : Nat) (s : State) : Nat := mapGet (fun _ => 0) s.host.tails (fn * 16 + r)

/-- Commands the function may have in flight (16 R542). -/
def cmdLimit (fn : Nat) (s : State) : Nat := if fn = 0 then 16 else getF (bFunction fn) F.FP_INFLIGHT s

/-- A ring stops (16 R553). -/
def stopRing (fn r : Nat) (s : State) : State :=
  let s := setF (bFunction fn) (F.FP_ERR.at r) 1 (addF (bFunction fn) F.FP_RING_ERRORS 1 s)
  raise (bFunction fn) 0x0C 2 (if fn = 0 then .none else .part (fn - 1)) false (fn + r * 2 ^ 8) s

/-- The ring has a record that may be fetched now (16 R536, R561). -/
def mayFetch (fn r : Nat) (s : State) : Bool :=
  let b := bFunction fn
  flag b (F.FP_ENABLE.at r) s && !flag b (F.FP_ERR.at r) s && getF b (F.FP_CR_HEAD.at r) s != tailOf fn r s &&
  decide (inflight fn s < cmdLimit fn s) && evLive fn s &&
  decide ((ringOf fn s).used + inflight fn s < evSlots fn s) && !keysMissing b s

/-- Reads the record of a slot; a sealed one is opened. none = it cannot be read or its tag fails. -/
def readRecord (fn r slot : Nat) (s : State) : Option Desc × State :=
  let base := fnBase fn (F.FP_CR_BASE_LO.at r) (F.FP_CR_BASE_HI.at r) s
  match fnRead fn (base + 64 * slot) 64 s with
  | none => (none, s)
  | some (l, s) =>
    if fn ≠ 0 ∧ confidential (fn - 1) s then
      match sealOf fn s with
      | none => (none, s)
      | some k =>
        let m := mapGet (fun _ => 0) k.recCount r
        match fnRead fn (fnBase fn (F.FP_CR_TAG_BASE_LO.at r) (F.FP_CR_TAG_BASE_HI.at r) s + 16 * slot) 16 s with
        | none => (none, s)
        | some (tag, s) =>
          let counter := r * 2 ^ 48 + m
          if gcmTag k.h2d counter (recordAad 1 (fn - 1) r slot) l = tag then
            (some (BitVec.ofNat 512 (natOf (gcmXor k.h2d counter l))),
              setSeal fn (some { k with recCount := mapPut (fun _ => 0) r (m + 1) k.recCount }) s)
          else (none, failedTag (fn - 1) r s)
    else (some (BitVec.ofNat 512 (natOf l)), s)

/-- Takes a fetched record in flight. -/
def takeRecord (fn r slot : Nat) (d : Desc) (s : State) : State :=
  let st := fetchStatus fn d s
  let c : Cmd := ⟨s.host.nextUid, fn, r, slot, d, if st = 0 then .fetched else .done, st, 0, 0, false⟩
  { s with host := { s.host with cmds := s.host.cmds ++ [c], nextUid := s.host.nextUid + 1 } }

/-- Fetches up to a number of consecutive records of a ring, not past its end. -/
def fetchRing (fn r : Nat) : Nat → State → State
  | 0, s => s
  | fuel + 1, s =>
    if mayFetch fn r s then
      let b := bFunction fn
      let slot := getF b (F.FP_CR_HEAD.at r) s
      match readRecord fn r slot s with
      | (none, s) => stopRing fn r s
      | (some d, s) =>
        let next := (slot + 1) % 2 ^ getF b (F.FP_LOG2.at r) s
        let s := setF b (F.FP_CR_HEAD.at r) next (takeRecord fn r slot d s)
        if next = 0 then s else fetchRing fn r fuel s
    else s

/-- The ring whose turn it is, in ascending ring number. -/
def nextRing (fn : Nat) (s : State) : Option Nat :=
  let last := mapGet (fun _ => 13) s.host.lastRing fn
  ((List.range 14).map fun i => (last + 1 + i) % 14).find? fun r => mayFetch fn r s

/-- CMD_FETCH (16 R536): the next ring in turn; a read that the host bus fails stops it (16 R553), and is a host read error (16 R554). -/
def execCmdFetch (t : FetchTurn) (s : State) : Host.Outcome State Fault Refusal :=
  let fn := t.fn.val
  .next (if hostLive s && functionExists fn s then
    match nextRing fn s with
    | none => s
    | some r =>
      let s := { s with host := { s.host with lastRing := mapPut (fun _ => 13) fn r s.host.lastRing } }
      if t.fails then stopRing fn r (addF (bFunction fn) F.FP_HOST_ERRORS 1 s) else fetchRing fn r 8 s
  else s)

/-! ### Doorbells (16 R544) -/

/-- CR_TAIL of a ring: discarded and reported when it lies beyond the ring; a base that does not translate stops the
ring (16 R553). -/
def tailWrite (fn r v : Nat) (s : State) : State :=
  let b := bFunction fn
  let t := v % 2 ^ 16
  if 2 ^ getF b (F.FP_LOG2.at r) s ≤ t then discard b (0x1000 * r) (ownerScope b s) s
  else
    let s := { s with host := { s.host with tails := mapPut (fun _ => 0) (fn * 16 + r) t s.host.tails } }
    if !flag b (F.FP_ENABLE.at r) s || fn = 0 then s
    else match hostXlate (fn - 1) (fnBase fn (F.FP_CR_BASE_LO.at r) (F.FP_CR_BASE_HI.at r) s) false s with
      | some (_, _, s) => s
      | none => stopRing fn r s

/-- EV_HEAD: frees the slots before it; held records follow (16 R544, R548). -/
def headWrite (fn v : Nat) (s : State) : State :=
  let b := bFunction fn
  let n := evSlots fn s
  let h := v % 2 ^ 16
  let ring := ringOf fn s
  let freed := (h + n - ring.head) % n
  if n ≤ h ∨ ring.used < freed then discard b 0xE000 (ownerScope b s) s
  else drainHeld fn 256 (setRing fn { ring with head := h, used := ring.used - freed } s)

/-- CR_TAIL_WRITE (16 R544). -/
def execCrTailWrite (fn : FnId) (r : RingId) (v : BitVec 32) (s : State) : Host.Outcome State Fault Refusal :=
  .next (if hostLive s && functionExists fn.val s then tailWrite fn.val r.val v.toNat s else s)

/-- EV_HEAD_WRITE (16 R544, R548). -/
def execEvHeadWrite (fn : FnId) (v : BitVec 32) (s : State) : Host.Outcome State Fault Refusal :=
  .next (if hostLive s && functionExists fn.val s then headWrite fn.val v.toNat s else s)

/-- A write of double words of the MSI-X table. -/
def tableWrite (fn k : Nat) (l : List Nat) (s : State) : State :=
  let m := msixOf fn s
  let t := ((List.range l.length).zip l).foldl (fun t e => mapPut msixEntry (k + e.1) e.2 t) m.table
  changeMsix fn { m with table := t } s

/-- A write of bytes at an offset of BAR4 (16 R544; log entry 65): four bytes at a doorbell, four or eight at the MSI-X table; another size
at a doorbell is discarded and reported; the pending bits are read-only. -/
def bar4Write (fn off : Nat) (data : List Byte) (s : State) : State :=
  let n := data.length
  if 0xF000 ≤ off ∧ off + n ≤ 0xF100 ∧ off % n = 0 then
    (if n = 4 then tableWrite fn ((off - 0xF000) / 4) [natOf data] s
    else if n = 8 then tableWrite fn ((off - 0xF000) / 4) [natOf (data.take 4), natOf (data.drop 4)] s
    else s)
  else if 0xF000 ≤ off then s
  else if off % 0x1000 ≠ 0 then s
  else if n ≠ 4 then discard (bFunction fn) off (ownerScope (bFunction fn) s) s
  else if off = 0xE000 then headWrite fn (natOf data) s
  else tailWrite fn (off / 0x1000) (natOf data) s

/-- What an aligned read of four bytes of BAR4 returns (16 R544). No command of the table is such a read. -/
def bar4Word (fn off : Nat) (s : State) : Nat :=
  if off % 0x1000 = 0 ∧ off < 0xE000 then tailOf fn (off / 0x1000) s
  else if off = 0xE000 then (ringOf fn s).head
  else if 0xF000 ≤ off ∧ off < 0xF100 then mapGet msixEntry (msixOf fn s).table ((off - 0xF000) / 4)
  else if off = 0xF800 then (msixOf fn s).waiting.foldl (fun n v => setBits v 1 1 n) 0
  else 0

/-! ### Completions (16 R542, R546, R549) -/

/-- The completion record of a command. -/
def completionOf (c : Cmd) (s : State) : Ev :=
  ⟨0x01, 0, 7 * 4096, if c.fn = 0 then 8 else c.fn - 1, false, s.time,
    BitVec.ofNat 96 (cTag c.words + c.status * 2 ^ 16 + cOp c.words * 2 ^ 24 + c.ring * 2 ^ 32 + c.slot * 2 ^ 48 +
      c.result % 2 ^ 32 * 2 ^ 64)⟩

/-- A completed quiesce waits until the commands that it aborted have their records, as long as those can be written (16 R558, step 6). -/
def abortedFirst (c : Cmd) (s : State) : Bool :=
  let vf := if c.fn = 0 then dF 8 1 c.words + 1 else c.fn
  decide (c.status = 0) && (if c.fn = 0 then cOp c.words == 0x12 else cOp c.words == 0x05) && evLive vf s &&
  s.host.cmds.any fun k => k.fn == vf && k.phase == .done && k.status == 0x07 && !k.lost

/-- What takes effect with the completion: the VF's new command limit, or a new BB_GEN (16 R538, R567). -/
def takeEffect (c : Cmd) (s : State) : State :=
  if c.status ≠ 0 then s
  else if c.fn = 0 then
    (if cOp c.words = 0x13 ∧ assembled (dF 8 1 c.words) s then
      setF (bFunction (dF 8 1 c.words + 1)) F.FP_INFLIGHT (dF 0x0A 2 c.words) s
    else s)
  else if cOp c.words = 0x08 then updPart (c.fn - 1) (fun k => { k with bbGen := dF 8 8 c.words }) s
  else s

/-- The command whose record comes next: the oldest one of a function that has ended. -/
def nextRecord (fn : Nat) (s : State) : Option Cmd :=
  s.host.cmds.find? fun c => c.fn == fn && c.phase == .done && !c.lost && !abortedFirst c s

/-- COMMAND_COMPLETE (16 R542): writes a completion record, and the command leaves. -/
def execCommandComplete (fn : FnId) (s : State) : Host.Outcome State Fault Refusal :=
  .next (match nextRecord fn.val s with
    | none => s
    | some c =>
      if hostLive s && evLive fn.val s then
        match putRecord fn.val (completionOf c s) s with
        | none => stopEvRing fn.val s
        | some s =>
          let s := takeEffect c { s with host := { s.host with cmds := s.host.cmds.filter fun k => k.uid != c.uid } }
          signal fn.val 0x01 (cIrq c.words) (addF (bFunction fn.val) F.FP_CMDS_DONE 1 s)
      else s)

/-- MSIX_DELAY_EXPIRE (16 R549). -/
def execMsixDelayExpire (fn : FnId) (vec : Fin 16) (s : State) : Host.Outcome State Fault Refusal :=
  .next (match mapGet (fun _ => none) s.host.msixPend (fn.val * 16 + vec.val) with
    | some ((_, t) : Nat × Nat) =>
      if t + 1000 * getF (bFunction fn.val) F.FP_DELAY_US s ≤ s.time then fireMsix fn.val vec.val s else s
    | none => s)

/-! ### Operands (16 R537, R567, R568) -/

/-- Reads an operand; the error is a completion status. Poisoned bytes end the command like an address that does not answer (log entry
57). -/
def cmdRead (c : Cmd) (enc n : Nat) (s : State) : Except Nat (List Byte) × State :=
  let p := c.fn - 1
  let a := addrOf enc
  if c.fn = 0 then (if s.power.e0Lost then .error 0x0B else .ok (rdN (plHost enc) n s), s)
  else if spaceOf enc = 0 then
    (if reach0 p a n s then
      (if poison0 p a n s then .error 0x0B else .ok (load0 p a n s), memAsk (hostEngine p) p 0 a n false s)
    else (.error 0x0B, s))
  else if confidential p s then
    (cut 4096 a n).foldl (fun o x =>
      match o with
      | (.error e, s) => (.error e, s)
      | (.ok acc, s) =>
        match hostXlate p x.1 false s with
        | none => (.error 0x0B, s)
        | some (h, bb, s) =>
          let off := x.1 % 2 ^ 21
          if !bb || 508 ≤ off / 4096 then (.error 0x0B, s)
          else match openChunk p (h - off) (off / 4096) (x.1 - x.1 % 4096) (partOf p s).bbGen s with
            | some plain => (.ok (acc ++ (plain.drop (x.1 % 4096)).take x.2), s)
            | none => (.error 0x0C, failedTag p (x.1 - x.1 % 4096) s)) (.ok [], s)
  else match fnRead c.fn a n s with
    | some (l, s) => (.ok l, s)
    | none => (.error 0x0B, s)

/-- Writes bytes into a sealed chunk, which is opened and sealed anew (log entry 22). -/
def sealedWrite (p a : Nat) (l : List Byte) (s : State) : Nat × State :=
  match hostXlate p a true s with
  | none => (0x0B, s)
  | some (h, bb, s) =>
    let off := a % 2 ^ 21
    let i := off / 4096
    let g := (partOf p s).bbGen
    if !bb || 508 ≤ i then (0x0B, s)
    else match openChunk p (h - off) i (a - a % 4096) g s with
      | some plain =>
        (0, sealChunk p (h - off) i (a - a % 4096) g (plain.take (a % 4096) ++ l ++ plain.drop (a % 4096 + l.length)) s)
      | none => (0x0C, failedTag p (a - a % 4096) s)

/-- Writes bytes within one operand entry, as REGS stores what it reads: the completion status, 0 when they are written. Memory that is
offline, or a part of a poisoned granule, takes none (log entry 57). -/
def cmdWrite (c : Cmd) (enc : Nat) (l : List Byte) (s : State) : Nat × State :=
  let p := c.fn - 1
  let a := addrOf enc
  if c.fn = 0 then (if s.power.e0Lost then (0x0B, s) else (0, wrN (plHost enc) l s))
  else if spaceOf enc = 0 then
    (if reach0 p a l.length s && !partialPoison p a l.length s then
      (0, memAsk (hostEngine p) p 0 a l.length true (store0 p a l s))
    else (0x0B, s))
  else if confidential p s then sealedWrite p a l s
  else match fnWrite c.fn a l s with
    | some s => (0, s)
    | none => (0x0B, s)

/-! ### Starting a command (16 R541, R558, R559) -/

/-- The next command of a ring, when it has this opcode and may start. -/
def nextCmd (fn r op : Nat) (s : State) : Option Cmd :=
  match s.host.cmds.find? fun c => c.fn == fn && c.ring == r && c.phase == .fetched with
  | none => none
  | some c =>
    let first := !(s.host.cmds.any fun k => k.fn == fn && k.ring == r && decide (k.uid < c.uid))
    let held := fn != 0 && (partOf (fn - 1) s).quiesce.isSome
    if cOp c.words == op && (!cFence c.words || first) && !held then some c else none

/-- Changes one command. -/
def updCmd (uid : Nat) (f : Cmd → Cmd) (s : State) : State := mapCmds (fun c => if c.uid = uid then f c else c) s

/-- Starts the next command of a ring under an opcode: a wedged partition ends it with WEDGED, one that is not assembled
with RESOURCE; QUIESCED clears at every command but QUIESCE. -/
def startCmd (fn r op : Nat) (run : Cmd → State → State) (s : State) : State :=
  match nextCmd fn r op s with
  | none => s
  | some c =>
    if fn = 0 then run c s
    else if flag (bFunction fn) F.FP_WEDGED s then endCmd c.uid 0x0E 0 s
    else if !assembled (fn - 1) s && op != 0x09 then endCmd c.uid 0x05 0 s
    else run c (if op = 0x05 then s else setF (bFunction fn) F.FP_QUIESCED 0 s)

end Sys2Proof.Machine
end

