-- ==== Sys2Proof/Machine/HostCmds.lean ====
section
/-!
DEFINITION. What the control core does for the commands of a VF's partition: RUN_LIST, STEP, DIRECT_TASK, SERVICE, REGS,
INVALIDATE, SET_BB_GEN, NOP, QUIESCE with its end and its wedge, and FUNCTION_RESET (16 R538 to R541, R551, R554, R556 to
R560, R567).
-/
namespace Sys2Proof.Machine

/-! ### Task lists (03 R90, R91; 16 R538, R540) -/

/-- Global indices of the active crofts of a partition, ascending. -/
def globalsOf (p : Nat) (s : State) : List Nat := ((hamletsOf p s).map fun h => rangeFrom (36 * h) 36).flatten

/-- The descriptors of a list. -/
def descsOf (n : Nat) (l : List Byte) : List Desc := (List.range n).map fun i => BitVec.ofNat 512 (leAt l (64 * i) 64)

/-- The release order of a list: descriptor i goes to the croft its program gives it, an index into the partition's active
crofts (log entry 23). -/
def relsOf (p cmd : Nat) (crofts : List Nat) (ds : List Desc) (s : State) : List Rel :=
  let g := globalsOf p s
  ((List.range ds.length).zip ds).map fun e => ⟨e.2, nth g (nth crofts e.1 % g.length), cmd, none, false, false⟩

/-- RUN_LIST (16 R538). -/
def runList (crofts : List Nat) (c : Cmd) (s : State) : State :=
  let p := c.fn - 1
  let n := dF 0x10 4 c.words
  match cmdRead c (dF 8 8 c.words) (64 * n) s with
  | (.error e, s) => endCmd c.uid e 0 s
  | (.ok l, s) =>
    let rs := relsOf p c.uid crofts (descsOf n l) s
    if usesLost p rs s then endCmd c.uid 0x05 0 s
    else updCmd c.uid (fun k => { k with phase := .running, left := n }) (updPart p (fun k => { k with rel := k.rel ++ rs }) s)

def execRunList (fn : FnId) (r : RingId) (crofts : List Nat) (s : State) : Host.Outcome State Fault Refusal :=
  .next (startCmd fn.val r.val 0x01 (runList crofts) s)

/-! ### STEP (16 R540) -/

/-- The first faulty entry of an EXPECT_LIST, with its status. -/
def badExpect (p : Nat) (s : State) : Nat → List (Nat × Nat × Bool) → Option (Nat × Nat)
  | _, [] => none
  | i, (v, _, res) :: l =>
    if (tallyPhys p v s).isNone then some (0x0F, i) else if res then some (0x02, i) else badExpect p s (i + 1) l

/-- The entries of an EXPECT_LIST: virtual tally, producers, a reserved bit is set. -/
def expectsOf (n : Nat) (l : List Byte) : List (Nat × Nat × Bool) :=
  (List.range n).map fun i => (leAt l (8 * i) 4 % 4096, leAt l (8 * i + 4) 4, leAt l (8 * i) 4 / 4096 != 0)

/-- The attempt a STEP begins with: the job's, when its mill already stands at that step (13 R446). -/
def firstAttempt (p step : Nat) (s : State) : Nat := if jobEnabled p s && (jobOf p s).step == step then (jobOf p s).attempt else 0

/-- Releases an accepted STEP whose operands have been read: its expects go out; its registers and its release order wait for their
acknowledgement. -/
def releaseStep (c : Cmd) (rs : List Rel) (es : List (Nat × Nat)) (s : State) : State :=
  let p := c.fn - 1
  let step := dF 0x20 8 c.words
  let r : StepRun := ⟨step, firstAttempt p step s, c.uid, rs, es, false, some (dF 0x28 8 c.words)⟩
  let s := updPart p (fun k => { k with run := some r, rel := k.rel ++ rs, poisoned := [] }) s
  let s := openStep p (sendExpects p r s)
  updCmd c.uid (fun k => { k with
    phase := .running, left := (rs.filter fun x => commitClass (dOpcode x.desc)).length }) s

/-- The acceptance check of a STEP, and its start. While commits are stopped no step can end but in a stop
(log entry 24). -/
def acceptStep (crofts : List Nat) (c : Cmd) (s : State) : State :=
  let p := c.fn - 1
  let n := dF 0x10 4 c.words
  let ne := dF 0x14 4 c.words
  if dF 0x20 8 c.words ≠ lastCommitted p s + 1 then endCmd c.uid 0x09 0 s
  else if (partOf p s).stopCommits then endCmd c.uid 0x0A 0 s
  else match cmdRead c (dF 0x18 8 c.words) (8 * ne) s with
    | (.error e, s) => endCmd c.uid e 0 s
    | (.ok el, s) =>
      let es := expectsOf ne el
      match badExpect p s 0 es with
      | some (st, i) => endCmd c.uid st i s
      | none =>
        match cmdRead c (dF 8 8 c.words) (64 * n) s with
        | (.error e, s) => endCmd c.uid e 0 s
        | (.ok l, s) =>
          let rs := relsOf p c.uid crofts (descsOf n l) s
          if usesLost p rs s then endCmd c.uid 0x05 0 s else releaseStep c rs (es.map fun e => (e.1, e.2.1)) s

/-- A STEP of the partition has no verdict yet, or waits for one. -/
def stepUndecided (p : Nat) (s : State) : Bool :=
  (partOf p s).run.isSome || s.host.cmds.any fun c => c.fn == p + 1 && c.phase == .waiting

def stepCmd (crofts : List Nat) (c : Cmd) (s : State) : State :=
  let p := c.fn - 1
  if !timed p s then endCmd c.uid 0x03 0 s
  else if stepUndecided p s then updCmd c.uid (fun k => { k with phase := .waiting }) s
  else acceptStep crofts c s

def execStep (fn : FnId) (r : RingId) (crofts : List Nat) (s : State) : Host.Outcome State Fault Refusal :=
  .next (startCmd fn.val r.val 0x02 (stepCmd crofts) s)

/-- STEP_WAIT_ACCEPT: the oldest waiting STEP, once the verdict has arrived. -/
def execStepWaitAccept (p : PartId) (crofts : List Nat) (s : State) : Host.Outcome State Fault Refusal :=
  .next (match s.host.cmds.find? fun c => c.fn == p.val + 1 && c.phase == .waiting with
    | some c => if (partOf p.val s).run.isNone && (partOf p.val s).quiesce.isNone then acceptStep crofts c s else s
    | none => s)

/-! ### DIRECT_TASK, SERVICE, NOP, SET_BB_GEN, INVALIDATE -/

/-- DIRECT_TASK (03 R90): waits for a credit of the croft. A croft of another partition is a reserved operand value
(log entry 25). -/
def directTask (c : Cmd) (s : State) : State :=
  let p := c.fn - 1
  let g := dF 8 2 c.words
  if timed p s then endCmd c.uid 0x03 0 s
  else if !((globalsOf p s).any fun x => x == g) then endCmd c.uid 0x02 0 s
  else if (partOf p s).capLost.any fun x => x == g then endCmd c.uid 0x05 0 s
  else match cmdRead c (dF 0x10 8 c.words) 64 s with
    | (.error e, s) => endCmd c.uid e 0 s
    | (.ok l, s) =>
      if takes (globalPhys g s) s then
        enqueueAt (globalPhys g s) (BitVec.ofNat 512 (natOf l)) c.uid
          (updCmd c.uid (fun k => { k with phase := .running, left := 1 }) s)
      else s

/-- The croft that the next DIRECT_TASK of a ring names holds no credit: the command waits (03 R91). -/
def directWaits (fn r : Nat) (s : State) : Bool :=
  match nextCmd fn r 0x03 s with
  | some c =>
    let g := dF 8 2 c.words
    (globalsOf (fn - 1) s).any (fun x => x == g) && !((partOf (fn - 1) s).capLost.any fun x => x == g) &&
      !timed (fn - 1) s && !takes (globalPhys g s) s
  | none => false

def execDirectTask (fn : FnId) (r : RingId) (s : State) : Host.Outcome State Fault Refusal :=
  .next (if directWaits fn.val r.val s then s else startCmd fn.val r.val 0x03 directTask s)

/-- SERVICE (16 R538). -/
def serviceCmd (c : Cmd) (s : State) : State :=
  let p := c.fn - 1
  let mode := dF 8 1 c.words
  if !queuesEmpty p s then endCmd c.uid 0x04 0 s
  else
    endCmd c.uid 0 0 (changeService p mode s)

def execService (fn : FnId) (r : RingId) (s : State) : Host.Outcome State Fault Refusal :=
  .next (startCmd fn.val r.val 0x04 serviceCmd s)

def execNop (fn : FnId) (r : RingId) (s : State) : Host.Outcome State Fault Refusal :=
  .next (startCmd fn.val r.val 0x09 (fun c s => endCmd c.uid 0 0 s) s)

/-- SET_BB_GEN: the generation changes with the completion record (16 R567). -/
def execSetBbGen (fn : FnId) (r : RingId) (s : State) : Host.Outcome State Fault Refusal :=
  .next (startCmd fn.val r.val 0x08 (fun c s => endCmd c.uid 0 0 s) s)

/-- Forgets the translations that touch [va, va + n); n = 0 forgets all (16 R551). -/
def forgetTrans (va n : Nat) (k : Part) : Part :=
  let keep (unit : Nat) (t : Trans) : Bool :=
    n != 0 && !decide (t.key * unit < va + n ∧ va < (t.key + 1) * unit)
  { k with l1 := k.l1.filter (keep (2 ^ 30)), l2 := k.l2.filter (keep (2 ^ 21)) }

/-- A request to host memory in [va, va + n) is in flight for the partition; n = 0 takes every address (16 R551). -/
def hostBusy (p va n : Nat) (s : State) : Bool :=
  (croftsOf p s).any fun c => (croftOf c s).pieces.any fun q =>
    q.space == 1 && (n == 0 || decide (q.addr < va + n ∧ va < q.addr + q.len))

/-- The range of an INVALIDATE is in use. -/
def rangeBusy (c : Cmd) (s : State) : Bool := hostBusy (c.fn - 1) (dF 8 8 c.words) (dF 0x10 8 c.words) s

/-- Starts an INVALIDATE: the translations are gone; it ends once no request in flight has used them. -/
def invalidateCmd (c : Cmd) (s : State) : State :=
  let s := updPart (c.fn - 1) (forgetTrans (dF 8 8 c.words) (dF 0x10 8 c.words)) s
  if rangeBusy c s then updCmd c.uid (fun k => { k with phase := .running, left := 0 }) s else endCmd c.uid 0 0 s

/-- An INVALIDATE of a ring that waits for requests in flight no longer. -/
def quietInvalidate (fn r : Nat) (s : State) : Option Cmd :=
  s.host.cmds.find? fun c => c.fn == fn && c.ring == r && c.phase == .running && cOp c.words == 0x07 && !rangeBusy c s

/-- INVALIDATE (16 R551). -/
def execInvalidate (fn : FnId) (r : RingId) (s : State) : Host.Outcome State Fault Refusal :=
  .next (match quietInvalidate fn.val r.val s with
    | some c => endCmd c.uid 0 0 s
    | none => startCmd fn.val r.val 0x07 invalidateCmd s)

/-! ### REGS (16 R539) -/

/-- The control core accepts accesses of a page on behalf of a function. -/
def regsPage (fn b off : Nat) (s : State) : Bool :=
  if fn = 0 then (match ownerOf b s with | some q => !confidential q s | none => true)
  else
    let p := fn - 1
    decide (ownerOf b s = some p) ||
    (b == bMill && (decide (0x100 + 0x40 * p ≤ off ∧ off < 0x140 + 0x40 * p) ||
      decide (0x300 + 0x40 * p ≤ off ∧ off < 0x340 + 0x40 * p))) ||
    (b == bSteward && off == 0x48 + 4 * p)

/-- One write entry: none = refused. A write that its register discards or refuses is refused here too, after its report
(log entry 27). -/
def regsWrite (w : Wr) (s : State) : Bool × State :=
  if w.off = F.BLK_PART.off then (false, s)
  else if w.off = F.BLK_HOLDER.off then (true, regWrite w s)
  else match fateOf w s with
    | .sp => (false, s)
    | .nothing => (true, regWrite w s)
    | .discard | .refuse => (false, if regsQuiet w s then regWrite w s else s)
    | .act => if regsQuiet w s then (true, regWrite w s) else (false, s)

/-- One entry of the list: the completion status, 0 when it has been applied. -/
def regsEntry (c : Cmd) (at_ : Nat) (e : List Byte) (s : State) : Nat × State :=
  let x := leAt e 0 4
  let v := leAt e 4 4
  let m := leAt e 8 4
  let op := leAt e 12 1
  if 1 < op ∨ leAt e 13 3 ≠ 0 then (0x02, s)
  else if x % 4 ≠ 0 ∨ 2 ^ 25 ≤ x then (0x08, s)
  else match pageAt x s with
    | none =>
      if op = 1 ∧ c.fn = 0 ∧ 0x40000 ≤ x ∧ x < 0x48000 then
        cmdWrite c (at_ + 4) (bytesOf 4 (ownerWord x s)) s
      else (0x08, s)
    | some b =>
      let off := x % 0x1000
      if !regsPage c.fn b off s then (0x08, s)
      else if op = 0 then
        let (ok, s) := regsWrite ⟨.control, b, off, v, m⟩ s
        (if ok then 0 else 0x08, s)
      else
        let (r, s) := regRead .control b off s
        cmdWrite c (at_ + 4) (bytesOf 4 r) s

/-- The entries in list order; the first that is not applied ends the command. -/
def regsLoop (c : Cmd) (enc : Nat) (l : List Byte) : List Nat → State → State
  | [], s => endCmd c.uid 0 0 s
  | i :: r, s =>
    match regsEntry c (enc + 16 * i) ((l.drop (16 * i)).take 16) s with
    | (0, s) => regsLoop c enc l r s
    | (st, s) => endCmd c.uid st i s

def regsCmd (c : Cmd) (s : State) : State :=
  let n := dF 0x10 2 c.words
  let enc := dF 8 8 c.words
  match cmdRead c enc (16 * n) s with
  | (.error e, s) => endCmd c.uid e 0 s
  | (.ok l, s) => regsLoop c enc l (List.range n) s

def execRegs (fn : FnId) (r : RingId) (s : State) : Host.Outcome State Fault Refusal :=
  .next (startCmd fn.val r.val 0x06 regsCmd s)

/-! ### Quiesce (16 R558, R559) -/

/-- STOP and PURGE on every croft of the partition, descriptors on their way included (step 3). -/
def purgeAll (p : Nat) (s : State) : State :=
  let s := updPart p (fun k => { k with rel := [], run := none, repeatDue := none
                                        quiesce := k.quiesce.map fun q => { q with purged := true } }) s
  (croftsOf p s).foldl (fun s c =>
    let s := setF (bCroft c) F.SEQ_CTRL_STOP 1 s
    let s := (croftOf c s).arriving.foldl (fun s a => endOfTask a.cmd 0x07 0 s) s
    purge c (fun _ => true) (updCroft c (fun k => { k with arriving := [] }) s)) s

/-- Step 3 of a quiesce, once its wait is over. -/
def quiesceStop (p : Nat) (s : State) : State :=
  match (partOf p s).quiesce with
  | some q => if !q.purged && !commitWork p s then purgeAll p s else s
  | none => s

/-- Begins a quiesce: an uncommitted step gets a repeat vote, then steps 3 and on when their wait is over. -/
def beginQuiesce (p cmd : Nat) (fnReset : Bool) (s : State) : State :=
  let s := updPart p (fun k => { k with quiesce := some ⟨s.time, cmd, fnReset, s.host.nextUid, false⟩ }) s
  let s := if (partOf p s).run.isSome then writeRepeat p 0x01 s else s
  quiesceStop p s

def execQuiesce (fn : FnId) (r : RingId) (s : State) : Host.Outcome State Fault Refusal :=
  .next (startCmd fn.val r.val 0x05 (fun c s =>
    beginQuiesce (c.fn - 1) c.uid false (updCmd c.uid (fun k => { k with phase := .running, left := 0 }) s)) s)

/-- QUIESCE_PART of the PF; a partition that is not assembled gives RESOURCE, and one whose quiesce is under way lets the
command wait. -/
def execQuiescePart (r : RingId) (s : State) : Host.Outcome State Fault Refusal :=
  .next (match nextCmd 0 r.val 0x12 s with
    | none => s
    | some c =>
      let p := dF 8 1 c.words
      if flag (bFunction (p + 1)) F.FP_WEDGED s then endCmd c.uid 0x0E 0 s
      else if !assembled p s then endCmd c.uid 0x05 0 s
      else if (partOf p s).quiesce.isSome then s
      else beginQuiesce p c.uid false (updCmd c.uid (fun k => { k with phase := .running, left := 0 }) s))

/-- Nothing of the partition is outstanding: crofts, memory requests, host reads (step 4). -/
def partDrained (p : Nat) (s : State) : Bool :=
  queuesEmpty p s &&
  (croftsOf p s).all (fun c =>
    let k := croftOf c s
    k.xfers.isEmpty && k.pieces.isEmpty && k.peerOut.isEmpty && k.streams.all fun e => e.2.isNone) &&
  s.memsys.queues.all (fun e => e.2.all fun r => r.part != p) && s.memsys.slices.all (fun e => e.2.all fun r => r.part != p) &&
  s.memsys.waiting.all (fun r => r.part != p) &&
  s.host.reads.all (fun r => r.part != p) && s.foldq.all fun f => f.part != p

/-- The words of a page that a reset of it keeps. -/
def resetPage (b : Nat) (keep : List Field) (s : State) : State :=
  let t := { s with
    regs := s.regs.filter fun e => e.1 / 1024 != b
    loLatch := s.loLatch.filter fun e => e.1 / 1024 != b
    subUnits := s.subUnits.filter fun e => e.1 / 1024 != b
    lockSince := mapDel b s.lockSince }
  keepFields b keep s t

/-- The rings of a function as after a reset: no unfetched record, no event, no pending vector. -/
def resetRings (fn : Nat) (s : State) : State :=
  { s with host := { s.host with
      tails := s.host.tails.filter fun e => e.1 / 16 != fn
      rings := mapDel fn s.host.rings
      msixPend := s.host.msixPend.filter fun e => e.1 / 16 != fn
      msix := mapDel fn s.host.msix
      aer := mapDel fn s.host.aer
      lastRing := mapDel fn s.host.lastRing } }

/-- The end of a function reset: session and keys ended, the page at its reset values but for four fields (16 R560). -/
def endFunctionReset (p : Nat) (s : State) : State :=
  let fn := p + 1
  let s := dropSession fn s
  let s := { s with host := { s.host with cmds := s.host.cmds.filter fun c => !(c.fn == fn && c.lost) } }
  resetPage (bFunction fn) [F.FP_ASSEMBLED, F.FP_CONFIDENTIAL, F.FP_WEDGED, F.FP_LAST_COMMITTED_LO, F.FP_LAST_COMMITTED_HI]
    (resetRings fn s)

/-- Steps 5 and 6: open service, QUIESCED, the commands from before the quiesce aborted, its own completed. -/
def endQuiesce (p : Nat) (q : Quiesce) (s : State) : State :=
  let s := setF (bFunction (p + 1)) F.FP_QUIESCED 1 (setService p 1 s)
  let s := updPart p (fun k => { k with quiesce := none, committed := [], stopCommits := false }) s
  let s := mapCmds (fun c => if c.fn = p + 1 ∧ c.uid < q.upto ∧ c.uid ≠ q.cmd ∧ c.phase ≠ .done then
    { c with phase := .done, status := 0x07 } else c) s
  let s := partitionEvent p 7 (.part p) s
  let s := if q.cmd = 0 then s else endCmd q.cmd 0 0 s
  if q.fnReset then endFunctionReset p s else s

/-- QUIESCE_COMPLETE (16 R558, steps 3 to 6). -/
def execQuiesceComplete (p : PartId) (s : State) : Host.Outcome State Fault Refusal :=
  .next (let s := quiesceStop p.val s
    match (partOf p.val s).quiesce with
    | some q => if q.purged && partDrained p.val s then endQuiesce p.val q s else s
    | none => s)

/-- QUIESCE_WEDGE (16 R559): 100 ms after its beginning a quiesce that has not drained wedges its partition; the command
that began it ends with WEDGED. -/
def execQuiesceWedge (p : PartId) (s : State) : Host.Outcome State Fault Refusal :=
  .next (match (partOf p.val s).quiesce with
    | some q =>
      if q.start + 100000000 ≤ s.time && !(q.purged && partDrained p.val s) then
        let s := setF (bFunction (p.val + 1)) F.FP_WEDGED 1 (updPart p.val (fun k => { k with quiesce := none }) s)
        let s := partitionEvent p.val 5 .none (partitionEvent p.val 5 (.part p.val) s)
        let s := if q.cmd = 0 then s else endCmd q.cmd 0x0E 0 s
        if q.fnReset then endFunctionReset p.val s else s
      else s
    | none => s)

/-! ### Function reset (16 R556, R560) and host reads that fail (16 R554) -/

/-- Disables the command rings of a function, without their unfetched records (16 R569). -/
def disableCmdRings (fn : Nat) (s : State) : State :=
  let b := bFunction fn
  (List.range 14).foldl (fun s r => setF b (F.FP_CR_HEAD.at r) (tailOf fn r s) (setF b (F.FP_ENABLE.at r) 0 s)) s

/-- Disables the rings of a VF and discards its unfetched records; its commands will have no completion record. -/
def disableRings (fn : Nat) (s : State) : State :=
  mapCmds (fun c => if c.fn = fn then { c with lost := true } else c)
    (setF (bFunction fn) F.FP_EV_ENABLE 0 (disableCmdRings fn s))

/-- A function reset of VF p + 1: the event of the end of its session, while its ring takes one; then its partition quiesces, at once or with
the quiesce under way (16 R560, R564). -/
def functionReset (p : Nat) (s : State) : State :=
  let s := disableRings (p + 1) (noteKeys (p + 1) 3 s)
  if !assembled p s || flag (bFunction (p + 1)) F.FP_WEDGED s then endFunctionReset p s
  else match (partOf p s).quiesce with
    | some _ => updPart p (fun k => { k with quiesce := k.quiesce.map fun q => { q with fnReset := true, upto := s.host.nextUid } }) s
    | none => beginQuiesce p 0 true s

/-- FUNCTION_RESET: a VF FLR. -/
def execFunctionReset (p : PartId) (s : State) : Host.Outcome State Fault Refusal :=
  .next (if hostLive s && functionExists (p.val + 1) s then functionReset p.val s else s)

/-- HOST_READ_TIMEOUT: a host read in flight fails; at a timeout 50 ms must have passed since it was issued. -/
def execHostReadTimeout (n : Nat) (why : ReadFail) (s : State) : Host.Outcome State Fault Refusal :=
  .next (match s.host.reads[n]? with
    | none => s
    | some r =>
      if why = .timeout ∧ s.time < r.issued + 50000000 then s
      else
        let uid := (((croftOf r.croft s).pieces.find? fun q => q.id == r.piece).map fun q => q.uid).getD 0
        let s := { s with host := { s.host with reads := s.host.reads.filter fun q => q != r } }
        let s := updCroft r.croft (fun k => { k with pieces := k.pieces.filter fun q => q.id != r.piece }) s
        let s := match why with
          | .poison => logAer (r.part + 1) 12 (addF bHostIf F.HI_POISON_RX 1 s)
          | .timeout => logAer (r.part + 1) 14 s
          | .error => s
        failTask r.croft uid ⟨0x0B, 0, 5, 1, 0, []⟩ (addF (bFunction (r.part + 1)) F.FP_HOST_ERRORS 1 s))

end Sys2Proof.Machine
end

