-- ==== Sys2Proof/WellFormed.lean ====
section
/-!
DEFINITION. Which operands name an event of the device: a host transaction carries at least one byte and at most what PCI
Express lets one transaction carry (16 R525: Max Payload Size 512, Max Read Request Size 4,096).
-/
namespace Sys2Proof

/-- A write carries 1 to 512 bytes. -/
def writeSize (l : List Byte) : Bool := decide (1 ≤ l.length ∧ l.length ≤ 512)
/-- A read asks for 1 to 4,096 bytes. -/
def readSize (n : Nat) : Bool := decide (1 ≤ n ∧ n ≤ 4096)
/-- A BAR2 access has a size that a transaction has. -/
def bar2Size : Bar2Op → Bool
  | .read n => readSize n
  | .write l => writeSize l

/-- The command's operands are well formed. -/
def wellFormed (i : Instr) : Bool :=
  match i with
  | .registerWrite _ _ l => writeSize l
  | .bar2Access _ _ op => bar2Size op
  | _ => true

end Sys2Proof
end

