-- ==== Sys2Proof/Machine/Assembly.lean ====
section
/-!
DEFINITION. The PF's commands ASSEMBLE, DISASSEMBLE and SET_INFLIGHT (16 R530 to R534, R538; 10 R319, R341, R342; 12 R392),
and BAR2 accesses (16 R528).
-/
namespace Sys2Proof.Machine

/-! ### The partition descriptor (16 R531) -/

structure PartDesc where
  part : Nat
  conf : Bool
  scrub : Bool
  hamlets : List Nat
  ports : List Nat
  tallies : Nat
  slices : List Nat
  inflight : Nat
  count : Nat
  list : Nat
deriving DecidableEq, Repr

/-- The set bits of a number below a width. -/
def bitsOf (w n : Nat) : List Nat := (List.range w).filter fun i => bit i n

def PartDesc.parse (l : List Byte) : PartDesc :=
  ⟨leAt l 0 1, bit 0 (leAt l 1 1), bit 1 (leAt l 1 1), bitsOf 16 (leAt l 2 2), bitsOf 16 (leAt l 4 2), leAt l 6 2,
    bitsOf 64 (leAt l 8 8), leAt l 0x10 2, leAt l 0x12 2, leAt l 0x18 8⟩

/-- Reserved fields are 0 and every field lies in its range (log entry 25). -/
def PartDesc.ok (l : List Byte) : Bool :=
  let d := PartDesc.parse l
  leAt l 1 1 / 4 == 0 && leAt l 0x14 4 == 0 && leAt l 0x20 96 == 0 && decide (d.part < 8) && !d.hamlets.isEmpty &&
  decide (16 ≤ d.tallies ∧ d.tallies ≤ 4096 ∧ d.tallies % 16 = 0 ∧ 1 ≤ d.inflight ∧ d.inflight ≤ 496 ∧ d.count ≤ 1024)

/-- The entries of a range list: (START_GIB, COUNT_GIB). -/
def rangesOf (n : Nat) (l : List Byte) : List (Nat × Nat) := (List.range n).map fun i => (leAt l (8 * i) 4, leAt l (8 * i + 4) 4)

/-! ### The checks (16 R530, R532) -/

/-- A range lies in one online interleave set, on its GiB boundaries, and belongs to no partition (10 R319). -/
def rangeOk (r : Nat × Nat) (s : State) : Bool :=
  match setOf (r.1 * 2 ^ 30) s with
  | none => false
  | some t =>
    let a := r.1 * 2 ^ 30
    if r.2 ≠ 0 ∧ (a - t.base) % 2 ^ 30 = 0 ∧ a + r.2 * 2 ^ 30 ≤ t.base + t.size then
      !offline a s && (rangeFrom r.1 r.2).all fun g =>
        (ownerByteOf (g * 2 ^ 30)).isSome && (ownerOfAddr (g * 2 ^ 30) s).isNone
    else false

def disjointRanges (l : List (Nat × Nat)) : Bool := decide (l.Pairwise fun r q => r.1 + r.2 ≤ q.1 ∨ q.1 + q.2 ≤ r.1)

/-- A unit can be given to a partition. -/
def unitFree (b : Nat) (s : State) : Bool := !fenced b s && (ownerOf b s).isNone

/-- Physical tallies that no map holds. -/
def talliesFree (s : State) : Nat := 16384 - (s.tally.tallies.filter fun e => e.2.mapped).length

/-- The in-flight limit of a VF, or the one that a SET_INFLIGHT which is about to complete gives it, if that is higher (16 R538). -/
def limitOf (q : Nat) (s : State) : Nat :=
  (s.host.cmds.filter fun c => c.fn == 0 && c.phase == .done && c.status == 0 && cOp c.words == 0x13 && dF 8 1 c.words == q).foldl
    (fun n c => max n (dF 0x0A 2 c.words)) (getF (bFunction (q + 1)) F.FP_INFLIGHT s)

/-- In-flight limits of the other assembled VFs. -/
def otherLimits (p : Nat) (s : State) : Nat :=
  (List.range 8).foldl (fun n q => if q ≠ p ∧ assembled q s then n + limitOf q s else n) 0

def assembleOk (d : PartDesc) (rs : List (Nat × Nat)) (s : State) : Bool :=
  functionExists (d.part + 1) s && !assembled d.part s &&
  d.hamlets.all (fun h => unitFree (bHamlet h) s) && d.slices.all (fun i => unitFree (bSlice i) s) &&
  d.ports.all (fun v => unitFree (bPort v) s) && rs.all (fun r => rangeOk r s) && disjointRanges rs &&
  decide (d.tallies ≤ talliesFree s ∧ d.inflight + otherLimits d.part s ≤ 496)

/-! ### Assembly (16 R533) -/

def setOwner (b : Nat) (own : Option Nat) (s : State) : State :=
  setF b F.BLK_PART (own.getD 0) (setF b F.BLK_ASSIGNED (bitOf own.isSome) s)

/-- Writes the owner bytes of ranges. -/
def ownRanges (own : Option Nat) (rs : List (Nat × Nat)) (s : State) : State :=
  rs.foldl (fun s r => (rangeFrom r.1 r.2).foldl (fun s g =>
    match ownerByteOf (g * 2 ^ 30) with
    | some k => { s with owners := mapPut unwritten k (match own with | some p => BitVec.ofNat 8 (p + 8) | none => 0) s.owners }
    | none => s) s) s

/-- The default allocation: virtual ID v in bank v mod 16, the lowest free tally of the bank, else any free one
(12 R392). -/
def defaultTally (v : Nat) (s : State) : Option Nat :=
  let free (p : Nat) : Bool := !(tallyOf p s).mapped
  match ((List.range 1024).map fun i => 16 * i + v % 16).find? free with
  | some p => some p
  | none => (List.range 16384).find? free

def mapDefault (p n : Nat) (s : State) : State :=
  (List.range n).foldl (fun s v => match defaultTally v s with | some q => mapTally p v q s | none => s) s

/-- A new partition's croft: open service with STOP; one that carries an index leaves Retention, and a free spare stays in it (15
R504). -/
def wakeCroft (c : Nat) (s : State) : State :=
  let s := setF (bCroft c) F.SEQ_CTRL_STOP 1 (setF (bCroft c) F.SEQ_CTRL_SERVICE 1 s)
  if fenced (bCroft c) s || slotState (c / 38) (slotOf c s) s != 0 then s else leaveRetention c s

/-- A new partition's slice is off. -/
def slicesOff (l : List Nat) (s : State) : State :=
  l.foldl (fun s i =>
    if getF (bSlice i) F.GR_MODE s = 0 then s
    else loseRange (plSlice i 0) (plSlice (i + 1) 0) (setF (bSlice i) F.GR_MODE 0 (dropLines i s))) s

/-- The global indices of some hamlets whose croft is out of use and that no spare has taken over (03 R107). -/
def lostIndices (hs : List Nat) (s : State) : List Nat :=
  (hs.map fun h => ((List.range 36).filter fun i => decide (2 ≤ slotState h i s)).map fun i => 36 * h + i).flatten

def assemble (d : PartDesc) (rs : List (Nat × Nat)) (s : State) : State :=
  let p := d.part
  let own (f : Nat → Nat) (l : List Nat) (s : State) : State := l.foldl (fun s i => setOwner (f i) (some p) s) s
  let s := ownRanges (some p) rs (own bPort d.ports (own bSlice d.slices (own bHamlet d.hamlets (slicesOff d.slices s))))
  let s := mapDefault p d.tallies s
  let s := (croftsOf p s).foldl (fun s c => wakeCroft c s) s
  let b := bFunction (p + 1)
  let s := setF b F.FP_ASSEMBLED 1 (setF b F.FP_CONFIDENTIAL (bitOf d.conf) (setF b F.FP_INFLIGHT d.inflight
    (setF b F.FP_SERVICE 1 s)))
  let s := if d.conf then keyGenerate p s else s
  let s := disableCmdRings (p + 1) (writeJobEnable p 0 s)
  partitionEvent p 1 (.part p)
    (setPart p { Part.reset with scrub := d.scrub, ranges := rs, capLost := lostIndices d.hamlets s } s)

/-- ASSEMBLE: the descriptor and its range list are read from host memory, which is out of reach with E0's link lost (01 R30). -/
def assembleCmd (c : Cmd) (s : State) : State :=
  let l := rdN (plHost (dF 8 8 c.words)) 128 s
  if s.power.e0Lost then endCmd c.uid 0x0B 0 s
  else if !PartDesc.ok l then endCmd c.uid 0x02 0 s
  else
    let d := PartDesc.parse l
    let rs := rangesOf d.count (rdN (plHost d.list) (8 * d.count) s)
    if assembleOk d rs s then endCmd c.uid 0 0 (assemble d rs s) else endCmd c.uid 0x05 0 s

def execAssemble (r : RingId) (s : State) : Host.Outcome State Fault Refusal :=
  .next (startCmd 0 r.val 0x10 assembleCmd s)

/-! ### Disassembly (16 R534) -/

/-- The space-0 address of a place of an outer tier. -/
def addrOfPlace (pl : Nat) (s : State) : Option Nat :=
  let tier := if pl < 2 * 2 ^ 60 then 2 else 3
  let n := if tier = 2 then (pl - 2 ^ 60) / 2 ^ 48 else (pl - 2 * 2 ^ 60) / 2 ^ 52
  let o := if tier = 2 then pl % 2 ^ 48 else pl % 2 ^ 52
  let u := tierUnit tier
  (s.memsys.sets.find? fun t => t.tier == tier && t.chans.any fun c => c == n).bind fun t =>
    (t.chans.findIdx? fun c => c == n).map fun i => t.base + (o / u * t.chans.length + i) * u + o % u

/-- The place lies in a tier-2 or tier-3 range of the partition. -/
def rangePlace (p pl : Nat) (s : State) : Bool :=
  outer pl && (match addrOfPlace pl s with | some a => decide (ownerOfAddr a s = some p) | none => false)

/-- Writes zeros to every tier-2 and tier-3 range of a partition. -/
def zeroRanges (p : Nat) (s : State) : State :=
  { s with mem := s.mem.filter fun e => !rangePlace p e.1 s
           memsys := { s.memsys with
             poison := s.memsys.poison.filter fun e => !rangePlace p e.1 s
             keyTag := s.memsys.keyTag.filter fun e => !rangePlace p e.1 s } }

def slicesOf (p : Nat) (s : State) : List Nat := (List.range 64).filter fun i => decide (ownerOf (bSlice i) s = some p)
def portsOf (p : Nat) (s : State) : List Nat := (List.range 16).filter fun v => decide (ownerOf (bPort v) s = some p)

/-- Unmaps every tally of a context. -/
def unmapAll (p : Nat) (s : State) : State :=
  (s.tally.maps.filter fun e => e.1 / 4096 == p).foldl (fun s e => unmapTally p (e.1 % 4096) s) s

/-- Clears OWNER everywhere, and puts the crofts into Retention. -/
def disown (p : Nat) (s : State) : State :=
  let hs := hamletsOf p s
  let cs := croftsOf p s
  let ps := portsOf p s
  let s := (slicesOf p s).foldl (fun s i => setOwner (bSlice i) none s) s
  let s := hs.foldl (fun s h => setOwner (bHamlet h) none s) s
  let s := ps.foldl (fun s v => setOwner (bPort v) none s) s
  let s := ownRanges none (partOf p s).ranges s
  cs.foldl (fun s c => if fenced (bCroft c) s then s else setF (bCroft c) F.CP_STATUS_STATE 1 s) s

def disassemble (p : Nat) (s : State) : State :=
  let conf := confidential p s
  let scrub := (partOf p s).scrub
  let s := (slicesOf p s).foldl (fun s i =>
    if getF (bSlice i) F.GR_MODE s = 2 then (if conf then dropLines i s else flushSlice i s) else s) s
  let s := if conf || scrub then zeroHeld p s else s
  let s := if scrub && !conf then zeroRanges p s else s
  let s := if keyHeld p s then keyDestroy p s else s
  let s := disown p (unmapAll p s)
  let s := partitionEvent p 6 (.part p) s
  setPart p Part.reset (setSeal (p + 1) none (resetPage (bFunction (p + 1)) [] (resetRings (p + 1) s)))

/-- DISASSEMBLE: BUSY unless the partition is quiesced, its job disabled and none of its commands in flight. -/
def disassembleCmd (c : Cmd) (s : State) : State :=
  let p := dF 8 1 c.words
  if flag (bFunction (p + 1)) F.FP_QUIESCED s && !jobEnabled p s && inflight (p + 1) s == 0 then
    endCmd c.uid 0 0 (disassemble p s)
  else endCmd c.uid 0x04 0 s

def execDisassemble (r : RingId) (s : State) : Host.Outcome State Fault Refusal :=
  .next (startCmd 0 r.val 0x11 disassembleCmd s)

/-- SET_INFLIGHT (16 R538, R542): the new limit holds from the completion record on; limits that would exceed 496 give RESOURCE, as does a partition that is not assembled
(log entry 25). -/
def setInflightCmd (c : Cmd) (s : State) : State :=
  let p := dF 8 1 c.words
  let n := dF 0x0A 2 c.words
  if assembled p s && decide (n + otherLimits p s ≤ 496) then endCmd c.uid 0 0 s else endCmd c.uid 0x05 0 s

def execSetInflight (r : RingId) (s : State) : Host.Outcome State Fault Refusal :=
  .next (startCmd 0 r.val 0x13 setInflightCmd s)

/-! ### BAR2 (16 R528) -/

/-- The owner of an address as a partition number; 8 = no partition. -/
def bar2Part (a : Nat) (s : State) : Nat := (ownerOfAddr a s).getD 8

/-- The bytes lie in the translation region of their partition. -/
def inTranslation (p a n : Nat) (s : State) : Bool := decide (htRoot p s ≤ a ∧ a + n ≤ htRoot p s + htBytes p s)

/-- The access is not refused. -/
def bar2Ok (fn a n : Nat) (write : Bool) (s : State) : Bool :=
  let p := bar2Part a s
  (cut 32 a n).all (fun x => (place0 x.1 s).isSome && bar2Part x.1 s == p) &&
  (fn == 0 || p == fn - 1) &&
  (!confidential p s || (fn != 0 && write && inTranslation p a n s))

/-- A read of a function through BAR2: the bytes, or a completion with poison (10 R336, R338). -/
def bar2Read (fn p a n : Nat) (s : State) : State :=
  let r : HostOut := if poison0 p a n s then .bar2Poison fn else .bar2 fn (some (load0 p a n s))
  let s := memAsk (hostEngine p) p 0 a n false s
  { s with host := { s.host with out := s.host.out ++ [r] } }

/-- A write through BAR2; memory that is offline takes none of it, and a part of a poisoned granule leaves the poison (10 R336, R338). -/
def bar2Write (p a : Nat) (l : List Byte) (s : State) : State :=
  let out := (cut 32 a l.length).any fun x => offline x.1 s || sliceLost p x.1 s
  memAsk (hostEngine p) p 0 a l.length true (if out then s else store0 p a l s)

/-- Bytes of a function's BAR2, as PCI configuration has sized it (16 R525, R526). -/
def bar2Bytes (fn : Nat) (s : State) : Nat := 2 ^ 30 * 2 ^ (if fn = 0 then s.host.pci.bar2 else s.host.pci.vfBar2)

/-- Bytes that a BAR2 access names. -/
def bar2Len : Bar2Op → Nat
  | .read n => n
  | .write l => l.length

/-- An access to BAR2 at an offset (16 R528). A refused read completes with Unsupported Request, which the function logs. -/
def bar2Access (fn x : Nat) (op : Bar2Op) (s : State) : State :=
  let b := bFunction fn
  let a := getPair b F.FP_BAR2_BASE_LO F.FP_BAR2_BASE_HI s + x
  let p := bar2Part a s
  match op with
  | .read n =>
    if bar2Ok fn a n false s then bar2Read fn p a n s
    else
      let s := logAer fn 20 (addF b F.FP_BAR2_REFUSED 1 s)
      { s with host := { s.host with out := s.host.out ++ [.bar2 fn none] } }
  | .write l => if bar2Ok fn a l.length true s then bar2Write p a l s else addF b F.FP_BAR2_REFUSED 1 s

/-- BAR2_ACCESS: an access past the end of the BAR is none of the function's (16 R526). -/
def execBar2Access (fn : FnId) (x : BitVec 36) (op : Bar2Op) (s : State) : Host.Outcome State Fault Refusal :=
  if !bar2Size op then .refused .illFormed
  else .next (if hostLive s && functionExists fn.val s && decide (x.toNat + bar2Len op ≤ bar2Bytes fn.val s) then
    bar2Access fn.val x.toNat op s
  else s)

end Sys2Proof.Machine
end

