-- ==== Sys2Proof/Machine/Attest.lean ====
section
/-!
DEFINITION. The SPDM responder on the DOE mailboxes and the sealing values of a session (16 R562 to R564; 17 R586). Message
and error codes are those of the SPDM standard; the order of requests too (log entry 28).
-/
namespace Sys2Proof.Machine

def updSpdm (fn : Nat) (f : Spdm → Spdm) (s : State) : State :=
  { s with host := { s.host with spdm := mapPut (fun _ => Spdm.reset) fn (f (spdmOf fn s)) s.host.spdm } }

/-- Longest response that goes out in one message. -/
def spdmMost : Nat := 4096

/-- Sends a response; a longer one waits for CHUNK_GET behind the error LargeResponse. -/
def spdmSay (fn code : Nat) (body : List Byte) (s : State) : State :=
  let s := updSpdm fn (fun d => { d with transcript := d.transcript + 1 }) s
  if body.length ≤ spdmMost then { s with host := { s.host with out := s.host.out ++ [.spdm fn code body] } }
  else
    let s := updSpdm fn (fun d => { d with largeOut := BitVec.ofNat 8 code :: body }) s
    { s with host := { s.host with out := s.host.out ++ [.spdm fn 0x7F [0x0F]] } }

def spdmError (fn : Nat) (e : Byte) (s : State) : State := spdmSay fn 0x7F [e] s

/-- The reeve answers on the function's mailbox: the host reaches the device, the reeve runs its image. -/
def spdmUp (fn : Nat) (s : State) : Bool :=
  hostLive s && functionExists fn s && getF bReeve F.RV_STATE s == 2 && s.reeve.restart.isNone

/-- Answers a request whose predecessors have been answered, else UnexpectedRequest. -/
def spdmAsk (fn : Nat) (ready : Spdm → Bool) (f : State → State) (s : State) : State :=
  if !spdmUp fn s then s else if ready (spdmOf fn s) then f s else spdmError fn 0x04 s

/-- The connection is negotiated. -/
def Spdm.open_ (d : Spdm) : Bool := d.version && d.caps && d.algs
/-- A session is established. -/
def Spdm.secure (d : Spdm) : Bool := d.session.isSome

/-- GET_VERSION: version 1.3 only; the connection starts anew. -/
def getVersion (fn : Nat) : State → State :=
  spdmAsk fn (fun _ => true) fun s =>
    spdmSay fn 0x04 [0x00, 0x01, 0x00, 0x13] (updSpdm fn (fun d => { d with
      version := true, caps := false, algs := false, handshake := none, chunks := [], largeOut := [] }) s)

/-- The capability flags (16 R562, in SPDM's places): certificates, challenge, signed measurements, encryption, authentication, key exchange,
heartbeat, key update, chunks. -/
def spdmFlags : Nat := ([1, 2, 4, 6, 7, 9, 13, 14, 17] : List Nat).foldl (fun n i => n + 2 ^ i) 0

/-- GET_CAPABILITIES: flags, the longest transfer and the longest message. -/
def getCapabilities (fn : Nat) : State → State :=
  spdmAsk fn (fun d => d.version) fun s =>
    spdmSay fn 0x61 (bytesOf 4 spdmFlags ++ bytesOf 4 spdmMost ++ bytesOf 4 (2 ^ 16)) (updSpdm fn (fun d => { d with caps := true }) s)

/-- The selected algorithms (16 R562, in SPDM's numbers): ECDSA P-384, SHA-384, secp384r1, AES-256-GCM, the SPDM key schedule. -/
def spdmAlgs : List Byte := bytesOf 4 128 ++ bytesOf 4 2 ++ bytesOf 2 16 ++ bytesOf 2 2 ++ bytesOf 2 1

/-- NEGOTIATE_ALGORITHMS: `offered` tells whether the requester offers the device's algorithms. -/
def negotiate (fn : Nat) (offered : Bool) : State → State :=
  spdmAsk fn (fun d => d.version && d.caps) fun s =>
    if offered then spdmSay fn 0x63 spdmAlgs (updSpdm fn (fun d => { d with algs := true }) s) else spdmError fn 0x01 s

/-- GET_DIGESTS: slot 0 alone holds a chain. -/
def getDigests (fn : Nat) : State → State :=
  spdmAsk fn Spdm.open_ fun s => spdmSay fn 0x01 (1 :: sha384 Config.certChain) s

/-- GET_CERTIFICATE: a part of the chain of slot 0; the other slots are empty. -/
def getCertificate (fn slot off len : Nat) : State → State :=
  spdmAsk fn Spdm.open_ fun s =>
    if slot = 0 then spdmSay fn 0x02 ((Config.certChain.drop off).take len) s else spdmError fn 0x01 s

/-- CHALLENGE: a signature with the device identity key over the nonce. -/
def challenge (fn slot nonce : Nat) : State → State :=
  spdmAsk fn Spdm.open_ fun s =>
    if slot = 0 then spdmSay fn 0x03 (Config.sign (sha384 (bytesOf 32 nonce)) (spdmOf fn s).transcript) s else spdmError fn 0x01 s

def execGetVersion (fn : FnId) (s : State) : Host.Outcome State Fault Refusal := .next (getVersion fn.val s)

def execGetCapabilities (fn : FnId) (s : State) : Host.Outcome State Fault Refusal := .next (getCapabilities fn.val s)

def execNegotiateAlgorithms (fn : FnId) (offered : Bool) (s : State) : Host.Outcome State Fault Refusal :=
  .next (negotiate fn.val offered s)

def execGetDigests (fn : FnId) (s : State) : Host.Outcome State Fault Refusal := .next (getDigests fn.val s)

def execGetCertificate (fn : FnId) (slot : BitVec 4) (off len : BitVec 16) (s : State) : Host.Outcome State Fault Refusal :=
  .next (getCertificate fn.val slot.toNat off.toNat len.toNat s)

def execChallenge (fn : FnId) (slot : BitVec 4) (nonce : BitVec 256) (s : State) : Host.Outcome State Fault Refusal :=
  .next (challenge fn.val slot.toNat nonce.toNat s)

/-- The measurement of an index (17 R586): SHA-384 over header and body of image i as it runs, 0x10 = the ROM. -/
def measurement (i : Nat) (s : State) : Option (List Byte) :=
  if i = 0x10 then some (sha384 Config.romBytes)
  else if 1 ≤ i ∧ i ≤ 6 then
    (fwSlot i (byImage s.reeve.fw.running i) s).map fun x => sha384 (bytesOf 256 x.header.toNat ++ (imgBody x).getD x.body)
  else none

/-- GET_MEASUREMENTS: index 0 = how many, 0xFF = all, else one block. -/
def getMeasurements (fn index : Nat) : State → State :=
  spdmAsk fn Spdm.open_ fun s =>
    let block (i : Nat) : List Byte := match measurement i s with
      | some m => BitVec.ofNat 8 i :: m
      | none => []
    if index = 0 then spdmSay fn 0x60 [7] s
    else if index = 0xFF then spdmSay fn 0x60 ((([1, 2, 3, 4, 5, 6, 0x10] : List Nat).map block).flatten) s
    else match measurement index s with
      | some _ => spdmSay fn 0x60 (block index) s
      | none => spdmError fn 0x01 s

def execGetMeasurements (fn : FnId) (index : BitVec 8) (s : State) : Host.Outcome State Fault Refusal :=
  .next (getMeasurements fn.val index.toNat s)

/-- KEY_EXCHANGE: opens the handshake of a VF's one session; the PF's mailbox opens none. -/
def keyExchange (fn : Nat) (peer : List Byte) : State → State :=
  spdmAsk fn Spdm.open_ fun s =>
    if fn = 0 then spdmError fn 0x07 s
    else if (spdmOf fn s).secure then spdmError fn 0x0A s
    else
      let k := Config.sessionSecret fn s.free peer
      let s := updSpdm fn (fun d => { d with handshake := some k }) { s with free := s.free + 1 }
      spdmSay fn 0x64 (Config.sign (sha384 peer) (spdmOf fn s).transcript) s

def execKeyExchange (fn : FnId) (peer : List Byte) (s : State) : Host.Outcome State Fault Refusal :=
  .next (keyExchange fn.val peer s)

/-- FINISH: the requester's verify data must match. -/
def finish (fn : Nat) (mac : List Byte) : State → State :=
  spdmAsk fn (fun d => d.handshake.isSome) fun s =>
    let k := (spdmOf fn s).handshake.getD 0
    if mac = Config.finishMac k then
      spdmSay fn 0x65 [] (updSpdm fn (fun d => { d with
        handshake := none, session := some k, heartbeat := s.time, keyGen := 0 }) s)
    else spdmError fn 0x06 (updSpdm fn (fun d => { d with handshake := none }) s)

def execFinish (fn : FnId) (mac : List Byte) (s : State) : Host.Outcome State Fault Refusal := .next (finish fn.val mac s)

/-- A message in the session restarts its heartbeat. -/
def beat (fn : Nat) (s : State) : State := updSpdm fn (fun d => { d with heartbeat := s.time }) s

/-- HEARTBEAT. -/
def heartbeat (fn : Nat) : State → State := spdmAsk fn Spdm.secure fun s => spdmSay fn 0x68 [] (beat fn s)

def execHeartbeat (fn : FnId) (s : State) : Host.Outcome State Fault Refusal := .next (heartbeat fn.val s)

/-- HEARTBEAT_LOST (16 R564): no message for two periods of 10 s (log entry 28). -/
def execHeartbeatLost (fn : FnId) (s : State) : Host.Outcome State Fault Refusal :=
  .next (if (spdmOf fn.val s).secure && decide ((spdmOf fn.val s).heartbeat + 20000000000 ≤ s.time) then endSession fn.val 2 s
  else s)

/-- KEY_UPDATE changes the session's own keys only. -/
def keyUpdate (fn : Nat) : State → State :=
  spdmAsk fn Spdm.secure fun s => spdmSay fn 0x69 [] (updSpdm fn (fun d => { d with keyGen := d.keyGen + 1 }) (beat fn s))

def execKeyUpdate (fn : FnId) (s : State) : Host.Outcome State Fault Refusal := .next (keyUpdate fn.val s)

/-- END_SESSION destroys the sealing values with the session. -/
def leaveSession (fn : Nat) : State → State := spdmAsk fn Spdm.secure fun s => endSession fn 1 (spdmSay fn 0x6C [] s)

def execEndSession (fn : FnId) (s : State) : Host.Outcome State Fault Refusal := .next (leaveSession fn.val s)

/-- Puts the sealing values of the session into use, with every counter at 0 (16 R563): a second KEY_COMMIT of a session derives the
same values. -/
def commitKeys (fn : Nat) (s : State) : State :=
  let secret := Config.exportSecret ((spdmOf fn s).session.getD 0)
  let s := setSeal fn (some ⟨sealKey secret "h2d", sealKey secret "d2h", [], 0⟩) (setRing fn { ringOf fn s with sealed := 0 } s)
  setF (bFunction fn) F.FP_KEYS_LIVE 1 s

/-- KEY_COMMIT: the vendor-defined request with the Tlalivos vendor ID and code 0x01; refused while a ring of the VF is
enabled. -/
def keyCommit (fn : Nat) (vendor : Bool) (code : Nat) : State → State :=
  spdmAsk fn Spdm.secure fun s =>
    if !vendor || code != 1 then spdmError fn 0x07 s
    else if ringsOn (bFunction fn) s then spdmError fn 0x01 s
    else spdmSay fn 0x7E [1] (commitKeys fn (beat fn s))

def execKeyCommit (fn : FnId) (vendor : Bool) (code : BitVec 8) (s : State) : Host.Outcome State Fault Refusal :=
  .next (keyCommit fn.val vendor code.toNat s)

/-- A request by its bytes, as SPDM 1.3 lays it out (log entry 28): version, code, two parameters, then by code. -/
def spdmRequest (fn : Nat) (m : List Byte) (s : State) : State :=
  match leAt m 1 1 with
  | 0x84 => getVersion fn s
  | 0xE1 => getCapabilities fn s
  | 0xE3 => negotiate fn (bit 7 (leAt m 8 4) && bit 1 (leAt m 12 4)) s
  | 0x81 => getDigests fn s
  | 0x82 => getCertificate fn (leAt m 2 1 % 16) (leAt m 4 2) (leAt m 6 2) s
  | 0x83 => challenge fn (leAt m 2 1 % 16) (leAt m 4 32) s
  | 0xE0 => getMeasurements fn (leAt m 3 1) s
  | 0xE4 => keyExchange fn ((m.drop 40).take 96) s
  | 0xE5 => finish fn (m.drop 4) s
  | 0xE8 => heartbeat fn s
  | 0xE9 => keyUpdate fn s
  | 0xEC => leaveSession fn s
  | 0xFE => keyCommit fn (decide (leAt m 4 2 = 3 ∧ leAt m 6 1 = 2 ∧ leAt m 7 2 = Config.vendorId)) (leAt m 11 1) s
  | _ => spdmError fn 0x07 s

/-- The bytes of an SPDM response. -/
def spdmBytes : HostOut → List Byte
  | .spdm _ code body => BitVec.ofNat 8 code :: body
  | _ => []

/-- The last part of a large request has come: the request is carried out, and its response goes back in the acknowledgement. -/
def runChunks (fn n : Nat) (m : List Byte) (s : State) : State :=
  let t := spdmRequest fn m (updSpdm fn (fun d => { d with chunks := [] }) s)
  let said := t.host.out.drop s.host.out.length
  let other := said.filter fun o => (spdmBytes o).isEmpty
  spdmSay fn 0x05 (BitVec.ofNat 8 n :: said.flatMap spdmBytes) { t with host := { t.host with out := s.host.out ++ other } }

/-- CHUNK_SEND: keeps the parts of a large request until its last, and then carries it out. -/
def execChunkSend (fn : FnId) (part : List Byte) (last : Bool) (s : State) : Host.Outcome State Fault Refusal :=
  .next (spdmAsk fn.val (fun d => d.version && d.caps) (fun s =>
    let l := (spdmOf fn.val s).chunks
    if last then runChunks fn.val l.length (l.flatten ++ part) s
    else spdmSay fn.val 0x05 [BitVec.ofNat 8 l.length] (updSpdm fn.val (fun d => { d with chunks := d.chunks ++ [part] }) s)) s)

/-- CHUNK_GET: the next part of a large response. -/
def execChunkGet (fn : FnId) (s : State) : Host.Outcome State Fault Refusal :=
  .next (spdmAsk fn.val (fun d => !d.largeOut.isEmpty) (fun s =>
    let l := (spdmOf fn.val s).largeOut
    spdmSay fn.val 0x06 (l.take spdmMost) (updSpdm fn.val (fun d => { d with largeOut := l.drop spdmMost }) s)) s)

end Sys2Proof.Machine
end

