-- ==== Sys2Proof/Machine/Service.lean ====
section
/-!
DEFINITION. The service port (17 R575 to R580): addresses, sensors and effecters, ledger reads, firmware updates (17 R594 to
R598, R600); the reeve's lockstep (17 R572 to R574); locks held too long (18 R615). PLDM command and response codes are
those of the PLDM standards (log entry 29).
-/
namespace Sys2Proof.Machine

/-! ### The port -/

/-- The reeve answers on the service port: power is there and its cores do not restart. -/
def serviceUp (s : State) : Bool := (s.power.supply == .on || s.power.supply == .dead) && s.reeve.restart.isNone
def isDead (s : State) : Bool := s.power.supply == .dead

/-- I3C_ADDRESS_ASSIGN (17 R575): SETDASA gives the static address 0x40 + SLOT_ID, ENTDAA the address on the bus. -/
def execI3cAddressAssign (dynamic : Option (BitVec 7)) (s : State) : Host.Outcome State Fault Refusal :=
  let a := match dynamic with
    | none => 0x40 + getF bReeve F.RV_SLOT_ID s
    | some x => x.toNat
  .next (if serviceUp s then { s with reeve := { s.reeve with i3c := some a } } else s)

/-- An answer to an MCTP control message: its command and its body, of which the first byte is the completion code (log entry 29). -/
def controlOut (cmd : Nat) (body : List Byte) (s : State) : State :=
  { s with host := { s.host with out := s.host.out ++ [.control cmd body] } }

/-- SET_ENDPOINT_ID (17 R575): an MCTP control message of the bus owner. The one message type above MCTP is PLDM. -/
def execSetEndpointId (m : MctpRequest) (s : State) : Host.Outcome State Fault Refusal :=
  .next (if !serviceUp s then s
    else match m with
      | .setEid eid => controlOut 0x01 [0, 0, eid, 0] { s with reeve := { s.reeve with eid := eid.toNat } }
      | .getEid => controlOut 0x02 [0, BitVec.ofNat 8 s.reeve.eid, 0, 0] s
      | .getVersion => controlOut 0x04 [0, 1, 0xF1, 0xF0, 0xFF, 0] s
      | .getTypes => controlOut 0x05 [0, 1, 1] s)

/-! ### Sensors and effecters (17 R576 to R579) -/

/-- The value of a sensor and the bytes it takes; none = no such sensor. The temperatures of the commons and edge dies
have no register: free values. -/
def sensorValue (id : Nat) (s : State) : Option (Nat × Nat) :=
  let v := if isDead s then s.power.mv / 10 else getF bWell F.WELL_BUS_V s
  let i := if isDead s then s.power.ma / 250 else getF bWell F.WELL_BUS_I s
  if id = 0x0001 then some (2, v)
  else if id = 0x0002 then some (2, i)
  else if id = 0x0003 then some (2, v * i / 400)
  else if id = 0x0004 then some (2, getF bWell F.WELL_PBAR_W s)
  else if id = 0x0005 then some (4, getPair bWell F.WELL_ENERGY_LO F.WELL_ENERGY_HI s / 1000)
  else if id = 0x0010 then some (1, getF bThermal F.TH_HOTTEST s)
  else if 0x0011 ≤ id ∧ id ≤ 0x0020 then some (1, getF (bHbm (id - 0x11)) F.HB_TEMP s)
  else if 0x0021 ≤ id ∧ id ≤ 0x002C then some (1, getF (bDdr (id - 0x21)) F.MC_TEMP s)
  else if 0x002D ≤ id ∧ id ≤ 0x002F then some (1, Config.freeValue s.free % 256)
  else if id = 0x0030 then some (1, if flag bThermal F.TH_STALE s then 45 else getF bThermal F.TH_T_IN s)
  else if id = 0x0040 then some (1, getF bReeve F.RV_STATE s)
  else if id = 0x0041 then some (1, getF bDevice F.DEV_FREE_SPARES s)
  else if id = 0x0042 then some (4, getF bRepair F.REP_RETIRED s)
  else none

/-- Sensors that the recovery responder serves (17 R600). -/
def servedWhenDead (id : Nat) : Bool := decide (1 ≤ id ∧ id ≤ 3) || id == 0x40

/-- The reading of a sensor (17 R576, R600). -/
def sensorReading (n : Nat) (s : State) : State :=
  match (if isDead s && !servedWhenDead n then none else sensorValue n s) with
  | some (k, v) =>
    let s := if 0x002D ≤ n ∧ n ≤ 0x002F then { s with free := s.free + 1 } else s
    mctpOut 2 0x11 (0 :: bytesOf k v) s
  | none => mctpOut 2 0x11 [0x80] s

/-- An effecter is served: not in the dead-to-host state (17 R600). -/
def effecterUp (s : State) : Bool := serviceUp s && !isDead s

/-- The setting of an effecter; none = no such effecter. -/
def effecterValue (id : Nat) (s : State) : Option Nat :=
  if id = 0x0101 then some (getF bWell F.WELL_CAP_W s)
  else if id = 0x0102 then some 0
  else if id = 0x0103 then some (getF bThermal F.TH_REPLAN_REQ s)
  else if id = 0x0104 then some (getF bReeve F.RV_COOLANT_SENSOR s)
  else none

/-- What reads an effecter: GetNumericEffecterValue. -/
def effecterReading (n : Nat) (s : State) : State :=
  match effecterValue n s with
  | some v => mctpOut 2 0x32 (0 :: bytesOf 2 v) s
  | none => mctpOut 2 0x32 [0x80] s

/-- What a record of the PDR repository describes. -/
inductive PdrKind where
  | sensor | stateSensor | effecter
deriving DecidableEq, Repr

/-- A record of the PDR repository (17 R576): the ID, the unit of one step as PLDM numbers units, the step in thousandths of it, and the update period
in ms, 0 where it is "on change" or "on write". -/
structure Pdr where
  id : Nat
  kind : PdrKind
  unit : Nat
  step : Nat
  period : Nat
deriving DecidableEq, Repr

/-- The repository: the sensors and effecters of the table, and no others (17 R576; unit codes: log entry 29). -/
def pdrs : List Pdr :=
  [⟨0x0001, .sensor, 5, 10, 1⟩, ⟨0x0002, .sensor, 6, 250, 1⟩, ⟨0x0003, .sensor, 7, 1000, 1⟩, ⟨0x0004, .sensor, 7, 1000, 1⟩,
   ⟨0x0005, .sensor, 8, 1000, 1000⟩, ⟨0x0010, .sensor, 2, 1000, 10⟩] ++
  ((rangeFrom 0x0011 28).map fun i => ⟨i, .sensor, 2, 1000, 1⟩) ++
  ((rangeFrom 0x002D 3).map fun i => ⟨i, .sensor, 2, 1000, 10⟩) ++
  [⟨0x0030, .sensor, 2, 1000, 1000⟩, ⟨0x0040, .stateSensor, 0, 1000, 0⟩, ⟨0x0041, .sensor, 67, 1000, 0⟩,
   ⟨0x0042, .sensor, 67, 1000, 0⟩, ⟨0x0101, .effecter, 7, 1000, 0⟩, ⟨0x0102, .effecter, 0, 1000, 0⟩,
   ⟨0x0103, .effecter, 0, 1000, 0⟩, ⟨0x0104, .effecter, 0, 1000, 0⟩]

/-- The bytes of a record (log entry 29). -/
def pdrBytes (r : Pdr) : List Byte :=
  (match r.kind with | .sensor => 2 | .stateSensor => 4 | .effecter => 9) :: bytesOf 2 r.id ++ bytesOf 1 r.unit ++ bytesOf 4 r.step ++
    bytesOf 4 r.period

/-- A record by its handle, 1 for the first; with the handle of the next one, 0 for none. -/
def pdrReading (handle : Nat) (s : State) : State :=
  let h := max 1 handle
  match pdrs[h - 1]? with
  | some r => mctpOut 2 0x51 (0 :: bytesOf 4 (if h < pdrs.length then h + 1 else 0) ++ bytesOf 4 h ++ pdrBytes r) s
  | none => mctpOut 2 0x51 [0x82] s

/-- The commands that the device serves of a PLDM type (17 R575 to R598; log entry 29). -/
def pldmCommands (type : Nat) : List Nat :=
  if type = 0 then [1, 2, 3, 4, 5] else if type = 2 then [0x11, 0x31, 0x32, 0x50, 0x51]
  else if type = 5 then [0x10, 0x14, 0x16, 0x17, 0x18, 0x1A] else if type = 0x3F then [1] else []

/-- A set of numbers as bits. -/
def bitmapOf (l : List Nat) : Nat := l.foldl (fun n i => n + 2 ^ i) 0

/-- The base commands, which answer in the dead-to-host state too (17 R575, R600). -/
def pldmBase (r : PldmRequest) (s : State) : State :=
  match r with
  | .getTid => mctpOut 0 0x02 [0, BitVec.ofNat 8 s.reeve.tid] s
  | .setTid tid => mctpOut 0 0x01 [0] { s with reeve := { s.reeve with tid := tid.toNat } }
  | .getTypes => mctpOut 0 0x04 (0 :: bytesOf 8 (bitmapOf [0, 2, 5, 0x3F])) s
  | .getVersion t =>
    if (pldmCommands t.toNat).isEmpty then mctpOut 0 0x03 [0x83] s
    else mctpOut 0 0x03 ([0] ++ bytesOf 4 0 ++ [5, 0, 0xF0, 0xF0, 0xF1]) s
  | .getCommands t =>
    if (pldmCommands t.toNat).isEmpty then mctpOut 0 0x05 [0x83] s
    else mctpOut 0 0x05 (0 :: bytesOf 32 (bitmapOf (pldmCommands t.toNat))) s
  | _ => s

/-- GET_SENSOR_READING (17 R575, R576, R600): what reads over PLDM. Effecters and the repository are not served in the dead-to-host state. -/
def execGetSensorReading (r : PldmRequest) (s : State) : Host.Outcome State Fault Refusal :=
  .next (if !serviceUp s then s
    else match r with
      | .sensor id => sensorReading id.toNat s
      | .effecter id => if isDead s then s else effecterReading id.toNat s
      | .pdrInfo => if isDead s then s else mctpOut 2 0x50 ([0, 0] ++ bytesOf 4 pdrs.length) s
      | .pdr h => if isDead s then s else pdrReading h.toNat s
      | r => pldmBase r s)

/-- Answers SetNumericEffecterValue. -/
def effecterDone (ok : Bool) (s : State) : State := mctpOut 2 0x31 [if ok then 0 else 0x80] s

/-- CAP_EFFECTER_WRITE (17 R576): CAP_W. -/
def execCapEffecterWrite (v : BitVec 16) (s : State) : Host.Outcome State Fault Refusal :=
  .next (if effecterUp s then
    effecterDone true (regWrite ⟨.reeve, bWell, F.WELL_CAP_W.off, v.toNat, 0xFFFF⟩ s) else s)

/-- RESET_EFFECTER_WRITE (17 R577): a device reset, only while the reeve's state is running. -/
def execResetEffecterWrite (v : BitVec 16) (s : State) : Host.Outcome State Fault Refusal :=
  .next (if effecterUp s then
    (if v = 1 ∧ getF bReeve F.RV_STATE s = 2 then deviceReset 6 (effecterDone true s) else effecterDone false s)
  else s)

/-- REPLAN_EFFECTER_WRITE (17 R576): REPLAN_REQ. -/
def execReplanEffecterWrite (v : BitVec 16) (s : State) : Host.Outcome State Fault Refusal :=
  .next (if effecterUp s then
    (if v = 1 then effecterDone true (regWrite ⟨.reeve, bThermal, F.TH_REPLAN_REQ.off, 1, 1⟩ s) else effecterDone false s)
  else s)

/-- COOLANT_SENSOR_WRITE (17 R579): COOLANT_SENSOR, kept in the permanent area; 0 removes the sensor. -/
def execCoolantSensorWrite (v : BitVec 16) (s : State) : Host.Outcome State Fault Refusal :=
  .next (if effecterUp s then effecterDone true (setPerm bReeve F.RV_COOLANT_SENSOR v.toNat s) else s)

/-! ### Ledger reads (17 R585) -/

/-- The entries held from a sequence number on, consecutive, at most `n`. -/
def entriesFrom (seq : Nat) : Nat → State → List JEntry
  | 0, _ => []
  | n + 1, s => match entryOf seq s with | some e => e :: entriesFrom (seq + 1) n s | none => []

/-- READ_LEDGER (17 R575, R585): up to 16 entries; not served in the dead-to-host state (17 R600). -/
def execReadLedger (seq : BitVec 64) (count : Fin 17) (s : State) : Host.Outcome State Fault Refusal :=
  .next (if effecterUp s then
    mctpOut 0x3F 0x01 (bytesOf 4 Config.ianaNumber ++ (entriesFrom seq.toNat count.val s).flatMap entryBytes) s else s)

/-! ### Updates (17 R594 to R598) -/

/-- Answers of PLDM type 5. -/
def updateSay (cmd : Nat) (body : List Byte) (s : State) : State := mctpOut 5 cmd body s

/-- REQUEST_UPDATE (17 R598): an update begins; an activation that waits is withdrawn. -/
def execRequestUpdate (s : State) : Host.Outcome State Fault Refusal :=
  .next (if serviceUp s then
    let s := if flag bReeve F.RV_PENDING s then
        setF bReeve F.RV_PENDING 0 (updFw (fun f => { f with selected := f.running, group := f.groupBefore, fresh := false }) s)
      else s
    let s := updFw (fun f => { endUpdate f with updating := true }) s
    updateSay 0x10 [0] (setF bReeve F.RV_UPDATING 1 s)
  else s)

/-- UPDATE_COMPONENT (17 R595, R600): components come in ascending transfer order; the recovery responder does not ask
for the order. -/
def execUpdateComponent (code : BitVec 16) (s : State) : Host.Outcome State Fault Refusal :=
  let i := code.toNat
  let f := s.reeve.fw
  .next (if !serviceUp s then s
    else if !f.updating then updateSay 0x14 [0x81] s
    else if transferOrder i = 0 ∨ (isDead s = false ∧ transferOrder i ≤ f.last) then updateSay 0x14 [0, 1, 0xD0] s
    else updateSay 0x14 [0, 0, 0] (updFw (fun f => { f with current := i, last := transferOrder i }) s))

/-- COMPONENT_TRANSFER_DONE (17 R594, R596, R600): the component accepted last has come, with this header and
this body. It lies in the slot that the permanent area does not select; in the dead-to-host state `slotB` says which
slot. Verify applies every check but 0x06, Apply records the slot as staged. -/
def execComponentTransferDone (header : Flit) (body : List Byte) (slotB : Bool) (s : State) :
    Host.Outcome State Fault Refusal :=
  let i := s.reeve.fw.current
  let b := if isDead s then bitOf slotB else 1 - byImage s.reeve.fw.selected i
  .next (if !serviceUp s ∨ i = 0 then s
    else
      let k := 2 * i + b
      let s := updFw (fun f => { f with
        slots := mapPut factorySlot k (some ⟨header, body⟩) f.slots, current := 0
        staged := f.staged.filter fun x => x != k }) s
      let s := updateSay 0x16 [0] (fwNote 1 1 i b 0 0 s)
      match failedCheck i b none s with
      | some c => updateSay 0x17 [BitVec.ofNat 8 (0x90 + c)] (recordFail i b c s)
      | none => updateSay 0x18 [0] (updateSay 0x17 [0] (updFw (fun f => { f with staged := f.staged ++ [k] }) s)))

/-- The candidate set of an activation (17 R597). -/
def activationSet (f : Firmware) : List Nat := f.staged.foldl (fun l k => putImage l (k / 2) (k % 2)) f.selected

/-- ACTIVATE_FIRMWARE (17 R597, R600): a compatible set is selected as one activation group and waits for the next reset;
in the dead-to-host state the device goes on to power-on. Otherwise nothing changes. -/
def execActivateFirmware (s : State) : Host.Outcome State Fault Refusal :=
  let f := s.reeve.fw
  let set := activationSet f
  .next (if !serviceUp s then s
    else if !f.updating || f.staged.isEmpty then updateSay 0x1A [0x81] s
    else if !compatible set s then updateSay 0x1A [0x86] s
    else
      let s := updFw (fun f => { endUpdate f with
        selected := set, group := (f.staged.map fun k => k / 2).eraseDups, groupBefore := f.group, fresh := true }) s
      let s := updateSay 0x1A [0] (noteGroup 3 1 s.reeve.fw.group (setF bReeve F.RV_UPDATING 0 s))
      if isDead s then { s with power := { s.power with supply := .off } } else setF bReeve F.RV_PENDING 1 s)

/-! ### Lockstep (17 R572 to R574) -/

/-- LOCKSTEP_MISMATCH (17 R572, R574): the reeve's island resets; the third mismatch within an hour stops the device and
leaves it dead to the host. -/
def execLockstepMismatch (s : State) : Host.Outcome State Fault Refusal :=
  let l := s.reeve.mismatches.filter fun t => decide (s.time < t + hourNs)
  .next (if s.power.supply == .off then s
    else if 2 ≤ l.length then
      let s := { s with reeve := { s.reeve with mismatches := [], restart := none } }
      let s := commitAll (journal 0x0E (sourceOf bReeve s) 8 3 (l.length + 1) s)
      orderlyStop 4 s
    else
      let s := { s with reeve := { s.reeve with mismatches := s.time :: l, restart := some s.time, coolAsked := none } }
      updFw endUpdate (setF bReeve F.RV_UPDATING 0 (if isDead s then s else setF bReeve F.RV_STATE 0 s)))

/-- The locks that the reeve holds are free again (17 R572; 18 R615, R621). -/
def freeReeveLocks (s : State) : State :=
  s.lockSince.foldl (fun s e => if getF e.1 F.BLK_HOLDER s = 2 then setLock e.1 0 s else s) s

/-- The reeve starts again from its ROM (17 R590, R591): the REEVE image of the chosen set runs, the other blocks keep theirs; without a valid,
compatible set the device is dead to host (17 R599). -/
def restartReeve (s : State) : State :=
  match chooseSet s with
  | (true, s) =>
    setF bReeve F.RV_STATE (if inReset s then 1 else 2)
      (updFw (fun f => { f with running := putImage f.running 1 (byImage f.selected 1) }) s)
  | (false, s) => deadToHost s

/-- REEVE_RESTART_DONE (17 R572; 18 R621): the reeve runs again, its ledger fields reloaded, and records the mismatch. -/
def execReeveRestartDone (s : State) : Host.Outcome State Fault Refusal :=
  .next (match s.reeve.restart with
    | none => s
    | some _ =>
      let n := s.reeve.mismatches.length
      let s := { s with reeve := { s.reeve with restart := none } }
      let s := showLedger (freeReeveLocks (if isDead s then s else restartReeve s))
      journal 0x0E (sourceOf bReeve s) 8 2 n s)

/-! ### Locks -/

/-- LOCK_TIMEOUT (18 R615): a lock held for 1 ms is released. -/
def execLockTimeout (p : Page) (s : State) : Host.Outcome State Fault Refusal :=
  let b := pageBlock p s
  .next (if getF b F.BLK_HOLDER s ≠ 0 ∧ mapGet (fun _ => 0) s.lockSince b + 10 ^ 6 ≤ s.time then
    addF bDevice F.DEV_LOCK_TIMEOUTS 1 (setLock b 0 s) else s)

end Sys2Proof.Machine
end

