-- ==== Sys2Proof/Machine/Rows.lean ====
section
/-!
DEFINITION. The commands that are writes of one register field: each is `regWrite` of that field's bits, under the access
type, requester, lock and state rules of RegWrite; and REGISTER_WRITE, a write of any size at any offset.
-/
namespace Sys2Proof.Machine

/-- The bits of a field in its register. -/
def fieldMask (f : Field) : Nat := (2 ^ f.width - 1) * 2 ^ f.lo

/-- A write of one field. -/
def fieldWrite (who : Requester) (b : Nat) (f : Field) (v : Nat) (s : State) : State :=
  regWrite ⟨who, b, f.off, v * 2 ^ f.lo, fieldMask f⟩ s

/-- A write of two fields of one register. -/
def fieldWrite2 (who : Requester) (b : Nat) (f : Field) (v : Nat) (g : Field) (u : Nat) (s : State) : State :=
  regWrite ⟨who, b, f.off, v * 2 ^ f.lo + u * 2 ^ g.lo, fieldMask f + fieldMask g⟩ s

/-- A write of a 64-bit pair: the low half waits for the high half (18 R617). -/
def pairWrite (who : Requester) (b : Nat) (lo hi : Field) (v : Nat) (s : State) : State :=
  fieldWrite who b hi (v / 2 ^ 32) (fieldWrite who b lo (v % 2 ^ 32) s)

/-- The block of a croft slot's page. -/
def slotBlock (x : SlotId) (s : State) : Nat := bCroft (physOf x.h.val x.s.val s)

/-! ### Sequencer (03 R101) -/

/-- STOP_WRITE (03 R101, R102). -/
def execStopWrite (who : Requester) (x : SlotId) (stop : Bool) (s : State) : Host.Outcome State Fault Refusal :=
  .next (fieldWrite who (slotBlock x s) F.SEQ_CTRL_STOP (bitOf stop) s)

/-- SEQ_SERVICE_WRITE (03 R99). -/
def execSeqServiceWrite (who : Requester) (x : SlotId) (opened : Bool) (s : State) :
    Host.Outcome State Fault Refusal :=
  .next (fieldWrite who (slotBlock x s) F.SEQ_CTRL_SERVICE (bitOf opened) s)

/-- ABANDON (03 R100). -/
def execAbandon (who : Requester) (x : SlotId) (s : State) : Host.Outcome State Fault Refusal :=
  .next (fieldWrite who (slotBlock x s) F.SEQ_CTRL_ABANDON 1 s)

/-- CLEAR_HALT (03 R101). -/
def execClearHalt (who : Requester) (x : SlotId) (s : State) : Host.Outcome State Fault Refusal :=
  .next (fieldWrite who (slotBlock x s) F.SEQ_CTRL_CLEAR_HALT 1 s)

/-- PURGE (03 R101). -/
def execPurge (who : Requester) (x : SlotId) (s : State) : Host.Outcome State Fault Refusal :=
  .next (fieldWrite who (slotBlock x s) F.SEQ_CTRL_PURGE 1 s)

/-- PURGE_STEP (03 R80, R101). -/
def execPurgeStep (who : Requester) (x : SlotId) (tag : BitVec 16) (s : State) : Host.Outcome State Fault Refusal :=
  .next (fieldWrite2 who (slotBlock x s) F.SEQ_CTRL_PURGE_STEP 1 F.SEQ_CTRL_PURGE_TAG tag.toNat s)

/-- COMMITTED_STEP_WRITE (03 R79). -/
def execCommittedStepWrite (who : Requester) (x : SlotId) (v : BitVec 16) (s : State) :
    Host.Outcome State Fault Refusal :=
  .next (fieldWrite who (slotBlock x s) F.COMMITTED_STEP v.toNat s)

/-- SEQ_CLEAR_COUNTS (03 R101). -/
def execSeqClearCounts (who : Requester) (x : SlotId) (s : State) : Host.Outcome State Fault Refusal :=
  .next (fieldWrite who (slotBlock x s) F.SEQ_CTRL_CLEAR_COUNTS 1 s)

/-! ### Units of a croft -/

/-- GZ_ACC_CLEAR (04 R133). -/
def execGzAccClear (who : Requester) (x : SlotId) (s : State) : Host.Outcome State Fault Refusal :=
  .next (fieldWrite who (slotBlock x s) F.GZ_CTRL_ACC_CLEAR 1 s)

/-- GZ_CLEAR_COUNTS (04 R145). -/
def execGzClearCounts (who : Requester) (x : SlotId) (s : State) : Host.Outcome State Fault Refusal :=
  .next (fieldWrite who (slotBlock x s) F.GZ_CTRL_CLEAR_COUNTS 1 s)

/-- GZ_CLEAR_FAULT (04 R144). -/
def execGzClearFault (who : Requester) (x : SlotId) (s : State) : Host.Outcome State Fault Refusal :=
  .next (fieldWrite who (slotBlock x s) F.GZ_CTRL_CLEAR_FAULT 1 s)

/-- LM_ACC_CLEAR (05 R168). -/
def execLmAccClear (who : Requester) (x : SlotId) (s : State) : Host.Outcome State Fault Refusal :=
  .next (fieldWrite who (slotBlock x s) F.LM_CTRL_ACC_CLEAR 1 s)

/-- LM_CLEAR_COUNTS (05 R184). -/
def execLmClearCounts (who : Requester) (x : SlotId) (s : State) : Host.Outcome State Fault Refusal :=
  .next (fieldWrite who (slotBlock x s) F.LM_CTRL_CLEAR_COUNTS 1 s)

/-- LK_CLEAR_COUNTS (05 R183). -/
def execLkClearCounts (who : Requester) (x : SlotId) (s : State) : Host.Outcome State Fault Refusal :=
  .next (fieldWrite who (slotBlock x s) F.LK_CTRL_CLEAR_COUNTS 1 s)

/-- NUM_CLEAR_COUNTS (06 R216). -/
def execNumClearCounts (who : Requester) (x : SlotId) (s : State) : Host.Outcome State Fault Refusal :=
  .next (fieldWrite who (slotBlock x s) F.NUM_CTRL_CLEAR_COUNTS 1 s)

/-- FN_UNIT_CLEAR_COUNTS (07 R244). -/
def execFnUnitClearCounts (who : Requester) (x : SlotId) (s : State) : Host.Outcome State Fault Refusal :=
  .next (fieldWrite who (slotBlock x s) F.FN_CTRL_CLEAR_COUNTS 1 s)

/-- FN_UNIT_CLEAR_FAULT (07 R243). -/
def execFnUnitClearFault (who : Requester) (x : SlotId) (s : State) : Host.Outcome State Fault Refusal :=
  .next (fieldWrite who (slotBlock x s) F.FN_CTRL_CLEAR_FAULT 1 s)

/-- MV_CLEAR_COUNTS (08 R280). -/
def execMvClearCounts (who : Requester) (x : SlotId) (s : State) : Host.Outcome State Fault Refusal :=
  .next (fieldWrite who (slotBlock x s) F.MV_CTRL_CLEAR_COUNTS 1 s)

/-- MV_CLEAR_FAULT (08 R279). -/
def execMvClearFault (who : Requester) (x : SlotId) (s : State) : Host.Outcome State Fault Refusal :=
  .next (fieldWrite who (slotBlock x s) F.MV_CTRL_CLEAR_FAULT 1 s)

/-- PROBE (09 R295). -/
def execProbe (who : Requester) (x : SlotId) (s : State) : Host.Outcome State Fault Refusal :=
  .next (fieldWrite who (slotBlock x s) F.SP_CTRL_PROBE 1 s)

/-- SP_CLEAR_COUNTS (09 R315). -/
def execSpClearCounts (who : Requester) (x : SlotId) (s : State) : Host.Outcome State Fault Refusal :=
  .next (fieldWrite who (slotBlock x s) F.SP_CTRL_CLEAR_COUNTS 1 s)

/-- UP_CLEAR_COUNTS (09 R315). -/
def execUpClearCounts (who : Requester) (x : SlotId) (s : State) : Host.Outcome State Fault Refusal :=
  .next (fieldWrite who (slotBlock x s) F.UP_CTRL_CLEAR_COUNTS 1 s)

/-- UP_CLEAR_FAULT (09 R314). -/
def execUpClearFault (who : Requester) (x : SlotId) (s : State) : Host.Outcome State Fault Refusal :=
  .next (fieldWrite who (slotBlock x s) F.UP_CTRL_CLEAR_FAULT 1 s)

/-- SH_CLEAR_COUNTS (11 R385). -/
def execShClearCounts (who : Requester) (x : SlotId) (s : State) : Host.Outcome State Fault Refusal :=
  .next (fieldWrite who (slotBlock x s) F.SH_CTRL_CLEAR_COUNTS 1 s)

/-- CLEAR_RATES (11 R353). -/
def execClearRates (who : Requester) (x : SlotId) (s : State) : Host.Outcome State Fault Refusal :=
  .next (fieldWrite who (slotBlock x s) F.SH_CTRL_CLEAR_RATES 1 s)

/-- POINT_REQ_WRITE (15 R505). -/
def execPointReqWrite (who : Requester) (x : SlotId) (v : BitVec 3) (s : State) : Host.Outcome State Fault Refusal :=
  .next (fieldWrite who (slotBlock x s) F.CP_CTRL_POINT_REQ v.toNat s)

/-- CROFT_POWER_CLEAR_COUNTS (15 R524). -/
def execCroftPowerClearCounts (who : Requester) (x : SlotId) (s : State) : Host.Outcome State Fault Refusal :=
  .next (fieldWrite who (slotBlock x s) F.CP_CTRL_CLEAR_COUNTS 1 s)

/-! ### Memory -/

/-- HBM_CLEAR_COUNTS (10 R344). -/
def execHbmClearCounts (who : Requester) (h : HamletId) (s : State) : Host.Outcome State Fault Refusal :=
  .next (fieldWrite who (bHbm h.val) F.HB_CLEAR_COUNTS 1 s)

/-- The page of a DDR5 channel or CXL port. -/
def chanPage : ChanId → Nat
  | .ddr c => bDdr c.val
  | .cxl x => bCxl x.val

/-- CHANNEL_CLEAR_COUNTS (10 R344). -/
def execChannelClearCounts (who : Requester) (c : ChanId) (s : State) : Host.Outcome State Fault Refusal :=
  .next (fieldWrite who (chanPage c) F.MC_CLEAR_COUNTS 1 s)

/-- MAP_APPLY (10 R322). -/
def execMapApply (who : Requester) (s : State) : Host.Outcome State Fault Refusal :=
  .next (fieldWrite who bMemMap F.MAP_APPLY 1 s)

/-- KEY_GENERATE (10 R341): the reeve writes MAP_KEY. -/
def execKeyGenerate (p : PartId) (s : State) : Host.Outcome State Fault Refusal :=
  .next (fieldWrite2 .reeve bMemMap F.MAP_KEY_PART p.val F.MAP_KEY_GENERATE 1 s)

/-- KEY_DESTROY (10 R341): the reeve writes MAP_KEY. -/
def execKeyDestroy (p : PartId) (s : State) : Host.Outcome State Fault Refusal :=
  .next (fieldWrite2 .reeve bMemMap F.MAP_KEY_PART p.val F.MAP_KEY_DESTROY 1 s)

/-- A write of OWNER: partition and whether it is assigned. -/
def ownerFieldWrite (who : Requester) (b : Nat) (p : PartId) (assigned : Bool) (s : State) : State :=
  fieldWrite2 who b F.BLK_PART p.val F.BLK_ASSIGNED (bitOf assigned) s

/-- GRANARY_MODE_WRITE (11 R364): a write of a slice's MODE, or of its OWNER. -/
def execGranaryModeWrite (who : Requester) (i : SliceId) (w : SliceWrite) (s : State) :
    Host.Outcome State Fault Refusal :=
  .next (match w with
    | .mode m => fieldWrite who (bSlice i.val) F.GR_MODE m.toNat s
    | .owner p a => ownerFieldWrite who (bSlice i.val) p a s)

/-- GRANARY_FLUSH (11 R364). -/
def execGranaryFlush (who : Requester) (i : SliceId) (s : State) : Host.Outcome State Fault Refusal :=
  .next (fieldWrite who (bSlice i.val) F.GR_FLUSH 1 s)

/-- GRANARY_INVALIDATE (11 R386). -/
def execGranaryInvalidate (who : Requester) (i : SliceId) (s : State) : Host.Outcome State Fault Refusal :=
  .next (fieldWrite who (bSlice i.val) F.GR_INVALIDATE 1 s)

/-- GRANARY_CLEAR_COUNTS (11 R386). -/
def execGranaryClearCounts (who : Requester) (i : SliceId) (s : State) : Host.Outcome State Fault Refusal :=
  .next (fieldWrite who (bSlice i.val) F.GR_CLEAR_COUNTS 1 s)

/-! ### Tallies, mill, ports -/

/-- TALLY_MAP_WRITE (12 R391): the entry that TL_MAP_SEL selects. -/
def execTallyMapWrite (who : Requester) (phys : BitVec 14) (valid : Bool) (s : State) :
    Host.Outcome State Fault Refusal :=
  .next (fieldWrite2 who bTally F.TL_MAP_DATA_PHYS phys.toNat F.TL_MAP_DATA_VALID (bitOf valid) s)

/-- TALLY_RESET (12 R408). -/
def execTallyReset (who : Requester) (phys : BitVec 14) (s : State) : Host.Outcome State Fault Refusal :=
  .next (fieldWrite2 who bTally F.TL_RESET_PHYS phys.toNat F.TL_RESET_GO 1 s)

/-- TALLY_CLEAR_COUNTS (12 R409). -/
def execTallyClearCounts (who : Requester) (s : State) : Host.Outcome State Fault Refusal :=
  .next (fieldWrite who bTally F.TL_CLEAR_COUNTS 1 s)

/-- TALLY_CLEAR_FAULT (12 R408). -/
def execTallyClearFault (who : Requester) (s : State) : Host.Outcome State Fault Refusal :=
  .next (fieldWrite who bTally F.TL_CLEAR_FAULT 1 s)

/-- MILL_CLEAR_COUNTS (13 R460). -/
def execMillClearCounts (who : Requester) (s : State) : Host.Outcome State Fault Refusal :=
  .next (fieldWrite who bMill F.ML_CLEAR_COUNTS 1 s)

/-- PORT_CLEAR_COUNTS (13 R460). -/
def execPortClearCounts (who : Requester) (v : PortId) (s : State) : Host.Outcome State Fault Refusal :=
  .next (fieldWrite who (bPort v.val) F.VP_CLEAR_COUNTS 1 s)

/-- JOB_ENABLE (13 R446): a write of a job's ENABLE. -/
def execJobEnable (who : Requester) (p : PartId) (on : Bool) (s : State) : Host.Outcome State Fault Refusal :=
  .next (fieldWrite who bMill (F.ML_JOB_ENABLE.at p.val) (bitOf on) s)

/-- REBUILD_CLEAR (14 R482). -/
def execRebuildClear (who : Requester) (p : PartId) (s : State) : Host.Outcome State Fault Refusal :=
  .next (fieldWrite who bMill (F.ML_PAR_REBUILD_CLEAR.at p.val) 1 s)

/-- FAIL_ADD (14 R478). -/
def execFailAdd (who : Requester) (p : PartId) (s : State) : Host.Outcome State Fault Refusal :=
  .next (fieldWrite who bMill (F.ML_PAR_FAIL_ADD.at p.val) 1 s)

/-- PARITY_CLEAR_COUNTS (14 R489). -/
def execParityClearCounts (who : Requester) (p : PartId) (s : State) : Host.Outcome State Fault Refusal :=
  .next (fieldWrite who bMill (F.ML_PAR_CLEAR_COUNTS.at p.val) 1 s)

/-! ### Repair, well, thermal, device, host interface, dies -/

/-- A write of the repair page's KIND, INDEX and ACTION. -/
def repairWrite (who : Requester) (kind : BitVec 4) (index : BitVec 10) (action : Nat) (s : State) : State :=
  regWrite ⟨who, bRepair, F.REP_KIND.off, kind.toNat + index.toNat * 2 ^ 4 + action * 2 ^ 14, 0xFFFF⟩ s

/-- REP_FENCE (14 R485). -/
def execRepFence (who : Requester) (kind : BitVec 4) (index : BitVec 10) (s : State) :
    Host.Outcome State Fault Refusal :=
  .next (repairWrite who kind index 1 s)

/-- REP_SELF_TEST (14 R485). -/
def execRepSelfTest (who : Requester) (kind : BitVec 4) (index : BitVec 10) (s : State) :
    Host.Outcome State Fault Refusal :=
  .next (repairWrite who kind index 2 s)

/-- REP_RETURN (14 R487). -/
def execRepReturn (who : Requester) (kind : BitVec 4) (index : BitVec 10) (s : State) :
    Host.Outcome State Fault Refusal :=
  .next (repairWrite who kind index 3 s)

/-- WELL_CLEAR_COUNTS (15 R524). -/
def execWellClearCounts (who : Requester) (s : State) : Host.Outcome State Fault Refusal :=
  .next (fieldWrite who bWell F.WELL_CLEAR_COUNTS 1 s)

/-- REPLAN_REQ (15 R518). -/
def execReplanReq (who : Requester) (s : State) : Host.Outcome State Fault Refusal :=
  .next (fieldWrite who bThermal F.TH_REPLAN_REQ 1 s)

/-- DEVICE_CLEAR_COUNTS (18 R626). -/
def execDeviceClearCounts (who : Requester) (s : State) : Host.Outcome State Fault Refusal :=
  .next (fieldWrite who bDevice F.DEV_CLEAR_COUNTS 1 s)

/-- HOST_IF_CLEAR_COUNTS (18 R626). -/
def execHostIfClearCounts (who : Requester) (s : State) : Host.Outcome State Fault Refusal :=
  .next (fieldWrite who bHostIf F.HI_CLEAR_COUNTS 1 s)

/-- DIE_CLEAR_COUNTS (18 R626): dies 0 to 3, then the edge dies. -/
def execDieClearCounts (who : Requester) (d : Fin 6) (s : State) : Host.Outcome State Fault Refusal :=
  .next (fieldWrite who (bDie d.val) F.DIE_CLEAR_COUNTS 1 s)

/-! ### Function pages -/

/-- EV_ENABLE_WRITE (16 R547, R569). -/
def execEvEnableWrite (who : Requester) (fn : FnId) (on : Bool) (s : State) : Host.Outcome State Fault Refusal :=
  .next (fieldWrite who (bFunction fn.val) F.FP_EV_ENABLE (bitOf on) s)

/-- RING_ENABLE_WRITE (16 R535, R569). -/
def execRingEnableWrite (who : Requester) (fn : FnId) (r : RingId) (on : Bool) (s : State) :
    Host.Outcome State Fault Refusal :=
  .next (fieldWrite who (bFunction fn.val) (F.FP_ENABLE.at r.val) (bitOf on) s)

/-- LAST_COMMITTED_WRITE (16 R569). -/
def execLastCommittedWrite (who : Requester) (fn : FnId) (v : BitVec 64) (s : State) :
    Host.Outcome State Fault Refusal :=
  .next (pairWrite who (bFunction fn.val) F.FP_LAST_COMMITTED_LO F.FP_LAST_COMMITTED_HI v.toNat s)

/-- CLEAR_ERR (16 R569). -/
def execClearErr (who : Requester) (fn : FnId) (s : State) : Host.Outcome State Fault Refusal :=
  .next (fieldWrite who (bFunction fn.val) F.FP_CLEAR_ERR 1 s)

/-- FN_PAGE_CLEAR_COUNTS (16 R570). -/
def execFnPageClearCounts (who : Requester) (fn : FnId) (s : State) : Host.Outcome State Fault Refusal :=
  .next (fieldWrite who (bFunction fn.val) F.FP_CLEAR_COUNTS 1 s)

/-! ### The reeve page -/

/-- LG_SELECT_WRITE (17 R585). -/
def execLgSelectWrite (who : Requester) (seq : BitVec 64) (s : State) : Host.Outcome State Fault Refusal :=
  .next (pairWrite who bReeve F.RV_LG_SELECT_LO F.RV_LG_SELECT_HI seq.toNat s)

/-- RV_REQ_GENERATE (17 R571). -/
def execRvReqGenerate (who : Requester) (p : PartId) (s : State) : Host.Outcome State Fault Refusal :=
  .next (fieldWrite2 who bReeve F.RV_REQ_OP 1 F.RV_REQ_ARG p.val s)

/-- RV_REQ_DESTROY (17 R571). -/
def execRvReqDestroy (who : Requester) (p : PartId) (s : State) : Host.Outcome State Fault Refusal :=
  .next (fieldWrite2 who bReeve F.RV_REQ_OP 2 F.RV_REQ_ARG p.val s)

/-! ### Croft map, ownership, locks, faults (18) -/

/-- CROFT_MAP_WRITE (18 R624): a write of PHYS of a slot. -/
def execCroftMapWrite (who : Requester) (x : SlotId) (phys : BitVec 6) (s : State) :
    Host.Outcome State Fault Refusal :=
  .next (fieldWrite who (bHamlet x.h.val) (F.HAM_PHYS.at x.s.val) phys.toNat s)

/-- OWNER_WRITE (18 R611). -/
def execOwnerWrite (who : Requester) (page : Page) (p : PartId) (assigned : Bool) (s : State) :
    Host.Outcome State Fault Refusal :=
  .next (ownerFieldWrite who (pageBlock page s) p assigned s)

/-- The code a requester writes to take a lock; the dispatch core has none and writes an unused one. -/
def takeCode : Requester → Nat
  | .control => 1
  | .reeve => 2
  | .host _ => 3
  | .dispatch => 4

/-- LOCK_TAKE (18 R613). -/
def execLockTake (who : Requester) (page : Page) (s : State) : Host.Outcome State Fault Refusal :=
  .next (fieldWrite who (pageBlock page s) F.BLK_HOLDER (takeCode who) s)

/-- LOCK_RELEASE (18 R613). -/
def execLockRelease (who : Requester) (page : Page) (s : State) : Host.Outcome State Fault Refusal :=
  .next (fieldWrite who (pageBlock page s) F.BLK_HOLDER 0 s)

/-- BLOCK_CLEAR_FAULT (18 R609). -/
def execBlockClearFault (who : Requester) (page : Page) (s : State) : Host.Outcome State Fault Refusal :=
  .next (fieldWrite who (pageBlock page s) F.BLK_CLEAR_FAULT 1 s)

/-- SEEN_CLEAR (18 R609): clears the bits of SEEN written as 1. -/
def execSeenClear (who : Requester) (page : Page) (bitmap : BitVec 5) (s : State) :
    Host.Outcome State Fault Refusal :=
  .next (fieldWrite who (pageBlock page s) F.BLK_SEEN bitmap.toNat s)

/-! ### REGISTER_WRITE (00 R12, R13; 16 R525; 18 R616) -/

/-- A PCI configuration write of SR-IOV (16 R525, 18 R623): NumVFs in the low four bits, VF Enable in bit 4. A
NumVFs above 8 is not taken; each VF that goes away is reset (16 R556). -/
def sriovWrite (v : Nat) (s : State) : State :=
  let was := flag bHostIf F.HI_VF_ENABLE s
  let before := if was then getF bHostIf F.HI_NUM_VFS s else 0
  let n := if 8 < bits 0 4 v then getF bHostIf F.HI_NUM_VFS s else bits 0 4 v
  let now := if bit 4 v then n else 0
  let s := (List.range 8).foldl (fun s p => if now ≤ p ∧ p < before then functionReset p s else s) s
  setF bHostIf F.HI_NUM_VFS n (setF bHostIf F.HI_VF_ENABLE (bitOf (bit 4 v)) s)

/-! ### PCI configuration space (16 R525, R526; log entry 65) -/

def updPci (f : Pci → Pci) (s : State) : State := { s with host := { s.host with pci := f s.host.pci } }

/-- Bytes of a BAR: BAR0, BAR2 or BAR4, by k = 0, 1, 2. -/
def barBytes (vf : Bool) (k : Nat) (s : State) : Nat :=
  if k = 0 then 2 ^ 25 else if k = 1 then bar2Bytes (bitOf vf) s else 2 ^ 16

/-- Device ID, revision ID and class code. -/
def deviceId (fn : Nat) : Nat := if fn = 0 then 0x0404 else 0x0405
def revisionId : Nat := 0xB0
def classCode : Nat := 0x120000

/-- What a configuration read of the type 0 header returns: identity, and the PF's BARs, of which BAR2 is prefetchable and all are 64-bit; the
VFs' BARs stand in the PF's SR-IOV capability. none = Request Retry Status, before READY (16 R557). No command of the table is such a
read. -/
def configWord (fn off : Nat) (s : State) : Option Nat :=
  if !hostLive s then none
  else
    let bar (k : Nat) : Nat := ((if fn = 0 then s.host.pci.bars else [])[k]?).getD 0
    some (if off = 0 then Config.vendorId % 2 ^ 16 + deviceId fn * 2 ^ 16
      else if off = 8 then revisionId + classCode * 2 ^ 8
      else if 0x10 ≤ off ∧ off < 0x28 ∧ off % 4 = 0 then
        (let k := (off - 0x10) / 8
         if off % 8 = 0 then bar k % 2 ^ 32 + (if fn ≠ 0 then 0 else if k = 1 then 12 else 4) else bar k / 2 ^ 32)
      else 0)

/-- DOE Discovery: the vendor ID, the type of the object at an index, and the next index; the mailbox carries DOE Discovery, CMA/SPDM and secured
CMA/SPDM. -/
def doeObject (i : Nat) : List Byte :=
  if i < 3 then bytesOf 2 1 ++ [BitVec.ofNat 8 i, BitVec.ofNat 8 ((i + 1) % 3)] else bytesOf 2 0xFFFF ++ [0, 0]

/-- A write of a configuration register by the host through a function. -/
def configWrite (fn : Nat) (r : PciReg) (v : Nat) (s : State) : State :=
  match r with
  | .bar vf k =>
    if fn ≠ 0 then s
    else
      let v := v % 2 ^ 64 / barBytes vf k.val s * barBytes vf k.val s
      updPci (fun p => if vf then { p with vfBars := setAt p.vfBars k.val v } else { p with bars := setAt p.bars k.val v }) s
  | .bar2Size vf =>
    if fn ≠ 0 ∨ 6 < v then s else updPci (fun p => if vf then { p with vfBar2 := v } else { p with bar2 := v }) s
  | .msixControl => changeMsix fn { msixOf fn s with on := bit 15 v, masked := bit 14 v } s
  | .aerStatus =>
    let old := mapGet (fun _ => 0) s.host.aer fn
    { s with host := { s.host with aer := mapPut (fun _ => 0) fn (old &&& (v % 2 ^ 32 ^^^ (2 ^ 32 - 1))) s.host.aer } }
  | .doeDiscovery => { s with host := { s.host with out := s.host.out ++ [.doe fn (doeObject (v % 256))] } }

/-- The device is there for the requester. -/
def reaches (who : Requester) (s : State) : Bool :=
  match who with
  | .host fn => hostLive s && functionExists fn.val s
  | _ => s.power.supply == .on

/-- Who hears of a discarded access at no page. -/
def requesterScope : Requester → Scope
  | .host f => if f.val = 0 then .none else .part (f.val - 1)
  | _ => .none

/-- A write of bytes at an offset of BAR0 (18 R616): up to four bytes within a word under byte enables, four bytes, or eight
bytes as two words, the lower first; any other access is discarded and reported. -/
def bytesWrite (who : Requester) (x : Nat) (data : List Byte) (s : State) : State :=
  let n := data.length
  if n ≤ 4 ∧ x % 4 + n ≤ 4 then
    let k := 8 * (x % 4)
    barWrite who (x - x % 4) (natOf data * 2 ^ k) ((2 ^ (8 * n) - 1) * 2 ^ k) s
  else if n = 8 ∧ x % 8 = 0 then
    barWrite who (x + 4) (natOf (data.drop 4)) 0xFFFFFFFF (barWrite who x (natOf (data.take 4)) 0xFFFFFFFF s)
  else discard ((pageAt x s).getD bHostIf) x (requesterScope who) s

/-- REGISTER_WRITE: bytes written to BAR0 or BAR4, or a register of PCI configuration space. -/
def execRegisterWrite (who : Requester) (target : WriteTarget) (data : List Byte) (s : State) :
    Host.Outcome State Fault Refusal :=
  if !writeSize data then .refused .illFormed
  else .next (if !reaches who s then s
    else match target with
      | .bar0 off => bytesWrite who off.toNat data s
      | .bar4 off => (match who with | .host fn => bar4Write fn.val off.toNat data s | _ => s)
      | .config r => (match who with | .host fn => configWrite fn.val r (natOf data) s | _ => s)
      | .sriov => (match who with | .host fn => if fn.val = 0 then sriovWrite (natOf data) s else s | _ => s))

end Sys2Proof.Machine
end

