-- ==== Sys2Proof/Machine/SendTile.lean ====
section
/-!
DEFINITION. SEND_TILE (13 R438 to R444, R657, R658).
-/
namespace Sys2Proof.Machine

def stTile (d : Desc) : Nat × Nat := (dF 0x20 2 d, dF 0x22 2 d)
def stBucket (d : Desc) : Nat := dF 0x24 4 d
def stKRaw (d : Desc) : Nat := dF 0x28 2 d
def stDense (d : Desc) : Bool := dF 0x1C 4 d == noBolt
/-- K_PER_BUCKET, 0 standing for 256. -/
def stK (d : Desc) : Nat := if stKRaw d = 0 then 256 else stKRaw d

/-- A checked SEND_TILE: G, the weight with its residual and staged residual, the plan, the tile. -/
structure StRun where
  g : Bolt
  own : Option (Bolt × Bolt × Bolt)
  plan : Plan
  t : Nat
deriving DecidableEq, Repr

/-- The weight, its residual and the staged residual of the thinned form (13 R438; 08 R247; 09 R308). -/
def stOwn (x : TCtx) (d : Desc) : TM (Bolt × Bolt × Bolt) := do
  let h := dF 0x1C 4 d
  tCheck (decide (3 ≤ h ∧ h + 1 < noBolt)) 0x08 0x1C 0
  let w ← readBolt x 0x1C (h - 3)
  let r ← readBolt x 0x1C h
  let q ← readBolt x 0x1C (h + 1)
  tCheck (w.rank == 2 && w.cls == 0) 0x08 0x1C 0
  tCheck ((← stagedOk x 0x1C w r q []) && r.meshRank == w.meshRank && q.meshRank == w.meshRank) 0x08 0x1C 0
  tCheck (statsOk q) 0x08 0x1C 0
  tCheck (productFmt w.fmt) 0x05 0x1C 0
  pure (w, r, q)

/-- The start checks (13 R438, R444); none = an empty shard. -/
def stStart (x : TCtx) (d : Desc) : TM (Option StRun) := do
  let g ← readBolt? x 0x18 (dF 0x18 4 d)
  match g with
  | none => tFault 0x08 0x18 0
  | some g =>
    tCheck (!g.sparse && g.rank == 2 && g.fmt == 0 && g.cls == 3) 0x08 0x18 0
    let own ← if stDense d then pure none else do pure (some (← stOwn x d))
    tCheck (match own with | some (w, _, _) => sameShape g w && g.meshRank == w.meshRank | none => true) 0x08 0x18 0
    let (row, col) := stTile d
    tCheck (g.empty || decide (row < g.ext 1 ∧ col < g.ext 0)) 0x08 0x18 0
    let t := g.tileAt col row
    match (planFor x.part (stBucket d) (← get)).filter fun p => decide (stBucket d + 3 < p.first + p.count) with
    | none => tFault 0x08 0x24 0
    | some p =>
      tCheck (!stDense d || p.dense) 0x08 0x24 0
      tCheck (g.empty || stBucket d == p.first + 4 * t) 0x08 0x24 0
      tCheck (if stDense d then stKRaw d == 0 else decide (16 ≤ stK d ∧ stK d ≤ p.k) && stK d % 16 == 0) 0x08 0x28 0
      if g.empty then pure none
      else
        match own with
        | some (_, _, q) => do
          tCheck (indexOk q t) 0x08 0x1C 0
          tStatsReach x 0x1C q
        | none => pure ()
        pure (some ⟨g, own, p, t⟩)

/-- The epoch a task's contributions belong to: its step, in the job's attempt (13 R446). -/
def stEpoch (x : TCtx) (d : Desc) (s : State) : Nat × Nat :=
  let step := taskStep x d s
  (step, if (jobOf x.part s).step = step then (jobOf x.part s).attempt else 0)

/-- Hands one contribution to the owner, or the copy to the checker (13 R441 to R443, R658). -/
def stHand (x : TCtx) (g : Plan) (check : Bool) (b step attempt : Nat) (es : Entries) : TM Unit := do
  let s ← get
  let p := x.part
  let to_ := if check then g.checker b else g.owner b
  if to_ = g.rank then
    let s := askContrib p g check b g.rank s
    match storeContrib p g check b g.rank step attempt es s with
    | .failed => tFault 0x09 0x24 0
    | .duplicate => set (addF bMill F.ML_DUPLICATES 1 s)
    | .differs => set (settle p (differingCopy p b g.rank step attempt s))
    | .kept n s => set (settle p (afterStore p g check b step attempt n s))
  else
    let data := entryData g.dense es
    let arg1 := g.rank + bitOf check * 2 ^ 13 + bitOf g.dense * 2 ^ 15 + countOf g.dense es * 2 ^ 16
    match sendPacket p 1 (g.device to_) (epochOf step attempt) b arg1 (b % 2 ^ 16) data check (some (x.croft, x.uid)) s with
    | (.no, _) => tFault 0x0C 0 0
    | (w, s) =>
      set (addF bMill F.ML_CONTRIBS_SENT 1 s)
      tUpd (updJob p (fun j => { j with pend := j.pend ++
        [⟨step, attempt, b, check, x.croft, x.uid, g.device to_, arg1, data, w == .onB, false, s.time⟩] }))

/-- Hands a bucket's contribution to its owner, and a copy to its checker when it is sampled. -/
def stSend (x : TCtx) (g : Plan) (b step attempt : Nat) (es : Entries) : TM Unit := do
  stHand x g false b step attempt es
  if g.sampled b step then stHand x g true b step attempt es else pure ()

/-- Ranking of 13 R439: NaN, then ±∞, then finite values by descending magnitude. -/
def stKey (v : Val) : Nat := bits 0 31 (pat32 v)

/-- The entries a bucket selects: of (position, v), those with v ≠ ±0, ranked, the first k, in ascending position. -/
def stSelect (k : Nat) (es : List (Nat × Val)) : List (Nat × Val) :=
  let ranked := sortBy (fun a b => decide (stKey b.2 ≤ stKey a.2)) (es.filter fun e => !e.2.isZero)
  sortBy (fun a b => decide (a.1 ≤ b.1)) (ranked.take k)

/-- The gradient at the entries of a tile, and no other position (13 R439). -/
def stGrad (x : TCtx) (g : Bolt) (t : Nat) (ps : List Nat) : TM (List Nat) := do
  if leaves x (spaceOf g.base) (addrOf g.base + g.denseAt t) 65536 (← get) then
    tUpd (logRows (x.values g) (spaceOf g.base) (addrOf g.base + g.denseAt t) (4 * g.liveCols t) (g.liveRows t) 512 false)
  ps.mapM fun p => do pure (natOf (← tPeek x 0x18 (spaceOf g.base) (addrOf g.base + g.denseAt t + 4 * p) 4))

/-- The thinned form (13 R439 to R441, R657); the staged residual lies at the residual's offset (09 R308). -/
def stThin (x : TCtx) (d : Desc) (r : StRun) (w res q : Bolt) : TM Unit := do
  let t := r.t
  let (twill, ps, rAt, qAt) ← if w.sparse then do
      let dw ← readDir x 0x1C w t
      let dr ← readDir x 0x1C res t
      let dq ← readDir x 0x1C q t
      tCheck (dirAgree dw dr && dr == dq) 0x08 0x1C 0
      match ← tileEntries x 0x1C w t dw with
      | .error _ => tFault 0x07 0x1C 0
      | .ok ps => pure (dw.twill, ps, sparseAt dr, sparseAt dq)
    else pure (true, livePos w t, res.denseAt t, q.denseAt t)
  let ra ← readArr x 0x1C res t rAt twill ps
  let qa ← readArr x 0x1C q t qAt twill ps
  let gs ← stGrad x r.g t ps
  let vs := ((List.range ps.length).zip gs).map fun e => fAdd (ofPat e.2) (ra.val e.1)
  let es := ps.zip vs
  let picks := (List.range 4).map fun j => stSelect (stK d) (es.filter fun e => e.1 / 4096 == j)
  let taken := (picks.flatten).map Prod.fst
  let k := convCtx x (dStepTag d) 6 (← get)
  let is := ps.map fun p => q.gindex t (p / 128) (p % 128)
  let (qn, n, _) := qa.convert { k with sr := true } is
    (es.map fun e => some (if taken.contains e.1 then .fin false 0 0 else e.2))
  writeArr x 0x1C qn
  tCount x q n 0
  tEvals x (evalsOf ((ps.zip is).filterMap fun e => if taken.contains e.1 then none else some e.2))
  let (step, attempt) := stEpoch x d (← get)
  ((List.range 4).zip picks).forM fun e =>
    stSend x r.plan (stBucket d + e.1) step attempt (e.2.map fun y => (y.1 % 4096, pat32 y.2))

/-- The dense form (13 R444): all 4,096 values of each bucket, +0 at a selvage position. -/
def stWhole (x : TCtx) (d : Desc) (r : StRun) : TM Unit := do
  let live := livePos r.g r.t
  let gs ← stGrad x r.g r.t live
  let m : SMap Nat := live.zip gs
  let (step, attempt) := stEpoch x d (← get)
  (List.range 4).forM fun j =>
    stSend x r.plan (stBucket d + j) step attempt ((List.range 4096).map fun i => (i, mapGet (fun _ => 0) m (4096 * j + i)))

/-- The work of SEND_TILE. -/
def sendTileWork (d : Desc) (x : TCtx) : TM Unit := do
  match ← stStart x d with
  | none => pure ()
  | some r =>
    match r.own with
    | some (w, res, q) => stThin x d r w res q
    | none => stWhole x d r
  tUpd (markWorked x.croft x.uid)

/-- SEND_TILE (13 R439). It completes once its contributions are acknowledged and its writes are visible (R442). -/
def execSendTile (c : CroftId) (s : State) : Host.Outcome State Fault Refusal :=
  .next (match startableOp c.val opSendTile s with
    | some t => runTask c.val t (sendTileWork t.desc) s
    | none => s)

end Sys2Proof.Machine
end

