-- ==== Sys2Proof/Machine/Dispatch.lean ====
section
/-!
DEFINITION. The dispatch: one arm per command, each one call of its meaning.
-/
namespace Sys2Proof.Machine

def exec (i : Instr) (s : State) : Host.Outcome State Fault Refusal :=
  match i with
  | .powerOn slot feed modules reads => Sys2Proof.Machine.execPowerOn slot feed modules reads s
  | .busSample mv ma => Sys2Proof.Machine.execBusSample mv ma s
  | .undervoltConfirm => Sys2Proof.Machine.execUndervoltConfirm s
  | .surgeTimeout => Sys2Proof.Machine.execSurgeTimeout s
  | .episodeEnd => Sys2Proof.Machine.execEpisodeEnd s
  | .grantPeriod base floors tests => Sys2Proof.Machine.execGrantPeriod base floors tests s
  | .grantDelivery h => Sys2Proof.Machine.execGrantDelivery h s
  | .pacingStep h ma => Sys2Proof.Machine.execPacingStep h ma s
  | .thermalSample c t0 t1 => Sys2Proof.Machine.execThermalSample c t0 t1 s
  | .thermalCapRise c => Sys2Proof.Machine.execThermalCapRise c s
  | .thermalTrip sensor t => Sys2Proof.Machine.execThermalTrip sensor t s
  | .thermalModelUpdate c t0 t1 => Sys2Proof.Machine.execThermalModelUpdate c t0 t1 s
  | .coolantPoll => Sys2Proof.Machine.execCoolantPoll s
  | .coolantReading value available => Sys2Proof.Machine.execCoolantReading value available s
  | .coolantStale => Sys2Proof.Machine.execCoolantStale s
  | .humTaper c => Sys2Proof.Machine.execHumTaper c s
  | .pointChange c => Sys2Proof.Machine.execPointChange c s
  | .pointChangeDone c => Sys2Proof.Machine.execPointChangeDone c s
  | .marginAlarm c monitor slack => Sys2Proof.Machine.execMarginAlarm c monitor slack s
  | .replanHoursDue => Sys2Proof.Machine.execReplanHoursDue s
  | .dispatch d => Sys2Proof.Machine.execDispatch d s
  | .starveTimeout p => Sys2Proof.Machine.execStarveTimeout p s
  | .pointLower h => Sys2Proof.Machine.execPointLower h s
  | .pointRaise h => Sys2Proof.Machine.execPointRaise h s
  | .descriptorArrival c => Sys2Proof.Machine.execDescriptorArrival c s
  | .gzPlain c => Sys2Proof.Machine.execGzPlain c s
  | .gzWeft c => Sys2Proof.Machine.execGzWeft c s
  | .gzIssueCycle c => Sys2Proof.Machine.execGzIssueCycle c s
  | .gzCollectorFold c => Sys2Proof.Machine.execGzCollectorFold c s
  | .loomTakeBorrowed c => Sys2Proof.Machine.execLoomTakeBorrowed c s
  | .gzRunLentTile c => Sys2Proof.Machine.execGzRunLentTile c s
  | .loomFwd c => Sys2Proof.Machine.execLoomFwd c s
  | .loomPair c => Sys2Proof.Machine.execLoomPair c s
  | .loomSlot c l => Sys2Proof.Machine.execLoomSlot c l s
  | .lookout c => Sys2Proof.Machine.execLookout c s
  | .lookoutCount c => Sys2Proof.Machine.execLookoutCount c s
  | .fnFwd c => Sys2Proof.Machine.execFnFwd c s
  | .fnDeriv c => Sys2Proof.Machine.execFnDeriv c s
  | .update c => Sys2Proof.Machine.execUpdate c s
  | .thresh c => Sys2Proof.Machine.execThresh c s
  | .glean c => Sys2Proof.Machine.execGlean c s
  | .reweave c => Sys2Proof.Machine.execReweave c s
  | .reweaveSwap c => Sys2Proof.Machine.execReweaveSwap c s
  | .copy c => Sys2Proof.Machine.execCopy c s
  | .gather c => Sys2Proof.Machine.execGather c s
  | .tallyAdd c => Sys2Proof.Machine.execTallyAdd c s
  | .tallyWait c => Sys2Proof.Machine.execTallyWait c s
  | .tallyExpect c => Sys2Proof.Machine.execTallyExpect c s
  | .statsClear c => Sys2Proof.Machine.execStatsClear c s
  | .statsFold c => Sys2Proof.Machine.execStatsFold c s
  | .sendTile c => Sys2Proof.Machine.execSendTile c s
  | .parityRound c => Sys2Proof.Machine.execParityRound c s
  | .parityRebuild c => Sys2Proof.Machine.execParityRebuild c s
  | .taskComplete c u => Sys2Proof.Machine.execTaskComplete c u s
  | .abandonStop c u => Sys2Proof.Machine.execAbandonStop c u s
  | .streamGrant c => Sys2Proof.Machine.execStreamGrant c s
  | .pieceIssue c => Sys2Proof.Machine.execPieceIssue c s
  | .pieceReturn c n => Sys2Proof.Machine.execPieceReturn c n s
  | .courierTransfer c => Sys2Proof.Machine.execCourierTransfer c s
  | .memoryRequest c ecc off => Sys2Proof.Machine.execMemoryRequest c ecc off s
  | .mergeHoldExpire h pc => Sys2Proof.Machine.execMergeHoldExpire h pc s
  | .statsFoldApply => Sys2Proof.Machine.execStatsFoldApply s
  | .granaryAccess sl ecc => Sys2Proof.Machine.execGranaryAccess sl ecc s
  | .hbmTempSample h temp => Sys2Proof.Machine.execHbmTempSample h temp s
  | .hbmRefresh h pc bank => Sys2Proof.Machine.execHbmRefresh h pc bank s
  | .ddrThermalSample c temp => Sys2Proof.Machine.execDdrThermalSample c temp s
  | .ddrRefresh c => Sys2Proof.Machine.execDdrRefresh c s
  | .hbmRetrain h pc stall ok => Sys2Proof.Machine.execHbmRetrain h pc stall ok s
  | .patrolScrub c ecc => Sys2Proof.Machine.execPatrolScrub c ecc s
  | .channelFail c => Sys2Proof.Machine.execChannelFail c s
  | .expanderRemoved x => Sys2Proof.Machine.execExpanderRemoved x s
  | .d2dLinkLoss l => Sys2Proof.Machine.execD2dLinkLoss l s
  | .tallyOpAdd bank => Sys2Proof.Machine.execTallyOpAdd bank s
  | .registerWait bank => Sys2Proof.Machine.execRegisterWait bank s
  | .withdrawWait bank => Sys2Proof.Machine.execWithdrawWait bank s
  | .expect bank => Sys2Proof.Machine.execExpect bank s
  | .unmappedTallyOp => Sys2Proof.Machine.execUnmappedTallyOp s
  | .waitReleaseArrival c => Sys2Proof.Machine.execWaitReleaseArrival c s
  | .waitStall => Sys2Proof.Machine.execWaitStall s
  | .hello v l f rtt => Sys2Proof.Machine.execHello v l f rtt s
  | .dataFlit v l f => Sys2Proof.Machine.execDataFlit v l f s
  | .replayReq v l f => Sys2Proof.Machine.execReplayReq v l f s
  | .idleFlit v l f => Sys2Proof.Machine.execIdleFlit v l f s
  | .replayTimeout v l => Sys2Proof.Machine.execReplayTimeout v l s
  | .idleSendTimer v l => Sys2Proof.Machine.execIdleSendTimer v l s
  | .laneAlignmentLoss v l => Sys2Proof.Machine.execLaneAlignmentLoss v l s
  | .malformedPacket => Sys2Proof.Machine.execMalformedPacket s
  | .contrib => Sys2Proof.Machine.execContrib s
  | .contribAck => Sys2Proof.Machine.execContribAck s
  | .contribAckTimeout p => Sys2Proof.Machine.execContribAckTimeout p s
  | .reduced => Sys2Proof.Machine.execReduced s
  | .digest => Sys2Proof.Machine.execDigest s
  | .vote => Sys2Proof.Machine.execVote s
  | .voteReadySend p => Sys2Proof.Machine.execVoteReadySend p s
  | .verdict => Sys2Proof.Machine.execVerdict s
  | .query => Sys2Proof.Machine.execQuery s
  | .rootVerdictTimeout p => Sys2Proof.Machine.execRootVerdictTimeout p s
  | .verdictWaitTimeout p => Sys2Proof.Machine.execVerdictWaitTimeout p s
  | .verdictLost p => Sys2Proof.Machine.execVerdictLost p s
  | .repeatReissue p => Sys2Proof.Machine.execRepeatReissue p s
  | .holderZeroDone p => Sys2Proof.Machine.execHolderZeroDone p s
  | .mwrite => Sys2Proof.Machine.execMwrite s
  | .foldWrite => Sys2Proof.Machine.execFoldWrite s
  | .mwriteAck => Sys2Proof.Machine.execMwriteAck s
  | .mread => Sys2Proof.Machine.execMread s
  | .mreadData => Sys2Proof.Machine.execMreadData s
  | .peerAccessTimeout p => Sys2Proof.Machine.execPeerAccessTimeout p s
  | .cmdFetch t => Sys2Proof.Machine.execCmdFetch t s
  | .runList fn r crofts => Sys2Proof.Machine.execRunList fn r crofts s
  | .step fn r crofts => Sys2Proof.Machine.execStep fn r crofts s
  | .stepWaitAccept p crofts => Sys2Proof.Machine.execStepWaitAccept p crofts s
  | .directTask fn r => Sys2Proof.Machine.execDirectTask fn r s
  | .service fn r => Sys2Proof.Machine.execService fn r s
  | .quiesce fn r => Sys2Proof.Machine.execQuiesce fn r s
  | .quiescePart r => Sys2Proof.Machine.execQuiescePart r s
  | .quiesceComplete p => Sys2Proof.Machine.execQuiesceComplete p s
  | .quiesceWedge p => Sys2Proof.Machine.execQuiesceWedge p s
  | .regs fn r => Sys2Proof.Machine.execRegs fn r s
  | .invalidate fn r => Sys2Proof.Machine.execInvalidate fn r s
  | .setBbGen fn r => Sys2Proof.Machine.execSetBbGen fn r s
  | .nop fn r => Sys2Proof.Machine.execNop fn r s
  | .assemble r => Sys2Proof.Machine.execAssemble r s
  | .disassemble r => Sys2Proof.Machine.execDisassemble r s
  | .setInflight r => Sys2Proof.Machine.execSetInflight r s
  | .commandComplete fn => Sys2Proof.Machine.execCommandComplete fn s
  | .msixDelayExpire fn vec => Sys2Proof.Machine.execMsixDelayExpire fn vec s
  | .crTailWrite fn r v => Sys2Proof.Machine.execCrTailWrite fn r v s
  | .evHeadWrite fn v => Sys2Proof.Machine.execEvHeadWrite fn v s
  | .bar2Access fn x op => Sys2Proof.Machine.execBar2Access fn x op s
  | .hostReadTimeout n why => Sys2Proof.Machine.execHostReadTimeout n why s
  | .deviceReset c => Sys2Proof.Machine.execDeviceReset c s
  | .resetReady => Sys2Proof.Machine.execResetReady s
  | .functionReset p => Sys2Proof.Machine.execFunctionReset p s
  | .getVersion fn => Sys2Proof.Machine.execGetVersion fn s
  | .getCapabilities fn => Sys2Proof.Machine.execGetCapabilities fn s
  | .negotiateAlgorithms fn offered => Sys2Proof.Machine.execNegotiateAlgorithms fn offered s
  | .getDigests fn => Sys2Proof.Machine.execGetDigests fn s
  | .getCertificate fn slot off len => Sys2Proof.Machine.execGetCertificate fn slot off len s
  | .challenge fn slot nonce => Sys2Proof.Machine.execChallenge fn slot nonce s
  | .getMeasurements fn index => Sys2Proof.Machine.execGetMeasurements fn index s
  | .keyExchange fn peer => Sys2Proof.Machine.execKeyExchange fn peer s
  | .finish fn mac => Sys2Proof.Machine.execFinish fn mac s
  | .heartbeat fn => Sys2Proof.Machine.execHeartbeat fn s
  | .heartbeatLost fn => Sys2Proof.Machine.execHeartbeatLost fn s
  | .keyUpdate fn => Sys2Proof.Machine.execKeyUpdate fn s
  | .endSession fn => Sys2Proof.Machine.execEndSession fn s
  | .keyCommit fn vendor code => Sys2Proof.Machine.execKeyCommit fn vendor code s
  | .chunkSend fn part last => Sys2Proof.Machine.execChunkSend fn part last s
  | .chunkGet fn => Sys2Proof.Machine.execChunkGet fn s
  | .i3cAddressAssign dynamic => Sys2Proof.Machine.execI3cAddressAssign dynamic s
  | .getSensorReading r => Sys2Proof.Machine.execGetSensorReading r s
  | .capEffecterWrite v => Sys2Proof.Machine.execCapEffecterWrite v s
  | .resetEffecterWrite v => Sys2Proof.Machine.execResetEffecterWrite v s
  | .replanEffecterWrite v => Sys2Proof.Machine.execReplanEffecterWrite v s
  | .coolantSensorWrite v => Sys2Proof.Machine.execCoolantSensorWrite v s
  | .readLedger seq count => Sys2Proof.Machine.execReadLedger seq count s
  | .requestUpdate => Sys2Proof.Machine.execRequestUpdate s
  | .updateComponent code => Sys2Proof.Machine.execUpdateComponent code s
  | .componentTransferDone header body slotB => Sys2Proof.Machine.execComponentTransferDone header body slotB s
  | .activateFirmware => Sys2Proof.Machine.execActivateFirmware s
  | .lockstepMismatch => Sys2Proof.Machine.execLockstepMismatch s
  | .reeveRestartDone => Sys2Proof.Machine.execReeveRestartDone s
  | .journalCommit => Sys2Proof.Machine.execJournalCommit s
  | .suppressionSecondEnd => Sys2Proof.Machine.execSuppressionSecondEnd s
  | .lockTimeout p => Sys2Proof.Machine.execLockTimeout p s
  | .croftFence o => Sys2Proof.Machine.execCroftFence o s
  | .spareRampDone c restore => Sys2Proof.Machine.execSpareRampDone c restore s
  | .selfTestDone u pass => Sys2Proof.Machine.execSelfTestDone u pass s
  | .repFence who kind index => Sys2Proof.Machine.execRepFence who kind index s
  | .repSelfTest who kind index => Sys2Proof.Machine.execRepSelfTest who kind index s
  | .repReturn who kind index => Sys2Proof.Machine.execRepReturn who kind index s
  | .stopWrite who x stop => Sys2Proof.Machine.execStopWrite who x stop s
  | .seqServiceWrite who x opened => Sys2Proof.Machine.execSeqServiceWrite who x opened s
  | .abandon who x => Sys2Proof.Machine.execAbandon who x s
  | .clearHalt who x => Sys2Proof.Machine.execClearHalt who x s
  | .purge who x => Sys2Proof.Machine.execPurge who x s
  | .purgeStep who x tag => Sys2Proof.Machine.execPurgeStep who x tag s
  | .committedStepWrite who x v => Sys2Proof.Machine.execCommittedStepWrite who x v s
  | .seqClearCounts who x => Sys2Proof.Machine.execSeqClearCounts who x s
  | .gzAccClear who x => Sys2Proof.Machine.execGzAccClear who x s
  | .gzClearCounts who x => Sys2Proof.Machine.execGzClearCounts who x s
  | .gzClearFault who x => Sys2Proof.Machine.execGzClearFault who x s
  | .lmAccClear who x => Sys2Proof.Machine.execLmAccClear who x s
  | .lmClearCounts who x => Sys2Proof.Machine.execLmClearCounts who x s
  | .lkClearCounts who x => Sys2Proof.Machine.execLkClearCounts who x s
  | .numClearCounts who x => Sys2Proof.Machine.execNumClearCounts who x s
  | .fnUnitClearCounts who x => Sys2Proof.Machine.execFnUnitClearCounts who x s
  | .fnUnitClearFault who x => Sys2Proof.Machine.execFnUnitClearFault who x s
  | .mvClearCounts who x => Sys2Proof.Machine.execMvClearCounts who x s
  | .mvClearFault who x => Sys2Proof.Machine.execMvClearFault who x s
  | .probe who x => Sys2Proof.Machine.execProbe who x s
  | .spClearCounts who x => Sys2Proof.Machine.execSpClearCounts who x s
  | .upClearCounts who x => Sys2Proof.Machine.execUpClearCounts who x s
  | .upClearFault who x => Sys2Proof.Machine.execUpClearFault who x s
  | .shClearCounts who x => Sys2Proof.Machine.execShClearCounts who x s
  | .clearRates who x => Sys2Proof.Machine.execClearRates who x s
  | .pointReqWrite who x v => Sys2Proof.Machine.execPointReqWrite who x v s
  | .croftPowerClearCounts who x => Sys2Proof.Machine.execCroftPowerClearCounts who x s
  | .hbmClearCounts who h => Sys2Proof.Machine.execHbmClearCounts who h s
  | .channelClearCounts who c => Sys2Proof.Machine.execChannelClearCounts who c s
  | .mapApply who => Sys2Proof.Machine.execMapApply who s
  | .keyGenerate p => Sys2Proof.Machine.execKeyGenerate p s
  | .keyDestroy p => Sys2Proof.Machine.execKeyDestroy p s
  | .granaryModeWrite who sl w => Sys2Proof.Machine.execGranaryModeWrite who sl w s
  | .granaryFlush who sl => Sys2Proof.Machine.execGranaryFlush who sl s
  | .granaryInvalidate who sl => Sys2Proof.Machine.execGranaryInvalidate who sl s
  | .granaryFlushDone sl => Sys2Proof.Machine.execGranaryFlushDone sl s
  | .granaryClearCounts who sl => Sys2Proof.Machine.execGranaryClearCounts who sl s
  | .tallyMapWrite who phys valid => Sys2Proof.Machine.execTallyMapWrite who phys valid s
  | .tallyReset who phys => Sys2Proof.Machine.execTallyReset who phys s
  | .tallyClearCounts who => Sys2Proof.Machine.execTallyClearCounts who s
  | .tallyClearFault who => Sys2Proof.Machine.execTallyClearFault who s
  | .millClearCounts who => Sys2Proof.Machine.execMillClearCounts who s
  | .portClearCounts who v => Sys2Proof.Machine.execPortClearCounts who v s
  | .jobEnable who p on => Sys2Proof.Machine.execJobEnable who p on s
  | .localReady p => Sys2Proof.Machine.execLocalReady p s
  | .localRepeat p => Sys2Proof.Machine.execLocalRepeat p s
  | .reload p => Sys2Proof.Machine.execReload p s
  | .parityLoad p => Sys2Proof.Machine.execParityLoad p s
  | .rebuildClear who p => Sys2Proof.Machine.execRebuildClear who p s
  | .failAdd who p => Sys2Proof.Machine.execFailAdd who p s
  | .parityClearCounts who p => Sys2Proof.Machine.execParityClearCounts who p s
  | .wellClearCounts who => Sys2Proof.Machine.execWellClearCounts who s
  | .replanReq who => Sys2Proof.Machine.execReplanReq who s
  | .deviceClearCounts who => Sys2Proof.Machine.execDeviceClearCounts who s
  | .hostIfClearCounts who => Sys2Proof.Machine.execHostIfClearCounts who s
  | .dieClearCounts who d => Sys2Proof.Machine.execDieClearCounts who d s
  | .evEnableWrite who fn on => Sys2Proof.Machine.execEvEnableWrite who fn on s
  | .ringEnableWrite who fn r on => Sys2Proof.Machine.execRingEnableWrite who fn r on s
  | .lastCommittedWrite who fn v => Sys2Proof.Machine.execLastCommittedWrite who fn v s
  | .clearErr who fn => Sys2Proof.Machine.execClearErr who fn s
  | .fnPageClearCounts who fn => Sys2Proof.Machine.execFnPageClearCounts who fn s
  | .lgSelectWrite who seq => Sys2Proof.Machine.execLgSelectWrite who seq s
  | .rvReqGenerate who p => Sys2Proof.Machine.execRvReqGenerate who p s
  | .rvReqDestroy who p => Sys2Proof.Machine.execRvReqDestroy who p s
  | .croftMapWrite who x phys => Sys2Proof.Machine.execCroftMapWrite who x phys s
  | .ownerWrite who page p assigned => Sys2Proof.Machine.execOwnerWrite who page p assigned s
  | .lockTake who page => Sys2Proof.Machine.execLockTake who page s
  | .lockRelease who page => Sys2Proof.Machine.execLockRelease who page s
  | .blockClearFault who page => Sys2Proof.Machine.execBlockClearFault who page s
  | .seenClear who page bitmap => Sys2Proof.Machine.execSeenClear who page bitmap s
  | .registerWrite who target data => Sys2Proof.Machine.execRegisterWrite who target data s
  | .fecAlignmentGained v l => Sys2Proof.Machine.execFecAlignmentGained v l s
  | .perstDeassert speed width flit => Sys2Proof.Machine.execPerstDeassert speed width flit s
  | .replanDone delays => Sys2Proof.Machine.execReplanDone delays s
  | .granarySliceFail sl => Sys2Proof.Machine.execGranarySliceFail sl s
  | .rebuildClearDone p => Sys2Proof.Machine.execRebuildClearDone p s
  | .setEndpointId m => Sys2Proof.Machine.execSetEndpointId m s

end Sys2Proof.Machine
end

