-- ==== Sys2Proof/Safety.lean ====
section
/-!
DEFINITION. What counts as a safe run, and the vocabulary of the statements: the canonical form of the sparse data, who may
write a register, and what a command leaves as it was.
-/
namespace Sys2Proof.Machine

/-- Every memory byte lies in the canonical form: places strictly rising, no entry equal to what an unlisted place reads as. -/
abbrev Memory.wf (s : State) : Bool := memWf s

/-- The register file lies in the canonical form. -/
def regsWf (s : State) : Bool := mapWf resetWord s.regs

/-- Every command that waits is well formed. -/
def queueWf (s : State) : Bool := s.pending.all wellFormed

/-- A state from which a step neither faults nor is refused. -/
def Safe (s : State) : Prop := ∃ t, step s = .next t

end Sys2Proof.Machine

namespace Sys2Proof.Claims
open Sys2Proof.Machine

/-! ### Who may write -/

/-- The requester reaches the page of block `b`: the device runs; a function besides finds it answering and writes its
own page (16 R527, 18 R609, R620). -/
def Reaches (who : Requester) (b : Nat) (s : State) : Prop :=
  match who with
  | .host f => hostLive s = true ∧ b = bFunction f.val
  | _ => s.power.supply = .on

/-- The block is not fenced, or the requester is the control core or the reeve (18 R621). -/
def PastFence (who : Requester) (b : Nat) (s : State) : Prop := fenced b s = false ∨ who = .control ∨ who = .reeve

/-- The page is locked by no other requester (18 R613, R614). -/
def NotLocked (who : Requester) (b : Nat) (s : State) : Prop :=
  getF b F.BLK_HOLDER s = 0 ∨ (who = .control ∧ getF b F.BLK_HOLDER s = 1) ∨
    (who = .reeve ∧ getF b F.BLK_HOLDER s = 2) ∨ ((∃ f, who = .host f) ∧ getF b F.BLK_HOLDER s = 3)

/-- The page is open to the requester. -/
def Unlocked (who : Requester) (b : Nat) (s : State) : Prop := NotLocked who b s ∧ PastFence who b s

/-- Either core of the steward. -/
def steward (who : Requester) : Prop := who = .control ∨ who = .dispatch
/-- The control core or the reeve. -/
def keeper (who : Requester) : Prop := who = .control ∨ who = .reeve
/-- The control core or the function whose page it is. -/
def ownFn (fn : FnId) (who : Requester) : Prop := who = .control ∨ who = .host fn

/-! ### What changes -/

/-- `t` is `s` but for its registers, and of the registers (with the remainders of counters that count in units) only
those with a listed key may differ. -/
def OnlyRegs (ks : List Nat) (s t : State) : Prop :=
  t = { s with regs := t.regs, subUnits := t.subUnits } ∧
  ∀ k, k ∉ ks → mapGet resetWord t.regs k = mapGet resetWord s.regs k ∧
    mapGet (fun _ => 0) t.subUnits k = mapGet (fun _ => 0) s.subUnits k

/-- Two fields share no bit. -/
def Apart (f g : Field) : Prop := f.off / 4 ≠ g.off / 4 ∨ f.lo + f.width ≤ g.lo ∨ g.lo + g.width ≤ f.lo

/-- The listed fields of block `b` hold the listed values, and every other field of every block is as before. -/
def FieldsAre (b : Nat) (l : List (Field × Nat)) (s t : State) : Prop :=
  (∀ e ∈ l, getF b e.1 t = e.2) ∧
  (∀ g, (∀ e ∈ l, Apart g e.1) → getF b g t = getF b g s) ∧
  (∀ k, k ∉ l.map (fun e => regKey b e.1.off) → mapGet resetWord t.regs k = mapGet resetWord s.regs k)

/-- The offsets of the registers from `lo` to `hi`. -/
def words (lo hi : Nat) : List Nat := (List.range ((hi - lo) / 4 + 1)).map fun i => lo + 4 * i

/-- Every croft but `c` is as before. -/
def OtherCrofts (c : Nat) (s t : State) : Prop := ∀ k, k ≠ c → croftOf k t = croftOf k s

/-- Every byte of every memory reads as before. -/
def SameBytes (s t : State) : Prop := ∀ q, rd q t = rd q s

/-- Every byte of the device's own memories reads as before: tier 1, larders, slices, outer tiers; host memory may have
taken event and completion records. -/
def SameDeviceBytes (s t : State) : Prop := ∀ q, q < plHost 0 → rd q t = rd q s

/-- What raising events may change (16 R545 to R549, 18 R610): the classes seen, the function pages (an event ring's error
and its counters), event rings and their records in host memory, and the translations kept. Every other part of the device is as
before but for the parts named by the two states' record update. -/
def Reported (ks : List Nat) (s t : State) : Prop :=
  (∀ b off, off < 4096 → b < 16 ∨ 25 ≤ b → off / 4 ≠ F.BLK_SEEN.off / 4 → regKey b off ∉ ks → getW b off t = getW b off s) ∧
  SameDeviceBytes s t ∧
  (∀ p, partOf p t = { partOf p s with l1 := (partOf p t).l1, l2 := (partOf p t).l2 }) ∧
  t.host.cmds = s.host.cmds ∧ t.host.tails = s.host.tails ∧ t.host.reads = s.host.reads ∧ t.host.spdm = s.host.spdm

/-- The block of a croft slot's page (18 R606). -/
def page (x : SlotId) (s : State) : Nat := bCroft (physOf x.h.val x.s.val s)

end Sys2Proof.Claims
end

