-- ==== Sys2Proof/Certificates/Slice0/Obligations.lean ====
section
/-!
DEFINITION. The statements for the provers. Each docstring names the rules of the spec that the statement formalises, or
says what choice of the model it rests on.
-/
open Sys2Proof Sys2Proof.Machine Sys2Proof.Claims

/-! ### The step -/

/-- A step runs the command at the front of the queue on the queue's rest. -/
def Obligations.StepRunsFrontCommand : Prop :=
  ∀ (c : Instr) (rest : List Instr) (s : State), step { s with pending := c :: rest } = exec c { s with pending := rest }

/-- On an empty queue one nanosecond passes: a powered device counts each full hour, a croft's spindle serves what was asked of it, the
waits of a croft's units are counted, and nothing else changes, but that an orderly stop comes to its end 400 µs after its confirmation: the
rails are off then, or the device dead to host after the third lockstep mismatch (15 R513, R523; 17 R574; 09 R294; 11 R346, R356; that an
idle step is one nanosecond is the model's choice, log entry 2). -/
def Sys2Proof.Claims.IdleStepIsOneNanosecond : Prop :=
  ∀ s : State, s.pending = [] →
    (∀ cause since, s.power.supply = .stopping cause since → since + 400000 ≤ s.time + 1 →
      ∃ t, step s = .next t ∧ t.time = s.time + 1 ∧ t.power.supply = (if cause = 4 then .dead else .off) ∧ t.crofts = [] ∧
        t.parts = [] ∧ t.reeve.retired = s.reeve.retired ∧ t.reeve.log = s.reeve.log) ∧
    ((∀ cause since, s.power.supply = .stopping cause since → s.time + 1 < since + 400000) →
    ∃ t, step s = .next t ∧ t.time = s.time + 1 ∧ SameBytes s t ∧ t.parts = s.parts ∧
      t.tally = s.tally ∧ t.host = s.host ∧ t.mill = s.mill ∧ t.memsys = s.memsys ∧ t.power = s.power ∧
      (∀ c, croftOf c t = { croftOf c s with spin := (croftOf c t).spin } ∧
        ((croftOf c s).spin = [] → (croftOf c t).spin = [])) ∧
      getF bThermal F.TH_POWERED_H t = (if (s.time + 1) % (3600 * 10 ^ 9) = 0 ∧ s.power.supply = .on
          then min (getF bThermal F.TH_POWERED_H s + 1) (2 ^ 32 - 1) else getF bThermal F.TH_POWERED_H s) ∧
      ∀ b f, (∀ g ∈ [F.SP_WAIT_CYCLES, F.SH_STREAM_WAITS, F.SH_DRY_CYCLES], Apart f g) →
        b ≠ bThermal ∨ Apart f F.TH_POWERED_H → getF b f t = getF b f s)

/-- Every well-formed command of the table is carried out in every state: none stops in a fault or a refusal. -/
def Obligations.EveryCommandCompletes : Prop :=
  ∀ (i : Instr) (s : State), (wellFormed i = true → ∃ t, exec i s = .next t) ∧
    (wellFormed i = false → exec i s = .refused .illFormed)

/-- What reset leaves (16 R557; 18 R621; 12 R390; 03 R82): the device is not READY, no command waits, no croft holds a task,
no tally is mapped, no job is enabled, every page is unlocked and unassigned. -/
def Sys2Proof.Claims.ResetState : Prop :=
  State.reset.pending = [] ∧ flag (bFunction 0) F.FP_READY State.reset = false ∧
  (∀ c, (croftOf c State.reset).queue = [] ∧ (croftOf c State.reset).arriving = []) ∧
  (∀ p, tallyOf p State.reset = Tally.reset) ∧ (∀ p : PartId, mlF F.ML_JOB_ENABLE p.val State.reset = 0) ∧
  (∀ c : CroftId, getF (bCroft c.val) F.SEQ_CTRL_STOP State.reset = 1 ∧ getF (bCroft c.val) F.BLK_HOLDER State.reset = 0) ∧
  (∀ h : HamletId, ownerOf (bHamlet h.val) State.reset = none)

/-- The canonical form at reset. -/
def Sys2Proof.Claims.CanonicalAtReset : Prop :=
  Memory.wf State.reset = true ∧ regsWf State.reset = true ∧ mapWf resetWord State.reset.reeve.perm = true ∧
  mapWf unwritten State.reset.owners = true

/-- What State.reset is: the spec's reset values and the canonical form (16 R557, 18 R621, 12 R390, 03 R82). -/
def Obligations.ResetLeaves : Prop := Claims.ResetState ∧ Claims.CanonicalAtReset

/-- Every step keeps memory, the register file, the permanent area and the range owner table in the canonical form, so that
equal contents are equal data. -/
def Obligations.CanonicalKept : Prop :=
  ∀ s t : State, step s = .next t →
    (Memory.wf s = true → Memory.wf t = true) ∧ (mapWf unwritten s.owners = true → mapWf unwritten t.owners = true) ∧
    (regsWf s = true ∧ mapWf resetWord s.reeve.perm = true → regsWf t = true ∧ mapWf resetWord t.reeve.perm = true)

/-- No step puts more than 16 descriptors into a croft's queue and on the fabric to it (03 R82, R91). -/
def Obligations.QueueCreditsKept : Prop :=
  ∀ s t : State, step s = .next t →
    (∀ c, (croftOf c s).queue.length + (croftOf c s).arriving.length ≤ 16) →
    ∀ c, (croftOf c t).queue.length + (croftOf c t).arriving.length ≤ 16

/-- A unit that is retired stays retired, and a revoked key stays revoked, whatever the step (14 R487; 17 R594). -/
def Obligations.RetiredAndRevokedForGood : Prop :=
  ∀ s t : State, step s = .next t →
    (∀ u, u ∈ s.reeve.retired → u ∈ t.reeve.retired) ∧
    ∀ i, s.reeve.fw.revoked.testBit i = true → t.reeve.fw.revoked.testBit i = true

/-- A step takes one command off the front of the queue and no command touches the rest; and no step gives a free value
twice: their counter never falls. -/
def Sys2Proof.Claims.QueueAndFreeValues : Prop :=
  ∀ s t : State, step s = .next t → t.pending = s.pending.tail ∧ s.free ≤ t.free

/-- A step takes one command off the front of the queue and no command touches the rest, and the counter of free values never falls; on an
empty queue one nanosecond passes (15 R523; log entry 2). -/
def Obligations.CommandsAndTimePass : Prop := Claims.IdleStepIsOneNanosecond ∧ Claims.QueueAndFreeValues

/-! ### Registers that software clears -/

namespace Sys2Proof.Claims

/-- A write of a one-bit field that clears: by a requester that may make it, on a page open to it, every listed register
reads 0 afterwards and everything else is as before. -/
def Clears (may : Requester → Prop) (b : State → Nat) (offs : List Nat) (i : Requester → Instr) : Prop :=
  ∀ (who : Requester) (s : State), may who → Reaches who (b s) s → Unlocked who (b s) s →
    ∃ t, exec (i who) s = .next t ∧ (∀ o ∈ offs, getW (b s) o t = 0) ∧ OnlyRegs (offs.map (regKey (b s))) s t

end Sys2Proof.Claims

/-- CLEAR_COUNTS of every unit of a croft (03 R101, 04 R145, 05 R183 and R184, 06 R216, 07 R244, 08 R280, 09 R315, 11 R385,
15 R524): the counters of that unit are 0, and nothing else changes. -/
def Sys2Proof.Claims.CroftCountersClear : Prop :=
  ∀ x : SlotId,
    Clears steward (page x) (words 0x54 0x58) (.seqClearCounts · x) ∧
    Clears steward (page x) (words 0x110 0x130) (.gzClearCounts · x) ∧
    Clears steward (page x) (words 0x190 0x1A4) (.lmClearCounts · x) ∧
    Clears steward (page x) (words 0x250 0x25C) (.lkClearCounts · x) ∧
    Clears steward (page x) (words 0x288 0x2B4) (.numClearCounts · x) ∧
    Clears steward (page x) (words 0x310 0x318) (.fnUnitClearCounts · x) ∧
    Clears steward (page x) (words 0x3D0 0x3E8) (.mvClearCounts · x) ∧
    Clears steward (page x) (words 0x378 0x37C) (.spClearCounts · x) ∧
    Clears steward (page x) (words 0x390 0x3A0) (.upClearCounts · x) ∧
    Clears steward (page x) (words 0x410 0x430) (.shClearCounts · x) ∧
    Clears keeper (page x) (words 0x4B0 0x4B8) (.croftPowerClearCounts · x)

/-- CLEAR_COUNTS of a stack's controller, of a DDR5 channel or CXL port, of a slice, of the tally file, of the mill, of a port, of a
partition's parity, of the well, of the device page, of the host interface page and of a die, written by the control core or the reeve
on a page that no other requester has locked, and of a function's page, written by the control core or that function: the registers
of the page's counters read 0 afterwards, and no other register and nothing else changes (10 R343, R344; 11 R386, R387; 12 R408, R409;
13 R459, R460; 14 R488, R489; 15 R523, R524; 16 R569, R570; 18 R622, R623, R625, R626). -/
def Obligations.BlockCountersClear : Prop :=
  (∀ h : HamletId, Clears keeper (fun _ => bHbm h.val) (0x84 :: words 0x58 0x6C) (.hbmClearCounts · h)) ∧
  (∀ c : Fin 12, Clears keeper (fun _ => bDdr c.val) (0x68 :: words 0x50 0x5C) (.channelClearCounts · (.ddr c))) ∧
  (∀ x : Fin 4, Clears keeper (fun _ => bCxl x.val) (0x68 :: words 0x50 0x5C) (.channelClearCounts · (.cxl x))) ∧
  (∀ i : SliceId, Clears keeper (fun _ => bSlice i.val) (words 0x48 0x5C) (.granaryClearCounts · i)) ∧
  Clears keeper (fun _ => bTally) (words 0x70 0x8C) .tallyClearCounts ∧
  Clears keeper (fun _ => bMill) (words 0x48 0x7C) .millClearCounts ∧
  (∀ v : PortId, Clears keeper (fun _ => bPort v.val) (words 0x58 0x78) (.portClearCounts · v)) ∧
  (∀ p : PartId, Clears keeper (fun _ => bMill) [0x338 + 64 * p.val, 0x33C + 64 * p.val] (.parityClearCounts · p)) ∧
  Clears keeper (fun _ => bWell) (words 0xC0 0xD0) .wellClearCounts ∧
  Clears keeper (fun _ => bDevice) (words 0x54 0x5C) .deviceClearCounts ∧
  Clears keeper (fun _ => bHostIf) (words 0x4C 0x58) .hostIfClearCounts ∧
  (∀ d : Fin 6, Clears keeper (fun _ => bDie d.val) (words 0x48 0x50) (.dieClearCounts · d)) ∧
  (∀ f : FnId, Clears (ownFn f) (fun _ => bFunction f.val) (words 0xA8 0xBC) (.fnPageClearCounts · f))

/-- CLEAR_FAULT of a croft's engines: their fault registers read 0, and nothing else changes (04 R144, 07 R243, 08 R279,
09 R314). -/
def Sys2Proof.Claims.UnitFaultsClear : Prop :=
  ∀ x : SlotId,
    Clears steward (page x) (words 0x140 0x144) (.gzClearFault · x) ∧
    Clears steward (page x) [0x30C] (.fnUnitClearFault · x) ∧
    Clears steward (page x) (words 0x3C8 0x3CC) (.mvClearFault · x) ∧
    Clears steward (page x) (words 0x388 0x38C) (.upClearFault · x)

/-- CLEAR_COUNTS and CLEAR_FAULT of the units of a croft. -/
def Obligations.CroftUnitsClear : Prop := Claims.CroftCountersClear ∧ Claims.UnitFaultsClear

/-! ### Fields that software writes -/

namespace Sys2Proof.Claims

/-- A write of fields: by a requester that may make it, on a page open to it, in a state that allows it, the listed fields
hold the listed values afterwards, no other field changes, and of the rest of the state what `rest` says. -/
def SetsAnd (rest : State → State → Prop) (may : Requester → Prop) (opened : Requester → Nat → State → Prop) (allow : State → Prop)
    (b : State → Nat) (l : State → List (Field × Nat)) (i : Requester → Instr) : Prop :=
  ∀ (who : Requester) (s : State), may who → Reaches who (b s) s → opened who (b s) s → allow s →
    ∃ t, exec (i who) s = .next t ∧ FieldsAre (b s) (l s) s t ∧ rest s t

/-- The same, where nothing but registers changes. -/
abbrev Sets := SetsAnd fun s t => t = { s with regs := t.regs }

/-- Beside registers, the time for which croft `c` has hummed may change: the hum goes on, begins or ends (15 R503). -/
def HumNoted (c : State → Nat) (s t : State) : Prop :=
  t = { s with regs := t.regs, power := { s.power with idle := t.power.idle } } ∧
  (∀ k, k ≠ c s → mapGet (fun _ => none) t.power.idle k = mapGet (fun _ => none) s.power.idle k) ∧
  mapGet (fun _ => none) t.power.idle (c s) =
    if hums (c s) t then some ((mapGet (fun _ => none) s.power.idle (c s)).getD s.time) else none

end Sys2Proof.Claims

/-- CLEAR_HALT, the tally file's CLEAR_FAULT, any block's CLEAR_FAULT and CLEAR_ERR of a function: the fault record or
the error bits are 0, and no other field changes (03 R101, 12 R408, 16 R569, 18 R609). -/
def Sys2Proof.Claims.FaultRecordsClear : Prop :=
  (∀ x : SlotId, Sets steward Unlocked (fun _ => True) (page x)
    (fun _ => [(F.SEQ_STATUS_HALTED, 0), (F.BLK_FAULT_CODE, 0), (F.BLK_FAULT_INFO, 0)]) (.clearHalt · x)) ∧
  Sets keeper Unlocked (fun _ => True) (fun _ => bTally) (fun _ => [(F.BLK_FAULT_CODE, 0), (F.BLK_FAULT_INFO, 0)])
    .tallyClearFault ∧
  (∀ pg : Page, Sets (fun _ => True) PastFence (fun _ => True) (pageBlock pg)
    (fun _ => [(F.BLK_FAULT_CODE, 0), (F.BLK_FAULT_INFO, 0)]) (.blockClearFault · pg)) ∧
  (∀ f : FnId, Sets (ownFn f) Unlocked (fun _ => True) (fun _ => bFunction f.val)
    (fun _ => (F.FP_EV_ERR, 0) :: (List.range 14).map fun r => (F.FP_ERR.at r, 0)) (.clearErr · f))

/-- COMMITTED_STEP and POINT_REQ of a croft and STOP take the written value, where STOP clears only with a larder layout that
fits and the control core sets it only once each commit-class task of a committed step has completed (03 R79, R80, R101,
R102, 15 R505); the dispatch core writes POINT_REQ under a lock of another core too (18 R614). SERVICE changes while every
queue of the partition is empty, on every croft of it and on its function's page (03 R99); a write that would change it while
a queue is not empty is not made (log entry 50). -/
def Sys2Proof.Claims.CroftControlWrites : Prop :=
  (∀ (x : SlotId) (v : Bool) (who : Requester) (s : State), steward who → Reaches who (page x s) s → Unlocked who (page x s) s →
    (∀ p, ownerOf (page x s) s = some p → queuesEmpty p s = true ∨ getF (page x s) F.SEQ_CTRL_SERVICE s = bitOf v →
      ∃ t, exec (.seqServiceWrite who x v) s = .next t ∧ getF (page x s) F.SEQ_CTRL_SERVICE t = bitOf v ∧
        (∀ c ∈ croftsOf p s, getF (bCroft c) F.SEQ_CTRL_SERVICE t = bitOf v) ∧
        getF (bFunction (p + 1)) F.FP_SERVICE t = bitOf v ∧ t = { s with regs := t.regs, parts := t.parts }) ∧
    (∀ p, ownerOf (page x s) s = some p → queuesEmpty p s = false → getF (page x s) F.SEQ_CTRL_SERVICE s ≠ bitOf v →
      exec (.seqServiceWrite who x v) s = .next s)) ∧
  (∀ (x : SlotId) (v : BitVec 16), Sets steward Unlocked (fun _ => True) (page x)
    (fun _ => [(F.COMMITTED_STEP, v.toNat)]) (.committedStepWrite · x v)) ∧
  (∀ (x : SlotId) (v : BitVec 3), Sets keeper Unlocked (fun _ => True) (page x)
    (fun _ => [(F.CP_CTRL_POINT_REQ, v.toNat)]) (.pointReqWrite · x v)) ∧
  (∀ (x : SlotId) (v : BitVec 3), Sets (· = .dispatch) PastFence (fun _ => True) (page x)
    (fun _ => [(F.CP_CTRL_POINT_REQ, v.toNat)]) (.pointReqWrite · x v)) ∧
  (∀ x : SlotId, SetsAnd (HumNoted fun s => physOf x.h.val x.s.val s) steward Unlocked (fun s => ∀ p, ownerOf (page x s) s = some p → commitWork p s = false) (page x)
    (fun _ => [(F.SEQ_CTRL_STOP, 1)]) (.stopWrite · x true)) ∧
  (∀ x : SlotId, SetsAnd (HumNoted fun s => physOf x.h.val x.s.val s) steward Unlocked (fun s => layoutOk (physOf x.h.val x.s.val s) s = true) (page x)
    (fun _ => [(F.SEQ_CTRL_STOP, 0)]) (.stopWrite · x false))

/-- SEEN: the bits written as 1 clear (18 R609, R610). LAST_COMMITTED: writable by the control core in open service with no
STEP in flight, and by the function's host, low half first (16 R569, 18 R617). -/
def Sys2Proof.Claims.SeenAndLastCommittedWrites : Prop :=
  (∀ (pg : Page) (m : BitVec 5), Sets (fun _ => True) PastFence (fun _ => True) (pageBlock pg)
    (fun s => [(F.BLK_SEEN, (BitVec.ofNat 5 (getF (pageBlock pg s) F.BLK_SEEN s) &&& ~~~m).toNat)]) (.seenClear · pg m)) ∧
  (∀ (f : FnId) (v : BitVec 64) (who : Requester) (s : State), ownFn f who → Reaches who (bFunction f.val) s →
    Unlocked who (bFunction f.val) s → getF (bFunction f.val) F.FP_SERVICE s = 1 → stepInFlight (f.val - 1) s = false →
    ∃ t, exec (.lastCommittedWrite who f v) s = .next t ∧
      FieldsAre (bFunction f.val) [(F.FP_LAST_COMMITTED_LO, v.toNat % 2 ^ 32), (F.FP_LAST_COMMITTED_HI, v.toNat / 2 ^ 32)]
        s t ∧
      t = { s with regs := t.regs, loLatch := t.loLatch })

/-- Fault records, error bits, SEEN and LAST_COMMITTED: what a write of them leaves. -/
def Obligations.RecordsClear : Prop := Claims.FaultRecordsClear ∧ Claims.SeenAndLastCommittedWrites

/-! ### Writes that act on a croft -/

/-- ABANDON marks every running task of a croft in open service and nothing else (03 R99, R100). -/
def Sys2Proof.Claims.AbandonMarksRunningTasks : Prop :=
  ∀ (x : SlotId) (who : Requester) (s : State), steward who → Reaches who (page x s) s → Unlocked who (page x s) s →
    getF (page x s) F.SEQ_CTRL_SERVICE s = 1 →
    ∃ t, exec (.abandon who x) s = .next t ∧
      croftOf (physOf x.h.val x.s.val s) t =
        { croftOf (physOf x.h.val x.s.val s) s with
          queue := (croftOf (physOf x.h.val x.s.val s) s).queue.map fun k =>
            if k.phase = .running then { k with abandon := true } else k } ∧
      OtherCrofts (physOf x.h.val x.s.val s) s t ∧ OnlyRegs [] s { t with crofts := s.crofts }

/-- PURGE and PURGE_STEP (03 R80, R101), with no commit-class task of a committed step left: no selected task stays unstarted but one of
commit class whose step is committed, which no purge removes; every task not selected keeps its slot, and a selected task that holds a
registration leaves with a withdrawal on the fabric. -/
def Sys2Proof.Claims.PurgeRemovesUnstartedTasks : Prop :=
  ∀ (x : SlotId) (tag : BitVec 16) (who : Requester) (s : State), steward who → Reaches who (page x s) s →
    Unlocked who (page x s) s → (∀ p, ownerOf (page x s) s = some p → commitWork p s = false) →
    ∀ (i : Instr) (sel : Task → Bool),
      ((i = .purge who x ∧ sel = fun _ => true) ∨
        (i = .purgeStep who x tag ∧ sel = fun k => dStepTag k.desc == tag.toNat)) →
      let c := physOf x.h.val x.s.val s
      ∃ t, exec i s = .next t ∧
        (∀ k ∈ (croftOf c t).queue, k.phase = .queued → sel k = false ∨ committedDesc c k.desc s = true) ∧
        (∀ k ∈ (croftOf c s).queue, (∀ j ∈ (croftOf c s).queue, j.uid = k.uid → j = k) →
          (sel k = false ∨ committedDesc c k.desc s = true ∨ (k.phase = .running ∧ (dOpcode k.desc ≠ opTallyWait ∨ k.worked = true))) →
          k ∈ (croftOf c t).queue) ∧
        (∀ p, contextOf c s = some p → ∀ k ∈ (croftOf c s).queue, sel k = true → k.phase = .queued →
          k.registered = true → committedDesc c k.desc s = false →
          ⟨p, dWaitTally k.desc, .withdraw, .task c k.uid⟩ ∈ t.tally.ops) ∧
        OtherCrofts c s t ∧ SameBytes s t

/-- ABANDON, PURGE and PURGE_STEP. -/
def Obligations.TasksMarkedAndRemoved : Prop := Claims.AbandonMarksRunningTasks ∧ Claims.PurgeRemovesUnstartedTasks

namespace Sys2Proof.Claims

/-- The accumulator slots of a croft's engine: all free afterwards, and no byte but the slots' validity bytes changes. -/
def Frees (c : Nat) (g : SlotRegion) (s t : State) : Prop :=
  slotsValid c g t = 0 ∧ ∀ q, (∀ i < g.n, q ≠ plLarder c (g.at i)) → rd q t = rd q s

end Sys2Proof.Claims

/-- ACC_CLEAR of the gauze engine and of the looms, while no task of the engine runs, and CLEAR_RATES (11 R353): every slot is free, and no
other byte changes. After a repeat verdict the control core clears the accumulators of every croft of the partition before
it reissues the step (04 R133, 05 R168; 12 R403). -/
def Obligations.AccumulatorsClear : Prop :=
  (∀ (x : SlotId) (who : Requester) (s : State), steward who → Reaches who (page x s) s → Unlocked who (page x s) s →
    let c := physOf x.h.val x.s.val s
    (runningOf c 0 s = none → ∃ t, exec (.gzAccClear who x) s = .next t ∧ Frees c (gzSlots c s) s t ∧
      OnlyRegs [] s { t with mem := s.mem }) ∧
    (runningOf c 1 s = none → ∃ t, exec (.lmAccClear who x) s = .next t ∧ Frees c (lmSlots c s) s t ∧
      OnlyRegs [] s { t with mem := s.mem }) ∧
    (∃ t, exec (.clearRates who x) s = .next t ∧ croftOf c t = { croftOf c s with rates := [] } ∧ OtherCrofts c s t ∧
      OnlyRegs [] s { t with crofts := s.crofts })) ∧
  (∀ (p : PartId) (s : State),
    (∀ r, (partOf p.val s).run = some r → r.reissue = true → queuesEmpty p.val s = true → commitWork p.val s = false →
      usesLost p.val r.tasks s = false →
      ∃ t, exec (.repeatReissue p) s = .next t ∧ (partOf p.val t).run = some { r with reissue := false } ∧
        (partOf p.val t).rel = (partOf p.val s).rel ++ r.tasks ∧ (partOf p.val t).repeatDue = (partOf p.val s).repeatDue ∧
        (∀ e ∈ r.expects, ⟨p.val, e.1, .expect e.2 (epochOf r.step r.attempt), .control⟩ ∈ t.tally.ops) ∧
        (∀ c ∈ croftsOf p.val s, slotsValid c (gzSlots c s) t = 0 ∧ slotsValid c (lmSlots c s) t = 0) ∧
        t.crofts = s.crofts ∧ t.regs = s.regs))

/-- PROBE puts the spindle's four output words for the croft's seed and the counter of the page into PROBE_OUT and sets
PROBE_DONE; the counter and the seed stay (09 R281 to R284, R295). -/
def Obligations.ProbeEvaluatesSpindle : Prop :=
  ∀ (x : SlotId) (who : Requester) (s : State), steward who → Reaches who (page x s) s → Unlocked who (page x s) s →
    let b := page x s
    let k (i : Nat) : Word := BitVec.ofNat 32 (getF b (F.SP_PROBE_CTR.at i) s)
    let y := spindle (getPair b F.SP_SEED_LO F.SP_SEED_HI s) (k 0) (k 1) (k 2) (k 3)
    ∃ t, exec (.probe who x) s = .next t ∧ (∀ i < 4, getF b (F.SP_PROBE_OUT.at i) t = y.word i) ∧
      getF b F.SP_STATUS_PROBE_DONE t = 1 ∧
      OnlyRegs (regKey b F.SP_STATUS_PROBE_DONE.off :: regKey b F.SP_EVALS.off ::
        (List.range 4).map fun i => regKey b (F.SP_PROBE_OUT.at i).off) s t

/-! ### Locks, owners and maps -/

/-- A lock is taken by a requester that has a code while the page is free, released by its holder, and released after 1 ms
without it, which the device counts (18 R613, R615); a taken lock stays its holder's. -/
def Obligations.PageLocks : Prop :=
  ∀ (pg : Page) (s : State),
    (∀ who, who ≠ .dispatch → Reaches who (pageBlock pg s) s → getF (pageBlock pg s) F.BLK_HOLDER s = 0 →
      ∃ t, exec (.lockTake who pg) s = .next t ∧ FieldsAre (pageBlock pg s) [(F.BLK_HOLDER, takeCode who)] s t ∧
        mapGet (fun _ => 0) t.lockSince (pageBlock pg s) = s.time ∧
        t = { s with regs := t.regs, lockSince := t.lockSince }) ∧
    (∀ who, Reaches who (pageBlock pg s) s → getF (pageBlock pg s) F.BLK_HOLDER s ≠ 0 →
      getF (pageBlock pg s) F.BLK_HOLDER s ≠ takeCode who →
      ∃ t, exec (.lockTake who pg) s = .next t ∧
        getF (pageBlock pg s) F.BLK_HOLDER t = getF (pageBlock pg s) F.BLK_HOLDER s ∧
        getF bDevice F.DEV_WRITES_DISCARDED t = min (getF bDevice F.DEV_WRITES_DISCARDED s + 1) (2 ^ 32 - 1)) ∧
    (∀ who, who ≠ .dispatch → Reaches who (pageBlock pg s) s →
      getF (pageBlock pg s) F.BLK_HOLDER s = takeCode who →
      ∃ t, exec (.lockRelease who pg) s = .next t ∧ FieldsAre (pageBlock pg s) [(F.BLK_HOLDER, 0)] s t ∧
        t = { s with regs := t.regs, lockSince := t.lockSince }) ∧
    (getF (pageBlock pg s) F.BLK_HOLDER s ≠ 0 →
      mapGet (fun _ => 0) s.lockSince (pageBlock pg s) + 10 ^ 6 ≤ s.time →
      ∃ t, exec (.lockTimeout pg) s = .next t ∧ getF (pageBlock pg s) F.BLK_HOLDER t = 0 ∧
        getF bDevice F.DEV_LOCK_TIMEOUTS t = min (getF bDevice F.DEV_LOCK_TIMEOUTS s + 1) (2 ^ 32 - 1) ∧
        OnlyRegs [regKey (pageBlock pg s) F.BLK_HOLDER.off, regKey bDevice F.DEV_LOCK_TIMEOUTS.off] s
          { t with lockSince := s.lockSince }) ∧
    (∀ t0, s.reeve.restart = some t0 → (∀ b, getF b F.BLK_HOLDER s = 2 → ∃ e ∈ s.lockSince, e.1 = b) →
      isDead s = true ∨ (chooseSet { s with reeve := { s.reeve with restart := none } }).1 = true →
      ∃ t, exec .reeveRestartDone s = .next t ∧
        ∀ b, getF b F.BLK_HOLDER t = if getF b F.BLK_HOLDER s = 2 then 0 else getF b F.BLK_HOLDER s)

namespace Sys2Proof.Claims

/-- No cache slice holds a dirty granule or is being flushed: the cache of a partition may gain or lose a slice (11 R364). -/
def CachesClean (s : State) : Prop := ∀ p < 8, ∀ i ∈ cacheSlices p s, dirtyLines i s = 0 ∧ i ∉ s.memsys.flushing

/-- A slice caches for a partition whose cache has gained or lost a slice (11 R361). -/
def Moved (j : Nat) (s t : State) : Prop :=
  ∃ p < 8, cacheSlices p s ≠ cacheSlices p t ∧ j ∈ cacheSlices p s ++ cacheSlices p t

/-- The lines of every slice but `i` are as before, but that a slice whose partition's cache has gained or lost a slice holds none (11
R361, R364). -/
def LinesKept (i : Nat) (s t : State) : Prop :=
  (∀ k, k / 6144 ≠ i → ¬Moved (k / 6144) s t →
    mapGet (fun _ => none) t.memsys.lines k = mapGet (fun _ => none) s.memsys.lines k) ∧
  ∀ j, Moved j s t → linesOf j t = []

end Sys2Proof.Claims

/-- OWNER of a hamlet, slice, port, die or channel takes the control core's value; a slice's only with every cache slice
clean and with its owner's queues empty, and then the slices of a cache that gains or loses it start empty (11 R361, R364; 18 R611). PHYS of
a croft map slot exchanges two crofts that are stopped and empty, in the croft map and in what the ledger restores, and every other slot
stays (18 R624). -/
def Sys2Proof.Claims.OwnersAndCroftMap : Prop :=
  (∀ (pg : Page) (p : PartId) (a : Bool) (s : State), s.power.supply = .on → ownerWritable (pageBlock pg s) = true →
    (∀ i : SliceId, pg = .slice i → dirtyLines i.val s = 0 ∧ CachesClean s ∧
      ∀ q, ownerOf (bSlice i.val) s = some q → queuesEmpty q s = true) →
    ∃ t, exec (.ownerWrite .control pg p a) s = .next t ∧
      FieldsAre (pageBlock pg s) [(F.BLK_PART, p.val), (F.BLK_ASSIGNED, bitOf a)] s t ∧
      ((∀ i : SliceId, pg ≠ .slice i) → t.memsys = s.memsys) ∧
      LinesKept 64 s t ∧
      t = { s with regs := t.regs, memsys := { s.memsys with lines := t.memsys.lines } }) ∧
  (∀ (x : SlotId) (phys : BitVec 6) (s : State), s.power.supply = .on → NotLocked .control (bHamlet x.h.val) s →
    phys.toNat ≤ 37 → croftBusy (physOf x.h.val x.s.val s) s = false → croftBusy (38 * x.h.val + phys.toNat) s = false →
    ∃ t, exec (.croftMapWrite .control x phys) s = .next t ∧
      (let o := holderSlot x.h.val phys.toNat s
       getW (bHamlet x.h.val) (0x80 + 4 * x.s.val) t = getW (bHamlet x.h.val) (0x80 + 4 * o) s ∧
       getW (bHamlet x.h.val) (0x80 + 4 * o) t = getW (bHamlet x.h.val) (0x80 + 4 * x.s.val) s ∧
       ∀ i < 38, i ≠ x.s.val → i ≠ o →
         getW (bHamlet x.h.val) (0x80 + 4 * i) t = getW (bHamlet x.h.val) (0x80 + 4 * i) s) ∧
      (∀ i < 38, mapGet resetWord t.reeve.perm (regKey (bHamlet x.h.val) (0x80 + 4 * i)) =
        getW (bHamlet x.h.val) (0x80 + 4 * i) t) ∧ SameBytes s t ∧ t.crofts = s.crofts)

/-- Writes of the croft map, the owner tables and the control registers of a croft. -/
def Obligations.OwnersAndControls : Prop := Claims.CroftControlWrites ∧ Claims.OwnersAndCroftMap

/-! ### The task sequencer -/

/-- DESCRIPTOR_ARRIVAL: a descriptor that passes its checks takes the last slot, its wait registered; one that fails them
halts the croft with its fault code and operand recorded, and takes no slot; one for a fenced croft takes none (03 R82, R92, R95,
R103). -/
def Sys2Proof.Claims.DescriptorArrives : Prop :=
  ∀ (c : CroftId) (s : State) (a : Arrival) (r : List Arrival), (croftOf c.val s).arriving = a :: r →
    (fenced (bCroft c.val) s = false → arrivalRefused c.val a s = none →
      ∃ t, exec (.descriptorArrival c) s = .next t ∧ (croftOf c.val t).arriving = r ∧
        (∃ k, (croftOf c.val t).queue = (croftOf c.val s).queue ++ [k] ∧ k.uid = s.nextUid ∧ k.desc = a.desc ∧
          k.phase = .queued ∧ k.satisfied = false ∧ k.registered = (dWaitUse a.desc && dWaitValue a.desc != 0)) ∧
        (∀ p, contextOf c.val s = some p → dWaitUse a.desc = true → dWaitValue a.desc ≠ 0 →
          t.tally.ops = s.tally.ops ++ [⟨p, dWaitTally a.desc, .wait (dWaitValue a.desc), .task c.val s.nextUid⟩]) ∧
        OtherCrofts c.val s t ∧ t = { s with crofts := t.crofts, tally := t.tally, nextUid := s.nextUid + 1 }) ∧
    (fenced (bCroft c.val) s = false → ∀ code operand, arrivalRefused c.val a s = some (code, operand) →
      ∃ t, exec (.descriptorArrival c) s = .next t ∧ (croftOf c.val t).arriving = r ∧
        (croftOf c.val t).queue = (croftOf c.val s).queue ∧ flag (bCroft c.val) F.SEQ_STATUS_HALTED t = true ∧
        getF (bCroft c.val) F.BLK_FAULT_CODE t = code + operand * 2 ^ 8 ∧
        getF (bCroft c.val) F.BLK_FAULT_INFO t = dOpcode a.desc * 2 ^ 8 + dTaskId a.desc * 2 ^ 16 ∧
        OtherCrofts c.val s t ∧ SameDeviceBytes s t) ∧
    (fenced (bCroft c.val) s = true →
      ∃ t, exec (.descriptorArrival c) s = .next t ∧ (croftOf c.val t).arriving = r ∧
        (croftOf c.val t).queue = (croftOf c.val s).queue ∧ OtherCrofts c.val s t ∧ SameBytes s t)

/-- The checks of an arriving descriptor, in their order: a direct task in timed service, an opcode the table does not define,
reserved bits and operands, and tallies that the croft's context does not map (03 R78, R90, R92, R95, 12 R393). -/
def Sys2Proof.Claims.ArrivalChecks : Prop :=
  ∀ (c : Nat) (d : Desc) (s : State),
    (∀ (t cmd : Nat), arrivalRefused c ⟨d, t, cmd⟩ s =
      if croftTimed c s && s.host.cmds.any (fun k => k.uid == cmd && dF 0 1 k.words == 3) then some (0x0D, 0) else arrivalFault c d s) ∧
    (opDefined (dOpcode d) = false → arrivalFault c d s = some (0x01, 0)) ∧
    (opDefined (dOpcode d) = true → bits 3 5 (dFlags d) ≠ 0 → arrivalFault c d s = some (0x02, 0)) ∧
    (arrivalFault c d s = none →
      opDefined (dOpcode d) = true ∧ bits 3 5 (dFlags d) = 0 ∧ operandFault d = none ∧
      (dWaitUse d = true → ∃ p, contextOf c s = some p ∧ (tallyPhys p (dWaitTally d) s).isSome) ∧
      (dDoneUse d = true → ∃ p, contextOf c s = some p ∧ (tallyPhys p (dDoneTally d) s).isSome))

/-- DESCRIPTOR_ARRIVAL: a slot taken or a refusal, in the order of the checks. -/
def Obligations.DescriptorsTaken : Prop := Claims.DescriptorArrives ∧ Claims.ArrivalChecks

/-- A unit class starts the oldest of its tasks that has not started, when the croft may start tasks, the unit is free, the
task's wait is satisfied, every older task has completed when it is fenced, and the commit gate is open; and under these conditions it
does (03 R79, R83, R84, R95, R97, R99, R101; 15 R504, R505). -/
def Obligations.StartRules : Prop :=
  ∀ (c u : Nat) (s : State) (k : Task),
    startable c u s = some k ↔
      (flag (bCroft c) F.SEQ_CTRL_STOP s = false ∧ flag (bCroft c) F.SEQ_STATUS_HALTED s = false ∧
        fenced (bCroft c) s = false ∧ asleep c s = false ∧ flag (bCroft c) F.CP_STATUS_CHANGING s = false ∧
        targetPoint c s = getF (bCroft c) F.CP_STATUS_POINT s) ∧
      (∀ j ∈ (croftOf c s).queue, j.phase = .running → j.worked = false ∨ u = 4 ∨ u = 5 → unitOf (dOpcode j.desc) ≠ u) ∧
      (∃ l r, (croftOf c s).queue = l ++ k :: r ∧ k.phase = .queued ∧ unitOf (dOpcode k.desc) = u ∧
        (∀ j ∈ l, ¬(j.phase = .queued ∧ unitOf (dOpcode j.desc) = u)) ∧ (dFence k.desc = true → ∀ j ∈ l, j.phase = .leaving)) ∧
      (k.satisfied = true ∨ dWaitUse k.desc = false ∨ dWaitValue k.desc = 0) ∧
      (commitClass (dOpcode k.desc) = true →
        (croftTimed c s = true → getF (bCroft c) F.COMMITTED_STEP s = dStepTag k.desc) ∧
        ∀ p, contextOf c s = some p → timed p s = true → (partOf p s).stopCommits = false)

namespace Sys2Proof.Claims

/-- The task runs from now on, LAST_STARTED names it, and the other crofts are as before. -/
def Started (c : Nat) (k : Task) (s t : State) : Prop :=
  (∃ j ∈ (croftOf c t).queue, j.uid = k.uid) ∧
  (∀ j ∈ (croftOf c t).queue, j.uid = k.uid → j.phase = .running ∧ j.started = s.time ∧ j.desc = k.desc) ∧
  getF (bCroft c) F.LAST_STARTED t = dTaskId k.desc + dOpcode k.desc * 2 ^ 16 ∧ OtherCrofts c s t

/-- The number of a task names no other task of its queue. -/
def Named (c : Nat) (k : Task) (s : State) : Prop := ∀ j ∈ (croftOf c s).queue, j.uid = k.uid → j = k

end Sys2Proof.Claims

/-- TALLY_ADD, TALLY_WAIT and TALLY_EXPECT start and send their operation to the tally file; a TALLY_WAIT for 0 is
satisfied at once (12 R394, R396 to R398). -/
def Obligations.TallyTasksStart : Prop :=
  ∀ (c : CroftId) (s : State) (k : Task) (p : Nat), contextOf c.val s = some p → Named c.val k s →
    (startableOp c.val opTallyAdd s = some k →
      ∃ t, exec (.tallyAdd c) s = .next t ∧ Started c.val k s t ∧ SameBytes s t ∧
        t.tally = { s.tally with ops := s.tally.ops ++
          [⟨p, dF 0x18 2 k.desc, .add (dF 0x1C 4 k.desc), .task c.val k.uid⟩] }) ∧
    (startableOp c.val opTallyExpect s = some k →
      ∃ t, exec (.tallyExpect c) s = .next t ∧ Started c.val k s t ∧ SameBytes s t ∧
        t.tally = { s.tally with ops := s.tally.ops ++
          [⟨p, dF 0x18 2 k.desc, .expect (dF 0x1C 4 k.desc) (dF 0x20 4 k.desc), .task c.val k.uid⟩] }) ∧
    (startableOp c.val opTallyWait s = some k →
      ∃ t, exec (.tallyWait c) s = .next t ∧ Started c.val k s t ∧ SameBytes s t ∧
        (dF 0x1C 4 k.desc = 0 → t.tally = s.tally ∧ ∀ j ∈ (croftOf c.val t).queue, j.uid = k.uid → j.worked = true) ∧
        (dF 0x1C 4 k.desc ≠ 0 → t.tally = { s.tally with ops := s.tally.ops ++
          [⟨p, dF 0x18 2 k.desc, .wait (dF 0x1C 4 k.desc), .task c.val k.uid⟩] }))

namespace Sys2Proof.Claims

/-- The task is counted as completed; its slot is free, or its addition is on the fabric and its slot held. -/
def Completed (c : Nat) (k : Task) (s t : State) : Prop :=
  getF (bCroft c) F.TASKS_DONE t = min (getF (bCroft c) F.TASKS_DONE s + 1) (2 ^ 32 - 1) ∧
  (dDoneUse k.desc = false → (croftOf c t).queue = (croftOf c s).queue.filter (fun j => decide (j.uid ≠ k.uid)) ∧
    t.tally.ops = s.tally.ops) ∧
  (∀ p, contextOf c s = some p → dDoneUse k.desc = true →
    t.tally.ops = s.tally.ops ++ [⟨p, dDoneTally k.desc, .add (dDoneAdd k.desc), .done c k.uid⟩] ∧
    ∀ j ∈ (croftOf c t).queue, j.uid = k.uid → j.phase = .leaving) ∧
  OtherCrofts c s t ∧ SameDeviceBytes s t

end Sys2Proof.Claims

/-- TASK_COMPLETE: the oldest task of the unit whose work and traffic are done is counted; without a DONE_TALLY its slot is
free at once, with one the addition goes to the tally file and the slot is held until it is acknowledged (03 R87, R89;
12 R400). The output of a product task takes effect with it (04 R142, 05 R170: log entry 62); an in-place COPY that was abandoned while it
wrote frees its slot without the addition (11 R375). -/
def Sys2Proof.Claims.TaskCompletes : Prop :=
  ∀ (c : CroftId) (u : Fin 7) (s : State) (k : Task), completable c.val u.val s = some k →
    (endingOf c.val k.uid s = none → ∃ t, exec (.taskComplete c u) s = .next t ∧ Completed c.val k s t) ∧
    (∀ e p, endingOf c.val k.uid s = some e → contextOf c.val s = some p →
      (k.abandon = false ∨ e.firm = [] → ∀ v, endingWork k e (ctxOf c.val k p) s = .ok () v →
        ∃ t, exec (.taskComplete c u) s = .next t ∧ Completed c.val k v t) ∧
      (k.abandon = true → e.firm ≠ [] → k.registered = false → opOut c.val k.uid s = false →
        ∃ t, exec (.taskComplete c u) s = .next t ∧ t.tally.ops = s.tally.ops ∧ (∀ j ∈ (croftOf c.val t).queue, j.uid ≠ k.uid) ∧
          getF (bCroft c.val) F.TASKS_DONE t = getF (bCroft c.val) F.TASKS_DONE s ∧ OtherCrofts c.val s t ∧ SameBytes s t))

/-- ABANDON_STOP: an abandoned task that is not past its last point frees its slot without its DONE_TALLY addition once it stands
at a boundary and its last piece has returned; a TALLY_WAIT withdraws its registration first, and a task whose own operation the tally file
has yet to apply holds its slot until then (12 R400); a task past its last point, a
gauze task whose sums are under way and a loom task with a slot to run go on (03 R100, 04 R143, 05 R170, 11 R383). -/
def Sys2Proof.Claims.AbandonedTaskStops : Prop :=
  ∀ (c : CroftId) (u : Fin 7) (s : State) (k : Task),
    (croftOf c.val s).queue.find? (fun j => j.phase == .running && j.abandon && unitOf (dOpcode j.desc) == u.val) = some k →
    (pastAbandon c.val k s = true → exec (.abandonStop c u) s = .next s) ∧
    (pastAbandon c.val k s = false → (croftOf c.val s).gz.filter (fun g => g.uid == k.uid) = none →
      (croftOf c.val s).loom.filter (fun g => g.uid == k.uid) = none →
      (∃ q ∈ (croftOf c.val s).pieces, q.uid = k.uid) →
      ∃ t, exec (.abandonStop c u) s = .next t ∧ (croftOf c.val t).queue = (croftOf c.val s).queue ∧
        (croftOf c.val t).pieces = (croftOf c.val s).pieces ∧ (∀ y ∈ (croftOf c.val t).xfers, y.uid ≠ k.uid) ∧
        OtherCrofts c.val s t ∧ t = { s with crofts := t.crofts }) ∧
    (pastAbandon c.val k s = false → (croftOf c.val s).gz.filter (fun g => g.uid == k.uid) = none →
      (croftOf c.val s).loom.filter (fun g => g.uid == k.uid) = none →
      (∀ q ∈ (croftOf c.val s).pieces, q.uid ≠ k.uid) →
      ∃ t, exec (.abandonStop c u) s = .next t ∧ OtherCrofts c.val s t ∧ SameBytes s t ∧
        (k.registered = false → t.tally.ops = s.tally.ops) ∧
        (k.registered = false → opOut c.val k.uid s = false → ∀ j ∈ (croftOf c.val t).queue, j.uid ≠ k.uid) ∧
        (k.registered = false → opOut c.val k.uid s = true → contextOf c.val s ≠ none →
          ∀ j ∈ (croftOf c.val t).queue, j.uid = k.uid → j.phase = .leaving) ∧
        (∀ p, k.registered = true → contextOf c.val s = some p →
          t.tally.ops = s.tally.ops ++ [⟨p, dF 0x18 2 k.desc, .withdraw, .task c.val k.uid⟩])) ∧
    (∀ g, (croftOf c.val s).gz.filter (fun g => g.uid == k.uid) = some g →
      gzQuiet (gzGiveUp g) = false ∨ drained c.val k.uid s = false → exec (.abandonStop c u) s = .next s) ∧
    (∀ g, (croftOf c.val s).gz.filter (fun g => g.uid == k.uid) = none →
      (croftOf c.val s).loom.filter (fun g => g.uid == k.uid) = some g →
      g.slotsA ≠ [] ∨ g.slotsB ≠ [] ∨ drained c.val k.uid s = false → exec (.abandonStop c u) s = .next s)

/-- TASK_COMPLETE and ABANDON_STOP. -/
def Obligations.TasksEnd : Prop := Claims.TaskCompletes ∧ Claims.AbandonedTaskStops

/-! ### The tally file -/

namespace Sys2Proof.Claims

/-- STEP_NOW of every croft of a partition and ACTIVE_PLANS hold what a STEP names (16 R540; 09 R288; 13 R434). -/
def StepOpened (p step plans : Nat) (s t : State) : Prop :=
  (∀ k ∈ croftsOf p s, getPair (bCroft k) F.STEP_NOW_LO F.STEP_NOW_HI t = step) ∧ activePlans p t = plans

end Sys2Proof.Claims

/-- The oldest operation of a bank is applied: an addition saturates and releases every registration its value reaches, in
order (12 R394 to R396, R401). -/
def Sys2Proof.Claims.TallyAddition : Prop :=
  ∀ (bank : Fin 16) (s : State) (o : TallyOp) (q a : Nat), bankHead bank.val s = some (o, q) → o.kind = .add a →
    ∃ t, exec (.tallyOpAdd bank) s = .next t ∧
      (let k := tallyOf q s
       let v := min (k.value.toNat + a) (2 ^ 32 - 1)
       (tallyOf q t).value.toNat = v ∧ (tallyOf q t).epoch = k.epoch ∧
       (tallyOf q t).sat = (k.sat || decide (2 ^ 32 ≤ k.value.toNat + a)) ∧
       (tallyOf q t).overrun = (k.overrun || (k.checked && k.remaining == 0)) ∧
       (tallyOf q t).remaining = (if k.checked && k.remaining != 0 then k.remaining - 1 else k.remaining) ∧
       t.tally.waiters = s.tally.waiters.filter (fun w => !decide (w.phys = q ∧ w.value ≤ v)) ∧
       t.tally.releases = s.tally.releases ++
         (s.tally.waiters.filter fun w => decide (w.phys = q ∧ w.value ≤ v ∧ w.croft ≠ stewardWaiter)).map
           fun w => (w.croft, w.uid)) ∧
      t.tally.ops = s.tally.ops.erase o ∧ t.tally.maps = s.tally.maps ∧ (∀ r, r ≠ q → tallyOf r t = tallyOf r s) ∧
      SameDeviceBytes s t

/-- A registration of a task is released at once when the tally has reached its value, else it is held; a withdrawal
leaves no registration of the task on the tally and frees its slot (12 R396, R397, R400). -/
def Sys2Proof.Claims.TallyRegistrations : Prop :=
  ∀ (bank : Fin 16) (s : State) (o : TallyOp) (q c u : Nat), bankHead bank.val s = some (o, q) → o.src = .task c u →
    (∀ w, o.kind = .wait w →
      ∃ t, exec (.registerWait bank) s = .next t ∧ t.tally.tallies = s.tally.tallies ∧ t.tally.maps = s.tally.maps ∧
        t.tally.ops = s.tally.ops.erase o ∧ t.crofts = s.crofts ∧ SameBytes s t ∧
        (w ≤ (tallyOf q s).value.toNat → t.tally.releases = s.tally.releases ++ [(c, u)] ∧
          t.tally.waiters = s.tally.waiters) ∧
        (¬ w ≤ (tallyOf q s).value.toNat → t.tally.releases = s.tally.releases ∧
          t.tally.waiters = s.tally.waiters ++ [⟨q, w, c, u, s.time, false⟩])) ∧
    (o.kind = .withdraw →
      ∃ t, exec (.withdrawWait bank) s = .next t ∧ t.tally.tallies = s.tally.tallies ∧ t.tally.maps = s.tally.maps ∧
        t.tally.ops = s.tally.ops.erase o ∧ t.tally.releases = s.tally.releases ∧
        t.tally.waiters = s.tally.waiters.filter (fun w => !decide (w.phys = q ∧ w.croft = c ∧ w.uid = u)) ∧
        (∀ j ∈ (croftOf c t).queue, j.uid ≠ u) ∧ OtherCrofts c s t ∧ SameBytes s t)

/-- An expect for the epoch that is open with the declared count changes no tally; any other opens its epoch at value 0
with the declared count, and records in STRANDED whether registrations were held; with the last expect of a STEP acknowledged the step's
registers are written (12 R398, R401; 16 R540). -/
def Sys2Proof.Claims.TallyExpectOpensEpoch : Prop :=
  ∀ (bank : Fin 16) (s : State) (o : TallyOp) (q n e : Nat), bankHead bank.val s = some (o, q) → o.kind = .expect n e →
    n < 2 ^ 32 → e < 2 ^ 32 →
    let k := tallyOf q s
    ∃ t, exec (.expect bank) s = .next t ∧ t.tally.ops = s.tally.ops.erase o ∧ t.tally.maps = s.tally.maps ∧
      (∀ r, r ≠ q → tallyOf r t = tallyOf r s) ∧ SameDeviceBytes s t ∧
      (k.opened = true → k.epoch.toNat = e → tallyOf q t = k ∧ t.tally.waiters = s.tally.waiters) ∧
      (¬(k.opened = true ∧ k.epoch.toNat = e) →
        (tallyOf q t).value = 0 ∧ (tallyOf q t).epoch.toNat = e ∧ (tallyOf q t).opened = true ∧
        (tallyOf q t).declared.toNat = n ∧ (tallyOf q t).checked = (n != 0) ∧
        (n ≠ 0 → (tallyOf q t).remaining.toNat = n) ∧ (tallyOf q t).sat = false ∧ (tallyOf q t).overrun = false ∧
        (tallyOf q t).under = (k.checked && k.remaining != 0) ∧ (tallyOf q t).stranded = !(heldOn q s).isEmpty) ∧
      (∀ r plans, o.src = .control → o.ctx < 8 → (partOf o.ctx s).run = some r → r.plans = some plans →
        (∀ y ∈ s.tally.ops.erase o, y.ctx = o.ctx → y.kind.isExpect = true → y.src.task?.isSome = true) →
        StepOpened o.ctx (r.step % 2 ^ 64) (plans % 2 ^ 64) s t ∧ (partOf o.ctx t).run = some { r with plans := none })

/-- The operations of the tally file: add, wait, withdraw and expect (12 R394 to R401). -/
def Obligations.TallyOperations : Prop := Claims.TallyAddition ∧ Claims.TallyRegistrations ∧ Claims.TallyExpectOpensEpoch

/-- An operation of the steward, the mill or the host interface on an ID its context does not map touches no tally and is
recorded as UNMAPPED; a refused expect of a STEP ends that STEP, which issues no further expect; a release satisfies the wait of its task; and a registration held for STALL_US is reported once and stays
held (12 R393, R396, R397, R401). -/
def Sys2Proof.Claims.TallyReports : Prop :=
  (∀ (s : State) (o : TallyOp),
    s.tally.ops.find? (fun o => o.src.task?.isNone && (tallyPhys o.ctx o.virt s).isNone) = some o → o.ctx < 8 →
    let refused (r : StepRun) : Prop := o.src = .control ∧ o.kind.isExpect = true ∧ ∃ e ∈ r.expects, e.1 = o.virt
    ∃ t, exec .unmappedTallyOp s = .next t ∧ getF bTally F.BLK_FAULT_CODE t = 0x07 + o.ctx * 2 ^ 8 ∧
      ((∀ r, (partOf o.ctx s).run = some r → ¬refused r) → t.tally = { s.tally with ops := s.tally.ops.erase o }) ∧
      (∀ r, (partOf o.ctx s).run = some r → refused r → (partOf o.ctx t).run = none ∧
        (∀ y ∈ t.tally.ops, y ∈ s.tally.ops ∧ ¬(y.ctx = o.ctx ∧ y.src = .control ∧ y.kind.isExpect = true)) ∧
        ∀ k ∈ t.host.cmds, k.uid = r.cmd → k.phase = .done) ∧
      t.crofts = s.crofts ∧ SameDeviceBytes s t) ∧
  (∀ (c : CroftId) (s : State) (u : Nat), s.tally.releases.find? (fun r => decide (r.1 = c.val)) = some (c.val, u) →
    ∃ t, exec (.waitReleaseArrival c) s = .next t ∧ t.tally.releases = s.tally.releases.erase (c.val, u) ∧
      (∀ j ∈ (croftOf c.val t).queue, j.uid = u → (j.phase = .queued → j.satisfied = true ∧ j.registered = false) ∧
        (j.phase = .running → j.worked = true ∧ j.registered = false)) ∧
      (∀ j ∈ (croftOf c.val s).queue, j.uid ≠ u → j ∈ (croftOf c.val t).queue) ∧ OtherCrofts c.val s t ∧
      t = { s with crofts := t.crofts, tally := t.tally }) ∧
  (∀ (s : State) (w : Waiter), s.tally.waiters.find? (stallDue s) = some w →
    ∃ t, exec .waitStall s = .next t ∧
      t.tally.waiters = s.tally.waiters.map (fun x => if x = w then { x with stalled := true } else x) ∧
      getF bTally F.TL_STALLS t = min (getF bTally F.TL_STALLS s + 1) (2 ^ 32 - 1) ∧
      t.tally.tallies = s.tally.tallies ∧ t.crofts = s.crofts ∧ SameDeviceBytes s t)

/-- The tally map: a valid entry maps a physical tally, reset and without a waiter, to the context's virtual ID that TL_MAP_SEL
names; an invalid one resets and frees the tally the entry held; both only with the context's queues empty and the tally not mapped elsewhere. TL_RESET
resets a tally that no registration is held on, and keeps its mapping (12 R390 to R393, R408). -/
def Sys2Proof.Claims.TallyMapsAndResets : Prop :=
  ∀ (who : Requester) (s : State) (phys : BitVec 14), keeper who → Reaches who bTally s → Unlocked who bTally s →
    let ctx := getF bTally F.TL_MAP_SEL_CONTEXT s
    let v := getF bTally F.TL_MAP_SEL_VIRTUAL s
    (mapWriteOk ctx v phys.toNat true s = true →
      ∃ t, exec (.tallyMapWrite who phys true) s = .next t ∧ tallyPhys ctx v t = some phys.toNat ∧
        tallyOf phys.toNat t = { Tally.reset with mapped := true, context := ctx, virt := v } ∧
        (∀ c' v', c' * 4096 + v' ≠ ctx * 4096 + v → tallyPhys c' v' t = tallyPhys c' v' s) ∧ SameBytes s t ∧
        t.crofts = s.crofts ∧ t.tally.ops = s.tally.ops ∧
        t.tally.waiters = s.tally.waiters.filter
          (fun w => decide (w.phys ≠ phys.toNat ∧ tallyPhys ctx v s ≠ some w.phys))) ∧
    (mapWriteOk ctx v phys.toNat false s = true →
      ∃ t, exec (.tallyMapWrite who phys false) s = .next t ∧ tallyPhys ctx v t = none ∧
        (∀ q, tallyPhys ctx v s = some q → tallyOf q t = Tally.reset) ∧
        (∀ c' v', c' * 4096 + v' ≠ ctx * 4096 + v → tallyPhys c' v' t = tallyPhys c' v' s) ∧ SameBytes s t ∧
        t.crofts = s.crofts ∧ t.tally.ops = s.tally.ops ∧
        t.tally.waiters = s.tally.waiters.filter (fun w => decide (tallyPhys ctx v s ≠ some w.phys))) ∧
    (tallyResetOk phys.toNat s = true →
      ∃ t, exec (.tallyReset who phys) s = .next t ∧
        tallyOf phys.toNat t = { Tally.reset with
          mapped := (tallyOf phys.toNat s).mapped, context := (tallyOf phys.toNat s).context,
          virt := (tallyOf phys.toNat s).virt } ∧
        (∀ q, q ≠ phys.toNat → tallyOf q t = tallyOf q s) ∧ t.tally.maps = s.tally.maps ∧
        t.tally.waiters = s.tally.waiters ∧ SameBytes s t ∧ t.crofts = s.crofts)

/-- Unmapped operations, releases, stalls, and the tally map with TL_RESET. -/
def Obligations.TallyReportsAndMaps : Prop := Claims.TallyReports ∧ Claims.TallyMapsAndResets

/-! ### The tasks of a croft's units -/

namespace Sys2Proof.Claims

/-- The unit has done the task's work. -/
def Worked (c : Nat) (k : Task) (t : State) : Prop := ∀ j ∈ (croftOf c t).queue, j.uid = k.uid → j.worked = true

/-- The task's slot is free, or is held until the tally file has applied the task's withdrawal or own operation (03 R95, 12 R400). -/
def Gone (c uid : Nat) (t : State) : Prop :=
  ∀ j ∈ (croftOf c t).queue, j.uid = uid → j.phase = .leaving ∧ ∃ o ∈ t.tally.ops, o.src = .task c uid

/-- The croft is halted with a fault's code and operand on record, and the task is gone (03 R82, R95). -/
def FaultShown (c uid : Nat) (f : TFault) (t : State) : Prop :=
  flag (bCroft c) F.SEQ_STATUS_HALTED t = true ∧
  getF (bCroft c) F.BLK_FAULT_CODE t = (f.code + f.operand * 2 ^ 8) % 2 ^ 32 ∧ Gone c uid t

/-- What a row makes of a task's work, run on a state that still holds the task: the state that `fin` makes of that work; a fault on
record; or, while bytes of a peer are missing, no change but the request for them. -/
def RunsTo (c : Nat) (k : Task) (i : Instr) (res : EStateM.Result Stop State Unit) (fin : State → State) (holds : State → Prop)
    (s : State) : Prop :=
  ∃ t, exec i s = .next t ∧
    match res with
    | .ok _ t' => holds t ∧ t = fin t'
    | .error (.park _ _) _ => (croftOf c t).queue = (croftOf c s).queue ∧ t = { s with crofts := t.crofts }
    | .error (.fault f) t' => (∃ j, findTask c k.uid t' = some j) → FaultShown c k.uid f t
    | .error (.poison f) t' => (∃ j, findTask c k.uid t' = some j) → FaultShown c k.uid f t
    | .error (.tag f) t' => (∃ j, findTask c k.uid t' = some j) → FaultShown c k.uid f t

/-- The context of a task's work when it starts; the generation of its sealed memory is the partition's of that moment (16 R567). -/
def runs (c : CroftId) (k : Task) (p : Nat) (s : State) : TCtx :=
  { croft := c.val, uid := k.uid, part := p, unit := unitOf (dOpcode k.desc), bb := (partOf p s).bbGen }

/-- A task row whose command begins the oldest task that may start of its class. -/
def Works (op : Nat) (i : CroftId → Instr) (sel : Desc → Prop) (work : Desc → TCtx → TM Unit)
    (holds : Nat → Task → State → Prop) : Prop :=
  ∀ (c : CroftId) (s : State) (k : Task) (p : Nat), startableOp c.val op s = some k → sel k.desc →
    workOf c.val op s = none → contextOf c.val s = some p →
    RunsTo c.val k (i c) (work k.desc (runs c k p s) (markStarted c.val k s)) (updCroft c.val (numberXfers false k.uid)) (holds c.val k) s

/-- A run of `n` pieces of the task is in hand, at its first piece, over tensors `l`. -/
def Begun (c : Nat) (k : Task) (n : Nat) (l : List (Option Bolt)) (t : State) : Prop :=
  ∃ w ∈ (croftOf c t).work, w.uid = k.uid ∧ w.next = 0 ∧ w.count = n ∧ w.bolts = l

/-- A piece of the run is done: the next one is due, or the work of the task is done. -/
def PieceEnds (c : Nat) (k : Task) (w : WorkRun) (t : State) : Prop :=
  if w.next + 1 < w.count then
    ∃ v ∈ (croftOf c t).work, v.uid = w.uid ∧ v.next = w.next + 1 ∧ v.count = w.count ∧ v.bolts = w.bolts
  else Worked c k t

/-- What a piece makes of a state: a piece that stops makes nothing. -/
def wholly (res : EStateM.Result Stop State Unit) (s : State) : EStateM.Result Stop State Unit :=
  match res with
  | .ok a t => .ok a t
  | .error e _ => .error e s

/-- The piece is done; or it waits for what it has read, or for the staging of an in-place COPY, and the run stands where it stood. -/
def PieceStands (c : Nat) (k : Task) (w : WorkRun) (s t : State) : Prop :=
  PieceEnds c k w t ∨ ((drained c k.uid s = false ∨ nth w.data 1 = 1) ∧
    ∃ v ∈ (croftOf c t).work, v = { w with asked := v.asked, firm := v.firm })

/-- A task row whose command goes on with the next piece of the task in hand: the piece first names what it reads outside the larder, of
which nothing else takes effect; it takes effect when that is back, at once when there is nothing (11 R355; log entry 54). Where `hold` is
true the row waits. -/
def GoesOn (op : Nat) (i : CroftId → Instr) (sel : Desc → Prop) (hold : Nat → State → Bool)
    (piece : Desc → WorkRun → TCtx → TM Unit) : Prop :=
  ∀ (c : CroftId) (s : State) (k : Task) (w : WorkRun) (p : Nat), workOf c.val op s = some (k, w) → sel k.desc →
    contextOf c.val s = some p →
    (hold c.val s = true ∨ (k.abandon = true ∧ w.firm = []) ∨ (w.asked = true ∧ readsOut c.val k.uid s = true) →
      exec (i c) s = .next s) ∧
    (hold c.val s = false → k.abandon = false ∨ w.firm ≠ [] →
      (w.asked = true → readsOut c.val k.uid s = false →
        RunsTo c.val k (i c) (wholly (piece k.desc { w with asked := false } (ctxOf c.val k p) s) s)
          (fun t' => updCroft c.val (numberXfers true k.uid) (namedBefore c.val k.uid false s t')) (PieceStands c.val k w s) s) ∧
      (w.asked = false → ∀ t', (piece k.desc w (ctxOf c.val k p) s = .ok () t' ∨
          ∃ e, piece k.desc w (ctxOf c.val k p) s = .error e t' ∧ ∀ a n, e ≠ .park a n) →
        (newXfers c.val s t').any (Xfer.goes w.uid false) = true → exec (i c) s = .next (askReads c.val w s t')) ∧
      (w.asked = false → (∀ t', (piece k.desc w (ctxOf c.val k p) s = .ok () t' ∨ ∃ e, piece k.desc w (ctxOf c.val k p) s = .error e t') →
          (newXfers c.val s t').any (Xfer.goes w.uid false) = false) →
        RunsTo c.val k (i c) (wholly (piece k.desc w (ctxOf c.val k p) s) s) (updCroft c.val (numberXfers false k.uid))
          (PieceStands c.val k w s) s))

/-- A counter has gone up by `n`, or stands at its highest value. -/
def Counts (b : Nat) (f : Field) (n : Nat) (s t : State) : Prop := getF b f t = min (getF b f s + n) (2 ^ f.width - 1)

/-! What a task finds: tensors that its bolts describe, bytes that it may read, slots that it may use. -/

/-- It is the task's turn to start, and its unit has no task of the opcode in hand (03 R83, R84). -/
def Turn (op : Nat) (c : CroftId) (k : Task) (p : Nat) (s : State) : Prop :=
  startableOp c.val op s = some k ∧ workOf c.val op s = none ∧ contextOf c.val s = some p

/-- The unit has the task in hand, at a piece of its run, nothing that the piece has asked to read is on its way, and the task is not being
abandoned. -/
def InHand (op : Nat) (c : CroftId) (k : Task) (w : WorkRun) (p : Nat) (s : State) : Prop :=
  workOf c.val op s = some (k, w) ∧ contextOf c.val s = some p ∧ k.abandon = false ∧
  (w.asked = false ∨ readsOut c.val k.uid s = false)

/-- The `n` bytes that a task reads at once at a space and address: of the partition's memory, reached and not poisoned, or of a larder
or slice that it reaches (10 R316 to R318, R336). -/
def Held (c p space a n : Nat) (l : List Byte) (s : State) : Prop :=
  (space = 0 ∧ 0 < n ∧ reach0 p a n s = true ∧ poison0 p a n s = false ∧ l = load0 p a n s) ∨
  (space = 3 ∧ 0 < n ∧ ∃ q, place3 p (some c) a n s = some q ∧ l = rdN q n s)

/-- The same at an offset from a BASE-encoded address. -/
def HeldAt (c p base off n : Nat) (l : List Byte) (s : State) : Prop := Held c p (spaceOf base) (addrOf base + off) n l s

/-- The entry of the bolt table that a handle names is the bolt `b`, and it is valid (02 R73, 03 R75). -/
def BoltAt (c p h : Nat) (b : Bolt) (s : State) : Prop :=
  ∃ l, HeldAt c p (boltTable c s) (128 * h) 128 l s ∧ boltFault l = none ∧ b = Bolt.parse l

/-- A handle names the tensor `b`. -/
def Tensor (c p h : Nat) (b : Bolt) (s : State) : Prop := h ≠ noBolt ∧ BoltAt c p h b s

/-- A handle names the tensor `o`, or none (03 R75). -/
def Names (c p h : Nat) (o : Option Bolt) (s : State) : Prop :=
  (h = noBolt ∧ o = none) ∨ ∃ b, o = some b ∧ Tensor c p h b s

/-- `n` bytes at an offset from a BASE lie in the croft's own larder, which a task reads and writes without leaving the croft
(10 R317, 11 R345). -/
def InLarder (base off n : Nat) : Prop :=
  spaceOf base = 3 ∧ (addrOf base + off) / 2 ^ 22 = 0x3FF ∧ (addrOf base + off) % 2 ^ 22 + n ≤ 0x300000

/-- Where those bytes lie. -/
def larderAt (c : CroftId) (base off : Nat) : Nat := plLarder c.val ((addrOf base + off) % 2 ^ 22)

/-- The values of tile `t`, at an offset from BASE, and its scales lie in the croft's own larder. -/
def TileIn (b : Bolt) (at_ t : Nat) : Prop :=
  InLarder b.base at_ (tileBytes b.fmt) ∧ (b.scaled = true → InLarder b.scaleBase (512 * t) 512)

/-- The statistics record of a tensor that a task writes can be reached (06 R207). -/
def StatsReach (c p : Nat) (b : Bolt) (s : State) : Prop :=
  b.hasStats = true → (spaceOf b.stats = 0 ∧ reach0 p (addrOf b.stats) 32 s = true) ∨
    (spaceOf b.stats = 3 ∧ (place3 p (some c) (addrOf b.stats) 32 s).isSome = true)

/-- The slots suit ACC and FINAL: the accumulator to go on with is there, at the chain index; one to be kept finds its slot
or a free one (04 R132, 05 R167). -/
def SlotReady (c : Nat) (g : SlotRegion) (acc final : Bool) (key same : List Byte → Bool) (nextAt kFirst : Nat) (s : State) : Prop :=
  if acc then ∃ i, findSlot c g key s = some i ∧ same (slotHeader c g i s) = true ∧ leAt (slotHeader c g i s) nextAt 2 = kFirst
  else final = true ∨ findSlot c g key s ≠ none ∨ freeSlot c g s ≠ none

/-- No byte outside the croft's own larder changes. -/
def OutsideLarder (c : Nat) (s t : State) : Prop := ∀ q, ownLarder c q = false → rd q t = rd q s

/-- A started command leaves the other crofts and every byte as they were. -/
def Quiet (c : Nat) (s t : State) : Prop := OtherCrofts c s t ∧ SameBytes s t

/-- The directory entry of tile `t`, in the croft's own larder, is `e`, whose values lie within the tensor's reach (02 R71). -/
def DirAt (c : CroftId) (b : Bolt) (t : Nat) (e : DirEntry) (s : State) : Prop :=
  InLarder b.dir (8 * t) 8 ∧ e = DirEntry.parse (natOf (rdN (larderAt c b.dir (8 * t)) 8 s)) ∧ e.inWindow b = true

/-- A sparse tensor's tile `t` is stored as twill under the entry `e`, with its mask and values in the croft's own larder. -/
def TwillAt (c : CroftId) (b : Bolt) (t : Nat) (e : DirEntry) (s : State) : Prop :=
  DirAt c b t e s ∧ e.twill = true ∧ InLarder b.maskBase (2048 * t) 2048 ∧ TileIn b (sparseAt e) t

/-- The positions of that tile's entries. -/
def twillPs (c : CroftId) (b : Bolt) (t : Nat) (s : State) : List Nat :=
  (livePos b t).filter (maskBit (rdN (larderAt c b.maskBase (2048 * t)) 2048 s).toArray)

/-- A well-formed gauze tile under the entry `e` lies in the croft's own larder (02 R54 to R58). -/
def GauzeAt (c : CroftId) (b : Bolt) (t : Nat) (e : DirEntry) (s : State) : Prop :=
  InLarder b.base (sparseAt e) (gzTileBytes b.fmt b.scaled e.nnz) ∧
  let l := rdN (larderAt c b.base (sparseAt e)) (gzTileBytes b.fmt b.scaled e.nnz) s
  let p := ((List.range 129).map fun i => elemAt 11 ((l.drop 32).take 258).toArray i).toArray
  gzHeaderBad b t e (l.take 32) = none ∧ gzRowsBad b t (l.take 32) p = none ∧
  gzEntriesBad b t b.fmt e.nnz ((l.drop 290).take e.nnz).toArray
    (((l.drop 290).drop e.nnz).take (gzValBytes b.fmt e.nnz)).toArray (gzRowOf p).toArray = none

end Sys2Proof.Claims

/-- GZ_PLAIN, GZ_WEFT, LOOM_FWD and LOOM_PAIR: their checks passed, the engine holds a run of the task at its first tile, or an
operand's shard is empty and the work is done (04 R110, R111, R654; 05 R152, R160). -/
def Sys2Proof.Claims.EngineTasksStart : Prop :=
  (∀ w : Bool, Works (if w then opGzWeft else opGzPlain) (fun c => if w then .gzWeft c else .gzPlain c) (fun _ => True)
    (gzStart w) (fun c k t => Worked c k t ∨
      ∃ g, (croftOf c t).gz = some g ∧ g.uid = k.uid ∧ g.weft = w ∧ g.next = 0 ∧ g.cycle = 0 ∧ g.held = [] ∧ g.lent = [])) ∧
  Works opLoomFwd .loomFwd (fun _ => True) fwdStart (fun c k t => Worked c k t ∨
    ∃ g, (croftOf c t).loom = some g ∧ g.uid = k.uid ∧ g.pair = false ∧ g.next = 0 ∧ g.slotsA = [] ∧ g.slotsB = []) ∧
  Works opLoomPair .loomPair (fun _ => True) pairStart (fun c k t => Worked c k t ∨
    ∃ g, (croftOf c t).loom = some g ∧ g.uid = k.uid ∧ g.pair = true ∧ g.next = 0 ∧ g.slotsA = [] ∧ g.slotsB = [])

/-- The tasks of the function, update, mask, lookout, picker and shuttle units: a first command makes the start checks, each
later one does a tile, record or 64 KiB block, and one of an abandoned task does nothing; LOOKOUT with KEEP 0 is its count
form, and LOOKOUT gives the looms to a tile that waits for them (04 R137; 05 R175, R181; 07 R222, R231, R237; 08 R254, R257; 09 R296;
11 R367, R377, R383; pieces: log entry 54). -/
def Sys2Proof.Claims.UnitTasksWork : Prop :=
  let never (_ : Nat) (_ : State) : Bool := false
  let begun (c : Nat) (k : Task) (t : State) : Prop := Worked c k t ∨ ∃ w ∈ (croftOf c t).work, w.uid = k.uid ∧ w.next = 0
  (Works opFnFwd .fnFwd (fun _ => True) (fnBegin true) begun ∧ GoesOn opFnFwd .fnFwd (fun _ => True) never (fnPiece true)) ∧
  (Works opFnDeriv .fnDeriv (fun _ => True) (fnBegin false) begun ∧ GoesOn opFnDeriv .fnDeriv (fun _ => True) never (fnPiece false)) ∧
  (Works opUpdate .update (fun _ => True) upBegin begun ∧ GoesOn opUpdate .update (fun _ => True) never upPiece) ∧
  (Works opThresh .thresh (fun _ => True) threshBegin begun ∧ GoesOn opThresh .thresh (fun _ => True) never threshPiece) ∧
  (Works opGlean .glean (fun _ => True) gleanBegin begun ∧ GoesOn opGlean .glean (fun _ => True) never gleanPiece) ∧
  (Works opLookout .lookout (fun d => lkKeep d ≠ 0) lkBegin begun ∧ GoesOn opLookout .lookout (fun d => lkKeep d ≠ 0) lkGivesWay lkPiece) ∧
  (Works opLookout .lookoutCount (fun d => lkKeep d = 0) lkCountBegin begun ∧
    GoesOn opLookout .lookoutCount (fun d => lkKeep d = 0) never lkCountPiece) ∧
  (Works opCopy .copy (fun _ => True) cpBegin begun ∧ GoesOn opCopy .copy (fun _ => True) never cpPiece) ∧
  Works opGather .gather (fun _ => True) gaBegin begun

/-- STATS with OP 0 and 1, SEND_TILE and PARITY in its two modes do their work when they start; REWEAVE has built its
tiles and waits for the swap, or had nothing to build (06 R204; 08 R263, R269; 13 R439; 14 R470, R482). -/
def Sys2Proof.Claims.MovementTasksWork : Prop :=
  Works opStats .statsClear (fun d => dF 0x1C 1 d = 0) statsClearWork Worked ∧
  Works opStats .statsFold (fun d => dF 0x1C 1 d = 1) statsFoldWork Worked ∧
  Works opSendTile .sendTile (fun _ => True) sendTileWork Worked ∧
  Works opParity .parityRound (fun d => parMode d ≠ 1) parityRound Worked ∧
  Works opParity .parityRebuild (fun d => parMode d = 1) parityRebuild Worked ∧
  Works opReweave .reweave (fun _ => True) reweaveWork (fun c k t => Worked c k t ∨
    ∃ g, (croftOf c t).weave = some g ∧ g.uid = k.uid)


/-! Where those tasks complete: the conditions stand on the state and the descriptor alone. -/

namespace Sys2Proof.Claims

/-- What GZ_PLAIN and GZ_WEFT ask of their operands (02 R47; 04 R110, R654). -/
def GauzeOperands (d : Desc) (a b o : Bolt) : Prop :=
  let w := gzWidth (gzLane d)
  (a.sparse = true ∧ a.rank = 2) ∧ (b.sparse = false ∧ b.rank = 2) ∧ (o.sparse = false ∧ o.rank = 2) ∧ gzKCount d ≠ 0 ∧
  (1 ≤ a.fmt ∧ a.fmt ≤ 8) ∧ (1 ≤ b.fmt ∧ b.fmt ≤ 8) ∧ o.fmt ≤ 8 ∧ (o.scaled = true → w = 64) ∧
  gzColBase d % w = 0 ∧ gzColBase d + w ≤ 128 ∧ (gzFinal d = true → statsOk o = true)

/-- The tiles that a product names lie within the local shards: `rows` and `reds` are A's extents along the output and the reduction
(04 R111). -/
def ProductInRange (d : Desc) (rows reds : Nat) (b o : Bolt) : Prop :=
  gzRow d < rows ∧ gzRow d < o.ext 1 ∧ gzCol d < b.ext 0 ∧ gzCol d < o.ext 0 ∧
  gzKFirst d + gzKCount d ≤ reds ∧ gzKFirst d + gzKCount d ≤ b.ext 1

/-- What LOOM_PAIR asks of its operands: dY, W and X, and the outputs dX and dW of which one at least is named (02 R47; 05 R160). -/
def PairOperands (d : Desc) (y : Bolt) (w xb dx dw : Option Bolt) : Prop :=
  let plain (o : Option Bolt) : Prop := ∀ b, o = some b → b.sparse = false ∧ b.rank = 2
  (dx.isSome = true ∨ dw.isSome = true) ∧ (y.sparse = false ∧ y.rank = 2) ∧ w.isSome = dx.isSome ∧ xb.isSome = dw.isSome ∧
  (∀ b, w = some b → b.rank = 2) ∧ plain xb ∧ plain dx ∧ plain dw ∧
  (if dx.isSome = true then pKCount d = 1 else pKCount d ≠ 0) ∧
  (∀ b, some b = some y ∨ some b = w ∨ some b = xb → 1 ≤ b.fmt ∧ b.fmt ≤ 8) ∧ (∀ b, some b = dx ∨ some b = dw → b.fmt ≤ 8) ∧
  (lmAccBit d 2 = true → ∀ b, dx = some b → statsOk b = true) ∧ (lmAccBit d 3 = true → ∀ b, dw = some b → statsOk b = true)

/-- Its tiles lie within the local shards, none of which is empty (05 R161). -/
def PairInRange (d : Desc) (y : Bolt) (w xb dx dw : Option Bolt) : Prop :=
  let kEnd := pKFirst d + pKCount d
  (∀ b, some b = some y ∨ some b = w ∨ some b = xb ∨ some b = dx ∨ some b = dw → b.empty = false) ∧
  (∀ b, some b = some y ∨ some b = w ∨ some b = dw → pRow d < b.ext 1) ∧
  (∀ b, some b = w ∨ some b = dw → pCol d < b.ext 0) ∧ (∀ b, some b = xb ∨ some b = dx → pCol d < b.ext 1) ∧
  ∀ b, some b = some y ∨ some b = xb ∨ some b = dx → kEnd ≤ b.ext 0

/-- The draws of its outputs stay addressable and its accumulators find their slots, two of them when two are to be kept (05 R167;
09 R292). -/
def PairReady (c : Nat) (d : Desc) (dx dw : Option Bolt) (s : State) : Prop :=
  let ready (a : LmAcc) : Prop := SlotReady c (lmSlots c s) a.acc a.final (a.key d) (fun _ => true) 0xC a.kFirst s
  (∀ b, dx = some b → outDraws c (lmAccBit d 2) b (b.tileAt (pKFirst d) (pCol d)) s = true ∧ ready (dxAcc d)) ∧
  (∀ b, dw = some b → outDraws c (lmAccBit d 3) b (b.tileAt (pCol d) (pRow d)) s = true ∧ ready (dwAcc d)) ∧
  (dx.isSome = true → dw.isSome = true → needsFree c d (dxAcc d) s = true → needsFree c d (dwAcc d) s = true → 2 ≤ lmFree c s)

end Sys2Proof.Claims

/-- GZ_PLAIN, GZ_WEFT, LOOM_FWD and LOOM_PAIR start where their bolts are valid, their tiles lie within the local shards, the draws
stay addressable and the slots suit ACC and FINAL: the engine holds the run at its first tile, with the accumulator that ACC loads.
With an empty shard the work is done (02 R69; 04 R110, R111, R132, R654; 05 R152, R160, R161, R167). -/
def Sys2Proof.Claims.EngineTasksComplete : Prop :=
  (∀ (w : Bool) (c : CroftId) (s : State) (k : Task) (p : Nat) (a b o : Bolt),
    Turn (if w then opGzWeft else opGzPlain) c k p s → GauzeOperands k.desc a b o →
    Tensor c.val p (dF 0x18 4 k.desc) a s → Tensor c.val p (dF 0x1C 4 k.desc) b s → Tensor c.val p (dF 0x20 4 k.desc) o s →
    ((a.empty = true ∨ b.empty = true ∨ o.empty = true) →
      ∃ t, exec (if w then .gzWeft c else .gzPlain c) s = .next t ∧ Worked c.val k t ∧ Quiet c.val s t) ∧
    (a.empty = false → b.empty = false → o.empty = false →
      ProductInRange k.desc (if w then a.ext 0 else a.ext 1) (if w then a.ext 1 else a.ext 0) b o →
      outDraws c.val (gzFinal k.desc) o (o.tileAt (gzCol k.desc) (gzRow k.desc)) s = true →
      SlotReady c.val (gzSlots c.val s) (gzAcc k.desc) (gzFinal k.desc) (gzKey k.desc) (gzSame k.desc w) 0xE (gzKFirst k.desc) s →
      ∃ t g, exec (if w then .gzWeft c else .gzPlain c) s = .next t ∧ (croftOf c.val t).gz = some g ∧ g.uid = k.uid ∧ g.weft = w ∧
        g.a = a ∧ g.b = b ∧ g.c = o ∧ g.width = gzWidth (gzLane k.desc) ∧ g.next = 0 ∧ g.cycle = 0 ∧ g.panes = [] ∧ g.held = [] ∧
        g.lent = [] ∧ (gzAcc k.desc = false → g.tenter = []) ∧
        (gzAcc k.desc = true → ∀ i, findSlot c.val (gzSlots c.val s) (gzKey k.desc) s = some i →
          g.tenter = loadSlot c.val (gzSlots c.val s) i g.width s) ∧ Quiet c.val s t)) ∧
  (∀ (c : CroftId) (s : State) (k : Task) (p : Nat) (a b o : Bolt), Turn opLoomFwd c k p s →
    Tensor c.val p (dF 0x18 4 k.desc) a s → Tensor c.val p (dF 0x1C 4 k.desc) b s → Tensor c.val p (dF 0x20 4 k.desc) o s →
    a.rank = 2 → b.sparse = false ∧ b.rank = 2 → o.sparse = false ∧ o.rank = 2 → gzKCount k.desc ≠ 0 →
    1 ≤ a.fmt ∧ a.fmt ≤ 8 → 1 ≤ b.fmt ∧ b.fmt ≤ 8 → o.fmt ≤ 8 → (lmAccBit k.desc 1 = true → statsOk o = true) →
    ((a.empty = true ∨ b.empty = true ∨ o.empty = true) →
      ∃ t, exec (.loomFwd c) s = .next t ∧ Worked c.val k t ∧ Quiet c.val s t) ∧
    (a.empty = false → b.empty = false → o.empty = false → ProductInRange k.desc (a.ext 1) (a.ext 0) b o →
      outDraws c.val (lmAccBit k.desc 1) o (o.tileAt (gzCol k.desc) (gzRow k.desc)) s = true →
      SlotReady c.val (lmSlots c.val s) (lmAccBit k.desc 0) (lmAccBit k.desc 1) ((fwdAcc k.desc).key k.desc) (fun _ => true) 0xC
        (gzKFirst k.desc) s →
      ∃ t g, exec (.loomFwd c) s = .next t ∧ (croftOf c.val t).loom = some g ∧ g.uid = k.uid ∧ g.pair = false ∧
        g.bolts = [some a, some b, some o] ∧ g.sel = bits 0 2 (dF 0x2E 1 k.desc) ∧ g.next = 0 ∧ g.slotsA = [] ∧ g.slotsB = [] ∧
        g.lent = false ∧ (lmAccBit k.desc 0 = false → g.beam0 = []) ∧
        (lmAccBit k.desc 0 = true → ∀ i, findSlot c.val (lmSlots c.val s) ((fwdAcc k.desc).key k.desc) s = some i →
          g.beam0 = loadSlot c.val (lmSlots c.val s) i 128 s) ∧ Quiet c.val s t)) ∧
  (∀ (c : CroftId) (s : State) (k : Task) (p : Nat) (y : Bolt) (w xb dx dw : Option Bolt), Turn opLoomPair c k p s →
    Tensor c.val p (dF 0x18 4 k.desc) y s → Names c.val p (dF 0x1C 4 k.desc) w s → Names c.val p (dF 0x20 4 k.desc) xb s →
    Names c.val p (dF 0x24 4 k.desc) dx s → Names c.val p (dF 0x28 4 k.desc) dw s →
    PairOperands k.desc y w xb dx dw → PairInRange k.desc y w xb dx dw → PairReady c.val k.desc dx dw s →
    ∃ t g, exec (.loomPair c) s = .next t ∧ (croftOf c.val t).loom = some g ∧ g.uid = k.uid ∧ g.pair = true ∧
      g.bolts = [some y, w, xb, dx, dw] ∧ g.next = 0 ∧ g.slotsA = [] ∧ g.slotsB = [] ∧ g.lent = false ∧
      (lmAccBit k.desc 0 = false → g.beam0 = []) ∧ (lmAccBit k.desc 1 = false → g.beam1 = []) ∧ Quiet c.val s t)

namespace Sys2Proof.Claims

/-- The tensors of a function task suit it: formats, classes and the save of its mode (07 R219, R233). -/
def FunctionOperands (fwd : Bool) (d : Desc) (src out : Bolt) (save : Option Bolt) : Prop :=
  let suits (b : Bolt) : Prop := b.sparse = false ∧ b.rank ≠ 1 ∧ fnSame src b = true
  fnFmt src.fmt = true ∧ fnFmt out.fmt = true ∧ out.cls = (if fwd then 1 else 2) ∧ saveOk fwd (fnSave d) save = true ∧
  suits src ∧ suits out ∧ statsOk out = true ∧ (∀ b, save = some b → suits b ∧ (fwd = true → statsOk b = true)) ∧
  (fnDrop d ≠ 0 → fnSave d ≠ 0)

/-- Its range, its draws, the image of its table, and where it writes are sound (07 R221, R224, R225; 09 R292). -/
def FunctionReady (fwd : Bool) (x : TCtx) (d : Desc) (src out : Bolt) (save : Option Bolt) (image : List Byte) (s : State) : Prop :=
  let tiles := rangeFrom (fnFirst d) (fnCount d)
  src.empty = false ∧ fnCount d ≠ 0 ∧ fnFirst d + fnCount d ≤ src.tiles ∧
  ((convCtx x (dStepTag d) out.cls s).sr = true ∨ fnDrop d ≠ 0 → drawsOk out tiles = true) ∧
  (∀ b, save = some b → fwd = true → StatsReach x.croft x.part b s ∧
    (fnSave d = 2 → flag (bCroft x.croft) F.NUM_CTRL_SR_SAVE s = true → drawsOk b tiles = true)) ∧
  image = larderRead x.croft (getF (bCroft x.croft) F.FN_TABLE_BASE s + 8192 * fnTable d) 8192 s ∧
  FnTable.bad ⟨image.toArray⟩ (fnSave d == 1) (fnDrop d != 0) = none ∧
  fnOverlap x d fwd src out save s = none ∧ StatsReach x.croft x.part out s

/-- The weight of an UPDATE, its moments and its gradient suit it (09 R296, R298). -/
def UpdateOperands (d : Desc) (w m1 m2 g : Bolt) : Prop :=
  (w.rank = 2 ∧ w.fmt = 1 ∧ w.cls = 0 ∧ statsOk w = true) ∧ liningOk w m1 4 1 = true ∧ statsOk m1 = true ∧
  liningOk w m2 5 5 = true ∧ statsOk m2 = true ∧
  (w.sparse = true → dF 0x20 4 d = dF 0x18 4 d + 1 ∧ dF 0x24 4 d = dF 0x18 4 d + 2) ∧
  (g.rank = 1 ∧ g.fmt = 0 ∧ g.cls = 3) ∧ w.tiles ≠ 0 ∧ g.empty = false ∧ g.dim 0 % w.tiles = 0 ∧ g.dim 0 / w.tiles % 32 = 0 ∧
  32 ≤ g.dim 0 / w.tiles ∧ dF 0x30 4 d ≠ 0 ∧ dF 0x2C 4 d + dF 0x30 4 d ≤ w.tiles

/-- Its parameter block without a residual, its exponent byte `e`, its step and its records suit it (09 R297, R298, R306). -/
def UpdateReady (c p : Nat) (x : TCtx) (d : Desc) (w m1 m2 : Bolt) (pb : List Byte) (e : Byte) (s : State) : Prop :=
  let b := UpParam.parse pb
  let ts := rangeFrom (dF 0x2C 4 d) (dF 0x30 4 d)
  let rec_ := b.report + 32 * b.layer
  HeldAt c p (boltTable c s) (128 * dF 0x28 4 d) 128 pb s ∧ upParamOk pb = true ∧ b.res = false ∧
  (spaceOf b.report = 0 ∨ spaceOf b.report = 3) ∧ (spaceOf b.lrx = 0 ∨ spaceOf b.lrx = 3) ∧
  HeldAt c p b.lrx b.layer 1 [e] s ∧ -64 ≤ signed8 e.toNat ∧ signed8 e.toNat ≤ 64 ∧ (b.bias = true → b.start ≤ taskStep x d s) ∧
  (∀ y ∈ [w, m1, m2], drawsOk y ts = true ∧ StatsReach c p y s) ∧
  (if spaceOf rec_ = 0 then reach0 p (addrOf rec_) 32 s = true else (place3 p (some c) (addrOf rec_) 32 s).isSome = true)

/-- The weight, the linings and the work tensor of a mask task suit it, and so does its range (08 R247, R250, R277). -/
def MaskOperands (c p : Nat) (d : Desc) (w m1 m2 r work : Bolt) (s : State) : Prop :=
  Tensor c p (dF 0x18 4 d) w s ∧ BoltAt c p (dF 0x18 4 d + 1) m1 s ∧ BoltAt c p (dF 0x18 4 d + 2) m2 s ∧
  BoltAt c p (dF 0x18 4 d + 3) r s ∧ weightOk w = true ∧ liningOk w m1 4 1 = true ∧ liningOk w m2 5 5 = true ∧
  liningOk w r 6 1 = true ∧ Tensor c p (dF 0x1C 4 d) work s ∧ work.rank = 1 ∧ work.fmt = 9 ∧ work.cls = 7 ∧ work.meshRank = 0 ∧
  33280 * w.tiles ≤ work.dim 0 ∧ w.empty = false ∧ mvCount d ≠ 0 ∧ mvFirst d + mvCount d ≤ w.tiles

/-- A LOOKOUT task reads its selection tensor and fetch list (05 R178). -/
def SelectionAt (c p : Nat) (d : Desc) (sel fetch : Bolt) (s : State) : Prop :=
  Tensor c p (dF 0x20 4 d) sel s ∧ BoltAt c p (dF 0x20 4 d + 1) fetch s ∧ sel.sparse = false ∧ sel.rank = 2 ∧ fetch.rank = 1 ∧
  sel.fmt = 9 ∧ fetch.fmt = 11 ∧ sel.empty = false ∧ fetch.empty = false ∧ lkLayer d < 256

end Sys2Proof.Claims

/-- FN_FWD, FN_DERIV, LOOKOUT in its two forms, UPDATE without a residual, THRESH and GLEAN start where their bolts are valid and
their operands suit them: the unit holds a run of the task before its first piece, and no byte has changed (05 R173 to R182;
07 R219 to R225, R233; 08 R247 to R260; 09 R296 to R298; that the first command makes the start checks: log entry 54). -/
def Sys2Proof.Claims.UnitTasksComplete : Prop :=
  (∀ (fwd : Bool) (c : CroftId) (s : State) (k : Task) (p : Nat) (src out : Bolt) (save : Option Bolt) (image : List Byte),
    Turn (if fwd then opFnFwd else opFnDeriv) c k p s → Tensor c.val p (dF 0x18 4 k.desc) src s →
    Tensor c.val p (dF 0x1C 4 k.desc) out s → Names c.val p (dF 0x20 4 k.desc) save s →
    FunctionOperands fwd k.desc src out save → FunctionReady fwd (runs c k p s) k.desc src out save image s →
    ∃ t, exec (if fwd then .fnFwd c else .fnDeriv c) s = .next t ∧
      Begun c.val k (fnCount k.desc) [some src, some out, save] t ∧
      (∃ w ∈ (croftOf c.val t).work, w.uid = k.uid ∧ w.data = image.map BitVec.toNat) ∧ Quiet c.val s t) ∧
  (∀ (c : CroftId) (s : State) (k : Task) (p : Nat) (xb v u sel fetch : Bolt), Turn opLookout c k p s → lkKeep k.desc ≠ 0 →
    Tensor c.val p (dF 0x18 4 k.desc) xb s → Tensor c.val p (dF 0x1C 4 k.desc) v s → BoltAt c.val p (dF 0x1C 4 k.desc + 1) u s →
    SelectionAt c.val p k.desc sel fetch s → xb.sparse = false → xb.rank = 2 → xb.sharded 1 = false →
    1 ≤ xb.fmt ∧ xb.fmt ≤ 8 → v.sparse = false ∧ v.rank = 2 ∧ v.fmt = 8 → u.sparse = false ∧ u.rank = 2 ∧ u.fmt = 8 →
    v.dim 0 = xb.dim 1 → u.dim 0 = v.dim 1 → u.dim 0 ≤ 128 → lkRecall k.desc = 0xFF →
    xb.empty = false → v.empty = false → u.empty = false →
    (if lkOn c.val (lkLayer k.desc) s then selCovers sel fetch (u.ext 1) (sampleGroups (localCols xb)) (u.units 1)
      else selCovers sel fetch (sel.ext 1) (selGroups sel) (sel.units 1)) = true →
    ∃ t, exec (.lookout c) s = .next t ∧
      Begun c.val k (if lkOn c.val (lkLayer k.desc) s then u.ext 1 * xb.ext 0 + 1 else 1)
        [some xb, some v, some u, some sel, some fetch] t ∧ Quiet c.val s t) ∧
  (∀ (c : CroftId) (s : State) (k : Task) (p : Nat) (xb sel fetch : Bolt), Turn opLookout c k p s → lkKeep k.desc = 0 →
    Tensor c.val p (dF 0x18 4 k.desc) xb s → dF 0x1C 4 k.desc = noBolt → SelectionAt c.val p k.desc sel fetch s →
    xb.sparse = false → xb.rank = 2 → xb.fmt ≤ 8 → lkRecall k.desc ≤ 16 → xb.empty = false →
    (if lkOn c.val (lkLayer k.desc) s then
        decide (xb.ext 1 ≤ sel.ext 1) && decide (sampledGroup k.desc 0 (localCols xb - 1) < selGroups sel)
      else selCovers sel fetch (sel.ext 1) (selGroups sel) (sel.units 1)) = true →
    ∃ t, exec (.lookoutCount c) s = .next t ∧
      Begun c.val k (if lkOn c.val (lkLayer k.desc) s then xb.ext 0 + 1 else 1) [some xb, some sel, some fetch] t ∧
      Quiet c.val s t) ∧
  (∀ (c : CroftId) (s : State) (k : Task) (p : Nat) (w m1 m2 g : Bolt) (pb : List Byte) (e : Byte), Turn opUpdate c k p s →
    Tensor c.val p (dF 0x18 4 k.desc) w s → Tensor c.val p (dF 0x1C 4 k.desc) g s → Tensor c.val p (dF 0x20 4 k.desc) m1 s →
    Tensor c.val p (dF 0x24 4 k.desc) m2 s → UpdateOperands k.desc w m1 m2 g →
    UpdateReady c.val p (runs c k p s) k.desc w m1 m2 pb e s →
    ∃ t, exec (.update c) s = .next t ∧
      Begun c.val k (dF 0x30 4 k.desc) [some w, some m1, some m2, some g, none, none] t ∧ Quiet c.val s t) ∧
  (∀ (c : CroftId) (s : State) (k : Task) (p : Nat) (w m1 m2 r work : Bolt) (pb : List Byte),
    HeldAt c.val p (boltTable c.val s) (128 * dF 0x20 4 k.desc) 128 pb s → mvParamOk pb = true →
    MaskOperands c.val p k.desc w m1 m2 r work s →
    (Turn opThresh c k p s → ∃ t, exec (.thresh c) s = .next t ∧
      Begun c.val k (mvCount k.desc) [some w, some work, none, some m1, some m2, some r] t ∧ Quiet c.val s t) ∧
    (∀ sample, Turn opGlean c k p s → Names c.val p (dF 0x24 4 k.desc) sample s → sampleOk (MvParam.parse pb) w sample = true →
      ((MvParam.parse pb).gmode = 1 → ∀ q ∈ rangeFrom (mvFirst k.desc) (mvCount k.desc),
        w.gindex q (w.liveRows q - 1) (w.liveCols q - 1) / 4 < 2 ^ 48) →
      ∃ t, exec (.glean c) s = .next t ∧
        Begun c.val k (mvCount k.desc) [some w, some work, sample, some m1, some m2, some r] t ∧ Quiet c.val s t))

namespace Sys2Proof.Claims

/-- The bucket of `slot` bytes at an offset of the reduced gradient lies in the croft's own larder and is well formed (09 R299; 13 R436). -/
def BucketAt (c : CroftId) (base off slot : Nat) (s : State) : Prop :=
  let l := rdN (larderAt c base off) slot s
  let n := leAt l 4 2
  let vo := leAt l 0x12 2
  InLarder base off slot ∧ 32 ≤ slot ∧ 32 ≤ vo ∧ n ≤ (vo - 32) / 2 ∧ vo + 4 * n ≤ slot ∧
  idxOk ((List.range n).map fun i => leAt l (32 + 2 * i) 2) = true

/-- A mask task finds tile `t` as twill, its linings agreeing with it, and a work record that belongs to another step, all in
the croft's own larder (08 R247, R252). -/
def FreshTile (c : CroftId) (g : MvRun) (t : Nat) (e : DirEntry) (s : State) : Prop :=
  TwillAt c g.w t e s ∧ (∀ b ∈ g.linings, ∃ f, DirAt c b t f s ∧ dirAgree e f = true) ∧
  InLarder g.work.base (4160 * t) 4160 ∧
  (WorkRec.parse (rdN (larderAt c g.work.base (4160 * t)) 4160 s)).ofStep g.step = false

/-- The tile of a selection and the fetch record of a pair (neuron tile, token group) lie in the croft's own larder. -/
def PairIn (sel fetch : Bolt) (units : Nat) (e : Nat × Nat) : Prop :=
  InLarder sel.base (sel.denseAt (sel.tileAt (e.2 / 128) e.1)) 2048 ∧ InLarder fetch.base (256 * (e.2 * units + e.1)) 256

/-- The pairs that the last piece of a LOOKOUT writes. -/
def lkPairs (w : WorkRun) (sel : Bolt) : List (Nat × Nat) :=
  if w.data.headD 0 = 0 then selPairs sel (selGroups sel)
  else (chosenSets w.data.length (w.data.drop 1)).map fun e => (e.1, e.2.1)

/-- The piece of the task is done: the next one is due, or the work is done; the other crofts and every byte outside the croft's own larder
are as before. -/
def PieceDone (c : CroftId) (k : Task) (w : WorkRun) (s t : State) : Prop :=
  PieceEnds c.val k w t ∧ OtherCrofts c.val s t ∧ OutsideLarder c.val s t

end Sys2Proof.Claims

/-- A tile of FN_FWD or FN_DERIV whose tensors lie in the croft's own larder is done, and its live elements are counted (07 R220, R222,
R231, R237). A tile of UPDATE over a dense weight is done with well-formed buckets (09 R299, R311). THRESH and GLEAN give a twill tile
with no record of the step its record (08 R254 to R260; pieces: log entry 54). -/
def Sys2Proof.Claims.UnitPiecesComplete : Prop :=
  (∀ (fwd : Bool) (c : CroftId) (s : State) (k : Task) (w : WorkRun) (p : Nat) (src out : Bolt) (save : Option Bolt),
    InHand (if fwd then opFnFwd else opFnDeriv) c k w p s → w.bolts = [some src, some out, save] →
    let i := fnFirst k.desc + w.next
    TileIn src (src.denseAt i) i → TileIn out (out.denseAt i) i →
    (∀ b, save = some b → TileIn b (b.denseAt i) i ∧ InLarder b.base (b.denseAt i) 16384) →
    ∃ t, exec (if fwd then .fnFwd c else .fnDeriv c) s = .next t ∧ PieceDone c k w s t) ∧
  (∀ (c : CroftId) (s : State) (k : Task) (w : WorkRun) (p : Nat) (b m1 m2 g : Bolt), InHand opUpdate c k w p s →
    w.bolts = [some b, some m1, some m2, some g, none, none] → b.sparse = false →
    let i := dF 0x2C 4 k.desc + w.next
    let slot := g.dim 0 / b.tiles
    (∀ j < 4, BucketAt c g.base (slot * (4 * i + j)) slot s) →
    TileIn b (b.denseAt i) i → TileIn m1 (m1.denseAt i) i → TileIn m2 (m2.denseAt i) i →
    ∃ t, exec (.update c) s = .next t ∧ PieceDone c k w s t) ∧
  (∀ (c : CroftId) (s : State) (k : Task) (w : WorkRun) (p : Nat) (g : MvRun) (pb : MvParam) (sample : Option Bolt) (e : DirEntry),
    mvRunOf w = some (g, pb, sample) → FreshTile c g (mvFirst k.desc + w.next) e s →
    let i := mvFirst k.desc + w.next
    let at_ := larderAt c g.work.base (4160 * i)
    (InHand opThresh c k w p s → ∃ t, exec (.thresh c) s = .next t ∧ PieceDone c k w s t ∧ rd at_ t = 1) ∧
    (InHand opGlean c k w p s → (∀ b, sample = some b → TileIn b (b.denseAt i) i) →
      ∃ t, exec (.glean c) s = .next t ∧ PieceDone c k w s t ∧ rd at_ t = 2))

/-- LOOKOUT scores a neuron tile for a token column tile whose tensors lie in the croft's own larder, unless a gauze task waits for the
looms (04 R137); once nothing that it has read
can still come back with an error, its last piece writes the selection, or that of a bypassed layer (05 R170, R173, R175 to R178).
LOOKOUT_COUNT tallies a token column tile, and its last piece counts SAMPLED, TRUE and HITS (05 R181, R182; pieces: log entry 54). -/
def Sys2Proof.Claims.LookoutPiecesComplete : Prop :=
  (∀ (c : CroftId) (s : State) (k : Task) (w : WorkRun) (p : Nat) (xb v u sel fetch : Bolt), InHand opLookout c k w p s →
    lkKeep k.desc ≠ 0 → w.bolts = [some xb, some v, some u, some sel, some fetch] →
    (w.next + 1 < w.count → lkGivesWay c.val s = false →
      (∀ j < min (v.ext 0) (xb.ext 1),
        TileIn xb (xb.denseAt (xb.tileAt (w.next % xb.ext 0) j)) (xb.tileAt (w.next % xb.ext 0) j) ∧
        TileIn v (v.denseAt (v.tileAt j 0)) (v.tileAt j 0)) →
      TileIn u (u.denseAt (u.tileAt 0 (w.next / xb.ext 0))) (u.tileAt 0 (w.next / xb.ext 0)) →
      ∃ t, exec (.lookout c) s = .next t ∧ PieceEnds c.val k w t ∧ Quiet c.val s t) ∧
    (w.count ≤ w.next + 1 → drained c.val k.uid s = true →
      (∀ e ∈ lkPairs w sel, PairIn sel fetch (if w.data.headD 0 = 0 then sel.units 1 else u.units 1) e) →
      ∃ t, exec (.lookout c) s = .next t ∧ PieceDone c k w s t ∧
        Counts (bCroft c.val) F.LK_BYPASSED (if w.data.headD 0 = 0 then 1 else 0) s t)) ∧
  (∀ (c : CroftId) (s : State) (k : Task) (w : WorkRun) (p : Nat) (xb sel fetch : Bolt), InHand opLookout c k w p s →
    lkKeep k.desc = 0 → w.bolts = [some xb, some sel, some fetch] →
    (w.next + 1 < w.count →
      (∀ j < xb.ext 1, TileIn xb (xb.denseAt (xb.tileAt w.next j)) (xb.tileAt w.next j) ∧
        ∀ m < xb.liveCols (xb.tileAt w.next 0),
          let g := sampledGroup k.desc w.next m
          InLarder sel.base (sel.denseAt (sel.tileAt (g / 128) j)) 2048) →
      ∃ t, exec (.lookoutCount c) s = .next t ∧ PieceEnds c.val k w t ∧ Quiet c.val s t) ∧
    (w.count ≤ w.next + 1 → drained c.val k.uid s = true → w.data.headD 0 ≠ 0 →
      ∃ t, exec (.lookoutCount c) s = .next t ∧ Worked c.val k t ∧ OtherCrofts c.val s t ∧
        Counts (bCroft c.val) F.LK_SAMPLED (nth w.data 1) s t ∧ Counts (bCroft c.val) F.LK_TRUE (nth w.data 2) s t ∧
        Counts (bCroft c.val) F.LK_HITS (nth w.data 3) s t))

namespace Sys2Proof.Claims

/-- A COPY between two tensors that are not sparse and share no byte suits R368 to R374, and every destination tile has a source. -/
def CopyOperands (x : TCtx) (d : Desc) (src dst : Bolt) (s : State) : Prop :=
  let tds := rangeFrom (cpDstTile d) (cpCount d)
  src.sparse = false ∧ dst.sparse = false ∧ cpPairOk src.fmt dst.fmt = true ∧ permOk d = true ∧ src.rank = dst.rank ∧
  statsOk dst = true ∧ src.empty = false ∧ dst.empty = false ∧ cpCount d ≠ 0 ∧ cpDstTile d + cpCount d ≤ dst.tiles ∧
  cpSrcTile d < src.tiles ∧ (∀ t ∈ tds, cpSource d src dst t ≠ none) ∧
  ((convCtx x (dStepTag d) dst.cls s).sr = false ∨ dst.fmt = 0 ∨ 8 < dst.fmt ∨ drawsOk dst tds = true) ∧
  cpAliased d src dst = false ∧ cpInPlace d = false ∧
  spansMeet (cpSpans x src (tds.filterMap (cpSource d src dst)) s) (cpSpans x dst tds s) = false ∧
  StatsReach x.croft x.part dst s

/-- The tensors of a GATHER suit it (11 R378, R379; 02 R47, R69). -/
def GatherOperands (d : Desc) (src idx dst : Bolt) : Prop :=
  productFmt src.fmt = true ∧ idx.fmt = 11 ∧ productFmt dst.fmt = true ∧ idx.rank = 1 ∧ gaCount d ≤ 128 * idx.ext 0 ∧ statsOk dst = true ∧
  src.empty = false ∧ idx.empty = false ∧ dst.empty = false ∧ gaCount d ≠ 0 ∧
  (if src.sparse = true then
    dst.sparse = true ∧ dst.fmt = src.fmt ∧ dst.scaled = src.scaled ∧ sameShape src dst = true ∧ dst.meshRank = src.meshRank ∧
    gaRowBase d % 128 = 0 ∧ gaCount d % 128 = 0
  else
    src.rank = 2 ∧ dst.rank = 2 ∧ dst.sparse = false ∧ dst.fmt = src.fmt ∧ dst.scaled = src.scaled ∧ dst.ext 0 = src.ext 0 ∧
    gaCount d ≤ dst.localRows)

/-- The indices of a record that GATHER reads, in the croft's own larder. -/
def gaIndices (c : CroftId) (d : Desc) (idx : Bolt) (r : Nat) (s : State) : List Nat :=
  let n := min 128 (gaCount d - 128 * r)
  (List.range n).map fun m => leAt (rdN (larderAt c idx.base (256 * r)) (2 * n) s) (2 * m) 2

/-- Every row that the record names is a local row of the source, and it and its place in the destination lie in the croft's own
larder (11 R378). -/
def GatherRows (c : CroftId) (d : Desc) (src idx dst : Bolt) (r : Nat) (s : State) : Prop :=
  InLarder idx.base (256 * r) (2 * min 128 (gaCount d - 128 * r)) ∧ src.sparse = false ∧ dst.fmt = src.fmt ∧ dst.scaled = src.scaled ∧
  ∀ v ∈ gaIndices c d idx r s, v = 0xFFFF ∨ (gaRowBase d + v < src.localRows ∧ ∀ col < src.ext 0,
    (let i := src.tileAt col ((gaRowBase d + v) / 128); TileIn src (src.denseAt i) i) ∧
    (let i := dst.tileAt col r; TileIn dst (dst.denseAt i) i))

end Sys2Proof.Claims

/-- COPY in its tensor form and GATHER start where their tensors suit them; a destination tile of COPY, and an index record of the
dense GATHER, whose tensors lie in the croft's own larder are done, and GATHER counts its rows (11 R367 to R370, R376 to R378,
R383; pieces: log entry 54). -/
def Sys2Proof.Claims.ShuttleTasksComplete : Prop :=
  (∀ (c : CroftId) (s : State) (k : Task) (p : Nat) (src dst : Bolt), Turn opCopy c k p s → dRaw k.desc = false →
    Tensor c.val p (dF 0x18 4 k.desc) src s → Tensor c.val p (dF 0x1C 4 k.desc) dst s →
    CopyOperands (runs c k p s) k.desc src dst s →
    ∃ t, exec (.copy c) s = .next t ∧ Begun c.val k (cpCount k.desc) [some src, some dst] t ∧ Quiet c.val s t) ∧
  (∀ (c : CroftId) (s : State) (k : Task) (w : WorkRun) (p : Nat) (src dst : Bolt), InHand opCopy c k w p s →
    w.bolts = [some src, some dst] → w.held = [] → nth w.data 1 ≠ 1 → src.sparse = false →
    let td := cpDstTile k.desc + (if nth w.data 0 = 1 then w.count - 1 - w.next else w.next)
    let ts := (cpSource k.desc src dst td).getD 0
    TileIn src (src.valuesAt ts) ts → TileIn dst (dst.valuesAt td) td →
    ∃ t, exec (.copy c) s = .next t ∧ PieceDone c k w s t) ∧
  (∀ (c : CroftId) (s : State) (k : Task) (p : Nat) (src idx dst : Bolt), Turn opGather c k p s →
    Tensor c.val p (dF 0x18 4 k.desc) src s → Tensor c.val p (dF 0x1C 4 k.desc) idx s → Tensor c.val p (dF 0x20 4 k.desc) dst s →
    GatherOperands k.desc src idx dst → StatsReach c.val p dst s →
    ∃ t, exec (.gather c) s = .next t ∧ Begun c.val k (cdiv (gaCount k.desc) 128) [some src, some idx, some dst] t ∧
      Quiet c.val s t) ∧
  (∀ (c : CroftId) (s : State) (k : Task) (w : WorkRun) (p : Nat) (src idx dst : Bolt), InHand opGather c k w p s →
    w.bolts = [some src, some idx, some dst] → GatherRows c k.desc src idx dst w.next s →
    let rows := (gaIndices c k.desc idx w.next s).filter fun v => v != 0xFFFF
    ∃ t, exec (.gather c) s = .next t ∧ PieceDone c k w s t ∧ Counts (bCroft c.val) F.PK_ROWS rows.length s t ∧
      Counts (bCroft c.val) F.PK_SKIPPED ((gaIndices c k.desc idx w.next s).length - rows.length) s t)

namespace Sys2Proof.Claims

/-- A packet of an enabled job can leave for a device: it is this device, or a route to it is up. -/
def Routed (p dst : Nat) (s : State) : Prop :=
  jobEnabled p s = true ∧ (dst = myDevice p s ∨ (routeUp (routesTo p dst s).1 s).isSome = true ∨
    (routeUp (routesTo p dst s).2 s).isSome = true)

/-- A tile of a REWEAVE's range whose new mask the record of the step holds, kept as twill: it, its linings and their new arrays at
offset `a` lie in the croft's own larder (08 R251, R263 to R267). -/
def WeaveTileAt (c : CroftId) (g : MvRun) (t a : Nat) (e : DirEntry) (ds : List DirEntry) (r : WorkRec) (s : State) : Prop :=
  let all := g.w :: g.linings
  TwillAt c g.w t e s ∧ ds.length = g.linings.length ∧
  (∀ x ∈ g.linings.zip ds, DirAt c x.1 t x.2 s ∧ dirAgree e x.2 = true ∧ TileIn x.1 (sparseAt x.2) t) ∧
  InLarder g.work.base (4160 * t) 4160 ∧ r = WorkRec.parse (rdN (larderAt c g.work.base (4160 * t)) 4160 s) ∧
  r.ofStep g.step = true ∧ r.state < 3 ∧ r.genIn = e.gen ∧ recOk g.w t e r = true ∧ 0 < r.pruned + r.grown ∧
  formTwill g.w r.nnzOut = true ∧ maskOf (twillPs c g.w t s) = maskOf (positions r.old) ∧ a / 32 < 2 ^ 32 ∧
  ∀ b ∈ all, TileIn b a t

/-- The swap of a woven tile writes in the croft's own larder. -/
def SwapIn (g : WeaveRun) (y : WeaveTile) : Prop :=
  (y.changed = true → InLarder g.w.dir (8 * y.t) 8 ∧ (∀ b ∈ g.linings, InLarder b.dir (8 * y.t) 8) ∧
    (y.twill = true → InLarder g.w.maskBase (2048 * y.t) y.mask.length ∧
      ∀ b, g.linings[1]? = some b → InLarder b.scaleBase (512 * y.t) y.scales.length)) ∧
  (y.record = true → InLarder g.work.base (4160 * y.t) 1)

end Sys2Proof.Claims

/-- REWEAVE over one tile builds it in its new place and leaves the swap due; REWEAVE_SWAP, once its build is visible, swaps every
changed tile and ends the work (08 R263 to R269). STATS with OP 0 clears the record, and with OP 1 sends this croft's counts to it, or
has nothing to send (06 R204 to R207). -/
def Sys2Proof.Claims.WeaveAndStatsComplete : Prop :=
  (∀ (c : CroftId) (s : State) (k : Task) (p : Nat) (w m1 m2 r work : Bolt) (e : DirEntry) (ds : List DirEntry) (y : WorkRec),
    Turn opReweave c k p s → MaskOperands c.val p k.desc w m1 m2 r work s → mvCount k.desc = 1 →
    (∀ b ∈ [w, m1, m2, r], statsOk b = true ∧ StatsReach c.val p b s) →
    let nb := dF 0x20 8 k.desc
    let g : MvRun := ⟨w, [m1, m2, r], work, taskStep (runs c k p s) k.desc s⟩
    let a := cdiv (addrOf nb - addrOf w.base) 32 * 32
    nb % 32 = 0 → spaceOf nb = spaceOf w.base → addrOf w.base ≤ addrOf nb →
    WeaveTileAt c g (mvFirst k.desc) a e ds y s →
    newOverOld (runs c k p s) g [⟨mvFirst k.desc, e, ds, y, true, true, true, a⟩] s = none →
    ∃ t v, exec (.reweave c) s = .next t ∧ (croftOf c.val t).weave = some v ∧ v.uid = k.uid ∧ v.swapped = false ∧
      v.tiles.map (fun z => (z.t, z.changed, z.twill)) = [(mvFirst k.desc, true, true)] ∧ OtherCrofts c.val s t ∧
      OutsideLarder c.val s t) ∧
  (∀ (c : CroftId) (s : State) (k : Task) (p : Nat) (g : WeaveRun), (croftOf c.val s).weave = some g →
    findTask c.val g.uid s = some k → contextOf c.val s = some p → drained c.val g.uid s = true → g.swapped = false →
    k.abandon = false → (∀ y ∈ g.tiles, SwapIn g y) →
    ∃ t, exec (.reweaveSwap c) s = .next t ∧ (croftOf c.val t).weave = some { g with swapped := true } ∧ Worked c.val k t ∧
      Counts (bCroft c.val) F.MV_TILES_WOVEN (g.tiles.filter WeaveTile.changed).length s t ∧ OtherCrofts c.val s t ∧
      OutsideLarder c.val s t) ∧
  (∀ (c : CroftId) (s : State) (k : Task) (p : Nat) (b : Bolt), Turn opStats c k p s → BoltAt c.val p (dF 0x18 4 k.desc) b s →
    b.hasStats = true →
    (dF 0x1C 1 k.desc = 0 → InLarder b.stats 0 32 →
      ∃ t, exec (.statsClear c) s = .next t ∧ Worked c.val k t ∧ (∀ i < 32, rd (larderAt c b.stats 0 + i) t = 0) ∧
        (∀ q, (∀ i < 32, q ≠ larderAt c b.stats 0 + i) → rd q t = rd q s) ∧
        (∀ e ∈ (croftOf c.val t).stats, e.addr ≠ b.stats) ∧ (∀ f ∈ t.foldq, ¬ (f.croft = c.val ∧ f.addr = b.stats)) ∧
        OtherCrofts c.val s t) ∧
    (dF 0x1C 1 k.desc = 1 → (∀ e ∈ (croftOf c.val s).stats, e.addr ≠ b.stats) →
      ∃ t, exec (.statsFold c) s = .next t ∧ Worked c.val k t ∧ Quiet c.val s t) ∧
    (∀ e, dF 0x1C 1 k.desc = 1 → (croftOf c.val s).stats.find? (fun e => decide (e.addr = b.stats)) = some e →
      StatsReach c.val p b s →
      ∃ t f, exec (.statsFold c) s = .next t ∧ Worked c.val k t ∧ (∀ e ∈ (croftOf c.val t).stats, e.addr ≠ b.stats) ∧
        t.foldq.getLast? = some f ∧ t.foldq.length = s.foldq.length + 1 ∧
        f = ⟨false, c.val, k.uid, [], p, b.stats, [e.elements, e.zeros, e.sats, e.nonfin, e.maxMag, e.flags]⟩ ∧ Quiet c.val s t))

/-- SEND_TILE in its dense form hands the four buckets of a tile to their owners, to which a route is up and of which none is sampled (13
R438, R441, R442, R444). A PARITY round of the snapshot header writes it, and sends a fold to every holder (14 R470 to R472). A rebuild
from a valid snapshot sends its range to the member lost, and a holder without a valid copy whose coefficient is 0 has nothing to do (14 R480
to R482). -/
def Sys2Proof.Claims.MovementTasksComplete : Prop :=
  (∀ (c : CroftId) (s : State) (k : Task) (p : Nat) (g : Bolt) (pl : Plan), Turn opSendTile c k p s →
    Tensor c.val p (dF 0x18 4 k.desc) g s → dF 0x1C 4 k.desc = noBolt → stKRaw k.desc = 0 →
    g.sparse = false → g.rank = 2 → g.fmt = 0 → g.cls = 3 → g.empty = false →
    dF 0x20 2 k.desc < g.ext 1 → dF 0x22 2 k.desc < g.ext 0 →
    let i := g.tileAt (dF 0x22 2 k.desc) (dF 0x20 2 k.desc)
    planFor p (stBucket k.desc) s = some pl → stBucket k.desc + 3 < pl.first + pl.count → pl.dense = true →
    stBucket k.desc = pl.first + 4 * i → InLarder g.base (g.denseAt i) 65536 →
    (∀ j < 4, let b := stBucket k.desc + j
      pl.owner b ≠ pl.rank ∧ pl.sampled b (taskStep (runs c k p s) k.desc s) = false ∧ Routed p (pl.device (pl.owner b)) s) →
    ∃ t, exec (.sendTile c) s = .next t ∧ Worked c.val k t ∧ Counts bMill F.ML_CONTRIBS_SENT 4 s t ∧
      (jobOf p t).pend.length = (jobOf p s).pend.length + 4 ∧ Quiet c.val s t) ∧
  (∀ (c : CroftId) (s : State) (k : Task) (p : Nat) (g : ParGroup), Turn opParity c k p s →
    groupOf p (parGroupId k.desc) s = some g →
    (parMode k.desc = 0 → croftTimed c.val s = true → g.holder = false → parHead k.desc = true → g.segs.length ≤ 65533 →
      parSrc k.desc = g.header → parBytes k.desc = 256 → g.header % 256 = 0 → g.header < 2 ^ 52 →
      reach0 p g.header 256 s = true → partialPoison p g.header 256 (statusWrite p (parGroupId k.desc) 0 1 1 s) = false →
      (∀ h < g.m, let dst := nth g.devices (g.k + h)
        dst < 8192 ∧ Routed p dst s ∧ nth g.wins (g.k + h) + roundCopy p s * g.pBytes < 2 ^ 39) →
      ∃ t, exec (.parityRound c) s = .next t ∧ Worked c.val k t ∧
        (jobOf p t).accs.length = (jobOf p s).accs.length + g.m ∧ OtherCrofts c.val s t) ∧
    (parMode k.desc = 1 → croftTimed c.val s = false → rebuildCoeff g = some 0 → g.holder = true →
      rebuildCopy p (parGroupId k.desc) g s = none → parWhole k.desc = true →
      ∃ t, exec (.parityRebuild c) s = .next t ∧ Worked c.val k t ∧ Quiet c.val s t) ∧
    (∀ q l, parMode k.desc = 1 → croftTimed c.val s = false → rebuildCoeff g = some q → g.holder = false →
      let seg := parSegment k.desc g
      let off := g.rbWin + parPlace k.desc g + (parSrc k.desc - seg.2.1)
      (parSeg k.desc < g.segs.length ∨ parHead k.desc = true) →
      (bit g.mine g.lost = true ∨ (statusRead p (parGroupId k.desc) 0 1 s = 2 ∧ statusRead p (parGroupId k.desc) 8 8 s = g.step)) →
      parSrc k.desc < 2 ^ 52 → parSrc k.desc % 256 = 0 → parBytes k.desc % 256 = 0 → seg.2.1 ≤ parSrc k.desc →
      parSrc k.desc + parBytes k.desc ≤ seg.2.1 + seg.2.2 → Held c.val p 0 (parSrc k.desc) (parBytes k.desc) l s →
      (q ≠ 0 → nth g.devices g.target < 8192 ∧ Routed p (nth g.devices g.target) s ∧ off + parBytes k.desc ≤ 2 ^ 39) →
      ∃ t, exec (.parityRebuild c) s = .next t ∧ Worked c.val k t ∧
        (jobOf p t).accs.length = (jobOf p s).accs.length + (if q = 0 then 0 else cdiv (parBytes k.desc) 4096) ∧
        Quiet c.val s t))

/-- The rows of every opcode of the crofts' units: the oldest task that may start of its class runs, does its work or faults; a command
for a task in hand goes on with its next piece; and where they complete. -/
def Obligations.TasksRun : Prop :=
  (Claims.EngineTasksStart ∧ Claims.UnitTasksWork ∧ Claims.MovementTasksWork) ∧
  (Claims.EngineTasksComplete ∧ Claims.UnitTasksComplete ∧ Claims.UnitPiecesComplete ∧ Claims.LookoutPiecesComplete) ∧
  Claims.ShuttleTasksComplete ∧ Claims.WeaveAndStatsComplete ∧ Claims.MovementTasksComplete

/-- A raw COPY goes 64 KiB at a time, from the top down where its ranges overlap and the destination does not lie below the source;
each block between two places of the croft's own larder moves its bytes as they were before it, and writes no other byte (11 R371,
R373, R383; 10 R317; blocks counted from DST_ADDR: log entry 14). -/
def Obligations.RawCopyInLarder : Prop :=
  ∀ (c : CroftId) (s : State) (k : Task) (p : Nat), dRaw k.desc = true →
    let n := dF 0x28 4 k.desc
    let a := dF 0x18 8 k.desc
    let b := dF 0x20 8 k.desc
    n ≠ 0 → InLarder a 0 n → InLarder b 0 n →
    (Turn opCopy c k p s →
      ∃ t, exec (.copy c) s = .next t ∧ Begun c.val k (cdiv n 65536) [] t ∧ Quiet c.val s t ∧
        ∃ w ∈ (croftOf c.val t).work, w.uid = k.uid ∧ w.held = [] ∧
          w.data = [if larderAt c a 0 ≤ larderAt c b 0 ∧ larderAt c b 0 < larderAt c a 0 + n then 1 else 0]) ∧
    (∀ w, InHand opCopy c k w p s → w.bolts = [] →
      let o := 65536 * (if nth w.data 0 = 1 then w.count - 1 - w.next else w.next)
      let m := min 65536 (n - o)
      o < n →
      ∃ t, exec (.copy c) s = .next t ∧
        (∀ i < m, rd (larderAt c b o + i) t = rd (larderAt c a o + i) s) ∧
        (∀ q, (∀ i < m, q ≠ larderAt c b o + i) → rd q t = rd q s) ∧ PieceEnds c.val k w t ∧ OtherCrofts c.val s t)

/-! ### Cycles of the engines -/

/-- GZ_ISSUE_CYCLE without a new tile: the units issue for one cycle, whose counts the engine's counters take; a twill tile that is taken
up last is lent to the looms (04 R123 to R125, R129, R136, R137, R144). GZ_COLLECTOR_FOLD before the task's end folds exactly what may be
folded (04 R127 to R129). -/
def Sys2Proof.Claims.GauzeCycles : Prop :=
  ∀ (c : CroftId) (s : State) (k : Task) (g : GzRun) (p : Nat), gzTask c.val s = some (k, g) → contextOf c.val s = some p →
    (k.abandon = false → (2 ≤ g.panes.length ∨ gzKCount k.desc ≤ g.next ∨ loomLent c.val s = true) →
      let late := !drained c.val g.uid s
      let r := issueCycle (flag (bCroft c.val) F.GZ_CTRL_STEAL s) late (if late then { g with panes := holdPane g.panes } else g)
      let n := r.2
      ∃ t, exec (.gzIssueCycle c) s = .next t ∧ (croftOf c.val t).gz = some r.1 ∧ r.1.cycle = g.cycle + 1 ∧ r.1.tenter = g.tenter ∧
        (∀ e ∈ [(F.GZ_ENTRIES, n.entries), (F.GZ_HOLDS, n.holds), (F.GZ_FILL_STALLS, n.fillStalls),
          (F.GZ_IDLE_UNIT_CYCLES, n.idle), (F.GZ_HOLDSTORE_STALLS, n.holdStalls), (F.GZ_STEALS, n.steals)],
          Counts (bCroft c.val) e.1 e.2 s t) ∧ Quiet c.val s t) ∧
    (∀ e, k.abandon = false → g.panes.length < 2 → g.next + 1 = gzKCount k.desc → loomLent c.val s = false →
      DirAt c g.a (gzATile g k.desc g.next) e s → e.twill = true →
      ∃ t g', exec (.gzIssueCycle c) s = .next t ∧ (croftOf c.val t).gz = some g' ∧ g'.next = g.next + 1 ∧
        g'.lent = g.lent ++ [⟨g.next, e.word⟩] ∧ g'.cycle = g.cycle + 1 ∧ Counts (bCroft c.val) F.GZ_BORROWED 1 s t ∧
        Quiet c.val s t) ∧
    (gzQuiet (gzFold g) = false ∨ g.next < gzKCount k.desc ∨ k.abandon = true ∨ drained c.val k.uid s = false →
      exec (.gzCollectorFold c) s = .next (setGz c.val (some (gzFold g)) s))

/-- The last fold of a gauze task frees the engine and ends the work: its slot is written, or its output and a record in reach are on their
way, whose cells no memory shows before TASK_COMPLETE (04 R132, R134, R142; log entry 62). LOOM_TAKE_BORROWED runs the oldest tile that the gauze engine has lent: its group sums come back, and the
tile is on loan until the collector has them all (04 R137, 05 R155). -/
def Sys2Proof.Claims.EngineResults : Prop :=
  ∀ (c : CroftId) (s : State) (k : Task) (g : GzRun) (p : Nat), gzTask c.val s = some (k, g) → contextOf c.val s = some p →
    (gzQuiet (gzFold g) = true → gzKCount k.desc ≤ g.next → k.abandon = false → drained c.val k.uid s = true →
      (if gzFinal k.desc = true then TileIn g.c (g.c.denseAt (gzCTile g k.desc)) (gzCTile g k.desc) ∧ StatsReach c.val p g.c s
        else findSlot c.val (gzSlots c.val s) (gzKey k.desc) s ≠ none ∨ freeSlot c.val (gzSlots c.val s) s ≠ none) →
      ∃ t, exec (.gzCollectorFold c) s = .next t ∧ (croftOf c.val t).gz = none ∧ Worked c.val k t ∧
        (gzFinal k.desc = false → findSlot c.val (gzSlots c.val s) (gzKey k.desc) t ≠ none) ∧ OtherCrofts c.val s t ∧
        (gzFinal k.desc = true →
          (∃ e ∈ (croftOf c.val t).ending, e.uid = k.uid ∧ e.gz = some (gzFold g) ∧ e.lm = none ∧ e.firm = []) ∧
          (gzAcc k.desc = false → SameBytes s t) ∧ OutsideLarder c.val s t)) ∧
    (∀ e r, g.lent = e :: r → g.back = [] → loomFree c.val s = true →
      let i := gzATile g k.desc e.tile
      let j := gzBTile g k.desc e.tile
      InLarder g.a.maskBase (2048 * i) 2048 → TileIn g.a (sparseAt (DirEntry.parse e.word)) i → TileIn g.b (g.b.denseAt j) j →
      ∃ t g', exec (.loomTakeBorrowed c) s = .next t ∧ (croftOf c.val t).gz = some g' ∧
        g'.lent = (if g'.back = [] then r else g.lent) ∧ g'.units = g.units ∧ g'.tenter = g.tenter ∧ g'.held = g.held ∧
        Counts (bCroft c.val) F.LM_BORROWED 1 s t ∧ Quiet c.val s t)

/-- LOOM_SLOT: a loom with slots of a LOOM_FWD tile in hand, whose operands lie in the croft's own larder, runs its next one, which is
counted; the other loom keeps its slots and beam 1 its sums; a slot that must wait for its operands stays (05 R146, R149, R162,
R165, R171). GZ_RUN_LENT_TILE: the gauze engine runs the well-formed gauze tile that a loom task has lent (05 R154, R164). -/
def Sys2Proof.Claims.LoomSlots : Prop :=
  ∀ (c : CroftId) (s : State) (k : Task) (g : LmRun) (p : Nat), lmTask c.val s = some (k, g) → contextOf c.val s = some p →
    (∀ (l : Fin 2) (sl : LmSlot) (r : List LmSlot), (if l.val = 0 then g.slotsA else g.slotsB) = sl :: r →
      (slotWaits c.val l.val g sl s = true →
        ∃ t, exec (.loomSlot c l) s = .next t ∧ (croftOf c.val t).loom = some { g with wait := some (g.wait.getD s.time) } ∧
          Quiet c.val s t) ∧
      (∀ a b, slotWaits c.val l.val g sl s = false → sl.role = 0 → g.bolt 0 = some a → g.bolt 1 = some b →
        sl.ob < 4 → sl.nb < 4 → sl.rb < 4 →
        let i := fwdA g k.desc (g.next - 1)
        let j := fwdB g k.desc (g.next - 1)
        TileIn a g.off i → (a.sparse = true → InLarder a.maskBase (2048 * i) 2048) → TileIn b (b.denseAt j) j →
        (r ≠ [] ∨ (if l.val = 0 then g.slotsB else g.slotsA) ≠ [] ∨ g.lent = true ∨ g.next < g.count k.desc ∨ k.abandon = true) →
        ∃ t g', exec (.loomSlot c l) s = .next t ∧ (croftOf c.val t).loom = some g' ∧
          (if l.val = 0 then g'.slotsA else g'.slotsB) = r ∧
          (if l.val = 0 then g'.slotsB else g'.slotsA) = (if l.val = 0 then g.slotsB else g.slotsA) ∧
          g'.next = g.next ∧ g'.beam1 = g.beam1 ∧ g'.wait = none ∧ Counts (bCroft c.val) F.LM_SLOTS_RUN 1 s t ∧
          Quiet c.val s t)) ∧
    (∀ a b, (if g.pair then g.bolt 1 else g.bolt 0) = some a → (if g.pair then g.bolt 0 else g.bolt 1) = some b →
      g.lent = true → gauzeFree c.val s = true →
      let i := if g.pair then pairW g k.desc else fwdA g k.desc (g.next - 1)
      let j := if g.pair then pairDy g k.desc (g.next - 1) else fwdB g k.desc (g.next - 1)
      GauzeAt c a i (DirEntry.parse g.entry) s → TileIn b (b.denseAt j) j →
      (g.slotsA ≠ [] ∨ g.slotsB ≠ [] ∨ g.next < g.count k.desc ∨ k.abandon = true) →
      ∃ t g', exec (.gzRunLentTile c) s = .next t ∧ (croftOf c.val t).loom = some g' ∧ g'.lent = false ∧ g'.next = g.next ∧
        g'.slotsA = g.slotsA ∧ g'.slotsB = g.slotsB ∧ g'.beam1 = g.beam1 ∧ Quiet c.val s t)

/-- The gauze engine's cycles and folds, and the looms' slots. -/
def Obligations.EnginesAdvance : Prop := Claims.GauzeCycles ∧ Claims.EngineResults ∧ Claims.LoomSlots

/-! ### The shuttle and the courier -/

namespace Sys2Proof.Claims

/-- A task has faulted with a code and an operand: the croft is halted with the fault on record, and the task is gone. -/
def Faulted (c uid code operand : Nat) (t : State) : Prop :=
  flag (bCroft c) F.SEQ_STATUS_HALTED t = true ∧ getF (bCroft c) F.BLK_FAULT_CODE t = code + operand * 2 ^ 8 ∧ Gone c uid t

/-- One new piece of a transfer is outstanding, of `n` bytes at `a`, with its deadline, and a tier-1 or uncached piece waits at
the controller of its address. -/
def Issues (c stream : Nat) (x : Xfer) (a n d : Nat) (s t : State) : Prop :=
  t.nextUid = s.nextUid + 1 ∧
  (∃ p, (croftOf c t).pieces = (croftOf c s).pieces ++ [p] ∧ p.id = s.nextUid ∧ p.uid = x.uid ∧ p.stream = stream ∧
    p.space = x.space ∧ p.addr = a ∧ p.len = n ∧ p.write = x.write ∧ p.deadline = d ∧ p.poison = false) ∧
  (∀ q, x.space = 0 → cacheHome ((contextOf c s).getD 0) a s = none → ctrlOf a s = some q →
    ∃ r, queueOf q t = queueOf q s ++ [r] ∧ r.piece = s.nextUid ∧ r.croft = c ∧ r.addr = a ∧ r.len = n ∧ r.deadline = d) ∧
  (croftOf c t).queue = (croftOf c s).queue ∧ OtherCrofts c s t ∧ SameBytes s t

/-- What a stream may issue now, within the 48 slots of the shuttle. -/
def mayIssue (c : Nat) (s : State) : List (Nat × Xfer × Nat × Nat × Nat × Nat) :=
  (issuable c s).filter fun e => decide (slotsUsed c s + slotsOf e.2.1.space e.2.2.2.1 e.2.2.2.2.1 ≤ 48)

/-- Pieces of the transfer's task go from the end down (11 R373). -/
def issuesDown (c : Nat) (x : Xfer) (s : State) : Bool := ((findTask c x.uid s).map Task.overlap).getD 0 == 2

/-- The transfer is a write that waits for a read of an overlapping COPY (11 R373). -/
def heldBack (c : Nat) (x : Xfer) (s : State) : Prop := ∃ k, findTask c x.uid s = some k ∧ writeHeld c k x s = true

/-- The transfer may have a stream now. -/
def mayStream (c : Nat) (x : Xfer) (s : State) : Prop := x.courier = false ∧ (freeStream c x s).isSome = true

/-- A fault of the croft's tasks takes nothing back: none is an in-place COPY that has begun to write (11 R375), and no product that is still
to take effect has changed a slot (04 R142, 05 R170; log entry 62). -/
def NoneFirm (c : Nat) (s : State) : Prop :=
  (∀ w ∈ (croftOf c s).work, w.firm = []) ∧ ∀ e ∈ (croftOf c s).ending, e.firm = [] ∧ e.undo = []

end Sys2Proof.Claims

/-- STREAM_GRANT: the first to ask of the transfers that may have a stream gets one, and no other; of those that asked in one croft
cycle the earlier unit class (11 R346). PIECE_ISSUE: the piece with the earliest deadline, then the lower stream, takes a
slot; one outside its stream's bounds is not issued and its task faults with BOUNDS (11 R345, R347, R354); a piece for a peer
that finds no route halts the croft (13 R427). COURIER_TRANSFER: the oldest transfer of the courier path that has room takes a
courier slot with its arrival as deadline, or fails the same bounds check (11 R350, R351). -/
def Sys2Proof.Claims.ShuttleIssues : Prop :=
  ∀ (c : CroftId) (s : State),
    (∀ l x r n, (croftOf c.val s).xfers = l ++ x :: r → x.courier = false → freeStream c.val x s = some n →
      (∀ y ∈ l, mayStream c.val y s → asksBefore c.val x y s = true) →
      (∀ y ∈ r, mayStream c.val y s → asksBefore c.val y x s = false) →
      ∃ t, exec (.streamGrant c) s = .next t ∧ streamOf c.val n t = some x ∧
        (∀ m, m ≠ n → streamOf c.val m t = streamOf c.val m s) ∧ (croftOf c.val t).xfers = l ++ r ∧
        (croftOf c.val t).queue = (croftOf c.val s).queue ∧ OtherCrofts c.val s t ∧ t = { s with crofts := t.crofts }) ∧
    (∀ n x o a l d, (n, x, o, a, l, d) ∈ mayIssue c.val s → slotsUsed c.val s < 48 →
      (∀ e ∈ mayIssue c.val s, e.1 ≠ n → d < e.2.2.2.2.2 ∨ (d = e.2.2.2.2.2 ∧ n < e.1)) →
      (x.lo ≤ a → a + l ≤ x.hi → x.space ≠ 2 →
        ∃ t, exec (.pieceIssue c) s = .next t ∧ Issues c.val n x a l d s t ∧
          streamOf c.val n t = some (x.issued (issuesDown c.val x s) o l) ∧
          ∀ m, m ≠ n → streamOf c.val m t = streamOf c.val m s) ∧
      (x.lo ≤ a → a + l ≤ x.hi → x.space = 2 →
        ∃ t, exec (.pieceIssue c) s = .next t ∧
          ((Issues c.val n x a l d s t ∧ streamOf c.val n t = some (x.issued (issuesDown c.val x s) o l)) ∨
            Faulted c.val x.uid 0x0C 0 t)) ∧
      (¬(x.lo ≤ a ∧ a + l ≤ x.hi) → ∃ t, exec (.pieceIssue c) s = .next t ∧ Faulted c.val x.uid 0x08 0 t)) ∧
    (∀ l x r, (croftOf c.val s).xfers = l ++ x :: r → x.courier = true → roomAt c.val x.space x.addr s = true →
      ¬heldBack c.val x s →
      (∀ y ∈ l, y.courier = false ∨ roomAt c.val y.space y.addr s = false ∨ heldBack c.val y s) →
      courierUsed c.val s < 8 →
      (x.lo ≤ x.addr → x.addr + x.len ≤ x.hi → x.space ≠ 2 →
        ∃ t, exec (.courierTransfer c) s = .next t ∧ Issues c.val 6 x x.addr x.len s.time s t ∧
          (croftOf c.val t).xfers = l ++ r ∧ Counts (bCroft c.val) F.SH_COURIER_OPS 1 s t) ∧
      (¬(x.lo ≤ x.addr ∧ x.addr + x.len ≤ x.hi) → (∃ k, findTask c.val x.uid s = some k) →
        ∃ t, exec (.courierTransfer c) s = .next t ∧ Faulted c.val x.uid 0x08 0 t))

/-- PIECE_RETURN: nothing before the oldest piece of the stream is served; then its slot is free, a late one is counted, the
bytes a read stream has brought are the task's, and the stream ends with its last byte (11 R348, R352, R353, R356); poison faults the task that waits for it with UNIT_ERROR
(10 R336). -/
def Sys2Proof.Claims.PiecesReturn : Prop :=
  ∀ (c : CroftId) (n : Fin 10) (s : State) (p : Piece), (croftOf c.val s).pieces.find? (fun q => q.stream == n.val) = some p →
    (p.served = false → exec (.pieceReturn c n) s = .next s) ∧
    (p.served = true → p.poison = false →
      ∃ t, exec (.pieceReturn c n) s = .next t ∧
        (croftOf c.val t).pieces = (croftOf c.val s).pieces.filter (fun q => q.id != p.id) ∧
        Counts (bCroft c.val) F.SH_LATE_PIECES (if pieceLate p s then 1 else 0) s t ∧
        (∀ x, streamOf c.val n.val s = some x → x.uid = p.uid →
          streamOf c.val n.val t =
            if x.len * x.rows ≤ x.back + p.len then none else some { x with back := x.back + p.len }) ∧
        (croftOf c.val t).queue = (croftOf c.val s).queue.map (fun k =>
          if k.uid = p.uid ∧ p.write = false ∧ p.stream ≠ 6 then { k with readBack := k.readBack + p.len } else k) ∧
        OtherCrofts c.val s t ∧ SameBytes s t) ∧
    (p.served = true → p.poison = true → (∃ k, findTask c.val p.uid s = some k) →
      ∃ t, exec (.pieceReturn c n) s = .next t ∧ Faulted c.val p.uid 0x0B 0 t)

/-- Streams, pieces and courier transfers of the shuttle, and their return. -/
def Obligations.PiecesMove : Prop := Claims.ShuttleIssues ∧ Claims.PiecesReturn

/-! ### The memory controllers -/

namespace Sys2Proof.Claims

/-- A request that its controller may serve: one of the 64 it holds, none of its 256-byte block has arrived before it, its bank
neither refreshed nor under repair, and not held back for merging before its access is due (10 R331, R333, R337; 11
R359). -/
def Eligible (q : Nat) (r : Req) (s : State) : Prop :=
  r ∈ (queueOf q s).take 64 ∧ (∀ y ∈ queueOf q s, y.piece < r.piece → sameBlock y r = false) ∧ bankStalled q r s = false ∧
  (r.held = false ∨ dueOf ((queueOf q s).take 64) r ≤ s.time)

/-- An access is served before another: an earlier deadline among the reads it merges, then the earlier arrival (10 R331, 11
R357). -/
def ServedBefore (due : Req → Nat) (x y : Req) : Prop := due x < due y ∨ (due x = due y ∧ x.piece ≤ y.piece)

/-- No two requests of a queue stand for one piece. -/
def OnePiece (l : List Req) : Prop := l.Pairwise fun x y => x.piece ≠ y.piece

/-- The request's piece has been served: its data are there, with or without poison. -/
def ServedAs (r : Req) (poison : Bool) (t : State) : Prop :=
  r.croft < 608 → ∀ p ∈ (croftOf r.croft t).pieces, p.id = r.piece → p.served = true ∧ (poison = true → p.poison = true)

end Sys2Proof.Claims

/-- MEMORY_REQUEST: a controller that is not retraining and has a request to serve serves an eligible one of the earliest
deadline; what leaves the queue with it are reads of its partition and access unit; what comes are requests that waited for room and
arrive now, all of them of the mill or the host (log entry 57); a late one counts as a deadline miss; an error in what the access reads is counted, and an
uncorrectable one poisons the answer and its granule (10 R328, R330, R331, R336; 11 R356, R357). MERGE_HOLD_EXPIRE:
exactly the pieces whose hold has passed are held no more (11 R359). -/
def Sys2Proof.Claims.ControllerServes : Prop :=
  (∀ (c : CtrlId) (ecc : Ecc) (off : Nat) (s : State) (r0 : Req), Eligible (ctrlCode c) r0 s → OnePiece (queueOf (ctrlCode c) s) →
    mapGet (fun _ => 0) s.memsys.retrainEnd (ctrlCode c) ≤ s.time →
    let q := ctrlCode c
    ∃ t r, exec (.memoryRequest c ecc off) s = .next t ∧ Eligible q r s ∧
      (∀ y, Eligible q y s → ServedBefore (dueOf ((queueOf q s).take 64)) r y) ∧
      (∀ x ∈ queueOf q t, (x ∈ queueOf q s ∧ x.piece ≠ r.piece) ∨ 608 ≤ x.croft ∨ s.nextUid ≤ x.piece) ∧
      (∀ x ∈ queueOf q s, x ∈ queueOf q t ∨ x = r ∨
        (r.write = false ∧ x.write = false ∧ x.part = r.part ∧ unitOfReq x = unitOfReq r)) ∧
      (let a := r.addr + off % max 1 r.len
       let found := if coversGranule r a then Ecc.clean else ecc
       ServedAs r (found == .uncorrectable) t ∧
       Counts (ctrlPage q) (fCe q) (if found = .corrected then 1 else 0) s t ∧
       Counts (ctrlPage q) (fUe q) (if found = .uncorrectable ∧ (place0 a s).isSome = true then 1 else 0) s t ∧
       (found = .uncorrectable → ∀ pl, place0 a s = some pl → poisonedAt pl t = true)) ∧
      (r.deadline < s.time → getF (ctrlPage q) (fMiss q) s < getF (ctrlPage q) (fMiss q) t ∨
        getF (ctrlPage q) (fMiss q) s = 2 ^ 32 - 1) ∧
      SameDeviceBytes s t) ∧
  (∀ (h : HamletId) (pc : Fin 64) (s : State),
    let q := 64 * h.val + pc.val
    ∃ t, exec (.mergeHoldExpire h pc) s = .next t ∧
      queueOf q t = (queueOf q s).map (fun r =>
        if r.arrival + getF (bHbm h.val) F.HB_MERGE_HOLD s ≤ s.time then { r with held := false } else r) ∧
      (∀ k, k ≠ q → queueOf k t = queueOf k s) ∧
      t = { s with memsys := { s.memsys with queues := t.memsys.queues } })

/-- STATS_FOLD_APPLY: the oldest fold combines its record with the 32 bytes there, in one update, and changes no other byte; a
record that the partition cannot reach stays, and its task and every task that waits for the same fold fault with ADDRESS (06 R205, 09
R306, 10 R318). -/
def Sys2Proof.Claims.FoldsApply : Prop :=
  ∀ (s : State) (f : Fold) (r : List Fold), s.foldq = f :: r →
    (∀ q, (spaceOf f.addr = 0 ∧ addrOf f.addr + 32 ≤ 2 ^ 40 ∧ q = plTier1 (addrOf f.addr) ∧
          reach0 f.part (addrOf f.addr) 32 s = true ∧ poison0 f.part (addrOf f.addr) 32 s = false) ∨
        (spaceOf f.addr ≠ 0 ∧ place3 f.part (some f.croft) (addrOf f.addr) 32 s = some q) →
      ∃ t, exec .statsFoldApply s = .next t ∧ t.foldq = r ∧ rdN q 32 t = foldBytes f (rdN q 32 s) ∧
        (∀ a, a < q ∨ q + 32 ≤ a → rd a t = rd a s) ∧ OnlyRegs [] s { t with foldq := s.foldq, mem := s.mem, memsys := s.memsys }) ∧
    ((spaceOf f.addr = 0 ∧ reach0 f.part (addrOf f.addr) 32 s = false) ∨
        (spaceOf f.addr ≠ 0 ∧ place3 f.part (some f.croft) (addrOf f.addr) 32 s = none) →
      ∃ t, exec .statsFoldApply s = .next t ∧ t.foldq = r ∧
        (∀ u ∈ f.uid :: f.waits, (∃ k, findTask f.croft u s = some k) →
          Faulted f.croft u 0x09 (if f.report then 0x28 else 0x18) t) ∧ (NoneFirm f.croft s → SameDeviceBytes s t))

/-- The memory controllers serve requests, and folds of statistics and reports reach their records. -/
def Obligations.MemoryServes : Prop := Claims.ControllerServes ∧ Claims.FoldsApply

/-- HBM_REFRESH, DDR_REFRESH, HBM_RETRAIN and PATROL_SCRUB: a bank that is due is refreshed while its pseudo-channel does not
retrain, and due again after the interval of its temperature, and so is a channel, which its modules' tRFC blocks; a retraining stalls
its pseudo-channel for the time it takes and is due again after RETRAIN_MS, and the third failure in succession, or banks that
cannot all be repaired, fence the hamlet and answer what waited with poison; the scrub moves on by one unit when it is due and counts
what it finds (10 R333 to R335, R337, R338). What a retraining and a scrub find is an operand (log entry 1),
and so is a retraining that finds more banks than the spares repair (log entry 58); the effect comes with the command, and what takes time
is a stamp (log entry 2); the scrub of memory that no set reaches is the model's choice (log entry 59). -/
def Sys2Proof.Claims.MemoryUpkeep : Prop :=
  (∀ (h : HamletId) (pc : Fin 64) (bank : Fin 16) (s : State),
    let k := (64 * h.val + pc.val) * 16 + bank.val
    mapGet (fun _ => 0) s.memsys.refreshDue k ≤ s.time →
    mapGet (fun _ => 0) s.memsys.retrainEnd (64 * h.val + pc.val) ≤ s.time →
    ∃ t, exec (.hbmRefresh h pc bank) s = .next t ∧
      mapGet (fun _ => 0) t.memsys.refreshDue k = s.time + (if getF (bHbm h.val) F.HB_REFRESH s = 0 then 3900
        else if getF (bHbm h.val) F.HB_REFRESH s = 1 then 1950 else 975) ∧
      (∀ j, j ≠ k → mapGet (fun _ => 0) t.memsys.refreshDue j = mapGet (fun _ => 0) s.memsys.refreshDue j) ∧
      mapGet (fun _ => 0) t.memsys.bankBusy k = max (mapGet (fun _ => 0) s.memsys.bankBusy k) (s.time + 280) ∧
      (∀ j, j ≠ k → mapGet (fun _ => 0) t.memsys.bankBusy j = mapGet (fun _ => 0) s.memsys.bankBusy j) ∧
      t = { s with memsys := { s.memsys with refreshDue := t.memsys.refreshDue, bankBusy := t.memsys.bankBusy } }) ∧
  (∀ (c : Fin 12) (s : State), mapGet (fun _ => 0) s.memsys.refreshDue (16384 + c.val) ≤ s.time →
    ∃ t, exec (.ddrRefresh c) s = .next t ∧
      mapGet (fun _ => 0) t.memsys.refreshDue (16384 + c.val) =
        s.time + (if flag (bDdr c.val) F.MC_REFRESH_2X s then 1950 else 3900) ∧
      mapGet (fun _ => 0) t.memsys.retrainEnd (1024 + c.val) = s.time + trfcOf c.val s ∧
      (∀ j, j ≠ 1024 + c.val → mapGet (fun _ => 0) t.memsys.retrainEnd j = mapGet (fun _ => 0) s.memsys.retrainEnd j) ∧
      t = { s with memsys := { s.memsys with refreshDue := t.memsys.refreshDue, retrainEnd := t.memsys.retrainEnd } }) ∧
  (∀ (h : HamletId) (pc : Fin 64) (stall : Fin 4001) (ended : Retrained) (s : State), retrainOk h.val pc.val s = true →
    let q := 64 * h.val + pc.val
    ∃ t, exec (.hbmRetrain h pc stall ended) s = .next t ∧
      mapGet (fun _ => 0) t.memsys.retrainEnd q = s.time + stall.val ∧
      mapGet (fun _ => 0) t.memsys.retrainDue q = s.time + getF (bHbm h.val) F.HB_RETRAIN_MS s * 10 ^ 6 ∧
      getF (bHbm h.val) F.HB_RETRAIN_PC t = pc.val ∧
      (ended = .passed → mapGet (fun _ => 0) t.memsys.trainFails q = 0 ∧ Counts (bHbm h.val) F.HB_RETRAINS 1 s t ∧
        t = { s with memsys := t.memsys, regs := t.regs }) ∧
      (ended ≠ .passed → mapGet (fun _ => 0) t.memsys.trainFails q = mapGet (fun _ => 0) s.memsys.trainFails q + 1) ∧
      (ended = .beyondRepair ∨ (ended = .failed ∧ 2 ≤ mapGet (fun _ => 0) s.memsys.trainFails q) →
        fenced (bHamlet h.val) t = true ∧ ∀ x ∈ queueOf q t, s.nextUid ≤ x.piece)) ∧
  (∀ (c : CtrlId) (ecc : Ecc) (s : State), scrubOn (ctrlCode c) s = true →
    mapGet (fun _ => 0) s.memsys.scrubDue (ctrlPage (ctrlCode c)) ≤ s.time →
    let q := ctrlCode c
    ∃ t, exec (.patrolScrub c ecc) s = .next t ∧
      mapGet (fun _ => 0) t.memsys.scrubPos (ctrlPage q) = (if scrubAt q s + 1 < scrubUnits q s then scrubAt q s + 1 else 0) ∧
      Counts (ctrlPage q) (fCe q) (if ecc = .corrected then 1 else 0) s t ∧
      (∀ a, scrubAddr q s = some a →
        Counts (ctrlPage q) (fUe q) (if ecc = .uncorrectable ∧ (place0 a s).isSome = true then 1 else 0) s t ∧
        (ecc = .uncorrectable → ∀ pl, place0 a s = some pl → poisonedAt pl t = true)) ∧
      (scrubAddr q s = none →
        Counts (ctrlPage q) (fUe q) (if ecc = .uncorrectable then 1 else 0) s t ∧
        (ecc = .uncorrectable → poisonedAt (plTier2 (q - 1024) (scrubAt q s * 512)) t = true)) ∧
      SameDeviceBytes s t)

/-- HBM_TEMP_SAMPLE and DDR_THERMAL_SAMPLE: the temperature is shown and the refresh rate follows the thresholds, a stack's only down
once it is 3 K below; above 95 °C a stack's hamlet is capped and below 92 °C it is not (10 R333, R334; 15 R499). The
reading is an operand of the command (log entry 1). -/
def Sys2Proof.Claims.MemoryTemperatures : Prop :=
  (∀ (h : HamletId) (v : BitVec 8) (s : State),
    let old := getF (bHbm h.val) F.HB_REFRESH s
    ∃ t, exec (.hbmTempSample h v) s = .next t ∧ getF (bHbm h.val) F.HB_TEMP t = v.toNat ∧
      let new := getF (bHbm h.val) F.HB_REFRESH t
      (95 < v.toInt → new = 2) ∧ (v.toInt ≤ 95 → old ≠ 2 ∨ v.toInt ≤ 92 → new ≤ 1) ∧ (old = 2 → 92 < v.toInt → new = 2) ∧
      (85 < v.toInt → 1 ≤ new) ∧ (1 ≤ old → 82 < v.toInt → 1 ≤ new) ∧ (v.toInt ≤ 82 → new = 0) ∧
      (v.toInt ≤ 85 → old = 0 → new = 0) ∧
      (95 < v.toInt → h.val ∈ t.power.hot) ∧ (v.toInt < 92 → h.val ∉ t.power.hot) ∧
      (92 ≤ v.toInt → v.toInt ≤ 95 → t.power = { s.power with sensors := t.power.sensors }) ∧ t.crofts = s.crofts ∧ SameDeviceBytes s t) ∧
  (∀ (c : Fin 12) (v : BitVec 8) (s : State),
    ∃ t, exec (.ddrThermalSample c v) s = .next t ∧ getF (bDdr c.val) F.MC_TEMP t = v.toNat ∧
      getF (bDdr c.val) F.MC_REFRESH_2X t = (if 85 < v.toInt then 1 else 0) ∧
      (v.toInt ≤ 95 → t = { s with regs := t.regs, memsys := { s.memsys with hotSince := t.memsys.hotSince } }) ∧
      t.crofts = s.crofts ∧ SameDeviceBytes s t)

/-- Refresh, retraining, scrubbing and temperatures of the memory. What a retraining, a scrub and a sensor find are operands of the commands,
which is the model's choice (log entry 1). -/
def Obligations.MemoryKeptUp : Prop := Claims.MemoryUpkeep ∧ Claims.MemoryTemperatures

/-- CHANNEL_FAIL, EXPANDER_REMOVED and D2D_LINK_LOSS: a failed channel or port is offline and fenced, its set is out of the map and what
waits at its set's channels is answered with poison (10 R339; 19 R641); a link that loses lanes is repaired and stays in service,
or is out of service and counted; the crofts behind a lost commons link are fenced, and a lost host edge takes the host link with
it (01 R30, R31). -/
def Obligations.MemoryFailures : Prop :=
  (∀ (c : ChanId) (s : State), trained (chanTier c) (chanNum c) s = true →
    ∃ t, exec (.channelFail c) s = .next t ∧ getF (chanBlock (chanTier c) (chanNum c)) F.MC_ONLINE t = 0 ∧
      getF (chanBlock (chanTier c) (chanNum c)) F.MC_FENCED t = 1 ∧ fenced (chanBlock (chanTier c) (chanNum c)) t = true ∧
      (∀ g, s.memsys.sets.find? (fun x => x.tier == chanTier c && x.chans.any fun y => y == chanNum c) = some g →
        ∀ x ∈ g.chans, queueOf ((if chanTier c = 2 then 1024 else 1036) + x) t = []) ∧ SameDeviceBytes s t) ∧
  (∀ (x : Fin 4) (s : State),
    ∃ t, exec (.expanderRemoved x) s = .next t ∧ getF (bCxl x.val) F.MC_ONLINE t = 0 ∧ getF (bCxl x.val) F.MC_PRESENT t = 0 ∧
      (flag (bCxl x.val) F.MC_ONLINE s = true → fenced (bCxl x.val) t = true) ∧
      (∀ m ∈ t.memsys.modules, m ∈ s.memsys.modules ∧ ∀ a b, m ≠ .cxl x a b) ∧ SameDeviceBytes s t) ∧
  (∀ (d : Fin 4) (s : State), getF (bDie d.val) F.DIE_LINK_NEXT s ≠ 0 →
    (∃ t, exec (.d2dLinkLoss ⟨.ring d, false⟩) s = .next t ∧ getF (bDie d.val) F.DIE_LINK_NEXT t = 0 ∧
      getF (bDie ((d.val + 1) % 4)) F.DIE_LINK_PREV t = 0 ∧ Counts (bDie d.val) F.DIE_LINK_LOSSES 1 s t ∧
      Counts (bDie ((d.val + 1) % 4)) F.DIE_LINK_LOSSES 1 s t ∧ ((∀ c, NoneFirm c s) → SameDeviceBytes s t)) ∧
    (∃ t, exec (.d2dLinkLoss ⟨.ring d, true⟩) s = .next t ∧ getF (bDie d.val) F.DIE_LINK_NEXT t = 2 ∧
      getF (bDie ((d.val + 1) % 4)) F.DIE_LINK_PREV t = 2 ∧ Counts (bDie d.val) F.DIE_LANE_REPAIRS 1 s t ∧
      Counts (bDie ((d.val + 1) % 4)) F.DIE_LANE_REPAIRS 1 s t ∧ t = { s with regs := t.regs })) ∧
  (∀ (d : Fin 4) (s : State), getF (bDie d.val) F.DIE_LINK_COMMONS s ≠ 0 →
    (∃ t, exec (.d2dLinkLoss ⟨.commons d, false⟩) s = .next t ∧ getF (bDie d.val) F.DIE_LINK_COMMONS t = 0 ∧
      Counts (bDie d.val) F.DIE_LINK_LOSSES 1 s t ∧ ∀ i < 4, fenced (bHamlet (4 * d.val + i)) t = true) ∧
    (∃ t, exec (.d2dLinkLoss ⟨.commons d, true⟩) s = .next t ∧ getF (bDie d.val) F.DIE_LINK_COMMONS t = 2 ∧
      Counts (bDie d.val) F.DIE_LANE_REPAIRS 1 s t ∧ t = { s with regs := t.regs })) ∧
  (∀ (e : Fin 2) (s : State), getF (bEdge e.val) F.DIE_LINK_COMMONS s ≠ 0 →
    (∃ t, exec (.d2dLinkLoss ⟨.edge e, false⟩) s = .next t ∧ getF (bEdge e.val) F.DIE_LINK_COMMONS t = 0 ∧
      Counts (bEdge e.val) F.DIE_LINK_LOSSES 1 s t ∧
      (e.val = 0 → t.power.e0Lost = true) ∧ (e.val = 1 → fenced (bEdge 1) t = true)) ∧
    (∃ t, exec (.d2dLinkLoss ⟨.edge e, true⟩) s = .next t ∧ getF (bEdge e.val) F.DIE_LINK_COMMONS t = 2 ∧
      Counts (bEdge e.val) F.DIE_LANE_REPAIRS 1 s t ∧ t = { s with regs := t.regs }))

/-! ### The granary -/

namespace Sys2Proof.Claims

/-- A slice may change its mode or owner: no dirty granule, and its owner's queues empty (11 R360, R364). -/
def SliceAtRest (i : Nat) (s : State) : Prop :=
  dirtyLines i s = 0 ∧ ∀ p, ownerOf (bSlice i) s = some p → queuesEmpty p s = true

/-- The lines of every slice but `i` are as before. -/
def OtherLines (i : Nat) (s t : State) : Prop :=
  ∀ k, k / 6144 ≠ i → mapGet (fun _ => none) t.memsys.lines k = mapGet (fun _ => none) s.memsys.lines k

end Sys2Proof.Claims

/-- GRANARY_MODE_WRITE: a slice at rest takes a mode, dropping its lines when the mode changes, or an owner from the control core; every
slice of a cache that gains or loses a slice by it starts empty, and the steward waits until all are clean (log entry 50); a slice with a
dirty granule keeps its mode and the write counts as discarded. GRANARY_FLUSH and GRANARY_INVALIDATE start; an invalidated
slice has no line. GRANARY_FLUSH_DONE leaves no dirty granule of an owned slice (11 R360, R364, R386). -/
def Sys2Proof.Claims.GranaryControl : Prop :=
  ∀ (i : SliceId) (who : Requester) (s : State), Reaches who (bSlice i.val) s → Unlocked who (bSlice i.val) s →
    (∀ m : BitVec 2, keeper who → m ≠ 3 → SliceAtRest i.val s → who = .reeve ∨ CachesClean s →
      ∃ t, exec (.granaryModeWrite who i (.mode m)) s = .next t ∧ FieldsAre (bSlice i.val) [(F.GR_MODE, m.toNat)] s t ∧
        (m.toNat ≠ getF (bSlice i.val) F.GR_MODE s → linesOf i.val t = []) ∧ LinesKept i.val s t ∧
        (Memory.wf s = true → ∀ q, q < plSlice i.val 0 ∨ plSlice (i.val + 1) 0 ≤ q → rd q t = rd q s) ∧
        OnlyRegs [regKey (bSlice i.val) F.GR_MODE.off] s { t with memsys := s.memsys, mem := s.mem, free := s.free }) ∧
    (∀ m : BitVec 2, m.toNat ≠ getF (bSlice i.val) F.GR_MODE s → 0 < dirtyLines i.val s →
      ∃ t, exec (.granaryModeWrite who i (.mode m)) s = .next t ∧
        getF (bSlice i.val) F.GR_MODE t = getF (bSlice i.val) F.GR_MODE s ∧ t.memsys.lines = s.memsys.lines ∧
        Counts bDevice F.DEV_WRITES_DISCARDED 1 s t ∧ SameDeviceBytes s t) ∧
    (∀ (p : PartId) (a : Bool), who = .control → SliceAtRest i.val s → CachesClean s →
      ∃ t, exec (.granaryModeWrite who i (.owner p a)) s = .next t ∧
        FieldsAre (bSlice i.val) [(F.BLK_PART, p.val), (F.BLK_ASSIGNED, bitOf a)] s t ∧ LinesKept 64 s t ∧
        t = { s with regs := t.regs, memsys := { s.memsys with lines := t.memsys.lines } }) ∧
    (keeper who → ∃ t, exec (.granaryFlush who i) s = .next t ∧
      (∀ x, x ∈ t.memsys.flushing ↔ x ∈ s.memsys.flushing ∨ x = i.val) ∧
      OnlyRegs [] s { t with memsys := { t.memsys with flushing := s.memsys.flushing } }) ∧
    (keeper who → ∃ t, exec (.granaryInvalidate who i) s = .next t ∧ i.val ∈ t.memsys.flushing ∧ linesOf i.val t = [] ∧
      OtherLines i.val s t ∧ OnlyRegs [] s { t with memsys := s.memsys }) ∧
    (i.val ∈ s.memsys.flushing → ∃ t, exec (.granaryFlushDone i) s = .next t ∧
      (∀ x, x ∈ t.memsys.flushing ↔ x ∈ s.memsys.flushing ∧ x ≠ i.val) ∧
      (∀ p, ownerOf (bSlice i.val) s = some p → dirtyLines i.val t = 0) ∧ OtherLines i.val s t ∧ t.crofts = s.crofts)

/-- GRANARY_ACCESS: the slice serves the request of the earliest deadline that is first of its block, with the reads it merges, and
counts the error it finds (11 R354, R359, R362, R386).
GRANARY_SLICE_FAIL: the slice is fenced, holds no line, leaves its partition's cache, and what waits at it is answered with poison (11
R361, R365; 14 R485). -/
def Sys2Proof.Claims.GranaryServes : Prop :=
  ∀ (i : SliceId) (s : State),
    (∀ (ecc : Ecc), sliceQueue i.val s ≠ [] → OnePiece (sliceQueue i.val s) →
      let l := sliceQueue i.val s
      ∃ t r, exec (.granaryAccess i ecc) s = .next t ∧ r ∈ l ∧ firstOfBlock l r = true ∧
        (∀ y ∈ l, firstOfBlock l y = true → ServedBefore Req.deadline r y) ∧
        (∀ x ∈ sliceQueue i.val t, x ∈ l ∧ x.piece ≠ r.piece) ∧
        (∀ x ∈ l, x ∈ sliceQueue i.val t ∨ x = r ∨ (x.part = r.part ∧ x.write = false ∧ r.write = false)) ∧
        ServedAs r (ecc == .uncorrectable && !r.write) t ∧
        Counts (bSlice i.val) F.GR_CE (if ecc = .corrected then 1 else 0) s t ∧
        Counts (bSlice i.val) F.GR_UE (if ecc = .uncorrectable then 1 else 0) s t) ∧
    (fenced (bSlice i.val) s = false →
      ∃ t, exec (.granarySliceFail i) s = .next t ∧ fenced (bSlice i.val) t = true ∧ getF (bSlice i.val) F.GR_FENCED t = 1 ∧
        linesOf i.val t = [] ∧ sliceQueue i.val t = [] ∧ i.val ∈ t.memsys.failedSlices ∧ LinesKept i.val s t ∧
        (∀ r ∈ sliceQueue i.val s, ServedAs r true t) ∧ Counts bRepair F.REP_FENCES 1 s t ∧ SameDeviceBytes s t)

/-- The granary's control and its service. -/
def Obligations.GranarySlices : Prop := Claims.GranaryControl ∧ Claims.GranaryServes

/-! ### Keys and the interleave map -/

namespace Sys2Proof.Claims

/-- The partition's key pair has been made: its slot is valid with a new key, the others are as before, and the ledger notes the
action without the key. -/
def KeyMade (p : Nat) (s t : State) : Prop :=
  keyHeld p t = true ∧ mapGet (fun _ => 0) t.memsys.keys p = s.memsys.nextKey + 1 ∧ (∀ q, q ≠ p → keyHeld q t = keyHeld q s) ∧
  (∃ e, t.reeve.log = s.reeve.log ++ [e] ∧ e.kind = 0x0A ∧ e.part = p) ∧ SameBytes s t ∧ t.crofts = s.crofts ∧ t.parts = s.parts

/-- The partition's key pair is gone. -/
def KeyGone (p : Nat) (s t : State) : Prop :=
  keyHeld p t = false ∧ mapGet (fun _ => 0) t.memsys.keys p = 0 ∧ (∀ q, q ≠ p → keyHeld q t = keyHeld q s) ∧
  (∃ e, t.reeve.log = s.reeve.log ++ [e] ∧ e.kind = 0x0A ∧ e.part = p) ∧ SameBytes s t ∧ t.crofts = s.crofts ∧ t.parts = s.parts

end Sys2Proof.Claims

/-- KEY_GENERATE, KEY_DESTROY and their requests on the reeve's page: a confidential partition without a key pair gets one, a
held pair goes, and a request shows its RESULT with DONE; any other request has RESULT 1 and no effect on the keys (10
R341; 17 R571, R601). -/
def Sys2Proof.Claims.KeyActions : Prop :=
  ∀ (p : PartId) (s : State), s.power.supply = .on →
    (NotLocked .reeve bMemMap s → confidential p.val s = true → keyHeld p.val s = false →
      ∃ t, exec (.keyGenerate p) s = .next t ∧ KeyMade p.val s t) ∧
    (NotLocked .reeve bMemMap s → keyHeld p.val s = true → ∃ t, exec (.keyDestroy p) s = .next t ∧ KeyGone p.val s t) ∧
    (∀ who, keeper who → NotLocked who bReeve s → getF bReeve F.RV_DONE s = 1 →
      (confidential p.val s = true → keyHeld p.val s = false →
        ∃ t, exec (.rvReqGenerate who p) s = .next t ∧ KeyMade p.val s t ∧ getF bReeve F.RV_RES_CODE t = 0 ∧
          getF bReeve F.RV_DONE t = 1) ∧
      (confidential p.val s = false ∨ keyHeld p.val s = true →
        ∃ t, exec (.rvReqGenerate who p) s = .next t ∧ getF bReeve F.RV_RES_CODE t = 1 ∧ getF bReeve F.RV_DONE t = 1 ∧
          t = { s with regs := t.regs }) ∧
      (keyHeld p.val s = true →
        ∃ t, exec (.rvReqDestroy who p) s = .next t ∧ KeyGone p.val s t ∧ getF bReeve F.RV_RES_CODE t = 0 ∧
          getF bReeve F.RV_DONE t = 1))

/-- MAP_APPLY: the sets in use are those of the modes whose channels are all usable, in ascending windows that do not overlap, each as
large as its smallest channel allows (10 R322 to R324). -/
def Sys2Proof.Claims.MapApplies : Prop :=
  ∀ (who : Requester) (s : State), keeper who → Reaches who bMemMap s → Unlocked who bMemMap s → rangesHeld s = false →
    ∃ t, exec (.mapApply who) s = .next t ∧
      (∀ g ∈ t.memsys.sets, (g.tier = 2 ∨ g.tier = 3) ∧
        g.chans ∈ setChannels g.tier (getF bMemMap (if g.tier = 2 then F.MAP_TIER2_MODE else F.MAP_TIER3_MODE) s) ∧
        (∀ c ∈ g.chans, usable g.tier c s = true) ∧ g.size = g.chans.length * setGib g.tier g.chans s * 2 ^ 30 ∧
        (if g.tier = 2 then 2 ^ 40 else 2 ^ 44) ≤ g.base) ∧
      (∀ tier, tier = 2 ∨ tier = 3 →
        ∀ l ∈ setChannels tier (getF bMemMap (if tier = 2 then F.MAP_TIER2_MODE else F.MAP_TIER3_MODE) s),
        (∀ c ∈ l, usable tier c s = true) → ∃ g ∈ t.memsys.sets, g.tier = tier ∧ g.chans = l) ∧
      t.memsys.sets.Pairwise (fun g h => g.tier = h.tier → g.base + g.size ≤ h.base) ∧
      t.crofts = s.crofts ∧ t.parts = s.parts ∧ SameDeviceBytes s t

/-- Key actions and the interleave map. -/
def Obligations.KeysAndMap : Prop := Claims.KeyActions ∧ Claims.MapApplies

/-! ### Fences and self-tests -/

/-- REP_FENCE, REP_SELF_TEST and REP_RETURN: a unit that is neither busy nor retired is fenced, put under test, or brought back when it is
fenced, not under test and not behind a link that is out of service; a unit that does not exist, a slice whose owner is at
work or has not flushed it, and a unit behind a lost link have RESULT 3 (14 R485 to R488; 01 R30; 11 R360, R364). -/
def Sys2Proof.Claims.RepairActions : Prop :=
  ∀ (who : Requester) (kind : BitVec 4) (index : BitVec 10) (s : State), keeper who → Reaches who bRepair s →
    Unlocked who bRepair s → 1 ≤ kind.toNat → kind.toNat ≤ 8 →
    (unitNamed kind.toNat index.toNat s = none →
      ∀ i ∈ [Instr.repFence who kind index, .repSelfTest who kind index, .repReturn who kind index],
        ∃ t, exec i s = .next t ∧ getF bRepair F.REP_RESULT t = 3 ∧ t = { s with regs := t.regs }) ∧
    (∀ u, unitNamed kind.toNat index.toNat s = some u → getF bRepair F.REP_BUSY s = 0 → unitRetired u s = false →
      (sliceFree u s = true →
        (∃ t, exec (.repFence who kind index) s = .next t ∧ getF bRepair F.REP_RESULT t = 0 ∧
          unitFenced u t = true ∧ (2048 ≤ u → unitFenced u s = false → (laneOf (u - 2048) t).up = false) ∧
          getF bRepair F.REP_BUSY t = 0) ∧
        (∃ t, exec (.repSelfTest who kind index) s = .next t ∧ getF bRepair F.REP_RESULT t = 0 ∧
          unitFenced u t = true ∧ getF bRepair F.REP_BUSY t = 1 ∧ u ∈ t.reeve.testing ∧ t.reeve.asked = some u)) ∧
      (sliceFree u s = false → ∀ i ∈ [Instr.repFence who kind index, .repSelfTest who kind index],
        ∃ t, exec i s = .next t ∧ getF bRepair F.REP_RESULT t = 3 ∧ t = { s with regs := t.regs }) ∧
      (linkOut u s = true →
        ∃ t, exec (.repReturn who kind index) s = .next t ∧ getF bRepair F.REP_RESULT t = 3 ∧ t = { s with regs := t.regs }) ∧
      (unitFenced u s = true → u ∉ s.reeve.testing → linkOut u s = false →
        ∃ t, exec (.repReturn who kind index) s = .next t ∧ getF bRepair F.REP_RESULT t = 0 ∧ unitFenced u t = false ∧
          SameBytes s t ∧ t.crofts = s.crofts ∧ t.parts = s.parts))

/-- SELF_TEST_DONE: a unit that passes is counted and, unless its link is out of service, no longer fenced, one that fails is retired for good; the test that the page asked
for shows its RESULT (14 R487, R488). -/
def Sys2Proof.Claims.SelfTestsEnd : Prop :=
  ∀ (u : UnitId) (pass : Bool) (s : State), unitCode u ∈ s.reeve.testing → unitRetired (unitCode u) s = false →
    ∃ t, exec (.selfTestDone u pass) s = .next t ∧ unitCode u ∉ t.reeve.testing ∧
      (pass = true → unfit (unitCode u) s = false → Counts bRepair F.REP_PASSED 1 s t ∧ t.reeve.retired = s.reeve.retired ∧
        (linkOut (unitCode u) s = false → unitFenced (unitCode u) t = false)) ∧
      (pass = false ∨ unfit (unitCode u) s = true → Counts bRepair F.REP_RETIRED 1 s t ∧ unitRetired (unitCode u) t = true ∧
        (unitCode u < 2048 → fenced (unitCode u) t = true)) ∧
      (s.reeve.asked = some (unitCode u) → getF bRepair F.REP_BUSY t = 0 ∧ t.reeve.asked = none ∧
        getF bRepair F.REP_RESULT t = (if pass = true ∧ unfit (unitCode u) s = false then 1 else 2)) ∧
      t.crofts = s.crofts ∧ SameDeviceBytes s t

/-- The repair page's actions and the end of a self-test. -/
def Obligations.RepairsAndTests : Prop := Claims.RepairActions ∧ Claims.SelfTestsEnd

/-- CROFT_FENCE: the croft is stopped and holds no task but those that have completed or whose registration is being withdrawn,
and a partition's index goes to the free spare of the hamlet (03 R103, R105; 12 R400); after UNIT_ERROR the croft is halted
with the unit on record (03 R95). SPARE_RAMP_DONE: the spare has its predecessor's context, STOP clears when the larder
layout fits, and the restore list stands first in the release order (03 R102, R105). -/
def Obligations.CroftsReplaced : Prop :=
  (∀ (c : CroftId) (s : State), fenced (bCroft c.val) s = false →
    (∀ d : Fin 8, ∃ t, exec (.croftFence ⟨c, some d⟩) s = .next t ∧ fenced (bCroft c.val) t = true ∧
      getF (bCroft c.val) F.SEQ_STATUS_FENCED t = 1 ∧ getF (bCroft c.val) F.SEQ_CTRL_STOP t = 1 ∧
      flag (bCroft c.val) F.SEQ_STATUS_HALTED t = true ∧ getF (bCroft c.val) F.BLK_FAULT_CODE t = 0x0B ∧
      getF (bCroft c.val) F.BLK_FAULT_INFO t % 256 = d.val ∧ (croftOf c.val t).arriving = []) ∧
    ∃ t, exec (.croftFence ⟨c, none⟩) s = .next t ∧ fenced (bCroft c.val) t = true ∧
      getF (bCroft c.val) F.SEQ_STATUS_FENCED t = 1 ∧ getF (bCroft c.val) F.SEQ_CTRL_STOP t = 1 ∧
      (∀ j ∈ (croftOf c.val t).queue, j.phase = .leaving) ∧ (croftOf c.val t).arriving = [] ∧
      (∀ p i, contextOf c.val s = some p → slotOf c.val s < 36 → freeSpare (c.val / 38) s = some i →
        physOf (c.val / 38) i s ≠ c.val →
        getF (bHamlet (c.val / 38)) (F.HAM_PHYS.at (slotOf c.val s)) t =
          getF (bHamlet (c.val / 38)) (F.HAM_PHYS.at i) s) ∧
      (Memory.wf s = true → ∀ q, q < plHost 0 → q < plLarder c.val 0 ∨ plLarder (c.val + 1) 0 ≤ q → rd q t = rd q s)) ∧
  (∀ (c : CroftId) (restore : List Desc) (s : State) (r : Ramp) (p : Nat),
    s.power.ramps.find? (fun x => x.spare == c.val) = some r → r.till ≤ s.time → contextOf c.val s = some p →
    ∃ t, exec (.spareRampDone c restore) s = .next t ∧ (∀ x ∈ t.power.ramps, x.spare ≠ c.val) ∧
      (∀ f ∈ contextFields, ∀ i < f.n,
        getF (bCroft c.val) (f.at i) t = getF (bCroft r.from_) (f.at i) s) ∧
      (layoutOk r.from_ s = true → getF (bCroft c.val) F.SEQ_CTRL_STOP t = 0) ∧
      (layoutOk r.from_ s = false → getF (bCroft c.val) F.SEQ_CTRL_STOP t = getF (bCroft c.val) F.SEQ_CTRL_STOP s) ∧
      getF (bCroft c.val) F.CP_STATUS_STATE t = 2 ∧
      (∃ l, (partOf p t).rel = l ++ (partOf p s).rel ∧ l.map (fun e => e.desc) = restore ++ r.reissue.map Prod.fst ∧
        ∀ e ∈ l, e.croft = r.index) ∧
      t.crofts = s.crofts ∧ SameDeviceBytes s t)

/-! ### Lanes -/

namespace Sys2Proof.Claims

/-- What a lane command leaves alone: every memory, croft, partition, tally, and the service of the other lanes. -/
def LaneFrame (n : Nat) (s t : State) : Prop :=
  t = { s with regs := t.regs, subUnits := t.subUnits, mill := t.mill } ∧ ∀ m, m ≠ n → (laneOf m t).up = (laneOf m s).up

/-- The port has counted the codewords that the lane's FEC decoder corrected and could not correct before the flit (13 R459; that they come
with the flit is the model's choice, log entry 64). -/
def FecCounted (v : Nat) (f : RxFlit) (s t : State) : Prop :=
  Counts (bPort v) F.VP_FEC_CORRECTED f.corrected.toNat s t ∧ Counts (bPort v) F.VP_FEC_UNCORRECTABLE f.uncorrectable.toNat s t

/-- The port shows the peer that its lowest lane in service has named (13 R413). -/
def PeerShown (v : Nat) (t : State) : Prop :=
  ∀ m dev port job, (lanesUp v t).head? = some m → (laneOf m t).peer = some (dev, port, job) →
    getF (bPort v) F.VP_PEER_DEVICE t = dev % 2 ^ 13 ∧ getF (bPort v) F.VP_PEER_PORT t = port % 2 ^ 4 ∧
    getF (bPort v) F.VP_PEER_JOB t = job % 2 ^ 16

/-- The flits of a lane's replay buffer that an ACK leaves. -/
def leftBy (f : Flit) (l : List TxFlit) : List TxFlit :=
  if fAckValid f then l.filter fun t => decide ((t.seq + 256 - fAck f) % 256 < 128) else l

/-- A replay of some flits from lane `n`: all of them go out again in order, and the replay is counted; one replay too many in a
millisecond takes the lane out of service instead (13 R415, R418). -/
def Replays (n : Nat) (l : List TxFlit) (s t : State) : Prop :=
  let recent := ((laneOf n s).replays.filter fun x => decide (s.time < x + 1000000)).length + 1
  l ≠ [] → Counts (bPort (n / 4)) F.VP_REPLAYS 1 s t ∧
    (getF (bPort (n / 4)) F.VP_REPLAY_LIMIT s < recent → (laneOf n t).up = false) ∧
    (recent ≤ getF (bPort (n / 4)) F.VP_REPLAY_LIMIT s →
      (∃ w, t.mill.wire = s.mill.wire ++ w ∧ w.map (fun e => (e.1, fSeq e.2)) = l.map (fun f => (n, f.seq % 256))) ∧
      (laneOf n t).window.map (fun f => f.seq) = l.map (fun f => f.seq) ∧ (laneOf n t).up = (laneOf n s).up)

end Sys2Proof.Claims

/-- FEC_ALIGNMENT_GAINED sends a HELLO that names this device, port and lane; a HELLO brings an aligned lane into service with all its
state new, unless it names another peer than the port's other lanes, and the port shows the peer that its lowest lane in service has
named; LANE_ALIGNMENT_LOSS takes it out, counted, and no packet of it is left; a HELLO of another device takes a lane out too (13 R413 to
R415). -/
def Obligations.LanesEnterAndLeave : Prop :=
  ∀ (v : PortId) (l : LaneId) (s : State),
    let n := laneNum v l
    (laneAllowed n s = true → (laneOf n s).aligned = false →
      ∃ t f, exec (.fecAlignmentGained v l) s = .next t ∧ (laneOf n t).aligned = true ∧ t.mill.wire = s.mill.wire ++ [(n, f)] ∧
        fKind f = 3 ∧ fByte 14 2 f = v.val ∧ fByte 16 2 f = l.val ∧
        (∀ p, ownerOf (bPort v.val) s = some p → fByte 12 2 f = myDevice p s ∧ fByte 18 2 f = mlF F.ML_JOB_JOB_ID p s) ∧
        LaneFrame n s t ∧ t.regs = s.regs) ∧
    (∀ (f : RxFlit) (rtt : BitVec 16), fCrcOk f.flit = true → fKind f.flit = 3 →
      let dev := bits 0 13 (fByte 12 2 f.flit)
      let port := bits 0 4 (fByte 14 2 f.flit)
      ((laneOf n s).up = false → (laneOf n s).aligned = true → laneAllowed n s = true →
        (portUp v.val s = false ∨
          (dev = getF (bPort v.val) F.VP_PEER_DEVICE s ∧ port = getF (bPort v.val) F.VP_PEER_PORT s)) →
        ∃ t, exec (.hello v l f rtt) s = .next t ∧
          laneOf n t = { Lane.reset with
            aligned := true, up := true, lastSent := s.time, peer := some (dev, port, fByte 18 2 f.flit) } ∧
          getF (bPort v.val) F.VP_UP t = 1 ∧ bit l.val (getF (bPort v.val) F.VP_LANES_UP t) = true ∧
          bit l.val (getF (bPort v.val) F.VP_LANES_SLOW t) = decide (655 < rtt.toNat) ∧
          (portUp v.val s = false → getF (bPort v.val) F.VP_PEER_DEVICE t = dev ∧ getF (bPort v.val) F.VP_PEER_PORT t = port) ∧
          PeerShown v.val t ∧ FecCounted v.val f s t ∧ LaneFrame n s t) ∧
      ((laneOf n s).up = false → portUp v.val s = true →
        (dev ≠ getF (bPort v.val) F.VP_PEER_DEVICE s ∨ port ≠ getF (bPort v.val) F.VP_PEER_PORT s) →
        ∃ t, exec (.hello v l f rtt) s = .next t ∧ t.mill = s.mill ∧ FecCounted v.val f s t ∧ SameDeviceBytes s t) ∧
      ((laneOf n s).up = true → dev ≠ getF (bPort v.val) F.VP_PEER_DEVICE s →
        ∃ t, exec (.hello v l f rtt) s = .next t ∧ (laneOf n t).up = false ∧ PeerShown v.val t)) ∧
    (∃ t, exec (.laneAlignmentLoss v l) s = .next t ∧ ((laneOf n s).up = true → PeerShown v.val t) ∧ (laneOf n t).up = false ∧ (laneOf n t).aligned = false ∧
      (laneOf n t).window = [] ∧ (laneOf n t).out = [] ∧
      Counts (bPort v.val) F.VP_LANE_LOSSES (if (laneOf n s).up then 1 else 0) s t ∧
      ((laneOf n s).up = true → Counts bMill F.ML_LOST_PACKETS
        ((((laneOf n s).window.map fun f => f.pkt) ++ ((laneOf n s).out.map fun p => p.id)).eraseDups.length +
          ((laneOf n s).rx.filter RxTo.partly).length) s t) ∧
      ∀ m, m ≠ n → (laneOf m t).up = (laneOf m s).up)

/-- DATA_FLIT: accepted in sequence, or discarded without effect on the packet, asking once for a replay; a bad CRC is counted;
a packet whose CURSOR equals HOPS is delivered to the mill (13 R416, R418, R423, R425); every flit that arrives brings the counts of its
lane's FEC decoder (13 R459; log entry 64). IDLE_FLIT returns acknowledgements and credits. IDLE_SEND_TIMER sends an IDLE that acknowledges all that has
been accepted. -/
def Sys2Proof.Claims.FlitsFlow : Prop :=
  ∀ (v : PortId) (l : LaneId) (s : State),
    let n := laneNum v l
    let x := laneOf n s
    (∀ r : RxFlit,
      let f := r.flit
      (x.up = true → fCrcOk f = true → fKind f = 1 →
        (fSeq f = x.rxSeq → ∃ t, exec (.dataFlit v l r) s = .next t ∧ (laneOf n t).rxSeq = (x.rxSeq + 1) % 256 ∧
          (laneOf n t).asked = false ∧ FecCounted v.val r s t ∧ LaneFrame n s t ∧
          (fHead f = true → fTail f = true → 32 ≤ (fPayload f).length →
            pkCursor (fPayload f) = pkHops (fPayload f) → pkCursor (fPayload f) ≠ 0 →
            t.mill.inbox = s.mill.inbox ++ [⟨(ownerOf (bPort v.val) s).getD 8, fPayload f, some v.val⟩])) ∧
        (fSeq f ≠ x.rxSeq → ∃ t, exec (.dataFlit v l r) s = .next t ∧ (laneOf n t).rxSeq = x.rxSeq ∧
          (laneOf n t).asked = true ∧ t.mill.inbox = s.mill.inbox ∧ FecCounted v.val r s t ∧ LaneFrame n s t)) ∧
      (x.up = true → fCrcOk f = false → ∃ t, exec (.dataFlit v l r) s = .next t ∧ (laneOf n t).rxSeq = x.rxSeq ∧
        (laneOf n t).asked = true ∧ Counts (bPort v.val) F.VP_CRC_ERRORS 1 s t ∧ t.mill.inbox = s.mill.inbox ∧
        FecCounted v.val r s t ∧ LaneFrame n s t) ∧
      (x.up = true → fCrcOk f = true → fKind f = 0 → ∃ t, exec (.idleFlit v l r) s = .next t ∧
        (laneOf n t).rxSeq = x.rxSeq ∧ t.mill.inbox = s.mill.inbox ∧ FecCounted v.val r s t ∧ LaneFrame n s t ∧
        (x.out = [] → (laneOf n t).window = leftBy f x.window ∧ ∀ c, (fCredit f).1 = c → c < x.credits.length →
          nth (laneOf n t).credits c = min 32 (nth x.credits c + (fCredit f).2)))) ∧
    (x.up = true → 16 ≤ x.unacked ∨ x.lastSent + 100 ≤ s.time →
      ∃ t f, exec (.idleSendTimer v l) s = .next t ∧ t.mill.wire = s.mill.wire ++ [(n, f)] ∧ fKind f = 0 ∧
        fAckValid f = true ∧ fAck f = x.rxSeq % 256 ∧ (laneOf n t).unacked = 0 ∧ (laneOf n t).lastSent = s.time ∧
        (laneOf n t).window = x.window ∧ LaneFrame n s t ∧ t.regs = s.regs)

/-- REPLAY_REQ resends every flit that its ACK leaves in the replay buffer, and REPLAY_TIMEOUT all of them once the oldest has waited
REPLAY_NS (13 R418). -/
def Sys2Proof.Claims.FlitsReplay : Prop :=
  ∀ (v : PortId) (l : LaneId) (s : State),
    let n := laneNum v l
    (∀ f : RxFlit, (laneOf n s).up = true → fCrcOk f.flit = true → fKind f.flit = 2 →
      ∃ t, exec (.replayReq v l f) s = .next t ∧ Replays n (leftBy f.flit (laneOf n s).window) s t ∧ FecCounted v.val f s t ∧
        (leftBy f.flit (laneOf n s).window = [] → (laneOf n t).window = [] ∧ t.mill.wire = s.mill.wire)) ∧
    (∀ f r, (laneOf n s).window = f :: r →
      (f.sent + getF (bPort v.val) F.VP_REPLAY_NS s ≤ s.time →
        ∃ t, exec (.replayTimeout v l) s = .next t ∧ Replays n (f :: r) s t) ∧
      (s.time < f.sent + getF (bPort v.val) F.VP_REPLAY_NS s → exec (.replayTimeout v l) s = .next s))

/-- Flits that arrive, and what is sent again. -/
def Obligations.FlitsOnLanes : Prop := Claims.FlitsFlow ∧ Claims.FlitsReplay

/-! ### Packets of the gradient exchange -/

namespace Sys2Proof.Claims

/-- The packet `k` of partition `p` is the next of its kind to be taken, and `s'` is the state without it. -/
def NextPacket (kind : Nat) (fold : Bool) (s : State) (p : Nat) (k : Packet) (s' : State) : Prop :=
  takeKind kind fold s = some (p, k, s')

/-- The device is no root, or has no cause for a repeat in its current epoch: taking a packet decides nothing by itself. -/
def Undecided (p : Nat) (s : State) : Prop :=
  isRoot p s = false ∨ (epOf p (jobOf p s).step (jobOf p s).attempt s).cause = none

/-- The vote for an epoch has become repeat for a reason, or had a cause already. -/
def CauseOf (p step attempt reason : Nat) (s t : State) : Prop :=
  (epOf p step attempt s).cause = none → (epOf p step attempt t).cause = some (reason, myDevice p s)

/-- The mill reaches `n` bytes at an address of its partition: in tier 1 none of them poisoned, or in a slice or larder. -/
def MlAt (p base off n : Nat) (s : State) : Prop :=
  (spaceOf base = 0 ∧ addrOf base + off + n ≤ 2 ^ 40 ∧ reach0 p (addrOf base + off) n s = true ∧
    poison0 p (addrOf base + off) n s = false) ∨
  (spaceOf base = 3 ∧ (place3 p none (addrOf base + off) n s).isSome = true)

/-- The bytes of the device are those of another state. -/
def BytesOf (u t : State) : Prop := ∀ q, q < plHost 0 → rd q t = rd q u

/-- The bytes of a bucket's output: a dense output, or a reduced slot with its largest number of entries (13 R435, R436). -/
def outBytes (g : Plan) : Nat := if g.dense then 16384 else 32 + 6 * g.cap

/-- An epoch that the device may still vote on. -/
def Open (p step attempt : Nat) (s : State) : Prop :=
  jobEnabled p s = true ∧ isRoot p s = false ∧ (verdictHeld p step attempt s).isNone = true ∧
  ((jobOf p s).step < step ∨ ((jobOf p s).step = step ∧ (jobOf p s).attempt ≤ attempt))

end Sys2Proof.Claims

/-- MALFORMED_PACKET: the packet is discarded and counted, and the vote for its epoch becomes repeat (13 R425). CONTRIB: a
contribution that its slot keeps is counted, an equal one counts as a duplicate and an unlike one as a mismatch that repeats
the step; of an earlier epoch it counts as stale (13 R445 to R447). CONTRIB_ACK: the oldest contribution that it names is
acknowledged (13 R442). -/
def Sys2Proof.Claims.ContributionsArrive : Prop :=
  (∀ (s : State) (p : Nat) (k : Packet) (s' : State), takeInbox (fun x => !deliverable x.part x.bytes s) s = some (p, k, s') →
    ∃ t, exec .malformedPacket s = .next t ∧ Counts bMill F.ML_MALFORMED 1 s t ∧
      (jobEnabled p s = false → t.mill = s'.mill ∧ t.crofts = s.crofts ∧ SameDeviceBytes s t) ∧
      (1 ≤ pkKind k → pkKind k ≤ 7 →
        let st := nearestStep (jobOf p s).step (pkEpoch k / 256)
        p < 8 → Open p st (pkEpoch k % 256) s → CauseOf p st (pkEpoch k % 256) 0x02 s t)) ∧
  (∀ (s : State) (p : Nat) (k : Packet) (s' : State), NextPacket 1 false s p k s' →
    (∀ st a g, classify p (pkEpoch k) s' = .ok st a → contribPlan p k st s' = some g →
      let check := bit 13 (pkArg1 k)
      let rank := pkArg1 k % 2 ^ 13
      let slot := g.slotAt check (pkArg0 k) rank
      let r := storeContrib p g check (pkArg0 k) rank st a (parseData g.dense (bits 16 13 (pkArg1 k)) (pkData k)) s'
      (∀ h old, MlAt p g.arrive (g.recAt false (pkArg0 k)) 32 s → MlAt p slot.1 slot.2 g.slotSize s →
        readHalf p g false (if check then 16 else 0) (pkArg0 k) st a s = some h → mlRead p slot.1 slot.2 32 s = some old →
        ¬(0 < h.count ∧ leAt old 4 1 = a % 256 ∧ leAt old 6 2 = rank ∧ leAt old 8 8 = st) → h.count + 1 ≠ g.size →
        Undecided p s →
        ∃ t u, r = .kept (h.count + 1) u ∧ exec .contrib s = .next t ∧ Counts bMill F.ML_CONTRIBS_RECEIVED 1 s t ∧
          BytesOf u t ∧ t.crofts = s.crofts) ∧
      (∀ c u, r = .kept c u → c ≠ g.size → Undecided p s →
        ∃ t, exec .contrib s = .next t ∧ Counts bMill F.ML_CONTRIBS_RECEIVED 1 s t ∧ BytesOf u t ∧ t.crofts = s.crofts) ∧
      (r = .duplicate → Undecided p s →
        ∃ t, exec .contrib s = .next t ∧ Counts bMill F.ML_DUPLICATES 1 s t ∧ SameDeviceBytes s t ∧ t.crofts = s.crofts) ∧
      (r = .differs → Open p st a s →
        ∃ t, exec .contrib s = .next t ∧ Counts bMill F.ML_MISMATCHES 1 s t ∧ CauseOf p st a 0x03 s t ∧ SameDeviceBytes s t)) ∧
    (∀ st a, classify p (pkEpoch k) s' = .stale st a → Undecided p s →
      ∃ t, exec .contrib s = .next t ∧ Counts bMill F.ML_STALE 1 s t ∧ SameBytes s t ∧ t.crofts = s.crofts)) ∧
  (∀ (s : State) (p : Nat) (k : Packet) (s' : State), NextPacket 2 false s p k s' →
    ∀ st a l x r, classify p (pkEpoch k) s' = .ok st a → Undecided p s → (jobOf p s).pend = l ++ x :: r →
      let same (y : Pend) : Bool :=
        y.step == st && y.attempt == a && y.bucket == pkArg0 k && y.check == bit 13 (pkArg1 k) && y.dst == pkSrc k
      same x = true → (∀ y ∈ l, same y = false) →
      ∃ t, exec .contribAck s = .next t ∧ (jobOf p t).pend = l ++ r ∧ t.regs = s.regs ∧ SameBytes s t ∧ t.crofts = s.crofts)

/-- CONTRIB_ACK_TIMEOUT: the oldest contribution unacknowledged for ACK_TIMEOUT_US goes once more, preferring the other route; a second
time its task faults with LINK_LOST (13 R442). PEER_ACCESS_TIMEOUT: the access counts as lost and its task faults (13 R431). -/
def Sys2Proof.Claims.ExchangeTimeouts : Prop :=
  ∀ (p : PartId) (s : State),
    (∀ x, (jobOf p.val s).pend.find? (fun y => decide (y.sent + jobUs F.ML_JOB_ACK_TIMEOUT_US p.val s ≤ s.time)) = some x →
      (x.resent = false → Routed p.val x.dst s →
        ∃ t w u, sendPacket p.val 1 x.dst (epochOf x.step x.attempt) x.bucket (x.arg1 + 2 ^ 14) (x.bucket % 2 ^ 16)
            x.body (!x.routeB) (some (x.croft, x.uid)) s = (w, u) ∧ w ≠ .no ∧
          exec (.contribAckTimeout p) s = .next t ∧ Counts bMill F.ML_RESENT 1 s t ∧ t.mill.wire = u.mill.wire ∧
          t.mill.inbox = u.mill.inbox ∧ (∃ y ∈ (jobOf p.val t).pend, y.resent = true ∧ y.sent = s.time ∧ y.bucket = x.bucket ∧
            y.dst = x.dst ∧ y.uid = x.uid) ∧ t.crofts = s.crofts ∧ SameBytes s t) ∧
      (x.resent = true ∨ ¬Routed p.val x.dst s → (∃ k, findTask x.croft x.uid s = some k) →
        ∃ t, exec (.contribAckTimeout p) s = .next t ∧ Faulted x.croft x.uid 0x0C 0 t ∧
          ∀ y ∈ (jobOf p.val t).pend, ¬ (y.croft = x.croft ∧ y.uid = x.uid))) ∧
    (∀ x, (jobOf p.val s).accs.find? (fun y => decide (y.sent + jobUs F.ML_JOB_ACK_TIMEOUT_US p.val s ≤ s.time)) = some x →
      (∃ k, findTask x.croft x.uid s = some k) →
      ∃ t, exec (.peerAccessTimeout p) s = .next t ∧ Counts bMill F.ML_LOST_PACKETS 1 s t ∧ Faulted x.croft x.uid 0x0C 0 t ∧
        (∀ y ∈ (jobOf p.val t).accs, ¬ (y.croft = x.croft ∧ y.uid = x.uid)) ∧
        (timed p.val s = true → (partOf p.val s).run.isSome = true → (partOf p.val t).repeatDue.isSome = true))

/-- Contributions, their acknowledgements and the timeouts of the exchange. -/
def Obligations.Exchange : Prop := Claims.ContributionsArrive ∧ Claims.ExchangeTimeouts

/-- REDUCED: a returned bucket goes into the member's output once; an equal one again counts as a duplicate (13 R450). DIGEST: kept
until the owner's bucket is formed; then an equal digest counts as checked, an unlike one as a mismatch that repeats the
step (13 R451). -/
def Obligations.ReturnsAndDigests : Prop :=
  (∀ (s : State) (p : Nat) (k : Packet) (s' : State), NextPacket 3 false s p k s' → Undecided p s →
    ∀ st a g h, classify p (pkEpoch k) s' = .ok st a → planFor p (pkArg0 k) s' = some g →
      let count := bits 16 13 (pkArg1 k)
      let es := parseData (bit 15 (pkArg1 k)) count (pkData k)
      g.ret = true → g.owner (pkArg0 k) ≠ g.rank → pkSrc k = g.device (g.owner (pkArg0 k)) → bit 15 (pkArg1 k) = g.dense →
      g.dense = true ∨ count ≤ g.cap → (pkData k).length = dataLength g.dense count → ascending (es.map Prod.fst) = true →
      MlAt p g.arrive (g.recAt true (pkArg0 k)) 32 s → readHalf p g true 0 (pkArg0 k) st a s' = some h →
      (h.reduced = false → MlAt p (g.outAt (pkArg0 k) st).1 (g.outAt (pkArg0 k) st).2 (outBytes g) s →
        ∃ t u v, writeReduced p g (pkArg0 k) st a es s' = some u ∧
          writeHalf p g true 0 (pkArg0 k) st a { h with reduced := true }
            (if g.dense then some (digestOf true es) else none) u = some v ∧
          exec .reduced s = .next t ∧ (∀ q, rd q t = rd q v) ∧ t.crofts = s.crofts) ∧
      (h.reduced = true → g.dense = true →
        ∀ l, mlRead p g.arrive (g.recAt true (pkArg0 k)) 32 s' = some l → leAt l 12 4 = digestOf true es →
        ∃ t, exec .reduced s = .next t ∧ Counts bMill F.ML_DUPLICATES 1 s t ∧ SameBytes s t ∧ t.crofts = s.crofts)) ∧
  (∀ (s : State) (p : Nat) (k : Packet) (s' : State), NextPacket 4 false s p k s' →
    ∀ st a g h, classify p (pkEpoch k) s' = .ok st a → planFor p (pkArg0 k) s' = some g →
      g.sampled (pkArg0 k) st = true → g.owner (pkArg0 k) = g.rank → (pkData k).length = 4 →
      MlAt p g.arrive (g.recAt false (pkArg0 k)) 32 s → readHalf p g false 0 (pkArg0 k) st a s' = some h → h.digestOk = false →
      (h.reduced = false → Undecided p s →
        ∃ t d, exec .digest s = .next t ∧ d ∈ (jobOf p t).digests ∧ d.bucket = pkArg0 k ∧ d.step = st ∧ d.attempt = a ∧
          d.digest = leAt (pkData k) 0 4 ∧ d.count = bits 16 13 (pkArg1 k) ∧ t.regs = s.regs ∧ SameBytes s t) ∧
      (∀ own, h.reduced = true → ownDigest p g (pkArg0 k) st s' = some own →
        (own ≠ (leAt (pkData k) 0 4, bits 16 13 (pkArg1 k)) → Open p st a s →
          ∃ t, exec .digest s = .next t ∧ Counts bMill F.ML_MISMATCHES 1 s t ∧ CauseOf p st a 0x04 s t ∧ SameDeviceBytes s t) ∧
        (own = (leAt (pkData k) 0 4, bits 16 13 (pkArg1 k)) → Undecided p s →
          g.dense = true ∨ MlAt p (g.outAt (pkArg0 k) st).1 (g.outAt (pkArg0 k) st).2 32 s →
          ∃ t u, writeHalf p g false 0 (pkArg0 k) st a { h with digestOk := true } none s' = some u ∧
            exec .digest s = .next t ∧ Counts bMill F.ML_CHECKED 1 s t ∧ (g.dense = true → ∀ q, rd q t = rd q u))))

/-! ### Votes and verdicts -/

/-- VOTE: a child's ready vote is kept once (13 R452). VOTE_READY_SEND: the device votes ready when it and its children are, and the root
commits, moving to the next step (13 R453, R454). VERDICT: a device takes it once, shows and counts it, and moves to the
epoch that follows, and the step in progress repeats or ends with it (13 R446, R455; 12 R403). QUERY is answered with the verdict held (13 R456). -/
def Sys2Proof.Claims.VotesAndVerdicts : Prop :=
  (∀ (s : State) (p : Nat) (k : Packet) (s' : State), NextPacket 5 false s p k s' → Undecided p s →
    ∀ st a, classify p (pkEpoch k) s' = .ok st a → (verdictHeld p st a s).isNone = true → pkSrc k ∈ kidsOf p s → pkArg0 k % 4 = 1 →
      ∃ t, exec .vote s = .next t ∧ (∃ n, (pkSrc k, n) ∈ (epOf p st a t).kids) ∧
        ((∀ e ∈ (epOf p st a s).kids, e.1 ≠ pkSrc k) → (pkSrc k, 1) ∈ (epOf p st a t).kids) ∧ t.regs = s.regs ∧ SameBytes s t) ∧
  (∀ (p : PartId) (s : State),
    let j := jobOf p.val s
    let e := epOf p.val j.step j.attempt s
    jobEnabled p.val s = true → e.voted = 0 → e.cause = none → e.ready = true →
    (verdictHeld p.val j.step j.attempt s).isNone = true → localReady p.val j.step j.attempt s = true →
    kidsReady p.val j.step j.attempt s = true →
    (isRoot p.val s = false → ∃ t, exec (.voteReadySend p) s = .next t ∧ (epOf p.val j.step j.attempt t).voted = 1 ∧
      (epOf p.val j.step j.attempt t).votedAt = s.time ∧ SameDeviceBytes s t ∧ t.crofts = s.crofts) ∧
    (isRoot p.val s = true → (epOf p.val (j.step + 1) 0 s).cause = none →
      ∃ t, exec (.voteReadySend p) s = .next t ∧ mlF F.ML_JOB_LAST_VERDICT p.val t = 1 ∧
        Counts bMill F.ML_VERDICTS_COMMIT 1 s t ∧ (jobOf p.val t).step = j.step + 1 ∧ (jobOf p.val t).attempt = 0 ∧
        ∀ r, (partOf p.val s).run = some r → r.step = j.step → r.attempt ≤ j.attempt →
          lastCommitted p.val t = r.step % 2 ^ 64 ∧ (partOf p.val t).run = none)) ∧
  (∀ (s : State) (p : Nat) (k : Packet) (s' : State), NextPacket 6 false s p k s' → isRoot p s = false → p < 8 →
    ∀ st a, classify p (pkEpoch k) s' = .ok st a → (verdictHeld p st a s).isNone = true → pkArg0 k % 4 ≠ 0 →
      ∃ t, exec .verdict s = .next t ∧ mlF F.ML_JOB_LAST_VERDICT p t = pkArg0 k % 4 ∧
        mlF F.ML_JOB_LAST_REASON p t = bits 8 8 (pkArg0 k) ∧
        ((jobOf p t).step, (jobOf p t).attempt) =
          (if pkArg0 k % 4 = 1 then (st + 1, 0) else if pkArg0 k % 4 = 2 then (st, a + 1) else (st, a)) ∧
        (pkArg0 k % 4 = 3 → (partOf p t).stopCommits = true ∧ ∀ r, (partOf p s).run = some r → r.step = st → r.attempt ≤ a →
          (partOf p t).run = none) ∧
        (∀ r, pkArg0 k % 4 = 2 → (partOf p s).run = some r → r.step = st → r.attempt ≤ a → usesLost p r.tasks s = false →
          ∃ q, (partOf p t).run = some q ∧ q.step = st ∧ q.attempt = a + 1 ∧ q.reissue = true)) ∧
  (∀ (s : State) (p : Nat) (k : Packet) (s' : State), NextPacket 7 false s p k s' → Undecided p s →
    ∀ st a v, classify p (pkEpoch k) s' = .ok st a → verdictHeld p st a s = some v →
      ∃ t b w u, exec .query s = .next t ∧
        sendPacket p 6 (pkSrc k) (epochOf v.step v.attempt) v.arg0 (v.device % 2 ^ 13) 0 (bytesOf 8 v.step) b none s' = (w, u) ∧
        (Routed p (pkSrc k) s → w ≠ .no) ∧
        t.mill.wire = u.mill.wire ∧ t.mill.inbox = u.mill.inbox ∧ SameDeviceBytes s t ∧ t.crofts = s.crofts)

/-- ROOT_VERDICT_TIMEOUT: the root repeats the step, or stops at REPEAT_LIMIT, for missing votes (13 R454). VERDICT_WAIT_TIMEOUT asks again
and VERDICT_LOST stops the partition's commits (13 R456). -/
def Sys2Proof.Claims.VerdictTimeouts : Prop :=
  ∀ (p : PartId) (s : State),
    let j := jobOf p.val s
    (∀ x, (epOf p.val j.step j.attempt s).rootAt = some x → jobEnabled p.val s = true → isRoot p.val s = true →
      x + jobUs F.ML_JOB_VERDICT_WAIT_US p.val s ≤ s.time → kidsReady p.val j.step j.attempt s = false →
      (verdictHeld p.val j.step j.attempt s).isNone = true → (epOf p.val j.step (j.attempt + 1) s).cause = none →
      ∃ t, exec (.rootVerdictTimeout p) s = .next t ∧ mlF F.ML_JOB_LAST_REASON p.val t = 0x07 ∧
        mlF F.ML_JOB_LAST_VERDICT p.val t = (if j.attempt + 1 < mlF F.ML_JOB_REPEAT_LIMIT p.val s then 2 else 3) ∧
        (j.attempt + 1 < mlF F.ML_JOB_REPEAT_LIMIT p.val s →
          (jobOf p.val t).step = j.step ∧ (jobOf p.val t).attempt = j.attempt + 1)) ∧
    (∀ e, j.eps.find? (fun e => decide (e.again < 2) && waited p.val (e.again + 1) s e) = some e →
      epOf p.val e.step e.attempt s = e →
      ∃ t, exec (.verdictWaitTimeout p) s = .next t ∧ epOf p.val e.step e.attempt t = { e with again := e.again + 1 } ∧
        t.crofts = s.crofts ∧ SameDeviceBytes s t) ∧
    (∀ e, j.eps.find? (fun e => !e.lost && waited p.val 0 s e &&
        decide (e.votedAt + jobUs F.ML_JOB_VERDICT_LOST_US p.val s ≤ s.time)) = some e → epOf p.val e.step e.attempt s = e →
      ∃ t, exec (.verdictLost p) s = .next t ∧ (epOf p.val e.step e.attempt t).lost = true ∧
        (partOf p.val t).stopCommits = true ∧ t.crofts = s.crofts ∧ SameDeviceBytes s t)

/-- Votes, verdicts, queries and the timeouts of a verdict. -/
def Obligations.Votes : Prop := Claims.VotesAndVerdicts ∧ Claims.VerdictTimeouts

/-! ### Peer memory -/

/-- MWRITE, FOLD_WRITE and MREAD: a peer's access within the window of an enabled direction writes, folds or reads the tier-1 bytes it
names and no other, and one outside is answered with an error and changes no byte (13 R429 to R431, 14 R472). MWRITE_ACK and
MREAD_DATA: the access that is answered is over and its piece served; an error faults its task (13 R430, R431). -/
def Obligations.PeerMemory : Prop :=
  (∀ (fold : Bool) (s : State) (p : Nat) (k : Packet) (s' : State), NextPacket 8 fold s p k s' →
    (∀ a, windowAddr p (pkOffset k) (pkData k).length true s = some a → a + (pkData k).length ≤ 2 ^ 40 →
      reach0 p a (pkData k).length s = true → poison0 p a (pkData k).length s = false →
      partialPoison p a (pkData k).length s = false →
      ∃ t, exec (if fold then .foldWrite else .mwrite) s = .next t ∧
        (∀ i < (pkData k).length, rd (plTier1 (a + i)) t = if fold then (pkData k).getD i 0 ^^^ rd (plTier1 (a + i)) s
          else (pkData k).getD i 0) ∧
        (∀ q, q < plHost 0 → (∀ i < (pkData k).length, q ≠ plTier1 (a + i)) → rd q t = rd q s) ∧ t.crofts = s.crofts) ∧
    (windowAddr p (pkOffset k) (pkData k).length true s = none →
      ∃ t, exec (if fold then .foldWrite else .mwrite) s = .next t ∧ SameDeviceBytes s t ∧ t.crofts = s.crofts)) ∧
  (∀ (s : State) (p : Nat) (k : Packet) (s' : State), NextPacket 10 false s p k s' → (pkData k).length = 4 →
    let n := leAt (pkData k) 0 4
    ∀ a, windowAddr p (pkOffset k) n false s = some a → a + n ≤ 2 ^ 40 → reach0 p a n s = true → poison0 p a n s = false →
      ∃ t w u, exec .mread s = .next t ∧
        sendPacket p 11 (pkSrc k) 0 (pkArg0 k) (pkArg1 k % 2 ^ 31) (pkStream k) (load0 p a n s) false none s' = (w, u) ∧
        (Routed p (pkSrc k) s → w ≠ .no) ∧ t.mill.wire = u.mill.wire ∧ t.mill.inbox = u.mill.inbox ∧
        SameDeviceBytes s t ∧ t.crofts = s.crofts) ∧
  (∀ (s : State) (p : Nat) (k : Packet) (s' : State) (x : PeerAcc),
    (NextPacket 9 false s p k s' → accOf p 8 k s' = some x →
      (pkError k = false → ∃ t, exec .mwriteAck s = .next t ∧ (jobOf p t).accs = removeFirst (fun y => y == x) (jobOf p s).accs ∧
        (∀ q ∈ (croftOf x.croft t).pieces, q.id = x.piece → q.served = true) ∧ SameBytes s t ∧ OtherCrofts x.croft s t ∧
        t.regs = s.regs) ∧
      (pkError k = true → (∃ j, findTask x.croft x.uid s = some j) →
        ∃ t, exec .mwriteAck s = .next t ∧ Faulted x.croft x.uid 0x09 0 t)) ∧
    (NextPacket 11 false s p k s' → accOf p 10 k s' = some x →
      (pkError k = false → (pkData k).length = x.len →
        ∃ t, exec .mreadData s = .next t ∧ (jobOf p t).accs = removeFirst (fun y => y == x) (jobOf p s).accs ∧
          (∀ q ∈ (croftOf x.croft t).pieces, q.id = x.piece → q.served = true) ∧ SameBytes s t ∧ OtherCrofts x.croft s t ∧
          t.regs = s.regs) ∧
      (pkError k = true → (∃ j, findTask x.croft x.uid s = some j) →
        ∃ t, exec .mreadData s = .next t ∧ Faulted x.croft x.uid 0x09 0 t)))

/-! ### Rings of the host interface -/

namespace Sys2Proof.Claims

/-- The device answers the host and the function exists. -/
def Answers (fn : FnId) (s : State) : Prop := hostLive s = true ∧ functionExists fn.val s = true

/-- The memory controllers and slices are as before but for the requests of the host interface's accesses (10 R327, R330). -/
def OnlyRequests (s t : State) : Prop :=
  t.memsys = { s.memsys with queues := t.memsys.queues, slices := t.memsys.slices, waiting := t.memsys.waiting }

/-- Only the host interface, the registers, the translations kept and the requests for them have changed. -/
def HostSide (s t : State) : Prop :=
  t.crofts = s.crofts ∧ t.tally = s.tally ∧ OnlyRequests s t ∧ t.mill = s.mill ∧ t.power = s.power ∧ SameDeviceBytes s t

end Sys2Proof.Claims

/-- EV_ENABLE and the ENABLE of a command ring: an event ring switched on begins anew without an error, a command ring switched on has
none, and one switched off has no unfetched record (16 R535, R547, R569). CR_TAIL and EV_HEAD: a value beyond the ring
is discarded and reported; otherwise the tail is taken, and the slots before the head are free (16 R544). -/
def Sys2Proof.Claims.RingControl : Prop :=
  ∀ (fn : FnId) (s : State),
    let b := bFunction fn.val
    (∀ who, ownFn fn who → Reaches who b s → Unlocked who b s →
      (keysMissing b s = false → flag b F.FP_EV_ENABLE s = false →
        ∃ t, exec (.evEnableWrite who fn true) s = .next t ∧ FieldsAre b [(F.FP_EV_ENABLE, 1), (F.FP_EV_ERR, 0)] s t ∧
          ringOf fn.val t = { EvRing.reset with sealed := (ringOf fn.val s).sealed } ∧ HostSide s t) ∧
      (inflight fn.val s = 0 →
        ∃ t, exec (.evEnableWrite who fn false) s = .next t ∧ FieldsAre b [(F.FP_EV_ENABLE, 0)] s t ∧ t = { s with regs := t.regs }) ∧
      (∀ r : RingId, keysMissing b s = false → flag b (F.FP_ENABLE.at r.val) s = false →
        ∃ t, exec (.ringEnableWrite who fn r true) s = .next t ∧
          FieldsAre b [(F.FP_ENABLE.at r.val, 1), (F.FP_ERR.at r.val, 0)] s t ∧ t = { s with regs := t.regs }) ∧
      (∀ r : RingId, flag b (F.FP_ENABLE.at r.val) s = true →
        ∃ t, exec (.ringEnableWrite who fn r false) s = .next t ∧ getF b (F.FP_ENABLE.at r.val) t = 0 ∧
          getF b (F.FP_CR_HEAD.at r.val) t = tailOf fn.val r.val s % 2 ^ F.FP_CR_HEAD.width ∧ t = { s with regs := t.regs })) ∧
    (Answers fn s → ∀ (r : RingId) (v : BitVec 32),
      (2 ^ getF b (F.FP_LOG2.at r.val) s ≤ v.toNat % 2 ^ 16 →
        ∃ t, exec (.crTailWrite fn r v) s = .next t ∧ tailOf fn.val r.val t = tailOf fn.val r.val s ∧
          Counts bDevice F.DEV_WRITES_DISCARDED 1 s t ∧ HostSide s t) ∧
      (v.toNat % 2 ^ 16 < 2 ^ getF b (F.FP_LOG2.at r.val) s →
        ∃ t, exec (.crTailWrite fn r v) s = .next t ∧ tailOf fn.val r.val t = v.toNat % 2 ^ 16 ∧ HostSide s t)) ∧
    (Answers fn s → ∀ v : BitVec 32,
      let h := v.toNat % 2 ^ 16
      let freed := (h + evSlots fn.val s - (ringOf fn.val s).head) % evSlots fn.val s
      (h < evSlots fn.val s → freed ≤ (ringOf fn.val s).used → (ringOf fn.val s).held = [] →
        ∃ t, exec (.evHeadWrite fn v) s = .next t ∧
          ringOf fn.val t = { ringOf fn.val s with head := h, used := (ringOf fn.val s).used - freed } ∧
          t = { s with host := { s.host with rings := t.host.rings } }) ∧
      (evSlots fn.val s ≤ h ∨ (ringOf fn.val s).used < freed →
        ∃ t, exec (.evHeadWrite fn v) s = .next t ∧ Counts bDevice F.DEV_WRITES_DISCARDED 1 s t ∧ HostSide s t))

/-- CMD_FETCH takes a record of the next ring in turn that may fetch, or stops the ring when the record cannot be read (16 R536, R553; that
the host bus fails the read is an operand, and counts as a host read error: log entry 66). COMMAND_COMPLETE writes the record of the oldest
ended command, the one of a QUIESCE after those that it aborted; the command then is no longer in flight, and a new BB_GEN or in-flight
limit holds from then on (16 R538, R542, R545, R558, R567). MSIX_DELAY_EXPIRE: the message that has waited DELAY_US goes out, or its masked
vector is pending (16 R549; what PCI itself defines of MSI-X: log entry 65). -/
def Sys2Proof.Claims.RingService : Prop :=
  ∀ (fn : FnId) (s : State),
    (∀ r : RingId, Answers fn s → mayFetch fn.val r.val s = true →
      (∀ q : RingId, q ≠ r → mayFetch fn.val q.val s = false) →
      let s0 := { s with host := { s.host with lastRing := mapPut (fun _ => 13) fn.val r.val s.host.lastRing } }
      let slot := getF (bFunction fn.val) (F.FP_CR_HEAD.at r.val) s
      (∀ d u, readRecord fn.val r.val slot s0 = (some d, u) →
        ∃ t c, exec (.cmdFetch ⟨fn, false⟩) s = .next t ∧ c ∈ t.host.cmds ∧ c.words = d ∧ c.uid = s.host.nextUid ∧ c.fn = fn.val ∧
          c.ring = r.val ∧ c.slot = slot ∧ c.status = fetchStatus fn.val d u ∧
          (c.phase = .fetched ↔ fetchStatus fn.val d u = 0) ∧ HostSide s t) ∧
      (let va := fnBase fn.val (F.FP_CR_BASE_LO.at r.val) (F.FP_CR_BASE_HI.at r.val) s + 64 * slot
       (fn.val = 0 → s.power.e0Lost = false → ∃ t c, exec (.cmdFetch ⟨fn, false⟩) s = .next t ∧ c ∈ t.host.cmds ∧
          c.uid = s.host.nextUid ∧ c.words = BitVec.ofNat 512 (natOf (rdN (plHost va) 64 s)) ∧ HostSide s t) ∧
       (∀ h bb u, 0 < fn.val → confidential (fn.val - 1) s = false → va % 2 ^ 21 + 64 ≤ 2 ^ 21 →
          hostXlate (fn.val - 1) va false s = some (h, bb, u) → ∃ t c, exec (.cmdFetch ⟨fn, false⟩) s = .next t ∧ c ∈ t.host.cmds ∧
          c.uid = s.host.nextUid ∧ c.words = BitVec.ofNat 512 (natOf (rdN (plHost h) 64 s)) ∧ HostSide s t)) ∧
      (∀ u, readRecord fn.val r.val slot s0 = (none, u) →
        ∃ t, exec (.cmdFetch ⟨fn, false⟩) s = .next t ∧ getF (bFunction fn.val) (F.FP_ERR.at r.val) t = 1 ∧
          t.host.cmds = s.host.cmds ∧ HostSide s t) ∧
      (∃ t, exec (.cmdFetch ⟨fn, true⟩) s = .next t ∧ getF (bFunction fn.val) (F.FP_ERR.at r.val) t = 1 ∧
        t.host.cmds = s.host.cmds ∧ Counts (bFunction fn.val) F.FP_HOST_ERRORS 1 s t ∧ HostSide s t)) ∧
    (∀ c, nextRecord fn.val s = some c → hostLive s = true → evLive fn.val s = true →
      (c.fn ≠ 0 → cOp c.words = 0x05 → c.status = 0 →
        ∀ k ∈ s.host.cmds, k.fn = c.fn → k.phase = .done → k.status = 0x07 → k.lost = true) ∧
      (∀ u, putRecord fn.val (completionOf c s) s = some u →
        ∃ t, exec (.commandComplete fn) s = .next t ∧ t.host.cmds = s.host.cmds.filter (fun k => k.uid != c.uid) ∧
          Counts (bFunction fn.val) F.FP_CMDS_DONE 1 s t ∧
          (∀ q, (partOf q t).bbGen =
            if c.status = 0 ∧ c.fn = q + 1 ∧ cOp c.words = 0x08 then dF 8 8 c.words else (partOf q s).bbGen) ∧
          (∀ q < 8, getF (bFunction (q + 1)) F.FP_INFLIGHT t =
            if c.status = 0 ∧ c.fn = 0 ∧ cOp c.words = 0x13 ∧ dF 8 1 c.words = q ∧ assembled q s = true
            then dF 0x0A 2 c.words % 2 ^ 10 else getF (bFunction (q + 1)) F.FP_INFLIGHT s) ∧ HostSide s t) ∧
      (fn.val = 0 → s.power.e0Lost = false → ∃ t, exec (.commandComplete fn) s = .next t ∧
        t.host.cmds = s.host.cmds.filter (fun k => k.uid != c.uid) ∧
        rdN (plHost (getPair (bFunction 0) F.FP_EV_BASE_LO F.FP_EV_BASE_HI s + 32 * (ringOf 0 s).tail)) 32 t =
          evBytes (completionOf c s) (ringOf 0 s).seq (ringOf 0 s).phase (ringOf 0 s).gap) ∧
      (let va := fnBase fn.val F.FP_EV_BASE_LO F.FP_EV_BASE_HI s + 32 * (ringOf fn.val s).tail
       ∀ h bb u, 0 < fn.val → confidential (fn.val - 1) s = false → va % 2 ^ 21 + 32 ≤ 2 ^ 21 →
         hostXlate (fn.val - 1) va true s = some (h, bb, u) → ∃ t, exec (.commandComplete fn) s = .next t ∧
         t.host.cmds = s.host.cmds.filter (fun k => k.uid != c.uid) ∧
         rdN (plHost h) 32 t =
           evBytes (completionOf c s) (ringOf fn.val s).seq (ringOf fn.val s).phase (ringOf fn.val s).gap)) ∧
    (∀ (vec : Fin 16) (n x : Nat), mapGet (fun _ => none) s.host.msixPend (fn.val * 16 + vec.val) = some (n, x) →
      x + 1000 * getF (bFunction fn.val) F.FP_DELAY_US s ≤ s.time →
      let m := msixOf fn.val s
      ∃ t, exec (.msixDelayExpire fn vec) s = .next t ∧ mapGet (fun _ => none) t.host.msixPend (fn.val * 16 + vec.val) = none ∧
        (m.on = true → m.holds vec.val = false → t.host.out = s.host.out ++ [.msix fn.val vec.val] ∧ msixOf fn.val t = m) ∧
        (m.on = true → m.holds vec.val = true → vec.val ∈ (msixOf fn.val t).waiting ∧ t.host.out = s.host.out) ∧
        (m.on = false → t.host.out = s.host.out ∧ msixOf fn.val t = m) ∧
        t = { s with host := { s.host with out := t.host.out, msixPend := t.host.msixPend, msix := t.host.msix } })

/-- The rings of a function: what the host writes and what the device serves. -/
def Obligations.Rings : Prop := Claims.RingControl ∧ Claims.RingService

/-! ### Commands of the host -/

namespace Sys2Proof.Claims

/-- The command has ended with a status and a result, and every other one is as before. -/
def Ends (c : Cmd) (status result : Nat) (s t : State) : Prop :=
  t.host.cmds = s.host.cmds.map fun k =>
    if k.uid = c.uid ∧ k.phase ≠ .done then { k with phase := .done, status := status, result := result } else k

/-- The command is the next to start of its ring under its opcode, on a VF whose partition is assembled and not wedged. -/
def Starts (fn : FnId) (r : RingId) (op : Nat) (c : Cmd) (s : State) : Prop :=
  nextCmd fn.val r.val op s = some c ∧ fn.val ≠ 0 ∧ flag (bFunction fn.val) F.FP_WEDGED s = false ∧
  assembled (fn.val - 1) s = true

/-- An operand of `n` bytes lies in tier-1 memory that the command's partition reaches, where it holds `l` (16 R537). -/
def Operand (c : Cmd) (enc n : Nat) (l : List Byte) (s : State) : Prop :=
  c.fn ≠ 0 ∧ spaceOf enc = 0 ∧ reach0 (c.fn - 1) (addrOf enc) n s = true ∧ l = load0 (c.fn - 1) (addrOf enc) n s

/-- A VF's command other than QUIESCE clears QUIESCED as it starts (16 R558). -/
def unquiesced (fn : FnId) (s : State) : State := setF (bFunction fn.val) F.FP_QUIESCED 0 s

/-- The STEP has been accepted: it is the step in progress with its tasks behind the release order, and its expects are on their way;
STEP_NOW of every croft and ACTIVE_PLANS take its operands at once when no expect is out, else with the last acknowledgement (16 R540). -/
def Accepted (p : Nat) (c : Cmd) (l : List Byte) (es : List (Nat × Nat)) (s t : State) : Prop :=
  ∃ r, (partOf p t).run = some r ∧ r.step = dF 0x20 8 c.words ∧ r.cmd = c.uid ∧ r.expects = es ∧ r.reissue = false ∧
    (partOf p t).rel = (partOf p s).rel ++ r.tasks ∧ r.tasks.map (fun e => e.desc) = descsOf (dF 0x10 4 c.words) l ∧
    (∀ e ∈ es, ⟨p, e.1, .expect e.2 (epochOf r.step r.attempt), .control⟩ ∈ t.tally.ops) ∧
    (expectsOpen p t = false → StepOpened p r.step (dF 0x28 8 c.words) s t) ∧
    (expectsOpen p t = true → r.plans = some (dF 0x28 8 c.words) ∧
      ∀ k ∈ croftsOf p s, getPair (bCroft k) F.STEP_NOW_LO F.STEP_NOW_HI t = getPair (bCroft k) F.STEP_NOW_LO F.STEP_NOW_HI s) ∧
    t.crofts = s.crofts

/-- A STEP whose turn it is is accepted when it follows LAST_COMMITTED, commits are not stopped, its lists can be read, its expects are
mapped and its tasks name no lost croft; the wrong step ends with its status (16 R540). -/
def StepChecked (p : Nat) (crofts : List Nat) (c : Cmd) (i : Instr) (s0 s : State) : Prop :=
  let n := dF 0x10 4 c.words
  let ne := dF 0x14 4 c.words
  (dF 0x20 8 c.words ≠ lastCommitted p s + 1 → ∃ t, exec i s0 = .next t ∧ Ends c 0x09 0 s t ∧ t = { s with host := t.host }) ∧
  (dF 0x20 8 c.words = lastCommitted p s + 1 → (partOf p s).stopCommits = true →
    ∃ t, exec i s0 = .next t ∧ Ends c 0x0A 0 s t ∧ t = { s with host := t.host }) ∧
  (∀ el u l v, dF 0x20 8 c.words = lastCommitted p s + 1 → (partOf p s).stopCommits = false →
    cmdRead c (dF 0x18 8 c.words) (8 * ne) s = (.ok el, u) → badExpect p u 0 (expectsOf ne el) = none →
    cmdRead c (dF 8 8 c.words) (64 * n) u = (.ok l, v) → usesLost p (relsOf p c.uid crofts (descsOf n l) v) v = false →
    ∃ t, exec i s0 = .next t ∧ Accepted p c l ((expectsOf ne el).map fun e => (e.1, e.2.1)) v t) ∧
  (∀ el l, dF 0x20 8 c.words = lastCommitted p s + 1 → (partOf p s).stopCommits = false →
    Operand c (dF 0x18 8 c.words) (8 * ne) el s → badExpect p s 0 (expectsOf ne el) = none →
    Operand c (dF 8 8 c.words) (64 * n) l s → usesLost p (relsOf p c.uid crofts (descsOf n l) s) s = false →
    ∃ t, exec i s0 = .next t ∧ Accepted p c l ((expectsOf ne el).map fun e => (e.1, e.2.1)) s t)

end Sys2Proof.Claims

/-- STEP and STEP_WAIT_ACCEPT: outside timed service the command ends with MODE, while a step is undecided it waits, and otherwise
it is checked and accepted (16 R540, R543). RUN_LIST puts its tasks behind the release order; an unreadable list ends it
(16 R538). -/
def Obligations.StepsAndLists : Prop :=
  (∀ (fn : FnId) (r : RingId) (crofts : List Nat) (s : State) (c : Cmd), Starts fn r 0x02 c s →
    let p := fn.val - 1
    let s1 := unquiesced fn s
    (timed p s = false → ∃ t, exec (.step fn r crofts) s = .next t ∧ Ends c 0x03 0 s t ∧ t = { s1 with host := t.host }) ∧
    (timed p s = true → stepUndecided p s = true → ∃ t, exec (.step fn r crofts) s = .next t ∧
      (∀ k ∈ t.host.cmds, k.uid = c.uid → k.phase = .waiting) ∧ t = { s1 with host := t.host }) ∧
    (timed p s = true → stepUndecided p s = false → StepChecked p crofts c (.step fn r crofts) s s1)) ∧
  (∀ (p : PartId) (crofts : List Nat) (s : State) (c : Cmd),
    s.host.cmds.find? (fun c => c.fn == p.val + 1 && c.phase == .waiting) = some c → (partOf p.val s).run = none →
    (partOf p.val s).quiesce = none → StepChecked p.val crofts c (.stepWaitAccept p crofts) s s) ∧
  (∀ (fn : FnId) (r : RingId) (crofts : List Nat) (s : State) (c : Cmd), Starts fn r 0x01 c s →
    let p := fn.val - 1
    let n := dF 0x10 4 c.words
    (∀ e u, cmdRead c (dF 8 8 c.words) (64 * n) (unquiesced fn s) = (.error e, u) →
      ∃ t, exec (.runList fn r crofts) s = .next t ∧ Ends c e 0 u t ∧ t = { u with host := t.host }) ∧
    (∀ l u, cmdRead c (dF 8 8 c.words) (64 * n) (unquiesced fn s) = (.ok l, u) →
      usesLost p (relsOf p c.uid crofts (descsOf n l) u) u = false →
      ∃ t es, exec (.runList fn r crofts) s = .next t ∧ (partOf p t).rel = (partOf p u).rel ++ es ∧
        es.map (fun e => e.desc) = descsOf n l ∧ (∀ e ∈ es, e.cmd = c.uid) ∧
        (∀ e ∈ es, globalsOf p s ≠ [] → e.croft ∈ globalsOf p s) ∧
        (∀ k ∈ t.host.cmds, k.uid = c.uid → k.phase = .running ∧ k.left = n) ∧ t.crofts = s.crofts ∧ SameDeviceBytes s t) ∧
    (∀ l, Operand c (dF 8 8 c.words) (64 * n) l s → usesLost p (relsOf p c.uid crofts (descsOf n l) s) s = false →
      ∃ t es, exec (.runList fn r crofts) s = .next t ∧ (partOf p t).rel = (partOf p s).rel ++ es ∧
        es.map (fun e => e.desc) = descsOf n l ∧ (∀ e ∈ es, e.cmd = c.uid) ∧
        (∀ k ∈ t.host.cmds, k.uid = c.uid → k.phase = .running ∧ k.left = n) ∧ t.crofts = s.crofts ∧ SameBytes s t))

/-- NOP, SET_BB_GEN, SERVICE, INVALIDATE and SET_INFLIGHT end with OK, the new BB_GEN or limit taking effect with the completion record;
SERVICE while a queue holds a task ends with BUSY, and limits above 496 with RESOURCE; INVALIDATE drops the translations at once, and waits
for the host requests in flight in its range (16 R538, R542, R551, R567; 03 R99; a partition that is not assembled: log entry 25). -/
def Sys2Proof.Claims.SimpleCommands : Prop :=
  ∀ (fn : FnId) (r : RingId) (s : State) (c : Cmd),
    let p := fn.val - 1
    let s1 := unquiesced fn s
    (Starts fn r 0x09 c s → ∃ t, exec (.nop fn r) s = .next t ∧ Ends c 0 0 s t ∧ t = { s1 with host := t.host }) ∧
    (Starts fn r 0x08 c s → ∃ t, exec (.setBbGen fn r) s = .next t ∧ Ends c 0 0 s t ∧ t = { s1 with host := t.host }) ∧
    (Starts fn r 0x04 c s → queuesEmpty p s = false →
      ∃ t, exec (.service fn r) s = .next t ∧ Ends c 0x04 0 s t ∧ t = { s1 with host := t.host }) ∧
    (Starts fn r 0x04 c s → queuesEmpty p s = true → dF 8 1 c.words < 2 →
      ∃ t, exec (.service fn r) s = .next t ∧ Ends c 0 0 s t ∧ getF (bFunction fn.val) F.FP_SERVICE t = dF 8 1 c.words ∧
        (∀ k ∈ croftsOf p s, getF (bCroft k) F.SEQ_CTRL_SERVICE t = dF 8 1 c.words) ∧ t.crofts = s.crofts ∧ SameBytes s t) ∧
    (∀ k, quietInvalidate fn.val r.val s = some k →
      ∃ t, exec (.invalidate fn r) s = .next t ∧ Ends k 0 0 s t ∧ t = { s with host := t.host }) ∧
    (Starts fn r 0x07 c s → quietInvalidate fn.val r.val s = none →
      let va := dF 8 8 c.words
      let n := dF 0x10 8 c.words
      let busy := ∃ k ∈ croftsOf p s, ∃ q ∈ (croftOf k s).pieces, q.space = 1 ∧ (n = 0 ∨ (q.addr < va + n ∧ va < q.addr + q.len))
      ∃ t, exec (.invalidate fn r) s = .next t ∧ (¬busy → Ends c 0 0 s t) ∧
        (busy → ∀ k ∈ t.host.cmds, k.uid = c.uid → k.phase = .running) ∧
        (∀ e ∈ (partOf p t).l1, n ≠ 0 ∧ e ∈ (partOf p s).l1 ∧ ¬ (e.key * 2 ^ 30 < va + n ∧ va < (e.key + 1) * 2 ^ 30)) ∧
        (∀ e ∈ (partOf p t).l2, n ≠ 0 ∧ e ∈ (partOf p s).l2 ∧ ¬ (e.key * 2 ^ 21 < va + n ∧ va < (e.key + 1) * 2 ^ 21)) ∧
        t = { s1 with host := t.host, parts := t.parts }) ∧
    (nextCmd 0 r.val 0x13 s = some c → dF 8 1 c.words < 8 →
      let q := dF 8 1 c.words
      let n := dF 0x0A 2 c.words
      (assembled q s = true → n + otherLimits q s ≤ 496 →
        ∃ t, exec (.setInflight r) s = .next t ∧ Ends c 0 0 s t ∧ t = { s with host := t.host }) ∧
      (assembled q s = false ∨ 496 < n + otherLimits q s →
        ∃ t, exec (.setInflight r) s = .next t ∧ Ends c 0x05 0 s t ∧ t = { s with host := t.host }))

/-- DIRECT_TASK sends one descriptor of an open partition to a croft that holds a credit, and waits for the credit; in timed service
it ends with MODE (16 R538; 03 R90, R91). REGS of the PF writes and reads the registers of its entries, and refuses the page of
a confidential partition (16 R539). -/
def Sys2Proof.Claims.DirectTasksAndRegs : Prop :=
  (∀ (fn : FnId) (r : RingId) (s : State) (c : Cmd), Starts fn r 0x03 c s →
    let p := fn.val - 1
    let g := dF 8 2 c.words
    let k := globalPhys g s
    (timed p s = true → ∃ t, exec (.directTask fn r) s = .next t ∧ Ends c 0x03 0 s t ∧ t = { unquiesced fn s with host := t.host }) ∧
    (timed p s = false → g ∈ globalsOf p s → g ∉ (partOf p s).capLost → takes k s = false →
      exec (.directTask fn r) s = .next s) ∧
    (∀ l u, timed p s = false → g ∈ globalsOf p s → g ∉ (partOf p s).capLost → takes k s = true →
      cmdRead c (dF 0x10 8 c.words) 64 (unquiesced fn s) = (.ok l, u) →
      ∃ t a, exec (.directTask fn r) s = .next t ∧ (croftOf k t).arriving = (croftOf k s).arriving ++ [a] ∧
        a.desc = BitVec.ofNat 512 (natOf l) ∧ a.cmd = c.uid ∧ (croftOf k t).queue = (croftOf k s).queue ∧
        OtherCrofts k s t ∧ (∀ j ∈ t.host.cmds, j.uid = c.uid → j.phase = .running ∧ j.left = 1) ∧ SameDeviceBytes s t) ∧
    (∀ l, timed p s = false → g ∈ globalsOf p s → g ∉ (partOf p s).capLost → takes k s = true →
      Operand c (dF 0x10 8 c.words) 64 l s →
      ∃ t a, exec (.directTask fn r) s = .next t ∧ (croftOf k t).arriving = (croftOf k s).arriving ++ [a] ∧
        a.desc = BitVec.ofNat 512 (natOf l) ∧ a.cmd = c.uid ∧ OtherCrofts k s t ∧ SameBytes s t)) ∧
  (∀ (r : RingId) (s : State) (c : Cmd) (b : Nat), nextCmd 0 r.val 0x06 s = some c → dF 0x10 2 c.words = 1 →
    let enc := dF 8 8 c.words
    let e := rdN (plHost enc) 16 s
    let x := leAt e 0 4
    let w : Wr := ⟨.control, b, x % 0x1000, leAt e 4 4, leAt e 8 4⟩
    s.power.e0Lost = false → leAt e 12 1 < 2 → leAt e 13 3 = 0 → x % 4 = 0 → x < 2 ^ 25 → pageAt x s = some b →
    ((∃ q, ownerOf b s = some q ∧ confidential q s = true) →
      ∃ t, exec (.regs 0 r) s = .next t ∧ Ends c 0x08 0 s t ∧ t = { s with host := t.host }) ∧
    ((∀ q, ownerOf b s = some q → confidential q s = false) → leAt e 12 1 = 0 → w.off ≠ F.BLK_PART.off →
      w.off ≠ F.BLK_HOLDER.off → fateOf w s = .act → regsQuiet w s = true →
      ∃ t, exec (.regs 0 r) s = .next t ∧ Ends c 0 0 (regWrite w s) t ∧ t = { regWrite w s with host := t.host }) ∧
    ((∀ q, ownerOf b s = some q → confidential q s = false) → leAt e 12 1 = 1 →
      ∃ t, exec (.regs 0 r) s = .next t ∧ Ends c 0 0 s t ∧
        rdN (plHost (enc + 4)) 4 t = bytesOf 4 (regRead .control b (x % 0x1000) s).1 ∧
        (∀ q, q < plHost (enc + 4) ∨ plHost (enc + 4) + 4 ≤ q → rd q t = rd q s) ∧ t.regs = s.regs ∧ t.crofts = s.crofts))

/-- The host commands that act at once, DIRECT_TASK and REGS. -/
def Obligations.HostCommandsEnd : Prop := Claims.SimpleCommands ∧ Claims.DirectTasksAndRegs

/-! ### Partitions -/

namespace Sys2Proof.Claims

/-- A quiesce of partition `p` is under way for a command; with no committed work left, its crofts are stopped and hold no unstarted task,
and its release order is empty (16 R558). -/
def Quiescing (p cmd : Nat) (s t : State) : Prop :=
  (∃ q, (partOf p t).quiesce = some q ∧ q.start = s.time ∧ q.cmd = cmd) ∧
  ((partOf p s).run = none → commitWork p s = false →
    (partOf p t).rel = [] ∧ ∀ c ∈ croftsOf p s, getF (bCroft c) F.SEQ_CTRL_STOP t = 1 ∧ (croftOf c t).arriving = [] ∧
      ∀ j ∈ (croftOf c t).queue, j.phase ≠ .queued)

end Sys2Proof.Claims

/-- A function reset of VF p + 1 has run to its end: no session and no sealing values are left, MSI-X is at its reset, and the page holds its
reset values but for four fields (16 R560). -/
def FunctionCleared (p : Nat) (s t : State) : Prop :=
  let b := bFunction (p + 1)
  sealOf (p + 1) t = none ∧ (mapGet (fun _ => Spdm.reset) t.host.spdm (p + 1)).session = none ∧ msixOf (p + 1) t = Msix.reset ∧
  (∀ off, off < 4096 → (∀ f ∈ [F.FP_ASSEMBLED, F.FP_CONFIDENTIAL, F.FP_WEDGED, F.FP_LAST_COMMITTED_LO,
    F.FP_LAST_COMMITTED_HI], off / 4 ≠ f.off / 4) → getW b off t = resetWord (regKey b off)) ∧
  lastCommitted p t = lastCommitted p s

/-- ASSEMBLE: a descriptor that passes gives the partition its hamlets, slices, ports and ranges, its crofts stopped in open service, its job
and its VF's command rings disabled, an index without a croft lost to it, and a confidential one its key pair; a bad descriptor ends with RESERVED_SET and a taken resource with RESOURCE. DISASSEMBLE takes
all of it back from a quiesced partition, and zeroes what a confidential one held; otherwise it ends with BUSY (16 R530 to
R534; 03 R107; 10 R341, R342). -/
def Obligations.PartitionsComeAndGo : Prop :=
  (∀ (r : RingId) (s : State) (c : Cmd), nextCmd 0 r.val 0x10 s = some c → s.power.e0Lost = false →
    let l := rdN (plHost (dF 8 8 c.words)) 128 s
    let d := PartDesc.parse l
    let rs := rangesOf d.count (rdN (plHost d.list) (8 * d.count) s)
    (PartDesc.ok l = false → ∃ t, exec (.assemble r) s = .next t ∧ Ends c 0x02 0 s t ∧ t = { s with host := t.host }) ∧
    (PartDesc.ok l = true → assembleOk d rs s = false →
      ∃ t, exec (.assemble r) s = .next t ∧ Ends c 0x05 0 s t ∧ t = { s with host := t.host }) ∧
    (PartDesc.ok l = true → assembleOk d rs s = true →
      ∃ t, exec (.assemble r) s = .next t ∧ Ends c 0 0 s t ∧ assembled d.part t = true ∧ confidential d.part t = d.conf ∧
        (∀ h ∈ d.hamlets, ownerOf (bHamlet h) t = some d.part) ∧
        (∀ i ∈ d.slices, ownerOf (bSlice i) t = some d.part ∧ getF (bSlice i) F.GR_MODE t = 0) ∧
        (∀ v ∈ d.ports, ownerOf (bPort v) t = some d.part) ∧
        (∀ g ∈ rs, ∀ i < g.2, ownerOfAddr ((g.1 + i) * 2 ^ 30) t = some d.part) ∧
        (∀ k ∈ croftsOf d.part t, getF (bCroft k) F.SEQ_CTRL_STOP t = 1 ∧ getF (bCroft k) F.SEQ_CTRL_SERVICE t = 1) ∧
        jobEnabled d.part t = false ∧ (∀ n < 14, getF (bFunction (d.part + 1)) (F.FP_ENABLE.at n) t = 0) ∧
        (∀ h ∈ d.hamlets, ∀ i < 36, 2 ≤ slotState h i s → 36 * h + i ∈ (partOf d.part t).capLost) ∧
        getF (bFunction (d.part + 1)) F.FP_INFLIGHT t = d.inflight ∧ timed d.part t = false ∧
        (d.conf = true → keyHeld d.part t = true) ∧ (partOf d.part t).ranges = rs)) ∧
  (∀ (r : RingId) (s : State) (c : Cmd), nextCmd 0 r.val 0x11 s = some c → dF 8 1 c.words < 8 →
    let p := dF 8 1 c.words
    (flag (bFunction (p + 1)) F.FP_QUIESCED s = false ∨ jobEnabled p s = true ∨ inflight (p + 1) s ≠ 0 →
      ∃ t, exec (.disassemble r) s = .next t ∧ Ends c 0x04 0 s t ∧ t = { s with host := t.host }) ∧
    (flag (bFunction (p + 1)) F.FP_QUIESCED s = true → jobEnabled p s = false → inflight (p + 1) s = 0 →
      ∃ t, exec (.disassemble r) s = .next t ∧ Ends c 0 0 s t ∧ assembled p t = false ∧ hamletsOf p t = [] ∧ slicesOf p t = [] ∧
        portsOf p t = [] ∧ keyHeld p t = false ∧ sealOf (p + 1) t = none ∧ partOf p t = Part.reset ∧
        (confidential p s = true → ∀ q, heldPlace p q s = true → rd q t = 0)))

/-- QUIESCE, QUIESCE_PART and their end: the quiesce begins as R558 says; once purged and drained the partition is quiesced in open service,
and its command ends with OK; after 100 ms without that it is wedged, and the command ends with WEDGED; a function reset that has asked for
the quiesce ends with it (16 R558 to R560). -/
def Obligations.Quiescence : Prop :=
  (∀ (fn : FnId) (r : RingId) (s : State) (c : Cmd), Starts fn r 0x05 c s →
    ∃ t, exec (.quiesce fn r) s = .next t ∧ Quiescing (fn.val - 1) c.uid s t) ∧
  (∀ (r : RingId) (s : State) (c : Cmd), nextCmd 0 r.val 0x12 s = some c → dF 8 1 c.words < 8 →
    let p := dF 8 1 c.words
    (flag (bFunction (p + 1)) F.FP_WEDGED s = true → ∃ t, exec (.quiescePart r) s = .next t ∧ Ends c 0x0E 0 s t ∧
      t = { s with host := t.host }) ∧
    (flag (bFunction (p + 1)) F.FP_WEDGED s = false → assembled p s = true → (partOf p s).quiesce = none →
      ∃ t, exec (.quiescePart r) s = .next t ∧ Quiescing p c.uid s t)) ∧
  (∀ (p : PartId) (s : State) (q : Quiesce), (partOf p.val s).quiesce = some q → q.cmd ≠ 0 → q.fnReset = false →
    (q.purged = true → partDrained p.val s = true →
      ∃ t, exec (.quiesceComplete p) s = .next t ∧ getF (bFunction (p.val + 1)) F.FP_QUIESCED t = 1 ∧ timed p.val t = false ∧
        (∀ c ∈ croftsOf p.val s, getF (bCroft c) F.SEQ_CTRL_SERVICE t = 1) ∧ (partOf p.val t).quiesce = none ∧
        (∀ k ∈ t.host.cmds, (k.fn = p.val + 1 ∧ k.uid < q.upto) ∨ k.uid = q.cmd → k.phase = .done) ∧
        t.crofts = s.crofts ∧ SameDeviceBytes s t) ∧
    (q.start + 100000000 ≤ s.time → q.purged = false ∨ partDrained p.val s = false →
      ∃ t, exec (.quiesceWedge p) s = .next t ∧ flag (bFunction (p.val + 1)) F.FP_WEDGED t = true ∧
        (partOf p.val t).quiesce = none ∧ (∀ k ∈ t.host.cmds, k.uid = q.cmd → k.phase = .done) ∧
        t.crofts = s.crofts ∧ SameDeviceBytes s t)) ∧
  (∀ (p : PartId) (s : State) (q : Quiesce), (partOf p.val s).quiesce = some q → q.fnReset = true →
    (∀ i, (q.purged = true ∧ partDrained p.val s = true ∧ i = Instr.quiesceComplete p) ∨
        (q.start + 100000000 ≤ s.time ∧ (q.purged = false ∨ partDrained p.val s = false) ∧ i = .quiesceWedge p) →
      ∃ t, exec i s = .next t ∧ FunctionCleared p.val s t ∧ (partOf p.val t).quiesce = none ∧
        (∀ k ∈ t.host.cmds, k.fn = p.val + 1 → k.lost = false) ∧
        (q.cmd ≠ 0 → ∀ k ∈ t.host.cmds, k.uid = q.cmd → k.phase = .done) ∧ t.crofts = s.crofts ∧ SameDeviceBytes s t))

/-- FUNCTION_RESET: the rings are off; a partition that is not assembled or is wedged has its page at the reset values at once, no session,
key or command left; another one quiesces first, with the quiesce under way if there is one (16 R556, R560). BAR2_ACCESS within the BAR reads
or writes the bytes it names, a read of poison answers with poison, memory that is offline takes no write, and a refused access is counted
and has no effect (16 R526, R528; 10 R336, R338; a read refused is logged as PCI Express does: log entry 65). HOST_READ_TIMEOUT faults the
task that waits (16 R554; AER: log entry 65). -/
def Obligations.FunctionsAndWindows : Prop :=
  (∀ (p : PartId) (s : State), hostLive s = true → functionExists (p.val + 1) s = true →
    let b := bFunction (p.val + 1)
    (assembled p.val s = false ∨ flag b F.FP_WEDGED s = true →
      ∃ t, exec (.functionReset p) s = .next t ∧ (∀ k ∈ t.host.cmds, k.fn ≠ p.val + 1) ∧ FunctionCleared p.val s t ∧
        t.crofts = s.crofts ∧ SameDeviceBytes s t) ∧
    (assembled p.val s = true → flag b F.FP_WEDGED s = false → (partOf p.val s).quiesce = none →
      ∃ t, exec (.functionReset p) s = .next t ∧ Quiescing p.val 0 s t ∧ ((partOf p.val t).quiesce.all fun q => q.fnReset) = true ∧
        getF b F.FP_EV_ENABLE t = 0 ∧ ∀ r < 14, getF b (F.FP_ENABLE.at r) t = 0) ∧
    (∀ q, assembled p.val s = true → flag b F.FP_WEDGED s = false → (partOf p.val s).quiesce = some q →
      ∃ t, exec (.functionReset p) s = .next t ∧
        (partOf p.val t).quiesce = some { q with fnReset := true, upto := s.host.nextUid } ∧
        getF b F.FP_EV_ENABLE t = 0 ∧ (∀ r < 14, getF b (F.FP_ENABLE.at r) t = 0) ∧ t.crofts = s.crofts ∧ SameDeviceBytes s t)) ∧
  (∀ (fn : FnId) (x : BitVec 36) (s : State), Answers fn s →
    let b := bFunction fn.val
    let a := getPair b F.FP_BAR2_BASE_LO F.FP_BAR2_BASE_HI s + x.toNat
    let fits (n : Nat) : Prop := x.toNat + n ≤ bar2Bytes fn.val s
    let out (l : List Byte) : Bool := (cut 32 a l.length).any fun y => offline y.1 s || sliceLost (bar2Part a s) y.1 s
    (∀ n, bar2Size (.read n) = true → fits n → bar2Ok fn.val a n false s = true →
      ∃ t, exec (.bar2Access fn x (.read n)) s = .next t ∧
        t.host.out = s.host.out ++ [if poison0 (bar2Part a s) a n s then .bar2Poison fn.val
          else .bar2 fn.val (some (load0 (bar2Part a s) a n s))] ∧ OnlyRequests s t ∧ SameBytes s t ∧
        t = { s with host := { s.host with out := t.host.out }, memsys := t.memsys, nextUid := t.nextUid }) ∧
    (∀ n, bar2Size (.read n) = true → fits n → bar2Ok fn.val a n false s = false →
      ∃ t, exec (.bar2Access fn x (.read n)) s = .next t ∧ t.host.out = s.host.out ++ [.bar2 fn.val none] ∧
        Counts b F.FP_BAR2_REFUSED 1 s t ∧ Counts bHostIf F.HI_AER_UNCORRECTABLE 1 s t ∧
        t = { s with regs := t.regs, subUnits := t.subUnits, host := { s.host with out := t.host.out, aer := t.host.aer } }) ∧
    (∀ op, bar2Size op = true → ¬fits (bar2Len op) → exec (.bar2Access fn x op) s = .next s) ∧
    (∀ l, bar2Size (.write l) = true → fits l.length → bar2Ok fn.val a l.length true s = true → out l = true →
      ∃ t, exec (.bar2Access fn x (.write l)) s = .next t ∧ SameBytes s t ∧ OnlyRequests s t ∧
        t = { s with memsys := t.memsys, nextUid := t.nextUid }) ∧
    (∀ l, bar2Size (.write l) = true → fits l.length → bar2Ok fn.val a l.length true s = true → out l = false →
      a + l.length ≤ 2 ^ 40 →
      ∃ t, exec (.bar2Access fn x (.write l)) s = .next t ∧ (∀ i < l.length, rd (plTier1 (a + i)) t = l.getD i 0) ∧
        (∀ q, (∀ i < l.length, q ≠ plTier1 (a + i)) → rd q t = rd q s) ∧
        t = { s with mem := t.mem, memsys := t.memsys, nextUid := t.nextUid }) ∧
    (∀ l, bar2Size (.write l) = true → fits l.length → bar2Ok fn.val a l.length true s = false →
      ∃ t, exec (.bar2Access fn x (.write l)) s = .next t ∧ Counts b F.FP_BAR2_REFUSED 1 s t ∧
        OnlyRegs [regKey b F.FP_BAR2_REFUSED.off] s t)) ∧
  (∀ (n : Nat) (why : ReadFail) (s : State) (r : HostRead) (q : Piece), s.host.reads[n]? = some r → r.part < 8 →
    (why = .timeout → r.issued + 50000000 ≤ s.time) →
    (croftOf r.croft s).pieces.find? (fun q => q.id == r.piece) = some q → (∃ j, findTask r.croft q.uid s = some j) →
    ∃ t, exec (.hostReadTimeout n why) s = .next t ∧ r ∉ t.host.reads ∧ Faulted r.croft q.uid 0x0B 0 t ∧
      Counts (bFunction (r.part + 1)) F.FP_HOST_ERRORS 1 s t ∧
      Counts bHostIf F.HI_POISON_RX (if why = .poison then 1 else 0) s t ∧
      Counts bHostIf F.HI_AER_UNCORRECTABLE (if why = .error then 0 else 1) s t)

/-! ### Jobs and parity of the steward -/

/-- JOB_ENABLE: a job that starts is at the epoch after LAST_COMMITTED with nothing held of earlier ones, and a partition without a run
owes no repeat (13 R446; 14 R468; what it drops is the model's reading, log entry 20), and JOBS_ENABLED follows. LOCAL_READY and LOCAL_REPEAT set READY and the cause
of a repeat in the current epoch of an enabled job (13 R452, R453). RELOAD of a job at rest takes the tables of a block that
passes, and leaves the job disabled otherwise (13 R432). -/
def Sys2Proof.Claims.JobControl : Prop :=
  ∀ (p : PartId) (s : State),
    (∀ who, keeper who → Reaches who bMill s → Unlocked who bMill s →
      (jobEnabled p.val s = false →
        ∃ t, exec (.jobEnable who p true) s = .next t ∧ jobEnabled p.val t = true ∧
          mlF F.ML_JOB_EPOCH p.val t = epochOf (lastCommitted p.val s + 1) 0 ∧
          jobOf p.val t = { jobOf p.val s with
            step := lastCommitted p.val s + 1, attempt := 0, eps := [], digests := [], verdicts := [], seen := []
            par := { (jobOf p.val s).par with rounds := [], abandoned := [], valid := false } } ∧
          (∀ q, q ≠ p.val → jobOf q t = jobOf q s ∧ partOf q t = partOf q s) ∧
          partOf p.val t = { partOf p.val s with
            repeatDue := if (partOf p.val s).run.isNone then none else (partOf p.val s).repeatDue } ∧
          (∀ q < 8, bit q (getF bMill F.ML_JOBS_ENABLED t) = jobEnabled q t) ∧
          t = { s with regs := t.regs, parts := t.parts, mill := { s.mill with jobs := t.mill.jobs } }) ∧
      (∃ t, exec (.jobEnable who p false) s = .next t ∧ jobEnabled p.val t = false ∧
        (∀ q < 8, bit q (getF bMill F.ML_JOBS_ENABLED t) = jobEnabled q t) ∧ t = { s with regs := t.regs })) ∧
    (let j := jobOf p.val s
     let e := epOf p.val j.step j.attempt s
     (mayReady p.val s = true → (parOf p.val s).zeroing = [] → jobEnabled p.val s = true →
       isRoot p.val s = false ∨ e.cause = none →
       ∃ t, exec (.localReady p) s = .next t ∧ (epOf p.val j.step j.attempt t).ready = true ∧
         (epOf p.val j.step j.attempt t).cause = e.cause ∧ (∀ q, q ≠ p.val → jobOf q t = jobOf q s) ∧
         t = { s with mill := { s.mill with jobs := t.mill.jobs } }) ∧
     (∀ r, (partOf p.val s).run ≠ none → (partOf p.val s).repeatDue = some r → jobEnabled p.val s = true →
       isRoot p.val s = false → e.cause = none → verdictHeld p.val j.step j.attempt s = none →
       ∃ t, exec (.localRepeat p) s = .next t ∧ (epOf p.val j.step j.attempt t).cause = some (r, myDevice p.val s) ∧
         (epOf p.val j.step j.attempt t).voted = 2 ∧ t.crofts = s.crofts ∧ t.tally = s.tally ∧ OnlyRequests s t ∧
         SameDeviceBytes s t)) ∧
    (jobAtRest p.val s = true →
      (∀ kids plans routes, loadBlock p.val s = some (kids, plans, routes) →
        ∃ t, exec (.reload p) s = .next t ∧
          jobOf p.val t = { jobOf p.val s with loaded := true, kids := kids, plans := plans, routes := routes } ∧
          (∀ q, q ≠ p.val → jobOf q t = jobOf q s) ∧ t.crofts = s.crofts ∧ t.tally = s.tally ∧ SameDeviceBytes s t) ∧
      (loadBlock p.val s = none →
        ∃ t, exec (.reload p) s = .next t ∧ jobEnabled p.val t = false ∧ (jobOf p.val t).loaded = false ∧
          (∀ q, q ≠ p.val → jobOf q t = jobOf q s) ∧ t.crofts = s.crofts ∧ t.tally = s.tally ∧ SameDeviceBytes s t))

/-- PARITY_LOAD of a job at rest loads exactly the groups whose entries pass, and shows them (14 R463 to R465); an entry that cannot be
read loads nothing (log entry 33). HOLDER_ZERO_DONE and
REBUILD_CLEAR_DONE end the zeroing and the clearing; REBUILD_CLEAR zeroes the rebuild buffer, and no other byte of tier 1,
with CLEARING 1 (14 R469, R482, R488). FAIL_ADD counts a failure and computes M and T_S anew (14 R478, R479). -/
def Sys2Proof.Claims.ParityControl : Prop :=
  ∀ (p : PartId) (s : State),
    (jobAtRest p.val s = true →
      let all := (List.range 16).filterMap fun g =>
        match groupAt p.val g s with
        | .entry l raw => some (ParGroup.parse l raw)
        | _ => none
      ∃ t, exec (.parityLoad p) s = .next t ∧
        (∀ g < 16, ∀ l raw, groupAt p.val g s = .entry l raw →
          (groupOk p.val l raw s && groupClear p.val (ParGroup.parse l raw) all s) = true →
          groupOf p.val g t = some (ParGroup.parse l raw) ∧ bit g (mlF F.ML_PAR_GROUPS_LOADED p.val t) = true) ∧
        (∀ g x, groupOf p.val g t = some x → g < 16 ∧ ∃ l raw, groupAt p.val g s = .entry l raw ∧
          (groupOk p.val l raw s && groupClear p.val (ParGroup.parse l raw) all s) = true ∧ x = ParGroup.parse l raw) ∧
        (∀ q, q ≠ p.val → jobOf q t = jobOf q s) ∧ t.crofts = s.crofts ∧ t.tally = s.tally ∧ OnlyRequests s t ∧
        SameDeviceBytes s t) ∧
    ((parOf p.val s).zeroing ≠ [] →
      ∃ t, exec (.holderZeroDone p) s = .next t ∧ parOf p.val t = { parOf p.val s with zeroing := [] } ∧
        getF bMill (F.ML_PAR_CLEARING.at p.val) t = bitOf (parOf p.val s).clearing ∧
        t.mem = ((parOf p.val s).zeroing.foldl (fun u g => statusWrite p.val g 2 1 0 u) s).mem ∧ t.crofts = s.crofts ∧
        t.tally = s.tally ∧ t.parts = s.parts ∧ t.host = s.host) ∧
    (∃ t, exec (.rebuildClearDone p) s = .next t ∧ parOf p.val t = { parOf p.val s with clearing := false } ∧
      FieldsAre bMill [(F.ML_PAR_CLEARING.at p.val, bitOf (!(parOf p.val s).zeroing.isEmpty))] s t ∧
      t = { s with regs := t.regs, mill := { s.mill with jobs := t.mill.jobs } }) ∧
    (∀ who, keeper who → Reaches who bMill s → Unlocked who bMill s →
      (let a := (rebuildBuf p.val s).1
       let n := (rebuildBuf p.val s).2
       ∃ t, exec (.rebuildClear who p) s = .next t ∧ parOf p.val t = { parOf p.val s with clearing := true } ∧
         getF bMill (F.ML_PAR_CLEARING.at p.val) t = 1 ∧ t.mem = (zeroRange p.val a n s).mem ∧
         (a + n ≤ 2 ^ 40 → FieldsAre bMill [(F.ML_PAR_CLEARING.at p.val, 1)] s t ∧
           (∀ q, a ≤ q → q < a + n → rd (plTier1 q) t = 0) ∧ (∀ q, q < a ∨ a + n ≤ q → rd q t = rd q s)) ∧
         t.crofts = s.crofts ∧ t.tally = s.tally ∧ t.parts = s.parts ∧ t.host = s.host) ∧
      (let f := min (mlF F.ML_PAR_FAILURES p.val s + 1) (2 ^ 32 - 1)
       let h := if mlF F.ML_PAR_ENABLE p.val s = 1 then s.time - (parOf p.val s).enabledAt else 0
       let num := mlF F.ML_PAR_W p.val s * mlF F.ML_PAR_M0_H p.val s * 3600 * 10 ^ 9 + h
       let den := (mlF F.ML_PAR_W p.val s + f) * 10 ^ 9
       ∃ t x, exec (.failAdd who p) s = .next t ∧ x * x ≤ 2 * mlF F.ML_PAR_C_MS p.val s * num / (1000 * den) ∧
         2 * mlF F.ML_PAR_C_MS p.val s * num / (1000 * den) < (x + 1) * (x + 1) ∧
         FieldsAre bMill [(F.ML_PAR_FAILURES.at p.val, f), (F.ML_PAR_M_S.at p.val, min (num / den) (2 ^ 32 - 1)),
           (F.ML_PAR_T_S.at p.val, min (max x (mlF F.ML_PAR_T_MIN_S p.val s)) (mlF F.ML_PAR_T_MAX_S p.val s))] s t ∧
         t = { s with regs := t.regs }))

/-- The steward's writes to the mill's jobs and parity. -/
def Obligations.JobsAndParity : Prop := Claims.JobControl ∧ Claims.ParityControl

/-! ### Writes of bytes -/

/-- REGISTER_WRITE by the control core or a function to BAR0: four aligned bytes at a page are one write of that register, at most four
bytes within a word one write of the bits they cover, eight aligned bytes two writes, the lower word first; any other size
or alignment is discarded and reported (18 R616, R622). A function may write its own page only (16 R527). A write of no byte
is refused: it names no access. The PF's write of SR-IOV sets VF Enable and a NumVFs of at most 8 (16 R525). In BAR4 a function writes four
bytes at a doorbell, or a double word of the MSI-X table, and a doorbell write of another size is discarded and reported (16
R544); MSI-X Control switches and masks the function's vectors (16 R525; PCI's own layouts: log entry 65). -/
def Obligations.BytesWritten : Prop :=
  (∀ (who : Requester) (x : BitVec 25) (l : List Byte) (s : State) (b : Nat), reaches who s = true → pageAt x.toNat s = some b →
    (1 ≤ l.length → x.toNat % 4 + l.length ≤ 4 →
      exec (.registerWrite who (.bar0 x) l) s = .next (regWrite ⟨who, b, x.toNat % 4096 / 4 * 4,
        natOf l * 2 ^ (8 * (x.toNat % 4)), (2 ^ (8 * l.length) - 1) * 2 ^ (8 * (x.toNat % 4))⟩ s)) ∧
    (l.length = 8 → x.toNat % 8 = 0 →
      ∃ u, exec (.registerWrite who (.bar0 x) (l.take 4)) s = .next u ∧
        exec (.registerWrite who (.bar0 x) l) s =
          .next (barWrite who (x.toNat + 4) (natOf (l.drop 4)) 0xFFFFFFFF u)) ∧
    (1 ≤ l.length → l.length ≤ 512 → 4 < x.toNat % 4 + l.length → ¬(l.length = 8 ∧ x.toNat % 8 = 0) →
      ∃ t, exec (.registerWrite who (.bar0 x) l) s = .next t ∧ Counts bDevice F.DEV_WRITES_DISCARDED 1 s t ∧
        t.crofts = s.crofts ∧ t.mill = s.mill ∧ t.tally = s.tally ∧ SameDeviceBytes s t)) ∧
  (∀ (f : FnId) (x : BitVec 25) (l : List Byte) (s : State) (b : Nat), reaches (.host f) s = true → pageAt x.toNat s = some b →
    b ≠ bFunction f.val → l.length = 4 → x.toNat % 4 = 0 →
    ∃ t, exec (.registerWrite (.host f) (.bar0 x) l) s = .next t ∧ Counts bDevice F.DEV_WRITES_DISCARDED 1 s t ∧
      t.crofts = s.crofts ∧ t.mill = s.mill ∧ t.tally = s.tally ∧ SameDeviceBytes s t) ∧
  (∀ (who : Requester) (x : WriteTarget) (l : List Byte) (s : State), l = [] ∨ 512 < l.length →
    exec (.registerWrite who x l) s = .refused .illFormed) ∧
  (∀ (l : List Byte) (s : State), hostLive s = true → l.length = 1 → natOf l % 16 ≤ 8 →
    (∀ p < 8, flag bHostIf F.HI_VF_ENABLE s = true → p < getF bHostIf F.HI_NUM_VFS s →
      bit 4 (natOf l) = true ∧ p < natOf l % 16) →
    ∃ t, exec (.registerWrite (.host 0) .sriov l) s = .next t ∧
      FieldsAre bHostIf [(F.HI_NUM_VFS, natOf l % 16), (F.HI_VF_ENABLE, natOf l / 16 % 2)] s t ∧ t = { s with regs := t.regs }) ∧
  (∀ (f : FnId) (x : BitVec 16) (l : List Byte) (s : State), Answers f s →
    (∀ r : RingId, x.toNat = 0x1000 * r.val → l.length = 4 →
      exec (.registerWrite (.host f) (.bar4 x) l) s = exec (.crTailWrite f r (BitVec.ofNat 32 (natOf l))) s) ∧
    (x.toNat = 0xE000 → l.length = 4 →
      exec (.registerWrite (.host f) (.bar4 x) l) s = exec (.evHeadWrite f (BitVec.ofNat 32 (natOf l))) s) ∧
    (x.toNat % 0x1000 = 0 → x.toNat < 0xF000 → 1 ≤ l.length → l.length ≤ 512 → l.length ≠ 4 →
      ∃ t, exec (.registerWrite (.host f) (.bar4 x) l) s = .next t ∧ Counts bDevice F.DEV_WRITES_DISCARDED 1 s t ∧
        t.crofts = s.crofts ∧ t.mill = s.mill ∧ t.tally = s.tally ∧ SameDeviceBytes s t) ∧
    (0xF000 ≤ x.toNat → x.toNat < 0xF100 → x.toNat % 4 = 0 → l.length = 4 →
      ∃ t, exec (.registerWrite (.host f) (.bar4 x) l) s = .next t ∧
        (∀ k, mapGet msixEntry (msixOf f.val t).table k =
          if k = (x.toNat - 0xF000) / 4 then natOf l else mapGet msixEntry (msixOf f.val s).table k) ∧
        (∀ g, g ≠ f.val → msixOf g t = msixOf g s) ∧
        t = { s with host := { s.host with msix := t.host.msix, out := t.host.out } }) ∧
    (1 ≤ l.length → l.length ≤ 512 → ∃ t, exec (.registerWrite (.host f) (.config .msixControl) l) s = .next t ∧
      (msixOf f.val t).on = bit 15 (natOf l) ∧ (msixOf f.val t).masked = bit 14 (natOf l) ∧
      (msixOf f.val t).table = (msixOf f.val s).table ∧ (∀ g, g ≠ f.val → msixOf g t = msixOf g s) ∧
      t = { s with host := { s.host with msix := t.host.msix, out := t.host.out } }))

/-! ### Resets -/

namespace Sys2Proof.Claims

/-- The permanent area restores no field of the PF's page, which it never holds in a run. -/
def PfPlain (s : State) : Prop :=
  mapGet resetWord s.reeve.perm (regKey (bFunction 0) F.FP_READY.off) = resetWord (regKey (bFunction 0) F.FP_READY.off)

/-- The device is in its reset: no task, job, tally, partition, command or sealing value is left, and the pages of the steward, the
tally file and the mill hold what the permanent area restores, else the reset values (16 R556, R557; 18 R621). -/
def Cleared (s t : State) : Prop :=
  inReset t = true ∧ t.crofts = [] ∧ t.tally = TallyFile.reset ∧ t.mill = Mill.reset ∧ t.parts = [] ∧ t.foldq = [] ∧
  t.host.cmds = [] ∧ t.host.reads = [] ∧ t.host.sealing = [] ∧ t.memsys.keys = [] ∧ t.loLatch = [] ∧ t.hiLatch = [] ∧
  t.lockSince = [] ∧ t.owners = [] ∧
  (∀ b ∈ [bSteward, bTally, bMill], ∀ off, 0x40 ≤ off → off < 4096 → getW b off t = mapGet resetWord s.reeve.perm (regKey b off))

/-- An orderly stop has begun: it is shown, every croft is stopped, each hamlet's grant is its floor, and every entry is in the ledger (15
R513). -/
def StopBegun (cause : Nat) (s t : State) : Prop :=
  t.power.supply = .stopping cause s.time ∧ getF bWell F.WELL_STATE t = 4 ∧ getF bReeve F.RV_STATE t = 4 ∧
  (∀ c < 608, getF (bCroft c) F.SEQ_CTRL_STOP t = 1) ∧
  (∀ h : HamletId, mapGet (fun _ => 0) t.power.grants h.val = mapGet (fun _ => 0) s.power.floors h.val) ∧ t.power.flying = [] ∧
  t.power.sag = none ∧ t.power.under = none ∧ t.power.surge = none ∧ t.reeve.log = []

/-- The rails are off after an orderly stop, and the status outputs are low (15 R513; 19 R652). -/
def Stopped (s t : State) : Prop :=
  t.power.supply = .off ∧ t.power.pwrgd = false ∧ t.power.alertN = false ∧ t.power.phy = false ∧ t.reeve.log = s.reeve.log ∧
  Cleared s t

end Sys2Proof.Claims

/-- DEVICE_RESET of a device that runs: it is cleared with READY 0, the ledger has an entry, what a confidential partition held in tier
1, larders and slices is zero, and every cause but PERST# keeps the trained link unless the device is dead to the host (16
R556, R557; 10 R341, R342). With the link to E0 lost no reset comes over the host link; one through the service port recovers both (01
R30; what recovers the link, log entry 49). PERST# while READY is 0 only holds the PHY (19 R649). RESET_READY ends the reset: READY 1,
and the floors of an activation that took effect rise (16 R557; 17 R592). PERST_DEASSERT trains the link (19 R649). -/
def Sys2Proof.Claims.DeviceResets : Prop :=
  (∀ (c : ResetCause) (s : State), s.power.supply = .on → PfPlain s → c ≠ .perst ∨ inReset s = false →
    c = .perst ∨ c = .service ∨ s.power.e0Lost = false →
    ∃ t, exec (.deviceReset c) s = .next t ∧ Cleared s t ∧ (t.power.supply = .on ∨ t.power.supply = .dead) ∧
      (∃ e l, t.reeve.log = s.reeve.log ++ e :: l ∧ e.kind = 0x02 ∧ e.payload = BitVec.ofNat 224 (resetPay (resetCauseCode c))) ∧
      (∀ p < 8, confidential p s = true → ∀ q, heldPlace p q s = true → rd q t = 0) ∧
      (c = .perst → t.power.perst = true ∧ t.power.phy = false) ∧
      (c ≠ .perst → s.power.e0Lost = false → t.power.supply = .on → ∀ f ∈ linkFields, getF bHostIf f t = getF bHostIf f s) ∧
      (c = .service → t.power.e0Lost = false) ∧
      (c = .service → s.power.e0Lost = true → s.power.phy = true → t.power.supply = .on →
        getF bHostIf F.HI_SPEED t = s.power.link.1 % 16 ∧ getF bHostIf F.HI_WIDTH t = s.power.link.2.1 % 32 ∧
        getF bHostIf F.HI_FLIT t = s.power.link.2.2 % 2) ∧
      (flag bReeve F.RV_PENDING s = false → t.power.supply = .on)) ∧
  (∀ (c : ResetCause) (s : State), s.power.supply = .on → s.power.e0Lost = true → c ≠ .perst → c ≠ .service →
    exec (.deviceReset c) s = .next s) ∧
  (∀ s : State, s.power.supply = .on → inReset s = true →
    exec (.deviceReset .perst) s = .next { s with power := { s.power with perst := true, phy := false } }) ∧
  (∀ s : State, s.power.supply = .on → inReset s = true →
    ∃ t, exec .resetReady s = .next t ∧ inReset t = false ∧ getF bReeve F.RV_STATE t = 2 ∧
      t.power = { s.power with pwrgd := true, alertN := true } ∧
      (∀ d < 4, ∀ f ∈ [F.DIE_LINK_COMMONS, F.DIE_LINK_NEXT, F.DIE_LINK_PREV], getF (bDie d) f t = 1) ∧
      (s.reeve.fw.fresh = true → flag bReeve F.RV_PENDING s = false → s.reeve.fw.floors.length = 6 →
        (∀ i ∈ s.reeve.fw.group, i ∈ imageCodes) →
        t.reeve.fw.fresh = false ∧ ∀ i ∈ s.reeve.fw.group, ∀ x, fwSlot i (byImage s.reeve.fw.running i) s = some x → byImage t.reeve.fw.floors i = hF 0x10 4 x.header) ∧
      (s.reeve.fw.fresh = false → t.reeve = s.reeve) ∧ t.crofts = s.crofts ∧ t.parts = s.parts ∧ t.host = s.host ∧
      SameBytes s t) ∧
  (∀ (speed : BitVec 4) (width : BitVec 5) (flit : Bool) (s : State),
    (s.power.supply = .on → s.power.e0Lost = false →
      ∃ t, exec (.perstDeassert speed width flit) s = .next t ∧
        FieldsAre bHostIf [(F.HI_SPEED, speed.toNat), (F.HI_WIDTH, width.toNat), (F.HI_FLIT, bitOf flit)] s t ∧
        t = { s with regs := t.regs, power := { s.power with
          perst := false, phy := true, link := (speed.toNat, width.toNat, bitOf flit) } }) ∧
    (s.power.supply = .on → s.power.e0Lost = true →
      exec (.perstDeassert speed width flit) s = .next { s with power := { s.power with
        perst := false, phy := true, link := (speed.toNat, width.toNat, bitOf flit) } }) ∧
    (s.power.supply ≠ .on →
      exec (.perstDeassert speed width flit) s = .next { s with power := { s.power with perst := false } }))

/-- After every reset every physical tally is unmapped, at 0 and without a waiter, and every context map is empty (12 R390). The straps are
sampled at power-on, shown by RV_ID and the parity registers, and not again at a device reset (19 R632). -/
def Obligations.TalliesAndStrapsAfterReset : Prop :=
  (∀ q c v, tallyOf q State.reset = Tally.reset ∧ tallyPhys c v State.reset = none) ∧ State.reset.tally.waiters = [] ∧
  (∀ (c : ResetCause) (s : State), s.power.supply = .on → c ≠ .perst ∨ inReset s = false →
    c = .perst ∨ c = .service ∨ s.power.e0Lost = false →
    ∃ t, exec (.deviceReset c) s = .next t ∧ (∀ q k v, tallyOf q t = Tally.reset ∧ tallyPhys k v t = none) ∧
      t.tally.waiters = [] ∧
      (∀ f ∈ [F.RV_SLOT_ID, F.RV_FEED_ID], bits f.lo f.width (mapGet resetWord s.reeve.perm (regKey bReeve f.off)).toNat =
        getF bReeve f s → getF bReeve f t = getF bReeve f s) ∧
      (∀ p : PartId, bits F.ML_PAR_FEED_ID.lo F.ML_PAR_FEED_ID.width
          (mapGet resetWord s.reeve.perm (regKey bMill (F.ML_PAR_FEED_ID.at p.val).off)).toNat = mlF F.ML_PAR_FEED_ID p.val s →
        mlF F.ML_PAR_FEED_ID p.val t = mlF F.ML_PAR_FEED_ID p.val s)) ∧
  (∀ (slot : BitVec 5) (feed : BitVec 4) (modules : List Module) (reads : DieReads) (s : State) (t0 : Nat),
    s.power.supply = .off → s.power.good = some t0 → t0 + 10 ^ 7 ≤ s.time →
    ∃ t, exec (.powerOn slot feed modules reads) s = .next t ∧ (∀ q k v, tallyOf q t = Tally.reset ∧ tallyPhys k v t = none) ∧
      t.tally.waiters = [] ∧ getF bReeve F.RV_SLOT_ID t = slot.toNat ∧ getF bReeve F.RV_FEED_ID t = feed.toNat ∧
      ∀ p : PartId, mlF F.ML_PAR_FEED_ID p.val t = feed.toNat)

/-- From the start of a device reset until READY is set, the host reads 0 in all of BAR0, and nothing that it writes there has any effect
(16 R557; 18 R620). -/
def Obligations.HostHeldInReset : Prop :=
  ∀ (f : FnId) (s : State), inReset s = true →
    (∀ x, hostRead f x s = (0, s)) ∧
    (∀ (x : BitVec 25) (l : List Byte), 1 ≤ l.length → l.length ≤ 512 → exec (.registerWrite (.host f) (.bar0 x) l) s = .next s) ∧
    (∀ (r : RingId) (v : BitVec 32), exec (.crTailWrite f r v) s = .next s ∧ exec (.evHeadWrite f v) s = .next s) ∧
    (∀ (on : Bool) (g : FnId) (r : RingId) (v : BitVec 64) (pg : Page) (m : BitVec 5) (p : PartId),
      ∀ i ∈ [Instr.evEnableWrite (.host f) g on, .ringEnableWrite (.host f) g r on, .lastCommittedWrite (.host f) g v,
          .clearErr (.host f) g, .fnPageClearCounts (.host f) g, .seenClear (.host f) pg m, .blockClearFault (.host f) pg,
          .lockTake (.host f) pg, .lockRelease (.host f) pg, .ownerWrite (.host f) pg p on],
        exec i s = .next s)

/-- POWER_ON, once the bus has been good for 10 ms with the rails off: time restarts, BOOTS counts, the straps are sampled, and the device
is in reset, up with images that pass every check or dead to the host; with every selected image valid it is up with them
and with the modules found (19 R632, R647, R648; 17 R590, R591, R599). The first power-on keeps every monitor's delay (15 R517). -/
def Sys2Proof.Claims.PowerOn : Prop :=
  ∀ (slot : BitVec 5) (feed : BitVec 4) (modules : List Module) (reads : DieReads) (s : State) (t0 : Nat),
    s.power.supply = .off → s.power.good = some t0 → PfPlain s →
    (s.time < t0 + 10 ^ 7 → exec (.powerOn slot feed modules reads) s = .next s) ∧
    (t0 + 10 ^ 7 ≤ s.time →
      let old (f : Field) : Nat := bits f.lo f.width (mapGet resetWord s.reeve.perm (regKey bReeve f.off)).toNat
      let sel := s.reeve.fw.selected
      ∃ t, exec (.powerOn slot feed modules reads) s = .next t ∧ inReset t = true ∧ t.time = 0 ∧ t.crofts = [] ∧
        t.tally = TallyFile.reset ∧ t.mill = Mill.reset ∧ t.parts = [] ∧ t.host.cmds = [] ∧ t.host.sealing = [] ∧
        getF bReeve F.RV_BOOTS t = (old F.RV_BOOTS + 1) % 2 ^ 32 ∧ getF bReeve F.RV_SLOT_ID t = slot.toNat ∧
        getF bReeve F.RV_FEED_ID t = feed.toNat ∧
        t.reeve.baseline = some (s.reeve.baseline.getD (reads.delays.map BitVec.toNat)) ∧
        ((t.power.supply = .on ∧ getF bReeve F.RV_STATE t = 1 ∧ t.memsys.modules = modules ∧
            ∀ i ∈ imageCodes, failedCheck i (byImage t.reeve.fw.running i) (some t.reeve.fw.running) t = none) ∨
          (t.power.supply = .dead ∧ getF bReeve F.RV_STATE t = 3)) ∧
        ((∀ i ∈ imageCodes, failedCheck i (byImage sel i) (some sel) { s with regs := s.reeve.perm } = none) →
          t.power.supply = .on ∧ t.reeve.fw.running = sel))

/-- DEVICE_RESET, RESET_READY, PERST_DEASSERT and POWER_ON. -/
def Obligations.Resets : Prop := Claims.DeviceResets ∧ Claims.PowerOn

/-! ### SPDM -/

namespace Sys2Proof.Claims

/-- The responder has answered with a code and a body, or, the body being longer than one message takes, with the error LargeResponse
and the response kept for CHUNK_GET; the connection is `d` but for that, and the rest of the device is as before (16 R562;
codes of the SPDM standard: log entry 28). -/
def Replies (fn code : Nat) (body : List Byte) (d : Spdm) (s t : State) : Prop :=
  (if body.length ≤ 4096 then
    t.host.out = s.host.out ++ [.spdm fn code body] ∧ spdmOf fn t = { d with transcript := d.transcript + 1 }
  else
    t.host.out = s.host.out ++ [.spdm fn 0x7F [0x0F]] ∧
      spdmOf fn t = { d with transcript := d.transcript + 1, largeOut := BitVec.ofNat 8 code :: body }) ∧
  (∀ g, g ≠ fn → spdmOf g t = spdmOf g s) ∧
  t = { s with host := { s.host with out := t.host.out, spdm := t.host.spdm } }

/-- A request before its time has the answer UnexpectedRequest and no other effect. -/
def Early (fn : FnId) (ready : Spdm → Bool) (i : Instr) (s : State) : Prop :=
  ready (spdmOf fn.val s) = false → ∃ t, exec i s = .next t ∧ Replies fn.val 0x7F [0x04] (spdmOf fn.val s) s t

/-- A session of a VF has ended: neither it nor a sealing value is left (16 R564). -/
def SessionOver (fn : Nat) (s t : State) : Prop :=
  (spdmOf fn t).session = none ∧ (spdmOf fn t).handshake = none ∧ sealOf fn t = none ∧
  (hasKeys fn s = true → getF (bFunction fn) F.FP_KEYS_LIVE t = 0) ∧ (∀ g, g ≠ fn → spdmOf g t = spdmOf g s ∧ sealOf g t = sealOf g s) ∧
  t.host.cmds = s.host.cmds ∧ t.crofts = s.crofts ∧ OnlyRequests s t ∧ t.tally = s.tally ∧ t.mill = s.mill ∧ SameDeviceBytes s t

/-- The block of an index in a MEASUREMENTS response. -/
def measured (i : Nat) (s : State) : List Byte :=
  match measurement i s with
  | some m => BitVec.ofNat 8 i :: m
  | none => []

end Sys2Proof.Claims

/-- The SPDM connection: GET_VERSION starts it with version 1.3, GET_CAPABILITIES and NEGOTIATE_ALGORITHMS open it, and then
GET_DIGESTS, GET_CERTIFICATE, CHALLENGE and GET_MEASUREMENTS answer for slot 0 and for the images as they run, SHA-384 over header
and body (16 R562; 17 R586; codes, layouts and order: log entry 28). -/
def Sys2Proof.Claims.SpdmConnection : Prop :=
  ∀ (fn : FnId) (s : State), spdmUp fn.val s = true →
    let d := spdmOf fn.val s
    (∃ t, exec (.getVersion fn) s = .next t ∧ Replies fn.val 0x04 [0x00, 0x01, 0x00, 0x13] { d with
      version := true, caps := false, algs := false, handshake := none, chunks := [], largeOut := [] } s t) ∧
    (d.version = true → ∃ t, exec (.getCapabilities fn) s = .next t ∧ Replies fn.val 0x61
      (bytesOf 4 0x262D6 ++ bytesOf 4 4096 ++ bytesOf 4 65536) { d with caps := true } s t) ∧
    Early fn (fun d => d.version) (.getCapabilities fn) s ∧
    (d.version = true → d.caps = true →
      (∃ t, exec (.negotiateAlgorithms fn true) s = .next t ∧ Replies fn.val 0x63
        (bytesOf 4 128 ++ bytesOf 4 2 ++ bytesOf 2 16 ++ bytesOf 2 2 ++ bytesOf 2 1) { d with algs := true } s t) ∧
      (∃ t, exec (.negotiateAlgorithms fn false) s = .next t ∧ Replies fn.val 0x7F [0x01] d s t)) ∧
    (∀ o, Early fn (fun d => d.version && d.caps) (.negotiateAlgorithms fn o) s) ∧
    (d.version = true → d.caps = true → d.algs = true →
      (∃ t, exec (.getDigests fn) s = .next t ∧
        Replies fn.val 0x01 (1 :: sha384 Config.certChain) d s t) ∧
      (∀ off len : BitVec 16, ∃ t, exec (.getCertificate fn 0 off len) s = .next t ∧
        Replies fn.val 0x02 ((Config.certChain.drop off.toNat).take len.toNat) d s t) ∧
      (∀ (k : BitVec 4) (off len : BitVec 16), k ≠ 0 → ∃ t, exec (.getCertificate fn k off len) s = .next t ∧
        Replies fn.val 0x7F [0x01] d s t) ∧
      (∀ nonce : BitVec 256, ∃ t, exec (.challenge fn 0 nonce) s = .next t ∧
        Replies fn.val 0x03 (Config.sign (sha384 (bytesOf 32 nonce.toNat)) d.transcript) d s t) ∧
      (∀ (k : BitVec 4) (nonce : BitVec 256), k ≠ 0 → ∃ t, exec (.challenge fn k nonce) s = .next t ∧
        Replies fn.val 0x7F [0x01] d s t) ∧
      (∃ t, exec (.getMeasurements fn 0) s = .next t ∧ Replies fn.val 0x60 [7] d s t) ∧
      (∃ t, exec (.getMeasurements fn 0xFF) s = .next t ∧ Replies fn.val 0x60
        (measured 1 s ++ measured 2 s ++ measured 3 s ++ measured 4 s ++ measured 5 s ++ measured 6 s ++ measured 0x10 s) d s t) ∧
      (∀ x : BitVec 8, x ≠ 0 → x ≠ 0xFF → ∃ t, exec (.getMeasurements fn x) s = .next t ∧
        (measurement x.toNat s ≠ none → Replies fn.val 0x60 (measured x.toNat s) d s t) ∧
        (measurement x.toNat s = none → Replies fn.val 0x7F [0x01] d s t))) ∧
    (∀ i ∈ [Instr.getDigests fn, .getCertificate fn 0 0 0, .challenge fn 0 0, .getMeasurements fn 0], Early fn Spdm.open_ i s)

/-- The SPDM session of a VF: KEY_EXCHANGE opens the handshake of its one session, FINISH establishes it, HEARTBEAT and KEY_UPDATE keep
it, KEY_COMMIT puts the sealing values derived from its secret into use, the same each time, with every counter at 0 while no ring is
enabled, END_SESSION and a lost heartbeat end it with the sealing values; CHUNK_SEND and CHUNK_GET carry large messages, and a
request whose last part has come is carried out (16 R562 to R564; codes, layouts, order and the heartbeat's two periods: log
entry 28). -/
def Sys2Proof.Claims.SpdmSessions : Prop :=
  ∀ (fn : FnId) (s : State),
    let d := spdmOf fn.val s
    (spdmUp fn.val s = true →
      (∀ peer : List Byte, Spdm.open_ d = true →
        (fn.val = 0 → ∃ t, exec (.keyExchange fn peer) s = .next t ∧ Replies fn.val 0x7F [0x07] d s t) ∧
        (fn.val ≠ 0 → d.session ≠ none → ∃ t, exec (.keyExchange fn peer) s = .next t ∧ Replies fn.val 0x7F [0x0A] d s t) ∧
        (fn.val ≠ 0 → d.session = none → ∃ t, exec (.keyExchange fn peer) s = .next t ∧
          Replies fn.val 0x64 (Config.sign (sha384 peer) d.transcript)
            { d with handshake := some (Config.sessionSecret fn.val s.free peer) } { s with free := s.free + 1 } t)) ∧
      (∀ (k : Nat) (mac : List Byte), d.handshake = some k →
        (mac = Config.finishMac k → ∃ t, exec (.finish fn mac) s = .next t ∧
          Replies fn.val 0x65 [] { d with handshake := none, session := some k, heartbeat := s.time, keyGen := 0 } s t) ∧
        (mac ≠ Config.finishMac k → ∃ t, exec (.finish fn mac) s = .next t ∧
          Replies fn.val 0x7F [0x06] { d with handshake := none } s t)) ∧
      (d.session ≠ none →
        (∃ t, exec (.heartbeat fn) s = .next t ∧ Replies fn.val 0x68 [] { d with heartbeat := s.time } s t) ∧
        (∃ t, exec (.keyUpdate fn) s = .next t ∧
          Replies fn.val 0x69 [] { d with heartbeat := s.time, keyGen := d.keyGen + 1 } s t) ∧
        (∃ t, exec (.endSession fn) s = .next t ∧ SessionOver fn.val s t ∧
          (s.host.out ++ [.spdm fn.val 0x6C []]) <+: t.host.out) ∧
        (∀ k, d.session = some k → ringsOn (bFunction fn.val) s = false → ∃ t, exec (.keyCommit fn true 1) s = .next t ∧
          sealOf fn.val t = some ⟨sealKey (Config.exportSecret k) "h2d", sealKey (Config.exportSecret k) "d2h", [], 0⟩ ∧
          FieldsAre (bFunction fn.val) [(F.FP_KEYS_LIVE, 1)] s t ∧
          ringOf fn.val t = { ringOf fn.val s with sealed := 0 } ∧ t.host.out = s.host.out ++ [.spdm fn.val 0x7E [1]] ∧
          (∀ g, g ≠ fn.val → sealOf g t = sealOf g s ∧ ringOf g t = ringOf g s) ∧ t = { s with regs := t.regs, host := t.host }) ∧
        (ringsOn (bFunction fn.val) s = true → ∃ t, exec (.keyCommit fn true 1) s = .next t ∧ Replies fn.val 0x7F [0x01] d s t) ∧
        (∀ (v : Bool) (x : BitVec 8), v = false ∨ x ≠ 1 →
          ∃ t, exec (.keyCommit fn v x) s = .next t ∧ Replies fn.val 0x7F [0x07] d s t)) ∧
      (∀ i ∈ [Instr.heartbeat fn, .keyUpdate fn, .endSession fn, .keyCommit fn true 1], Early fn (fun d => d.session.isSome) i s) ∧
      (d.version = true → d.caps = true → ∀ l : List Byte,
        (∃ t, exec (.chunkSend fn l false) s = .next t ∧
          Replies fn.val 0x05 [BitVec.ofNat 8 d.chunks.length] { d with chunks := d.chunks ++ [l] } s t) ∧
        (let m := d.chunks.flatten ++ l
         let n : Byte := BitVec.ofNat 8 d.chunks.length
         let e := { d with chunks := [], transcript := d.transcript + 1 }
         (leAt m 1 1 = 0x81 → d.algs = true → ∃ t, exec (.chunkSend fn l true) s = .next t ∧
           Replies fn.val 0x05 (n :: 0x01 :: 1 :: sha384 Config.certChain) e s t) ∧
         (leAt m 1 1 = 0xE8 → d.session ≠ none → ∃ t, exec (.chunkSend fn l true) s = .next t ∧
           Replies fn.val 0x05 [n, 0x68] { e with heartbeat := s.time } s t) ∧
         (leAt m 1 1 = 0 → ∃ t, exec (.chunkSend fn l true) s = .next t ∧ Replies fn.val 0x05 [n, 0x7F, 0x07] e s t))) ∧
      (d.largeOut ≠ [] → ∃ t, exec (.chunkGet fn) s = .next t ∧
        Replies fn.val 0x06 (d.largeOut.take 4096) { d with largeOut := d.largeOut.drop 4096 } s t)) ∧
    (d.session ≠ none → d.heartbeat + 20000000000 ≤ s.time →
      ∃ t, exec (.heartbeatLost fn) s = .next t ∧ SessionOver fn.val s t)

/-- The SPDM responder on a function's mailbox. -/
def Obligations.Spdm : Prop := Claims.SpdmConnection ∧ Claims.SpdmSessions

/-! ### The service port -/

namespace Sys2Proof.Claims

/-- A message has gone out on the service port, and nothing else has changed. -/
def PortSays (code : Nat) (body : List Byte) (s t : State) : Prop :=
  t = { s with host := { s.host with out := s.host.out ++ [.mctp code body] } }

/-- The numeric sensors that hold registers: identifier, bytes of the reading, value (17 R576). -/
def sensors (s : State) : List (Nat × Nat × Nat) :=
  [(0x0001, 2, getF bWell F.WELL_BUS_V s), (0x0002, 2, getF bWell F.WELL_BUS_I s),
   (0x0003, 2, getF bWell F.WELL_BUS_V s * getF bWell F.WELL_BUS_I s / 400), (0x0004, 2, getF bWell F.WELL_PBAR_W s),
   (0x0005, 4, getPair bWell F.WELL_ENERGY_LO F.WELL_ENERGY_HI s / 1000), (0x0010, 1, getF bThermal F.TH_HOTTEST s),
   (0x0030, 1, if getF bThermal F.TH_STALE s = 1 then 45 else getF bThermal F.TH_T_IN s), (0x0040, 1, getF bReeve F.RV_STATE s),
   (0x0041, 1, getF bDevice F.DEV_FREE_SPARES s), (0x0042, 4, getF bRepair F.REP_RETIRED s)] ++
  ((List.range 16).map fun h => (0x0011 + h, 1, getF (bHbm h) F.HB_TEMP s)) ++
  ((List.range 12).map fun c => (0x0021 + c, 1, getF (bDdr c) F.MC_TEMP s))

/-- An MCTP control message is answered, and nothing else has changed. -/
def Controls (code : Nat) (body : List Byte) (s t : State) : Prop :=
  t = { s with host := { s.host with out := s.host.out ++ [.control code body] } }

/-- The effecters: identifier and setting (17 R576). -/
def effecters (s : State) : List (Nat × Nat) :=
  [(0x0101, getF bWell F.WELL_CAP_W s), (0x0102, 0), (0x0103, getF bThermal F.TH_REPLAN_REQ s),
   (0x0104, getF bReeve F.RV_COOLANT_SENSOR s)]

/-- The repository has one record for every sensor and effecter, and no other, and gives each by its handle (17 R576; bytes and unit codes:
log entry 29). -/
def RepositoryServed (s : State) : Prop :=
  (∀ id, (pdrs.filter fun r => r.id == id).length = if (∃ e ∈ sensors s, e.1 = id) ∨ (0x2D ≤ id ∧ id ≤ 0x2F) ∨
    (∃ e ∈ effecters s, e.1 = id) then 1 else 0) ∧
  (∃ t, exec (.getSensorReading .pdrInfo) s = .next t ∧ PortSays 0x250 ([0, 0] ++ bytesOf 4 pdrs.length) s t) ∧
  (∀ (h : BitVec 32) (r : Pdr), pdrs[max 1 h.toNat - 1]? = some r → ∃ t, exec (.getSensorReading (.pdr h)) s = .next t ∧
    PortSays 0x251 ([0] ++ bytesOf 4 (if max 1 h.toNat < pdrs.length then max 1 h.toNat + 1 else 0) ++
      bytesOf 4 (max 1 h.toNat) ++ pdrBytes r) s t) ∧
  (∀ h : BitVec 32, pdrs.length < h.toNat → ∃ t, exec (.getSensorReading (.pdr h)) s = .next t ∧ PortSays 0x251 [0x82] s t)

/-- The base commands of PLDM and the control messages of MCTP are answered (17 R575; codes: log entry 29). -/
def BaseServed (s : State) : Prop :=
  (∀ e : BitVec 8, ∃ t, exec (.setEndpointId (.setEid e)) s = .next t ∧
    Controls 0x01 [0, 0, e, 0] { s with reeve := { s.reeve with eid := e.toNat } } t) ∧
  (∃ t, exec (.setEndpointId .getEid) s = .next t ∧ Controls 0x02 [0, BitVec.ofNat 8 s.reeve.eid, 0, 0] s t) ∧
  (∃ t, exec (.setEndpointId .getVersion) s = .next t ∧ Controls 0x04 [0, 1, 0xF1, 0xF0, 0xFF, 0] s t) ∧
  (∃ t, exec (.setEndpointId .getTypes) s = .next t ∧ Controls 0x05 [0, 1, 1] s t) ∧
  (∀ e : BitVec 8, ∃ t, exec (.getSensorReading (.setTid e)) s = .next t ∧
    PortSays 0x001 [0] { s with reeve := { s.reeve with tid := e.toNat } } t) ∧
  (∃ t, exec (.getSensorReading .getTid) s = .next t ∧ PortSays 0x002 [0, BitVec.ofNat 8 s.reeve.tid] s t) ∧
  (∃ t, exec (.getSensorReading .getTypes) s = .next t ∧ PortSays 0x004 (0 :: bytesOf 8 (1 + 4 + 32 + 2 ^ 63)) s t) ∧
  (∀ e : BitVec 8, e.toNat ∈ [0, 2, 5, 0x3F] →
    (∃ t, exec (.getSensorReading (.getVersion e)) s = .next t ∧
      PortSays 0x003 ([0] ++ bytesOf 4 0 ++ [5, 0, 0xF0, 0xF0, 0xF1]) s t) ∧
    ∃ t, exec (.getSensorReading (.getCommands e)) s = .next t ∧
      PortSays 0x005 (0 :: bytesOf 32 ((pldmCommands e.toNat).map fun i => 2 ^ i).sum) s t) ∧
  (∀ e : BitVec 8, e.toNat ∉ [0, 2, 5, 0x3F] →
    (∃ t, exec (.getSensorReading (.getVersion e)) s = .next t ∧ PortSays 0x003 [0x83] s t) ∧
    ∃ t, exec (.getSensorReading (.getCommands e)) s = .next t ∧ PortSays 0x005 [0x83] s t)

end Sys2Proof.Claims

/-- The service port while the device runs: addresses are taken, sensors and effecters give their registers' values, the repository its
records, the base commands their answers, and effecters write CAP_W, REPLAN_REQ and COOLANT_SENSOR or reset the device (17 R575 to
R579; codes and widths, and the readings without a register: log entry 29). -/
def Obligations.ServicePort : Prop :=
  ∀ s : State, s.power.supply = .on → s.reeve.restart = none →
    Claims.BaseServed s ∧ Claims.RepositoryServed s ∧
    (∀ e ∈ effecters s, ∃ t, exec (.getSensorReading (.effecter (BitVec.ofNat 16 e.1))) s = .next t ∧
      PortSays 0x232 (0 :: bytesOf 2 e.2) s t) ∧
    (∀ id : BitVec 16, (∀ e ∈ effecters s, id.toNat ≠ e.1) →
      ∃ t, exec (.getSensorReading (.effecter id)) s = .next t ∧ PortSays 0x232 [0x80] s t) ∧
    (∀ a : BitVec 7, exec (.i3cAddressAssign (some a)) s = .next { s with reeve := { s.reeve with i3c := some a.toNat } }) ∧
    (exec (.i3cAddressAssign none) s =
      .next { s with reeve := { s.reeve with i3c := some (0x40 + getF bReeve F.RV_SLOT_ID s) } }) ∧
    (∀ e ∈ sensors s, ∃ t, exec (.getSensorReading (.sensor (BitVec.ofNat 16 e.1))) s = .next t ∧
      PortSays 0x211 (0 :: bytesOf e.2.1 e.2.2) s t) ∧
    (∀ id : BitVec 16, 0x2D ≤ id.toNat → id.toNat ≤ 0x2F → ∃ t v, exec (.getSensorReading (.sensor id)) s = .next t ∧
      PortSays 0x211 [0, v] { s with free := s.free + 1 } t) ∧
    (∀ id : BitVec 16, (∀ e ∈ sensors s, id.toNat ≠ e.1) → id.toNat < 0x2D ∨ 0x2F < id.toNat →
      ∃ t, exec (.getSensorReading (.sensor id)) s = .next t ∧ PortSays 0x211 [0x80] s t) ∧
    (∀ v : BitVec 16, NotLocked .reeve bWell s → ∃ t, exec (.capEffecterWrite v) s = .next t ∧
      FieldsAre bWell [(F.WELL_CAP_W, v.toNat)] s t ∧ PortSays 0x231 [0] { s with regs := t.regs } t) ∧
    (∀ v : BitVec 16, v ≠ 1 ∨ getF bReeve F.RV_STATE s ≠ 2 →
      ∃ t, exec (.resetEffecterWrite v) s = .next t ∧ PortSays 0x231 [0x80] s t) ∧
    (getF bReeve F.RV_STATE s = 2 → PfPlain s → ∃ t u, exec (.resetEffecterWrite 1) s = .next t ∧ PortSays 0x231 [0] s u ∧
      exec (.deviceReset .service) u = .next t ∧ Cleared s t) ∧
    (NotLocked .reeve bThermal s → ∃ t, exec (.replanEffecterWrite 1) s = .next t ∧ t.power = { s.power with replan := true } ∧
      FieldsAre bThermal [(F.TH_REPLAN_REQ, 1)] s t ∧ PortSays 0x231 [0] { s with regs := t.regs, power := t.power } t) ∧
    (∀ v : BitVec 16, v ≠ 1 → ∃ t, exec (.replanEffecterWrite v) s = .next t ∧ PortSays 0x231 [0x80] s t) ∧
    (∀ v : BitVec 16, ∃ t, exec (.coolantSensorWrite v) s = .next t ∧ FieldsAre bReeve [(F.RV_COOLANT_SENSOR, v.toNat)] s t ∧
      bits F.RV_COOLANT_SENSOR.lo F.RV_COOLANT_SENSOR.width
        (mapGet resetWord t.reeve.perm (regKey bReeve F.RV_COOLANT_SENSOR.off)).toNat = v.toNat ∧
      PortSays 0x231 [0] { s with regs := t.regs, reeve := { s.reeve with perm := t.reeve.perm } } t)

/-- Firmware updates: REQUEST_UPDATE begins one and withdraws an activation that waits; UPDATE_COMPONENT takes the images in their order;
a transferred component lies in the slot not selected, staged when every check passes and shown in FW_FAULT otherwise;
ACTIVATE_FIRMWARE selects a compatible staged set for the next reset, and changes nothing otherwise (17 R589, R594 to R598;
codes: log entry 29). -/
def Obligations.FirmwareUpdates : Prop :=
  ∀ s : State, s.power.supply = .on → s.reeve.restart = none →
    let f := s.reeve.fw
    (∃ t, exec .requestUpdate s = .next t ∧ t.reeve.fw.updating = true ∧ t.reeve.fw.staged = [] ∧ t.reeve.fw.current = 0 ∧
      t.reeve.fw.last = 0 ∧ t.reeve.fw.slots = f.slots ∧
      (getF bReeve F.RV_PENDING s = 1 → t.reeve.fw.selected = f.running ∧ t.reeve.fw.group = f.groupBefore) ∧
      (getF bReeve F.RV_PENDING s = 0 → t.reeve.fw.selected = f.selected ∧ t.reeve.fw.group = f.group) ∧
      FieldsAre bReeve [(F.RV_UPDATING, 1), (F.RV_PENDING, 0)] s t ∧
      PortSays 0x510 [0] { s with regs := t.regs, reeve := { s.reeve with fw := t.reeve.fw } } t) ∧
    (∀ code : BitVec 16,
      (f.updating = false → ∃ t, exec (.updateComponent code) s = .next t ∧ PortSays 0x514 [0x81] s t) ∧
      (f.updating = true → code.toNat ∈ imageCodes → f.last < 7 - code.toNat →
        ∃ t, exec (.updateComponent code) s = .next t ∧
          PortSays 0x514 [0, 0, 0] { s with reeve := { s.reeve with
            fw := { f with current := code.toNat, last := 7 - code.toNat } } } t) ∧
      (f.updating = true → code.toNat ∉ imageCodes ∨ 7 - code.toNat ≤ f.last →
        ∃ t, exec (.updateComponent code) s = .next t ∧ PortSays 0x514 [0, 1, 0xD0] s t)) ∧
    (∀ (h : Flit) (body : List Byte) (slotB : Bool), f.current ∈ imageCodes →
      let i := f.current
      let b := 1 - byImage f.selected i
      ∃ t, exec (.componentTransferDone h body slotB) s = .next t ∧ fwSlot i b t = some ⟨h, body⟩ ∧
        (∀ j c, c < 2 → (j ≠ i ∨ c ≠ b) → fwSlot j c t = fwSlot j c s) ∧ t.reeve.fw.current = 0 ∧
        t.reeve.fw.selected = f.selected ∧ t.reeve.fw.running = f.running ∧
        (failedCheck i b none t = none → 2 * i + b ∈ t.reeve.fw.staged ∧ t.regs = s.regs) ∧
        (∀ c, failedCheck i b none t = some c → 2 * i + b ∉ t.reeve.fw.staged ∧
          FieldsAre bReeve [(F.RV_FW_CHECK, c), (F.RV_FW_IMAGE, i), (F.RV_FW_SLOT, b),
            (F.RV_FW_CHECK_FAILS, min (getF bReeve F.RV_FW_CHECK_FAILS s + 1) (2 ^ 32 - 1))] s t) ∧
        t.crofts = s.crofts ∧ t.mem = s.mem ∧ t.power = s.power) ∧
    (f.updating = false ∨ f.staged = [] → ∃ t, exec .activateFirmware s = .next t ∧ PortSays 0x51A [0x81] s t) ∧
    (f.updating = true → f.staged ≠ [] →
      let set := f.staged.foldl (fun l k => putImage l (k / 2) (k % 2)) f.selected
      (compatible set s = false → ∃ t, exec .activateFirmware s = .next t ∧ PortSays 0x51A [0x86] s t) ∧
      (compatible set s = true → ∃ t, exec .activateFirmware s = .next t ∧ t.reeve.fw.selected = set ∧
        t.reeve.fw.running = f.running ∧ t.reeve.fw.fresh = true ∧ t.reeve.fw.staged = [] ∧ t.reeve.fw.updating = false ∧
        (∀ i, i ∈ t.reeve.fw.group ↔ ∃ k ∈ f.staged, k / 2 = i) ∧
        FieldsAre bReeve [(F.RV_UPDATING, 0), (F.RV_PENDING, 1)] s t ∧ t.power = s.power ∧ t.crofts = s.crofts ∧ t.mem = s.mem))

/-- On the first READY after an activation the floor of each image of the activation group becomes that image's SVN, the revocations it names
are added, and the journal has an entry for each with both (17 R592; its layout: log entry 11). A RequestUpdate while PENDING is 1 clears PENDING and returns
the selection to the slots that ran at the last start-up (17 R598). -/
def Obligations.ActivationsTakenAndWithdrawn : Prop :=
  (∀ s : State, s.power.supply = .on → inReset s = true → s.reeve.fw.fresh = true → getF bReeve F.RV_PENDING s = 0 →
    s.reeve.fw.floors.length = 6 → (∀ i ∈ s.reeve.fw.group, i ∈ imageCodes) →
    ∃ t l, exec .resetReady s = .next t ∧ inReset t = false ∧ t.reeve.fw.fresh = false ∧ t.reeve.log = s.reeve.log ++ l ∧
      ∀ i ∈ s.reeve.fw.group, ∀ x, fwSlot i (byImage s.reeve.fw.running i) s = some x →
        byImage t.reeve.fw.floors i = hF 0x10 4 x.header ∧
        (∀ n < 4, (hF 0x0B 1 x.header).testBit n = true → t.reeve.fw.revoked.testBit n = true) ∧
        ∃ e ∈ l, e.kind = 0x0F ∧ e.payload = BitVec.ofNat 224 (5 + i * 2 ^ 8 + byImage s.reeve.fw.running i * 2 ^ 16 +
          hF 0x0C 4 x.header * 2 ^ 32 + hF 0x10 4 x.header * 2 ^ 64 + hF 0x0B 1 x.header % 16 * 2 ^ 96)) ∧
  (∀ s : State, serviceUp s = true → getF bReeve F.RV_PENDING s = 1 →
    ∃ t, exec .requestUpdate s = .next t ∧ getF bReeve F.RV_PENDING t = 0 ∧ t.reeve.fw.selected = s.reeve.fw.running ∧
      t.reeve.fw.slots = s.reeve.fw.slots ∧ t.reeve.fw.running = s.reeve.fw.running)

/-! ### The reeve and the ledger -/

/-- LOCKSTEP_MISMATCH: the reeve restarts, and a reading asked for before is not taken; the third mismatch within an hour begins an orderly
stop, its ledger committed, at whose end the device is dead to the host. REEVE_RESTART_DONE: the reeve starts from its ROM with a
valid, compatible set of images, else the device is dead to the host; its locks are free, and the mismatch is on record (17
R572 to R574, R590, R591, R599; 18 R615). -/
def Obligations.ReeveLockstep : Prop :=
  ∀ s : State,
    (s.power.supply = .on →
      let recent := s.reeve.mismatches.filter fun t => decide (s.time < t + 3600 * 10 ^ 9)
      (recent.length < 2 → ∃ t, exec .lockstepMismatch s = .next t ∧ t.reeve.restart = some s.time ∧
        t.reeve.mismatches = s.time :: recent ∧ t.reeve.fw.staged = [] ∧ t.reeve.fw.updating = false ∧
        FieldsAre bReeve [(F.RV_STATE, 0), (F.RV_UPDATING, 0)] s t ∧
        t = { s with regs := t.regs, reeve := { s.reeve with
          restart := t.reeve.restart, mismatches := t.reeve.mismatches, fw := t.reeve.fw, coolAsked := none } }) ∧
      (2 ≤ recent.length → ∃ t, exec .lockstepMismatch s = .next t ∧ StopBegun 4 s t ∧ t.reeve.restart = none ∧
        t.reeve.mismatches = [])) ∧
    (∀ cause since, s.pending = [] → s.power.supply = .stopping cause since → since + 400000 ≤ s.time + 1 → PfPlain s →
      ∃ t, step s = .next t ∧ (cause ≠ 4 → Stopped s t) ∧
        (cause = 4 → t.power.supply = .dead ∧ getF bReeve F.RV_STATE t = 3 ∧ t.reeve.log = s.reeve.log ∧ Cleared s t)) ∧
    (∀ t0, s.power.supply = .on → s.reeve.restart = some t0 → PfPlain s →
      (chooseSet { s with reeve := { s.reeve with restart := none } }).1 = false →
      ∃ t, exec .reeveRestartDone s = .next t ∧ t.reeve.restart = none ∧ t.power.supply = .dead ∧ getF bReeve F.RV_STATE t = 3 ∧
        Cleared s t ∧ ∃ l e, t.reeve.log = s.reeve.log ++ l ++ [e] ∧ e.kind = 0x0E) ∧
    (∀ t0, s.power.supply = .on → s.reeve.restart = some t0 →
      (chooseSet { s with reeve := { s.reeve with restart := none } }).1 = true → ∃ t, exec .reeveRestartDone s = .next t ∧
      t.reeve.restart = none ∧ getF bReeve F.RV_STATE t = (if inReset s then 1 else 2) ∧
      t.reeve.fw.running = putImage s.reeve.fw.running 1 (byImage t.reeve.fw.selected 1) ∧
      (∀ i ∈ imageCodes, failedCheck i (byImage t.reeve.fw.selected i) (some t.reeve.fw.selected) t = none) ∧
      (∀ e ∈ s.lockSince, getF e.1 F.BLK_HOLDER s = 2 → getF e.1 F.BLK_HOLDER t = 0) ∧
      (∀ b, getF b F.BLK_HOLDER s ≠ 2 → getF b F.BLK_HOLDER t = getF b F.BLK_HOLDER s) ∧
      (∃ l e, t.reeve.log = s.reeve.log ++ l ++ [e] ∧ e.kind = 0x0E) ∧ t.crofts = s.crofts ∧ t.mem = s.mem ∧ t.power = s.power)

/-- JOURNAL_COMMIT: the oldest entry that waits gets the next sequence number and stands last in the journal, at most 256 of its kind in a
second, and the rest count as suppressed; a warning or a failure goes out on the service port (17 R580; the message: log entry 29).
SUPPRESSION_SECOND_END writes one entry of kind 0x10 for each kind held back.
LG_SELECT shows the entry it names, or LG_GONE, and READ_LEDGER gives the entries held from a sequence number on, consecutive
and at most as many as asked for, after the enterprise number (17 R575, R583 to R585; which number: log entry 29). -/
def Obligations.LedgerCommits : Prop :=
  ∀ s : State,
    (∀ e r, s.reeve.log = e :: r → s.reeve.restart = none →
      let n := mapGet (fun _ => 0) s.reeve.kindCount e.kind
      (e.kind = 0x10 ∨ n < 256 → ∃ t, exec .journalCommit s = .next t ∧ t.reeve.log = r ∧
        t.reeve.nextSeq = s.reeve.nextSeq + 1 ∧
        t.reeve.journal = (if 4194304 ≤ s.reeve.journal.length then s.reeve.journal.drop 1024 else s.reeve.journal) ++
          [{ e with seq := s.reeve.nextSeq }] ∧
        getPair bReeve F.RV_LG_NEWEST_LO F.RV_LG_NEWEST_HI t = s.reeve.nextSeq % 2 ^ 64 ∧
        (e.kind ≠ 0x10 → mapGet (fun _ => 0) t.reeve.kindCount e.kind = n + 1) ∧
        (e.severity < 2 → t.host = s.host) ∧
        (2 ≤ e.severity → t.host.out = s.host.out ++ [.mctp 0x20A ([1, BitVec.ofNat 8 s.reeve.tid, Config.eventClass] ++
          entryBytes { e with seq := s.reeve.nextSeq })]) ∧
        t.crofts = s.crofts ∧ t.mem = s.mem ∧ t.power = s.power) ∧
      (e.kind ≠ 0x10 → 256 ≤ n → ∃ t, exec .journalCommit s = .next t ∧
        mapGet (fun _ => 0) t.reeve.suppressed e.kind = mapGet (fun _ => 0) s.reeve.suppressed e.kind + 1 ∧
        t = { s with reeve := { s.reeve with log := r, suppressed := t.reeve.suppressed } })) ∧
    (s.reeve.second + 10 ^ 9 ≤ s.time → ∃ t, exec .suppressionSecondEnd s = .next t ∧ t.reeve.second = s.time ∧
      t.reeve.suppressed = [] ∧ t.reeve.kindCount = [] ∧ t.reeve.log = s.reeve.log ∧
      t.reeve.nextSeq = s.reeve.nextSeq + s.reeve.suppressed.length ∧
      getF bReeve F.RV_LG_SUPPRESSED t =
        min (getF bReeve F.RV_LG_SUPPRESSED s + (s.reeve.suppressed.map Prod.snd).sum) (2 ^ 32 - 1) ∧
      (s.reeve.journal.length + s.reeve.suppressed.length ≤ 4194304 →
        ∃ l, t.reeve.journal = s.reeve.journal ++ l ∧ (∀ e ∈ l, e.kind = 0x10) ∧
          l.map (fun e => e.payload) = s.reeve.suppressed.map fun e => BitVec.ofNat 224 (e.1 + e.2 * 2 ^ 16)) ∧
      t.crofts = s.crofts ∧ t.mem = s.mem ∧ t.power = s.power) ∧
    (∀ (who : Requester) (seq : BitVec 64), keeper who → Reaches who bReeve s → Unlocked who bReeve s →
      ∃ t, exec (.lgSelectWrite who seq) s = .next t ∧ getPair bReeve F.RV_LG_SELECT_LO F.RV_LG_SELECT_HI t = seq.toNat ∧
        getF bReeve F.RV_LG_GONE t = bitOf (entryOf seq.toNat s).isNone ∧
        (∀ i < 16, getF bReeve (F.RV_LG_DATA.at i) t =
          (match entryOf seq.toNat s with | some e => natOf (((entryBytes e).drop (4 * i)).take 4) | none => 0)) ∧
        OnlyRegs (regKey bReeve F.RV_LG_GONE.off :: (words 0x78 0xBC).map (regKey bReeve)) s { t with loLatch := s.loLatch }) ∧
    (∀ (seq : BitVec 64) (n : Fin 17), s.power.supply = .on → s.reeve.restart = none →
      ∃ (t : State) (l : List JEntry), exec (.readLedger seq n) s = .next t ∧ l.length ≤ n.val ∧
        (∀ i (h : i < l.length), entryOf (seq.toNat + i) s = some l[i]) ∧
        (l.length = n.val ∨ entryOf (seq.toNat + l.length) s = none) ∧
        PortSays 0x3F01 (bytesOf 4 Config.ianaNumber ++ l.flatMap entryBytes) s t)

/-! ### The well and the supply -/

namespace Sys2Proof.Claims

/-- An episode of the bus runs afterwards, and its counter has gone up if none ran before (15 R512). -/
def EpisodeRuns (was now : Option Episode) (f : Field) (s t : State) : Prop :=
  now.isSome = true ∧ Counts bWell f (if was.isSome then 0 else 1) s t

/-- The ledger's entries hold one of an episode of the bus that has ended. -/
def episodeEntry (subtype : Nat) (e : Episode) (now : Nat) (l : List JEntry) : Prop :=
  ∃ j ∈ l, j.kind = 0x04 ∧ j.payload = BitVec.ofNat 224 (subtype +
    (e.mv / 10 % 2 ^ 16 + (now - e.since) / 1000 % 2 ^ 32 * 2 ^ 16) * 2 ^ 8)

/-- Readings of sensors have been taken, in order, and HOTTEST with HOTTEST_ID shows the hottest of all (15 R523; a sensor without a reading:
log entry 39). -/
def Sensed (l : List (Nat × BitVec 8)) (s t : State) : Prop :=
  t.power.sensors = l.foldl (fun m e => mapPut (fun _ => 0) e.1 e.2.toNat m) s.power.sensors ∧
  getF bThermal F.TH_HOTTEST t = (hottest t.power.sensors).1 % 256 ∧
  getF bThermal F.TH_HOTTEST_ID t = (hottest t.power.sensors).2 % 4096

/-- Of readings by sensor the hottest is as hot as any, a sensor without one counting as 0 °C, and its index is that sensor's. -/
def HottestOfAll : Prop :=
  ∀ m : SMap Nat, mapWf (fun _ => 0) m = true → (∀ e ∈ m, e.1 < 2136 ∧ e.2 < 256) →
    (∀ i < 2136, signed8 (mapGet (fun _ => 0) m i) ≤ signed8 (hottest m).1) ∧ (hottest m).2 < 2136 ∧
    mapGet (fun _ => 0) m (hottest m).2 = (hottest m).1

/-- Field of the permanent area on a block's register. -/
def permField (b : Nat) (f : Field) (s : State) : Nat := bits f.lo f.width (mapGet resetWord s.reeve.perm (regKey b f.off)).toNat

end Sys2Proof.Claims

/-- BUS_SAMPLE: within 40 to 60 V with no sag nothing begins; above 60 V a SURGE runs, above 66 V an orderly stop begins; below 40 V an
UNDERVOLT runs; below SAG_V, or more than 4 V below a sample of the last 10 µs, a SAG; below 38 V every hamlet is sent its
floor. A stop under way goes on whatever the bus does. With the rails off the status outputs follow the bus (15 R512, R513; 19 R650,
R652). -/
def Sys2Proof.Claims.BusSamples : Prop :=
  ∀ (mv : BitVec 17) (ma : BitVec 19) (s : State),
    let v := mv.toNat
    let w := s.power
    let sags := v < 1000 * getF bWell F.WELL_SAG_V s ∨ ∃ x ∈ w.hist.take 100, v + 4000 < x
    (w.supply = .on → v ≤ 66000 → ∃ t, exec (.busSample mv ma) s = .next t ∧ t.power.mv = v ∧ t.power.ma = ma.toNat ∧
      t.power.sumMv = w.sumMv + v ∧ t.power.sumMa = w.sumMa + ma.toNat ∧ t.power.samples = w.samples + 1 ∧ t.power.supply = .on ∧
      (60000 < v → EpisodeRuns w.surge t.power.surge F.WELL_SURGES s t ∧ getF bWell F.WELL_STATE t = 3) ∧
      (v ≤ 60000 → t.power.surge = w.surge ∧ t.power.high = none) ∧
      (v < 40000 → EpisodeRuns w.under t.power.under F.WELL_UNDERVOLTS s t ∧ t.power.good = none) ∧
      (40000 ≤ v → t.power.under = w.under) ∧ (38000 ≤ v → t.power.low = none) ∧
      (sags → EpisodeRuns w.sag t.power.sag F.WELL_SAGS s t) ∧ (¬sags → t.power.sag = w.sag) ∧
      (v < 38000 → t.power.low.isSome = true ∧ ∀ h : HamletId, (h.val, floorOf h.val s, s.time) ∈ t.power.flying ∧
        getF bWell (F.WELL_GRANT.at h.val) t = min (floorOf h.val s) 1023) ∧
      (40000 ≤ v → v ≤ 60000 → ¬sags → t = { s with regs := t.regs, power := t.power } ∧
        FieldsAre bWell [(F.WELL_STATE, if w.surge.isSome then 3 else if w.under.isSome then 2 else if w.sag.isSome then 1 else 0)] s t) ∧
      t.crofts = s.crofts ∧ OnlyRequests s t ∧ t.tally = s.tally ∧ SameDeviceBytes s t) ∧
    (w.supply = .on → 66000 < v → ∃ t, exec (.busSample mv ma) s = .next t ∧ StopBegun 2 s t ∧ t.power.mv = v) ∧
    (∀ cause since, w.supply = .stopping cause since → ∃ t, exec (.busSample mv ma) s = .next t ∧ t.power.supply = w.supply ∧
      t.power.mv = v ∧ t = { s with power := t.power }) ∧
    (w.supply = .off → ∃ t, exec (.busSample mv ma) s = .next t ∧ t.power.mv = v ∧ t.power.supply = .off ∧
      (v < 20000 → t.power.pwrgd = true ∧ t.power.alertN = true) ∧
      (20000 ≤ v → t.power.pwrgd = false ∧ (w.pwrgd = true → t.power.alertN = true) ∧
        (w.pwrgd = false → t.power.alertN = w.alertN)) ∧ t = { s with power := t.power })

/-- UNDERVOLT_CONFIRM, SURGE_TIMEOUT and THERMAL_TRIP: after more than 100 µs below 38 V, more than 100 ms at 60 to 66 V, or a sensor at
T_TRIP, an orderly stop begins, and before that none does (15 R512 to R514). EPISODE_END: after 10 ms within 40 to 60 V no episode
runs, and each that ends is in the ledger with its lowest or highest voltage and its duration (15 R512, R522; that the entry is of
the end, log entry 21; its layout: log entry 11). -/
def Sys2Proof.Claims.SupplyStops : Prop :=
  ∀ s : State, s.power.supply = .on →
    (∀ t0, s.power.low = some t0 →
      (t0 + 100000 < s.time → ∃ t, exec .undervoltConfirm s = .next t ∧ StopBegun 1 s t) ∧
      (s.time ≤ t0 + 100000 → exec .undervoltConfirm s = .next s)) ∧
    (∀ t0, s.power.high = some t0 →
      (t0 + 100000000 < s.time → ∃ t, exec .surgeTimeout s = .next t ∧ StopBegun 2 s t) ∧
      (s.time ≤ t0 + 100000000 → exec .surgeTimeout s = .next s)) ∧
    (∀ (k : Fin 2136) (x : BitVec 8),
      ((getF bThermal F.TH_T_TRIP s : Int) ≤ x.toInt → ∃ t, exec (.thermalTrip k x) s = .next t ∧ StopBegun 3 s t) ∧
      (x.toInt < (getF bThermal F.TH_T_TRIP s : Int) → ∃ t, exec (.thermalTrip k x) s = .next t ∧ Sensed [(k.val, x)] s t ∧
        t = { s with regs := t.regs, power := { s.power with sensors := t.power.sensors } })) ∧
    (∀ t0, s.power.good = some t0 → t0 + 10000000 ≤ s.time → ∃ t l, exec .episodeEnd s = .next t ∧ getF bWell F.WELL_STATE t = 0 ∧
      t.power = { s.power with sag := none, under := none, surge := none } ∧ t.reeve.log = s.reeve.log ++ l ∧
      (∀ e, s.power.sag = some e → episodeEntry 1 e s.time l) ∧ (∀ e, s.power.under = some e → episodeEntry 2 e s.time l) ∧
      (∀ e, s.power.surge = some e → episodeEntry 3 e s.time l) ∧
      (s.power.sag = none → s.power.under = none → s.power.surge = none → l = [] ∧ t = { s with regs := t.regs }) ∧
      t.crofts = s.crofts ∧ OnlyRequests s t ∧ t.tally = s.tally ∧ t.mill = s.mill ∧ SameDeviceBytes s t)

/-- The bus as the well samples it, and the orderly stop. -/
def Obligations.BusAndStops : Prop := Claims.BusSamples ∧ Claims.SupplyStops

/-- GRANT_PERIOD: the period's means, Pbar, energy and floors are taken, and the pool is divided: where the demands fit it each hamlet has
its demand and an equal share of the rest, and a hamlet of no partition its floor and no demand (15 R493, R494, R497, R523). GRANT_DELIVERY:
the oldest grant on its way to a hamlet group reaches it after 0.2 µs (15 R497). -/
def Sys2Proof.Claims.GrantPeriods : Prop :=
  (∀ (base : BitVec 18) (floors : List (BitVec 10)) (s : State), s.power.supply = .on → s.power.samples ≠ 0 → floors.length = 16 →
    let w := s.power
    let v := w.sumMv / w.samples
    let i := w.sumMa / w.samples
    ∃ t, exec (.grantPeriod base floors []) s = .next t ∧ t.power.meanMv = v ∧ t.power.sumMv = 0 ∧ t.power.sumMa = 0 ∧
      t.power.samples = 0 ∧ t.power.base = base.toNat ∧
      (∀ h : HamletId, floorOf h.val t = (floors.getD h.val 0).toNat) ∧
      t.power.pbar = (if w.pbar ≤ v * i * 1000 then w.pbar + (v * i * 1000 - w.pbar) / 1000000
        else w.pbar - (w.pbar - v * i * 1000) / 1000000) ∧
      getF bWell F.WELL_BUS_V t = min (v / 10) 8191 ∧ getF bWell F.WELL_BUS_I t = min (i / 250) 1023 ∧
      getF bWell F.WELL_PBAR_W t = min (t.power.pbar / 1000000000) 65535 ∧
      getPair bWell F.WELL_ENERGY_LO F.WELL_ENERGY_HI t =
        (getPair bWell F.WELL_ENERGY_LO F.WELL_ENERGY_HI s + (w.energy + v * i) / 1000000000) % 2 ^ 64 ∧
      t.power.energy = (w.energy + v * i) % 1000000000 ∧
      getF bWell F.WELL_POOL t = min (poolAt v base.toNat t) 1023 ∧
      (∀ e ∈ cappedDemands v t, getF bWell (F.WELL_DEMAND.at e.1) t = min e.2 1023) ∧
      (∀ h : HamletId, (∀ e ∈ cappedDemands v t, e.1 ≠ h.val) → getF bWell (F.WELL_DEMAND.at h.val) t = 0) ∧
      (let dem := cappedDemands v t
       let sum := (dem.map Prod.snd).sum
       w.low = none → sum ≤ poolAt v base.toNat t →
         (∀ e ∈ dem, getF bWell (F.WELL_GRANT.at e.1) t = min (e.2 + (poolAt v base.toNat t - sum) / dem.length) 1023) ∧
         (∀ h : HamletId, (∀ e ∈ dem, e.1 ≠ h.val) →
           getF bWell (F.WELL_GRANT.at h.val) t = min (floors.getD h.val 0).toNat 1023)) ∧
      (w.low.isSome = true → ∀ h : HamletId, getF bWell (F.WELL_GRANT.at h.val) t = min (floors.getD h.val 0).toNat 1023) ∧
      t.crofts = s.crofts ∧ OnlyRequests s t ∧ t.tally = s.tally ∧ t.mill = s.mill ∧ SameDeviceBytes s t) ∧
  (∀ (h : HamletId) (g t0 : Nat) (s : State), s.power.flying.find? (fun e => e.1 == h.val) = some (h.val, g, t0) →
    (s.time < t0 + 200 → exec (.grantDelivery h) s = .next s) ∧
    (t0 + 200 ≤ s.time → ∃ t a b, exec (.grantDelivery h) s = .next t ∧ s.power.flying = a ++ (h.val, g, t0) :: b ∧
      (∀ e ∈ a, e.1 ≠ h.val) ∧ mapGet (fun _ => 0) t.power.grants h.val = g ∧
      (∀ k, k ≠ h.val → mapGet (fun _ => 0) t.power.grants k = mapGet (fun _ => 0) s.power.grants k) ∧
      t = { s with power := { s.power with flying := a ++ b, grants := t.power.grants } }))

/-- PACING_STEP: one level down while the hamlet group draws more than its grant, one up while it draws at least a unit less, and each
croft of the hamlet shows the lower of that level and its thermal one, ramps by one level of sixteen between Idle and hum or work, counts
its hum from its start, and withholds the rest of its cycles (15 R500, R501, R503, R504; the ramp's level, log entry 15). HUM_TAPER: after HUM_HOLD_US of hum one
level less, down to HUM_FLOOR (15 R503). POINT_CHANGE: at rest the croft goes to its point by way of the lower of the two, and
POINT_CHANGE_DONE ends it (15 R505). -/
def Sys2Proof.Claims.PacingAndPoints : Prop :=
  (∀ (h : HamletId) (ma : BitVec 16) (s : State), s.power.supply = .on →
    let g := mapGet (fun _ => 0) s.power.grants h.val
    let old := getF bWell (F.WELL_PACE.at h.val) s
    ∃ t, exec (.pacingStep h ma) s = .next t ∧
      (g * 250 < ma.toNat → getF bWell (F.WELL_PACE.at h.val) t = old - 1) ∧
      (ma.toNat + 250 < g * 250 → old < 16 → getF bWell (F.WELL_PACE.at h.val) t = old + 1) ∧
      (ma.toNat ≤ g * 250 → g * 250 ≤ ma.toNat + 250 ∨ 16 ≤ old → getF bWell (F.WELL_PACE.at h.val) t = old) ∧
      (∀ k < 38, getF (bCroft (38 * h.val + k)) F.CP_STATUS_PACE t =
        min (getF bWell (F.WELL_PACE.at h.val) t) (thermLevel (38 * h.val + k) s)) ∧
      (∀ k < 38,
        let c := 38 * h.val + k
        let g := gateLevel c s
        let p := min (min (getF bWell (F.WELL_PACE.at h.val) t) (thermLevel c s)) g
        gateLevel c t = (if hums c s || runsTask c s then min 16 (g + 1) else g - 1) ∧
        mapGet (fun _ => none) t.power.idle c =
          (if hums c s then some ((mapGet (fun _ => none) s.power.idle c).getD s.time) else none) ∧
        (hums c s = true → mapGet (fun _ => 0) t.power.pacedRest c =
          (mapGet (fun _ => 0) s.power.pacedRest c + pointMhz (pointOfCroft c s) * (16 - p)) % 160)) ∧
      (∀ k : HamletId, k ≠ h → getF bWell (F.WELL_PACE.at k.val) t = getF bWell (F.WELL_PACE.at k.val) s) ∧
      t.power.supply = .on ∧ t.crofts = s.crofts ∧ OnlyRequests s t ∧ t.tally = s.tally ∧ t.mill = s.mill ∧ SameDeviceBytes s t) ∧
  (∀ (c : CroftId) (s : State) (t0 : Nat), mapGet (fun _ => none) s.power.idle c.val = some t0 → hums c.val s = true →
    0 < getF (bCroft c.val) F.CP_CTRL_HUM_HOLD_US s → t0 + 1000 * getF (bCroft c.val) F.CP_CTRL_HUM_HOLD_US s ≤ s.time →
    mapGet (fun _ => 0) s.power.humStep c.val ≤ s.time →
    (getF (bCroft c.val) F.CP_CTRL_HUM_FLOOR s < humLevel c.val s →
      ∃ t, exec (.humTaper c) s = .next t ∧ humLevel c.val t = humLevel c.val s - 1 ∧
        (∀ k, k ≠ c.val → humLevel k t = humLevel k s) ∧ mapGet (fun _ => 0) t.power.humStep c.val = s.time + 100 ∧
        t = { s with power := { s.power with hum := t.power.hum, humStep := t.power.humStep } }) ∧
    (humLevel c.val s ≤ getF (bCroft c.val) F.CP_CTRL_HUM_FLOOR s → exec (.humTaper c) s = .next s)) ∧
  (∀ (c : CroftId) (s : State),
    let b := bCroft c.val
    let new := targetPoint c.val s
    let old := getF b F.CP_STATUS_POINT s
    (new ≠ old → getF b F.CP_STATUS_CHANGING s = 0 → runsTask c.val s = false →
      ∃ t, exec (.pointChange c) s = .next t ∧ FieldsAre b [(F.CP_STATUS_POINT, min old new), (F.CP_STATUS_CHANGING, 1)] s t ∧
        mapGet (fun _ => none) t.power.change c.val = some ⟨new, s.time + if old < new then 1000 else 200⟩ ∧
        t = { s with regs := t.regs, power := { s.power with change := t.power.change } }) ∧
    (new = old ∨ getF b F.CP_STATUS_CHANGING s = 1 ∨ runsTask c.val s = true → exec (.pointChange c) s = .next s) ∧
    (∀ x : PointChange, mapGet (fun _ => none) s.power.change c.val = some x → x.point < 8 →
      (x.till ≤ s.time → ∃ t, exec (.pointChangeDone c) s = .next t ∧
        FieldsAre b [(F.CP_STATUS_POINT, x.point), (F.CP_STATUS_CHANGING, 0),
          (F.CP_POINT_CHANGES, min (getF b F.CP_POINT_CHANGES s + 1) (2 ^ 32 - 1))] s t ∧
        mapGet (fun _ => none) t.power.change c.val = none ∧
        t = { s with regs := t.regs, power := { s.power with change := t.power.change } }) ∧
      (s.time < x.till → exec (.pointChangeDone c) s = .next s)))

/-- The grant periods of the hamlets, and the pacing of the crofts. -/
def Obligations.GrantsAndPacing : Prop := Claims.GrantPeriods ∧ Claims.PacingAndPoints

/-! ### Temperatures, coolant and ageing -/

/-- THERMAL_SAMPLE: the hotter of a croft's two readings shows; at T_CAP or above the cap point falls by one; from T_LIMIT on the croft
paces at 8, and at 16 again below T_LIMIT − 2 °C. THERMAL_CAP_RISE: after 1 ms below T_CAP − 5 °C the cap point rises by one.
THERMAL_MODEL_UPDATE: R_c moves by 1/16 of the relative error of the steward's last prediction for the croft, within half and twice
its factory value (15 R514, R515; that it is the last prediction, log entry 39). HOTTEST shows the hottest sensor (15 R523). -/
def Sys2Proof.Claims.Temperatures : Prop :=
  (∀ (c : CroftId) (t0 t1 : BitVec 8) (s : State),
    let b := bCroft c.val
    let x := max t0.toInt t1.toInt
    let cap : Int := getF bThermal F.TH_T_CAP s
    let lim : Int := getF bThermal F.TH_T_LIMIT s
    ∃ t, exec (.thermalSample c t0 t1) s = .next t ∧ tempOf c.val t = x ∧
      getF b F.CP_STATUS_CAP_POINT t =
        (if cap ≤ x then getF b F.CP_STATUS_CAP_POINT s - 1 else getF b F.CP_STATUS_CAP_POINT s) ∧
      thermLevel c.val t = (if lim ≤ x then 8 else if x < lim - 2 then 16 else thermLevel c.val s) ∧
      (∀ k, k ≠ c.val → thermLevel k t = thermLevel k s) ∧
      (x < cap - 5 → (mapGet (fun _ => none) t.power.cool c.val).isSome = true) ∧
      (cap - 5 ≤ x → mapGet (fun _ => none) t.power.cool c.val = none) ∧
      Sensed [(2 * c.val, t0), (2 * c.val + 1, t1)] s t ∧
      t.crofts = s.crofts ∧ OnlyRequests s t ∧ t.tally = s.tally ∧ t.mill = s.mill ∧ SameDeviceBytes s t) ∧
  (∀ (c : CroftId) (s : State) (t0 : Nat), mapGet (fun _ => none) s.power.cool c.val = some t0 →
    (s.time < t0 + 1000000 → exec (.thermalCapRise c) s = .next s) ∧
    (t0 + 1000000 ≤ s.time → ∃ t, exec (.thermalCapRise c) s = .next t ∧
      FieldsAre (bCroft c.val) [(F.CP_STATUS_CAP_POINT, min 7 (getF (bCroft c.val) F.CP_STATUS_CAP_POINT s + 1))] s t ∧
      mapGet (fun _ => none) t.power.cool c.val = some s.time ∧
      t = { s with regs := t.regs, power := { s.power with cool := t.power.cool } })) ∧
  HottestOfAll ∧
  (∀ (c : CroftId) (t0 t1 : BitVec 8) (s : State),
    let r := getF (bCroft c.val) F.CP_R_MKW s
    (∀ f : Forecast, mapGet (fun _ => none) s.power.forecast c.val = some f →
      let measured : Int := 1000 * (max t0.toInt t1.toInt - f.temp)
      let n := ((r : Int) + (if f.rise = 0 then 0 else (r : Int) * (measured - f.rise) / (16 * f.rise))).toNat
      ∃ t, exec (.thermalModelUpdate c t0 t1) s = .next t ∧
        FieldsAre (bCroft c.val) [(F.CP_R_MKW, max 1500 (min 6000 n))] s t ∧ mapGet (fun _ => none) t.power.forecast c.val = none ∧
        (∀ k, k ≠ c.val → mapGet (fun _ => none) t.power.forecast k = mapGet (fun _ => none) s.power.forecast k) ∧
        t = { s with regs := t.regs, power := { s.power with forecast := t.power.forecast } }) ∧
    (mapGet (fun _ => none) s.power.forecast c.val = none → exec (.thermalModelUpdate c t0 t1) s = .next s))

/-- COOLANT_POLL asks the configured sensor once per second, COOLANT_READING takes an answer of at most 500 ms, but none while the reeve
restarts, and COOLANT_STALE sets STALE when the last reading is older than 5 s (15 R516; 17 R573, R578). -/
def Sys2Proof.Claims.Coolant : Prop :=
  ∀ s : State,
    (let id := getF bReeve F.RV_COOLANT_SENSOR s
     (id ≠ 0 → s.reeve.nextPoll ≤ s.time → s.reeve.restart = none → s.power.supply = .on → ∃ t, exec .coolantPoll s = .next t ∧
       PortSays 0x211 (bytesOf 2 id) { s with reeve := { s.reeve with
         coolAsked := some s.time, nextPoll := s.time + 1000000000 } } t) ∧
     (id = 0 ∨ s.time < s.reeve.nextPoll ∨ s.reeve.restart ≠ none ∨ s.power.supply ≠ .on → exec .coolantPoll s = .next s)) ∧
    (∀ (v : BitVec 8) (a : Bool),
      (s.reeve.coolAsked = none ∨ s.reeve.restart ≠ none → exec (.coolantReading v a) s = .next s) ∧
      (∀ t0, s.reeve.coolAsked = some t0 → s.reeve.restart = none → (a = false ∨ t0 + 500000000 < s.time) →
        exec (.coolantReading v a) s = .next { s with reeve := { s.reeve with coolAsked := none } }) ∧
      (∀ t0, s.reeve.coolAsked = some t0 → s.reeve.restart = none → a = true → s.time ≤ t0 + 500000000 →
        ∃ t, exec (.coolantReading v a) s = .next t ∧ getF bThermal F.TH_T_IN t = v.toNat ∧ getF bThermal F.TH_STALE t = 0 ∧
          t.reeve.coolAsked = none ∧ t.reeve.coolAt = some s.time ∧
          ((40 < signed8 (getF bThermal F.TH_T_IN s) ∨ v.toInt ≤ 40) →
            FieldsAre bThermal [(F.TH_T_IN, v.toNat), (F.TH_STALE, 0)] s t ∧ t.reeve.log = s.reeve.log) ∧
          (signed8 (getF bThermal F.TH_T_IN s) ≤ 40 → 40 < v.toInt →
            ∃ e, t.reeve.log = s.reeve.log ++ [e] ∧ e.kind = 0x04 ∧ e.severity = 1) ∧
          t.crofts = s.crofts ∧ t.power = s.power ∧ SameDeviceBytes s t)) ∧
    (∀ t0, s.reeve.coolAt = some t0 →
      (s.time ≤ t0 + 5000000000 → exec .coolantStale s = .next s) ∧
      (t0 + 5000000000 < s.time → ∃ t, exec .coolantStale s = .next t ∧ getF bThermal F.TH_STALE t = 1 ∧
        getF bThermal F.TH_T_IN t = getF bThermal F.TH_T_IN s ∧ t.reeve.coolAt = none ∧
        (∃ e, t.reeve.log = s.reeve.log ++ [e] ∧ e.kind = 0x04) ∧ t.crofts = s.crofts ∧ t.power = s.power ∧ SameDeviceBytes s t))

/-- Temperatures of the crofts and the coolant. -/
def Obligations.TemperaturesAndCoolant : Prop := Claims.Temperatures ∧ Claims.Coolant

/-- MARGIN_ALARM: counted, shown, one point lower but not above the thermal cap, and a re-plan begins; REPLAN_HOURS_DUE and REPLAN_REQ begin
one (15 R514, R518, R521). REPLAN_DONE: from the delays measured now and the baseline each croft has its drift and its new table in the
ledger, every point raised in steps of 5 mV, and those from the first that would rise by more than 60 mV withdrawn; the next re-plan is
due 1,000 powered hours on, and a croft that lost point 5 is fenced and retired (15 R517 to R519; a monitor without a reading, log
entry 22). -/
def Obligations.Replans : Prop :=
  (∀ (c : CroftId) (m : Fin 4) (slack : BitVec 16) (s : State), ∃ t, exec (.marginAlarm c m slack) s = .next t ∧
    Counts bThermal F.TH_MARGIN_ALARMS 1 s t ∧ getF (bCroft c.val) F.CP_STATUS_MARGIN_ALARM t = 1 ∧
    getF (bCroft c.val) F.CP_CTRL_POINT_REQ t =
      min (getF (bCroft c.val) F.CP_CTRL_POINT_REQ s - 1) (getF (bCroft c.val) F.CP_STATUS_CAP_POINT s) ∧
    t.power = { s.power with replan := true } ∧
    (∃ e, t.reeve.log = s.reeve.log ++ [e] ∧ e.kind = 0x04 ∧ e.severity = 2) ∧ t.crofts = s.crofts ∧ SameDeviceBytes s t) ∧
  (∀ s : State,
    (getF bThermal F.TH_NEXT_REPLAN_H s ≤ getF bThermal F.TH_POWERED_H s →
      exec .replanHoursDue s = .next { s with power := { s.power with replan := true } }) ∧
    (getF bThermal F.TH_POWERED_H s < getF bThermal F.TH_NEXT_REPLAN_H s → exec .replanHoursDue s = .next s)) ∧
  (∀ (who : Requester) (s : State), keeper who → Reaches who bThermal s → Unlocked who bThermal s →
    ∃ t, exec (.replanReq who) s = .next t ∧ FieldsAre bThermal [(F.TH_REPLAN_REQ, 1)] s t ∧
      t = { s with regs := t.regs, power := { s.power with replan := true } }) ∧
  (∀ (delays : List (BitVec 16)) (s : State), s.power.replan = true →
    let now := delays.map BitVec.toNat
    ∃ t, exec (.replanDone delays) s = .next t ∧ t.power.replan = false ∧ getF bThermal F.TH_REPLAN_REQ t = 0 ∧
      t.reeve.baseline = s.reeve.baseline ∧
      getF bThermal F.TH_NEXT_REPLAN_H t = (getF bThermal F.TH_POWERED_H s + 1000) % 2 ^ 32 ∧
      ∀ c : CroftId,
      let b := bCroft c.val
      let d := driftOf c.val now (s.reeve.baseline.getD now)
      let more (k : Nat) : Nat := 5 * cdiv (Config.factorySlope c.val k * d.toNat) 500
      getF b F.CP_DRIFT t = (BitVec.ofInt 16 d).toNat ∧ permField b F.CP_DRIFT t = (BitVec.ofInt 16 d).toNat ∧
      (∀ k < 8, getF b (F.CP_POINT_VOLT_MV.at k) t = min 1023 (factoryVolt k + more k) ∧
        permField b (F.CP_POINT_VOLT_MV.at k) t = min 1023 (factoryVolt k + more k)) ∧
      (∀ k < 8, 60 < more k → ∀ j < 8, k ≤ j → getF b (F.CP_POINT_WITHDRAWN.at j) t = 1 ∧
        permField b (F.CP_POINT_WITHDRAWN.at j) t = 1) ∧
      (getF b (F.CP_POINT_WITHDRAWN.at 5) t = 1 → unitRetired b s = false → unitRetired b t = true ∧ fenced b t = true)) ∧
  (∀ (delays : List Nat) (base : List Nat) (c : Nat), (∀ m < 4, delays[4 * c + m]?.isSome) →
    (∀ m < 4, 0 < nth base (4 * c + m)) →
    ∃ m < 4, (∀ i < 4, nth delays (4 * c + i) ≤ nth delays (4 * c + m)) ∧
      driftOf c delays base = ((nth delays (4 * c + m) * 10000 / nth base (4 * c + m) : Nat) : Int) - 10000) ∧
  (∀ (l : List (BitVec 16)) (s : State), s.power.replan = false → exec (.replanDone l) s = .next s)

/-! ### Dispatch -/

namespace Sys2Proof.Claims

/-- The descriptor of an entry of the release order is on its way to its croft, every other croft is as before, and the prediction for it
is kept (15 R515). -/
def Released (r : Rel) (s t : State) : Prop :=
  let c := globalPhys r.croft s
  croftOf c t = { croftOf c s with arriving := (croftOf c s).arriving ++ [⟨r.desc, s.time, r.cmd⟩] } ∧ OtherCrofts c s t ∧
  mapGet (fun _ => none) t.power.forecast c = some ⟨tempOf c s, predictedRise c r.desc s⟩

end Sys2Proof.Claims

/-- DISPATCH: with the order open, the first entry goes when its croft holds a credit and it fits the grant and the temperature limit; one
that does not fit is held back, and counted once for power and once for heat. STARVE_TIMEOUT: an entry that has failed to fit
for STARVE_US goes all the same and is counted. While the step's expects are open nothing goes (15 R509, R510; 03 R91; 12
R399). A task list of a layer that runs bypassed gives way to the layer's bypass list (05 R179). -/
def Sys2Proof.Claims.DispatchOrder : Prop :=
  ∀ (p : PartId) (s : State),
    (∀ l, mayRelease p.val s = false → exec (.dispatch ⟨p, l⟩) s = .next s ∧ exec (.starveTimeout p) s = .next s) ∧
    (∀ l, (∀ e ∈ l, layerBypassed p.val e.layer.val s = false) → exec (.dispatch ⟨p, l⟩) s = exec (.dispatch ⟨p, []⟩) s) ∧
    (∀ (e : LayerLists) (cmd : Nat), mayRelease p.val s = true → layerBypassed p.val e.layer.val s = true → e.narrow ≠ [] →
      let rels (l : List (Fin 576 × Desc)) : List Rel := l.map fun x => ⟨x.2, x.1.val, cmd, none, false, false⟩
      (partOf p.val s).rel = rels e.narrow → (∀ x ∈ e.bypass, takes (globalPhys x.1.val s) s = false) →
      ∃ t, exec (.dispatch ⟨p, [e]⟩) s = .next t ∧ (partOf p.val t).rel = rels e.bypass ∧ t.crofts = s.crofts) ∧
    (mayRelease p.val s = true → 0 < getF bSteward F.SCH_LOOKAHEAD s → ∀ (r : Rel) (l : List Rel), (partOf p.val s).rel = r :: l →
      let c := globalPhys r.croft s
      takes c s = true →
      (fitsGrant c r.desc s = true → fitsHeat c r.desc s = true →
        ∃ t, exec (.dispatch ⟨p, []⟩) s = .next t ∧ Released r s t ∧ partOf p.val t = { partOf p.val s with rel := l } ∧
          (∀ q, q ≠ p.val → partOf q t = partOf q s) ∧
          t = { s with crofts := t.crofts, parts := t.parts, power := { s.power with forecast := t.power.forecast } }) ∧
      (l = [] → fitsGrant c r.desc s = false ∨ fitsHeat c r.desc s = false →
        ∃ t k, exec (.dispatch ⟨p, []⟩) s = .next t ∧ (partOf p.val t).rel = [k] ∧ k.desc = r.desc ∧ k.croft = r.croft ∧ k.cmd = r.cmd ∧
          k.failSince = some (r.failSince.getD s.time) ∧
          Counts bSteward F.SCH_HELD_POWER (if fitsGrant c r.desc s = false ∧ r.heldP = false then 1 else 0) s t ∧
          Counts bSteward F.SCH_HELD_THERMAL (if fitsHeat c r.desc s = false ∧ r.heldT = false then 1 else 0) s t ∧
          t.crofts = s.crofts ∧ t = { s with regs := t.regs, parts := t.parts }) ∧
      (∀ t0, r.failSince = some t0 → t0 + 1000 * getF bSteward F.SCH_STARVE_US s ≤ s.time →
        ∃ t, exec (.starveTimeout p) s = .next t ∧ Released r s t ∧ partOf p.val t = { partOf p.val s with rel := l } ∧
          FieldsAre bSteward [(F.SCH_STARVED, min (getF bSteward F.SCH_STARVED s + 1) (2 ^ 32 - 1))] s t ∧
          t = { s with crofts := t.crofts, parts := t.parts, regs := t.regs, power := { s.power with forecast := t.power.forecast } }))

/-- POINT_LOWER: the crofts of a hamlet in timed service that has paced below 16 for LOWER_US are lowered to the highest point at which
they fit the grant, and none stays above its partition's aim; a croft lowered is not set above its thermal cap (15 R514). POINT_RAISE: after RAISE_US of cover each croft goes one point
up, at most to the aim and its thermal cap (15 R511). -/
def Sys2Proof.Claims.PointsMove : Prop :=
  ∀ (h : HamletId) (p : Nat) (s : State), ownerOf (bHamlet h.val) s = some p → timed p s = true →
    let l := hamletCrofts h.val s
    let req (c : Nat) (u : State) : Nat := getF (bCroft c) F.CP_CTRL_POINT_REQ u
    let lowered (m : Nat) (t : State) : Prop :=
      ((∃ c ∈ l, m < req c s) → ∀ c ∈ l, req c t = min m (min (req c s) (getF (bCroft c) F.CP_STATUS_CAP_POINT s))) ∧
      ((∀ c ∈ l, req c s ≤ m) → t = s)
    (∀ t0, mapGet (fun _ => none) s.power.paced h.val = some t0 → t0 + 1000 * getF bSteward F.SCH_LOWER_US s ≤ s.time →
      let g := getF bWell (F.WELL_GRANT.at h.val) s
      ∃ t k, exec (.pointLower h) s = .next t ∧ k < 8 ∧ (k ≠ 0 → unitsUp (l.length * pTyp k) s.power.meanMv ≤ g) ∧
        (∀ j, k < j → j < 8 → g < unitsUp (l.length * pTyp j) s.power.meanMv) ∧
        lowered (min k (aimOf p s)) t ∧ (∀ c < 608, c ∉ l → req c t = req c s) ∧
        t = { s with regs := t.regs }) ∧
    (mapGet (fun _ => none) s.power.paced h.val = none →
      ∃ t, exec (.pointLower h) s = .next t ∧ lowered (aimOf p s) t ∧
        (∀ c < 608, c ∉ l → req c t = req c s) ∧ t = { s with regs := t.regs }) ∧
    (∀ t0, mapGet (fun _ => none) s.power.covered h.val = some t0 → t0 + 1000 * getF bSteward F.SCH_RAISE_US s ≤ s.time → l.Nodup →
      ∃ t, exec (.pointRaise h) s = .next t ∧
        (∀ c ∈ l, req c t = max (req c s) (min (req c s + 1) (min (aimOf p s) (getF (bCroft c) F.CP_STATUS_CAP_POINT s)))) ∧
        (∀ c < 608, c ∉ l → req c t = req c s) ∧ mapGet (fun _ => none) t.power.covered h.val = none ∧
        t = { s with regs := t.regs, power := { s.power with covered := t.power.covered } })

/-- The dispatch core: the release order and the crofts' operating points. -/
def Obligations.DispatchAndPoints : Prop := Claims.DispatchOrder ∧ Claims.PointsMove
end

