-- ==== Sys2Proof/Laws/Map.lean ====
section
/-!
SUPPORT. Laws of sparse maps: a read after a write of the same key gives the value written, a write leaves every other
key alone, and every operation keeps the canonical form. None but the last needs the canonical form as a premise.
-/
namespace Sys2Proof.Machine

variable {α : Type}

theorem mapLook_mapDel_same (k : Nat) (m : SMap α) : mapLook (mapDel k m) k = none := by
  induction m with
  | nil => rfl
  | cons e r ih =>
    simp only [mapDel, ne_eq, decide_not] at ih ⊢
    by_cases h : e.1 = k <;> simp [mapLook, h, ih]

theorem mapLook_mapDel_other {k k' : Nat} (h : k' ≠ k) (m : SMap α) : mapLook (mapDel k m) k' = mapLook m k' := by
  induction m with
  | nil => rfl
  | cons e r ih =>
    simp only [mapDel, ne_eq, decide_not] at ih ⊢
    by_cases hk : e.1 = k
    · have : ¬ e.1 = k' := fun x => h (x.symm.trans hk)
      simp [mapLook, hk, ih, Ne.symm h]
    · simp [mapLook, hk, ih]

theorem mapLook_mapIns_other {k k' : Nat} (h : k' ≠ k) (v : α) (m : SMap α) :
    mapLook (mapIns k v m) k' = mapLook m k' := by
  induction m with
  | nil => simp [mapIns, mapLook, Ne.symm h]
  | cons e r ih =>
    by_cases hk : k < e.1 <;> simp [mapIns, mapLook, hk, ih, Ne.symm h]

theorem mapLook_mapIns_same (k : Nat) (v : α) (m : SMap α) (h : mapLook m k = none) :
    mapLook (mapIns k v m) k = some v := by
  induction m with
  | nil => simp [mapIns, mapLook]
  | cons e r ih =>
    obtain ⟨a, b⟩ := e
    by_cases ha : a = k
    · simp [mapLook, ha] at h
    · simp only [mapLook, ha, if_false] at h
      by_cases hk : k < a <;> simp [mapIns, mapLook, hk, ha, ih h]

@[simp] theorem mapGet_mapPut_same [DecidableEq α] (d : Nat → α) (k : Nat) (v : α) (m : SMap α) :
    mapGet d (mapPut d k v m) k = v := by
  unfold mapGet mapPut
  split
  · next h => simp [mapLook_mapDel_same, h]
  · simp [mapLook_mapIns_same k v _ (mapLook_mapDel_same k m)]

theorem mapGet_mapPut_other [DecidableEq α] (d : Nat → α) {k k' : Nat} (h : k' ≠ k) (v : α) (m : SMap α) :
    mapGet d (mapPut d k v m) k' = mapGet d m k' := by
  unfold mapGet mapPut
  split <;> simp [mapLook_mapDel_other h, mapLook_mapIns_other h]

theorem mapGet_mapPut [DecidableEq α] (d : Nat → α) (k k' : Nat) (v : α) (m : SMap α) :
    mapGet d (mapPut d k v m) k' = if k' = k then v else mapGet d m k' := by
  split
  · next h => rw [h, mapGet_mapPut_same]
  · next h => exact mapGet_mapPut_other d h v m

@[simp] theorem mapGet_mapDel_same (d : Nat → α) (k : Nat) (m : SMap α) : mapGet d (mapDel k m) k = d k := by
  simp [mapGet, mapLook_mapDel_same]

theorem mapGet_mapDel_other (d : Nat → α) {k k' : Nat} (h : k' ≠ k) (m : SMap α) :
    mapGet d (mapDel k m) k' = mapGet d m k' := by
  simp [mapGet, mapLook_mapDel_other h]

@[simp] theorem mapGet_nil (d : Nat → α) (k : Nat) : mapGet d [] k = d k := rfl

/-! ### The canonical form -/

theorem keysFrom_mono {a b : Nat} (h : a ≤ b) : (m : SMap α) → keysFrom b m = true → keysFrom a m = true
  | [], _ => rfl
  | (k, _) :: r, hm => by
    simp only [keysFrom, Bool.and_eq_true, decide_eq_true_eq] at hm ⊢
    exact ⟨by omega, hm.2⟩

theorem keysFrom_filter (p : Nat × α → Bool) (b : Nat) (m : SMap α) (h : keysFrom b m = true) :
    keysFrom b (m.filter p) = true := by
  induction m generalizing b with
  | nil => rfl
  | cons e r ih =>
    obtain ⟨k, v⟩ := e
    simp only [keysFrom, Bool.and_eq_true, decide_eq_true_eq] at h
    by_cases hp : p (k, v)
    · simp [hp, keysFrom, h.1, ih (k + 1) h.2]
    · simp only [List.filter_cons, hp]
      exact ih b (keysFrom_mono (by omega) r h.2)

theorem mapWf_filter [DecidableEq α] (d : Nat → α) (p : Nat × α → Bool) (m : SMap α) (h : mapWf d m = true) :
    mapWf d (m.filter p) = true := by
  simp only [mapWf, Bool.and_eq_true, List.all_eq_true] at h ⊢
  exact ⟨keysFrom_filter p 0 m h.1, fun x hx => h.2 x (List.mem_of_mem_filter hx)⟩

theorem mapWf_mapDel [DecidableEq α] (d : Nat → α) (k : Nat) (m : SMap α) (h : mapWf d m = true) :
    mapWf d (mapDel k m) = true := mapWf_filter d _ m h

theorem keysFrom_mapIns (k : Nat) (v : α) (b : Nat) (m : SMap α) (h : keysFrom b m = true) (hb : b ≤ k)
    (hn : ∀ e ∈ m, e.1 ≠ k) : keysFrom b (mapIns k v m) = true := by
  induction m generalizing b with
  | nil => simp [mapIns, keysFrom, hb]
  | cons e r ih =>
    obtain ⟨a, x⟩ := e
    have ha : a ≠ k := hn (a, x) (by simp)
    simp only [keysFrom, Bool.and_eq_true, decide_eq_true_eq] at h
    by_cases hk : k < a
    · simp [mapIns, hk, keysFrom, hb, h.2]
    · simp [mapIns, hk, keysFrom, h.1]
      exact ih (a + 1) h.2 (by omega) fun e he => hn e (by simp [he])

theorem mem_mapIns (k : Nat) (v : α) (m : SMap α) (e : Nat × α) (h : e ∈ mapIns k v m) : e = (k, v) ∨ e ∈ m := by
  induction m with
  | nil => simpa [mapIns] using h
  | cons a r ih =>
    unfold mapIns at h
    split at h
    · simpa using h
    · rcases List.mem_cons.1 h with h | h
      · exact .inr (by simp [h])
      · rcases ih h with h | h
        · exact .inl h
        · exact .inr (by simp [h])

theorem mapWf_mapPut [DecidableEq α] (d : Nat → α) (k : Nat) (v : α) (m : SMap α) (h : mapWf d m = true) :
    mapWf d (mapPut d k v m) = true := by
  unfold mapPut
  split
  · exact mapWf_mapDel d k m h
  · next hv =>
    have h' := mapWf_mapDel d k m h
    simp only [mapWf, Bool.and_eq_true, List.all_eq_true] at h' ⊢
    refine ⟨keysFrom_mapIns k v 0 _ h'.1 (Nat.zero_le k) ?_, fun e he => ?_⟩
    · intro e he
      simpa using (List.mem_filter.1 he).2
    · rcases mem_mapIns k v _ e he with rfl | he
      · simpa using hv
      · exact h'.2 e he

@[simp] theorem mapWf_nil [DecidableEq α] (d : Nat → α) : mapWf d [] = true := rfl

end Sys2Proof.Machine
end

