-- ==== Sys2Proof/Laws/State.lean ====
section
/-!
SUPPORT. What each named update of State leaves alone, field by field (true by rfl), and what a read of the updated part
gives: registers and their fields, crofts, partitions, tallies, event rings, lanes, jobs, bytes of memory.
-/
namespace Sys2Proof.Machine

variable (s : State)

@[simp] theorem setW_time (b off : Nat) (w : Word) : (setW b off w s).time = s.time := rfl
@[simp] theorem setW_pending (b off : Nat) (w : Word) : (setW b off w s).pending = s.pending := rfl
@[simp] theorem setW_free (b off : Nat) (w : Word) : (setW b off w s).free = s.free := rfl
@[simp] theorem setW_loLatch (b off : Nat) (w : Word) : (setW b off w s).loLatch = s.loLatch := rfl
@[simp] theorem setW_hiLatch (b off : Nat) (w : Word) : (setW b off w s).hiLatch = s.hiLatch := rfl
@[simp] theorem setW_subUnits (b off : Nat) (w : Word) : (setW b off w s).subUnits = s.subUnits := rfl
@[simp] theorem setW_lockSince (b off : Nat) (w : Word) : (setW b off w s).lockSince = s.lockSince := rfl
@[simp] theorem setW_mem (b off : Nat) (w : Word) : (setW b off w s).mem = s.mem := rfl
@[simp] theorem setW_owners (b off : Nat) (w : Word) : (setW b off w s).owners = s.owners := rfl
@[simp] theorem setW_crofts (b off : Nat) (w : Word) : (setW b off w s).crofts = s.crofts := rfl
@[simp] theorem setW_memsys (b off : Nat) (w : Word) : (setW b off w s).memsys = s.memsys := rfl
@[simp] theorem setW_tally (b off : Nat) (w : Word) : (setW b off w s).tally = s.tally := rfl
@[simp] theorem setW_host (b off : Nat) (w : Word) : (setW b off w s).host = s.host := rfl
@[simp] theorem setW_parts (b off : Nat) (w : Word) : (setW b off w s).parts = s.parts := rfl
@[simp] theorem setW_foldq (b off : Nat) (w : Word) : (setW b off w s).foldq = s.foldq := rfl
@[simp] theorem setW_mill (b off : Nat) (w : Word) : (setW b off w s).mill = s.mill := rfl
@[simp] theorem setW_power (b off : Nat) (w : Word) : (setW b off w s).power = s.power := rfl
@[simp] theorem setW_reeve (b off : Nat) (w : Word) : (setW b off w s).reeve = s.reeve := rfl
@[simp] theorem setW_nextUid (b off : Nat) (w : Word) : (setW b off w s).nextUid = s.nextUid := rfl

@[simp] theorem setF_time (b : Nat) (f : Field) (v : Nat) : (setF b f v s).time = s.time := rfl
@[simp] theorem setF_pending (b : Nat) (f : Field) (v : Nat) : (setF b f v s).pending = s.pending := rfl
@[simp] theorem setF_free (b : Nat) (f : Field) (v : Nat) : (setF b f v s).free = s.free := rfl
@[simp] theorem setF_loLatch (b : Nat) (f : Field) (v : Nat) : (setF b f v s).loLatch = s.loLatch := rfl
@[simp] theorem setF_hiLatch (b : Nat) (f : Field) (v : Nat) : (setF b f v s).hiLatch = s.hiLatch := rfl
@[simp] theorem setF_subUnits (b : Nat) (f : Field) (v : Nat) : (setF b f v s).subUnits = s.subUnits := rfl
@[simp] theorem setF_lockSince (b : Nat) (f : Field) (v : Nat) : (setF b f v s).lockSince = s.lockSince := rfl
@[simp] theorem setF_mem (b : Nat) (f : Field) (v : Nat) : (setF b f v s).mem = s.mem := rfl
@[simp] theorem setF_owners (b : Nat) (f : Field) (v : Nat) : (setF b f v s).owners = s.owners := rfl
@[simp] theorem setF_crofts (b : Nat) (f : Field) (v : Nat) : (setF b f v s).crofts = s.crofts := rfl
@[simp] theorem setF_memsys (b : Nat) (f : Field) (v : Nat) : (setF b f v s).memsys = s.memsys := rfl
@[simp] theorem setF_tally (b : Nat) (f : Field) (v : Nat) : (setF b f v s).tally = s.tally := rfl
@[simp] theorem setF_host (b : Nat) (f : Field) (v : Nat) : (setF b f v s).host = s.host := rfl
@[simp] theorem setF_parts (b : Nat) (f : Field) (v : Nat) : (setF b f v s).parts = s.parts := rfl
@[simp] theorem setF_foldq (b : Nat) (f : Field) (v : Nat) : (setF b f v s).foldq = s.foldq := rfl
@[simp] theorem setF_mill (b : Nat) (f : Field) (v : Nat) : (setF b f v s).mill = s.mill := rfl
@[simp] theorem setF_power (b : Nat) (f : Field) (v : Nat) : (setF b f v s).power = s.power := rfl
@[simp] theorem setF_reeve (b : Nat) (f : Field) (v : Nat) : (setF b f v s).reeve = s.reeve := rfl
@[simp] theorem setF_nextUid (b : Nat) (f : Field) (v : Nat) : (setF b f v s).nextUid = s.nextUid := rfl

@[simp] theorem setCroft_time (c : Nat) (k : Croft) : (setCroft c k s).time = s.time := rfl
@[simp] theorem setCroft_pending (c : Nat) (k : Croft) : (setCroft c k s).pending = s.pending := rfl
@[simp] theorem setCroft_free (c : Nat) (k : Croft) : (setCroft c k s).free = s.free := rfl
@[simp] theorem setCroft_regs (c : Nat) (k : Croft) : (setCroft c k s).regs = s.regs := rfl
@[simp] theorem setCroft_loLatch (c : Nat) (k : Croft) : (setCroft c k s).loLatch = s.loLatch := rfl
@[simp] theorem setCroft_hiLatch (c : Nat) (k : Croft) : (setCroft c k s).hiLatch = s.hiLatch := rfl
@[simp] theorem setCroft_subUnits (c : Nat) (k : Croft) : (setCroft c k s).subUnits = s.subUnits := rfl
@[simp] theorem setCroft_lockSince (c : Nat) (k : Croft) : (setCroft c k s).lockSince = s.lockSince := rfl
@[simp] theorem setCroft_mem (c : Nat) (k : Croft) : (setCroft c k s).mem = s.mem := rfl
@[simp] theorem setCroft_owners (c : Nat) (k : Croft) : (setCroft c k s).owners = s.owners := rfl
@[simp] theorem setCroft_memsys (c : Nat) (k : Croft) : (setCroft c k s).memsys = s.memsys := rfl
@[simp] theorem setCroft_tally (c : Nat) (k : Croft) : (setCroft c k s).tally = s.tally := rfl
@[simp] theorem setCroft_host (c : Nat) (k : Croft) : (setCroft c k s).host = s.host := rfl
@[simp] theorem setCroft_parts (c : Nat) (k : Croft) : (setCroft c k s).parts = s.parts := rfl
@[simp] theorem setCroft_foldq (c : Nat) (k : Croft) : (setCroft c k s).foldq = s.foldq := rfl
@[simp] theorem setCroft_mill (c : Nat) (k : Croft) : (setCroft c k s).mill = s.mill := rfl
@[simp] theorem setCroft_power (c : Nat) (k : Croft) : (setCroft c k s).power = s.power := rfl
@[simp] theorem setCroft_reeve (c : Nat) (k : Croft) : (setCroft c k s).reeve = s.reeve := rfl
@[simp] theorem setCroft_nextUid (c : Nat) (k : Croft) : (setCroft c k s).nextUid = s.nextUid := rfl

@[simp] theorem updCroft_time (c : Nat) (f : Croft → Croft) : (updCroft c f s).time = s.time := rfl
@[simp] theorem updCroft_pending (c : Nat) (f : Croft → Croft) : (updCroft c f s).pending = s.pending := rfl
@[simp] theorem updCroft_free (c : Nat) (f : Croft → Croft) : (updCroft c f s).free = s.free := rfl
@[simp] theorem updCroft_regs (c : Nat) (f : Croft → Croft) : (updCroft c f s).regs = s.regs := rfl
@[simp] theorem updCroft_loLatch (c : Nat) (f : Croft → Croft) : (updCroft c f s).loLatch = s.loLatch := rfl
@[simp] theorem updCroft_hiLatch (c : Nat) (f : Croft → Croft) : (updCroft c f s).hiLatch = s.hiLatch := rfl
@[simp] theorem updCroft_subUnits (c : Nat) (f : Croft → Croft) : (updCroft c f s).subUnits = s.subUnits := rfl
@[simp] theorem updCroft_lockSince (c : Nat) (f : Croft → Croft) : (updCroft c f s).lockSince = s.lockSince := rfl
@[simp] theorem updCroft_mem (c : Nat) (f : Croft → Croft) : (updCroft c f s).mem = s.mem := rfl
@[simp] theorem updCroft_owners (c : Nat) (f : Croft → Croft) : (updCroft c f s).owners = s.owners := rfl
@[simp] theorem updCroft_memsys (c : Nat) (f : Croft → Croft) : (updCroft c f s).memsys = s.memsys := rfl
@[simp] theorem updCroft_tally (c : Nat) (f : Croft → Croft) : (updCroft c f s).tally = s.tally := rfl
@[simp] theorem updCroft_host (c : Nat) (f : Croft → Croft) : (updCroft c f s).host = s.host := rfl
@[simp] theorem updCroft_parts (c : Nat) (f : Croft → Croft) : (updCroft c f s).parts = s.parts := rfl
@[simp] theorem updCroft_foldq (c : Nat) (f : Croft → Croft) : (updCroft c f s).foldq = s.foldq := rfl
@[simp] theorem updCroft_mill (c : Nat) (f : Croft → Croft) : (updCroft c f s).mill = s.mill := rfl
@[simp] theorem updCroft_power (c : Nat) (f : Croft → Croft) : (updCroft c f s).power = s.power := rfl
@[simp] theorem updCroft_reeve (c : Nat) (f : Croft → Croft) : (updCroft c f s).reeve = s.reeve := rfl
@[simp] theorem updCroft_nextUid (c : Nat) (f : Croft → Croft) : (updCroft c f s).nextUid = s.nextUid := rfl

@[simp] theorem setPart_time (p : Nat) (k : Part) : (setPart p k s).time = s.time := rfl
@[simp] theorem setPart_pending (p : Nat) (k : Part) : (setPart p k s).pending = s.pending := rfl
@[simp] theorem setPart_free (p : Nat) (k : Part) : (setPart p k s).free = s.free := rfl
@[simp] theorem setPart_regs (p : Nat) (k : Part) : (setPart p k s).regs = s.regs := rfl
@[simp] theorem setPart_loLatch (p : Nat) (k : Part) : (setPart p k s).loLatch = s.loLatch := rfl
@[simp] theorem setPart_hiLatch (p : Nat) (k : Part) : (setPart p k s).hiLatch = s.hiLatch := rfl
@[simp] theorem setPart_subUnits (p : Nat) (k : Part) : (setPart p k s).subUnits = s.subUnits := rfl
@[simp] theorem setPart_lockSince (p : Nat) (k : Part) : (setPart p k s).lockSince = s.lockSince := rfl
@[simp] theorem setPart_mem (p : Nat) (k : Part) : (setPart p k s).mem = s.mem := rfl
@[simp] theorem setPart_owners (p : Nat) (k : Part) : (setPart p k s).owners = s.owners := rfl
@[simp] theorem setPart_crofts (p : Nat) (k : Part) : (setPart p k s).crofts = s.crofts := rfl
@[simp] theorem setPart_memsys (p : Nat) (k : Part) : (setPart p k s).memsys = s.memsys := rfl
@[simp] theorem setPart_tally (p : Nat) (k : Part) : (setPart p k s).tally = s.tally := rfl
@[simp] theorem setPart_host (p : Nat) (k : Part) : (setPart p k s).host = s.host := rfl
@[simp] theorem setPart_foldq (p : Nat) (k : Part) : (setPart p k s).foldq = s.foldq := rfl
@[simp] theorem setPart_mill (p : Nat) (k : Part) : (setPart p k s).mill = s.mill := rfl
@[simp] theorem setPart_power (p : Nat) (k : Part) : (setPart p k s).power = s.power := rfl
@[simp] theorem setPart_reeve (p : Nat) (k : Part) : (setPart p k s).reeve = s.reeve := rfl
@[simp] theorem setPart_nextUid (p : Nat) (k : Part) : (setPart p k s).nextUid = s.nextUid := rfl

@[simp] theorem updPart_time (p : Nat) (f : Part → Part) : (updPart p f s).time = s.time := rfl
@[simp] theorem updPart_pending (p : Nat) (f : Part → Part) : (updPart p f s).pending = s.pending := rfl
@[simp] theorem updPart_free (p : Nat) (f : Part → Part) : (updPart p f s).free = s.free := rfl
@[simp] theorem updPart_regs (p : Nat) (f : Part → Part) : (updPart p f s).regs = s.regs := rfl
@[simp] theorem updPart_loLatch (p : Nat) (f : Part → Part) : (updPart p f s).loLatch = s.loLatch := rfl
@[simp] theorem updPart_hiLatch (p : Nat) (f : Part → Part) : (updPart p f s).hiLatch = s.hiLatch := rfl
@[simp] theorem updPart_subUnits (p : Nat) (f : Part → Part) : (updPart p f s).subUnits = s.subUnits := rfl
@[simp] theorem updPart_lockSince (p : Nat) (f : Part → Part) : (updPart p f s).lockSince = s.lockSince := rfl
@[simp] theorem updPart_mem (p : Nat) (f : Part → Part) : (updPart p f s).mem = s.mem := rfl
@[simp] theorem updPart_owners (p : Nat) (f : Part → Part) : (updPart p f s).owners = s.owners := rfl
@[simp] theorem updPart_crofts (p : Nat) (f : Part → Part) : (updPart p f s).crofts = s.crofts := rfl
@[simp] theorem updPart_memsys (p : Nat) (f : Part → Part) : (updPart p f s).memsys = s.memsys := rfl
@[simp] theorem updPart_tally (p : Nat) (f : Part → Part) : (updPart p f s).tally = s.tally := rfl
@[simp] theorem updPart_host (p : Nat) (f : Part → Part) : (updPart p f s).host = s.host := rfl
@[simp] theorem updPart_foldq (p : Nat) (f : Part → Part) : (updPart p f s).foldq = s.foldq := rfl
@[simp] theorem updPart_mill (p : Nat) (f : Part → Part) : (updPart p f s).mill = s.mill := rfl
@[simp] theorem updPart_power (p : Nat) (f : Part → Part) : (updPart p f s).power = s.power := rfl
@[simp] theorem updPart_reeve (p : Nat) (f : Part → Part) : (updPart p f s).reeve = s.reeve := rfl
@[simp] theorem updPart_nextUid (p : Nat) (f : Part → Part) : (updPart p f s).nextUid = s.nextUid := rfl

@[simp] theorem wr_time (p : Nat) (b : Byte) : (wr p b s).time = s.time := rfl
@[simp] theorem wr_pending (p : Nat) (b : Byte) : (wr p b s).pending = s.pending := rfl
@[simp] theorem wr_free (p : Nat) (b : Byte) : (wr p b s).free = s.free := rfl
@[simp] theorem wr_regs (p : Nat) (b : Byte) : (wr p b s).regs = s.regs := rfl
@[simp] theorem wr_loLatch (p : Nat) (b : Byte) : (wr p b s).loLatch = s.loLatch := rfl
@[simp] theorem wr_hiLatch (p : Nat) (b : Byte) : (wr p b s).hiLatch = s.hiLatch := rfl
@[simp] theorem wr_subUnits (p : Nat) (b : Byte) : (wr p b s).subUnits = s.subUnits := rfl
@[simp] theorem wr_lockSince (p : Nat) (b : Byte) : (wr p b s).lockSince = s.lockSince := rfl
@[simp] theorem wr_owners (p : Nat) (b : Byte) : (wr p b s).owners = s.owners := rfl
@[simp] theorem wr_crofts (p : Nat) (b : Byte) : (wr p b s).crofts = s.crofts := rfl
@[simp] theorem wr_memsys (p : Nat) (b : Byte) : (wr p b s).memsys = s.memsys := rfl
@[simp] theorem wr_tally (p : Nat) (b : Byte) : (wr p b s).tally = s.tally := rfl
@[simp] theorem wr_host (p : Nat) (b : Byte) : (wr p b s).host = s.host := rfl
@[simp] theorem wr_parts (p : Nat) (b : Byte) : (wr p b s).parts = s.parts := rfl
@[simp] theorem wr_foldq (p : Nat) (b : Byte) : (wr p b s).foldq = s.foldq := rfl
@[simp] theorem wr_mill (p : Nat) (b : Byte) : (wr p b s).mill = s.mill := rfl
@[simp] theorem wr_power (p : Nat) (b : Byte) : (wr p b s).power = s.power := rfl
@[simp] theorem wr_reeve (p : Nat) (b : Byte) : (wr p b s).reeve = s.reeve := rfl
@[simp] theorem wr_nextUid (p : Nat) (b : Byte) : (wr p b s).nextUid = s.nextUid := rfl

@[simp] theorem setTally_time (p : Nat) (t : Tally) : (setTally p t s).time = s.time := rfl
@[simp] theorem setTally_pending (p : Nat) (t : Tally) : (setTally p t s).pending = s.pending := rfl
@[simp] theorem setTally_free (p : Nat) (t : Tally) : (setTally p t s).free = s.free := rfl
@[simp] theorem setTally_regs (p : Nat) (t : Tally) : (setTally p t s).regs = s.regs := rfl
@[simp] theorem setTally_loLatch (p : Nat) (t : Tally) : (setTally p t s).loLatch = s.loLatch := rfl
@[simp] theorem setTally_hiLatch (p : Nat) (t : Tally) : (setTally p t s).hiLatch = s.hiLatch := rfl
@[simp] theorem setTally_subUnits (p : Nat) (t : Tally) : (setTally p t s).subUnits = s.subUnits := rfl
@[simp] theorem setTally_lockSince (p : Nat) (t : Tally) : (setTally p t s).lockSince = s.lockSince := rfl
@[simp] theorem setTally_mem (p : Nat) (t : Tally) : (setTally p t s).mem = s.mem := rfl
@[simp] theorem setTally_owners (p : Nat) (t : Tally) : (setTally p t s).owners = s.owners := rfl
@[simp] theorem setTally_crofts (p : Nat) (t : Tally) : (setTally p t s).crofts = s.crofts := rfl
@[simp] theorem setTally_memsys (p : Nat) (t : Tally) : (setTally p t s).memsys = s.memsys := rfl
@[simp] theorem setTally_host (p : Nat) (t : Tally) : (setTally p t s).host = s.host := rfl
@[simp] theorem setTally_parts (p : Nat) (t : Tally) : (setTally p t s).parts = s.parts := rfl
@[simp] theorem setTally_foldq (p : Nat) (t : Tally) : (setTally p t s).foldq = s.foldq := rfl
@[simp] theorem setTally_mill (p : Nat) (t : Tally) : (setTally p t s).mill = s.mill := rfl
@[simp] theorem setTally_power (p : Nat) (t : Tally) : (setTally p t s).power = s.power := rfl
@[simp] theorem setTally_reeve (p : Nat) (t : Tally) : (setTally p t s).reeve = s.reeve := rfl
@[simp] theorem setTally_nextUid (p : Nat) (t : Tally) : (setTally p t s).nextUid = s.nextUid := rfl

@[simp] theorem setRing_time (fn : Nat) (r : EvRing) : (setRing fn r s).time = s.time := rfl
@[simp] theorem setRing_pending (fn : Nat) (r : EvRing) : (setRing fn r s).pending = s.pending := rfl
@[simp] theorem setRing_free (fn : Nat) (r : EvRing) : (setRing fn r s).free = s.free := rfl
@[simp] theorem setRing_regs (fn : Nat) (r : EvRing) : (setRing fn r s).regs = s.regs := rfl
@[simp] theorem setRing_loLatch (fn : Nat) (r : EvRing) : (setRing fn r s).loLatch = s.loLatch := rfl
@[simp] theorem setRing_hiLatch (fn : Nat) (r : EvRing) : (setRing fn r s).hiLatch = s.hiLatch := rfl
@[simp] theorem setRing_subUnits (fn : Nat) (r : EvRing) : (setRing fn r s).subUnits = s.subUnits := rfl
@[simp] theorem setRing_lockSince (fn : Nat) (r : EvRing) : (setRing fn r s).lockSince = s.lockSince := rfl
@[simp] theorem setRing_mem (fn : Nat) (r : EvRing) : (setRing fn r s).mem = s.mem := rfl
@[simp] theorem setRing_owners (fn : Nat) (r : EvRing) : (setRing fn r s).owners = s.owners := rfl
@[simp] theorem setRing_crofts (fn : Nat) (r : EvRing) : (setRing fn r s).crofts = s.crofts := rfl
@[simp] theorem setRing_memsys (fn : Nat) (r : EvRing) : (setRing fn r s).memsys = s.memsys := rfl
@[simp] theorem setRing_tally (fn : Nat) (r : EvRing) : (setRing fn r s).tally = s.tally := rfl
@[simp] theorem setRing_parts (fn : Nat) (r : EvRing) : (setRing fn r s).parts = s.parts := rfl
@[simp] theorem setRing_foldq (fn : Nat) (r : EvRing) : (setRing fn r s).foldq = s.foldq := rfl
@[simp] theorem setRing_mill (fn : Nat) (r : EvRing) : (setRing fn r s).mill = s.mill := rfl
@[simp] theorem setRing_power (fn : Nat) (r : EvRing) : (setRing fn r s).power = s.power := rfl
@[simp] theorem setRing_reeve (fn : Nat) (r : EvRing) : (setRing fn r s).reeve = s.reeve := rfl
@[simp] theorem setRing_nextUid (fn : Nat) (r : EvRing) : (setRing fn r s).nextUid = s.nextUid := rfl

@[simp] theorem setLane_time (l : Nat) (x : Lane) : (setLane l x s).time = s.time := rfl
@[simp] theorem setLane_pending (l : Nat) (x : Lane) : (setLane l x s).pending = s.pending := rfl
@[simp] theorem setLane_free (l : Nat) (x : Lane) : (setLane l x s).free = s.free := rfl
@[simp] theorem setLane_regs (l : Nat) (x : Lane) : (setLane l x s).regs = s.regs := rfl
@[simp] theorem setLane_loLatch (l : Nat) (x : Lane) : (setLane l x s).loLatch = s.loLatch := rfl
@[simp] theorem setLane_hiLatch (l : Nat) (x : Lane) : (setLane l x s).hiLatch = s.hiLatch := rfl
@[simp] theorem setLane_subUnits (l : Nat) (x : Lane) : (setLane l x s).subUnits = s.subUnits := rfl
@[simp] theorem setLane_lockSince (l : Nat) (x : Lane) : (setLane l x s).lockSince = s.lockSince := rfl
@[simp] theorem setLane_mem (l : Nat) (x : Lane) : (setLane l x s).mem = s.mem := rfl
@[simp] theorem setLane_owners (l : Nat) (x : Lane) : (setLane l x s).owners = s.owners := rfl
@[simp] theorem setLane_crofts (l : Nat) (x : Lane) : (setLane l x s).crofts = s.crofts := rfl
@[simp] theorem setLane_memsys (l : Nat) (x : Lane) : (setLane l x s).memsys = s.memsys := rfl
@[simp] theorem setLane_tally (l : Nat) (x : Lane) : (setLane l x s).tally = s.tally := rfl
@[simp] theorem setLane_host (l : Nat) (x : Lane) : (setLane l x s).host = s.host := rfl
@[simp] theorem setLane_parts (l : Nat) (x : Lane) : (setLane l x s).parts = s.parts := rfl
@[simp] theorem setLane_foldq (l : Nat) (x : Lane) : (setLane l x s).foldq = s.foldq := rfl
@[simp] theorem setLane_power (l : Nat) (x : Lane) : (setLane l x s).power = s.power := rfl
@[simp] theorem setLane_reeve (l : Nat) (x : Lane) : (setLane l x s).reeve = s.reeve := rfl
@[simp] theorem setLane_nextUid (l : Nat) (x : Lane) : (setLane l x s).nextUid = s.nextUid := rfl

@[simp] theorem updLane_time (l : Nat) (f : Lane → Lane) : (updLane l f s).time = s.time := rfl
@[simp] theorem updLane_pending (l : Nat) (f : Lane → Lane) : (updLane l f s).pending = s.pending := rfl
@[simp] theorem updLane_free (l : Nat) (f : Lane → Lane) : (updLane l f s).free = s.free := rfl
@[simp] theorem updLane_regs (l : Nat) (f : Lane → Lane) : (updLane l f s).regs = s.regs := rfl
@[simp] theorem updLane_loLatch (l : Nat) (f : Lane → Lane) : (updLane l f s).loLatch = s.loLatch := rfl
@[simp] theorem updLane_hiLatch (l : Nat) (f : Lane → Lane) : (updLane l f s).hiLatch = s.hiLatch := rfl
@[simp] theorem updLane_subUnits (l : Nat) (f : Lane → Lane) : (updLane l f s).subUnits = s.subUnits := rfl
@[simp] theorem updLane_lockSince (l : Nat) (f : Lane → Lane) : (updLane l f s).lockSince = s.lockSince := rfl
@[simp] theorem updLane_mem (l : Nat) (f : Lane → Lane) : (updLane l f s).mem = s.mem := rfl
@[simp] theorem updLane_owners (l : Nat) (f : Lane → Lane) : (updLane l f s).owners = s.owners := rfl
@[simp] theorem updLane_crofts (l : Nat) (f : Lane → Lane) : (updLane l f s).crofts = s.crofts := rfl
@[simp] theorem updLane_memsys (l : Nat) (f : Lane → Lane) : (updLane l f s).memsys = s.memsys := rfl
@[simp] theorem updLane_tally (l : Nat) (f : Lane → Lane) : (updLane l f s).tally = s.tally := rfl
@[simp] theorem updLane_host (l : Nat) (f : Lane → Lane) : (updLane l f s).host = s.host := rfl
@[simp] theorem updLane_parts (l : Nat) (f : Lane → Lane) : (updLane l f s).parts = s.parts := rfl
@[simp] theorem updLane_foldq (l : Nat) (f : Lane → Lane) : (updLane l f s).foldq = s.foldq := rfl
@[simp] theorem updLane_power (l : Nat) (f : Lane → Lane) : (updLane l f s).power = s.power := rfl
@[simp] theorem updLane_reeve (l : Nat) (f : Lane → Lane) : (updLane l f s).reeve = s.reeve := rfl
@[simp] theorem updLane_nextUid (l : Nat) (f : Lane → Lane) : (updLane l f s).nextUid = s.nextUid := rfl

@[simp] theorem setJob_time (p : Nat) (j : Job) : (setJob p j s).time = s.time := rfl
@[simp] theorem setJob_pending (p : Nat) (j : Job) : (setJob p j s).pending = s.pending := rfl
@[simp] theorem setJob_free (p : Nat) (j : Job) : (setJob p j s).free = s.free := rfl
@[simp] theorem setJob_regs (p : Nat) (j : Job) : (setJob p j s).regs = s.regs := rfl
@[simp] theorem setJob_loLatch (p : Nat) (j : Job) : (setJob p j s).loLatch = s.loLatch := rfl
@[simp] theorem setJob_hiLatch (p : Nat) (j : Job) : (setJob p j s).hiLatch = s.hiLatch := rfl
@[simp] theorem setJob_subUnits (p : Nat) (j : Job) : (setJob p j s).subUnits = s.subUnits := rfl
@[simp] theorem setJob_lockSince (p : Nat) (j : Job) : (setJob p j s).lockSince = s.lockSince := rfl
@[simp] theorem setJob_mem (p : Nat) (j : Job) : (setJob p j s).mem = s.mem := rfl
@[simp] theorem setJob_owners (p : Nat) (j : Job) : (setJob p j s).owners = s.owners := rfl
@[simp] theorem setJob_crofts (p : Nat) (j : Job) : (setJob p j s).crofts = s.crofts := rfl
@[simp] theorem setJob_memsys (p : Nat) (j : Job) : (setJob p j s).memsys = s.memsys := rfl
@[simp] theorem setJob_tally (p : Nat) (j : Job) : (setJob p j s).tally = s.tally := rfl
@[simp] theorem setJob_host (p : Nat) (j : Job) : (setJob p j s).host = s.host := rfl
@[simp] theorem setJob_parts (p : Nat) (j : Job) : (setJob p j s).parts = s.parts := rfl
@[simp] theorem setJob_foldq (p : Nat) (j : Job) : (setJob p j s).foldq = s.foldq := rfl
@[simp] theorem setJob_power (p : Nat) (j : Job) : (setJob p j s).power = s.power := rfl
@[simp] theorem setJob_reeve (p : Nat) (j : Job) : (setJob p j s).reeve = s.reeve := rfl
@[simp] theorem setJob_nextUid (p : Nat) (j : Job) : (setJob p j s).nextUid = s.nextUid := rfl

@[simp] theorem updJob_time (p : Nat) (f : Job → Job) : (updJob p f s).time = s.time := rfl
@[simp] theorem updJob_pending (p : Nat) (f : Job → Job) : (updJob p f s).pending = s.pending := rfl
@[simp] theorem updJob_free (p : Nat) (f : Job → Job) : (updJob p f s).free = s.free := rfl
@[simp] theorem updJob_regs (p : Nat) (f : Job → Job) : (updJob p f s).regs = s.regs := rfl
@[simp] theorem updJob_loLatch (p : Nat) (f : Job → Job) : (updJob p f s).loLatch = s.loLatch := rfl
@[simp] theorem updJob_hiLatch (p : Nat) (f : Job → Job) : (updJob p f s).hiLatch = s.hiLatch := rfl
@[simp] theorem updJob_subUnits (p : Nat) (f : Job → Job) : (updJob p f s).subUnits = s.subUnits := rfl
@[simp] theorem updJob_lockSince (p : Nat) (f : Job → Job) : (updJob p f s).lockSince = s.lockSince := rfl
@[simp] theorem updJob_mem (p : Nat) (f : Job → Job) : (updJob p f s).mem = s.mem := rfl
@[simp] theorem updJob_owners (p : Nat) (f : Job → Job) : (updJob p f s).owners = s.owners := rfl
@[simp] theorem updJob_crofts (p : Nat) (f : Job → Job) : (updJob p f s).crofts = s.crofts := rfl
@[simp] theorem updJob_memsys (p : Nat) (f : Job → Job) : (updJob p f s).memsys = s.memsys := rfl
@[simp] theorem updJob_tally (p : Nat) (f : Job → Job) : (updJob p f s).tally = s.tally := rfl
@[simp] theorem updJob_host (p : Nat) (f : Job → Job) : (updJob p f s).host = s.host := rfl
@[simp] theorem updJob_parts (p : Nat) (f : Job → Job) : (updJob p f s).parts = s.parts := rfl
@[simp] theorem updJob_foldq (p : Nat) (f : Job → Job) : (updJob p f s).foldq = s.foldq := rfl
@[simp] theorem updJob_power (p : Nat) (f : Job → Job) : (updJob p f s).power = s.power := rfl
@[simp] theorem updJob_reeve (p : Nat) (f : Job → Job) : (updJob p f s).reeve = s.reeve := rfl
@[simp] theorem updJob_nextUid (p : Nat) (f : Job → Job) : (updJob p f s).nextUid = s.nextUid := rfl

/-! Requests, cache lines and seals -/

@[simp] theorem setLine_time (i set way : Nat) (l : Option Line) : (setLine i set way l s).time = s.time := rfl
@[simp] theorem setLine_pending (i set way : Nat) (l : Option Line) : (setLine i set way l s).pending = s.pending := rfl
@[simp] theorem setLine_free (i set way : Nat) (l : Option Line) : (setLine i set way l s).free = s.free := rfl
@[simp] theorem setLine_regs (i set way : Nat) (l : Option Line) : (setLine i set way l s).regs = s.regs := rfl
@[simp] theorem setLine_loLatch (i set way : Nat) (l : Option Line) : (setLine i set way l s).loLatch = s.loLatch := rfl
@[simp] theorem setLine_hiLatch (i set way : Nat) (l : Option Line) : (setLine i set way l s).hiLatch = s.hiLatch := rfl
@[simp] theorem setLine_subUnits (i set way : Nat) (l : Option Line) : (setLine i set way l s).subUnits = s.subUnits := rfl
@[simp] theorem setLine_lockSince (i set way : Nat) (l : Option Line) : (setLine i set way l s).lockSince = s.lockSince := rfl
@[simp] theorem setLine_mem (i set way : Nat) (l : Option Line) : (setLine i set way l s).mem = s.mem := rfl
@[simp] theorem setLine_owners (i set way : Nat) (l : Option Line) : (setLine i set way l s).owners = s.owners := rfl
@[simp] theorem setLine_crofts (i set way : Nat) (l : Option Line) : (setLine i set way l s).crofts = s.crofts := rfl
@[simp] theorem setLine_tally (i set way : Nat) (l : Option Line) : (setLine i set way l s).tally = s.tally := rfl
@[simp] theorem setLine_host (i set way : Nat) (l : Option Line) : (setLine i set way l s).host = s.host := rfl
@[simp] theorem setLine_parts (i set way : Nat) (l : Option Line) : (setLine i set way l s).parts = s.parts := rfl
@[simp] theorem setLine_foldq (i set way : Nat) (l : Option Line) : (setLine i set way l s).foldq = s.foldq := rfl
@[simp] theorem setLine_mill (i set way : Nat) (l : Option Line) : (setLine i set way l s).mill = s.mill := rfl
@[simp] theorem setLine_power (i set way : Nat) (l : Option Line) : (setLine i set way l s).power = s.power := rfl
@[simp] theorem setLine_reeve (i set way : Nat) (l : Option Line) : (setLine i set way l s).reeve = s.reeve := rfl
@[simp] theorem setLine_nextUid (i set way : Nat) (l : Option Line) : (setLine i set way l s).nextUid = s.nextUid := rfl

@[simp] theorem setQueue_time (q : Nat) (l : List Req) : (setQueue q l s).time = s.time := rfl
@[simp] theorem setQueue_pending (q : Nat) (l : List Req) : (setQueue q l s).pending = s.pending := rfl
@[simp] theorem setQueue_free (q : Nat) (l : List Req) : (setQueue q l s).free = s.free := rfl
@[simp] theorem setQueue_regs (q : Nat) (l : List Req) : (setQueue q l s).regs = s.regs := rfl
@[simp] theorem setQueue_loLatch (q : Nat) (l : List Req) : (setQueue q l s).loLatch = s.loLatch := rfl
@[simp] theorem setQueue_hiLatch (q : Nat) (l : List Req) : (setQueue q l s).hiLatch = s.hiLatch := rfl
@[simp] theorem setQueue_subUnits (q : Nat) (l : List Req) : (setQueue q l s).subUnits = s.subUnits := rfl
@[simp] theorem setQueue_lockSince (q : Nat) (l : List Req) : (setQueue q l s).lockSince = s.lockSince := rfl
@[simp] theorem setQueue_mem (q : Nat) (l : List Req) : (setQueue q l s).mem = s.mem := rfl
@[simp] theorem setQueue_owners (q : Nat) (l : List Req) : (setQueue q l s).owners = s.owners := rfl
@[simp] theorem setQueue_crofts (q : Nat) (l : List Req) : (setQueue q l s).crofts = s.crofts := rfl
@[simp] theorem setQueue_tally (q : Nat) (l : List Req) : (setQueue q l s).tally = s.tally := rfl
@[simp] theorem setQueue_host (q : Nat) (l : List Req) : (setQueue q l s).host = s.host := rfl
@[simp] theorem setQueue_parts (q : Nat) (l : List Req) : (setQueue q l s).parts = s.parts := rfl
@[simp] theorem setQueue_foldq (q : Nat) (l : List Req) : (setQueue q l s).foldq = s.foldq := rfl
@[simp] theorem setQueue_mill (q : Nat) (l : List Req) : (setQueue q l s).mill = s.mill := rfl
@[simp] theorem setQueue_power (q : Nat) (l : List Req) : (setQueue q l s).power = s.power := rfl
@[simp] theorem setQueue_reeve (q : Nat) (l : List Req) : (setQueue q l s).reeve = s.reeve := rfl
@[simp] theorem setQueue_nextUid (q : Nat) (l : List Req) : (setQueue q l s).nextUid = s.nextUid := rfl

@[simp] theorem setSliceQueue_time (i : Nat) (l : List Req) : (setSliceQueue i l s).time = s.time := rfl
@[simp] theorem setSliceQueue_pending (i : Nat) (l : List Req) : (setSliceQueue i l s).pending = s.pending := rfl
@[simp] theorem setSliceQueue_free (i : Nat) (l : List Req) : (setSliceQueue i l s).free = s.free := rfl
@[simp] theorem setSliceQueue_regs (i : Nat) (l : List Req) : (setSliceQueue i l s).regs = s.regs := rfl
@[simp] theorem setSliceQueue_loLatch (i : Nat) (l : List Req) : (setSliceQueue i l s).loLatch = s.loLatch := rfl
@[simp] theorem setSliceQueue_hiLatch (i : Nat) (l : List Req) : (setSliceQueue i l s).hiLatch = s.hiLatch := rfl
@[simp] theorem setSliceQueue_subUnits (i : Nat) (l : List Req) : (setSliceQueue i l s).subUnits = s.subUnits := rfl
@[simp] theorem setSliceQueue_lockSince (i : Nat) (l : List Req) : (setSliceQueue i l s).lockSince = s.lockSince := rfl
@[simp] theorem setSliceQueue_mem (i : Nat) (l : List Req) : (setSliceQueue i l s).mem = s.mem := rfl
@[simp] theorem setSliceQueue_owners (i : Nat) (l : List Req) : (setSliceQueue i l s).owners = s.owners := rfl
@[simp] theorem setSliceQueue_crofts (i : Nat) (l : List Req) : (setSliceQueue i l s).crofts = s.crofts := rfl
@[simp] theorem setSliceQueue_tally (i : Nat) (l : List Req) : (setSliceQueue i l s).tally = s.tally := rfl
@[simp] theorem setSliceQueue_host (i : Nat) (l : List Req) : (setSliceQueue i l s).host = s.host := rfl
@[simp] theorem setSliceQueue_parts (i : Nat) (l : List Req) : (setSliceQueue i l s).parts = s.parts := rfl
@[simp] theorem setSliceQueue_foldq (i : Nat) (l : List Req) : (setSliceQueue i l s).foldq = s.foldq := rfl
@[simp] theorem setSliceQueue_mill (i : Nat) (l : List Req) : (setSliceQueue i l s).mill = s.mill := rfl
@[simp] theorem setSliceQueue_power (i : Nat) (l : List Req) : (setSliceQueue i l s).power = s.power := rfl
@[simp] theorem setSliceQueue_reeve (i : Nat) (l : List Req) : (setSliceQueue i l s).reeve = s.reeve := rfl
@[simp] theorem setSliceQueue_nextUid (i : Nat) (l : List Req) : (setSliceQueue i l s).nextUid = s.nextUid := rfl

@[simp] theorem setSeal_time (fn : Nat) (k : Option Seal) : (setSeal fn k s).time = s.time := rfl
@[simp] theorem setSeal_pending (fn : Nat) (k : Option Seal) : (setSeal fn k s).pending = s.pending := rfl
@[simp] theorem setSeal_free (fn : Nat) (k : Option Seal) : (setSeal fn k s).free = s.free := rfl
@[simp] theorem setSeal_regs (fn : Nat) (k : Option Seal) : (setSeal fn k s).regs = s.regs := rfl
@[simp] theorem setSeal_loLatch (fn : Nat) (k : Option Seal) : (setSeal fn k s).loLatch = s.loLatch := rfl
@[simp] theorem setSeal_hiLatch (fn : Nat) (k : Option Seal) : (setSeal fn k s).hiLatch = s.hiLatch := rfl
@[simp] theorem setSeal_subUnits (fn : Nat) (k : Option Seal) : (setSeal fn k s).subUnits = s.subUnits := rfl
@[simp] theorem setSeal_lockSince (fn : Nat) (k : Option Seal) : (setSeal fn k s).lockSince = s.lockSince := rfl
@[simp] theorem setSeal_mem (fn : Nat) (k : Option Seal) : (setSeal fn k s).mem = s.mem := rfl
@[simp] theorem setSeal_owners (fn : Nat) (k : Option Seal) : (setSeal fn k s).owners = s.owners := rfl
@[simp] theorem setSeal_crofts (fn : Nat) (k : Option Seal) : (setSeal fn k s).crofts = s.crofts := rfl
@[simp] theorem setSeal_memsys (fn : Nat) (k : Option Seal) : (setSeal fn k s).memsys = s.memsys := rfl
@[simp] theorem setSeal_tally (fn : Nat) (k : Option Seal) : (setSeal fn k s).tally = s.tally := rfl
@[simp] theorem setSeal_parts (fn : Nat) (k : Option Seal) : (setSeal fn k s).parts = s.parts := rfl
@[simp] theorem setSeal_foldq (fn : Nat) (k : Option Seal) : (setSeal fn k s).foldq = s.foldq := rfl
@[simp] theorem setSeal_mill (fn : Nat) (k : Option Seal) : (setSeal fn k s).mill = s.mill := rfl
@[simp] theorem setSeal_power (fn : Nat) (k : Option Seal) : (setSeal fn k s).power = s.power := rfl
@[simp] theorem setSeal_reeve (fn : Nat) (k : Option Seal) : (setSeal fn k s).reeve = s.reeve := rfl
@[simp] theorem setSeal_nextUid (fn : Nat) (k : Option Seal) : (setSeal fn k s).nextUid = s.nextUid := rfl

@[simp] theorem setPoison_time (p : Nat) (v : Bool) : (setPoison p v s).time = s.time := rfl
@[simp] theorem setPoison_pending (p : Nat) (v : Bool) : (setPoison p v s).pending = s.pending := rfl
@[simp] theorem setPoison_free (p : Nat) (v : Bool) : (setPoison p v s).free = s.free := rfl
@[simp] theorem setPoison_regs (p : Nat) (v : Bool) : (setPoison p v s).regs = s.regs := rfl
@[simp] theorem setPoison_loLatch (p : Nat) (v : Bool) : (setPoison p v s).loLatch = s.loLatch := rfl
@[simp] theorem setPoison_hiLatch (p : Nat) (v : Bool) : (setPoison p v s).hiLatch = s.hiLatch := rfl
@[simp] theorem setPoison_subUnits (p : Nat) (v : Bool) : (setPoison p v s).subUnits = s.subUnits := rfl
@[simp] theorem setPoison_lockSince (p : Nat) (v : Bool) : (setPoison p v s).lockSince = s.lockSince := rfl
@[simp] theorem setPoison_mem (p : Nat) (v : Bool) : (setPoison p v s).mem = s.mem := rfl
@[simp] theorem setPoison_owners (p : Nat) (v : Bool) : (setPoison p v s).owners = s.owners := rfl
@[simp] theorem setPoison_crofts (p : Nat) (v : Bool) : (setPoison p v s).crofts = s.crofts := rfl
@[simp] theorem setPoison_tally (p : Nat) (v : Bool) : (setPoison p v s).tally = s.tally := rfl
@[simp] theorem setPoison_host (p : Nat) (v : Bool) : (setPoison p v s).host = s.host := rfl
@[simp] theorem setPoison_parts (p : Nat) (v : Bool) : (setPoison p v s).parts = s.parts := rfl
@[simp] theorem setPoison_foldq (p : Nat) (v : Bool) : (setPoison p v s).foldq = s.foldq := rfl
@[simp] theorem setPoison_mill (p : Nat) (v : Bool) : (setPoison p v s).mill = s.mill := rfl
@[simp] theorem setPoison_power (p : Nat) (v : Bool) : (setPoison p v s).power = s.power := rfl
@[simp] theorem setPoison_reeve (p : Nat) (v : Bool) : (setPoison p v s).reeve = s.reeve := rfl
@[simp] theorem setPoison_nextUid (p : Nat) (v : Bool) : (setPoison p v s).nextUid = s.nextUid := rfl

@[simp] theorem setMsix_time (fn : Nat) (m : Msix) : (setMsix fn m s).time = s.time := rfl
@[simp] theorem setMsix_pending (fn : Nat) (m : Msix) : (setMsix fn m s).pending = s.pending := rfl
@[simp] theorem setMsix_free (fn : Nat) (m : Msix) : (setMsix fn m s).free = s.free := rfl
@[simp] theorem setMsix_regs (fn : Nat) (m : Msix) : (setMsix fn m s).regs = s.regs := rfl
@[simp] theorem setMsix_loLatch (fn : Nat) (m : Msix) : (setMsix fn m s).loLatch = s.loLatch := rfl
@[simp] theorem setMsix_hiLatch (fn : Nat) (m : Msix) : (setMsix fn m s).hiLatch = s.hiLatch := rfl
@[simp] theorem setMsix_subUnits (fn : Nat) (m : Msix) : (setMsix fn m s).subUnits = s.subUnits := rfl
@[simp] theorem setMsix_lockSince (fn : Nat) (m : Msix) : (setMsix fn m s).lockSince = s.lockSince := rfl
@[simp] theorem setMsix_mem (fn : Nat) (m : Msix) : (setMsix fn m s).mem = s.mem := rfl
@[simp] theorem setMsix_owners (fn : Nat) (m : Msix) : (setMsix fn m s).owners = s.owners := rfl
@[simp] theorem setMsix_crofts (fn : Nat) (m : Msix) : (setMsix fn m s).crofts = s.crofts := rfl
@[simp] theorem setMsix_memsys (fn : Nat) (m : Msix) : (setMsix fn m s).memsys = s.memsys := rfl
@[simp] theorem setMsix_tally (fn : Nat) (m : Msix) : (setMsix fn m s).tally = s.tally := rfl
@[simp] theorem setMsix_parts (fn : Nat) (m : Msix) : (setMsix fn m s).parts = s.parts := rfl
@[simp] theorem setMsix_foldq (fn : Nat) (m : Msix) : (setMsix fn m s).foldq = s.foldq := rfl
@[simp] theorem setMsix_mill (fn : Nat) (m : Msix) : (setMsix fn m s).mill = s.mill := rfl
@[simp] theorem setMsix_power (fn : Nat) (m : Msix) : (setMsix fn m s).power = s.power := rfl
@[simp] theorem setMsix_reeve (fn : Nat) (m : Msix) : (setMsix fn m s).reeve = s.reeve := rfl
@[simp] theorem setMsix_nextUid (fn : Nat) (m : Msix) : (setMsix fn m s).nextUid = s.nextUid := rfl

@[simp] theorem updPci_time (f : Pci → Pci) : (updPci f s).time = s.time := rfl
@[simp] theorem updPci_pending (f : Pci → Pci) : (updPci f s).pending = s.pending := rfl
@[simp] theorem updPci_free (f : Pci → Pci) : (updPci f s).free = s.free := rfl
@[simp] theorem updPci_regs (f : Pci → Pci) : (updPci f s).regs = s.regs := rfl
@[simp] theorem updPci_loLatch (f : Pci → Pci) : (updPci f s).loLatch = s.loLatch := rfl
@[simp] theorem updPci_hiLatch (f : Pci → Pci) : (updPci f s).hiLatch = s.hiLatch := rfl
@[simp] theorem updPci_subUnits (f : Pci → Pci) : (updPci f s).subUnits = s.subUnits := rfl
@[simp] theorem updPci_lockSince (f : Pci → Pci) : (updPci f s).lockSince = s.lockSince := rfl
@[simp] theorem updPci_mem (f : Pci → Pci) : (updPci f s).mem = s.mem := rfl
@[simp] theorem updPci_owners (f : Pci → Pci) : (updPci f s).owners = s.owners := rfl
@[simp] theorem updPci_crofts (f : Pci → Pci) : (updPci f s).crofts = s.crofts := rfl
@[simp] theorem updPci_memsys (f : Pci → Pci) : (updPci f s).memsys = s.memsys := rfl
@[simp] theorem updPci_tally (f : Pci → Pci) : (updPci f s).tally = s.tally := rfl
@[simp] theorem updPci_parts (f : Pci → Pci) : (updPci f s).parts = s.parts := rfl
@[simp] theorem updPci_foldq (f : Pci → Pci) : (updPci f s).foldq = s.foldq := rfl
@[simp] theorem updPci_mill (f : Pci → Pci) : (updPci f s).mill = s.mill := rfl
@[simp] theorem updPci_power (f : Pci → Pci) : (updPci f s).power = s.power := rfl
@[simp] theorem updPci_reeve (f : Pci → Pci) : (updPci f s).reeve = s.reeve := rfl
@[simp] theorem updPci_nextUid (f : Pci → Pci) : (updPci f s).nextUid = s.nextUid := rfl

@[simp] theorem updSpdm_time (fn : Nat) (f : Spdm → Spdm) : (updSpdm fn f s).time = s.time := rfl
@[simp] theorem updSpdm_pending (fn : Nat) (f : Spdm → Spdm) : (updSpdm fn f s).pending = s.pending := rfl
@[simp] theorem updSpdm_free (fn : Nat) (f : Spdm → Spdm) : (updSpdm fn f s).free = s.free := rfl
@[simp] theorem updSpdm_regs (fn : Nat) (f : Spdm → Spdm) : (updSpdm fn f s).regs = s.regs := rfl
@[simp] theorem updSpdm_loLatch (fn : Nat) (f : Spdm → Spdm) : (updSpdm fn f s).loLatch = s.loLatch := rfl
@[simp] theorem updSpdm_hiLatch (fn : Nat) (f : Spdm → Spdm) : (updSpdm fn f s).hiLatch = s.hiLatch := rfl
@[simp] theorem updSpdm_subUnits (fn : Nat) (f : Spdm → Spdm) : (updSpdm fn f s).subUnits = s.subUnits := rfl
@[simp] theorem updSpdm_lockSince (fn : Nat) (f : Spdm → Spdm) : (updSpdm fn f s).lockSince = s.lockSince := rfl
@[simp] theorem updSpdm_mem (fn : Nat) (f : Spdm → Spdm) : (updSpdm fn f s).mem = s.mem := rfl
@[simp] theorem updSpdm_owners (fn : Nat) (f : Spdm → Spdm) : (updSpdm fn f s).owners = s.owners := rfl
@[simp] theorem updSpdm_crofts (fn : Nat) (f : Spdm → Spdm) : (updSpdm fn f s).crofts = s.crofts := rfl
@[simp] theorem updSpdm_memsys (fn : Nat) (f : Spdm → Spdm) : (updSpdm fn f s).memsys = s.memsys := rfl
@[simp] theorem updSpdm_tally (fn : Nat) (f : Spdm → Spdm) : (updSpdm fn f s).tally = s.tally := rfl
@[simp] theorem updSpdm_parts (fn : Nat) (f : Spdm → Spdm) : (updSpdm fn f s).parts = s.parts := rfl
@[simp] theorem updSpdm_foldq (fn : Nat) (f : Spdm → Spdm) : (updSpdm fn f s).foldq = s.foldq := rfl
@[simp] theorem updSpdm_mill (fn : Nat) (f : Spdm → Spdm) : (updSpdm fn f s).mill = s.mill := rfl
@[simp] theorem updSpdm_power (fn : Nat) (f : Spdm → Spdm) : (updSpdm fn f s).power = s.power := rfl
@[simp] theorem updSpdm_reeve (fn : Nat) (f : Spdm → Spdm) : (updSpdm fn f s).reeve = s.reeve := rfl
@[simp] theorem updSpdm_nextUid (fn : Nat) (f : Spdm → Spdm) : (updSpdm fn f s).nextUid = s.nextUid := rfl

@[simp] theorem updFw_time (f : Firmware → Firmware) : (updFw f s).time = s.time := rfl
@[simp] theorem updFw_pending (f : Firmware → Firmware) : (updFw f s).pending = s.pending := rfl
@[simp] theorem updFw_free (f : Firmware → Firmware) : (updFw f s).free = s.free := rfl
@[simp] theorem updFw_regs (f : Firmware → Firmware) : (updFw f s).regs = s.regs := rfl
@[simp] theorem updFw_loLatch (f : Firmware → Firmware) : (updFw f s).loLatch = s.loLatch := rfl
@[simp] theorem updFw_hiLatch (f : Firmware → Firmware) : (updFw f s).hiLatch = s.hiLatch := rfl
@[simp] theorem updFw_subUnits (f : Firmware → Firmware) : (updFw f s).subUnits = s.subUnits := rfl
@[simp] theorem updFw_lockSince (f : Firmware → Firmware) : (updFw f s).lockSince = s.lockSince := rfl
@[simp] theorem updFw_mem (f : Firmware → Firmware) : (updFw f s).mem = s.mem := rfl
@[simp] theorem updFw_owners (f : Firmware → Firmware) : (updFw f s).owners = s.owners := rfl
@[simp] theorem updFw_crofts (f : Firmware → Firmware) : (updFw f s).crofts = s.crofts := rfl
@[simp] theorem updFw_memsys (f : Firmware → Firmware) : (updFw f s).memsys = s.memsys := rfl
@[simp] theorem updFw_tally (f : Firmware → Firmware) : (updFw f s).tally = s.tally := rfl
@[simp] theorem updFw_host (f : Firmware → Firmware) : (updFw f s).host = s.host := rfl
@[simp] theorem updFw_parts (f : Firmware → Firmware) : (updFw f s).parts = s.parts := rfl
@[simp] theorem updFw_foldq (f : Firmware → Firmware) : (updFw f s).foldq = s.foldq := rfl
@[simp] theorem updFw_mill (f : Firmware → Firmware) : (updFw f s).mill = s.mill := rfl
@[simp] theorem updFw_power (f : Firmware → Firmware) : (updFw f s).power = s.power := rfl
@[simp] theorem updFw_nextUid (f : Firmware → Firmware) : (updFw f s).nextUid = s.nextUid := rfl

variable {s}

/-! ### Bit fields -/

theorem setBits_testBit (lo w v n i : Nat) :
    (setBits lo w v n).testBit i = if lo ≤ i ∧ i < lo + w then v.testBit (i - lo) else n.testBit i := by
  have hn : n = 2 ^ lo * (2 ^ w * (n / 2 ^ lo / 2 ^ w) + bits lo w n) + n % 2 ^ lo := by
    unfold bits
    rw [Nat.div_add_mod, Nat.div_add_mod]
  have hs : setBits lo w v n = 2 ^ lo * (2 ^ w * (n / 2 ^ lo / 2 ^ w) + v % 2 ^ w) + n % 2 ^ lo := by
    have h1 : bits lo w n * 2 ^ lo ≤ n := by
      conv_rhs => rw [hn]
      nlinarith [Nat.zero_le (2 ^ lo * (2 ^ w * (n / 2 ^ lo / 2 ^ w))), Nat.zero_le (n % 2 ^ lo)]
    have h2 : n - bits lo w n * 2 ^ lo = 2 ^ lo * (2 ^ w * (n / 2 ^ lo / 2 ^ w)) + n % 2 ^ lo := by
      conv_lhs => arg 1; rw [hn]
      rw [Nat.mul_add, Nat.mul_comm (bits lo w n)]
      omega
    unfold setBits
    rw [h2, Nat.mul_add, Nat.mul_comm (v % 2 ^ w)]
    omega
  have hb : bits lo w n < 2 ^ w := Nat.mod_lt _ (Nat.two_pow_pos w)
  have hv : v % 2 ^ w < 2 ^ w := Nat.mod_lt _ (Nat.two_pow_pos w)
  have hl : n % 2 ^ lo < 2 ^ lo := Nat.mod_lt _ (Nat.two_pow_pos lo)
  rw [hs]
  conv_rhs => rw [hn]
  rw [Nat.testBit_two_pow_mul_add _ hl, Nat.testBit_two_pow_mul_add _ hl, Nat.testBit_two_pow_mul_add _ hv,
    Nat.testBit_two_pow_mul_add _ hb]
  by_cases h : i < lo
  · simp [h, show ¬ lo ≤ i by omega]
  · by_cases h' : i - lo < w
    · simp [h, h', show lo ≤ i by omega, show i < lo + w by omega]
    · simp [h, h', show ¬ i < lo + w by omega]

theorem bits_testBit (lo w n i : Nat) : (bits lo w n).testBit i = (decide (i < w) && n.testBit (lo + i)) := by
  unfold bits
  rw [Nat.testBit_mod_two_pow, Nat.testBit_div_two_pow, Nat.add_comm]

@[simp] theorem bits_setBits_same (lo w v n : Nat) : bits lo w (setBits lo w v n) = v % 2 ^ w := by
  apply Nat.eq_of_testBit_eq
  intro i
  rw [bits_testBit, setBits_testBit, Nat.testBit_mod_two_pow]
  by_cases h : i < w <;> simp [h]

theorem bits_setBits_other {lo w lo' w' : Nat} (h : lo' + w' ≤ lo ∨ lo + w ≤ lo') (v n : Nat) :
    bits lo' w' (setBits lo w v n) = bits lo' w' n := by
  apply Nat.eq_of_testBit_eq
  intro i
  rw [bits_testBit, setBits_testBit, bits_testBit]
  by_cases hi : i < w'
  · simp [hi, show ¬ (lo ≤ lo' + i ∧ lo' + i < lo + w) by omega]
  · simp [hi]

theorem setBits_lt {lo w n k : Nat} (v : Nat) (h : lo + w ≤ k) (hn : n < 2 ^ k) : setBits lo w v n < 2 ^ k := by
  apply Nat.lt_pow_two_of_testBit
  intro i hi
  rw [setBits_testBit, if_neg (by omega)]
  exact Nat.testBit_lt_two_pow (lt_of_lt_of_le hn (Nat.pow_le_pow_right (by omega) hi))

/-! ### Registers -/

theorem getW_setW (b off b' off' : Nat) (w : Word) (s : State) :
    getW b off (setW b' off' w s) = if regKey b off = regKey b' off' then w else getW b off s := by
  simp [getW, setW, mapGet_mapPut]

@[simp] theorem getW_setW_same (b off : Nat) (w : Word) (s : State) : getW b off (setW b off w s) = w := by
  simp [getW_setW]

theorem getW_setW_other {b off b' off' : Nat} (h : regKey b off ≠ regKey b' off') (w : Word) (s : State) :
    getW b off (setW b' off' w s) = getW b off s := by
  simp [getW_setW, h]

theorem getW_setF_other {b off b' : Nat} {f : Field} (h : regKey b off ≠ regKey b' f.off) (v : Nat) (s : State) :
    getW b off (setF b' f v s) = getW b off s := getW_setW_other h _ s

theorem insertField_toNat {f : Field} (h : f.lo + f.width ≤ 32) (v : Nat) (w : Word) :
    (insertField f v w).toNat = setBits f.lo f.width v w.toNat := by
  unfold insertField
  rw [BitVec.toNat_ofNat, Nat.mod_eq_of_lt (setBits_lt v h w.isLt)]

theorem getF_setF_same {f : Field} (h : f.lo + f.width ≤ 32) (b v : Nat) (s : State) :
    getF b f (setF b f v s) = v % 2 ^ f.width := by
  simp [getF, setF, insertField_toNat h]

theorem getF_setF_reg {b b' : Nat} {f g : Field} (h : regKey b g.off ≠ regKey b' f.off) (v : Nat) (s : State) :
    getF b g (setF b' f v s) = getF b g s := by
  simp [getF, setF, getW_setW, h]

theorem getF_setF_disjoint {b : Nat} {f g : Field} (hf : f.lo + f.width ≤ 32) (ho : g.off = f.off)
    (h : g.lo + g.width ≤ f.lo ∨ f.lo + f.width ≤ g.lo) (v : Nat) (s : State) :
    getF b g (setF b f v s) = getF b g s := by
  simp [getF, setF, ho, insertField_toNat hf, bits_setBits_other h]

/-! ### Crofts, partitions, tallies, rings, lanes, jobs -/

theorem croftOf_setCroft (c c' : Nat) (k : Croft) (s : State) :
    croftOf c (setCroft c' k s) = if c = c' then k else croftOf c s := by
  simp [croftOf, setCroft, mapGet_mapPut]

@[simp] theorem croftOf_setCroft_same (c : Nat) (k : Croft) (s : State) : croftOf c (setCroft c k s) = k := by
  simp [croftOf_setCroft]

@[simp] theorem croftOf_updCroft_same (c : Nat) (f : Croft → Croft) (s : State) :
    croftOf c (updCroft c f s) = f (croftOf c s) := by
  simp [updCroft]

theorem croftOf_updCroft_other {c c' : Nat} (h : c ≠ c') (f : Croft → Croft) (s : State) :
    croftOf c (updCroft c' f s) = croftOf c s := by
  simp [updCroft, croftOf_setCroft, h]

theorem croftOf_congr {s t : State} (h : t.crofts = s.crofts) (c : Nat) : croftOf c t = croftOf c s := by
  simp [croftOf, h]

theorem partOf_setPart (p p' : Nat) (k : Part) (s : State) :
    partOf p (setPart p' k s) = if p = p' then k else partOf p s := by
  simp [partOf, setPart, mapGet_mapPut]

@[simp] theorem partOf_setPart_same (p : Nat) (k : Part) (s : State) : partOf p (setPart p k s) = k := by
  simp [partOf_setPart]

@[simp] theorem partOf_updPart_same (p : Nat) (f : Part → Part) (s : State) :
    partOf p (updPart p f s) = f (partOf p s) := by
  simp [updPart]

theorem partOf_updPart_other {p p' : Nat} (h : p ≠ p') (f : Part → Part) (s : State) :
    partOf p (updPart p' f s) = partOf p s := by
  simp [updPart, partOf_setPart, h]

@[simp] theorem tallyOf_setTally_same (p : Nat) (t : Tally) (s : State) : tallyOf p (setTally p t s) = t := by
  simp [tallyOf, setTally]

theorem tallyOf_setTally_other {p p' : Nat} (h : p ≠ p') (t : Tally) (s : State) :
    tallyOf p (setTally p' t s) = tallyOf p s := by
  simp [tallyOf, setTally, mapGet_mapPut, h]

@[simp] theorem ringOf_setRing_same (fn : Nat) (r : EvRing) (s : State) : ringOf fn (setRing fn r s) = r := by
  simp [ringOf, setRing]

theorem ringOf_setRing_other {fn fn' : Nat} (h : fn ≠ fn') (r : EvRing) (s : State) :
    ringOf fn (setRing fn' r s) = ringOf fn s := by
  simp [ringOf, setRing, mapGet_mapPut, h]

@[simp] theorem laneOf_setLane_same (l : Nat) (x : Lane) (s : State) : laneOf l (setLane l x s) = x := by
  simp [laneOf, setLane]

theorem laneOf_setLane_other {l l' : Nat} (h : l ≠ l') (x : Lane) (s : State) :
    laneOf l (setLane l' x s) = laneOf l s := by
  simp [laneOf, setLane, mapGet_mapPut, h]

@[simp] theorem jobOf_setJob_same (p : Nat) (j : Job) (s : State) : jobOf p (setJob p j s) = j := by
  simp [jobOf, setJob]

theorem jobOf_setJob_other {p p' : Nat} (h : p ≠ p') (j : Job) (s : State) :
    jobOf p (setJob p' j s) = jobOf p s := by
  simp [jobOf, setJob, mapGet_mapPut, h]

@[simp] theorem lineAt_setLine_same (i set way : Nat) (l : Option Line) (s : State) :
    lineAt i set way (setLine i set way l s) = l := by
  simp [lineAt, setLine]

@[simp] theorem queueOf_setQueue_same (q : Nat) (l : List Req) (s : State) : queueOf q (setQueue q l s) = l := by
  simp [queueOf, setQueue]

theorem queueOf_setQueue_other {q q' : Nat} (h : q ≠ q') (l : List Req) (s : State) :
    queueOf q (setQueue q' l s) = queueOf q s := by
  simp [queueOf, setQueue, mapGet_mapPut, h]

@[simp] theorem sliceQueue_setSliceQueue_same (i : Nat) (l : List Req) (s : State) :
    sliceQueue i (setSliceQueue i l s) = l := by
  simp [sliceQueue, setSliceQueue]

theorem sliceQueue_setSliceQueue_other {i i' : Nat} (h : i ≠ i') (l : List Req) (s : State) :
    sliceQueue i (setSliceQueue i' l s) = sliceQueue i s := by
  simp [sliceQueue, setSliceQueue, mapGet_mapPut, h]

@[simp] theorem queueOf_setSliceQueue (q i : Nat) (l : List Req) (s : State) :
    queueOf q (setSliceQueue i l s) = queueOf q s := rfl

@[simp] theorem sliceQueue_setQueue (q i : Nat) (l : List Req) (s : State) :
    sliceQueue i (setQueue q l s) = sliceQueue i s := rfl

@[simp] theorem msixOf_setMsix_same (fn : Nat) (m : Msix) (s : State) : msixOf fn (setMsix fn m s) = m := by
  simp [msixOf, setMsix]

@[simp] theorem spdmOf_updSpdm_same (fn : Nat) (f : Spdm → Spdm) (s : State) :
    spdmOf fn (updSpdm fn f s) = f (spdmOf fn s) := by
  simp [spdmOf, updSpdm]

@[simp] theorem sealOf_setSeal_same (fn : Nat) (k : Option Seal) (s : State) : sealOf fn (setSeal fn k s) = k := by
  simp [sealOf, setSeal]

end Sys2Proof.Machine
end

