-- ==== Sys2Proof/Laws/Memory.lean ====
section
/-!
SUPPORT. Laws of memory: a read after a write of the same place gives the byte written, a write leaves every other place
alone, and writing keeps the canonical form.
-/
namespace Sys2Proof.Machine

@[simp] theorem rd_wr_same (p : Nat) (b : Byte) (s : State) : rd p (wr p b s) = b := by simp [rd, wr]

theorem rd_wr_other {p q : Nat} (h : q ≠ p) (b : Byte) (s : State) : rd q (wr p b s) = rd q s := by
  simp [rd, wr, mapGet_mapPut_other _ h]

theorem memWf_wr (p : Nat) (b : Byte) (s : State) (h : memWf s = true) : memWf (wr p b s) = true :=
  mapWf_mapPut _ p b _ h

theorem memWf_wrN (l : List Byte) (p : Nat) (s : State) (h : memWf s = true) : memWf (wrN p l s) = true := by
  induction l generalizing p s with
  | nil => exact h
  | cons b r ih => exact ih (p + 1) _ (memWf_wr p b s h)

theorem rd_wrN_before {p q : Nat} (l : List Byte) (h : q < p) (s : State) : rd q (wrN p l s) = rd q s := by
  induction l generalizing p s with
  | nil => rfl
  | cons b r ih => rw [wrN, ih (by omega), rd_wr_other (by omega)]

theorem rd_wrN_after {p q : Nat} (l : List Byte) (h : p + l.length ≤ q) (s : State) : rd q (wrN p l s) = rd q s := by
  induction l generalizing p s with
  | nil => rfl
  | cons b r ih =>
    simp only [List.length_cons] at h
    rw [wrN, ih (by omega), rd_wr_other (by omega)]

theorem rd_wrN_within (p i : Nat) (l : List Byte) (h : i < l.length) (s : State) :
    rd (p + i) (wrN p l s) = l[i] := by
  induction l generalizing p i s with
  | nil => simp at h
  | cons b r ih =>
    cases i with
    | zero => rw [wrN, rd_wrN_before r (by omega)]; simp
    | succ i => simpa [wrN, Nat.add_comm, Nat.add_left_comm] using ih (p + 1) i (by simpa using h) (wr p b s)

theorem rangeFrom_length (p n : Nat) : (rangeFrom p n).length = n := by
  induction n generalizing p with
  | zero => rfl
  | succ n ih => simp [rangeFrom, ih]

theorem rangeFrom_getElem (p n i : Nat) (h : i < (rangeFrom p n).length) : (rangeFrom p n)[i] = p + i := by
  induction n generalizing p i with
  | zero => simp [rangeFrom] at h
  | succ n ih =>
    cases i with
    | zero => simp [rangeFrom]
    | succ i =>
      have := ih (p + 1) i (by simpa [rangeFrom] using h)
      simp only [rangeFrom, List.getElem_cons_succ, this]
      omega

/-- Reading back what was written. -/
theorem rdN_wrN_same (p : Nat) (l : List Byte) (s : State) : rdN p l.length (wrN p l s) = l := by
  apply List.ext_getElem
  · simp [rdN, rangeFrom_length]
  · intro i h1 h2
    simp only [rdN, List.getElem_map, rangeFrom_getElem, rd_wrN_within p i l h2]

@[simp] theorem wrN_pending (p : Nat) (l : List Byte) (s : State) : (wrN p l s).pending = s.pending := by
  induction l generalizing p s with
  | nil => rfl
  | cons b r ih => rw [wrN, ih, wr_pending]

@[simp] theorem wrN_regs (p : Nat) (l : List Byte) (s : State) : (wrN p l s).regs = s.regs := by
  induction l generalizing p s with
  | nil => rfl
  | cons b r ih => rw [wrN, ih, wr_regs]

end Sys2Proof.Machine
end

