-- ==== Sys2Proof/Laws/Keeps.lean ====
section
/-!
SUPPORT. What every command keeps: the relation `Keeps` between the state before and the state after. It is reflexive and
transitive, and every operation of the machine has one lemma that says it keeps it; the rules that hold of every step
follow from these lemmas.
-/
namespace Sys2Proof.Machine

/-- Each croft holds at most 16 descriptors, in its queue and on the fabric to it (03 R82, R91). -/
def Credits (s : State) : Prop := ∀ c, (croftOf c s).queue.length + (croftOf c s).arriving.length ≤ 16

/-- The register file, and the words that the permanent area restores, lie in the canonical form. -/
def RegsOk (s : State) : Prop := mapWf resetWord s.regs = true ∧ mapWf resetWord s.reeve.perm = true

/-- What every operation of the machine keeps. -/
structure Keeps (s t : State) : Prop where
  pending : t.pending = s.pending
  free : s.free ≤ t.free
  mem : memWf s = true → memWf t = true
  owners : mapWf unwritten s.owners = true → mapWf unwritten t.owners = true
  regs : RegsOk s → RegsOk t
  credits : Credits s → Credits t
  retired : s.reeve.retired <+: t.reeve.retired
  revoked : ∀ i, s.reeve.fw.revoked.testBit i = true → t.reeve.fw.revoked.testBit i = true

theorem Keeps.refl (s : State) : Keeps s s :=
  ⟨rfl, le_refl _, id, id, id, id, List.prefix_refl _, fun _ h => h⟩

theorem Keeps.trans {r s t : State} (h : Keeps r s) (k : Keeps s t) : Keeps r t :=
  ⟨k.pending.trans h.pending, h.free.trans k.free, k.mem ∘ h.mem, k.owners ∘ h.owners, k.regs ∘ h.regs,
    k.credits ∘ h.credits, h.retired.trans k.retired, fun i x => k.revoked i (h.revoked i x)⟩

/-- An update of parts that Keeps says nothing about; the counter of the free values may move on. -/
theorem Keeps.upd {r s : State} {time free : Nat} {lo hi sub lock memsys tally host parts foldq mill power} {reeve : Reeve}
    {uid : Nat} (h : Keeps r s) (h0 : s.free ≤ free) (h1 : reeve.perm = s.reeve.perm)
    (h2 : reeve.retired = s.reeve.retired) (h3 : reeve.fw.revoked = s.reeve.fw.revoked) :
    Keeps r ⟨time, s.pending, free, s.regs, lo, hi, sub, lock, s.mem, s.owners, s.crofts, memsys, tally, host, parts,
      foldq, mill, power, reeve, uid⟩ :=
  h.trans ⟨rfl, h0, id, id, fun x => ⟨x.1, h1 ▸ x.2⟩, id, by simp [h2], fun i x => by simpa [h3] using x⟩

/-- An update of memory that keeps its canonical form, and of parts that Keeps says nothing about. -/
theorem Keeps.updMem {r s : State} {time free : Nat} {lo hi sub lock mem memsys tally host parts foldq mill power}
    {uid : Nat} (h : Keeps r s) (h0 : s.free ≤ free) (hm : mapWf unwritten s.mem = true → mapWf unwritten mem = true) :
    Keeps r ⟨time, s.pending, free, s.regs, lo, hi, sub, lock, mem, s.owners, s.crofts, memsys, tally, host, parts,
      foldq, mill, power, s.reeve, uid⟩ :=
  h.trans ⟨rfl, h0, hm, id, id, id, List.prefix_refl _, fun _ x => x⟩

/-- An update of the range owner table that keeps its canonical form. -/
theorem Keeps.updOwners {r s : State} {m : SMap Byte} (h : Keeps r s)
    (hm : mapWf unwritten s.owners = true → mapWf unwritten m = true) : Keeps r { s with owners := m } :=
  h.trans ⟨rfl, le_refl _, id, hm, id, id, List.prefix_refl _, fun _ h => h⟩

/-- An update of the words that the permanent area restores. -/
theorem Keeps.perm {r s : State} {m : SMap Word} (h : Keeps r s)
    (hm : mapWf resetWord s.reeve.perm = true → mapWf resetWord m = true) :
    Keeps r { s with reeve := { s.reeve with perm := m } } :=
  h.trans ⟨rfl, le_refl _, id, id, fun x => ⟨x.1, hm x.2⟩, id, List.prefix_refl _, fun _ h => h⟩

/-- One more unit is retired. -/
theorem Keeps.retire {r s : State} {u : Nat} (h : Keeps r s) :
    Keeps r { s with reeve := { s.reeve with retired := s.reeve.retired ++ [u] } } :=
  h.trans ⟨rfl, le_refl _, id, id, id, id, List.prefix_append _ _, fun _ h => h⟩

theorem mapWf_foldl {α β : Type} [DecidableEq α] {d : Nat → α} {f : SMap α → β → SMap α} {l : List β} {m : SMap α}
    (hf : ∀ m b, mapWf d m = true → mapWf d (f m b) = true) (h : mapWf d m = true) : mapWf d (l.foldl f m) = true := by
  induction l generalizing m with
  | nil => exact h
  | cons b l ih => exact ih (hf m b h)

theorem Keeps.ite {c : Prop} [Decidable c] {r s t : State} (h : c → Keeps r s) (k : ¬c → Keeps r t) :
    Keeps r (if c then s else t) := by
  split
  · next x => exact h x
  · next x => exact k x

theorem Keeps.foldl {α : Type} {r s : State} {f : State → α → State} {l : List α} (h : Keeps r s)
    (hf : ∀ t a, Keeps r t → Keeps r (f t a)) : Keeps r (l.foldl f s) := by
  induction l generalizing s with
  | nil => exact h
  | cons a l ih => exact ih (hf s a h)

theorem Keeps.forAll {α : Type} {r s : State} {f : α → State → State} {l : List α} (h : Keeps r s)
    (hf : ∀ t a, Keeps r t → Keeps r (f a t)) : Keeps r (forAll l f s) := Keeps.foldl h hf

theorem Keeps.getD {r s : State} {o : Option State} (h : Keeps r s) (ho : ∀ t, o = some t → Keeps r t) :
    Keeps r (o.getD s) := by
  cases o with
  | none => exact h
  | some t => exact ho t rfl

theorem Keeps.foldP {α β : Type} {r : State} {f : β × State → α → β × State} {l : List α} {o : β × State} (h : Keeps r o.2)
    (hf : ∀ o a, Keeps r o.2 → Keeps r (f o a).2) : Keeps r (l.foldl f o).2 := by
  induction l generalizing o with
  | nil => exact h
  | cons a l ih => exact ih (hf o a h)

/-- An answer that, where there is one, holds (at the place π) a state that Keeps allows. -/
def OKeeps {β : Type} (r : State) (π : β → State) (o : Option β) : Prop := ∀ b, o = some b → Keeps r (π b)

theorem OKeeps.of {β : Type} {r : State} {π : β → State} {o : Option β} {b : β} (h : OKeeps r π o) (e : o = some b) :
    Keeps r (π b) := h b e

theorem OKeeps.val {β : Type} {r : State} {π : β → State} {b : β} (h : OKeeps r π (some b)) : Keeps r (π b) := h b rfl

theorem OKeeps.none {β : Type} {r : State} {π : β → State} : OKeeps r π none := nofun

theorem OKeeps.some {β : Type} {r : State} {π : β → State} {b : β} (h : Keeps r (π b)) : OKeeps r π (some b) :=
  fun _ e => Option.some.inj e ▸ h

theorem OKeeps.ite {β : Type} {c : Prop} [Decidable c] {r : State} {π : β → State} {o p : Option β} (h : c → OKeeps r π o)
    (k : ¬c → OKeeps r π p) : OKeeps r π (if c then o else p) := by
  by_cases x : c
  · exact if_pos x ▸ h x
  · exact if_neg x ▸ k x

theorem OKeeps.bind {α β : Type} {r : State} {π : β → State} {o : Option α} {f : α → Option β}
    (h : ∀ a, o = .some a → OKeeps r π (f a)) : OKeeps r π (o.bind f) := fun b e =>
  have ⟨a, x, y⟩ := Option.bind_eq_some_iff.1 e
  h a x b y

theorem OKeeps.bindS {β : Type} {r : State} {π : β → State} {o : Option State} {f : State → Option β} (ho : OKeeps r id o)
    (h : ∀ s, Keeps r s → OKeeps r π (f s)) : OKeeps r π (o.bind f) := OKeeps.bind fun s e => h s (ho.of e)

theorem OKeeps.map {α β : Type} {r : State} {π : β → State} {o : Option α} {f : α → β}
    (h : ∀ a, o = .some a → Keeps r (π (f a))) : OKeeps r π (o.map f) := fun b e =>
  have ⟨a, x, y⟩ := Option.map_eq_some_iff.1 e
  y ▸ h a x

theorem OKeeps.foldl {α β : Type} {r : State} {π : β → State} {f : Option β → α → Option β} {l : List α} {o : Option β}
    (h : OKeeps r π o) (hf : ∀ o a, OKeeps r π o → OKeeps r π (f o a)) : OKeeps r π (l.foldl f o) := by
  induction l generalizing o with
  | nil => exact h
  | cons a l ih => exact ih (hf o a h)

theorem Keeps.snd {α : Type} {r : State} {x : α × State} {a : α} {t : State} (h : Keeps r x.2) (e : x = (a, t)) :
    Keeps r t := by
  rw [e] at h
  exact h

/-- The state with which a task's step ends, whether it stops or not. -/
def stateOf {α : Type} : EStateM.Result Stop State α → State
  | .ok _ t => t
  | .error _ t => t

/-- A task's step that keeps what every operation keeps. -/
def TKeeps {α : Type} (m : TM α) : Prop := ∀ r s, Keeps r s → Keeps r (stateOf (m s))

theorem TKeeps.pure {α : Type} (a : α) : TKeeps (Pure.pure a : TM α) := fun _ _ h => h

theorem TKeeps.bind {α β : Type} {m : TM α} {f : α → TM β} (h : TKeeps m) (k : ∀ a, TKeeps (f a)) :
    TKeeps (m >>= f) := by
  intro r s hs
  have := h r s hs
  simp only [Bind.bind, EStateM.bind]
  cases e : m s with
  | ok a t => rw [e] at this; exact k a r t this
  | error a t => rw [e] at this; exact this

theorem TKeeps.throw {α : Type} (x : Stop) : TKeeps (throw x : TM α) := fun _ _ h => h

theorem TKeeps.get : TKeeps (get : TM State) := fun _ _ h => h

/-- A step that reads the state and goes on from that same state. -/
theorem TKeeps.getBind {β : Type} {f : State → TM β} (k : ∀ r s, Keeps r s → Keeps r (stateOf (f s s))) :
    TKeeps (MonadState.get >>= f) := fun r s h => k r s h

theorem TKeeps.modify {f : State → State} (h : ∀ r s, Keeps r s → Keeps r (f s)) : TKeeps (modify f : TM Unit) :=
  fun r s hs => h r s hs

theorem TKeeps.ite {α : Type} {c : Prop} [Decidable c] {m n : TM α} (h : c → TKeeps m) (k : ¬c → TKeeps n) :
    TKeeps (if c then m else n) := by
  split
  · next x => exact h x
  · next x => exact k x

theorem TKeeps.foldlM {α β : Type} {f : β → α → TM β} {l : List α} {b : β} (h : ∀ b a, TKeeps (f b a)) :
    TKeeps (l.foldlM f b) := by
  induction l generalizing b with
  | nil => exact TKeeps.pure b
  | cons a l ih => rw [List.foldlM_cons]; exact TKeeps.bind (h b a) fun _ => ih

theorem TKeeps.forM {α : Type} {f : α → TM PUnit} {l : List α} (h : ∀ a, TKeeps (f a)) : TKeeps (l.forM f) := by
  induction l with
  | nil => exact TKeeps.pure _
  | cons a l ih => exact TKeeps.bind (h a) fun _ => ih

theorem TKeeps.mapM {α β : Type} {f : α → TM β} {l : List α} (h : ∀ a, TKeeps (f a)) : TKeeps (l.mapM f) := by
  induction l with
  | nil => exact TKeeps.pure _
  | cons a l ih =>
    rw [List.mapM_cons]
    exact TKeeps.bind (h a) fun _ => TKeeps.bind ih fun _ => TKeeps.pure _

theorem TKeeps.filterMapM {α β : Type} {f : α → TM (Option β)} {l : List α} (h : ∀ a, TKeeps (f a)) :
    TKeeps (l.filterMapM f) := by
  unfold List.filterMapM
  have loop (l : List α) (acc : List β) : TKeeps (List.filterMapM.loop f l acc) := by
    induction l generalizing acc with
    | nil => exact TKeeps.pure _
    | cons a l ih =>
      unfold List.filterMapM.loop
      refine TKeeps.bind (h a) fun o => ?_
      cases o <;> exact ih _
  exact loop l []

theorem TKeeps.ok {α : Type} {m : TM α} {a : α} {r s t : State} (h : TKeeps m) (hs : Keeps r s) (e : m s = .ok a t) :
    Keeps r t := by
  have := h r s hs
  rw [e] at this
  exact this

theorem TKeeps.error {α : Type} {m : TM α} {x : Stop} {r s t : State} (h : TKeeps m) (hs : Keeps r s)
    (e : m s = .error x t) : Keeps r t := by
  have := h r s hs
  rw [e] at this
  exact this

theorem TKeeps.after {α : Type} {m : TM α} (h : TKeeps m) {r s : State} (hs : Keeps r s) : Keeps r (stateOf (m s)) :=
  h r s hs

end Sys2Proof.Machine
end

