-- ==== Sys2Proof/Laws/KeepsOps.lean ====
section
/-!
SUPPORT. Every definition of the model that makes a state keeps what Keeps names: the shared operations, tasks, tallies, sequencers and bolts. One lemma each, so
that a proof about a command cites its lemma and unfolds nothing.
-/
namespace Sys2Proof.Machine

/-! ### Ops -/

theorem setW_keeps {r : State} {b off : Nat} {w : Word} {s : State} (h : Keeps r s) : Keeps r (setW b off w s) :=
  h.trans ⟨rfl, le_refl _, id, id, fun x => ⟨mapWf_mapPut _ _ _ _ x.1, x.2⟩, id, List.prefix_refl _, fun _ h => h⟩

theorem setF_keeps {r₀ : State} {b : Nat} {f : Field} {v : Nat} {s : State} (h₀ : Keeps r₀ s)
    : Keeps r₀ (setF b f v s) := by
  unfold setF
  exact setW_keeps (by assumption)

theorem addF_keeps {r₀ : State} {b : Nat} {f : Field} {n : Nat} {s : State} (h₀ : Keeps r₀ s)
    : Keeps r₀ (addF b f n s) := by
  unfold addF
  exact setF_keeps (by assumption)

theorem addUnits_keeps {r₀ : State} {b : Nat} {f : Field} {n : Nat} {s : State} (h₀ : Keeps r₀ s)
    : Keeps r₀ (addUnits b f n s) := by
  unfold addUnits
  dsimp only
  apply addF_keeps
  with_reducible refine Keeps.upd ?_ (Nat.le_refl _) rfl rfl rfl
  assumption

theorem setPair_keeps {r₀ : State} {b : Nat} {lo : Field} {hi : Field} {v : Nat} {s : State} (h₀ : Keeps r₀ s)
    : Keeps r₀ (setPair b lo hi v s) := by
  unfold setPair
  exact setF_keeps (setF_keeps (by assumption))

theorem fresh_keeps {r₀ : State} {s : State} (h₀ : Keeps r₀ s) : Keeps r₀ (fresh s).2 := by
  unfold fresh
  dsimp only
  with_reducible refine Keeps.upd ?_ (Nat.le_add_right _ _) rfl rfl rfl
  assumption

theorem noteSensor_keeps {r₀ : State} {i : Nat} {t : BitVec 8} {s : State} (h₀ : Keeps r₀ s) : Keeps r₀
    (noteSensor i t s) := by
  unfold noteSensor
  dsimp only
  apply setF_keeps
  apply setF_keeps
  with_reducible refine Keeps.upd ?_ (Nat.le_refl _) rfl rfl rfl
  assumption

theorem setCroft_keeps {r : State} {c : Nat} {k : Croft} {s : State} (h : Keeps r s)
    (hk : k.queue.length + k.arriving.length ≤ (croftOf c s).queue.length + (croftOf c s).arriving.length) :
    Keeps r (setCroft c k s) := by
  refine h.trans ⟨rfl, le_refl _, id, id, id, fun x c' => ?_, List.prefix_refl _, fun _ h => h⟩
  rw [croftOf_setCroft]
  split
  · exact le_trans hk (x c)
  · exact x c'

theorem updCroft_keeps {r : State} {c : Nat} {f : Croft → Croft} {s : State}
    (hf : ∀ k, (f k).queue.length + (f k).arriving.length ≤ k.queue.length + k.arriving.length) (h : Keeps r s) :
    Keeps r (updCroft c f s) := setCroft_keeps h (hf _)

theorem updCroft_keeps' {r : State} {c : Nat} {f : Croft → Croft} {s : State}
    (hf : (f (croftOf c s)).queue.length + (f (croftOf c s)).arriving.length ≤
      (croftOf c s).queue.length + (croftOf c s).arriving.length) (h : Keeps r s) :
    Keeps r (updCroft c f s) := setCroft_keeps h hf

theorem setPart_keeps {r₀ : State} {p : Nat} {k : Part} {s : State} (h₀ : Keeps r₀ s) : Keeps r₀ (setPart p k s) := by
  unfold setPart
  with_reducible refine Keeps.upd ?_ (Nat.le_refl _) rfl rfl rfl
  assumption

theorem updPart_keeps {r₀ : State} {p : Nat} {f : Part → Part} {s : State} (h₀ : Keeps r₀ s)
    : Keeps r₀ (updPart p f s) := by
  unfold updPart
  exact setPart_keeps (by assumption)

/-! ### Memory -/

theorem wr_keeps {r : State} {p : Nat} {b : Byte} {s : State} (h : Keeps r s) : Keeps r (wr p b s) :=
  h.trans ⟨rfl, le_refl _, memWf_wr _ _ _, id, id, id, List.prefix_refl _, fun _ h => h⟩

theorem wrN_keeps {r : State} {p : Nat} {l : List Byte} {s : State} (h : Keeps r s) : Keeps r (wrN p l s) := by
  induction l generalizing p s with
  | nil => exact h
  | cons b l ih => exact ih (wr_keeps h)

theorem freeBytes_wf {sel : Nat → Bool} {n b : Nat} {m : List Host.Cell} (h : keysFrom b m = true) :
    keysFrom b (freeBytes sel n m) = true ∧ (∀ e ∈ freeBytes sel n m, e.2 ≠ unwritten e.1) := by
  induction m generalizing n b with
  | nil => simp [freeBytes, keysFrom]
  | cons e r ih =>
    obtain ⟨p, v⟩ := e
    simp only [keysFrom, Bool.and_eq_true, decide_eq_true_eq] at h
    have k := ih (n := n + 1) h.2
    unfold freeBytes
    dsimp only
    generalize (if sel p = true then BitVec.ofNat 8 (Config.freeValue n) else v) = w
    by_cases hw : w = unwritten p
    · rw [if_pos hw]
      exact ⟨keysFrom_mono (by omega) _ k.1, k.2⟩
    · rw [if_neg hw]
      refine ⟨by simp [keysFrom, h.1, k.1], fun e he => ?_⟩
      rcases List.mem_cons.1 he with rfl | he
      · exact hw
      · exact k.2 e he

theorem loseBytes_keeps {r₀ : State} {sel : Nat → Bool} {s : State} (h₀ : Keeps r₀ s) : Keeps r₀ (loseBytes sel s) := by
  refine h₀.updMem (Nat.le_add_right _ _) fun x => ?_
  simp only [mapWf, Bool.and_eq_true, List.all_eq_true, decide_eq_true_eq] at x ⊢
  exact freeBytes_wf x.1

theorem loseRange_keeps {r₀ : State} {lo : Nat} {hi : Nat} {s : State} (h₀ : Keeps r₀ s)
    : Keeps r₀ (loseRange lo hi s) := by
  unfold loseRange
  exact loseBytes_keeps (by assumption)

theorem setPoison_keeps {r₀ : State} {p : Nat} {v : Bool} {s : State} (h₀ : Keeps r₀ s)
    : Keeps r₀ (setPoison p v s) := by
  unfold setPoison
  with_reducible refine Keeps.upd ?_ (Nat.le_refl _) rfl rfl rfl
  assumption

theorem retag_keeps {r₀ : State} {g : Nat} {a : Nat} {p : Nat} {s : State} (h₀ : Keeps r₀ s) : Keeps r₀ (retag g a p
    s) := by
  unfold retag
  dsimp only
  refine Keeps.ite (fun _ => ?_) (fun _ => ?_)
  · assumption
  · apply wrN_keeps
    with_reducible refine Keeps.upd ?_ (Nat.le_refl _) rfl rfl rfl
    assumption

theorem storeByte_keeps {r₀ : State} {g : Nat} {a : Nat} {p : Nat} {b : Byte} {s : State} (h₀ : Keeps r₀ s) : Keeps r₀
    (storeByte g a p b s) := by
  unfold storeByte
  exact wr_keeps (retag_keeps (by assumption))

theorem setLine_keeps {r₀ : State} {slice : Nat} {set : Nat} {way : Nat} {l : Option Line} {s : State} (h₀
    : Keeps r₀ s) : Keeps r₀ (setLine slice set way l s) := by
  unfold setLine
  with_reducible refine Keeps.upd ?_ (Nat.le_refl _) rfl rfl rfl
  assumption

theorem writeBack_keeps {r₀ : State} {p : Nat} {slice : Nat} {set : Nat} {way : Nat} {tag : Nat} {i : Nat}
    {s : State} (h₀ : Keeps r₀ s) : Keeps r₀ (writeBack p slice set way tag i s) := by
  unfold writeBack
  dsimp only
  split
  · assumption
  · apply setPoison_keeps
    refine Keeps.foldl ?_ (fun _ _ _ => ?_)
    · exact addF_keeps (by assumption)
    · exact storeByte_keeps (by assumption)

theorem cleanLine_keeps {r₀ : State} {p : Nat} {slice : Nat} {set : Nat} {way : Nat} {s : State} (h₀
    : Keeps r₀ s) : Keeps r₀ (cleanLine p slice set way s) := by
  unfold cleanLine
  split
  · assumption
  · dsimp only
    apply setLine_keeps
    refine Keeps.foldl ?_ (fun _ _ _ => ?_)
    · assumption
    · refine Keeps.ite (fun _ => ?_) (fun _ => ?_)
      · exact writeBack_keeps (by assumption)
      · assumption

theorem takeLine_keeps {r₀ : State} {p : Nat} {slice : Nat} {set : Nat} {tag : Nat} {s : State} (h₀
    : Keeps r₀ s) : Keeps r₀ (takeLine p slice set tag s).2 := by
  unfold takeLine
  dsimp only
  split
  · split
    · dsimp only
      apply setLine_keeps
      with_reducible refine Keeps.upd ?_ (Nat.le_refl _) rfl rfl rfl
      assumption
    · dsimp only
      with_reducible refine Keeps.upd ?_ (Nat.le_refl _) rfl rfl rfl
      assumption
  · dsimp only
    apply setLine_keeps
    apply cleanLine_keeps
    with_reducible refine Keeps.upd ?_ (Nat.le_refl _) rfl rfl rfl
    assumption

theorem poisonAnswered_keeps {r₀ : State} {a : Nat} {s : State} (h₀ : Keeps r₀ s) : Keeps r₀ (poisonAnswered a s) := by
  unfold poisonAnswered
  split
  · exact addF_keeps (by assumption)
  · assumption

theorem fillGranule_keeps {r₀ : State} {p : Nat} {slice : Nat} {set : Nat} {way : Nat} {tag : Nat} {i : Nat} {s : State} (h₀
    : Keeps r₀ s) : Keeps r₀ (fillGranule p slice set way tag i s) := by
  unfold fillGranule
  split
  · dsimp only
    apply addF_keeps
    apply setLine_keeps
    apply setPoison_keeps
    refine Keeps.ite (fun _ => ?_) (fun _ => ?_)
    · exact poisonAnswered_keeps (wrN_keeps (by assumption))
    · exact wrN_keeps (by assumption)
  · assumption

theorem cacheWriteGranule_keeps {r₀ : State} {p : Nat} {slice : Nat} {set : Nat} {a : Nat} {bytes : List Byte}
    {s : State} (h₀ : Keeps r₀ s) : Keeps r₀ (cacheWriteGranule p slice set a bytes s) := by
  unfold cacheWriteGranule
  dsimp only
  split
  · refine Keeps.ite (fun _ => ?_) (fun _ => ?_)
    · apply setPoison_keeps
      apply wrN_keeps
      refine Keeps.ite (fun _ => ?_) (fun _ => ?_)
      · exact addF_keeps (takeLine_keeps (by assumption))
      · exact fillGranule_keeps (takeLine_keeps (by assumption))
    · apply wrN_keeps
      refine Keeps.ite (fun _ => ?_) (fun _ => ?_)
      · exact addF_keeps (takeLine_keeps (by assumption))
      · exact fillGranule_keeps (takeLine_keeps (by assumption))
  · apply setLine_keeps
    refine Keeps.ite (fun _ => ?_) (fun _ => ?_)
    · apply setPoison_keeps
      apply wrN_keeps
      refine Keeps.ite (fun _ => ?_) (fun _ => ?_)
      · exact addF_keeps (takeLine_keeps (by assumption))
      · exact fillGranule_keeps (takeLine_keeps (by assumption))
    · apply wrN_keeps
      refine Keeps.ite (fun _ => ?_) (fun _ => ?_)
      · exact addF_keeps (takeLine_keeps (by assumption))
      · exact fillGranule_keeps (takeLine_keeps (by assumption))

theorem cacheReadGranule_keeps {r₀ : State} {p : Nat} {slice : Nat} {set : Nat} {a : Nat} {s : State} (h₀
    : Keeps r₀ s) : Keeps r₀ (cacheReadGranule p slice set a s) := by
  unfold cacheReadGranule
  dsimp only
  refine Keeps.ite (fun _ => ?_) (fun _ => ?_)
  · exact addF_keeps (takeLine_keeps (by assumption))
  · exact fillGranule_keeps (takeLine_keeps (by assumption))

theorem store0_keeps {r₀ : State} {p : Nat} {a : Nat} {bytes : List Byte} {s : State} (h₀ : Keeps r₀ s)
    : Keeps r₀ (store0 p a bytes s) := by
  unfold store0
  refine Keeps.foldl ?_ (fun _ _ _ => ?_)
  · refine Keeps.foldl ?_ (fun _ _ _ => ?_)
    · assumption
    · split
      · exact cacheWriteGranule_keeps (by assumption)
      · assumption
  · dsimp only
    split
    · assumption
    · split
      · assumption
      · refine Keeps.ite (fun _ => ?_) (fun _ => ?_)
        · apply setPoison_keeps
          refine Keeps.foldl ?_ (fun _ _ _ => ?_)
          · assumption
          · exact storeByte_keeps (by assumption)
        · refine Keeps.foldl ?_ (fun _ _ _ => ?_)
          · assumption
          · exact storeByte_keeps (by assumption)

theorem setQueue_keeps {r₀ : State} {q : Nat} {l : List Req} {s : State} (h₀ : Keeps r₀ s)
    : Keeps r₀ (setQueue q l s) := by
  unfold setQueue
  with_reducible refine Keeps.upd ?_ (Nat.le_refl _) rfl rfl rfl
  assumption

theorem setSliceQueue_keeps {r₀ : State} {i : Nat} {l : List Req} {s : State} (h₀ : Keeps r₀ s)
    : Keeps r₀ (setSliceQueue i l s) := by
  unfold setSliceQueue
  with_reducible refine Keeps.upd ?_ (Nat.le_refl _) rfl rfl rfl
  assumption

theorem arriveAt_keeps {r₀ : State} {q : Nat} {r : Req} {s : State} (h₀ : Keeps r₀ s) : Keeps r₀ (arriveAt q r s) := by
  unfold arriveAt
  exact setQueue_keeps (by assumption)

theorem postReq_keeps {r₀ : State} {eng : Nat} {p : Nat} {space : Nat} {a : Nat} {n : Nat} {write : Bool} {s : State} (h₀
    : Keeps r₀ s) : Keeps r₀ (postReq eng p space a n write s) := by
  unfold postReq
  dsimp only
  split
  · apply setSliceQueue_keeps
    with_reducible refine Keeps.upd ?_ (Nat.le_refl _) rfl rfl rfl
    assumption
  · refine Keeps.ite (fun _ => ?_) (fun _ => ?_)
    · with_reducible refine Keeps.upd ?_ (Nat.le_refl _) rfl rfl rfl
      assumption
    · apply arriveAt_keeps
      with_reducible refine Keeps.upd ?_ (Nat.le_refl _) rfl rfl rfl
      assumption
  · with_reducible refine Keeps.upd ?_ (Nat.le_refl _) rfl rfl rfl
    assumption

theorem memAsk_keeps {r₀ : State} {eng : Nat} {p : Nat} {space : Nat} {a : Nat} {n : Nat} {write : Bool} {s : State} (h₀ :
    Keeps r₀ s) : Keeps r₀ (memAsk eng p space a n write s) := by
  unfold memAsk
  refine Keeps.foldl ?_ (fun _ _ _ => ?_)
  · assumption
  · exact postReq_keeps (by assumption)

theorem admitWaiting_keeps {r₀ : State} {q : Nat} {s : State} (h₀ : Keeps r₀ s) : Keeps r₀ (admitWaiting q s) := by
  unfold admitWaiting
  dsimp only
  refine Keeps.foldl ?_ (fun _ _ _ => ?_)
  · with_reducible refine Keeps.upd ?_ (Nat.le_refl _) rfl rfl rfl
    assumption
  · refine Keeps.ite (fun _ => ?_) (fun _ => ?_)
    · refine Keeps.ite (fun _ => ?_) (fun _ => ?_)
      · with_reducible refine Keeps.upd ?_ (Nat.le_refl _) rfl rfl rfl
        assumption
      · apply arriveAt_keeps
        with_reducible refine Keeps.upd ?_ (Nat.le_refl _) rfl rfl rfl
        assumption
    · with_reducible refine Keeps.upd ?_ (Nat.le_refl _) rfl rfl rfl
      assumption

theorem servePiece_keeps {r₀ : State} {r : Req} {poison : Bool} {late : Bool} {s : State} (h₀ : Keeps r₀ s) :
    Keeps r₀ (servePiece r poison late s) := by
  unfold servePiece
  refine Keeps.ite (fun _ => ?_) (fun _ => ?_)
  · refine updCroft_keeps (fun _ => Nat.le_refl _) ?_
    assumption
  · assumption

theorem poisonQueue_keeps {r₀ : State} {q : Nat} {s : State} (h₀ : Keeps r₀ s) : Keeps r₀ (poisonQueue q s) := by
  unfold poisonQueue
  dsimp only
  refine Keeps.foldl ?_ (fun _ _ _ => ?_)
  · apply setQueue_keeps
    with_reducible refine Keeps.upd ?_ (Nat.le_refl _) rfl rfl rfl
    assumption
  · apply servePiece_keeps
    refine Keeps.ite (fun _ => ?_) (fun _ => ?_)
    · assumption
    · exact addF_keeps (by assumption)

theorem level1_keeps {r₀ : State} {t₀ : Nat × State} {p : Nat} {va : Nat} {s : State} (h₀ : Keeps r₀ s) (e₀ : level1 p
    va s = some t₀) : Keeps r₀ t₀.2 := by
  refine OKeeps.of (π := Prod.snd) ?_ e₀
  unfold level1
  dsimp only
  split
  · refine OKeeps.some ?_
    dsimp only
    assumption
  · refine OKeeps.ite (fun _ => ?_) (fun _ => ?_)
    · refine OKeeps.some ?_
      dsimp only
      exact updPart_keeps (memAsk_keeps (by assumption))
    · exact OKeeps.none

theorem level2_keeps {r₀ : State} {t₀ : Nat × State} {p : Nat} {va : Nat} {e1 : Nat} {s : State} (h₀ : Keeps r₀ s) (e₀ :
    level2 p va e1 s = some t₀) : Keeps r₀ t₀.2 := by
  refine OKeeps.of (π := Prod.snd) ?_ e₀
  unfold level2
  dsimp only
  split
  · refine OKeeps.some ?_
    dsimp only
    assumption
  · refine OKeeps.ite (fun _ => ?_) (fun _ => ?_)
    · refine OKeeps.some ?_
      dsimp only
      exact updPart_keeps (memAsk_keeps (by assumption))
    · exact OKeeps.none

theorem hostXlate_keeps {r₀ : State} {t₀ : Nat × Bool × State} {p : Nat} {va : Nat} {write : Bool} {s : State} (h₀ :
    Keeps r₀ s) (e₀ : hostXlate p va write s = some t₀) : Keeps r₀ t₀.2.2 := by
  refine OKeeps.of (π := fun x => x.2.2) ?_ e₀
  unfold hostXlate
  refine OKeeps.ite (fun _ => ?_) (fun _ => ?_)
  · exact OKeeps.none
  · split
    · exact OKeeps.none
    · refine OKeeps.ite (fun _ => ?_) (fun _ => ?_)
      · exact OKeeps.none
      · refine OKeeps.ite (fun _ => ?_) (fun _ => ?_)
        · refine OKeeps.ite (fun _ => ?_) (fun _ => ?_)
          · exact OKeeps.none
          · refine OKeeps.some ?_
            dsimp only
            refine level1_keeps ?_ (by assumption)
            assumption
        · refine OKeeps.ite (fun _ => ?_) (fun _ => ?_)
          · exact OKeeps.none
          · split
            · exact OKeeps.none
            · refine OKeeps.ite (fun _ => ?_) (fun _ => ?_)
              · exact OKeeps.none
              · refine OKeeps.some ?_
                dsimp only
                refine level2_keeps ?_ (by assumption)
                refine level1_keeps ?_ (by assumption)
                assumption

/-! ### Events -/

theorem setSeal_keeps {r₀ : State} {fn : Nat} {k : Option Seal} {s : State} (h₀ : Keeps r₀ s)
    : Keeps r₀ (setSeal fn k s) := by
  unfold setSeal
  with_reducible refine Keeps.upd ?_ (Nat.le_refl _) rfl rfl rfl
  assumption

theorem fnWrite_keeps {r₀ : State} {t₀ : State} {fn : Nat} {a : Nat} {l : List Byte} {s : State} (h₀ : Keeps r₀ s)
    (e₀ : fnWrite fn a l s = some t₀) : Keeps r₀ t₀ := by
  refine OKeeps.of (π := id) ?_ e₀
  unfold fnWrite
  refine OKeeps.ite (fun _ => ?_) (fun _ => ?_)
  · refine OKeeps.ite (fun _ => ?_) (fun _ => ?_)
    · exact OKeeps.none
    · refine OKeeps.some ?_
      dsimp only [id]
      exact wrN_keeps (by assumption)
  · refine OKeeps.foldl ?_ (fun _ _ _ => ?_)
    · refine OKeeps.some ?_
      dsimp only [id]
      assumption
    · split
      · exact OKeeps.none
      · split
        · exact OKeeps.none
        · refine OKeeps.some ?_
          dsimp only [id]
          apply wrN_keeps
          refine hostXlate_keeps ?_ (by assumption)
          exact OKeeps.val (by assumption)

theorem fnRead_keeps {r₀ : State} {t₀ : List Byte × State} {fn : Nat} {a : Nat} {n : Nat} {s : State} (h₀ : Keeps r₀
    s) (e₀ : fnRead fn a n s = some t₀) : Keeps r₀ t₀.2 := by
  refine OKeeps.of (π := Prod.snd) ?_ e₀
  unfold fnRead
  refine OKeeps.ite (fun _ => ?_) (fun _ => ?_)
  · refine OKeeps.ite (fun _ => ?_) (fun _ => ?_)
    · exact OKeeps.none
    · refine OKeeps.some ?_
      dsimp only
      assumption
  · refine OKeeps.foldl ?_ (fun _ _ _ => ?_)
    · refine OKeeps.some ?_
      dsimp only
      assumption
    · split
      · exact OKeeps.none
      · split
        · exact OKeeps.none
        · refine OKeeps.some ?_
          dsimp only
          refine hostXlate_keeps ?_ (by assumption)
          exact OKeeps.val (by assumption)

theorem journal_keeps {r₀ : State} {kind : Nat} {source : Nat} {part : Nat} {severity : Nat} {payload : Nat}
    {s : State} (h₀ : Keeps r₀ s) : Keeps r₀ (journal kind source part severity payload s) := by
  unfold journal
  dsimp only
  with_reducible refine Keeps.upd ?_ (Nat.le_refl _) rfl rfl rfl
  assumption

theorem setMsix_keeps {r₀ : State} {fn : Nat} {m : Msix} {s : State} (h₀ : Keeps r₀ s) : Keeps r₀ (setMsix fn m s) := by
  unfold setMsix
  with_reducible refine Keeps.upd ?_ (Nat.le_refl _) rfl rfl rfl
  assumption

theorem sendMsix_keeps {r₀ : State} {fn : Nat} {vec : Nat} {s : State} (h₀ : Keeps r₀ s) : Keeps r₀ (sendMsix fn vec
    s) := by
  unfold sendMsix
  with_reducible refine Keeps.upd ?_ (Nat.le_refl _) rfl rfl rfl
  assumption

theorem fireMsix_keeps {r₀ : State} {fn : Nat} {vec : Nat} {s : State} (h₀ : Keeps r₀ s) : Keeps r₀ (fireMsix fn vec
    s) := by
  unfold fireMsix
  dsimp only
  refine Keeps.ite (fun _ => ?_) (fun _ => ?_)
  · with_reducible refine Keeps.upd ?_ (Nat.le_refl _) rfl rfl rfl
    assumption
  · refine Keeps.ite (fun _ => ?_) (fun _ => ?_)
    · apply setMsix_keeps
      with_reducible refine Keeps.upd ?_ (Nat.le_refl _) rfl rfl rfl
      assumption
    · apply sendMsix_keeps
      with_reducible refine Keeps.upd ?_ (Nat.le_refl _) rfl rfl rfl
      assumption

theorem changeMsix_keeps {r₀ : State} {fn : Nat} {m : Msix} {s : State} (h₀ : Keeps r₀ s) : Keeps r₀ (changeMsix
    fn m s) := by
  unfold changeMsix
  dsimp only
  refine Keeps.foldl ?_ (fun _ _ _ => ?_)
  · exact setMsix_keeps (by assumption)
  · exact sendMsix_keeps (by assumption)

theorem pendMsix_keeps {r₀ : State} {fn : Nat} {vec : Nat} {s : State} (h₀ : Keeps r₀ s)
    : Keeps r₀ (pendMsix fn vec s) := by
  unfold pendMsix
  dsimp only
  split
  · refine Keeps.ite (fun _ => ?_) (fun _ => ?_)
    · exact fireMsix_keeps (by assumption)
    · with_reducible refine Keeps.upd ?_ (Nat.le_refl _) rfl rfl rfl
      assumption
  · refine Keeps.ite (fun _ => ?_) (fun _ => ?_)
    · exact fireMsix_keeps (by assumption)
    · with_reducible refine Keeps.upd ?_ (Nat.le_refl _) rfl rfl rfl
      assumption

theorem signal_keeps {r₀ : State} {fn : Nat} {type : Nat} {irq : Bool} {s : State} (h₀ : Keeps r₀ s)
    : Keeps r₀ (signal fn type irq s) := by
  unfold signal
  refine Keeps.ite (fun _ => ?_) (fun _ => ?_)
  · exact fireMsix_keeps (by assumption)
  · refine Keeps.ite (fun _ => ?_) (fun _ => ?_)
    · exact pendMsix_keeps (by assumption)
    · assumption

theorem logAer_keeps {r₀ : State} {fn : Nat} {n : Nat} {s : State} (h₀ : Keeps r₀ s) : Keeps r₀ (logAer fn n s) := by
  unfold logAer
  apply addF_keeps
  with_reducible refine Keeps.upd ?_ (Nat.le_refl _) rfl rfl rfl
  assumption

theorem setRing_keeps {r₀ : State} {fn : Nat} {r : EvRing} {s : State} (h₀ : Keeps r₀ s)
    : Keeps r₀ (setRing fn r s) := by
  unfold setRing
  with_reducible refine Keeps.upd ?_ (Nat.le_refl _) rfl rfl rfl
  assumption

theorem advanceRing_keeps {r₀ : State} {fn : Nat} {s : State} (h₀ : Keeps r₀ s) : Keeps r₀ (advanceRing fn s) := by
  unfold advanceRing
  dsimp only
  exact setRing_keeps (by assumption)

theorem putPlain_keeps {r₀ : State} {t₀ : State} {fn : Nat} {e : Ev} {s : State} (h₀ : Keeps r₀ s) (e₀ : putPlain
    fn e s = some t₀) : Keeps r₀ t₀ := by
  refine OKeeps.of (π := id) ?_ e₀
  unfold putPlain
  dsimp only
  refine OKeeps.map (fun _ _ => ?_)
  dsimp only [id]
  apply advanceRing_keeps
  refine fnWrite_keeps ?_ (by assumption)
  assumption

theorem putSealed_keeps {r₀ : State} {t₀ : State} {fn : Nat} {k : Seal} {e : Ev} {s : State} (h₀ : Keeps r₀ s) (e₀
    : putSealed fn k e s = some t₀) : Keeps r₀ t₀ := by
  refine OKeeps.of (π := id) ?_ e₀
  unfold putSealed
  dsimp only
  split
  · exact OKeeps.none
  · refine OKeeps.map (fun _ _ => ?_)
    dsimp only [id]
    apply setRing_keeps
    apply advanceRing_keeps
    refine fnWrite_keeps ?_ (by assumption)
    refine fnWrite_keeps ?_ (by assumption)
    assumption

theorem putRecord_keeps {r₀ : State} {t₀ : State} {fn : Nat} {e : Ev} {s : State} (h₀ : Keeps r₀ s) (e₀ :
    putRecord fn e s = some t₀) : Keeps r₀ t₀ := by
  refine OKeeps.of (π := id) ?_ e₀
  unfold putRecord
  refine OKeeps.ite (fun _ => ?_) (fun _ => ?_)
  · split
    · refine fun _ e => putSealed_keeps ?_ e
      assumption
    · exact OKeeps.none
  · refine fun _ e => putPlain_keeps ?_ e
    assumption

theorem offer_keeps {r₀ : State} {t₀ : State} {fn : Nat} {e : Ev} {s : State} (h₀ : Keeps r₀ s) (e₀ : offer fn e s
    = some t₀) : Keeps r₀ t₀ := by
  refine OKeeps.of (π := id) ?_ e₀
  unfold offer
  dsimp only
  refine OKeeps.ite (fun _ => ?_) (fun _ => ?_)
  · refine OKeeps.map (fun _ _ => ?_)
    dsimp only [id]
    apply signal_keeps
    refine putRecord_keeps ?_ (by assumption)
    assumption
  · refine OKeeps.ite (fun _ => ?_) (fun _ => ?_)
    · refine OKeeps.some ?_
      dsimp only [id]
      exact setRing_keeps (by assumption)
    · refine OKeeps.some ?_
      dsimp only [id]
      exact addF_keeps (setRing_keeps (by assumption))

theorem toPf_keeps {r₀ : State} {e : Ev} {s : State} (h₀ : Keeps r₀ s) : Keeps r₀ (toPf e s) := by
  unfold toPf
  refine Keeps.ite (fun _ => ?_) (fun _ => ?_)
  · refine Keeps.getD ?_ (fun _ e => offer_keeps ?_ e)
    · assumption
    · assumption
  · assumption

theorem stopEvRing_keeps {r₀ : State} {fn : Nat} {s : State} (h₀ : Keeps r₀ s) : Keeps r₀ (stopEvRing fn s) := by
  unfold stopEvRing
  dsimp only
  refine Keeps.ite (fun _ => ?_) (fun _ => ?_)
  · exact setF_keeps (addF_keeps (by assumption))
  · exact toPf_keeps (setF_keeps (addF_keeps (by assumption)))

theorem toFn_keeps {r₀ : State} {fn : Nat} {e : Ev} {s : State} (h₀ : Keeps r₀ s) : Keeps r₀ (toFn fn e s) := by
  unfold toFn
  refine Keeps.ite (fun _ => ?_) (fun _ => ?_)
  · exact toPf_keeps (by assumption)
  · refine Keeps.ite (fun _ => ?_) (fun _ => ?_)
    · split
      · refine offer_keeps ?_ (by assumption)
        assumption
      · exact stopEvRing_keeps (by assumption)
    · assumption

theorem raise_keeps {r₀ : State} {b : Nat} {type : Nat} {subtype : Nat} {sc : Scope} {ledger : Bool} {payload : Nat}
    {s : State} (h₀ : Keeps r₀ s) : Keeps r₀ (raise b type subtype sc ledger payload s) := by
  unfold raise
  dsimp only
  refine Keeps.ite (fun _ => ?_) (fun _ => ?_)
  · split
    · apply toFn_keeps
      split
      · exact setF_keeps (by assumption)
      · assumption
    · apply toFn_keeps
      split
      · exact setF_keeps (by assumption)
      · assumption
    · refine Keeps.foldl ?_ (fun _ _ _ => ?_)
      · split
        · exact setF_keeps (by assumption)
        · assumption
      · exact toFn_keeps (by assumption)
  · split
    · exact setF_keeps (by assumption)
    · assumption

theorem discard_keeps {r₀ : State} {b : Nat} {bar0 : Nat} {sc : Scope} {s : State} (h₀ : Keeps r₀ s)
    : Keeps r₀ (discard b bar0 sc s) := by
  unfold discard
  exact raise_keeps (addF_keeps (by assumption))

theorem drainHeld_keeps {r₀ : State} {fn n : Nat} {s : State} (h₀ : Keeps r₀ s) : Keeps r₀ (drainHeld fn n s) := by
  induction n generalizing s with
  | zero => exact h₀
  | succ n ih =>
    unfold drainHeld
    dsimp only
    split
    · assumption
    · refine Keeps.ite (fun _ => ?_) (fun _ => ?_)
      · split
        · with_reducible apply ih
          apply signal_keeps
          refine putRecord_keeps ?_ (by assumption)
          exact setRing_keeps (by assumption)
        · exact stopEvRing_keeps (by assumption)
      · assumption

/-! ### Access -/

theorem tFault_keeps {α : Type} {code operand detail : Nat}
    : TKeeps (tFault code operand detail : TM α) := TKeeps.throw _

theorem tFaultSet_keeps {α : Type} {code operand detail : Nat} {l : List (Field × Nat)} :
    TKeeps (tFaultSet code operand detail l : TM α) := TKeeps.throw _

theorem tCheck_keeps {c : Bool} {code operand detail : Nat} : TKeeps (tCheck c code operand detail) := by
  unfold tCheck
  split
  · exact TKeeps.pure _
  · exact TKeeps.throw _

theorem tSound_keeps  {c : Bool} {granule : Nat} : TKeeps (tSound c granule : TM Unit) := by
  unfold tSound
  refine TKeeps.ite (fun _ => ?_) (fun _ => ?_)
  · exact TKeeps.pure _
  · exact TKeeps.throw _

theorem tUpd_keeps {f : State → State} (h : ∀ r s, Keeps r s → Keeps r (f s)) : TKeeps (tUpd f) := TKeeps.modify h

theorem tAnswered_keeps {part : Nat} {a : Nat} {len : Nat} : TKeeps (tAnswered part a len : TM Unit) := by
  unfold tAnswered
  refine TKeeps.bind ?_ (fun _ => ?_)
  · exact TKeeps.get
  · refine TKeeps.ite (fun _ => ?_) (fun _ => ?_)
    · exact TKeeps.throw _
    · exact TKeeps.pure _

theorem tTry_keeps {f : State → Option State} {m : TM Unit} (h : ∀ r s t, Keeps r s → f s = some t → Keeps r t)
    (hm : TKeeps m) : TKeeps (tTry f m) := by
  intro r s hs
  unfold tTry
  cases e : f s with
  | none => exact hm r s hs
  | some t => exact h r s t hs e

theorem logRows_keeps {r₀ : State} {c : TCtx} {space : Nat} {addr : Nat} {len : Nat} {rows : Nat} {stride : Nat}
    {write : Bool} {s : State} (h₀ : Keeps r₀ s) : Keeps r₀ (logRows c space addr len rows stride write s) := by
  unfold logRows
  refine Keeps.ite (fun _ => ?_) (fun _ => ?_)
  · assumption
  · refine updCroft_keeps (fun _ => Nat.le_refl _) ?_
    assumption

theorem logXfer_keeps {r₀ : State} {c : TCtx} {space : Nat} {addr : Nat} {len : Nat} {write : Bool} {s : State}
    (h₀ : Keeps r₀ s) : Keeps r₀ (logXfer c space addr len write s) := by
  unfold logXfer
  refine Keeps.ite (fun _ => ?_) (fun _ => ?_)
  · assumption
  · refine updCroft_keeps (fun _ => Nat.le_refl _) ?_
    assumption

theorem tTranslation_keeps {α : Type} {operand space addr : Nat} : TKeeps (tTranslation operand space addr : TM α) :=
  TKeeps.throw _

theorem failedTag_keeps {r₀ : State} {p : Nat} {addr : Nat} {s : State} (h₀ : Keeps r₀ s)
    : Keeps r₀ (failedTag p addr s) := by
  unfold failedTag
  exact raise_keeps (addF_keeps (by assumption))

theorem sealChunk_keeps {r₀ : State} {p : Nat} {page : Nat} {i : Nat} {va : Nat} {bb : Nat} {plain : List Byte} {s :
    State} (h₀ : Keeps r₀ s) : Keeps r₀ (sealChunk p page i va bb plain s) := by
  unfold sealChunk
  split
  · assumption
  · dsimp only
    exact wrN_keeps (wrN_keeps (setSeal_keeps (by assumption)))

theorem tXlate_keeps {c : TCtx} {operand va : Nat} {write : Bool} : TKeeps (tXlate c operand va write) := by
  have core : TKeeps (do
      match hostXlate c.part va write (← get) with
      | none => tTranslation operand 1 va
      | some (h, bb, s) => set s; pure (h, bb)) := by
    refine TKeeps.getBind fun r s h => ?_
    cases e : hostXlate c.part va write s with
    | none => exact tTranslation_keeps r s h
    | some x => exact hostXlate_keeps h e
  unfold tXlate
  exact TKeeps.bind TKeeps.get fun _ => TKeeps.ite (fun _ => TKeeps.bind tFault_keeps fun _ => core) fun _ => core

theorem readHost_keeps {c : TCtx} {operand : Nat} {a : Nat} {len : Nat} : TKeeps (readHost c operand a len : TM (List
    Byte)) := by
  unfold readHost
  refine TKeeps.bind ?_ (fun _ => ?_)
  · exact TKeeps.get
  · dsimp only
    refine TKeeps.ite (fun _ => ?_) (fun _ => ?_)
    · refine TKeeps.foldlM (fun _ _ => ?_)
      refine TKeeps.bind ?_ (fun _ => ?_)
      · exact tXlate_keeps
      · refine TKeeps.ite (fun _ => ?_) (fun _ => ?_)
        · exact tTranslation_keeps
        · refine TKeeps.bind ?_ (fun _ => ?_)
          · exact TKeeps.get
          · split
            · exact TKeeps.pure _
            · exact TKeeps.throw _
    · refine TKeeps.foldlM (fun _ _ => ?_)
      refine TKeeps.bind ?_ (fun _ => ?_)
      · exact tXlate_keeps
      · refine TKeeps.bind ?_ (fun _ => ?_)
        · exact TKeeps.get
        · exact TKeeps.pure _

theorem writeHost_keeps  {c : TCtx} {operand : Nat} {a : Nat} {l : List Byte}
    : TKeeps (writeHost c operand a l : TM Unit) := by
  unfold writeHost
  refine TKeeps.bind ?_ (fun _ => ?_)
  · exact TKeeps.get
  · dsimp only
    refine TKeeps.ite (fun _ => ?_) (fun _ => ?_)
    · refine TKeeps.ite (fun _ => ?_) (fun _ => ?_)
      · apply tTranslation_keeps
      · refine TKeeps.forM (fun _ => ?_)
        refine TKeeps.bind ?_ (fun _ => ?_)
        · apply tXlate_keeps
        · refine TKeeps.ite (fun _ => ?_) (fun _ => ?_)
          · apply tTranslation_keeps
          · refine tUpd_keeps (fun _ _ _ => ?_)
            exact sealChunk_keeps (by assumption)
    · refine TKeeps.forM (fun _ => ?_)
      refine TKeeps.bind ?_ (fun _ => ?_)
      · apply tXlate_keeps
      · refine tUpd_keeps (fun _ _ _ => ?_)
        exact wrN_keeps (by assumption)

theorem readPeer_keeps  {c : TCtx} {a : Nat} {len : Nat} : TKeeps (readPeer c a len : TM (List Byte)) := by
  unfold readPeer
  refine TKeeps.bind ?_ (fun _ => ?_)
  · exact TKeeps.get
  · dsimp only
    split
    · refine TKeeps.ite (fun _ => ?_) (fun _ => ?_)
      · exact TKeeps.pure _
      · exact TKeeps.throw _
    · exact TKeeps.throw _

theorem tPeek_keeps {c : TCtx} {operand : Nat} {space : Nat} {a : Nat} {len : Nat} : TKeeps (tPeek c operand space a len
    : TM (List Byte)) := by
  unfold tPeek
  refine TKeeps.ite (fun _ => ?_) (fun _ => ?_)
  · exact TKeeps.pure _
  · refine TKeeps.ite (fun _ => ?_) (fun _ => ?_)
    · refine TKeeps.bind ?_ (fun _ => ?_)
      · exact TKeeps.get
      · split
        · exact tTranslation_keeps
        · refine TKeeps.bind ?_ (fun _ => ?_)
          · exact TKeeps.get
          · exact TKeeps.pure _
    · refine TKeeps.ite (fun _ => ?_) (fun _ => ?_)
      · refine TKeeps.bind ?_ (fun _ => ?_)
        · exact TKeeps.get
        · refine TKeeps.ite (fun _ => ?_) (fun _ => ?_)
          · refine TKeeps.bind ?_ (fun _ => ?_)
            · exact tAnswered_keeps
            · refine TKeeps.bind ?_ (fun _ => ?_)
              · exact TKeeps.get
              · exact TKeeps.pure _
          · exact tTranslation_keeps
      · refine TKeeps.ite (fun _ => ?_) (fun _ => ?_)
        · exact readHost_keeps
        · exact readPeer_keeps

theorem tRead_keeps  {c : TCtx} {operand : Nat} {space : Nat} {a : Nat} {len : Nat}
    : TKeeps (tRead c operand space a len : TM (List Byte)) := by
  unfold tRead
  refine TKeeps.bind ?_ (fun _ => ?_)
  · exact TKeeps.get
  · dsimp only
    refine TKeeps.ite (fun _ => ?_) (fun _ => ?_)
    · refine TKeeps.bind ?_ (fun _ => ?_)
      · refine tUpd_keeps (fun _ _ _ => ?_)
        exact logXfer_keeps (by assumption)
      · apply tPeek_keeps
    · apply tPeek_keeps

theorem tReadRows_keeps  {c : TCtx} {operand : Nat} {space : Nat} {a : Nat} {len : Nat} {rows : Nat}
    {stride : Nat} : TKeeps (tReadRows c operand space a len rows stride : TM (List (List Byte))) := by
  unfold tReadRows
  refine TKeeps.bind ?_ (fun _ => ?_)
  · exact TKeeps.get
  · dsimp only
    refine TKeeps.ite (fun _ => ?_) (fun _ => ?_)
    · refine TKeeps.bind ?_ (fun _ => ?_)
      · refine tUpd_keeps (fun _ _ _ => ?_)
        exact logRows_keeps (by assumption)
      · refine TKeeps.mapM (fun _ => ?_)
        apply tPeek_keeps
    · refine TKeeps.mapM (fun _ => ?_)
      apply tPeek_keeps

theorem tPoke_keeps  {c : TCtx} {operand : Nat} {space : Nat} {a : Nat} {l : List Byte}
    : TKeeps (tPoke c operand space a l : TM Unit) := by
  unfold tPoke
  refine TKeeps.ite (fun _ => ?_) (fun _ => ?_)
  · exact TKeeps.pure _
  · refine TKeeps.ite (fun _ => ?_) (fun _ => ?_)
    · refine TKeeps.bind ?_ (fun _ => ?_)
      · exact TKeeps.get
      · split
        · apply tTranslation_keeps
        · refine tUpd_keeps (fun _ _ _ => ?_)
          exact wrN_keeps (by assumption)
    · refine TKeeps.ite (fun _ => ?_) (fun _ => ?_)
      · refine TKeeps.bind ?_ (fun _ => ?_)
        · exact TKeeps.get
        · refine TKeeps.ite (fun _ => ?_) (fun _ => ?_)
          · refine TKeeps.bind ?_ (fun _ => ?_)
            · exact TKeeps.get
            · refine TKeeps.bind ?_ (fun _ => ?_)
              · apply tSound_keeps
              · refine tUpd_keeps (fun _ _ _ => ?_)
                exact store0_keeps (by assumption)
          · apply tTranslation_keeps
      · refine TKeeps.ite (fun _ => ?_) (fun _ => ?_)
        · apply writeHost_keeps
        · refine tUpd_keeps (fun _ _ _ => ?_)
          refine updCroft_keeps (fun _ => Nat.le_refl _) ?_
          assumption

theorem tWrite_keeps  {c : TCtx} {operand : Nat} {space : Nat} {a : Nat} {l : List Byte}
    : TKeeps (tWrite c operand space a l : TM Unit) := by
  unfold tWrite
  refine TKeeps.bind ?_ (fun _ => ?_)
  · exact TKeeps.get
  · dsimp only
    refine TKeeps.ite (fun _ => ?_) (fun _ => ?_)
    · refine TKeeps.bind ?_ (fun _ => ?_)
      · refine tUpd_keeps (fun _ _ _ => ?_)
        exact logXfer_keeps (by assumption)
      · apply tPoke_keeps
    · apply tPoke_keeps

theorem tWriteRows_keeps {c : TCtx} {operand : Nat} {space : Nat} {a : Nat} {stride : Nat} {rows : List (List Byte)} :
    TKeeps (tWriteRows c operand space a stride rows : TM Unit) := by
  unfold tWriteRows
  dsimp only
  refine TKeeps.bind ?_ (fun _ => ?_)
  · exact TKeeps.get
  · refine TKeeps.ite (fun _ => ?_) (fun _ => ?_)
    · refine TKeeps.bind ?_ (fun _ => ?_)
      · refine tUpd_keeps (fun _ _ _ => ?_)
        exact logRows_keeps (by assumption)
      · refine TKeeps.ite (fun _ => ?_) (fun _ => ?_)
        · exact tPoke_keeps
        · refine TKeeps.forM (fun _ => ?_)
          exact tPoke_keeps
    · refine TKeeps.ite (fun _ => ?_) (fun _ => ?_)
      · exact tPoke_keeps
      · refine TKeeps.forM (fun _ => ?_)
        exact tPoke_keeps

theorem tReadAt_keeps  {c : TCtx} {operand : Nat} {base : Nat} {off : Nat} {len : Nat}
    : TKeeps (tReadAt c operand base off len : TM (List Byte)) := by
  unfold tReadAt
  apply tRead_keeps

theorem tWriteAt_keeps  {c : TCtx} {operand : Nat} {base : Nat} {off : Nat} {l : List Byte}
    : TKeeps (tWriteAt c operand base off l : TM Unit) := by
  unfold tWriteAt
  apply tWrite_keeps

theorem larderWrite_keeps {r₀ : State} {croft : Nat} {off : Nat} {l : List Byte} {s : State} (h₀ : Keeps r₀ s)
    : Keeps r₀ (larderWrite croft off l s) := by
  unfold larderWrite
  exact wrN_keeps (by assumption)

/-! ### Tasks -/

theorem updTask_keeps {r₀ : State} {c : Nat} {uid : Nat} {f : Task → Task} {s : State} (h₀ : Keeps r₀ s)
    : Keeps r₀ (updTask c uid f s) := by
  unfold updTask
  refine updCroft_keeps ?_ ?_
  · intro _
    dsimp only
    simp
  · assumption

theorem sendTally_keeps {r₀ : State} {ctx : Nat} {virt : Nat} {k : TallyKind} {src : TallySrc} {s : State} (h₀
    : Keeps r₀ s) : Keeps r₀ (sendTally ctx virt k src s) := by
  unfold sendTally
  with_reducible refine Keeps.upd ?_ (Nat.le_refl _) rfl rfl rfl
  assumption

theorem dropTraffic_keeps {r₀ : State} {c : Nat} {uid : Nat} {s : State} (h₀ : Keeps r₀ s)
    : Keeps r₀ (dropTraffic c uid s) := by
  unfold dropTraffic
  refine updCroft_keeps (fun _ => Nat.le_refl _) ?_
  assumption

theorem removeTask_keeps {r₀ : State} {c : Nat} {uid : Nat} {s : State} (h₀ : Keeps r₀ s)
    : Keeps r₀ (removeTask c uid s) := by
  unfold removeTask
  refine updCroft_keeps ?_ ?_
  · intro _
    exact Nat.add_le_add_right (List.length_filter_le _ _) _
  · exact dropTraffic_keeps (by assumption)

theorem mapCmds_keeps {r₀ : State} {f : Cmd → Cmd} {s : State} (h₀ : Keeps r₀ s) : Keeps r₀ (mapCmds f s) := by
  unfold mapCmds
  with_reducible refine Keeps.upd ?_ (Nat.le_refl _) rfl rfl rfl
  assumption

theorem endOfTask_keeps {r₀ : State} {cmd : Nat} {status : Nat} {result : Nat} {s : State} (h₀ : Keeps r₀ s)
    : Keeps r₀ (endOfTask cmd status result s) := by
  unfold endOfTask
  refine Keeps.ite (fun _ => ?_) (fun _ => ?_)
  · assumption
  · exact mapCmds_keeps (by assumption)

theorem endCmd_keeps {r₀ : State} {uid : Nat} {status : Nat} {result : Nat} {s : State} (h₀ : Keeps r₀ s)
    : Keeps r₀ (endCmd uid status result s) := by
  unfold endCmd
  exact mapCmds_keeps (by assumption)

theorem askRepeat_keeps {r₀ : State} {p : Nat} {reason : Nat} {s : State} (h₀ : Keeps r₀ s) : Keeps r₀ (askRepeat p
    reason s) := by
  unfold askRepeat
  exact updPart_keeps (by assumption)

theorem stepRepeat_keeps {r₀ : State} {p : Nat} {reason : Nat} {s : State} (h₀ : Keeps r₀ s) : Keeps r₀ (stepRepeat
    p reason s) := by
  unfold stepRepeat
  refine Keeps.ite (fun _ => ?_) (fun _ => ?_)
  · exact updPart_keeps (by assumption)
  · assumption

theorem lossRepeat_keeps {r₀ : State} {p : Nat} {s : State} (h₀ : Keeps r₀ s) : Keeps r₀ (lossRepeat p s) := by
  unfold lossRepeat
  refine Keeps.ite (fun _ => ?_) (fun _ => ?_)
  · exact askRepeat_keeps (by assumption)
  · assumption

theorem stepFault_keeps {r₀ : State} {p : Nat} {stop : Bool} {reason : Nat} {s : State} (h₀ : Keeps r₀ s) : Keeps r₀
    (stepFault p stop reason s) := by
  unfold stepFault
  refine Keeps.ite (fun _ => ?_) (fun _ => ?_)
  · refine Keeps.ite (fun _ => ?_) (fun _ => ?_)
    · exact updPart_keeps (by assumption)
    · assumption
  · exact stepRepeat_keeps (by assumption)

theorem poisonRead_keeps {r₀ : State} {p : Nat} {granule : Nat} {s : State} (h₀ : Keeps r₀ s)
    : Keeps r₀ (poisonRead p granule s) := by
  unfold poisonRead
  split
  · assumption
  · refine Keeps.ite (fun _ => ?_) (fun _ => ?_)
    · assumption
    · refine Keeps.ite (fun _ => ?_) (fun _ => ?_)
      · exact updPart_keeps (by assumption)
      · exact updPart_keeps (by assumption)

theorem faultEnds_keeps {r₀ : State} {c : Nat} {d : Desc} {cmd : Nat} {started : Bool} {s : State} (h₀
    : Keeps r₀ s) : Keeps r₀ (faultEnds c d cmd started s) := by
  unfold faultEnds
  dsimp only
  refine Keeps.ite (fun _ => ?_) (fun _ => ?_)
  · exact endCmd_keeps (by assumption)
  · exact endOfTask_keeps (by assumption)

theorem abandonRound_keeps {r₀ : State} {p : Nat} {group : Nat} {tag : Nat} {s : State} (h₀ : Keeps r₀ s) : Keeps r₀
    (abandonRound p group tag s) := by
  unfold abandonRound
  dsimp only
  refine Keeps.ite (fun _ => ?_) (fun _ => ?_)
  · assumption
  · apply raise_keeps
    apply addF_keeps
    with_reducible refine Keeps.upd ?_ (Nat.le_refl _) rfl rfl rfl
    assumption

theorem parityFault_keeps {r₀ : State} {p : Nat} {c : Nat} {d : Desc} {started : Bool} {s : State} (h₀ : Keeps r₀ s)
    : Keeps r₀ (parityFault p c d started s) := by
  unfold parityFault
  refine Keeps.ite (fun _ => ?_) (fun _ => ?_)
  · exact abandonRound_keeps (by assumption)
  · assumption

theorem reportFault_keeps {r₀ : State} {c : Nat} {d : Desc} {cmd : Nat} {started : Bool} {f : TFault} {s : State}
    (h₀ : Keeps r₀ s) : Keeps r₀ (reportFault c d cmd started f s) := by
  unfold reportFault
  dsimp only
  apply faultEnds_keeps
  split
  · apply stepFault_keeps
    refine Keeps.ite (fun _ => ?_) (fun _ => ?_)
    · apply poisonRead_keeps
      apply parityFault_keeps
      refine Keeps.ite (fun _ => ?_) (fun _ => ?_)
      · apply raise_keeps
        apply setF_keeps
        apply setF_keeps
        apply setF_keeps
        refine Keeps.foldl ?_ (fun _ _ _ => ?_)
        · assumption
        · exact setF_keeps (by assumption)
      · apply raise_keeps
        apply setF_keeps
        apply setF_keeps
        apply setF_keeps
        refine Keeps.foldl ?_ (fun _ _ _ => ?_)
        · assumption
        · exact setF_keeps (by assumption)
    · apply parityFault_keeps
      refine Keeps.ite (fun _ => ?_) (fun _ => ?_)
      · apply raise_keeps
        apply setF_keeps
        apply setF_keeps
        apply setF_keeps
        refine Keeps.foldl ?_ (fun _ _ _ => ?_)
        · assumption
        · exact setF_keeps (by assumption)
      · apply raise_keeps
        apply setF_keeps
        apply setF_keeps
        apply setF_keeps
        refine Keeps.foldl ?_ (fun _ _ _ => ?_)
        · assumption
        · exact setF_keeps (by assumption)
  · refine Keeps.ite (fun _ => ?_) (fun _ => ?_)
    · apply raise_keeps
      apply setF_keeps
      apply setF_keeps
      apply setF_keeps
      refine Keeps.foldl ?_ (fun _ _ _ => ?_)
      · assumption
      · exact setF_keeps (by assumption)
    · apply raise_keeps
      apply setF_keeps
      apply setF_keeps
      apply setF_keeps
      refine Keeps.foldl ?_ (fun _ _ _ => ?_)
      · assumption
      · exact setF_keeps (by assumption)

theorem freeSpan_keeps {r₀ : State} {p : Nat} {c : Nat} {e : Nat × Nat × Nat} {s : State} (h₀ : Keeps r₀ s) : Keeps r₀
    (freeSpan p c e s) := by
  unfold freeSpan
  dsimp only
  refine Keeps.ite (fun _ => ?_) (fun _ => ?_)
  · apply store0_keeps
    with_reducible refine Keeps.upd ?_ (Nat.le_add_right _ _) rfl rfl rfl
    assumption
  · refine Keeps.ite (fun _ => ?_) (fun _ => ?_)
    · split
      · apply wrN_keeps
        with_reducible refine Keeps.upd ?_ (Nat.le_add_right _ _) rfl rfl rfl
        assumption
      · with_reducible refine Keeps.upd ?_ (Nat.le_add_right _ _) rfl rfl rfl
        assumption
    · with_reducible refine Keeps.upd ?_ (Nat.le_add_right _ _) rfl rfl rfl
      assumption

theorem freeFirm_keeps {r₀ : State} {c : Nat} {uid : Nat} {s : State} (h₀ : Keeps r₀ s) : Keeps r₀ (freeFirm c uid
    s) := by
  unfold freeFirm
  split
  · refine Keeps.foldl ?_ (fun _ _ _ => ?_)
    · assumption
    · exact freeSpan_keeps (by assumption)
  · assumption

theorem undoSlots_keeps {r₀ : State} {c : Nat} {uid : Nat} {s : State} (h₀ : Keeps r₀ s) : Keeps r₀ (undoSlots c uid
    s) := by
  unfold undoSlots
  refine Keeps.foldl ?_ (fun _ _ _ => ?_)
  · assumption
  · refine Keeps.ite (fun _ => ?_) (fun _ => ?_)
    · exact larderWrite_keeps (by assumption)
    · assumption

theorem abandonTask_keeps {r₀ : State} {c : Nat} {t : Task} {s : State} (h₀ : Keeps r₀ s) : Keeps r₀ (abandonTask
    c t s) := by
  unfold abandonTask
  dsimp only
  split
  · refine Keeps.ite (fun _ => ?_) (fun _ => ?_)
    · exact sendTally_keeps (updTask_keeps (dropTraffic_keeps (by assumption)))
    · refine Keeps.ite (fun _ => ?_) (fun _ => ?_)
      · exact updTask_keeps (dropTraffic_keeps (by assumption))
      · exact removeTask_keeps (by assumption)
  · exact removeTask_keeps (by assumption)

theorem failTask_keeps {r₀ : State} {c : Nat} {uid : Nat} {f : TFault} {s : State} (h₀ : Keeps r₀ s) : Keeps r₀
    (failTask c uid f s) := by
  unfold failTask
  split
  · assumption
  · exact abandonTask_keeps (reportFault_keeps (undoSlots_keeps (freeFirm_keeps (by assumption))))

theorem leaveRetention_keeps {r₀ : State} {c : Nat} {s : State} (h₀ : Keeps r₀ s) : Keeps r₀ (leaveRetention c s) := by
  unfold leaveRetention
  apply setF_keeps
  with_reducible refine Keeps.upd ?_ (Nat.le_refl _) rfl rfl rfl
  assumption

theorem setHum_keeps {r₀ : State} {c : Nat} {since : Option Nat} {s : State} (h₀ : Keeps r₀ s) : Keeps r₀ (setHum c
    since s) := by
  unfold setHum
  with_reducible refine Keeps.upd ?_ (Nat.le_refl _) rfl rfl rfl
  assumption

theorem noteHum_keeps {r₀ : State} {c : Nat} {s : State} (h₀ : Keeps r₀ s) : Keeps r₀ (noteHum c s) := by
  unfold noteHum
  exact setHum_keeps (by assumption)

theorem noteCommit_keeps {r₀ : State} {c : Nat} {d : Desc} {s : State} (h₀ : Keeps r₀ s) : Keeps r₀ (noteCommit c
    d s) := by
  unfold noteCommit
  split
  · refine Keeps.ite (fun _ => ?_) (fun _ => ?_)
    · exact updPart_keeps (by assumption)
    · assumption
  · assumption

theorem markStarted_keeps {r₀ : State} {c : Nat} {t : Task} {s : State} (h₀ : Keeps r₀ s) : Keeps r₀ (markStarted
    c t s) := by
  unfold markStarted
  dsimp only
  exact setF_keeps (updTask_keeps (setHum_keeps (noteCommit_keeps (by assumption))))

theorem markWorked_keeps {r₀ : State} {c : Nat} {uid : Nat} {s : State} (h₀ : Keeps r₀ s)
    : Keeps r₀ (markWorked c uid s) := by
  unfold markWorked
  exact updTask_keeps (by assumption)

theorem askPeer_keeps {r₀ : State} {c : Nat} {uid : Nat} {unit : Nat} {addr : Nat} {len : Nat} {s : State} (h₀
    : Keeps r₀ s) : Keeps r₀ (askPeer c uid unit addr len s) := by
  unfold askPeer
  refine updCroft_keeps ?_ ?_
  · intro _
    split
    · exact Nat.le_refl _
    · exact Nat.le_refl _
  · assumption

theorem numberXfers_descriptors (b : Bool) (u : Nat) (k : Croft) :
    (numberXfers b u k).queue.length + (numberXfers b u k).arriving.length ≤ k.queue.length + k.arriving.length := by
  unfold numberXfers
  dsimp only
  split
  · simp
  · exact Nat.le_refl _

theorem runTask_keeps {r₀ : State} {c : Nat} {t : Task} {work : TCtx → TM Unit} {s : State} (h₀ : Keeps r₀ s)
    (hw : ∀ x, TKeeps (work x)) : Keeps r₀ (runTask c t work s) := by
  unfold runTask
  split
  · exact h₀
  · have hm := markStarted_keeps (c := c) (t := t) h₀
    dsimp only
    split
    · exact updCroft_keeps (numberXfers_descriptors _ _) ((hw _).ok hm (by assumption))
    · exact failTask_keeps ((hw _).error hm (by assumption))
    · exact failTask_keeps (poisonAnswered_keeps ((hw _).error hm (by assumption)))
    · exact failTask_keeps (failedTag_keeps ((hw _).error hm (by assumption)))
    · exact askPeer_keeps h₀

theorem binShadow_keeps {r₀ : State} {c : Nat} {t : Task} {s : State} (h₀ : Keeps r₀ s) : Keeps r₀ (binShadow c t
    s) := by
  unfold binShadow
  dsimp only
  split
  · assumption
  · refine Keeps.ite (fun _ => ?_) (fun _ => ?_)
    · apply raise_keeps
      refine Keeps.foldl ?_ (fun _ _ _ => ?_)
      · apply addF_keeps
        refine updCroft_keeps (fun _ => Nat.le_refl _) ?_
        assumption
      · exact addF_keeps (by assumption)
    · refine Keeps.foldl ?_ (fun _ _ _ => ?_)
      · apply addF_keeps
        refine updCroft_keeps (fun _ => Nat.le_refl _) ?_
        assumption
      · exact addF_keeps (by assumption)

theorem taskEvent_keeps {r₀ : State} {c : Nat} {d : Desc} {s : State} (h₀ : Keeps r₀ s) : Keeps r₀ (taskEvent c d
    s) := by
  unfold taskEvent
  refine Keeps.ite (fun _ => ?_) (fun _ => ?_)
  · exact raise_keeps (by assumption)
  · assumption

theorem purgeArriving_keeps {r₀ : State} {c : Nat} {sel : Desc → Bool} {s : State} (h₀ : Keeps r₀ s) :
    Keeps r₀ (purgeArriving c sel s) := by
  unfold purgeArriving
  refine Keeps.foldl (updCroft_keeps (fun k => ?_) h₀) fun _ _ h => endOfTask_keeps h
  exact Nat.add_le_add_left (List.length_filter_le _ _) _

theorem purge_keeps {r₀ : State} {c : Nat} {sel : Task → Bool} {s : State} (h₀ : Keeps r₀ s)
    : Keeps r₀ (purge c sel s) := by
  unfold purge
  refine Keeps.foldl ?_ (fun _ _ _ => ?_)
  · assumption
  · refine Keeps.ite (fun _ => ?_) (fun _ => ?_)
    · exact endOfTask_keeps (abandonTask_keeps (by assumption))
    · assumption

/-! ### Tallies -/

theorem setTally_keeps {r₀ : State} {p : Nat} {t : Tally} {s : State} (h₀ : Keeps r₀ s)
    : Keeps r₀ (setTally p t s) := by
  unfold setTally
  with_reducible refine Keeps.upd ?_ (Nat.le_refl _) rfl rfl rfl
  assumption

theorem tallyEvent_keeps {r₀ : State} {kind : Nat} {ctx : Nat} {virt : Nat} {phys : Nat} {epoch : Nat} {s : State}
    (h₀ : Keeps r₀ s) : Keeps r₀ (tallyEvent kind ctx virt phys epoch s) := by
  unfold tallyEvent
  exact raise_keeps (by assumption)

theorem tallyFault_keeps {r₀ : State} {kind : Nat} {ctx : Nat} {virt : Nat} {phys : Nat} {epoch : Nat} {s : State}
    (h₀ : Keeps r₀ s) : Keeps r₀ (tallyFault kind ctx virt phys epoch s) := by
  unfold tallyFault
  dsimp only
  exact stepFault_keeps (tallyEvent_keeps (setF_keeps (setF_keeps (by assumption))))

theorem releaseReached_keeps {r₀ : State} {p : Nat} {s : State} (h₀ : Keeps r₀ s) : Keeps r₀ (releaseReached p s) := by
  unfold releaseReached
  dsimp only
  with_reducible refine Keeps.upd ?_ (Nat.le_refl _) rfl rfl rfl
  exact addF_keeps (by assumption)

theorem tallyAdd_keeps {r₀ : State} {p : Nat} {a : Nat} {s : State} (h₀ : Keeps r₀ s) : Keeps r₀ (tallyAdd p a s) := by
  unfold tallyAdd
  dsimp only
  apply releaseReached_keeps
  refine Keeps.ite (fun _ => ?_) (fun _ => ?_)
  · apply addF_keeps
    apply tallyEvent_keeps
    refine Keeps.ite (fun _ => ?_) (fun _ => ?_)
    · exact addF_keeps (tallyFault_keeps (setTally_keeps (by assumption)))
    · exact setTally_keeps (by assumption)
  · refine Keeps.ite (fun _ => ?_) (fun _ => ?_)
    · exact addF_keeps (tallyFault_keeps (setTally_keeps (by assumption)))
    · exact setTally_keeps (by assumption)

theorem tallyExpect_keeps {r₀ : State} {p : Nat} {n : Nat} {e : Nat} {s : State} (h₀ : Keeps r₀ s)
    : Keeps r₀ (tallyExpect p n e s) := by
  unfold tallyExpect
  dsimp only
  refine Keeps.ite (fun _ => ?_) (fun _ => ?_)
  · refine Keeps.ite (fun _ => ?_) (fun _ => ?_)
    · assumption
    · exact addF_keeps (tallyFault_keeps (by assumption))
  · apply releaseReached_keeps
    apply setTally_keeps
    refine Keeps.ite (fun _ => ?_) (fun _ => ?_)
    · apply addF_keeps
      apply tallyFault_keeps
      refine Keeps.ite (fun _ => ?_) (fun _ => ?_)
      · exact addF_keeps (tallyFault_keeps (by assumption))
      · assumption
    · refine Keeps.ite (fun _ => ?_) (fun _ => ?_)
      · exact addF_keeps (tallyFault_keeps (by assumption))
      · assumption

theorem doneAcked_keeps {r₀ : State} {c : Nat} {u : Nat} {s : State} (h₀ : Keeps r₀ s) : Keeps r₀ (doneAcked c u s) := by
  unfold doneAcked
  apply removeTask_keeps
  split
  · exact taskEvent_keeps (by assumption)
  · assumption

theorem opAcked_keeps {r₀ : State} {c : Nat} {u : Nat} {s : State} (h₀ : Keeps r₀ s) : Keeps r₀ (opAcked c u s) := by
  unfold opAcked
  split
  · refine Keeps.ite (fun _ => ?_) (fun _ => ?_)
    · exact removeTask_keeps (by assumption)
    · exact markWorked_keeps (by assumption)
  · assumption

theorem writeStep_keeps {r₀ : State} {p : Nat} {step : Nat} {plans : Nat} {s : State} (h₀ : Keeps r₀ s)
    : Keeps r₀ (writeStep p step plans s) := by
  unfold writeStep
  dsimp only
  apply setPair_keeps
  refine Keeps.foldl ?_ (fun _ _ _ => ?_)
  · assumption
  · exact setPair_keeps (by assumption)

theorem openStep_keeps {r₀ : State} {p : Nat} {s : State} (h₀ : Keeps r₀ s) : Keeps r₀ (openStep p s) := by
  unfold openStep
  split
  · split
    · refine Keeps.ite (fun _ => ?_) (fun _ => ?_)
      · assumption
      · exact writeStep_keeps (updPart_keeps (by assumption))
    · assumption
  · assumption

theorem acknowledge_keeps {r₀ : State} {o : TallyOp} {s : State} (h₀ : Keeps r₀ s) : Keeps r₀ (acknowledge o s) := by
  unfold acknowledge
  split
  · exact doneAcked_keeps (by assumption)
  · exact removeTask_keeps (by assumption)
  · assumption
  · exact opAcked_keeps (by assumption)
  · exact openStep_keeps (by assumption)
  · assumption

theorem applyTally_keeps {r₀ : State} {o : TallyOp} {p : Nat} {s : State} (h₀ : Keeps r₀ s) : Keeps r₀ (applyTally
    o p s) := by
  unfold applyTally
  dsimp only
  apply acknowledge_keeps
  split
  · exact tallyAdd_keeps (addUnits_keeps (by assumption))
  · exact tallyExpect_keeps (addUnits_keeps (by assumption))
  · refine Keeps.ite (fun _ => ?_) (fun _ => ?_)
    · apply addF_keeps
      split
      · with_reducible refine Keeps.upd ?_ (Nat.le_refl _) rfl rfl rfl
        exact addUnits_keeps (by assumption)
      · exact addUnits_keeps (by assumption)
    · with_reducible refine Keeps.upd ?_ (Nat.le_refl _) rfl rfl rfl
      exact addUnits_keeps (by assumption)
  · split
    · with_reducible refine Keeps.upd ?_ (Nat.le_refl _) rfl rfl rfl
      exact addUnits_keeps (by assumption)
    · exact addUnits_keeps (by assumption)

theorem dropOp_keeps {r₀ : State} {o : TallyOp} {s : State} (h₀ : Keeps r₀ s) : Keeps r₀ (dropOp o s) := by
  unfold dropOp
  with_reducible refine Keeps.upd ?_ (Nat.le_refl _) rfl rfl rfl
  assumption

theorem bankStep_keeps {r₀ : State} {bank : Nat} {k : TallyKind → Bool} {s : State} (h₀ : Keeps r₀ s)
    : Keeps r₀ (bankStep bank k s) := by
  unfold bankStep
  split
  · refine Keeps.ite (fun _ => ?_) (fun _ => ?_)
    · exact applyTally_keeps (dropOp_keeps (by assumption))
    · assumption
  · assumption

theorem clearTally_keeps {r₀ : State} {p : Nat} {s : State} (h₀ : Keeps r₀ s) : Keeps r₀ (clearTally p s) := by
  unfold clearTally
  dsimp only
  exact setTally_keeps (by assumption)

theorem renewTally_keeps {r₀ : State} {p : Nat} {t : Tally} {s : State} (h₀ : Keeps r₀ s) : Keeps r₀ (renewTally p
    t s) := by
  unfold renewTally
  apply setTally_keeps
  with_reducible refine Keeps.upd ?_ (Nat.le_refl _) rfl rfl rfl
  assumption

theorem unmapTally_keeps {r₀ : State} {ctx : Nat} {v : Nat} {s : State} (h₀ : Keeps r₀ s) : Keeps r₀ (unmapTally ctx
    v s) := by
  unfold unmapTally
  split
  · with_reducible refine Keeps.upd ?_ (Nat.le_refl _) rfl rfl rfl
    assumption
  · apply renewTally_keeps
    with_reducible refine Keeps.upd ?_ (Nat.le_refl _) rfl rfl rfl
    assumption

theorem mapTally_keeps {r₀ : State} {ctx : Nat} {v : Nat} {p : Nat} {s : State} (h₀ : Keeps r₀ s) : Keeps r₀ (mapTally
    ctx v p s) := by
  unfold mapTally
  dsimp only
  apply renewTally_keeps
  with_reducible refine Keeps.upd ?_ (Nat.le_refl _) rfl rfl rfl
  exact unmapTally_keeps (by assumption)

theorem mapWrite_keeps {r₀ : State} {p : Nat} {valid : Bool} {s : State} (h₀ : Keeps r₀ s)
    : Keeps r₀ (mapWrite p valid s) := by
  unfold mapWrite
  dsimp only
  refine Keeps.ite (fun _ => ?_) (fun _ => ?_)
  · exact mapTally_keeps (by assumption)
  · refine Keeps.ite (fun _ => ?_) (fun _ => ?_)
    · exact unmapTally_keeps (by assumption)
    · with_reducible refine Keeps.upd ?_ (Nat.le_refl _) rfl rfl rfl
      exact unmapTally_keeps (by assumption)

theorem execTallyOpAdd_keeps {r₀ t₀ : State} {bank : Fin 16} {s : State} (h₀ : Keeps r₀ s)
    (e₀ : execTallyOpAdd bank s = .next t₀) : Keeps r₀ t₀ := by
  unfold execTallyOpAdd at e₀
  obtain rfl := Host.Outcome.next.inj e₀
  exact bankStep_keeps (by assumption)

theorem execRegisterWait_keeps {r₀ t₀ : State} {bank : Fin 16} {s : State} (h₀ : Keeps r₀ s)
    (e₀ : execRegisterWait bank s = .next t₀) : Keeps r₀ t₀ := by
  unfold execRegisterWait at e₀
  obtain rfl := Host.Outcome.next.inj e₀
  exact bankStep_keeps (by assumption)

theorem execWithdrawWait_keeps {r₀ t₀ : State} {bank : Fin 16} {s : State} (h₀ : Keeps r₀ s)
    (e₀ : execWithdrawWait bank s = .next t₀) : Keeps r₀ t₀ := by
  unfold execWithdrawWait at e₀
  obtain rfl := Host.Outcome.next.inj e₀
  exact bankStep_keeps (by assumption)

theorem execExpect_keeps {r₀ t₀ : State} {bank : Fin 16} {s : State} (h₀ : Keeps r₀ s)
    (e₀ : execExpect bank s = .next t₀) : Keeps r₀ t₀ := by
  unfold execExpect at e₀
  obtain rfl := Host.Outcome.next.inj e₀
  exact bankStep_keeps (by assumption)

theorem reportUnmapped_keeps {r₀ : State} {ctx : Nat} {virt : Nat} {s : State} (h₀ : Keeps r₀ s) : Keeps r₀
    (reportUnmapped ctx virt s) := by
  unfold reportUnmapped
  dsimp only
  exact tallyEvent_keeps (setF_keeps (setF_keeps (by assumption)))

theorem refuseStep_keeps {r₀ : State} {p : Nat} {r : StepRun} {virt : Nat} {s : State} (h₀ : Keeps r₀ s) : Keeps r₀
    (refuseStep p r virt s) := by
  unfold refuseStep
  dsimp only
  apply endCmd_keeps
  apply updPart_keeps
  with_reducible refine Keeps.upd ?_ (Nat.le_refl _) rfl rfl rfl
  assumption

theorem refuseOp_keeps {r₀ : State} {o : TallyOp} {s : State} (h₀ : Keeps r₀ s) : Keeps r₀ (refuseOp o s) := by
  unfold refuseOp
  split
  · refine Keeps.ite (fun _ => ?_) (fun _ => ?_)
    · exact refuseStep_keeps (reportUnmapped_keeps (by assumption))
    · exact tallyFault_keeps (by assumption)
  · exact tallyFault_keeps (by assumption)

theorem execUnmappedTallyOp_keeps {r₀ t₀ : State} {s : State} (h₀ : Keeps r₀ s) (e₀ : execUnmappedTallyOp s =
    .next t₀) : Keeps r₀ t₀ := by
  unfold execUnmappedTallyOp at e₀
  obtain rfl := Host.Outcome.next.inj e₀
  split
  · exact refuseOp_keeps (dropOp_keeps (by assumption))
  · assumption

theorem execWaitReleaseArrival_keeps {r₀ t₀ : State} {c : CroftId} {s : State} (h₀ : Keeps r₀ s)
    (e₀ : execWaitReleaseArrival c s = .next t₀) : Keeps r₀ t₀ := by
  unfold execWaitReleaseArrival at e₀
  obtain rfl := Host.Outcome.next.inj e₀
  split
  · apply updTask_keeps
    with_reducible refine Keeps.upd ?_ (Nat.le_refl _) rfl rfl rfl
    assumption
  · assumption

theorem markStalled_keeps {r₀ : State} {w : Waiter} {s : State} (h₀ : Keeps r₀ s) : Keeps r₀ (markStalled w s) := by
  unfold markStalled
  with_reducible refine Keeps.upd ?_ (Nat.le_refl _) rfl rfl rfl
  assumption

theorem execWaitStall_keeps {r₀ t₀ : State} {s : State} (h₀ : Keeps r₀ s) (e₀ : execWaitStall s = .next t₀)
    : Keeps r₀ t₀ := by
  unfold execWaitStall at e₀
  obtain rfl := Host.Outcome.next.inj e₀
  split
  · dsimp only
    exact addF_keeps (tallyEvent_keeps (markStalled_keeps (by assumption)))
  · assumption

/-! ### Sequencer -/

/-- A descriptor takes a slot: the croft holds at most 16 afterwards where it left room for one more before. -/
theorem enqueue_keeps {r₀ : State} {c : Nat} {a : Arrival} {s : State} (h₀ : Keeps r₀ s)
    (hc : Credits r₀ → (croftOf c s).queue.length + (croftOf c s).arriving.length < 16) :
    Keeps r₀ (enqueue c a s) := by
  have step (f : Croft → Croft) (hf : ∀ k, (f k).queue.length + (f k).arriving.length ≤ k.queue.length + k.arriving.length + 1)
      (u : Nat) : Keeps r₀ (updCroft c f { s with nextUid := u }) := by
    refine ⟨h₀.pending, h₀.free, h₀.mem, h₀.owners, h₀.regs, fun x => ?_, h₀.retired, h₀.revoked⟩
    intro c'
    by_cases e : c' = c
    · subst e
      have := hc x
      have := hf (croftOf c' s)
      rw [croftOf_updCroft_same]
      change (f (croftOf c' s)).queue.length + (f (croftOf c' s)).arriving.length ≤ 16
      omega
    · rw [croftOf_updCroft_other e]
      exact h₀.credits x c'
  unfold enqueue
  dsimp only
  split
  · exact sendTally_keeps (step _ (fun k => by simp; omega) _)
  · exact step _ (fun k => by simp; omega) _

theorem turnAway_keeps {r₀ : State} {c : Nat} {a : Arrival} {s : State} (h₀ : Keeps r₀ s) : Keeps r₀ (turnAway c a
    s) := by
  unfold turnAway
  dsimp only
  split
  · refine Keeps.ite (fun _ => ?_) (fun _ => ?_)
    · exact updPart_keeps (endOfTask_keeps (by assumption))
    · exact endOfTask_keeps (by assumption)
  · exact endOfTask_keeps (by assumption)

theorem arrive_keeps {r₀ : State} {c : Nat} {a : Arrival} {s : State} (h₀ : Keeps r₀ s)
    (hc : Credits r₀ → (croftOf c s).queue.length + (croftOf c s).arriving.length < 16) :
    Keeps r₀ (arrive c a s) := by
  unfold arrive
  split
  · exact turnAway_keeps h₀
  · split
    · exact reportFault_keeps h₀
    · exact enqueue_keeps h₀ hc

theorem execDescriptorArrival_keeps {r₀ t₀ : State} {c : CroftId} {s : State} (h₀ : Keeps r₀ s)
    (e₀ : execDescriptorArrival c s = .next t₀) : Keeps r₀ t₀ := by
  unfold execDescriptorArrival at e₀
  obtain rfl := Host.Outcome.next.inj e₀
  split
  · exact h₀
  · next a l e =>
    refine arrive_keeps (updCroft_keeps' (by simp [e]) h₀) fun x => ?_
    have := h₀.credits x c.val
    simp [e] at this ⊢
    omega

theorem execTallyAdd_keeps {r₀ t₀ : State} {c : CroftId} {s : State} (h₀ : Keeps r₀ s)
    (e₀ : execTallyAdd c s = .next t₀) : Keeps r₀ t₀ := by
  unfold execTallyAdd at e₀
  obtain rfl := Host.Outcome.next.inj e₀
  split
  · apply runTask_keeps
    · assumption
    · intro _
      refine tUpd_keeps (fun _ _ _ => ?_)
      exact sendTally_keeps (by assumption)
  · assumption

theorem execTallyWait_keeps {r₀ t₀ : State} {c : CroftId} {s : State} (h₀ : Keeps r₀ s)
    (e₀ : execTallyWait c s = .next t₀) : Keeps r₀ t₀ := by
  unfold execTallyWait at e₀
  obtain rfl := Host.Outcome.next.inj e₀
  split
  · apply runTask_keeps
    · assumption
    · intro _
      refine TKeeps.ite (fun _ => ?_) (fun _ => ?_)
      · refine tUpd_keeps (fun _ _ _ => ?_)
        exact markWorked_keeps (by assumption)
      · refine TKeeps.bind ?_ (fun _ => ?_)
        · refine tUpd_keeps (fun _ _ _ => ?_)
          exact updTask_keeps (by assumption)
        · refine tUpd_keeps (fun _ _ _ => ?_)
          exact sendTally_keeps (by assumption)
  · assumption

theorem execTallyExpect_keeps {r₀ t₀ : State} {c : CroftId} {s : State} (h₀ : Keeps r₀ s)
    (e₀ : execTallyExpect c s = .next t₀) : Keeps r₀ t₀ := by
  unfold execTallyExpect at e₀
  obtain rfl := Host.Outcome.next.inj e₀
  split
  · apply runTask_keeps
    · assumption
    · intro _
      refine tUpd_keeps (fun _ _ _ => ?_)
      exact sendTally_keeps (by assumption)
  · assumption

theorem deadlineEvent_keeps {r₀ : State} {c : Nat} {t : Task} {s : State} (h₀ : Keeps r₀ s) : Keeps r₀
    (deadlineEvent c t s) := by
  unfold deadlineEvent
  dsimp only
  refine Keeps.ite (fun _ => ?_) (fun _ => ?_)
  · exact addF_keeps (raise_keeps (by assumption))
  · assumption

theorem completeTask_keeps {r₀ : State} {c : Nat} {t : Task} {s : State} (h₀ : Keeps r₀ s) : Keeps r₀
    (completeTask c t s) := by
  unfold completeTask
  dsimp only
  split
  · apply sendTally_keeps
    apply updTask_keeps
    refine Keeps.ite (fun _ => ?_) (fun _ => ?_)
    · exact deadlineEvent_keeps (binShadow_keeps (addF_keeps (by assumption)))
    · exact endOfTask_keeps (deadlineEvent_keeps (binShadow_keeps (addF_keeps (by assumption))))
  · apply removeTask_keeps
    apply taskEvent_keeps
    refine Keeps.ite (fun _ => ?_) (fun _ => ?_)
    · exact deadlineEvent_keeps (binShadow_keeps (addF_keeps (by assumption)))
    · exact endOfTask_keeps (deadlineEvent_keeps (binShadow_keeps (addF_keeps (by assumption))))

/-! ### Fence -/

theorem repairNote_keeps {r₀ : State} {u : Nat} {result : Nat} {severity : Nat} {s : State} (h₀ : Keeps r₀ s)
    : Keeps r₀ (repairNote u result severity s) := by
  unfold repairNote
  dsimp only
  exact journal_keeps (raise_keeps (by assumption))

theorem substitutionNote_keeps {r₀ : State} {c : Nat} {index : Nat} {spare : Nat} {s : State} (h₀
    : Keeps r₀ s) : Keeps r₀ (substitutionNote c index spare s) := by
  unfold substitutionNote
  dsimp only
  exact journal_keeps (raise_keeps (by assumption))

theorem setSlotState_keeps {r₀ : State} {h : Nat} {slot : Nat} {v : Nat} {s : State} (h₀ : Keeps r₀ s)
    : Keeps r₀ (setSlotState h slot v s) := by
  unfold setSlotState
  exact setF_keeps (by assumption)

theorem refreshUnits_keeps {r₀ : State} {s : State} (h₀ : Keeps r₀ s) : Keeps r₀ (refreshUnits s) := by
  unfold refreshUnits
  dsimp only
  apply setF_keeps
  apply setF_keeps
  apply setF_keeps
  refine Keeps.foldl ?_ (fun _ _ _ => ?_)
  · assumption
  · exact setF_keeps (setF_keeps (setF_keeps (by assumption)))

theorem keepMap_keeps {r₀ : State} {h : Nat} {s : State} (h₀ : Keeps r₀ s) : Keeps r₀ (keepMap h s) :=
  h₀.perm fun x => mapWf_foldl (fun _ _ y => mapWf_mapPut _ _ _ _ y) x

theorem exchangeSlots_keeps {r₀ : State} {h : Nat} {a : Nat} {b : Nat} {s : State} (h₀ : Keeps r₀ s)
    : Keeps r₀ (exchangeSlots h a b s) := by
  unfold exchangeSlots
  dsimp only
  exact keepMap_keeps (setW_keeps (setW_keeps (by assumption)))

theorem markFenced_keeps {r₀ : State} {u : Nat} {s : State} (h₀ : Keeps r₀ s) : Keeps r₀ (markFenced u s) := by
  unfold markFenced
  apply addF_keeps
  refine Keeps.ite (fun _ => ?_) (fun _ => ?_)
  · assumption
  · exact setF_keeps (by assumption)

theorem dropTask_keeps {r₀ : State} {c : Nat} {t : Task} {s : State} (h₀ : Keeps r₀ s) : Keeps r₀ (dropTask c t s) := by
  unfold dropTask
  refine Keeps.ite (fun _ => ?_) (fun _ => ?_)
  · assumption
  · refine Keeps.ite (fun _ => ?_) (fun _ => ?_)
    · exact abandonTask_keeps (by assumption)
    · exact endOfTask_keeps (abandonTask_keeps (by assumption))

theorem fenceFault_keeps {r₀ : State} {c : Nat} {s : State} (h₀ : Keeps r₀ s) : Keeps r₀ (fenceFault c s) := by
  unfold fenceFault
  dsimp only
  split
  · apply stepRepeat_keeps
    refine Keeps.ite (fun _ => ?_) (fun _ => ?_)
    · exact stepFault_keeps (by assumption)
    · assumption
  · assumption

theorem stopCroft_keeps {r₀ : State} {c : Nat} {s : State} (h₀ : Keeps r₀ s) : Keeps r₀ (stopCroft c s) := by
  unfold stopCroft
  dsimp only
  refine Keeps.foldl ?_ (fun _ _ _ => ?_)
  · refine updCroft_keeps (fun _ => by simp) ?_
    refine Keeps.foldl ?_ (fun _ _ _ => ?_)
    · apply fenceFault_keeps
      apply setF_keeps
      apply setF_keeps
      apply setF_keeps
      apply loseRange_keeps
      with_reducible refine Keeps.upd ?_ (Nat.le_refl _) rfl rfl rfl
      assumption
    · exact dropTask_keeps (by assumption)
  · refine Keeps.ite (fun _ => ?_) (fun _ => ?_)
    · assumption
    · exact endOfTask_keeps (by assumption)

theorem purgeRun_keeps {r₀ : State} {p : Nat} {c : Nat} {s : State} (h₀ : Keeps r₀ s) : Keeps r₀ (purgeRun p c s) := by
  unfold purgeRun
  split
  · assumption
  · refine Keeps.foldl ?_ (fun _ _ _ => ?_)
    · assumption
    · refine Keeps.ite (fun _ => ?_) (fun _ => ?_)
      · assumption
      · exact purge_keeps (by assumption)

theorem dropCommitted_keeps {r₀ : State} {p : Nat} {s : State} (h₀ : Keeps r₀ s) : Keeps r₀ (dropCommitted p s) := by
  unfold dropCommitted
  refine Keeps.foldl ?_ (fun _ _ _ => ?_)
  · assumption
  · exact endCmd_keeps (updPart_keeps (by assumption))

theorem orphanCommit_keeps {r₀ : State} {p : Nat} {s : State} (h₀ : Keeps r₀ s) : Keeps r₀ (orphanCommit p s) := by
  unfold orphanCommit
  exact dropCommitted_keeps (stepFault_keeps (by assumption))

theorem capacityLoss_keeps {r₀ : State} {p : Nat} {c : Nat} {g : Nat} {reissue : Bool} {s : State} (h₀ : Keeps r₀ s) :
    Keeps r₀ (capacityLoss p c g reissue s) := by
  unfold capacityLoss
  dsimp only
  apply repairNote_keeps
  refine Keeps.ite (fun _ => ?_) (fun _ => ?_)
  · exact orphanCommit_keeps (updPart_keeps (by assumption))
  · exact updPart_keeps (by assumption)

theorem substitute_keeps {r₀ : State} {c : Nat} {slot : Nat} {spare : Nat} {re : List (Desc × Nat)} {s : State} (h₀ :
    Keeps r₀ s) : Keeps r₀ (substitute c slot spare re s) := by
  unfold substitute
  dsimp only
  with_reducible refine Keeps.upd ?_ (Nat.le_refl _) rfl rfl rfl
  apply leaveRetention_keeps
  exact keepMap_keeps (setSlotState_keeps (setSlotState_keeps (exchangeSlots_keeps (by assumption))))

theorem replaceCroft_keeps {r₀ : State} {c : Nat} {slot : Nat} {re : List (Desc × Nat)} {s : State} (h₀ : Keeps r₀ s)
    : Keeps r₀ (replaceCroft c slot re s) := by
  unfold replaceCroft
  dsimp only
  split
  · exact substitute_keeps (purgeRun_keeps (by assumption))
  · exact capacityLoss_keeps (purgeRun_keeps (by assumption))
  · exact repairNote_keeps (by assumption)
  · exact keepMap_keeps (setSlotState_keeps (setSlotState_keeps (exchangeSlots_keeps (by assumption))))

theorem fenceCroft_keeps {r₀ : State} {c : Nat} {s : State} (h₀ : Keeps r₀ s) : Keeps r₀ (fenceCroft c s) := by
  unfold fenceCroft
  refine Keeps.ite (fun _ => ?_) (fun _ => ?_)
  · assumption
  · dsimp only
    apply refreshUnits_keeps
    refine Keeps.ite (fun _ => ?_) (fun _ => ?_)
    · apply replaceCroft_keeps
      apply keepMap_keeps
      apply setSlotState_keeps
      with_reducible refine Keeps.upd ?_ (Nat.le_refl _) rfl rfl rfl
      exact stopCroft_keeps (repairNote_keeps (markFenced_keeps (by assumption)))
    · apply keepMap_keeps
      apply setSlotState_keeps
      with_reducible refine Keeps.upd ?_ (Nat.le_refl _) rfl rfl rfl
      exact stopCroft_keeps (repairNote_keeps (markFenced_keeps (by assumption)))

theorem repeatPart_keeps {r₀ : State} {p : Nat} {s : State} (h₀ : Keeps r₀ s) : Keeps r₀ (repeatPart p s) := by
  unfold repeatPart
  exact stepFault_keeps (by assumption)

theorem fenceHamlet_keeps {r₀ : State} {h : Nat} {s : State} (h₀ : Keeps r₀ s) : Keeps r₀ (fenceHamlet h s) := by
  unfold fenceHamlet
  refine Keeps.ite (fun _ => ?_) (fun _ => ?_)
  · assumption
  · dsimp only
    apply refreshUnits_keeps
    apply keepMap_keeps
    refine Keeps.foldl ?_ (fun _ _ _ => ?_)
    · refine Keeps.foldl ?_ (fun _ _ _ => ?_)
      · split
        · refine Keeps.ite (fun _ => ?_) (fun _ => ?_)
          · apply orphanCommit_keeps
            split
            · apply repeatPart_keeps
              apply loseRange_keeps
              exact setF_keeps (setF_keeps (setF_keeps (repairNote_keeps (markFenced_keeps (by assumption)))))
            · apply loseRange_keeps
              exact setF_keeps (setF_keeps (setF_keeps (repairNote_keeps (markFenced_keeps (by assumption)))))
          · split
            · apply repeatPart_keeps
              apply loseRange_keeps
              exact setF_keeps (setF_keeps (setF_keeps (repairNote_keeps (markFenced_keeps (by assumption)))))
            · apply loseRange_keeps
              exact setF_keeps (setF_keeps (setF_keeps (repairNote_keeps (markFenced_keeps (by assumption)))))
        · split
          · apply repeatPart_keeps
            apply loseRange_keeps
            exact setF_keeps (setF_keeps (setF_keeps (repairNote_keeps (markFenced_keeps (by assumption)))))
          · apply loseRange_keeps
            exact setF_keeps (setF_keeps (setF_keeps (repairNote_keeps (markFenced_keeps (by assumption)))))
      · refine Keeps.ite (fun _ => ?_) (fun _ => ?_)
        · assumption
        · exact setF_keeps (stopCroft_keeps (by assumption))
    · refine Keeps.ite (fun _ => ?_) (fun _ => ?_)
      · assumption
      · exact setSlotState_keeps (by assumption)

theorem showOnline_keeps {r₀ : State} {tier : Nat} {c : Nat} {s : State} (h₀ : Keeps r₀ s) : Keeps r₀ (showOnline
    tier c s) := by
  unfold showOnline
  exact setF_keeps (by assumption)

theorem refreshMap_keeps {r₀ : State} {s : State} (h₀ : Keeps r₀ s) : Keeps r₀ (refreshMap s) := by
  unfold refreshMap
  dsimp only
  apply setF_keeps
  apply setF_keeps
  apply setF_keeps
  apply setF_keeps
  refine Keeps.foldl ?_ (fun _ _ _ => ?_)
  · refine Keeps.foldl ?_ (fun _ _ _ => ?_)
    · assumption
    · exact showOnline_keeps (by assumption)
  · exact showOnline_keeps (by assumption)

theorem untrain_keeps {r₀ : State} {tier : Nat} {n : Nat} {s : State} (h₀ : Keeps r₀ s) : Keeps r₀ (untrain tier n
    s) := by
  unfold untrain
  with_reducible refine Keeps.upd ?_ (Nat.le_refl _) rfl rfl rfl
  assumption

theorem failChannel_keeps {r₀ : State} {tier : Nat} {n : Nat} {s : State} (h₀ : Keeps r₀ s) : Keeps r₀ (failChannel
    tier n s) := by
  unfold failChannel
  dsimp only
  apply refreshMap_keeps
  split
  · refine Keeps.foldl ?_ (fun _ _ _ => ?_)
    · refine Keeps.foldl ?_ (fun _ _ _ => ?_)
      · exact untrain_keeps (setF_keeps (setF_keeps (setF_keeps (by assumption))))
      · exact poisonQueue_keeps (by assumption)
    · exact repeatPart_keeps (by assumption)
  · exact poisonQueue_keeps (untrain_keeps (setF_keeps (setF_keeps (setF_keeps (by assumption)))))

/-! ### Bolts -/

theorem readHandle_keeps  {c : TCtx} {operand : Nat} {h : Nat} {n : Nat}
    : TKeeps (readHandle c operand h n : TM (List Byte)) := by
  unfold readHandle
  refine TKeeps.bind ?_ (fun _ => ?_)
  · exact TKeeps.get
  · apply tReadAt_keeps

theorem readBolt_keeps  {c : TCtx} {operand : Nat} {h : Nat} : TKeeps (readBolt c operand h : TM Bolt) := by
  unfold readBolt
  refine TKeeps.bind ?_ (fun _ => ?_)
  · apply readHandle_keeps
  · split
    · apply tFault_keeps
    · exact TKeeps.pure _

theorem readBolt?_keeps  {c : TCtx} {operand : Nat} {h : Nat} : TKeeps (readBolt? c operand h : TM (Option Bolt)) := by
  unfold readBolt?
  refine TKeeps.ite (fun _ => ?_) (fun _ => ?_)
  · exact TKeeps.pure _
  · refine TKeeps.bind ?_ (fun _ => ?_)
    · apply readBolt_keeps
    · exact TKeeps.pure _

theorem readDir_keeps {c : TCtx} {operand : Nat} {b : Bolt} {t : Nat} : TKeeps (readDir c operand b t : TM DirEntry) := by
  unfold readDir
  refine TKeeps.bind ?_ (fun _ => ?_)
  · exact tReadAt_keeps
  · dsimp only
    refine TKeeps.bind ?_ (fun _ => ?_)
    · exact tCheck_keeps
    · exact TKeeps.pure _

theorem rowsAt_keeps  {quiet : Bool} {c : TCtx} {operand : Nat} {space : Nat} {a : Nat} {len : Nat} {rows : Nat}
    {stride : Nat} : TKeeps (rowsAt quiet c operand space a len rows stride : TM (List (List Byte))) := by
  unfold rowsAt
  refine TKeeps.ite (fun _ => ?_) (fun _ => ?_)
  · refine TKeeps.mapM (fun _ => ?_)
    apply tPeek_keeps
  · apply tReadRows_keeps

theorem twillPart_keeps  {quiet : Bool} {c : TCtx} {operand : Nat} {b : Bolt} {t : Nat} {at_ : Nat} {r0 : Nat}
    {nr : Nat} {c0 : Nat} {nc : Nat}
    : TKeeps (twillPart quiet c operand b t at_ r0 nr c0 nc : TM (Array (Array Val))) := by
  unfold twillPart
  dsimp only
  refine TKeeps.bind ?_ (fun _ => ?_)
  · apply rowsAt_keeps
  · refine TKeeps.ite (fun _ => ?_) (fun _ => ?_)
    · refine TKeeps.bind ?_ (fun _ => ?_)
      · apply rowsAt_keeps
      · exact TKeeps.pure _
    · exact TKeeps.pure _

theorem readTwill_keeps  {c : TCtx} {operand : Nat} {b : Bolt} {t : Nat} {at_ : Nat} {r0 : Nat} {nr : Nat}
    {c0 : Nat} {nc : Nat} : TKeeps (readTwill c operand b t at_ r0 nr c0 nc : TM (Array (Array Val))) := by
  unfold readTwill
  apply twillPart_keeps

theorem readMask_keeps  {c : TCtx} {operand : Nat} {b : Bolt} {t : Nat}
    : TKeeps (readMask c operand b t : TM (Array Byte)) := by
  unfold readMask
  refine TKeeps.bind ?_ (fun _ => ?_)
  · apply tReadAt_keeps
  · exact TKeeps.pure _

theorem readGauze_keeps  {c : TCtx} {operand : Nat} {b : Bolt} {t : Nat} {d : DirEntry}
    : TKeeps (readGauze c operand b t d : TM (Except GzBad GzTile)) := by
  unfold readGauze
  refine TKeeps.bind ?_ (fun _ => ?_)
  · apply tReadAt_keeps
  · split
    · exact TKeeps.pure _
    · refine TKeeps.bind ?_ (fun _ => ?_)
      · apply tReadAt_keeps
      · dsimp only
        split
        · exact TKeeps.pure _
        · refine TKeeps.bind ?_ (fun _ => ?_)
          · apply tReadAt_keeps
          · split
            · exact TKeeps.pure _
            · exact TKeeps.pure _

theorem readTwillTile_keeps {c : TCtx} {operand : Nat} {b : Bolt} {t : Nat} {d : DirEntry} : TKeeps (readTwillTile c
    operand b t d : TM (List Entry)) := by
  unfold readTwillTile
  refine TKeeps.bind ?_ (fun _ => ?_)
  · exact readMask_keeps
  · refine TKeeps.bind ?_ (fun _ => ?_)
    · exact readTwill_keeps
    · exact TKeeps.pure _

theorem readSparse_keeps {c : TCtx} {operand : Nat} {b : Bolt} {t : Nat} : TKeeps (readSparse c operand b t : TM
    (Except GzBad TileView)) := by
  unfold readSparse
  refine TKeeps.bind ?_ (fun _ => ?_)
  · exact readDir_keeps
  · refine TKeeps.ite (fun _ => ?_) (fun _ => ?_)
    · refine TKeeps.bind ?_ (fun _ => ?_)
      · exact readTwillTile_keeps
      · exact TKeeps.pure _
    · refine TKeeps.bind ?_ (fun _ => ?_)
      · exact readGauze_keeps
      · split
        · exact TKeeps.pure _
        · exact TKeeps.pure _

end Sys2Proof.Machine
end

