-- ==== Sys2Proof/Laws/KeepsTasks.lean ====
section
/-!
SUPPORT. Every definition of the model that makes a state keeps what Keeps names: the spindles, gauzes, looms and the task rows. One lemma each, so
that a proof about a command cites its lemma and unfolds nothing.
-/
namespace Sys2Proof.Machine

/-! ### Spindle -/

theorem countEvals_keeps {r₀ : State} {c : Nat} {place : Nat} {n : Nat} {s : State} (h₀ : Keeps r₀ s) : Keeps r₀
    (countEvals c place n s) := by
  unfold countEvals
  refine Keeps.ite (fun _ => ?_) (fun _ => ?_)
  · assumption
  · apply addUnits_keeps
    refine updCroft_keeps (fun _ => Nat.le_refl _) ?_
    assumption

theorem spinRun_keeps {r₀ : State} {c : Nat} {cycles : Nat} {s : State} (h₀ : Keeps r₀ s) : Keeps r₀ (spinRun c
    cycles s) := by
  unfold spinRun
  dsimp only
  refine Keeps.ite (fun _ => ?_) (fun _ => ?_)
  · assumption
  · apply addF_keeps
    refine updCroft_keeps (fun _ => Nat.le_refl _) ?_
    assumption

/-! ### Output -/

theorem sendFold_keeps {r₀ : State} {f : Fold} {s : State} (h₀ : Keeps r₀ s) : Keeps r₀ (sendFold f s) := by
  unfold sendFold
  dsimp only
  with_reducible refine Keeps.upd ?_ (Nat.le_refl _) rfl rfl rfl
  refine Keeps.ite (fun _ => ?_) (fun _ => ?_)
  · exact logXfer_keeps (by assumption)
  · assumption

theorem statAdd_keeps {r₀ : State} {c : Nat} {part : Nat} {addr : Nat} {n : Cnt} {flags : Nat} {s : State} (h₀
    : Keeps r₀ s) : Keeps r₀ (statAdd c part addr n flags s) := by
  unfold statAdd
  dsimp only
  split
  · refine updCroft_keeps (fun _ => Nat.le_refl _) ?_
    assumption
  · refine updCroft_keeps (fun _ => Nat.le_refl _) ?_
    split
    · refine Keeps.ite (fun _ => ?_) (fun _ => ?_)
      · assumption
      · apply addF_keeps
        apply sendFold_keeps
        refine updCroft_keeps (fun _ => Nat.le_refl _) ?_
        assumption
    · assumption

theorem tCount_keeps  {c : TCtx} {b : Bolt} {n : Cnt} {flags : Nat} : TKeeps (tCount c b n flags : TM Unit) := by
  unfold tCount
  refine TKeeps.ite (fun _ => ?_) (fun _ => ?_)
  · refine tUpd_keeps (fun _ _ _ => ?_)
    exact statAdd_keeps (by assumption)
  · exact TKeeps.pure _

theorem tStatsReach_keeps  {c : TCtx} {operand : Nat} {b : Bolt} : TKeeps (tStatsReach c operand b : TM Unit) := by
  unfold tStatsReach
  refine TKeeps.ite (fun _ => ?_) (fun _ => ?_)
  · refine TKeeps.bind ?_ (fun _ => ?_)
    · exact TKeeps.get
    · dsimp only
      refine TKeeps.ite (fun _ => ?_) (fun _ => ?_)
      · exact TKeeps.pure _
      · apply tTranslation_keeps
  · exact TKeeps.pure _

theorem failFold_keeps {r₀ : State} {f : Fold} {e : TFault} {s : State} (h₀ : Keeps r₀ s) : Keeps r₀ (failFold f
    e s) := by
  unfold failFold
  refine Keeps.foldl ?_ (fun _ _ _ => ?_)
  · assumption
  · exact failTask_keeps (by assumption)

theorem applyFold_keeps {r₀ : State} {f : Fold} {s : State} (h₀ : Keeps r₀ s) : Keeps r₀ (applyFold f s) := by
  unfold applyFold
  dsimp only
  refine Keeps.ite (fun _ => ?_) (fun _ => ?_)
  · refine Keeps.ite (fun _ => ?_) (fun _ => ?_)
    · exact failFold_keeps (by assumption)
    · refine Keeps.ite (fun _ => ?_) (fun _ => ?_)
      · exact failFold_keeps (by assumption)
      · exact store0_keeps (by assumption)
  · split
    · exact wrN_keeps (by assumption)
    · exact failFold_keeps (by assumption)

theorem tEvals_keeps {c : TCtx} {n : Nat} : TKeeps (tEvals c n : TM Unit) := by
  unfold tEvals
  refine tUpd_keeps (fun _ _ _ => ?_)
  exact countEvals_keeps (by assumption)

theorem writeRows_keeps  {c : TCtx} {operand : Nat} {k : ConvCtx} {b : Bolt} {t : Nat} {at_ : Nat} {r0 : Nat}
    {c0 : Nat} {rows : List (List Val)} : TKeeps (writeRows c operand k b t at_ r0 c0 rows : TM Cnt) := by
  unfold writeRows
  dsimp only
  refine TKeeps.ite (fun _ => ?_) (fun _ => ?_)
  · exact TKeeps.pure _
  · refine TKeeps.bind ?_ (fun _ => ?_)
    · refine TKeeps.mapM (fun _ => ?_)
      refine TKeeps.ite (fun _ => ?_) (fun _ => ?_)
      · refine TKeeps.bind ?_ (fun _ => ?_)
        · apply tPeek_keeps
        · refine TKeeps.bind ?_ (fun _ => ?_)
          · exact TKeeps.pure _
          · exact TKeeps.pure _
      · refine TKeeps.bind ?_ (fun _ => ?_)
        · exact TKeeps.pure _
        · exact TKeeps.pure _
    · refine TKeeps.bind ?_ (fun _ => ?_)
      · apply tWriteRows_keeps
      · refine TKeeps.ite (fun _ => ?_) (fun _ => ?_)
        · refine TKeeps.bind ?_ (fun _ => ?_)
          · apply tWriteRows_keeps
          · refine TKeeps.ite (fun _ => ?_) (fun _ => ?_)
            · refine TKeeps.bind ?_ (fun _ => ?_)
              · refine tUpd_keeps (fun _ _ _ => ?_)
                exact countEvals_keeps (by assumption)
              · exact TKeeps.pure _
            · exact TKeeps.pure _
        · refine TKeeps.ite (fun _ => ?_) (fun _ => ?_)
          · refine TKeeps.bind ?_ (fun _ => ?_)
            · refine tUpd_keeps (fun _ _ _ => ?_)
              exact countEvals_keeps (by assumption)
            · exact TKeeps.pure _
          · exact TKeeps.pure _

theorem writeAcc_keeps  {c : TCtx} {operand : Nat} {k : ConvCtx} {b : Bolt} {t : Nat} {stride : Nat} {c0 : Nat}
    {nc : Nat} {nextK : Nat} {m : SMap Cell} : TKeeps (writeAcc c operand k b t stride c0 nc nextK m : TM Unit) := by
  unfold writeAcc
  dsimp only
  refine TKeeps.bind ?_ (fun _ => ?_)
  · apply tStatsReach_keeps
  · refine TKeeps.bind ?_ (fun _ => ?_)
    · apply writeRows_keeps
    · refine TKeeps.bind ?_ (fun _ => ?_)
      · apply tCount_keeps
      · refine TKeeps.ite (fun _ => ?_) (fun _ => ?_)
        · refine TKeeps.bind ?_ (fun _ => ?_)
          · refine tUpd_keeps (fun _ _ _ => ?_)
            exact addF_keeps (by assumption)
          · refine TKeeps.ite (fun _ => ?_) (fun _ => ?_)
            · refine tUpd_keeps (fun _ _ _ => ?_)
              exact addF_keeps (by assumption)
            · exact TKeeps.pure _
        · refine TKeeps.ite (fun _ => ?_) (fun _ => ?_)
          · refine tUpd_keeps (fun _ _ _ => ?_)
            exact addF_keeps (by assumption)
          · exact TKeeps.pure _

theorem releaseSlot_keeps {r₀ : State} {c : Nat} {g : SlotRegion} {i : Nat} {s : State} (h₀ : Keeps r₀ s)
    : Keeps r₀ (releaseSlot c g i s) := by
  unfold releaseSlot
  exact larderWrite_keeps (by assumption)

theorem releaseSlots_keeps {r₀ : State} {c : Nat} {g : SlotRegion} {s : State} (h₀ : Keeps r₀ s)
    : Keeps r₀ (releaseSlots c g s) := by
  unfold releaseSlots
  refine Keeps.foldl ?_ (fun _ _ _ => ?_)
  · assumption
  · exact releaseSlot_keeps (by assumption)

theorem storeSlot_keeps {r₀ : State} {c : Nat} {g : SlotRegion} {i : Nat} {width : Nat} {header : List Byte}
    {m : SMap Cell} {s : State} (h₀ : Keeps r₀ s) : Keeps r₀ (storeSlot c g i width header m s) := by
  unfold storeSlot
  refine Keeps.foldl ?_ (fun _ _ _ => ?_)
  · exact larderWrite_keeps (by assumption)
  · exact larderWrite_keeps (by assumption)

theorem startSlot_keeps  {c : TCtx} {g : SlotRegion} {acc : Bool} {final : Bool} {key : List Byte → Bool}
    {same : List Byte → Bool} {nextAt : Nat} {kFirst : Nat} {width : Nat} {kOff : Nat} {outOff : Nat}
    : TKeeps (startSlot c g acc final key same nextAt kFirst width kOff outOff : TM (SMap Cell)) := by
  unfold startSlot
  refine TKeeps.bind ?_ (fun _ => ?_)
  · exact TKeeps.get
  · refine TKeeps.ite (fun _ => ?_) (fun _ => ?_)
    · split
      · apply tFault_keeps
      · dsimp only
        refine TKeeps.ite (fun _ => ?_) (fun _ => ?_)
        · apply tFault_keeps
        · exact TKeeps.pure _
    · refine TKeeps.ite (fun _ => ?_) (fun _ => ?_)
      · exact TKeeps.pure _
      · split
        · apply tFault_keeps
        · exact TKeeps.pure _

theorem endSlot_keeps {r₀ : State} {t₀ : State} {c : Nat} {g : SlotRegion} {key : List Byte → Bool} {width : Nat}
    {header : List Byte} {m : SMap Cell} {s : State} (h₀ : Keeps r₀ s) (e₀ : endSlot c g key width header m s =
    some t₀) : Keeps r₀ t₀ := by
  refine OKeeps.of (π := id) ?_ e₀
  unfold endSlot
  split
  · refine OKeeps.some ?_
    dsimp only [id]
    exact storeSlot_keeps (by assumption)
  · refine OKeeps.map (fun _ _ => ?_)
    dsimp only [id]
    exact storeSlot_keeps (by assumption)

theorem dropSlot_keeps {r₀ : State} {c : Nat} {g : SlotRegion} {key : List Byte → Bool} {s : State} (h₀
    : Keeps r₀ s) : Keeps r₀ (dropSlot c g key s) := by
  unfold dropSlot
  split
  · exact releaseSlot_keeps (by assumption)
  · assumption

theorem tName_keeps {x : TCtx} {m : TM Unit} (hm : TKeeps m) : TKeeps (tName x m) := by
  intro r s h
  unfold tName
  generalize e : m s = o
  cases o with
  | ok a t =>
    dsimp only [stateOf]
    refine updCroft_keeps (fun _ => ?_) h
    exact Nat.le_refl _
  | error a t => exact hm.error h e

theorem shadowEnd_keeps {r₀ : State} {c : TCtx} {b : Bolt} {t : Nat} {w : Nat} {stride : Nat} {nc : Nat} {m : SMap Cell}
    {l : List PSum} {s : State} (h₀ : Keeps r₀ s) : Keeps r₀ (shadowEnd c b t w stride nc m l s) := by
  unfold shadowEnd
  refine Keeps.ite (fun _ => ?_) (fun _ => ?_)
  · assumption
  · dsimp only
    refine updCroft_keeps (fun _ => Nat.le_refl _) ?_
    assumption

theorem shadowDraw_keeps {r₀ : State} {c : TCtx} {b : Bolt} {s : State} (h₀ : Keeps r₀ s) : Keeps r₀ (shadowDraw
    c b s) := by
  unfold shadowDraw
  refine Keeps.ite (fun _ => ?_) (fun _ => ?_)
  · exact countEvals_keeps (by assumption)
  · assumption

theorem putEnding_keeps {r₀ : State} {c : Nat} {e : Ending} {s : State} (h₀ : Keeps r₀ s) : Keeps r₀ (putEnding c
    e s) := by
  unfold putEnding
  refine updCroft_keeps (fun _ => Nat.le_refl _) ?_
  assumption

theorem namedBefore_keeps {r₀ : State} {c : Nat} {uid : Nat} {write : Bool} {s : State} {t : State} (h₀ : Keeps r₀
    t) : Keeps r₀ (namedBefore c uid write s t) := by
  unfold namedBefore
  refine updCroft_keeps (fun _ => Nat.le_refl _) ?_
  assumption

theorem runPiece_keeps {r₀ : State} {keep asked : Bool} {c : Nat} {t : Task} {work : TCtx → TM Unit} {s : State}
    (h₀ : Keeps r₀ s) (hw : ∀ x, TKeeps (work x)) : Keeps r₀ (runPiece keep asked c t work s) := by
  unfold runPiece
  have stop {u : State} (hu : Keeps r₀ u) : Keeps r₀ (if keep then u else s) := Keeps.ite (fun _ => hu) fun _ => h₀
  split
  · exact h₀
  · split
    · have hu := (hw _).ok h₀ (by assumption)
      exact updCroft_keeps (numberXfers_descriptors _ _) (Keeps.ite (fun _ => namedBefore_keeps hu) fun _ => hu)
    · exact failTask_keeps (stop ((hw _).error h₀ (by assumption)))
    · exact failTask_keeps (poisonAnswered_keeps (stop ((hw _).error h₀ (by assumption))))
    · exact failTask_keeps (failedTag_keeps (stop ((hw _).error h₀ (by assumption))))
    · exact askPeer_keeps h₀

theorem stepTaskRun_keeps {r₀ : State} {c : Nat} {t : Task} {work : TCtx → TM Unit} {s : State} (h₀ : Keeps r₀ s)
    (hwork : ∀ a0, TKeeps (work a0)) : Keeps r₀ (stepTaskRun c t work s) := by
  unfold stepTaskRun
  apply runPiece_keeps
  · assumption
  · intro _
    apply hwork

theorem putWork_keeps {r₀ : State} {c : Nat} {w : WorkRun} {s : State} (h₀ : Keeps r₀ s) : Keeps r₀ (putWork c w
    s) := by
  unfold putWork
  refine updCroft_keeps (fun _ => Nat.le_refl _) ?_
  assumption

theorem endWork_keeps {r₀ : State} {c : Nat} {uid : Nat} {s : State} (h₀ : Keeps r₀ s) : Keeps r₀ (endWork c uid s) := by
  unfold endWork
  apply markWorked_keeps
  refine updCroft_keeps (fun _ => Nat.le_refl _) ?_
  assumption

theorem pieceDone_keeps {r₀ : State} {c : Nat} {w : WorkRun} {s : State} (h₀ : Keeps r₀ s) : Keeps r₀ (pieceDone c
    w s) := by
  unfold pieceDone
  refine Keeps.ite (fun _ => ?_) (fun _ => ?_)
  · exact putWork_keeps (by assumption)
  · exact endWork_keeps (by assumption)

theorem askReads_keeps {r₀ : State} {c : Nat} {w : WorkRun} {s t : State} (h₀ : Keeps r₀ s) :
    Keeps r₀ (askReads c w s t) :=
  updCroft_keeps (fun _ => numberXfers_descriptors _ _ _) (putWork_keeps h₀)

theorem openPiece_keeps {r₀ : State} {keep : Bool} {c : Nat} {t : Task} {w : WorkRun} {work : TCtx → TM Unit}
    {s : State} (h₀ : Keeps r₀ s) (hw : ∀ x, TKeeps (work x)) : Keeps r₀ (openPiece keep c t w work s) := by
  unfold openPiece
  split
  · exact h₀
  · dsimp only
    split
    · exact askPeer_keeps h₀
    · exact Keeps.ite (fun _ => askReads_keeps h₀) fun _ => runPiece_keeps h₀ hw
    · exact Keeps.ite (fun _ => askReads_keeps h₀) fun _ => runPiece_keeps h₀ hw

theorem nextPiece_keeps {r₀ : State} {keep : Bool} {c : Nat} {t : Task} {w : WorkRun} {piece : WorkRun → TCtx → TM Unit}
    {s : State} (h₀ : Keeps r₀ s) (hw : ∀ w x, TKeeps (piece w x)) : Keeps r₀ (nextPiece keep c t w piece s) := by
  unfold nextPiece
  refine Keeps.ite (fun _ => ?_) (fun _ => openPiece_keeps h₀ (hw _))
  exact Keeps.ite (fun _ => h₀) fun _ => runPiece_keeps h₀ (hw _)

theorem unitRowKeep_keeps {r₀ : State} {keep : Bool} {c : Nat} {op : Nat} {ok : Desc → Bool} {start : Desc → TCtx →
    TM Unit} {piece : Desc → WorkRun → TCtx → TM Unit} {s : State} (h₀ : Keeps r₀ s) (hstart : ∀ a0 a1, TKeeps
    (start a0 a1)) (hpiece : ∀ a0 a1 a2, TKeeps (piece a0 a1 a2)) : Keeps r₀ (unitRowKeep keep c op ok start
    piece s) := by
  unfold unitRowKeep
  split
  · exact Keeps.ite (fun _ => h₀) fun _ => nextPiece_keeps h₀ (hpiece _)
  · split
    · exact Keeps.ite (fun _ => runTask_keeps h₀ (hstart _)) fun _ => h₀
    · exact h₀

theorem unitRow_keeps {r₀ : State} {c : Nat} {op : Nat} {ok : Desc → Bool} {start : Desc → TCtx → TM Unit} {piece :
    Desc → WorkRun → TCtx → TM Unit} {s : State} (h₀ : Keeps r₀ s) (hstart : ∀ a0 a1, TKeeps (start a0 a1))
    (hpiece : ∀ a0 a1 a2, TKeeps (piece a0 a1 a2)) : Keeps r₀ (unitRow c op ok start piece s) := by
  unfold unitRow
  apply unitRowKeep_keeps
  · assumption
  · intro _ _
    apply hstart
  · intro _ _ _
    apply hpiece

theorem statsBolt_keeps {c : TCtx} {d : Desc} : TKeeps (statsBolt c d : TM Bolt) := by
  unfold statsBolt
  refine TKeeps.bind ?_ (fun _ => ?_)
  · exact readBolt_keeps
  · refine TKeeps.bind ?_ (fun _ => ?_)
    · exact tCheck_keeps
    · exact TKeeps.pure _

theorem statsClearWork_keeps  {d : Desc} {x : TCtx} : TKeeps (statsClearWork d x : TM Unit) := by
  unfold statsClearWork
  refine TKeeps.bind ?_ (fun _ => ?_)
  · apply statsBolt_keeps
  · refine TKeeps.bind ?_ (fun _ => ?_)
    · refine tUpd_keeps (fun _ _ _ => ?_)
      refine updCroft_keeps (fun _ => Nat.le_refl _) ?_
      assumption
    · refine TKeeps.bind ?_ (fun _ => ?_)
      · refine tUpd_keeps (fun _ _ _ => ?_)
        with_reducible refine Keeps.upd ?_ (Nat.le_refl _) rfl rfl rfl
        assumption
      · refine TKeeps.bind ?_ (fun _ => ?_)
        · apply tWriteAt_keeps
        · refine tUpd_keeps (fun _ _ _ => ?_)
          exact markWorked_keeps (by assumption)

theorem execStatsClear_keeps {r₀ t₀ : State} {c : CroftId} {s : State} (h₀ : Keeps r₀ s)
    (e₀ : execStatsClear c s = .next t₀) : Keeps r₀ t₀ := by
  unfold execStatsClear at e₀
  obtain rfl := Host.Outcome.next.inj e₀
  split
  · refine Keeps.ite (fun _ => ?_) (fun _ => ?_)
    · assumption
    · apply runTask_keeps
      · assumption
      · intro _
        apply statsClearWork_keeps
  · assumption

theorem claimFolds_keeps {r₀ : State} {c : Nat} {uid : Nat} {addr : Nat} {s : State} (h₀ : Keeps r₀ s) : Keeps r₀
    (claimFolds c uid addr s) := by
  unfold claimFolds
  with_reducible refine Keeps.upd ?_ (Nat.le_refl _) rfl rfl rfl
  assumption

theorem statsFoldWork_keeps {d : Desc} {x : TCtx} : TKeeps (statsFoldWork d x : TM Unit) := by
  unfold statsFoldWork
  refine TKeeps.bind ?_ (fun _ => ?_)
  · exact statsBolt_keeps
  · refine TKeeps.bind ?_ (fun _ => ?_)
    · refine tUpd_keeps (fun _ _ _ => ?_)
      exact claimFolds_keeps (by assumption)
    · refine TKeeps.bind ?_ (fun _ => ?_)
      · exact TKeeps.get
      · split
        · refine tUpd_keeps (fun _ _ _ => ?_)
          exact markWorked_keeps (by assumption)
        · refine TKeeps.bind ?_ (fun _ => ?_)
          · exact tStatsReach_keeps
          · refine TKeeps.bind ?_ (fun _ => ?_)
            · refine tUpd_keeps (fun _ _ _ => ?_)
              refine updCroft_keeps (fun _ => Nat.le_refl _) ?_
              assumption
            · refine TKeeps.bind ?_ (fun _ => ?_)
              · refine tUpd_keeps (fun _ _ _ => ?_)
                exact sendFold_keeps (by assumption)
              · refine tUpd_keeps (fun _ _ _ => ?_)
                exact markWorked_keeps (by assumption)

theorem execStatsFold_keeps {r₀ t₀ : State} {c : CroftId} {s : State} (h₀ : Keeps r₀ s)
    (e₀ : execStatsFold c s = .next t₀) : Keeps r₀ t₀ := by
  unfold execStatsFold at e₀
  obtain rfl := Host.Outcome.next.inj e₀
  split
  · refine Keeps.ite (fun _ => ?_) (fun _ => ?_)
    · assumption
    · apply runTask_keeps
      · assumption
      · intro _
        apply statsFoldWork_keeps
  · assumption

theorem execStatsFoldApply_keeps {r₀ t₀ : State} {s : State} (h₀ : Keeps r₀ s)
    (e₀ : execStatsFoldApply s = .next t₀) : Keeps r₀ t₀ := by
  unfold execStatsFoldApply at e₀
  obtain rfl := Host.Outcome.next.inj e₀
  split
  · assumption
  · apply applyFold_keeps
    with_reducible refine Keeps.upd ?_ (Nat.le_refl _) rfl rfl rfl
    assumption

/-! ### Gauze -/

theorem gzStructure_keeps  {a : Option Bolt} {b : Option Bolt} {c : Option Bolt} {d : Desc}
    : TKeeps (gzStructure a b c d : TM (Bolt × Bolt × Bolt)) := by
  unfold gzStructure
  split
  · apply tFault_keeps
  · refine TKeeps.bind ?_ (fun _ => ?_)
    · apply tCheck_keeps
    · split
      · apply tFault_keeps
      · refine TKeeps.bind ?_ (fun _ => ?_)
        · apply tCheck_keeps
        · split
          · apply tFault_keeps
          · refine TKeeps.bind ?_ (fun _ => ?_)
            · apply tCheck_keeps
            · refine TKeeps.bind ?_ (fun _ => ?_)
              · apply tCheck_keeps
              · exact TKeeps.pure _

theorem setGz_keeps {r₀ : State} {c : Nat} {g : Option GzRun} {s : State} (h₀ : Keeps r₀ s)
    : Keeps r₀ (setGz c g s) := by
  unfold setGz
  refine updCroft_keeps (fun _ => Nat.le_refl _) ?_
  assumption

theorem setLoom_keeps {r₀ : State} {c : Nat} {g : Option LmRun} {s : State} (h₀ : Keeps r₀ s)
    : Keeps r₀ (setLoom c g s) := by
  unfold setLoom
  refine updCroft_keeps (fun _ => Nat.le_refl _) ?_
  assumption

theorem gzStart_keeps {weft : Bool} {d : Desc} {x : TCtx} : TKeeps (gzStart weft d x : TM Unit) := by
  unfold gzStart
  refine TKeeps.bind ?_ (fun _ => ?_)
  · exact readBolt?_keeps
  · refine TKeeps.bind ?_ (fun _ => ?_)
    · exact readBolt?_keeps
    · refine TKeeps.bind ?_ (fun _ => ?_)
      · exact readBolt?_keeps
      · refine TKeeps.bind ?_ (fun _ => ?_)
        · exact gzStructure_keeps
        · split
          refine TKeeps.bind ?_ (fun _ => ?_)
          · exact tCheck_keeps
          · refine TKeeps.bind ?_ (fun _ => ?_)
            · exact tCheck_keeps
            · refine TKeeps.bind ?_ (fun _ => ?_)
              · exact tCheck_keeps
              · dsimp only
                refine TKeeps.bind ?_ (fun _ => ?_)
                · exact tCheck_keeps
                · refine TKeeps.bind ?_ (fun _ => ?_)
                  · exact tCheck_keeps
                  · refine TKeeps.bind ?_ (fun _ => ?_)
                    · exact tCheck_keeps
                    · refine TKeeps.bind ?_ (fun _ => ?_)
                      · exact TKeeps.get
                      · refine TKeeps.bind ?_ (fun _ => ?_)
                        · exact tCheck_keeps
                        · refine TKeeps.ite (fun _ => ?_) (fun _ => ?_)
                          · refine tUpd_keeps (fun _ _ _ => ?_)
                            exact markWorked_keeps (by assumption)
                          · refine TKeeps.bind ?_ (fun _ => ?_)
                            · exact tCheck_keeps
                            · refine TKeeps.bind ?_ (fun _ => ?_)
                              · exact tCheck_keeps
                              · refine TKeeps.bind ?_ (fun _ => ?_)
                                · exact tCheck_keeps
                                · refine TKeeps.bind ?_ (fun _ => ?_)
                                  · exact TKeeps.get
                                  · refine TKeeps.bind ?_ (fun _ => ?_)
                                    · exact startSlot_keeps
                                    · refine TKeeps.bind ?_ (fun _ => ?_)
                                      · exact TKeeps.get
                                      · refine TKeeps.bind ?_ (fun _ => ?_)
                                        · refine tUpd_keeps (fun _ _ _ => ?_)
                                          exact shadowDraw_keeps (by assumption)
                                        · refine tUpd_keeps (fun _ _ _ => ?_)
                                          exact setGz_keeps (by assumption)

theorem execGzPlain_keeps {r₀ t₀ : State} {c : CroftId} {s : State} (h₀ : Keeps r₀ s)
    (e₀ : execGzPlain c s = .next t₀) : Keeps r₀ t₀ := by
  unfold execGzPlain at e₀
  obtain rfl := Host.Outcome.next.inj e₀
  split
  · apply runTask_keeps
    · assumption
    · intro _
      apply gzStart_keeps
  · assumption

theorem execGzWeft_keeps {r₀ t₀ : State} {c : CroftId} {s : State} (h₀ : Keeps r₀ s)
    (e₀ : execGzWeft c s = .next t₀) : Keeps r₀ t₀ := by
  unfold execGzWeft at e₀
  obtain rfl := Host.Outcome.next.inj e₀
  split
  · apply runTask_keeps
    · assumption
    · intro _
      apply gzStart_keeps
  · assumption

theorem gzMalformed_keeps  {α : Type} {operand : Nat} {k : Nat} {e : GzBad}
    : TKeeps (gzMalformed operand k e : TM α) := by
  unfold gzMalformed
  apply tFaultSet_keeps

theorem readPane_keeps  {x : TCtx} {g : GzRun} {d : Desc} {k : Nat}
    : TKeeps (readPane x g d k : TM (List (List Val))) := by
  unfold readPane
  dsimp only
  refine TKeeps.ite (fun _ => ?_) (fun _ => ?_)
  · exact TKeeps.pure _
  · refine TKeeps.bind ?_ (fun _ => ?_)
    · apply readTwill_keeps
    · exact TKeeps.pure _

theorem tTaken_keeps {x : TCtx} : TKeeps (tTaken x) :=
  tUpd_keeps fun _ _ h => updCroft_keeps (numberXfers_descriptors _ _) h

theorem gzTakeTile_keeps  {x : TCtx} {d : Desc} {g : GzRun} : TKeeps (gzTakeTile x d g : TM GzRun) := by
  unfold gzTakeTile
  dsimp only
  refine TKeeps.bind ?_ (fun _ => ?_)
  · apply readDir_keeps
  · refine TKeeps.ite (fun _ => ?_) (fun _ => ?_)
    · refine TKeeps.bind ?_ (fun _ => ?_)
      · refine tUpd_keeps (fun _ _ _ => ?_)
        exact addF_keeps (by assumption)
      · exact TKeeps.pure _
    · refine TKeeps.bind ?_ (fun _ => ?_)
      · apply readGauze_keeps
      · split
        · apply gzMalformed_keeps
        · refine TKeeps.bind ?_ (fun _ => ?_)
          · apply readPane_keeps
          · refine TKeeps.bind ?_ (fun _ => ?_)
            · refine tUpd_keeps (fun _ _ _ => ?_)
              exact addF_keeps (by assumption)
            · exact TKeeps.pure _

theorem gzTakeTiles_keeps {x : TCtx} {d : Desc} {hold : Bool} {n : Nat} {g : GzRun} :
    TKeeps (gzTakeTiles x d hold n g) := by
  induction n generalizing g with
  | zero => exact TKeeps.pure _
  | succ n ih =>
    unfold gzTakeTiles
    exact TKeeps.ite (fun _ => TKeeps.pure _) fun _ =>
      TKeeps.bind gzTakeTile_keeps fun _ => TKeeps.bind tTaken_keeps fun _ => ih

theorem countIssue_keeps {r₀ : State} {c : Nat} {n : IssueCount} {s : State} (h₀ : Keeps r₀ s) : Keeps r₀
    (countIssue c n s) := by
  unfold countIssue
  dsimp only
  apply addF_keeps
  exact addF_keeps (addF_keeps (addF_keeps (addF_keeps (addF_keeps (addUnits_keeps (by assumption))))))

theorem gzIssue_keeps {r₀ : State} {c : Nat} {g : GzRun} {s : State} (h₀ : Keeps r₀ s) : Keeps r₀ (gzIssue c g s) := by
  unfold gzIssue
  dsimp only
  exact setGz_keeps (countIssue_keeps (by assumption))

theorem execGzIssueCycle_keeps {r₀ t₀ : State} {c : CroftId} {s : State} (h₀ : Keeps r₀ s)
    (e₀ : execGzIssueCycle c s = .next t₀) : Keeps r₀ t₀ := by
  unfold execGzIssueCycle at e₀
  obtain rfl := Host.Outcome.next.inj e₀
  split
  · assumption
  · dsimp only
    apply stepTaskRun_keeps
    · assumption
    · intro _
      refine TKeeps.bind ?_ (fun _ => ?_)
      · apply gzTakeTiles_keeps
      · refine tUpd_keeps (fun _ _ _ => ?_)
        exact gzIssue_keeps (by assumption)

theorem gzWrite_keeps {d : Desc} {g : GzRun} {x : TCtx} : TKeeps (gzWrite d g x : TM Unit) := by
  unfold gzWrite
  dsimp only
  refine TKeeps.bind ?_ (fun _ => ?_)
  · exact TKeeps.get
  · exact writeAcc_keeps

theorem gzFinish_keeps {d : Desc} {g : GzRun} {x : TCtx} : TKeeps (gzFinish d g x : TM Unit) := by
  unfold gzFinish
  refine TKeeps.bind ?_ (fun _ => ?_)
  · exact TKeeps.get
  · dsimp only
    refine TKeeps.bind ?_ (fun _ => ?_)
    · refine tUpd_keeps (fun _ _ _ => ?_)
      exact shadowEnd_keeps (by assumption)
    · refine TKeeps.ite (fun _ => ?_) (fun _ => ?_)
      · refine TKeeps.bind ?_ (fun _ => ?_)
        · apply tName_keeps
          exact gzWrite_keeps
        · refine TKeeps.bind ?_ (fun _ => ?_)
          · exact TKeeps.get
          · refine TKeeps.ite (fun _ => ?_) (fun _ => ?_)
            · refine TKeeps.bind ?_ (fun _ => ?_)
              · refine tUpd_keeps (fun _ _ _ => ?_)
                exact dropSlot_keeps (by assumption)
              · refine TKeeps.bind ?_ (fun _ => ?_)
                · refine tUpd_keeps (fun _ _ _ => ?_)
                  exact putEnding_keeps (by assumption)
                · refine TKeeps.bind ?_ (fun _ => ?_)
                  · refine tUpd_keeps (fun _ _ _ => ?_)
                    exact setGz_keeps (by assumption)
                  · refine tUpd_keeps (fun _ _ _ => ?_)
                    exact markWorked_keeps (by assumption)
            · refine TKeeps.bind ?_ (fun _ => ?_)
              · refine tUpd_keeps (fun _ _ _ => ?_)
                exact putEnding_keeps (by assumption)
              · refine TKeeps.bind ?_ (fun _ => ?_)
                · refine tUpd_keeps (fun _ _ _ => ?_)
                  exact setGz_keeps (by assumption)
                · refine tUpd_keeps (fun _ _ _ => ?_)
                  exact markWorked_keeps (by assumption)
      · refine TKeeps.bind ?_ (fun _ => ?_)
        · refine tTry_keeps (fun _ _ _ _ _ => ?_) ?_
          · refine endSlot_keeps ?_ (by assumption)
            assumption
          · exact tFault_keeps
        · refine TKeeps.bind ?_ (fun _ => ?_)
          · refine tUpd_keeps (fun _ _ _ => ?_)
            exact setGz_keeps (by assumption)
          · refine tUpd_keeps (fun _ _ _ => ?_)
            exact markWorked_keeps (by assumption)

theorem execGzCollectorFold_keeps {r₀ t₀ : State} {c : CroftId} {s : State} (h₀ : Keeps r₀ s)
    (e₀ : execGzCollectorFold c s = .next t₀) : Keeps r₀ t₀ := by
  unfold execGzCollectorFold at e₀
  obtain rfl := Host.Outcome.next.inj e₀
  split
  · assumption
  · dsimp only
    refine Keeps.ite (fun _ => ?_) (fun _ => ?_)
    · apply stepTaskRun_keeps
      · exact setGz_keeps (by assumption)
      · intro _
        apply gzFinish_keeps
    · exact setGz_keeps (by assumption)

theorem parkSlot_keeps {r₀ : State} {c : Nat} {r : SlotRegion} {slotless : Bool} {key : List Byte → Bool} {width :
    Nat} {header : List Byte} {m : SMap Cell} {s : State} (h₀ : Keeps r₀ s) : Keeps r₀ (parkSlot c r slotless key
    width header m s) := by
  unfold parkSlot
  refine Keeps.ite (fun _ => ?_) (fun _ => ?_)
  · split
    · exact storeSlot_keeps (by assumption)
    · assumption
  · refine Keeps.getD ?_ (fun _ e => endSlot_keeps ?_ e)
    · assumption
    · assumption

theorem gzAbandon_keeps {r₀ : State} {c : Nat} {t : Task} {g : GzRun} {s : State} (h₀ : Keeps r₀ s) : Keeps r₀
    (gzAbandon c t g s) := by
  unfold gzAbandon
  exact parkSlot_keeps (by assumption)

theorem borrowTile_keeps {d : Desc} {g : GzRun} {e : GzLent} {x : TCtx} : TKeeps (borrowTile d g e x : TM Unit) := by
  unfold borrowTile
  dsimp only
  refine TKeeps.bind ?_ (fun _ => ?_)
  · exact readTwillTile_keeps
  · refine TKeeps.bind ?_ (fun _ => ?_)
    · exact readPane_keeps
    · refine TKeeps.bind ?_ (fun _ => ?_)
      · refine tUpd_keeps (fun _ _ _ => ?_)
        exact addF_keeps (addF_keeps (addF_keeps (addUnits_keeps (by assumption))))
      · refine tUpd_keeps (fun _ _ _ => ?_)
        exact setGz_keeps (by assumption)

theorem execLoomTakeBorrowed_keeps {r₀ t₀ : State} {c : CroftId} {s : State} (h₀ : Keeps r₀ s)
    (e₀ : execLoomTakeBorrowed c s = .next t₀) : Keeps r₀ t₀ := by
  unfold execLoomTakeBorrowed at e₀
  obtain rfl := Host.Outcome.next.inj e₀
  split
  · assumption
  · split
    · assumption
    · refine Keeps.ite (fun _ => ?_) (fun _ => ?_)
      · apply stepTaskRun_keeps
        · assumption
        · intro _
          apply borrowTile_keeps
      · assumption

/-! ### Loom -/

theorem logTile_keeps  {x : TCtx} {b : Option Bolt} {t : Nat} {at_ : Nat} : TKeeps (logTile x b t at_ : TM Unit) := by
  unfold logTile
  split
  · exact TKeeps.pure _
  · refine TKeeps.bind ?_ (fun _ => ?_)
    · exact TKeeps.get
    · dsimp only
      refine TKeeps.ite (fun _ => ?_) (fun _ => ?_)
      · refine TKeeps.bind ?_ (fun _ => ?_)
        · refine tUpd_keeps (fun _ _ _ => ?_)
          exact logXfer_keeps (by assumption)
        · refine TKeeps.bind ?_ (fun _ => ?_)
          · exact TKeeps.get
          · refine TKeeps.ite (fun _ => ?_) (fun _ => ?_)
            · refine tUpd_keeps (fun _ _ _ => ?_)
              exact logXfer_keeps (by assumption)
            · exact TKeeps.pure _
      · refine TKeeps.bind ?_ (fun _ => ?_)
        · exact TKeeps.get
        · refine TKeeps.ite (fun _ => ?_) (fun _ => ?_)
          · refine tUpd_keeps (fun _ _ _ => ?_)
            exact logXfer_keeps (by assumption)
          · exact TKeeps.pure _

theorem logDense_keeps  {x : TCtx} {b : Option Bolt} {t : Nat} : TKeeps (logDense x b t : TM Unit) := by
  unfold logDense
  apply logTile_keeps

theorem lmReach_keeps {x : TCtx} {operand : Nat} {b : Bolt} {t : Nat} : TKeeps (lmReach x operand b t : TM (Nat × Bool
    × Nat × Option (Array Byte))) := by
  unfold lmReach
  refine TKeeps.ite (fun _ => ?_) (fun _ => ?_)
  · refine TKeeps.bind ?_ (fun _ => ?_)
    · exact readDir_keeps
    · refine TKeeps.ite (fun _ => ?_) (fun _ => ?_)
      · refine TKeeps.bind ?_ (fun _ => ?_)
        · exact readMask_keeps
        · exact TKeeps.pure _
      · exact TKeeps.pure _
  · exact TKeeps.pure _

theorem lmTakeTile_keeps {x : TCtx} {d : Desc} {g : LmRun} : TKeeps (lmTakeTile x d g : TM LmRun) := by
  unfold lmTakeTile
  dsimp only
  refine TKeeps.ite (fun _ => ?_) (fun _ => ?_)
  · split
    · refine TKeeps.bind ?_ (fun _ => ?_)
      · exact lmReach_keeps
      · refine TKeeps.bind ?_ (fun _ => ?_)
        · exact logDense_keeps
        · refine TKeeps.bind ?_ (fun _ => ?_)
          · exact logDense_keeps
          · refine TKeeps.ite (fun _ => ?_) (fun _ => ?_)
            · refine TKeeps.bind ?_ (fun _ => ?_)
              · exact logTile_keeps
              · refine TKeeps.bind ?_ (fun _ => ?_)
                · refine tUpd_keeps (fun _ _ _ => ?_)
                  apply addF_keeps
                  refine Keeps.ite (fun _ => ?_) (fun _ => ?_)
                  · exact addF_keeps (by assumption)
                  · assumption
                · exact TKeeps.pure _
            · refine TKeeps.bind ?_ (fun _ => ?_)
              · refine tUpd_keeps (fun _ _ _ => ?_)
                apply addF_keeps
                refine Keeps.ite (fun _ => ?_) (fun _ => ?_)
                · exact addF_keeps (by assumption)
                · assumption
              · exact TKeeps.pure _
    · refine TKeeps.bind ?_ (fun _ => ?_)
      · exact TKeeps.pure _
      · refine TKeeps.bind ?_ (fun _ => ?_)
        · exact logDense_keeps
        · refine TKeeps.bind ?_ (fun _ => ?_)
          · exact logDense_keeps
          · refine TKeeps.ite (fun _ => ?_) (fun _ => ?_)
            · refine TKeeps.bind ?_ (fun _ => ?_)
              · exact logTile_keeps
              · refine TKeeps.bind ?_ (fun _ => ?_)
                · refine tUpd_keeps (fun _ _ _ => ?_)
                  apply addF_keeps
                  refine Keeps.ite (fun _ => ?_) (fun _ => ?_)
                  · exact addF_keeps (by assumption)
                  · assumption
                · exact TKeeps.pure _
            · refine TKeeps.bind ?_ (fun _ => ?_)
              · refine tUpd_keeps (fun _ _ _ => ?_)
                apply addF_keeps
                refine Keeps.ite (fun _ => ?_) (fun _ => ?_)
                · exact addF_keeps (by assumption)
                · assumption
              · exact TKeeps.pure _
  · split
    · exact TKeeps.pure _
    · refine TKeeps.bind ?_ (fun _ => ?_)
      · exact lmReach_keeps
      · refine TKeeps.ite (fun _ => ?_) (fun _ => ?_)
        · refine TKeeps.bind ?_ (fun _ => ?_)
          · refine tUpd_keeps (fun _ _ _ => ?_)
            exact addF_keeps (by assumption)
          · exact TKeeps.pure _
        · refine TKeeps.bind ?_ (fun _ => ?_)
          · exact logTile_keeps
          · refine TKeeps.bind ?_ (fun _ => ?_)
            · exact logDense_keeps
            · refine TKeeps.bind ?_ (fun _ => ?_)
              · refine tUpd_keeps (fun _ _ _ => ?_)
                exact addF_keeps (by assumption)
              · exact TKeeps.pure _

theorem lmTakeTiles_keeps {x : TCtx} {d : Desc} {stop : Bool} {n : Nat} {g : LmRun} :
    TKeeps (lmTakeTiles x d stop n g) := by
  induction n generalizing g with
  | zero => exact TKeeps.pure _
  | succ n ih =>
    unfold lmTakeTiles
    exact TKeeps.ite (fun _ => TKeeps.pure _) fun _ =>
      TKeeps.bind lmTakeTile_keeps fun _ => TKeeps.bind tTaken_keeps fun _ => ih

theorem subBlock_keeps {x : TCtx} {operand : Nat} {b : Bolt} {t : Nat} {at_ : Nat} {rb : Nat} {cb : Nat} : TKeeps
    (subBlock x operand b t at_ rb cb : TM (Array (Array Val))) := by
  unfold subBlock
  refine TKeeps.bind ?_ (fun _ => ?_)
  · exact twillPart_keeps
  · exact TKeeps.pure _

theorem peekMask_keeps  {x : TCtx} {operand : Nat} {b : Bolt} {t : Nat}
    : TKeeps (peekMask x operand b t : TM (Option (Array Byte))) := by
  unfold peekMask
  refine TKeeps.ite (fun _ => ?_) (fun _ => ?_)
  · refine TKeeps.bind ?_ (fun _ => ?_)
    · apply tPeek_keeps
    · exact TKeeps.pure _
  · exact TKeeps.pure _

theorem dySub_keeps {x : TCtx} {d : Desc} {g : LmRun} {y : Bolt} {sl : LmSlot} : TKeeps (dySub x d g y sl : TM
    (Array (Array Val))) := by
  unfold dySub
  dsimp only
  split
  · exact TKeeps.pure _
  · refine TKeeps.ite (fun _ => ?_) (fun _ => ?_)
    · exact subBlock_keeps
    · exact subBlock_keeps

theorem runSlot_keeps {x : TCtx} {d : Desc} {g : LmRun} {sl : LmSlot} : TKeeps (runSlot x d g sl : TM (List
    (GSumRow × List PSum) × Nat × LmRun)) := by
  unfold runSlot
  dsimp only
  split
  · refine TKeeps.bind ?_ (fun _ => ?_)
    · exact subBlock_keeps
    · refine TKeeps.bind ?_ (fun _ => ?_)
      · exact peekMask_keeps
      · refine TKeeps.bind ?_ (fun _ => ?_)
        · exact subBlock_keeps
        · exact TKeeps.pure _
  · refine TKeeps.bind ?_ (fun _ => ?_)
    · exact subBlock_keeps
    · refine TKeeps.bind ?_ (fun _ => ?_)
      · exact peekMask_keeps
      · refine TKeeps.bind ?_ (fun _ => ?_)
        · exact dySub_keeps
        · exact TKeeps.pure _
  · refine TKeeps.bind ?_ (fun _ => ?_)
    · exact dySub_keeps
    · refine TKeeps.bind ?_ (fun _ => ?_)
      · exact subBlock_keeps
      · exact TKeeps.pure _
  · exact TKeeps.pure _

theorem lmWrite_keeps {d : Desc} {g : LmRun} {x : TCtx} : TKeeps (lmWrite d g x : TM Unit) := by
  unfold lmWrite
  refine TKeeps.forM (fun _ => ?_)
  refine TKeeps.bind ?_ (fun _ => ?_)
  · exact TKeeps.get
  · dsimp only
    exact writeAcc_keeps

theorem lmEndSlot_keeps {x : TCtx} {d : Desc} {o : LmOut} : TKeeps (lmEndSlot x d o : TM (List (Nat × List Byte ×
    List Byte))) := by
  unfold lmEndSlot
  refine TKeeps.bind ?_ (fun _ => ?_)
  · exact TKeeps.get
  · dsimp only
    refine TKeeps.bind ?_ (fun _ => ?_)
    · refine tUpd_keeps (fun _ _ _ => ?_)
      exact shadowEnd_keeps (by assumption)
    · refine TKeeps.ite (fun _ => ?_) (fun _ => ?_)
      · refine TKeeps.ite (fun _ => ?_) (fun _ => ?_)
        · refine TKeeps.bind ?_ (fun _ => ?_)
          · refine tUpd_keeps (fun _ _ _ => ?_)
            exact dropSlot_keeps (by assumption)
          · exact TKeeps.pure _
        · exact TKeeps.pure _
      · refine TKeeps.bind ?_ (fun _ => ?_)
        · refine tTry_keeps (fun _ _ _ _ _ => ?_) ?_
          · refine endSlot_keeps ?_ (by assumption)
            assumption
          · exact tFault_keeps
        · exact TKeeps.pure _

theorem lmFinish_keeps {d : Desc} {g : LmRun} {x : TCtx} : TKeeps (lmFinish d g x : TM Unit) := by
  unfold lmFinish
  dsimp only
  refine TKeeps.ite (fun _ => ?_) (fun _ => ?_)
  · refine TKeeps.bind ?_ (fun _ => ?_)
    · apply tName_keeps
      exact lmWrite_keeps
    · refine TKeeps.bind ?_ (fun _ => ?_)
      · refine TKeeps.mapM (fun _ => ?_)
        exact lmEndSlot_keeps
      · refine TKeeps.bind ?_ (fun _ => ?_)
        · refine tUpd_keeps (fun _ _ _ => ?_)
          exact putEnding_keeps (by assumption)
        · refine TKeeps.bind ?_ (fun _ => ?_)
          · refine tUpd_keeps (fun _ _ _ => ?_)
            exact setLoom_keeps (by assumption)
          · refine tUpd_keeps (fun _ _ _ => ?_)
            exact markWorked_keeps (by assumption)
  · refine TKeeps.bind ?_ (fun _ => ?_)
    · refine TKeeps.forM (fun _ => ?_)
      refine TKeeps.bind ?_ (fun _ => ?_)
      · exact lmEndSlot_keeps
      · exact TKeeps.pure _
    · refine TKeeps.bind ?_ (fun _ => ?_)
      · refine tUpd_keeps (fun _ _ _ => ?_)
        exact setLoom_keeps (by assumption)
      · refine tUpd_keeps (fun _ _ _ => ?_)
        exact markWorked_keeps (by assumption)

theorem lmSettle_keeps {x : TCtx} {t : Task} {g : LmRun} : TKeeps (lmSettle x t g : TM Unit) := by
  unfold lmSettle
  refine TKeeps.bind ?_ (fun _ => ?_)
  · exact TKeeps.get
  · refine TKeeps.ite (fun _ => ?_) (fun _ => ?_)
    · exact lmFinish_keeps
    · refine tUpd_keeps (fun _ _ _ => ?_)
      exact setLoom_keeps (by assumption)

theorem lmAbandon_keeps {r₀ : State} {c : Nat} {t : Task} {g : LmRun} {s : State} (h₀ : Keeps r₀ s) : Keeps r₀
    (lmAbandon c t g s) := by
  unfold lmAbandon
  dsimp only
  refine Keeps.ite (fun _ => ?_) (fun _ => ?_)
  · refine Keeps.ite (fun _ => ?_) (fun _ => ?_)
    · assumption
    · exact parkSlot_keeps (by assumption)
  · exact parkSlot_keeps (by assumption)

theorem lmStartAcc_keeps  {x : TCtx} {d : Desc} {a : LmAcc} : TKeeps (lmStartAcc x d a : TM (SMap Cell)) := by
  unfold lmStartAcc
  refine TKeeps.bind ?_ (fun _ => ?_)
  · exact TKeeps.get
  · apply startSlot_keeps

theorem fwdStart_keeps {d : Desc} {x : TCtx} : TKeeps (fwdStart d x : TM Unit) := by
  unfold fwdStart
  refine TKeeps.bind ?_ (fun _ => ?_)
  · exact readBolt?_keeps
  · refine TKeeps.bind ?_ (fun _ => ?_)
    · exact readBolt?_keeps
    · refine TKeeps.bind ?_ (fun _ => ?_)
      · exact readBolt?_keeps
      · split
        · exact tFault_keeps
        · refine TKeeps.bind ?_ (fun _ => ?_)
          · exact tCheck_keeps
          · split
            · exact tFault_keeps
            · refine TKeeps.bind ?_ (fun _ => ?_)
              · exact tCheck_keeps
              · split
                · exact tFault_keeps
                · refine TKeeps.bind ?_ (fun _ => ?_)
                  · exact tCheck_keeps
                  · refine TKeeps.bind ?_ (fun _ => ?_)
                    · exact tCheck_keeps
                    · refine TKeeps.bind ?_ (fun _ => ?_)
                      · exact tCheck_keeps
                      · refine TKeeps.bind ?_ (fun _ => ?_)
                        · exact tCheck_keeps
                        · refine TKeeps.bind ?_ (fun _ => ?_)
                          · exact tCheck_keeps
                          · refine TKeeps.bind ?_ (fun _ => ?_)
                            · exact tCheck_keeps
                            · refine TKeeps.bind ?_ (fun _ => ?_)
                              · exact TKeeps.get
                              · refine TKeeps.bind ?_ (fun _ => ?_)
                                · exact tCheck_keeps
                                · refine TKeeps.ite (fun _ => ?_) (fun _ => ?_)
                                  · refine tUpd_keeps (fun _ _ _ => ?_)
                                    exact markWorked_keeps (by assumption)
                                  · dsimp only
                                    refine TKeeps.bind ?_ (fun _ => ?_)
                                    · exact tCheck_keeps
                                    · refine TKeeps.bind ?_ (fun _ => ?_)
                                      · exact tCheck_keeps
                                      · refine TKeeps.bind ?_ (fun _ => ?_)
                                        · exact tCheck_keeps
                                        · refine TKeeps.bind ?_ (fun _ => ?_)
                                          · exact lmStartAcc_keeps
                                          · refine TKeeps.bind ?_ (fun _ => ?_)
                                            · exact TKeeps.get
                                            · refine TKeeps.bind ?_ (fun _ => ?_)
                                              · refine tUpd_keeps (fun _ _ _ => ?_)
                                                exact addF_keeps (by assumption)
                                              · refine TKeeps.bind ?_ (fun _ => ?_)
                                                · refine tUpd_keeps (fun _ _ _ => ?_)
                                                  exact shadowDraw_keeps (by assumption)
                                                · refine tUpd_keeps (fun _ _ _ => ?_)
                                                  exact setLoom_keeps (by assumption)

theorem pairStart_keeps {d : Desc} {x : TCtx} : TKeeps (pairStart d x : TM Unit) := by
  unfold pairStart
  refine TKeeps.bind ?_ (fun _ => ?_)
  · exact readBolt?_keeps
  · refine TKeeps.bind ?_ (fun _ => ?_)
    · exact readBolt?_keeps
    · refine TKeeps.bind ?_ (fun _ => ?_)
      · exact readBolt?_keeps
      · refine TKeeps.bind ?_ (fun _ => ?_)
        · exact readBolt?_keeps
        · refine TKeeps.bind ?_ (fun _ => ?_)
          · exact readBolt?_keeps
          · refine TKeeps.bind ?_ (fun _ => ?_)
            · exact tCheck_keeps
            · refine TKeeps.bind ?_ (fun _ => ?_)
              · exact tCheck_keeps
              · refine TKeeps.bind ?_ (fun _ => ?_)
                · exact tCheck_keeps
                · refine TKeeps.bind ?_ (fun _ => ?_)
                  · exact tCheck_keeps
                  · refine TKeeps.bind ?_ (fun _ => ?_)
                    · exact tCheck_keeps
                    · refine TKeeps.bind ?_ (fun _ => ?_)
                      · exact tCheck_keeps
                      · refine TKeeps.bind ?_ (fun _ => ?_)
                        · exact tCheck_keeps
                        · refine TKeeps.bind ?_ (fun _ => ?_)
                          · exact tCheck_keeps
                          · refine TKeeps.bind ?_ (fun _ => ?_)
                            · exact tCheck_keeps
                            · refine TKeeps.bind ?_ (fun _ => ?_)
                              · exact tCheck_keeps
                              · refine TKeeps.bind ?_ (fun _ => ?_)
                                · exact tCheck_keeps
                                · refine TKeeps.bind ?_ (fun _ => ?_)
                                  · exact tCheck_keeps
                                  · refine TKeeps.bind ?_ (fun _ => ?_)
                                    · exact tCheck_keeps
                                    · refine TKeeps.bind ?_ (fun _ => ?_)
                                      · exact tCheck_keeps
                                      · dsimp only
                                        refine TKeeps.bind ?_ (fun _ => ?_)
                                        · exact TKeeps.get
                                        · refine TKeeps.bind ?_ (fun _ => ?_)
                                          · exact tCheck_keeps
                                          · refine TKeeps.bind ?_ (fun _ => ?_)
                                            · exact tCheck_keeps
                                            · refine TKeeps.ite (fun _ => ?_) (fun _ => ?_)
                                              · refine tUpd_keeps (fun _ _ _ => ?_)
                                                exact markWorked_keeps (by assumption)
                                              · refine TKeeps.bind ?_ (fun _ => ?_)
                                                · exact tCheck_keeps
                                                · refine TKeeps.bind ?_ (fun _ => ?_)
                                                  · exact tCheck_keeps
                                                  · refine TKeeps.bind ?_ (fun _ => ?_)
                                                    · exact tCheck_keeps
                                                    · refine TKeeps.ite (fun _ => ?_) (fun _ => ?_)
                                                      · refine TKeeps.bind ?_ (fun _ => ?_)
                                                        · exact lmStartAcc_keeps
                                                        · refine TKeeps.ite (fun _ => ?_) (fun _ => ?_)
                                                          · refine TKeeps.bind ?_ (fun _ => ?_)
                                                            · exact lmStartAcc_keeps
                                                            · refine TKeeps.bind ?_ (fun _ => ?_)
                                                              · exact TKeeps.get
                                                              · refine TKeeps.bind ?_ (fun _ => ?_)
                                                                · exact tCheck_keeps
                                                                · refine TKeeps.bind ?_ (fun _ => ?_)
                                                                  · refine tUpd_keeps (fun _ _ _ => ?_)
                                                                    exact addF_keeps (by assumption)
                                                                  · refine TKeeps.bind ?_ (fun _ => ?_)
                                                                    · refine tUpd_keeps (fun _ _ _ => ?_)
                                                                      split
                                                                      · apply shadowDraw_keeps
                                                                        split
                                                                        · exact shadowDraw_keeps (by assumption)
                                                                        · assumption
                                                                      · split
                                                                        · exact shadowDraw_keeps (by assumption)
                                                                        · assumption
                                                                    · refine tUpd_keeps (fun _ _ _ => ?_)
                                                                      exact setLoom_keeps (by assumption)
                                                          · refine TKeeps.bind ?_ (fun _ => ?_)
                                                            · exact TKeeps.pure _
                                                            · refine TKeeps.bind ?_ (fun _ => ?_)
                                                              · exact TKeeps.get
                                                              · refine TKeeps.bind ?_ (fun _ => ?_)
                                                                · exact tCheck_keeps
                                                                · refine TKeeps.bind ?_ (fun _ => ?_)
                                                                  · refine tUpd_keeps (fun _ _ _ => ?_)
                                                                    exact addF_keeps (by assumption)
                                                                  · refine TKeeps.bind ?_ (fun _ => ?_)
                                                                    · refine tUpd_keeps (fun _ _ _ => ?_)
                                                                      split
                                                                      · apply shadowDraw_keeps
                                                                        split
                                                                        · exact shadowDraw_keeps (by assumption)
                                                                        · assumption
                                                                      · split
                                                                        · exact shadowDraw_keeps (by assumption)
                                                                        · assumption
                                                                    · refine tUpd_keeps (fun _ _ _ => ?_)
                                                                      exact setLoom_keeps (by assumption)
                                                      · refine TKeeps.bind ?_ (fun _ => ?_)
                                                        · exact TKeeps.pure _
                                                        · refine TKeeps.ite (fun _ => ?_) (fun _ => ?_)
                                                          · refine TKeeps.bind ?_ (fun _ => ?_)
                                                            · exact lmStartAcc_keeps
                                                            · refine TKeeps.bind ?_ (fun _ => ?_)
                                                              · exact TKeeps.get
                                                              · refine TKeeps.bind ?_ (fun _ => ?_)
                                                                · exact tCheck_keeps
                                                                · refine TKeeps.bind ?_ (fun _ => ?_)
                                                                  · refine tUpd_keeps (fun _ _ _ => ?_)
                                                                    exact addF_keeps (by assumption)
                                                                  · refine TKeeps.bind ?_ (fun _ => ?_)
                                                                    · refine tUpd_keeps (fun _ _ _ => ?_)
                                                                      split
                                                                      · apply shadowDraw_keeps
                                                                        split
                                                                        · exact shadowDraw_keeps (by assumption)
                                                                        · assumption
                                                                      · split
                                                                        · exact shadowDraw_keeps (by assumption)
                                                                        · assumption
                                                                    · refine tUpd_keeps (fun _ _ _ => ?_)
                                                                      exact setLoom_keeps (by assumption)
                                                          · refine TKeeps.bind ?_ (fun _ => ?_)
                                                            · exact TKeeps.pure _
                                                            · refine TKeeps.bind ?_ (fun _ => ?_)
                                                              · exact TKeeps.get
                                                              · refine TKeeps.bind ?_ (fun _ => ?_)
                                                                · exact tCheck_keeps
                                                                · refine TKeeps.bind ?_ (fun _ => ?_)
                                                                  · refine tUpd_keeps (fun _ _ _ => ?_)
                                                                    exact addF_keeps (by assumption)
                                                                  · refine TKeeps.bind ?_ (fun _ => ?_)
                                                                    · refine tUpd_keeps (fun _ _ _ => ?_)
                                                                      split
                                                                      · apply shadowDraw_keeps
                                                                        split
                                                                        · exact shadowDraw_keeps (by assumption)
                                                                        · assumption
                                                                      · split
                                                                        · exact shadowDraw_keeps (by assumption)
                                                                        · assumption
                                                                    · refine tUpd_keeps (fun _ _ _ => ?_)
                                                                      exact setLoom_keeps (by assumption)

theorem execLoomFwd_keeps {r₀ t₀ : State} {c : CroftId} {s : State} (h₀ : Keeps r₀ s)
    (e₀ : execLoomFwd c s = .next t₀) : Keeps r₀ t₀ := by
  unfold execLoomFwd at e₀
  obtain rfl := Host.Outcome.next.inj e₀
  split
  · apply runTask_keeps
    · assumption
    · intro _
      apply fwdStart_keeps
  · assumption

theorem execLoomPair_keeps {r₀ t₀ : State} {c : CroftId} {s : State} (h₀ : Keeps r₀ s)
    (e₀ : execLoomPair c s = .next t₀) : Keeps r₀ t₀ := by
  unfold execLoomPair at e₀
  obtain rfl := Host.Outcome.next.inj e₀
  split
  · apply runTask_keeps
    · assumption
    · intro _
      apply pairStart_keeps
  · assumption

theorem slotStep_keeps {l : Nat} {t : Task} {g : LmRun} {x : TCtx} : TKeeps (slotStep l t g x : TM Unit) := by
  unfold slotStep
  refine TKeeps.bind ?_ (fun _ => ?_)
  · exact TKeeps.get
  · refine TKeeps.bind ?_ (fun _ => ?_)
    · exact lmTakeTiles_keeps
    · refine TKeeps.bind ?_ (fun _ => ?_)
      · exact TKeeps.get
      · split
        · exact lmSettle_keeps
        · refine TKeeps.ite (fun _ => ?_) (fun _ => ?_)
          · refine tUpd_keeps (fun _ _ _ => ?_)
            exact setLoom_keeps (by assumption)
          · dsimp only
            refine TKeeps.bind ?_ (fun _ => ?_)
            · refine tUpd_keeps (fun _ _ _ => ?_)
              exact addF_keeps (by assumption)
            · refine TKeeps.bind ?_ (fun _ => ?_)
              · exact runSlot_keeps
              · refine TKeeps.bind ?_ (fun _ => ?_)
                · refine tUpd_keeps (fun _ _ _ => ?_)
                  exact addF_keeps (addUnits_keeps (by assumption))
                · exact lmSettle_keeps

theorem execLoomSlot_keeps {r₀ t₀ : State} {c : CroftId} {l : Fin 2} {s : State} (h₀ : Keeps r₀ s)
    (e₀ : execLoomSlot c l s = .next t₀) : Keeps r₀ t₀ := by
  unfold execLoomSlot at e₀
  obtain rfl := Host.Outcome.next.inj e₀
  split
  · assumption
  · apply stepTaskRun_keeps
    · assumption
    · intro _
      apply slotStep_keeps

theorem runLent_keeps {t : Task} {g : LmRun} {x : TCtx} : TKeeps (runLent t g x : TM Unit) := by
  unfold runLent
  dsimp only
  split
  · refine TKeeps.bind ?_ (fun _ => ?_)
    · exact readGauze_keeps
    · split
      · exact gzMalformed_keeps
      · refine TKeeps.bind ?_ (fun _ => ?_)
        · exact readTwill_keeps
        · refine TKeeps.bind ?_ (fun _ => ?_)
          · exact TKeeps.get
          · refine TKeeps.bind ?_ (fun _ => ?_)
            · refine tUpd_keeps (fun _ _ _ => ?_)
              exact countIssue_keeps (by assumption)
            · exact lmSettle_keeps
  · exact TKeeps.pure _

theorem execGzRunLentTile_keeps {r₀ t₀ : State} {c : CroftId} {s : State} (h₀ : Keeps r₀ s)
    (e₀ : execGzRunLentTile c s = .next t₀) : Keeps r₀ t₀ := by
  unfold execGzRunLentTile at e₀
  obtain rfl := Host.Outcome.next.inj e₀
  split
  · assumption
  · refine Keeps.ite (fun _ => ?_) (fun _ => ?_)
    · apply stepTaskRun_keeps
      · assumption
      · intro _
        apply runLent_keeps
    · assumption

/-! ### Lookout -/

theorem writeSel_keeps  {x : TCtx} {sel : Bolt} {u : Nat} {g : Nat} {live : Nat} {chosen : List Nat}
    : TKeeps (writeSel x sel u g live chosen : TM Unit) := by
  unfold writeSel
  dsimp only
  refine TKeeps.bind ?_ (fun _ => ?_)
  · apply tReadRows_keeps
  · apply tWriteRows_keeps

theorem writeFetch_keeps  {x : TCtx} {fetch : Bolt} {units : Nat} {u : Nat} {g : Nat} {chosen : List Nat}
    : TKeeps (writeFetch x fetch units u g chosen : TM Unit) := by
  unfold writeFetch
  apply tWriteAt_keeps

theorem readSel_keeps  {x : TCtx} {d : Desc} : TKeeps (readSel x d : TM (Bolt × Bolt)) := by
  unfold readSel
  refine TKeeps.bind ?_ (fun _ => ?_)
  · apply tCheck_keeps
  · refine TKeeps.bind ?_ (fun _ => ?_)
    · apply readBolt_keeps
    · refine TKeeps.bind ?_ (fun _ => ?_)
      · apply readBolt_keeps
      · refine TKeeps.bind ?_ (fun _ => ?_)
        · apply tCheck_keeps
        · refine TKeeps.bind ?_ (fun _ => ?_)
          · apply tCheck_keeps
          · exact TKeeps.pure _

theorem lkBypass_keeps  {x : TCtx} {sel : Bolt} {fetch : Bolt} : TKeeps (lkBypass x sel fetch : TM Unit) := by
  unfold lkBypass
  refine TKeeps.bind ?_ (fun _ => ?_)
  · refine TKeeps.forM (fun _ => ?_)
    dsimp only
    refine TKeeps.bind ?_ (fun _ => ?_)
    · apply writeSel_keeps
    · apply writeFetch_keeps
  · refine tUpd_keeps (fun _ _ _ => ?_)
    exact addF_keeps (by assumption)

theorem lkSlots_keeps {r₀ : State} {c : Nat} {rows : Nat} {cols : Nat} {reds : Nat} {s : State} (h₀ : Keeps r₀ s) :
    Keeps r₀ (lkSlots c rows cols reds s) := by
  unfold lkSlots
  dsimp only
  exact addF_keeps (addF_keeps (addUnits_keeps (by assumption)))

theorem readDense_keeps  {x : TCtx} {operand : Nat} {b : Bolt} {t : Nat}
    : TKeeps (readDense x operand b t : TM (Array (Array Val))) := by
  unfold readDense
  apply readTwill_keeps

theorem lkScores_keeps {x : TCtx} {xb : Bolt} {v : Bolt} {u : Bolt} {ut : Nat} {n : Nat} : TKeeps (lkScores x xb v u
    ut n : TM (Nat × Nat × SMap Cell)) := by
  unfold lkScores
  dsimp only
  refine TKeeps.bind ?_ (fun _ => ?_)
  · refine TKeeps.mapM (fun _ => ?_)
    refine TKeeps.bind ?_ (fun _ => ?_)
    · exact readDense_keeps
    · refine TKeeps.bind ?_ (fun _ => ?_)
      · exact readDense_keeps
      · refine TKeeps.bind ?_ (fun _ => ?_)
        · refine tUpd_keeps (fun _ _ _ => ?_)
          exact lkSlots_keeps (by assumption)
        · exact TKeeps.pure _
  · refine TKeeps.bind ?_ (fun _ => ?_)
    · exact readDense_keeps
    · refine TKeeps.bind ?_ (fun _ => ?_)
      · refine tUpd_keeps (fun _ _ _ => ?_)
        exact lkSlots_keeps (by assumption)
      · exact TKeeps.pure _

theorem lkBegin_keeps {d : Desc} {x : TCtx} : TKeeps (lkBegin d x : TM Unit) := by
  unfold lkBegin
  refine TKeeps.bind ?_ (fun _ => ?_)
  · exact tCheck_keeps
  · refine TKeeps.bind ?_ (fun _ => ?_)
    · exact readBolt_keeps
    · refine TKeeps.bind ?_ (fun _ => ?_)
      · exact tCheck_keeps
      · refine TKeeps.bind ?_ (fun _ => ?_)
        · exact readBolt_keeps
        · refine TKeeps.bind ?_ (fun _ => ?_)
          · exact readBolt_keeps
          · refine TKeeps.bind ?_ (fun _ => ?_)
            · exact readSel_keeps
            · split
              refine TKeeps.bind ?_ (fun _ => ?_)
              · exact tCheck_keeps
              · refine TKeeps.bind ?_ (fun _ => ?_)
                · exact tCheck_keeps
                · refine TKeeps.bind ?_ (fun _ => ?_)
                  · exact tCheck_keeps
                  · refine TKeeps.bind ?_ (fun _ => ?_)
                    · exact tCheck_keeps
                    · refine TKeeps.bind ?_ (fun _ => ?_)
                      · exact tCheck_keeps
                      · refine TKeeps.ite (fun _ => ?_) (fun _ => ?_)
                        · refine tUpd_keeps (fun _ _ _ => ?_)
                          exact markWorked_keeps (by assumption)
                        · refine TKeeps.bind ?_ (fun _ => ?_)
                          · exact TKeeps.get
                          · dsimp only
                            refine TKeeps.bind ?_ (fun _ => ?_)
                            · exact tCheck_keeps
                            · refine tUpd_keeps (fun _ _ _ => ?_)
                              exact putWork_keeps (by assumption)

theorem lkPiece_keeps {d : Desc} {w : WorkRun} {x : TCtx} : TKeeps (lkPiece d w x : TM Unit) := by
  unfold lkPiece
  split
  · refine TKeeps.ite (fun _ => ?_) (fun _ => ?_)
    · dsimp only
      refine TKeeps.bind ?_ (fun _ => ?_)
      · exact lkScores_keeps
      · refine tUpd_keeps (fun _ _ _ => ?_)
        exact pieceDone_keeps (by assumption)
    · refine TKeeps.bind ?_ (fun _ => ?_)
      · exact TKeeps.get
      · refine TKeeps.ite (fun _ => ?_) (fun _ => ?_)
        · dsimp only
          refine TKeeps.ite (fun _ => ?_) (fun _ => ?_)
          · refine TKeeps.bind ?_ (fun _ => ?_)
            · exact lkBypass_keeps
            · refine tUpd_keeps (fun _ _ _ => ?_)
              exact pieceDone_keeps (by assumption)
          · refine TKeeps.bind ?_ (fun _ => ?_)
            · refine TKeeps.forM (fun _ => ?_)
              refine TKeeps.bind ?_ (fun _ => ?_)
              · exact writeSel_keeps
              · exact writeFetch_keeps
            · refine tUpd_keeps (fun _ _ _ => ?_)
              exact pieceDone_keeps (by assumption)
        · exact TKeeps.pure _
  · refine tUpd_keeps (fun _ _ _ => ?_)
    exact pieceDone_keeps (by assumption)

theorem readSelBits_keeps  {x : TCtx} {sel : Bolt} {u : Nat} {g : Nat} {live : Nat}
    : TKeeps (readSelBits x sel u g live : TM (List Bool)) := by
  unfold readSelBits
  dsimp only
  refine TKeeps.bind ?_ (fun _ => ?_)
  · apply tReadRows_keeps
  · exact TKeeps.pure _

theorem addRecall_keeps {r₀ : State} {c : Nat} {off : Nat} {n : Nat} {s : State} (h₀ : Keeps r₀ s)
    : Keeps r₀ (addRecall c off n s) := by
  unfold addRecall
  exact larderWrite_keeps (by assumption)

theorem lkCountBegin_keeps {d : Desc} {x : TCtx} : TKeeps (lkCountBegin d x : TM Unit) := by
  unfold lkCountBegin
  refine TKeeps.bind ?_ (fun _ => ?_)
  · exact tCheck_keeps
  · refine TKeeps.bind ?_ (fun _ => ?_)
    · exact readBolt_keeps
    · refine TKeeps.bind ?_ (fun _ => ?_)
      · exact readSel_keeps
      · split
        refine TKeeps.bind ?_ (fun _ => ?_)
        · exact tCheck_keeps
        · refine TKeeps.bind ?_ (fun _ => ?_)
          · exact tCheck_keeps
          · refine TKeeps.bind ?_ (fun _ => ?_)
            · exact tCheck_keeps
            · refine TKeeps.bind ?_ (fun _ => ?_)
              · exact tCheck_keeps
              · refine TKeeps.bind ?_ (fun _ => ?_)
                · exact tCheck_keeps
                · refine TKeeps.ite (fun _ => ?_) (fun _ => ?_)
                  · refine tUpd_keeps (fun _ _ _ => ?_)
                    exact markWorked_keeps (by assumption)
                  · refine TKeeps.bind ?_ (fun _ => ?_)
                    · exact TKeeps.get
                    · dsimp only
                      refine TKeeps.bind ?_ (fun _ => ?_)
                      · exact tCheck_keeps
                      · refine tUpd_keeps (fun _ _ _ => ?_)
                        exact putWork_keeps (by assumption)

theorem lkTally_keeps {d : Desc} {x : TCtx} {xb : Bolt} {sel : Bolt} {n : Nat} : TKeeps (lkTally d x xb sel n : TM
    (Nat × Nat × Nat)) := by
  unfold lkTally
  dsimp only
  refine TKeeps.bind ?_ (fun _ => ?_)
  · refine TKeeps.foldlM (fun _ _ => ?_)
    refine TKeeps.bind ?_ (fun _ => ?_)
    · exact readDense_keeps
    · refine TKeeps.foldlM (fun _ _ => ?_)
      refine TKeeps.bind ?_ (fun _ => ?_)
      · exact readSelBits_keeps
      · exact TKeeps.pure _
  · exact TKeeps.pure _

theorem lkRecord_keeps {r₀ : State} {d : Desc} {c : Nat} {cols : Nat} {true_ : Nat} {hits : Nat} {s : State} (h₀ : Keeps
    r₀ s) : Keeps r₀ (lkRecord d c cols true_ hits s) := by
  unfold lkRecord
  dsimp only
  refine Keeps.ite (fun _ => ?_) (fun _ => ?_)
  · apply raise_keeps
    apply addF_keeps
    exact addF_keeps (addF_keeps (addRecall_keeps (addRecall_keeps (addRecall_keeps (by assumption)))))
  · apply addF_keeps
    exact addF_keeps (addF_keeps (addRecall_keeps (addRecall_keeps (addRecall_keeps (by assumption)))))

theorem lkCountPiece_keeps {d : Desc} {w : WorkRun} {x : TCtx} : TKeeps (lkCountPiece d w x : TM Unit) := by
  unfold lkCountPiece
  split
  · refine TKeeps.ite (fun _ => ?_) (fun _ => ?_)
    · refine TKeeps.bind ?_ (fun _ => ?_)
      · exact lkTally_keeps
      · split
        refine tUpd_keeps (fun _ _ _ => ?_)
        exact pieceDone_keeps (by assumption)
    · refine TKeeps.bind ?_ (fun _ => ?_)
      · exact TKeeps.get
      · refine TKeeps.ite (fun _ => ?_) (fun _ => ?_)
        · dsimp only
          refine TKeeps.ite (fun _ => ?_) (fun _ => ?_)
          · refine TKeeps.bind ?_ (fun _ => ?_)
            · exact lkBypass_keeps
            · refine tUpd_keeps (fun _ _ _ => ?_)
              exact pieceDone_keeps (by assumption)
          · refine TKeeps.bind ?_ (fun _ => ?_)
            · refine tUpd_keeps (fun _ _ _ => ?_)
              exact lkRecord_keeps (by assumption)
            · refine tUpd_keeps (fun _ _ _ => ?_)
              exact pieceDone_keeps (by assumption)
        · exact TKeeps.pure _
  · refine tUpd_keeps (fun _ _ _ => ?_)
    exact pieceDone_keeps (by assumption)

theorem execLookout_keeps {r₀ t₀ : State} {c : CroftId} {s : State} (h₀ : Keeps r₀ s) (e₀ : execLookout c s =
    .next t₀) : Keeps r₀ t₀ := by
  unfold execLookout at e₀
  obtain rfl := Host.Outcome.next.inj e₀
  refine Keeps.ite (fun _ => ?_) (fun _ => ?_)
  · assumption
  · apply unitRow_keeps
    · assumption
    · intro _ _
      exact lkBegin_keeps
    · intro _ _ _
      exact lkPiece_keeps

theorem execLookoutCount_keeps {r₀ t₀ : State} {c : CroftId} {s : State} (h₀ : Keeps r₀ s) (e₀ :
    execLookoutCount c s = .next t₀) : Keeps r₀ t₀ := by
  unfold execLookoutCount at e₀
  obtain rfl := Host.Outcome.next.inj e₀
  apply unitRow_keeps
  · assumption
  · intro _ _
    exact lkCountBegin_keeps
  · intro _ _ _
    exact lkCountPiece_keeps

/-! ### Function -/

theorem fnCopyTable_keeps  {x : TCtx} {d : Desc} : TKeeps (fnCopyTable x d : TM FnTable) := by
  unfold fnCopyTable
  refine TKeeps.bind ?_ (fun _ => ?_)
  · exact TKeeps.get
  · dsimp only
    split
    · exact TKeeps.pure _
    · apply tFaultSet_keeps

theorem fnStart_keeps {x : TCtx} {d : Desc} {fwd : Bool} : TKeeps (fnStart x d fwd : TM (Option FnRun)) := by
  unfold fnStart
  refine TKeeps.bind ?_ (fun _ => ?_)
  · exact readBolt?_keeps
  · refine TKeeps.bind ?_ (fun _ => ?_)
    · exact readBolt?_keeps
    · refine TKeeps.bind ?_ (fun _ => ?_)
      · exact readBolt?_keeps
      · split
        · exact tFault_keeps
        · exact tFault_keeps
        · refine TKeeps.bind ?_ (fun _ => ?_)
          · exact tCheck_keeps
          · refine TKeeps.bind ?_ (fun _ => ?_)
            · exact tCheck_keeps
            · refine TKeeps.bind ?_ (fun _ => ?_)
              · exact tCheck_keeps
              · dsimp only
                refine TKeeps.bind ?_ (fun _ => ?_)
                · exact tCheck_keeps
                · refine TKeeps.bind ?_ (fun _ => ?_)
                  · exact tCheck_keeps
                  · split
                    · refine TKeeps.bind ?_ (fun _ => ?_)
                      · exact tCheck_keeps
                      · refine TKeeps.bind ?_ (fun _ => ?_)
                        · exact tCheck_keeps
                        · refine TKeeps.ite (fun _ => ?_) (fun _ => ?_)
                          · refine TKeeps.bind ?_ (fun _ => ?_)
                            · exact fnCopyTable_keeps
                            · exact TKeeps.pure _
                          · refine TKeeps.bind ?_ (fun _ => ?_)
                            · exact tCheck_keeps
                            · refine TKeeps.bind ?_ (fun _ => ?_)
                              · exact tCheck_keeps
                              · refine TKeeps.bind ?_ (fun _ => ?_)
                                · exact TKeeps.get
                                · refine TKeeps.bind ?_ (fun _ => ?_)
                                  · exact tCheck_keeps
                                  · split
                                    · refine TKeeps.bind ?_ (fun _ => ?_)
                                      · exact tCheck_keeps
                                      · refine TKeeps.bind ?_ (fun _ => ?_)
                                        · exact fnCopyTable_keeps
                                        · refine TKeeps.bind ?_ (fun _ => ?_)
                                          · exact TKeeps.get
                                          · split
                                            · refine TKeeps.bind ?_ (fun _ => ?_)
                                              · exact tFault_keeps
                                              · refine TKeeps.bind ?_ (fun _ => ?_)
                                                · exact tStatsReach_keeps
                                                · split
                                                  · refine TKeeps.ite (fun _ => ?_) (fun _ => ?_)
                                                    · refine TKeeps.bind ?_ (fun _ => ?_)
                                                      · exact tStatsReach_keeps
                                                      · exact TKeeps.pure _
                                                    · exact TKeeps.pure _
                                                  · exact TKeeps.pure _
                                            · refine TKeeps.bind ?_ (fun _ => ?_)
                                              · exact tStatsReach_keeps
                                              · split
                                                · refine TKeeps.ite (fun _ => ?_) (fun _ => ?_)
                                                  · refine TKeeps.bind ?_ (fun _ => ?_)
                                                    · exact tStatsReach_keeps
                                                    · exact TKeeps.pure _
                                                  · exact TKeeps.pure _
                                                · exact TKeeps.pure _
                                    · refine TKeeps.bind ?_ (fun _ => ?_)
                                      · exact fnCopyTable_keeps
                                      · refine TKeeps.bind ?_ (fun _ => ?_)
                                        · exact TKeeps.get
                                        · split
                                          · refine TKeeps.bind ?_ (fun _ => ?_)
                                            · exact tFault_keeps
                                            · refine TKeeps.bind ?_ (fun _ => ?_)
                                              · exact tStatsReach_keeps
                                              · split
                                                · refine TKeeps.ite (fun _ => ?_) (fun _ => ?_)
                                                  · refine TKeeps.bind ?_ (fun _ => ?_)
                                                    · exact tStatsReach_keeps
                                                    · exact TKeeps.pure _
                                                  · exact TKeeps.pure _
                                                · exact TKeeps.pure _
                                          · refine TKeeps.bind ?_ (fun _ => ?_)
                                            · exact tStatsReach_keeps
                                            · split
                                              · refine TKeeps.ite (fun _ => ?_) (fun _ => ?_)
                                                · refine TKeeps.bind ?_ (fun _ => ?_)
                                                  · exact tStatsReach_keeps
                                                  · exact TKeeps.pure _
                                                · exact TKeeps.pure _
                                              · exact TKeeps.pure _
                    · refine TKeeps.bind ?_ (fun _ => ?_)
                      · exact tCheck_keeps
                      · refine TKeeps.ite (fun _ => ?_) (fun _ => ?_)
                        · refine TKeeps.bind ?_ (fun _ => ?_)
                          · exact fnCopyTable_keeps
                          · exact TKeeps.pure _
                        · refine TKeeps.bind ?_ (fun _ => ?_)
                          · exact tCheck_keeps
                          · refine TKeeps.bind ?_ (fun _ => ?_)
                            · exact tCheck_keeps
                            · refine TKeeps.bind ?_ (fun _ => ?_)
                              · exact TKeeps.get
                              · refine TKeeps.bind ?_ (fun _ => ?_)
                                · exact tCheck_keeps
                                · split
                                  · refine TKeeps.bind ?_ (fun _ => ?_)
                                    · exact tCheck_keeps
                                    · refine TKeeps.bind ?_ (fun _ => ?_)
                                      · exact fnCopyTable_keeps
                                      · refine TKeeps.bind ?_ (fun _ => ?_)
                                        · exact TKeeps.get
                                        · split
                                          · refine TKeeps.bind ?_ (fun _ => ?_)
                                            · exact tFault_keeps
                                            · refine TKeeps.bind ?_ (fun _ => ?_)
                                              · exact tStatsReach_keeps
                                              · split
                                                · refine TKeeps.ite (fun _ => ?_) (fun _ => ?_)
                                                  · refine TKeeps.bind ?_ (fun _ => ?_)
                                                    · exact tStatsReach_keeps
                                                    · exact TKeeps.pure _
                                                  · exact TKeeps.pure _
                                                · exact TKeeps.pure _
                                          · refine TKeeps.bind ?_ (fun _ => ?_)
                                            · exact tStatsReach_keeps
                                            · split
                                              · refine TKeeps.ite (fun _ => ?_) (fun _ => ?_)
                                                · refine TKeeps.bind ?_ (fun _ => ?_)
                                                  · exact tStatsReach_keeps
                                                  · exact TKeeps.pure _
                                                · exact TKeeps.pure _
                                              · exact TKeeps.pure _
                                  · refine TKeeps.bind ?_ (fun _ => ?_)
                                    · exact fnCopyTable_keeps
                                    · refine TKeeps.bind ?_ (fun _ => ?_)
                                      · exact TKeeps.get
                                      · split
                                        · refine TKeeps.bind ?_ (fun _ => ?_)
                                          · exact tFault_keeps
                                          · refine TKeeps.bind ?_ (fun _ => ?_)
                                            · exact tStatsReach_keeps
                                            · split
                                              · refine TKeeps.ite (fun _ => ?_) (fun _ => ?_)
                                                · refine TKeeps.bind ?_ (fun _ => ?_)
                                                  · exact tStatsReach_keeps
                                                  · exact TKeeps.pure _
                                                · exact TKeeps.pure _
                                              · exact TKeeps.pure _
                                        · refine TKeeps.bind ?_ (fun _ => ?_)
                                          · exact tStatsReach_keeps
                                          · split
                                            · refine TKeeps.ite (fun _ => ?_) (fun _ => ?_)
                                              · refine TKeeps.bind ?_ (fun _ => ?_)
                                                · exact tStatsReach_keeps
                                                · exact TKeeps.pure _
                                              · exact TKeeps.pure _
                                            · exact TKeeps.pure _

theorem writeMask_keeps  {x : TCtx} {operand : Nat} {b : Bolt} {t : Nat} {rows : List (List Bool)}
    : TKeeps (writeMask x operand b t rows : TM Unit) := by
  unfold writeMask
  dsimp only
  refine TKeeps.bind ?_ (fun _ => ?_)
  · refine TKeeps.mapM (fun _ => ?_)
    apply tPeek_keeps
  · apply tWriteRows_keeps

theorem readBits_keeps  {x : TCtx} {operand : Nat} {b : Bolt} {t : Nat}
    : TKeeps (readBits x operand b t : TM (Array (Array Byte))) := by
  unfold readBits
  refine TKeeps.bind ?_ (fun _ => ?_)
  · apply tReadRows_keeps
  · exact TKeeps.pure _

theorem writeNarrow_keeps  {x : TCtx} {d : Desc} {g : FnRun} {b : Bolt} {t : Nat} {rows : List (List FnElem)}
    : TKeeps (writeNarrow x d g b t rows : TM Unit) := by
  unfold writeNarrow
  refine TKeeps.bind ?_ (fun _ => ?_)
  · exact TKeeps.get
  · dsimp only
    refine TKeeps.bind ?_ (fun _ => ?_)
    · apply tWriteRows_keeps
    · refine TKeeps.bind ?_ (fun _ => ?_)
      · apply tCount_keeps
      · refine TKeeps.ite (fun _ => ?_) (fun _ => ?_)
        · refine tUpd_keeps (fun _ _ _ => ?_)
          exact countEvals_keeps (by assumption)
        · exact TKeeps.pure _

theorem fnFwdTile_keeps  {x : TCtx} {d : Desc} {g : FnRun} {t : Nat} : TKeeps (fnFwdTile x d g t : TM Unit) := by
  unfold fnFwdTile
  dsimp only
  refine TKeeps.bind ?_ (fun _ => ?_)
  · apply readTwill_keeps
  · refine TKeeps.bind ?_ (fun _ => ?_)
    · exact TKeeps.get
    · refine TKeeps.bind ?_ (fun _ => ?_)
      · apply writeRows_keeps
      · refine TKeeps.bind ?_ (fun _ => ?_)
        · apply tCount_keeps
        · split
          · refine TKeeps.ite (fun _ => ?_) (fun _ => ?_)
            · refine TKeeps.bind ?_ (fun _ => ?_)
              · refine tUpd_keeps (fun _ _ _ => ?_)
                exact countEvals_keeps (by assumption)
              · refine tUpd_keeps (fun _ _ _ => ?_)
                exact addUnits_keeps (addF_keeps (addF_keeps (by assumption)))
            · refine tUpd_keeps (fun _ _ _ => ?_)
              exact addUnits_keeps (addF_keeps (addF_keeps (by assumption)))
          · refine TKeeps.ite (fun _ => ?_) (fun _ => ?_)
            · refine TKeeps.bind ?_ (fun _ => ?_)
              · apply writeMask_keeps
              · refine TKeeps.ite (fun _ => ?_) (fun _ => ?_)
                · refine TKeeps.bind ?_ (fun _ => ?_)
                  · refine tUpd_keeps (fun _ _ _ => ?_)
                    exact countEvals_keeps (by assumption)
                  · refine tUpd_keeps (fun _ _ _ => ?_)
                    exact addUnits_keeps (addF_keeps (addF_keeps (by assumption)))
                · refine tUpd_keeps (fun _ _ _ => ?_)
                  exact addUnits_keeps (addF_keeps (addF_keeps (by assumption)))
            · refine TKeeps.bind ?_ (fun _ => ?_)
              · apply writeNarrow_keeps
              · refine TKeeps.ite (fun _ => ?_) (fun _ => ?_)
                · refine TKeeps.bind ?_ (fun _ => ?_)
                  · refine tUpd_keeps (fun _ _ _ => ?_)
                    exact countEvals_keeps (by assumption)
                  · refine tUpd_keeps (fun _ _ _ => ?_)
                    exact addUnits_keeps (addF_keeps (addF_keeps (by assumption)))
                · refine tUpd_keeps (fun _ _ _ => ?_)
                  exact addUnits_keeps (addF_keeps (addF_keeps (by assumption)))

theorem fnSaves_keeps  {x : TCtx} {d : Desc} {g : FnRun} {t : Nat}
    : TKeeps (fnSaves x d g t : TM (Nat → Nat → Option (Val × Bool))) := by
  unfold fnSaves
  split
  · exact TKeeps.pure _
  · refine TKeeps.ite (fun _ => ?_) (fun _ => ?_)
    · refine TKeeps.bind ?_ (fun _ => ?_)
      · apply readBits_keeps
      · exact TKeeps.pure _
    · refine TKeeps.ite (fun _ => ?_) (fun _ => ?_)
      · refine TKeeps.bind ?_ (fun _ => ?_)
        · apply tReadRows_keeps
        · dsimp only
          exact TKeeps.pure _
      · refine TKeeps.bind ?_ (fun _ => ?_)
        · apply readTwill_keeps
        · exact TKeeps.pure _

theorem fnDerivTile_keeps  {x : TCtx} {d : Desc} {g : FnRun} {t : Nat} : TKeeps (fnDerivTile x d g t : TM Unit) := by
  unfold fnDerivTile
  dsimp only
  refine TKeeps.bind ?_ (fun _ => ?_)
  · apply readTwill_keeps
  · refine TKeeps.bind ?_ (fun _ => ?_)
    · apply fnSaves_keeps
    · refine TKeeps.bind ?_ (fun _ => ?_)
      · exact TKeeps.get
      · refine TKeeps.bind ?_ (fun _ => ?_)
        · apply writeRows_keeps
        · refine TKeeps.bind ?_ (fun _ => ?_)
          · apply tCount_keeps
          · refine tUpd_keeps (fun _ _ _ => ?_)
            exact addUnits_keeps (addF_keeps (by assumption))

theorem fnBegin_keeps {fwd : Bool} {d : Desc} {x : TCtx} : TKeeps (fnBegin fwd d x : TM Unit) := by
  unfold fnBegin
  refine TKeeps.bind ?_ (fun _ => ?_)
  · exact fnStart_keeps
  · split
    · refine tUpd_keeps (fun _ _ _ => ?_)
      exact putWork_keeps (by assumption)
    · refine tUpd_keeps (fun _ _ _ => ?_)
      exact markWorked_keeps (by assumption)

theorem fnPiece_keeps {fwd : Bool} {d : Desc} {w : WorkRun} {x : TCtx} : TKeeps (fnPiece fwd d w x : TM Unit) := by
  unfold fnPiece
  dsimp only
  split
  · refine TKeeps.ite (fun _ => ?_) (fun _ => ?_)
    · refine TKeeps.bind ?_ (fun _ => ?_)
      · exact fnFwdTile_keeps
      · refine tUpd_keeps (fun _ _ _ => ?_)
        exact pieceDone_keeps (by assumption)
    · refine TKeeps.bind ?_ (fun _ => ?_)
      · exact fnDerivTile_keeps
      · refine tUpd_keeps (fun _ _ _ => ?_)
        exact pieceDone_keeps (by assumption)
  · refine tUpd_keeps (fun _ _ _ => ?_)
    exact pieceDone_keeps (by assumption)

theorem execFnFwd_keeps {r₀ t₀ : State} {c : CroftId} {s : State} (h₀ : Keeps r₀ s) (e₀ : execFnFwd c s = .next
    t₀) : Keeps r₀ t₀ := by
  unfold execFnFwd at e₀
  obtain rfl := Host.Outcome.next.inj e₀
  apply unitRow_keeps
  · assumption
  · intro _ _
    exact fnBegin_keeps
  · intro _ _ _
    exact fnPiece_keeps

theorem execFnDeriv_keeps {r₀ t₀ : State} {c : CroftId} {s : State} (h₀ : Keeps r₀ s) (e₀ : execFnDeriv c s =
    .next t₀) : Keeps r₀ t₀ := by
  unfold execFnDeriv at e₀
  obtain rfl := Host.Outcome.next.inj e₀
  apply unitRow_keeps
  · assumption
  · intro _ _
    exact fnBegin_keeps
  · intro _ _ _
    exact fnPiece_keeps

/-! ### Update -/

theorem readPacked_keeps {x : TCtx} {operand : Nat} {b : Bolt} {t : Nat} {at_ : Nat} {ps : List Nat} : TKeeps
    (readPacked x operand b t at_ ps : TM Arr) := by
  unfold readPacked
  dsimp only
  refine TKeeps.bind ?_ (fun _ => ?_)
  · exact tReadAt_keeps
  · refine TKeeps.ite (fun _ => ?_) (fun _ => ?_)
    · refine TKeeps.bind ?_ (fun _ => ?_)
      · exact tReadAt_keeps
      · exact TKeeps.pure _
    · refine TKeeps.bind ?_ (fun _ => ?_)
      · exact TKeeps.pure _
      · exact TKeeps.pure _

theorem readLive_keeps {x : TCtx} {operand : Nat} {b : Bolt} {t : Nat} {at_ : Nat} {ps : List Nat} : TKeeps (readLive x
    operand b t at_ ps : TM Arr) := by
  unfold readLive
  dsimp only
  refine TKeeps.bind ?_ (fun _ => ?_)
  · exact tReadRows_keeps
  · refine TKeeps.ite (fun _ => ?_) (fun _ => ?_)
    · refine TKeeps.bind ?_ (fun _ => ?_)
      · exact tReadRows_keeps
      · exact TKeeps.pure _
    · refine TKeeps.bind ?_ (fun _ => ?_)
      · exact TKeeps.pure _
      · exact TKeeps.pure _

theorem readArr_keeps {x : TCtx} {operand : Nat} {b : Bolt} {t : Nat} {at_ : Nat} {twill : Bool} {ps : List Nat} :
    TKeeps (readArr x operand b t at_ twill ps : TM Arr) := by
  unfold readArr
  refine TKeeps.ite (fun _ => ?_) (fun _ => ?_)
  · exact readLive_keeps
  · exact readPacked_keeps

theorem putRun_keeps {x : TCtx} {operand : Nat} {a : Arr} {e : Nat × Nat} : TKeeps (putRun x operand a e : TM Unit) := by
  unfold putRun
  dsimp only
  refine TKeeps.ite (fun _ => ?_) (fun _ => ?_)
  · refine TKeeps.bind ?_ (fun _ => ?_)
    · exact tPeek_keeps
    · exact tPoke_keeps
  · exact tPoke_keeps

theorem writeVals_keeps {x : TCtx} {operand : Nat} {a : Arr} : TKeeps (writeVals x operand a : TM Unit) := by
  unfold writeVals
  refine TKeeps.ite (fun _ => ?_) (fun _ => ?_)
  · dsimp only
    refine TKeeps.bind ?_ (fun _ => ?_)
    · exact TKeeps.get
    · refine TKeeps.ite (fun _ => ?_) (fun _ => ?_)
      · refine TKeeps.bind ?_ (fun _ => ?_)
        · refine tUpd_keeps (fun _ _ _ => ?_)
          exact logRows_keeps (by assumption)
        · refine TKeeps.forM (fun _ => ?_)
          exact putRun_keeps
      · refine TKeeps.forM (fun _ => ?_)
        exact putRun_keeps
  · exact tWriteAt_keeps

theorem writeScales_keeps {x : TCtx} {operand : Nat} {a : Arr} : TKeeps (writeScales x operand a : TM Unit) := by
  unfold writeScales
  refine TKeeps.ite (fun _ => ?_) (fun _ => ?_)
  · exact TKeeps.pure _
  · refine TKeeps.ite (fun _ => ?_) (fun _ => ?_)
    · dsimp only
      refine TKeeps.bind ?_ (fun _ => ?_)
      · exact TKeeps.get
      · refine TKeeps.ite (fun _ => ?_) (fun _ => ?_)
        · refine TKeeps.bind ?_ (fun _ => ?_)
          · refine tUpd_keeps (fun _ _ _ => ?_)
            exact logRows_keeps (by assumption)
          · refine TKeeps.forM (fun _ => ?_)
            exact tPoke_keeps
        · refine TKeeps.forM (fun _ => ?_)
          exact tPoke_keeps
    · exact tWriteAt_keeps

theorem writeArr_keeps {x : TCtx} {operand : Nat} {a : Arr} : TKeeps (writeArr x operand a : TM Unit) := by
  unfold writeArr
  refine TKeeps.bind ?_ (fun _ => ?_)
  · exact writeVals_keeps
  · exact writeScales_keeps

theorem upFault_keeps  {α : Type} {check : Nat} {gz : Nat} {tile : Nat} {code : Nat} {operand : Nat}
    : TKeeps (upFault check gz tile code operand : TM α) := by
  unfold upFault
  apply tFaultSet_keeps

theorem upCheck_keeps  {c : Bool} {check : Nat} {operand : Nat} : TKeeps (upCheck c check operand : TM Unit) := by
  unfold upCheck
  refine TKeeps.ite (fun _ => ?_) (fun _ => ?_)
  · exact TKeeps.pure _
  · apply upFault_keeps

theorem stagedOk_keeps  {x : TCtx} {operand : Nat} {w : Bolt} {r : Bolt} {q : Bolt} {ts : List Nat}
    : TKeeps (stagedOk x operand w r q ts : TM Bool) := by
  unfold stagedOk
  refine TKeeps.ite (fun _ => ?_) (fun _ => ?_)
  · refine TKeeps.ite (fun _ => ?_) (fun _ => ?_)
    · refine TKeeps.foldlM (fun _ _ => ?_)
      refine TKeeps.bind ?_ (fun _ => ?_)
      · apply readDir_keeps
      · refine TKeeps.bind ?_ (fun _ => ?_)
        · apply readDir_keeps
        · exact TKeeps.pure _
    · exact TKeeps.pure _
  · exact TKeeps.pure _

theorem upStart_keeps {x : TCtx} {d : Desc} : TKeeps (upStart x d : TM (Option WorkRun)) := by
  unfold upStart
  dsimp only
  refine TKeeps.bind ?_ (fun _ => ?_)
  · exact readBolt?_keeps
  · refine TKeeps.bind ?_ (fun _ => ?_)
    · exact readBolt?_keeps
    · refine TKeeps.bind ?_ (fun _ => ?_)
      · exact readBolt?_keeps
      · refine TKeeps.bind ?_ (fun _ => ?_)
        · exact readBolt?_keeps
        · refine TKeeps.bind ?_ (fun _ => ?_)
          · exact readHandle_keeps
          · split
            · exact upFault_keeps
            · refine TKeeps.bind ?_ (fun _ => ?_)
              · exact upCheck_keeps
              · split
                · exact upFault_keeps
                · exact upFault_keeps
                · refine TKeeps.bind ?_ (fun _ => ?_)
                  · exact upCheck_keeps
                  · refine TKeeps.bind ?_ (fun _ => ?_)
                    · exact upCheck_keeps
                    · split
                      · exact upFault_keeps
                      · refine TKeeps.bind ?_ (fun _ => ?_)
                        · exact upCheck_keeps
                        · refine TKeeps.bind ?_ (fun _ => ?_)
                          · exact upCheck_keeps
                          · refine TKeeps.bind ?_ (fun _ => ?_)
                            · exact upCheck_keeps
                            · refine TKeeps.bind ?_ (fun _ => ?_)
                              · exact upCheck_keeps
                              · refine TKeeps.bind ?_ (fun _ => ?_)
                                · exact tReadAt_keeps
                                · refine TKeeps.bind ?_ (fun _ => ?_)
                                  · exact TKeeps.get
                                  · refine TKeeps.bind ?_ (fun _ => ?_)
                                    · exact upCheck_keeps
                                    · refine TKeeps.ite (fun _ => ?_) (fun _ => ?_)
                                      · refine TKeeps.bind ?_ (fun _ => ?_)
                                        · exact readBolt_keeps
                                        · refine TKeeps.bind ?_ (fun _ => ?_)
                                          · exact readBolt_keeps
                                          · refine TKeeps.bind ?_ (fun _ => ?_)
                                            · exact stagedOk_keeps
                                            · refine TKeeps.bind ?_ (fun _ => ?_)
                                              · exact upCheck_keeps
                                              · refine TKeeps.bind ?_ (fun _ => ?_)
                                                · exact upCheck_keeps
                                                · refine TKeeps.bind ?_ (fun _ => ?_)
                                                  · exact TKeeps.pure _
                                                  · refine TKeeps.ite (fun _ => ?_) (fun _ => ?_)
                                                    · exact TKeeps.pure _
                                                    · refine TKeeps.bind ?_ (fun _ => ?_)
                                                      · exact tCheck_keeps
                                                      · refine TKeeps.bind ?_ (fun _ => ?_)
                                                        · exact tCheck_keeps
                                                        · refine TKeeps.bind ?_ (fun _ => ?_)
                                                          · exact tCheck_keeps
                                                          · refine TKeeps.bind ?_ (fun _ => ?_)
                                                            · exact tStatsReach_keeps
                                                            · refine TKeeps.bind ?_ (fun _ => ?_)
                                                              · exact tStatsReach_keeps
                                                              · refine TKeeps.bind ?_ (fun _ => ?_)
                                                                · exact tStatsReach_keeps
                                                                · split
                                                                  · refine TKeeps.bind ?_ (fun _ => ?_)
                                                                    · exact tStatsReach_keeps
                                                                    · exact TKeeps.pure _
                                                                  · exact TKeeps.pure _
                                      · refine TKeeps.bind ?_ (fun _ => ?_)
                                        · exact TKeeps.pure _
                                        · refine TKeeps.ite (fun _ => ?_) (fun _ => ?_)
                                          · exact TKeeps.pure _
                                          · refine TKeeps.bind ?_ (fun _ => ?_)
                                            · exact tCheck_keeps
                                            · refine TKeeps.bind ?_ (fun _ => ?_)
                                              · exact tCheck_keeps
                                              · refine TKeeps.bind ?_ (fun _ => ?_)
                                                · exact tCheck_keeps
                                                · refine TKeeps.bind ?_ (fun _ => ?_)
                                                  · exact tStatsReach_keeps
                                                  · refine TKeeps.bind ?_ (fun _ => ?_)
                                                    · exact tStatsReach_keeps
                                                    · refine TKeeps.bind ?_ (fun _ => ?_)
                                                      · exact tStatsReach_keeps
                                                      · split
                                                        · refine TKeeps.bind ?_ (fun _ => ?_)
                                                          · exact tStatsReach_keeps
                                                          · exact TKeeps.pure _
                                                        · exact TKeeps.pure _

theorem readBucket_keeps  {x : TCtx} {g : Bolt} {slot : Nat} {t : Nat} {j : Nat}
    : TKeeps (readBucket x g slot t j : TM (List (Nat × Val))) := by
  unfold readBucket
  dsimp only
  refine TKeeps.bind ?_ (fun _ => ?_)
  · apply tReadAt_keeps
  · refine TKeeps.ite (fun _ => ?_) (fun _ => ?_)
    · apply upFault_keeps
    · refine TKeeps.bind ?_ (fun _ => ?_)
      · apply tReadAt_keeps
      · refine TKeeps.ite (fun _ => ?_) (fun _ => ?_)
        · apply upFault_keeps
        · refine TKeeps.bind ?_ (fun _ => ?_)
          · apply tReadAt_keeps
          · exact TKeeps.pure _

theorem tileEntries_keeps  {x : TCtx} {operand : Nat} {b : Bolt} {t : Nat} {d : DirEntry}
    : TKeeps (tileEntries x operand b t d : TM (Except GzBad (List Nat))) := by
  unfold tileEntries
  refine TKeeps.ite (fun _ => ?_) (fun _ => ?_)
  · refine TKeeps.bind ?_ (fun _ => ?_)
    · apply readMask_keeps
    · exact TKeeps.pure _
  · refine TKeeps.bind ?_ (fun _ => ?_)
    · apply readGauze_keeps
    · split
      · exact TKeeps.pure _
      · exact TKeeps.pure _

theorem upLayout_keeps  {x : TCtx} {w : Bolt} {others : List (Nat × Bolt)} {t : Nat}
    : TKeeps (upLayout x w others t : TM TileLay) := by
  unfold upLayout
  refine TKeeps.ite (fun _ => ?_) (fun _ => ?_)
  · refine TKeeps.bind ?_ (fun _ => ?_)
    · apply readDir_keeps
    · refine TKeeps.bind ?_ (fun _ => ?_)
      · refine TKeeps.mapM (fun _ => ?_)
        apply readDir_keeps
      · refine TKeeps.ite (fun _ => ?_) (fun _ => ?_)
        · apply upFault_keeps
        · refine TKeeps.bind ?_ (fun _ => ?_)
          · apply tileEntries_keeps
          · split
            · apply upFault_keeps
            · exact TKeeps.pure _
  · exact TKeeps.pure _

theorem upCommitRes_keeps  {x : TCtx} {r : Bolt} {q : Bolt} {t : Nat} {y : TileLay} {at_ : Nat}
    : TKeeps (upCommitRes x r q t y at_ : TM Unit) := by
  unfold upCommitRes
  refine TKeeps.bind ?_ (fun _ => ?_)
  · apply readArr_keeps
  · refine TKeeps.bind ?_ (fun _ => ?_)
    · apply readArr_keeps
    · dsimp only
      refine TKeeps.bind ?_ (fun _ => ?_)
      · apply writeArr_keeps
      · apply tCount_keeps

theorem upTile_keeps {x : TCtx} {r : UpRun} {t : Nat} : TKeeps (upTile x r t : TM (List Nat)) := by
  unfold upTile
  refine TKeeps.bind ?_ (fun _ => ?_)
  · refine TKeeps.mapM (fun _ => ?_)
    exact readBucket_keeps
  · dsimp only
    refine TKeeps.bind ?_ (fun _ => ?_)
    · exact upLayout_keeps
    · refine TKeeps.bind ?_ (fun _ => ?_)
      · exact readArr_keeps
      · refine TKeeps.bind ?_ (fun _ => ?_)
        · exact readArr_keeps
        · refine TKeeps.bind ?_ (fun _ => ?_)
          · exact readArr_keeps
          · refine TKeeps.bind ?_ (fun _ => ?_)
            · exact writeArr_keeps
            · refine TKeeps.bind ?_ (fun _ => ?_)
              · exact writeArr_keeps
              · refine TKeeps.bind ?_ (fun _ => ?_)
                · exact writeArr_keeps
                · refine TKeeps.bind ?_ (fun _ => ?_)
                  · exact tCount_keeps
                  · refine TKeeps.bind ?_ (fun _ => ?_)
                    · exact tCount_keeps
                    · refine TKeeps.bind ?_ (fun _ => ?_)
                      · exact tCount_keeps
                      · split
                        · refine TKeeps.bind ?_ (fun _ => ?_)
                          · exact upCommitRes_keeps
                          · refine TKeeps.bind ?_ (fun _ => ?_)
                            · exact tEvals_keeps
                            · refine TKeeps.bind ?_ (fun _ => ?_)
                              · refine tUpd_keeps (fun _ _ _ => ?_)
                                apply addUnits_keeps
                                exact addF_keeps (addF_keeps (addF_keeps (addF_keeps (by assumption))))
                              · exact TKeeps.pure _
                        · refine TKeeps.bind ?_ (fun _ => ?_)
                          · exact tEvals_keeps
                          · refine TKeeps.bind ?_ (fun _ => ?_)
                            · refine tUpd_keeps (fun _ _ _ => ?_)
                              apply addUnits_keeps
                              exact addF_keeps (addF_keeps (addF_keeps (addF_keeps (by assumption))))
                            · exact TKeeps.pure _

theorem upReportReach_keeps  {x : TCtx} {a : Nat} : TKeeps (upReportReach x a : TM Unit) := by
  unfold upReportReach
  refine TKeeps.bind ?_ (fun _ => ?_)
  · exact TKeeps.get
  · dsimp only
    refine TKeeps.ite (fun _ => ?_) (fun _ => ?_)
    · exact TKeeps.pure _
    · apply tTranslation_keeps

theorem upBegin_keeps {d : Desc} {x : TCtx} : TKeeps (upBegin d x : TM Unit) := by
  unfold upBegin
  refine TKeeps.bind ?_ (fun _ => ?_)
  · exact upStart_keeps
  · split
    · refine tUpd_keeps (fun _ _ _ => ?_)
      exact markWorked_keeps (by assumption)
    · refine TKeeps.bind ?_ (fun _ => ?_)
      · exact TKeeps.get
      · dsimp only
        split
        · refine TKeeps.bind ?_ (fun _ => ?_)
          · exact upReportReach_keeps
          · refine tUpd_keeps (fun _ _ _ => ?_)
            exact putWork_keeps (by assumption)
        · refine tUpd_keeps (fun _ _ _ => ?_)
          exact putWork_keeps (by assumption)

theorem upPiece_keeps {d : Desc} {w : WorkRun} {x : TCtx} : TKeeps (upPiece d w x : TM Unit) := by
  unfold upPiece
  refine TKeeps.bind ?_ (fun _ => ?_)
  · exact TKeeps.get
  · split
    · refine TKeeps.bind ?_ (fun _ => ?_)
      · exact upTile_keeps
      · dsimp only
        refine TKeeps.ite (fun _ => ?_) (fun _ => ?_)
        · refine tUpd_keeps (fun _ _ _ => ?_)
          exact pieceDone_keeps (by assumption)
        · refine TKeeps.bind ?_ (fun _ => ?_)
          · refine tUpd_keeps (fun _ _ _ => ?_)
            exact sendFold_keeps (by assumption)
          · refine tUpd_keeps (fun _ _ _ => ?_)
            exact pieceDone_keeps (by assumption)
    · refine tUpd_keeps (fun _ _ _ => ?_)
      exact pieceDone_keeps (by assumption)

theorem execUpdate_keeps {r₀ t₀ : State} {c : CroftId} {s : State} (h₀ : Keeps r₀ s) (e₀ : execUpdate c s =
    .next t₀) : Keeps r₀ t₀ := by
  unfold execUpdate at e₀
  obtain rfl := Host.Outcome.next.inj e₀
  apply unitRow_keeps
  · assumption
  · intro _ _
    exact upBegin_keeps
  · intro _ _ _
    exact upPiece_keeps

/-! ### Masks -/

theorem mvFault_keeps  {α : Type} {check : Nat} {gz : Nat} {tile : Nat} {code : Nat} {operand : Nat}
    : TKeeps (mvFault check gz tile code operand : TM α) := by
  unfold mvFault
  apply tFaultSet_keeps

theorem mvCheck_keeps  {c : Bool} {check : Nat} {tile : Nat} {operand : Nat}
    : TKeeps (mvCheck c check tile operand : TM Unit) := by
  unfold mvCheck
  refine TKeeps.ite (fun _ => ?_) (fun _ => ?_)
  · exact TKeeps.pure _
  · apply mvFault_keeps

theorem readRec_keeps  {x : TCtx} {work : Bolt} {t : Nat} : TKeeps (readRec x work t : TM WorkRec) := by
  unfold readRec
  refine TKeeps.bind ?_ (fun _ => ?_)
  · apply tReadAt_keeps
  · exact TKeeps.pure _

theorem writeRec_keeps  {x : TCtx} {work : Bolt} {t : Nat} {r : WorkRec} : TKeeps (writeRec x work t r : TM Unit) := by
  unfold writeRec
  apply tWriteAt_keeps

theorem mvBolts_keeps  {x : TCtx} {d : Desc} : TKeeps (mvBolts x d : TM MvRun) := by
  unfold mvBolts
  dsimp only
  refine TKeeps.bind ?_ (fun _ => ?_)
  · apply readBolt?_keeps
  · split
    · apply mvFault_keeps
    · refine TKeeps.bind ?_ (fun _ => ?_)
      · apply readBolt_keeps
      · refine TKeeps.bind ?_ (fun _ => ?_)
        · apply readBolt_keeps
        · refine TKeeps.bind ?_ (fun _ => ?_)
          · apply readBolt_keeps
          · refine TKeeps.bind ?_ (fun _ => ?_)
            · apply mvCheck_keeps
            · refine TKeeps.bind ?_ (fun _ => ?_)
              · apply readBolt?_keeps
              · split
                · apply mvFault_keeps
                · refine TKeeps.bind ?_ (fun _ => ?_)
                  · apply mvCheck_keeps
                  · refine TKeeps.bind ?_ (fun _ => ?_)
                    · exact TKeeps.get
                    · exact TKeeps.pure _

theorem mvRange_keeps  {d : Desc} {w : Bolt} : TKeeps (mvRange d w : TM Bool) := by
  unfold mvRange
  refine TKeeps.ite (fun _ => ?_) (fun _ => ?_)
  · exact TKeeps.pure _
  · refine TKeeps.bind ?_ (fun _ => ?_)
    · apply mvCheck_keeps
    · exact TKeeps.pure _

theorem mvDirs_keeps  {x : TCtx} {g : MvRun} {t : Nat} {op : Nat}
    : TKeeps (mvDirs x g t op : TM (DirEntry × List DirEntry)) := by
  unfold mvDirs
  refine TKeeps.bind ?_ (fun _ => ?_)
  · apply readDir_keeps
  · refine TKeeps.bind ?_ (fun _ => ?_)
    · refine TKeeps.mapM (fun _ => ?_)
      apply readDir_keeps
    · refine TKeeps.bind ?_ (fun _ => ?_)
      · apply mvCheck_keeps
      · exact TKeeps.pure _

theorem mvTile_keeps  {x : TCtx} {g : MvRun} {t : Nat}
    : TKeeps (mvTile x g t : TM (Option (DirEntry × List DirEntry × WorkRec × Bool))) := by
  unfold mvTile
  refine TKeeps.bind ?_ (fun _ => ?_)
  · apply readRec_keeps
  · dsimp only
    refine TKeeps.ite (fun _ => ?_) (fun _ => ?_)
    · exact TKeeps.pure _
    · refine TKeeps.bind ?_ (fun _ => ?_)
      · apply readDir_keeps
      · refine TKeeps.bind ?_ (fun _ => ?_)
        · apply mvCheck_keeps
        · refine TKeeps.bind ?_ (fun _ => ?_)
          · apply mvDirs_keeps
          · refine TKeeps.bind ?_ (fun _ => ?_)
            · apply mvCheck_keeps
            · exact TKeeps.pure _

theorem mvEntries_keeps  {x : TCtx} {g : MvRun} {t : Nat} {d : DirEntry}
    : TKeeps (mvEntries x g t d : TM (List (Nat × Nat))) := by
  unfold mvEntries
  refine TKeeps.bind ?_ (fun _ => ?_)
  · apply tileEntries_keeps
  · split
    · apply mvFault_keeps
    · refine TKeeps.bind ?_ (fun _ => ?_)
      · apply readArr_keeps
      · exact TKeeps.pure _

theorem mvParam_keeps {x : TCtx} {d : Desc} : TKeeps (mvParam x d : TM (List Byte)) := by
  unfold mvParam
  refine TKeeps.bind ?_ (fun _ => ?_)
  · exact readHandle_keeps
  · refine TKeeps.bind ?_ (fun _ => ?_)
    · exact mvCheck_keeps
    · exact TKeeps.pure _

theorem threshTile_keeps {x : TCtx} {g : MvRun} {p : MvParam} {t : Nat} : TKeeps (threshTile x g p t : TM Unit) := by
  unfold threshTile
  refine TKeeps.bind ?_ (fun _ => ?_)
  · exact mvTile_keeps
  · split
    · exact TKeeps.pure _
    · refine TKeeps.bind ?_ (fun _ => ?_)
      · exact mvEntries_keeps
      · refine TKeeps.ite (fun _ => ?_) (fun _ => ?_)
        · exact TKeeps.pure _
        · dsimp only
          refine TKeeps.bind ?_ (fun _ => ?_)
          · exact writeRec_keeps
          · refine tUpd_keeps (fun _ _ _ => ?_)
            exact addF_keeps (by assumption)

theorem mvBegin_keeps {d : Desc} {x : TCtx} {g : MvRun} {pb : List Byte} {sample : Option Bolt} {go : Bool} :
    TKeeps (mvBegin d x g pb sample go : TM Unit) := by
  unfold mvBegin
  refine TKeeps.ite (fun _ => ?_) (fun _ => ?_)
  · refine tUpd_keeps (fun _ _ _ => ?_)
    exact putWork_keeps (by assumption)
  · refine tUpd_keeps (fun _ _ _ => ?_)
    exact markWorked_keeps (by assumption)

theorem threshBegin_keeps {d : Desc} {x : TCtx} : TKeeps (threshBegin d x : TM Unit) := by
  unfold threshBegin
  refine TKeeps.bind ?_ (fun _ => ?_)
  · exact mvParam_keeps
  · refine TKeeps.bind ?_ (fun _ => ?_)
    · exact mvBolts_keeps
    · refine TKeeps.bind ?_ (fun _ => ?_)
      · exact mvRange_keeps
      · exact mvBegin_keeps

theorem threshPiece_keeps {d : Desc} {w : WorkRun} {x : TCtx} : TKeeps (threshPiece d w x : TM Unit) := by
  unfold threshPiece
  dsimp only
  split
  · refine TKeeps.bind ?_ (fun _ => ?_)
    · exact threshTile_keeps
    · refine tUpd_keeps (fun _ _ _ => ?_)
      exact pieceDone_keeps (by assumption)
  · refine tUpd_keeps (fun _ _ _ => ?_)
    exact pieceDone_keeps (by assumption)

theorem execThresh_keeps {r₀ t₀ : State} {c : CroftId} {s : State} (h₀ : Keeps r₀ s) (e₀ : execThresh c s =
    .next t₀) : Keeps r₀ t₀ := by
  unfold execThresh at e₀
  obtain rfl := Host.Outcome.next.inj e₀
  apply unitRow_keeps
  · assumption
  · intro _ _
    exact threshBegin_keeps
  · intro _ _ _
    exact threshPiece_keeps

theorem gleanRank_keeps  {x : TCtx} {g : MvRun} {sample : Option Bolt} {t : Nat} {cands : List Nat}
    : TKeeps (gleanRank x g sample t cands : TM (List Nat)) := by
  unfold gleanRank
  split
  · refine TKeeps.bind ?_ (fun _ => ?_)
    · apply readTwill_keeps
    · dsimp only
      exact TKeeps.pure _
  · refine TKeeps.bind ?_ (fun _ => ?_)
    · exact TKeeps.get
    · dsimp only
      refine TKeeps.bind ?_ (fun _ => ?_)
      · refine tUpd_keeps (fun _ _ _ => ?_)
        exact countEvals_keeps (by assumption)
      · exact TKeeps.pure _

theorem gleanTile_keeps {x : TCtx} {g : MvRun} {p : MvParam} {sample : Option Bolt} {t : Nat} : TKeeps (gleanTile
    x g p sample t : TM Unit) := by
  unfold gleanTile
  refine TKeeps.bind ?_ (fun _ => ?_)
  · exact mvTile_keeps
  · split
    · exact TKeeps.pure _
    · refine TKeeps.bind ?_ (fun _ => ?_)
      · exact mvEntries_keeps
      · refine TKeeps.ite (fun _ => ?_) (fun _ => ?_)
        · exact TKeeps.pure _
        · dsimp only
          refine TKeeps.bind ?_ (fun _ => ?_)
          · exact gleanRank_keeps
          · refine TKeeps.bind ?_ (fun _ => ?_)
            · exact writeRec_keeps
            · refine tUpd_keeps (fun _ _ _ => ?_)
              exact addF_keeps (addF_keeps (by assumption))

theorem gleanBegin_keeps {d : Desc} {x : TCtx} : TKeeps (gleanBegin d x : TM Unit) := by
  unfold gleanBegin
  refine TKeeps.bind ?_ (fun _ => ?_)
  · exact mvParam_keeps
  · dsimp only
    refine TKeeps.bind ?_ (fun _ => ?_)
    · exact mvBolts_keeps
    · refine TKeeps.bind ?_ (fun _ => ?_)
      · exact readBolt?_keeps
      · refine TKeeps.bind ?_ (fun _ => ?_)
        · exact mvCheck_keeps
        · refine TKeeps.bind ?_ (fun _ => ?_)
          · exact mvRange_keeps
          · refine TKeeps.bind ?_ (fun _ => ?_)
            · exact tCheck_keeps
            · exact mvBegin_keeps

theorem gleanPiece_keeps {d : Desc} {w : WorkRun} {x : TCtx} : TKeeps (gleanPiece d w x : TM Unit) := by
  unfold gleanPiece
  dsimp only
  split
  · refine TKeeps.bind ?_ (fun _ => ?_)
    · exact gleanTile_keeps
    · refine tUpd_keeps (fun _ _ _ => ?_)
      exact pieceDone_keeps (by assumption)
  · refine tUpd_keeps (fun _ _ _ => ?_)
    exact pieceDone_keeps (by assumption)

theorem execGlean_keeps {r₀ t₀ : State} {c : CroftId} {s : State} (h₀ : Keeps r₀ s) (e₀ : execGlean c s = .next
    t₀) : Keeps r₀ t₀ := by
  unfold execGlean at e₀
  obtain rfl := Host.Outcome.next.inj e₀
  apply unitRow_keeps
  · assumption
  · intro _ _
    exact gleanBegin_keeps
  · intro _ _ _
    exact gleanPiece_keeps

theorem buildTile_keeps {x : TCtx} {g : MvRun} {p : WovePlan} : TKeeps (buildTile x g p : TM WeaveTile) := by
  unfold buildTile
  refine TKeeps.bind ?_ (fun _ => ?_)
  · exact mvEntries_keeps
  · dsimp only
    refine TKeeps.bind ?_ (fun _ => ?_)
    · exact mvCheck_keeps
    · refine TKeeps.bind ?_ (fun _ => ?_)
      · exact readArr_keeps
      · refine TKeeps.ite (fun _ => ?_) (fun _ => ?_)
        · refine TKeeps.bind ?_ (fun _ => ?_)
          · exact writeArr_keeps
          · refine TKeeps.bind ?_ (fun _ => ?_)
            · exact tCount_keeps
            · split
              · refine TKeeps.bind ?_ (fun _ => ?_)
                · exact readArr_keeps
                · refine TKeeps.bind ?_ (fun _ => ?_)
                  · exact writeArr_keeps
                  · refine TKeeps.bind ?_ (fun _ => ?_)
                    · exact tCount_keeps
                    · refine TKeeps.bind ?_ (fun _ => ?_)
                      · exact readArr_keeps
                      · refine TKeeps.bind ?_ (fun _ => ?_)
                        · exact writeArr_keeps
                        · refine TKeeps.bind ?_ (fun _ => ?_)
                          · exact tCount_keeps
                          · refine TKeeps.bind ?_ (fun _ => ?_)
                            · exact readArr_keeps
                            · refine TKeeps.bind ?_ (fun _ => ?_)
                              · exact writeVals_keeps
                              · refine TKeeps.ite (fun _ => ?_) (fun _ => ?_)
                                · refine TKeeps.bind ?_ (fun _ => ?_)
                                  · exact tCount_keeps
                                  · refine TKeeps.bind ?_ (fun _ => ?_)
                                    · refine tUpd_keeps (fun _ _ _ => ?_)
                                      exact addF_keeps (addF_keeps (by assumption))
                                    · exact TKeeps.pure _
                                · refine TKeeps.bind ?_ (fun _ => ?_)
                                  · exact writeScales_keeps
                                  · refine TKeeps.bind ?_ (fun _ => ?_)
                                    · exact tCount_keeps
                                    · refine TKeeps.bind ?_ (fun _ => ?_)
                                      · refine tUpd_keeps (fun _ _ _ => ?_)
                                        exact addF_keeps (addF_keeps (by assumption))
                                      · exact TKeeps.pure _
              · exact TKeeps.pure _
        · refine TKeeps.bind ?_ (fun _ => ?_)
          · exact tWriteAt_keeps
          · refine TKeeps.bind ?_ (fun _ => ?_)
            · exact writeArr_keeps
            · refine TKeeps.bind ?_ (fun _ => ?_)
              · exact tCount_keeps
              · split
                · refine TKeeps.bind ?_ (fun _ => ?_)
                  · exact readArr_keeps
                  · refine TKeeps.bind ?_ (fun _ => ?_)
                    · exact writeArr_keeps
                    · refine TKeeps.bind ?_ (fun _ => ?_)
                      · exact tCount_keeps
                      · refine TKeeps.bind ?_ (fun _ => ?_)
                        · exact readArr_keeps
                        · refine TKeeps.bind ?_ (fun _ => ?_)
                          · exact writeArr_keeps
                          · refine TKeeps.bind ?_ (fun _ => ?_)
                            · exact tCount_keeps
                            · refine TKeeps.bind ?_ (fun _ => ?_)
                              · exact readArr_keeps
                              · refine TKeeps.bind ?_ (fun _ => ?_)
                                · exact writeVals_keeps
                                · refine TKeeps.ite (fun _ => ?_) (fun _ => ?_)
                                  · refine TKeeps.bind ?_ (fun _ => ?_)
                                    · exact tCount_keeps
                                    · refine TKeeps.bind ?_ (fun _ => ?_)
                                      · refine tUpd_keeps (fun _ _ _ => ?_)
                                        exact addF_keeps (addF_keeps (by assumption))
                                      · exact TKeeps.pure _
                                  · refine TKeeps.bind ?_ (fun _ => ?_)
                                    · exact writeScales_keeps
                                    · refine TKeeps.bind ?_ (fun _ => ?_)
                                      · exact tCount_keeps
                                      · refine TKeeps.bind ?_ (fun _ => ?_)
                                        · refine tUpd_keeps (fun _ _ _ => ?_)
                                          exact addF_keeps (addF_keeps (by assumption))
                                        · exact TKeeps.pure _
                · exact TKeeps.pure _

theorem weavePlan_keeps {x : TCtx} {g : MvRun} {t : Nat} : TKeeps (weavePlan x g t : TM WovePlan) := by
  unfold weavePlan
  refine TKeeps.bind ?_ (fun _ => ?_)
  · exact mvTile_keeps
  · split
    · exact TKeeps.pure _
    · refine TKeeps.bind ?_ (fun _ => ?_)
      · exact readDir_keeps
      · refine TKeeps.bind ?_ (fun _ => ?_)
        · refine TKeeps.mapM (fun _ => ?_)
          exact readDir_keeps
        · exact TKeeps.pure _

theorem weaveRun_keeps {x : TCtx} {d : Desc} {g : MvRun} : TKeeps (weaveRun x d g : TM Unit) := by
  unfold weaveRun
  dsimp only
  refine TKeeps.bind ?_ (fun _ => ?_)
  · refine TKeeps.mapM (fun _ => ?_)
    exact weavePlan_keeps
  · split
    · refine TKeeps.bind ?_ (fun _ => ?_)
      · exact mvFault_keeps
      · refine TKeeps.bind ?_ (fun _ => ?_)
        · exact TKeeps.get
        · split
          · refine TKeeps.bind ?_ (fun _ => ?_)
            · exact mvFault_keeps
            · refine TKeeps.bind ?_ (fun _ => ?_)
              · refine TKeeps.mapM (fun _ => ?_)
                refine TKeeps.ite (fun _ => ?_) (fun _ => ?_)
                · exact buildTile_keeps
                · exact TKeeps.pure _
              · refine tUpd_keeps (fun _ _ _ => ?_)
                refine updCroft_keeps (fun _ => Nat.le_refl _) ?_
                assumption
          · refine TKeeps.bind ?_ (fun _ => ?_)
            · refine TKeeps.mapM (fun _ => ?_)
              refine TKeeps.ite (fun _ => ?_) (fun _ => ?_)
              · exact buildTile_keeps
              · exact TKeeps.pure _
            · refine tUpd_keeps (fun _ _ _ => ?_)
              refine updCroft_keeps (fun _ => Nat.le_refl _) ?_
              assumption
    · refine TKeeps.bind ?_ (fun _ => ?_)
      · exact TKeeps.get
      · split
        · refine TKeeps.bind ?_ (fun _ => ?_)
          · exact mvFault_keeps
          · refine TKeeps.bind ?_ (fun _ => ?_)
            · refine TKeeps.mapM (fun _ => ?_)
              refine TKeeps.ite (fun _ => ?_) (fun _ => ?_)
              · exact buildTile_keeps
              · exact TKeeps.pure _
            · refine tUpd_keeps (fun _ _ _ => ?_)
              refine updCroft_keeps (fun _ => Nat.le_refl _) ?_
              assumption
        · refine TKeeps.bind ?_ (fun _ => ?_)
          · refine TKeeps.mapM (fun _ => ?_)
            refine TKeeps.ite (fun _ => ?_) (fun _ => ?_)
            · exact buildTile_keeps
            · exact TKeeps.pure _
          · refine tUpd_keeps (fun _ _ _ => ?_)
            refine updCroft_keeps (fun _ => Nat.le_refl _) ?_
            assumption

theorem reweaveWork_keeps {d : Desc} {x : TCtx} : TKeeps (reweaveWork d x : TM Unit) := by
  unfold reweaveWork
  refine TKeeps.bind ?_ (fun _ => ?_)
  · exact mvBolts_keeps
  · refine TKeeps.bind ?_ (fun _ => ?_)
    · exact tCheck_keeps
    · refine TKeeps.bind ?_ (fun _ => ?_)
      · exact mvCheck_keeps
      · refine TKeeps.bind ?_ (fun _ => ?_)
        · exact mvRange_keeps
        · dsimp only
          refine TKeeps.bind ?_ (fun _ => ?_)
          · exact mvCheck_keeps
          · refine TKeeps.ite (fun _ => ?_) (fun _ => ?_)
            · refine TKeeps.bind ?_ (fun _ => ?_)
              · refine TKeeps.forM (fun _ => ?_)
                exact tStatsReach_keeps
              · exact weaveRun_keeps
            · refine tUpd_keeps (fun _ _ _ => ?_)
              exact markWorked_keeps (by assumption)

theorem execReweave_keeps {r₀ t₀ : State} {c : CroftId} {s : State} (h₀ : Keeps r₀ s)
    (e₀ : execReweave c s = .next t₀) : Keeps r₀ t₀ := by
  unfold execReweave at e₀
  obtain rfl := Host.Outcome.next.inj e₀
  split
  · apply runTask_keeps
    · assumption
    · intro _
      apply reweaveWork_keeps
  · assumption

theorem swapTile_keeps  {x : TCtx} {g : WeaveRun} {p : WeaveTile} : TKeeps (swapTile x g p : TM Unit) := by
  unfold swapTile
  dsimp only
  refine TKeeps.ite (fun _ => ?_) (fun _ => ?_)
  · refine TKeeps.ite (fun _ => ?_) (fun _ => ?_)
    · refine TKeeps.bind ?_ (fun _ => ?_)
      · apply tWriteAt_keeps
      · split
        · refine TKeeps.bind ?_ (fun _ => ?_)
          · apply tWriteAt_keeps
          · refine TKeeps.bind ?_ (fun _ => ?_)
            · refine TKeeps.forM (fun _ => ?_)
              apply tWriteAt_keeps
            · refine TKeeps.bind ?_ (fun _ => ?_)
              · apply tWriteAt_keeps
              · refine TKeeps.bind ?_ (fun _ => ?_)
                · refine tUpd_keeps (fun _ _ _ => ?_)
                  exact addF_keeps (addF_keeps (by assumption))
                · refine TKeeps.ite (fun _ => ?_) (fun _ => ?_)
                  · apply tWriteAt_keeps
                  · exact TKeeps.pure _
        · refine TKeeps.bind ?_ (fun _ => ?_)
          · refine TKeeps.forM (fun _ => ?_)
            apply tWriteAt_keeps
          · refine TKeeps.bind ?_ (fun _ => ?_)
            · apply tWriteAt_keeps
            · refine TKeeps.bind ?_ (fun _ => ?_)
              · refine tUpd_keeps (fun _ _ _ => ?_)
                exact addF_keeps (addF_keeps (by assumption))
              · refine TKeeps.ite (fun _ => ?_) (fun _ => ?_)
                · apply tWriteAt_keeps
                · exact TKeeps.pure _
    · refine TKeeps.bind ?_ (fun _ => ?_)
      · refine TKeeps.forM (fun _ => ?_)
        apply tWriteAt_keeps
      · refine TKeeps.bind ?_ (fun _ => ?_)
        · apply tWriteAt_keeps
        · refine TKeeps.bind ?_ (fun _ => ?_)
          · refine tUpd_keeps (fun _ _ _ => ?_)
            exact addF_keeps (addF_keeps (by assumption))
          · refine TKeeps.ite (fun _ => ?_) (fun _ => ?_)
            · apply tWriteAt_keeps
            · exact TKeeps.pure _
  · refine TKeeps.ite (fun _ => ?_) (fun _ => ?_)
    · apply tWriteAt_keeps
    · exact TKeeps.pure _

theorem swapWork_keeps  {g : WeaveRun} {x : TCtx} : TKeeps (swapWork g x : TM Unit) := by
  unfold swapWork
  refine TKeeps.bind ?_ (fun _ => ?_)
  · refine TKeeps.forM (fun _ => ?_)
    apply swapTile_keeps
  · refine TKeeps.bind ?_ (fun _ => ?_)
    · refine tUpd_keeps (fun _ _ _ => ?_)
      refine updCroft_keeps (fun _ => Nat.le_refl _) ?_
      assumption
    · refine tUpd_keeps (fun _ _ _ => ?_)
      exact markWorked_keeps (by assumption)

theorem execReweaveSwap_keeps {r₀ t₀ : State} {c : CroftId} {s : State} (h₀ : Keeps r₀ s)
    (e₀ : execReweaveSwap c s = .next t₀) : Keeps r₀ t₀ := by
  unfold execReweaveSwap at e₀
  obtain rfl := Host.Outcome.next.inj e₀
  split
  · assumption
  · split
    · assumption
    · refine Keeps.ite (fun _ => ?_) (fun _ => ?_)
      · apply stepTaskRun_keeps
        · assumption
        · intro _
          apply swapWork_keeps
      · assumption

/-! ### Copy -/

theorem readCodes_keeps {x : TCtx} {operand : Nat} {b : Bolt} {t : Nat} : TKeeps (readCodes x operand b t : TM
    Codes) := by
  unfold readCodes
  refine TKeeps.bind ?_ (fun _ => ?_)
  · exact readLive_keeps
  · exact TKeeps.pure _

theorem cpSparseRead_keeps {x : TCtx} {src : Bolt} {ts : Nat} : TKeeps (cpSparseRead x src ts : TM SpTile) := by
  unfold cpSparseRead
  refine TKeeps.bind ?_ (fun _ => ?_)
  · exact readDir_keeps
  · refine TKeeps.ite (fun _ => ?_) (fun _ => ?_)
    · refine TKeeps.bind ?_ (fun _ => ?_)
      · exact readLive_keeps
      · refine TKeeps.bind ?_ (fun _ => ?_)
        · exact tReadAt_keeps
        · exact TKeeps.pure _
    · refine TKeeps.bind ?_ (fun _ => ?_)
      · exact tReadAt_keeps
      · exact TKeeps.pure _

theorem cpSparseWrite_keeps {x : TCtx} {d : Desc} {dst : Bolt} {td : Nat} {y : SpTile} : TKeeps (cpSparseWrite x d
    dst td y : TM Unit) := by
  unfold cpSparseWrite
  dsimp only
  refine TKeeps.ite (fun _ => ?_) (fun _ => ?_)
  · refine TKeeps.bind ?_ (fun _ => ?_)
    · exact writeVals_keeps
    · refine TKeeps.bind ?_ (fun _ => ?_)
      · exact tWriteAt_keeps
      · refine TKeeps.bind ?_ (fun _ => ?_)
        · exact writeScales_keeps
        · refine TKeeps.bind ?_ (fun _ => ?_)
          · exact tCount_keeps
          · exact tWriteAt_keeps
  · refine TKeeps.bind ?_ (fun _ => ?_)
    · exact tWriteAt_keeps
    · refine TKeeps.bind ?_ (fun _ => ?_)
      · exact tCount_keeps
      · exact tWriteAt_keeps

theorem cpStored_keeps {x : TCtx} {src : Bolt} {dst : Bolt} {tiles : List (Nat × Nat)} : TKeeps (cpStored x src dst
    tiles : TM (List (Span × Span))) := by
  unfold cpStored
  refine TKeeps.mapM (fun _ => ?_)
  refine TKeeps.bind ?_ (fun _ => ?_)
  · exact tPeek_keeps
  · dsimp only
    refine TKeeps.bind ?_ (fun _ => ?_)
    · exact TKeeps.get
    · exact TKeeps.pure _

theorem cpStage_keeps {x : TCtx} {src : Bolt} {n : Nat} : TKeeps (cpStage x src n : TM Unit) := by
  unfold cpStage
  refine TKeeps.bind ?_ (fun _ => ?_)
  · refine TKeeps.mapM (fun _ => ?_)
    exact tReadAt_keeps
  · dsimp only
    refine TKeeps.ite (fun _ => ?_) (fun _ => ?_)
    · refine TKeeps.bind ?_ (fun _ => ?_)
      · exact tReadAt_keeps
      · refine tUpd_keeps (fun _ _ _ => ?_)
        exact larderWrite_keeps (by assumption)
    · refine TKeeps.bind ?_ (fun _ => ?_)
      · exact TKeeps.pure _
      · refine tUpd_keeps (fun _ _ _ => ?_)
        exact larderWrite_keeps (by assumption)

theorem cpHold_keeps {x : TCtx} {src : Bolt} {t : Nat} : TKeeps (cpHold x src t : TM (Nat × List (List Nat))) := by
  unfold cpHold
  refine TKeeps.ite (fun _ => ?_) (fun _ => ?_)
  · refine TKeeps.bind ?_ (fun _ => ?_)
    · exact cpSparseRead_keeps
    · exact TKeeps.pure _
  · refine TKeeps.bind ?_ (fun _ => ?_)
    · exact readCodes_keeps
    · exact TKeeps.pure _

theorem noteOverlap_keeps {r₀ : State} {x : TCtx} {meet : Bool} {down : Bool} {s : State} (h₀ : Keeps r₀ s) :
    Keeps r₀ (noteOverlap x meet down s) := by
  unfold noteOverlap
  exact updTask_keeps (by assumption)

theorem cpStart_keeps {x : TCtx} {d : Desc} {src : Bolt} {dst : Bolt} {tiles : List (Nat × Nat)} : TKeeps (cpStart x
    d src dst tiles : TM Unit) := by
  unfold cpStart
  refine TKeeps.bind ?_ (fun _ => ?_)
  · exact TKeeps.get
  · dsimp only
    refine TKeeps.ite (fun _ => ?_) (fun _ => ?_)
    · refine TKeeps.bind ?_ (fun _ => ?_)
      · exact cpStored_keeps
      · refine TKeeps.bind ?_ (fun _ => ?_)
        · exact tCheck_keeps
        · refine TKeeps.bind ?_ (fun _ => ?_)
          · exact tStatsReach_keeps
          · refine TKeeps.ite (fun _ => ?_) (fun _ => ?_)
            · refine TKeeps.bind ?_ (fun _ => ?_)
              · exact cpStage_keeps
              · refine TKeeps.ite (fun _ => ?_) (fun _ => ?_)
                · refine TKeeps.bind ?_ (fun _ => ?_)
                  · refine TKeeps.mapM (fun _ => ?_)
                    exact cpHold_keeps
                  · refine TKeeps.bind ?_ (fun _ => ?_)
                    · refine tUpd_keeps (fun _ _ _ => ?_)
                      exact noteOverlap_keeps (by assumption)
                    · refine tUpd_keeps (fun _ _ _ => ?_)
                      exact putWork_keeps (by assumption)
                · refine TKeeps.bind ?_ (fun _ => ?_)
                  · exact TKeeps.pure _
                  · refine TKeeps.bind ?_ (fun _ => ?_)
                    · refine tUpd_keeps (fun _ _ _ => ?_)
                      exact noteOverlap_keeps (by assumption)
                    · refine tUpd_keeps (fun _ _ _ => ?_)
                      exact putWork_keeps (by assumption)
            · refine TKeeps.ite (fun _ => ?_) (fun _ => ?_)
              · refine TKeeps.bind ?_ (fun _ => ?_)
                · refine TKeeps.mapM (fun _ => ?_)
                  exact cpHold_keeps
                · refine TKeeps.bind ?_ (fun _ => ?_)
                  · refine tUpd_keeps (fun _ _ _ => ?_)
                    exact noteOverlap_keeps (by assumption)
                  · refine tUpd_keeps (fun _ _ _ => ?_)
                    exact putWork_keeps (by assumption)
              · refine TKeeps.bind ?_ (fun _ => ?_)
                · exact TKeeps.pure _
                · refine TKeeps.bind ?_ (fun _ => ?_)
                  · refine tUpd_keeps (fun _ _ _ => ?_)
                    exact noteOverlap_keeps (by assumption)
                  · refine tUpd_keeps (fun _ _ _ => ?_)
                    exact putWork_keeps (by assumption)
    · refine TKeeps.bind ?_ (fun _ => ?_)
      · exact TKeeps.pure _
      · refine TKeeps.bind ?_ (fun _ => ?_)
        · exact tCheck_keeps
        · refine TKeeps.bind ?_ (fun _ => ?_)
          · exact tStatsReach_keeps
          · refine TKeeps.ite (fun _ => ?_) (fun _ => ?_)
            · refine TKeeps.bind ?_ (fun _ => ?_)
              · exact cpStage_keeps
              · refine TKeeps.ite (fun _ => ?_) (fun _ => ?_)
                · refine TKeeps.bind ?_ (fun _ => ?_)
                  · refine TKeeps.mapM (fun _ => ?_)
                    exact cpHold_keeps
                  · refine TKeeps.bind ?_ (fun _ => ?_)
                    · refine tUpd_keeps (fun _ _ _ => ?_)
                      exact noteOverlap_keeps (by assumption)
                    · refine tUpd_keeps (fun _ _ _ => ?_)
                      exact putWork_keeps (by assumption)
                · refine TKeeps.bind ?_ (fun _ => ?_)
                  · exact TKeeps.pure _
                  · refine TKeeps.bind ?_ (fun _ => ?_)
                    · refine tUpd_keeps (fun _ _ _ => ?_)
                      exact noteOverlap_keeps (by assumption)
                    · refine tUpd_keeps (fun _ _ _ => ?_)
                      exact putWork_keeps (by assumption)
            · refine TKeeps.ite (fun _ => ?_) (fun _ => ?_)
              · refine TKeeps.bind ?_ (fun _ => ?_)
                · refine TKeeps.mapM (fun _ => ?_)
                  exact cpHold_keeps
                · refine TKeeps.bind ?_ (fun _ => ?_)
                  · refine tUpd_keeps (fun _ _ _ => ?_)
                    exact noteOverlap_keeps (by assumption)
                  · refine tUpd_keeps (fun _ _ _ => ?_)
                    exact putWork_keeps (by assumption)
              · refine TKeeps.bind ?_ (fun _ => ?_)
                · exact TKeeps.pure _
                · refine TKeeps.bind ?_ (fun _ => ?_)
                  · refine tUpd_keeps (fun _ _ _ => ?_)
                    exact noteOverlap_keeps (by assumption)
                  · refine tUpd_keeps (fun _ _ _ => ?_)
                    exact putWork_keeps (by assumption)

theorem cpTensor_keeps {x : TCtx} {d : Desc} : TKeeps (cpTensor x d : TM Unit) := by
  unfold cpTensor
  refine TKeeps.bind ?_ (fun _ => ?_)
  · exact readBolt?_keeps
  · refine TKeeps.bind ?_ (fun _ => ?_)
    · exact readBolt?_keeps
    · split
      · exact tFault_keeps
      · exact tFault_keeps
      · refine TKeeps.bind ?_ (fun _ => ?_)
        · exact tCheck_keeps
        · refine TKeeps.bind ?_ (fun _ => ?_)
          · exact tCheck_keeps
          · refine TKeeps.bind ?_ (fun _ => ?_)
            · exact tCheck_keeps
            · refine TKeeps.bind ?_ (fun _ => ?_)
              · exact tCheck_keeps
              · refine TKeeps.bind ?_ (fun _ => ?_)
                · exact tCheck_keeps
                · refine TKeeps.bind ?_ (fun _ => ?_)
                  · exact tCheck_keeps
                  · refine TKeeps.ite (fun _ => ?_) (fun _ => ?_)
                    · refine TKeeps.bind ?_ (fun _ => ?_)
                      · exact TKeeps.get
                      · refine TKeeps.bind ?_ (fun _ => ?_)
                        · exact tCheck_keeps
                        · refine tUpd_keeps (fun _ _ _ => ?_)
                          exact markWorked_keeps (by assumption)
                    · refine TKeeps.bind ?_ (fun _ => ?_)
                      · exact tCheck_keeps
                      · refine TKeeps.bind ?_ (fun _ => ?_)
                        · exact tCheck_keeps
                        · refine TKeeps.bind ?_ (fun _ => ?_)
                          · refine TKeeps.mapM (fun _ => ?_)
                            split
                            · exact TKeeps.pure _
                            · exact tFault_keeps
                          · refine TKeeps.bind ?_ (fun _ => ?_)
                            · exact TKeeps.get
                            · refine TKeeps.bind ?_ (fun _ => ?_)
                              · exact tCheck_keeps
                              · refine TKeeps.bind ?_ (fun _ => ?_)
                                · exact tCheck_keeps
                                · exact cpStart_keeps

theorem cpDone_keeps {r₀ : State} {c : Nat} {w : WorkRun} {s : State} (h₀ : Keeps r₀ s) : Keeps r₀ (cpDone c w s) := by
  unfold cpDone
  dsimp only
  refine Keeps.ite (fun _ => ?_) (fun _ => ?_)
  · exact pieceDone_keeps (by assumption)
  · exact putEnding_keeps (pieceDone_keeps (by assumption))

theorem cpTileWork_keeps {x : TCtx} {d : Desc} {w : WorkRun} {src : Bolt} {dst : Bolt} : TKeeps (cpTileWork x d
    w src dst : TM Unit) := by
  unfold cpTileWork
  dsimp only
  refine TKeeps.ite (fun _ => ?_) (fun _ => ?_)
  · split
    · refine TKeeps.bind ?_ (fun _ => ?_)
      · exact TKeeps.pure _
      · refine TKeeps.bind ?_ (fun _ => ?_)
        · exact cpSparseWrite_keeps
        · refine tUpd_keeps (fun _ _ _ => ?_)
          exact cpDone_keeps (by assumption)
    · refine TKeeps.bind ?_ (fun _ => ?_)
      · exact cpSparseRead_keeps
      · refine TKeeps.bind ?_ (fun _ => ?_)
        · exact cpSparseWrite_keeps
        · refine tUpd_keeps (fun _ _ _ => ?_)
          exact cpDone_keeps (by assumption)
  · split
    · refine TKeeps.bind ?_ (fun _ => ?_)
      · exact TKeeps.pure _
      · refine TKeeps.bind ?_ (fun _ => ?_)
        · exact TKeeps.get
        · refine TKeeps.bind ?_ (fun _ => ?_)
          · exact writeArr_keeps
          · refine TKeeps.bind ?_ (fun _ => ?_)
            · exact tCount_keeps
            · refine TKeeps.bind ?_ (fun _ => ?_)
              · exact tEvals_keeps
              · refine tUpd_keeps (fun _ _ _ => ?_)
                exact cpDone_keeps (by assumption)
    · refine TKeeps.ite (fun _ => ?_) (fun _ => ?_)
      · refine TKeeps.bind ?_ (fun _ => ?_)
        · exact TKeeps.get
        · refine TKeeps.bind ?_ (fun _ => ?_)
          · exact TKeeps.pure _
          · refine TKeeps.bind ?_ (fun _ => ?_)
            · exact TKeeps.get
            · refine TKeeps.bind ?_ (fun _ => ?_)
              · exact writeArr_keeps
              · refine TKeeps.bind ?_ (fun _ => ?_)
                · exact tCount_keeps
                · refine TKeeps.bind ?_ (fun _ => ?_)
                  · exact tEvals_keeps
                  · refine tUpd_keeps (fun _ _ _ => ?_)
                    exact cpDone_keeps (by assumption)
      · refine TKeeps.bind ?_ (fun _ => ?_)
        · exact readCodes_keeps
        · refine TKeeps.bind ?_ (fun _ => ?_)
          · exact TKeeps.get
          · refine TKeeps.bind ?_ (fun _ => ?_)
            · exact writeArr_keeps
            · refine TKeeps.bind ?_ (fun _ => ?_)
              · exact tCount_keeps
              · refine TKeeps.bind ?_ (fun _ => ?_)
                · exact tEvals_keeps
                · refine tUpd_keeps (fun _ _ _ => ?_)
                  exact cpDone_keeps (by assumption)

theorem cpTilePiece_keeps {x : TCtx} {d : Desc} {w : WorkRun} {src : Bolt} {dst : Bolt} : TKeeps (cpTilePiece x
    d w src dst : TM Unit) := by
  unfold cpTilePiece
  refine TKeeps.ite (fun _ => ?_) (fun _ => ?_)
  · refine TKeeps.bind ?_ (fun _ => ?_)
    · exact TKeeps.get
    · refine TKeeps.ite (fun _ => ?_) (fun _ => ?_)
      · exact TKeeps.pure _
      · refine tUpd_keeps (fun _ _ _ => ?_)
        exact putWork_keeps (by assumption)
  · exact cpTileWork_keeps

theorem cpRaw_keeps {x : TCtx} {d : Desc} : TKeeps (cpRaw x d : TM Unit) := by
  unfold cpRaw
  dsimp only
  refine TKeeps.bind ?_ (fun _ => ?_)
  · exact tCheck_keeps
  · refine TKeeps.bind ?_ (fun _ => ?_)
    · exact TKeeps.get
    · refine TKeeps.bind ?_ (fun _ => ?_)
      · refine tUpd_keeps (fun _ _ _ => ?_)
        exact noteOverlap_keeps (by assumption)
      · refine tUpd_keeps (fun _ _ _ => ?_)
        exact putWork_keeps (by assumption)

theorem cpRawPiece_keeps {x : TCtx} {d : Desc} {w : WorkRun} : TKeeps (cpRawPiece x d w : TM Unit) := by
  unfold cpRawPiece
  dsimp only
  refine TKeeps.bind ?_ (fun _ => ?_)
  · exact tReadAt_keeps
  · refine TKeeps.bind ?_ (fun _ => ?_)
    · exact tWriteAt_keeps
    · refine tUpd_keeps (fun _ _ _ => ?_)
      exact pieceDone_keeps (by assumption)

theorem cpBegin_keeps {d : Desc} {x : TCtx} : TKeeps (cpBegin d x : TM Unit) := by
  unfold cpBegin
  refine TKeeps.ite (fun _ => ?_) (fun _ => ?_)
  · exact cpRaw_keeps
  · exact cpTensor_keeps

theorem cpPiece_keeps {d : Desc} {w : WorkRun} {x : TCtx} : TKeeps (cpPiece d w x : TM Unit) := by
  unfold cpPiece
  split
  · exact cpTilePiece_keeps
  · exact cpRawPiece_keeps

theorem execCopy_keeps {r₀ t₀ : State} {c : CroftId} {s : State} (h₀ : Keeps r₀ s) (e₀ : execCopy c s = .next
    t₀) : Keeps r₀ t₀ := by
  unfold execCopy at e₀
  obtain rfl := Host.Outcome.next.inj e₀
  apply unitRow_keeps
  · assumption
  · intro _ _
    exact cpBegin_keeps
  · intro _ _ _
    exact cpPiece_keeps

theorem gaIndex_keeps {x : TCtx} {idx : Bolt} {rec : Nat} {n : Nat} : TKeeps (gaIndex x idx rec n : TM (List Nat)) := by
  unfold gaIndex
  refine TKeeps.bind ?_ (fun _ => ?_)
  · exact tReadAt_keeps
  · exact TKeeps.pure _

theorem gaRow_keeps  {x : TCtx} {src : Bolt} {dst : Bolt} {col : Nat} {r : Nat} {m : Nat}
    : TKeeps (gaRow x src dst col r m : TM Unit) := by
  unfold gaRow
  dsimp only
  refine TKeeps.bind ?_ (fun _ => ?_)
  · apply tReadAt_keeps
  · refine TKeeps.ite (fun _ => ?_) (fun _ => ?_)
    · refine TKeeps.bind ?_ (fun _ => ?_)
      · exact TKeeps.pure _
      · refine TKeeps.bind ?_ (fun _ => ?_)
        · apply tWriteAt_keeps
        · refine TKeeps.ite (fun _ => ?_) (fun _ => ?_)
          · refine TKeeps.bind ?_ (fun _ => ?_)
            · apply tReadAt_keeps
            · refine TKeeps.ite (fun _ => ?_) (fun _ => ?_)
              · refine TKeeps.bind ?_ (fun _ => ?_)
                · apply tWriteAt_keeps
                · apply tCount_keeps
              · apply tCount_keeps
          · refine TKeeps.bind ?_ (fun _ => ?_)
            · exact TKeeps.pure _
            · refine TKeeps.ite (fun _ => ?_) (fun _ => ?_)
              · refine TKeeps.bind ?_ (fun _ => ?_)
                · apply tWriteAt_keeps
                · apply tCount_keeps
              · apply tCount_keeps
    · refine TKeeps.bind ?_ (fun _ => ?_)
      · apply tPeek_keeps
      · refine TKeeps.bind ?_ (fun _ => ?_)
        · apply tWriteAt_keeps
        · refine TKeeps.ite (fun _ => ?_) (fun _ => ?_)
          · refine TKeeps.bind ?_ (fun _ => ?_)
            · apply tReadAt_keeps
            · refine TKeeps.ite (fun _ => ?_) (fun _ => ?_)
              · refine TKeeps.bind ?_ (fun _ => ?_)
                · apply tWriteAt_keeps
                · apply tCount_keeps
              · apply tCount_keeps
          · refine TKeeps.bind ?_ (fun _ => ?_)
            · exact TKeeps.pure _
            · refine TKeeps.ite (fun _ => ?_) (fun _ => ?_)
              · refine TKeeps.bind ?_ (fun _ => ?_)
                · apply tWriteAt_keeps
                · apply tCount_keeps
              · apply tCount_keeps

theorem gaDensePiece_keeps {x : TCtx} {d : Desc} {src : Bolt} {idx : Bolt} {dst : Bolt} {rec : Nat} : TKeeps
    (gaDensePiece x d src idx dst rec : TM Unit) := by
  unfold gaDensePiece
  refine TKeeps.bind ?_ (fun _ => ?_)
  · exact gaIndex_keeps
  · refine TKeeps.forM (fun _ => ?_)
    refine TKeeps.ite (fun _ => ?_) (fun _ => ?_)
    · refine tUpd_keeps (fun _ _ _ => ?_)
      exact addF_keeps (by assumption)
    · dsimp only
      refine TKeeps.bind ?_ (fun _ => ?_)
      · exact tCheck_keeps
      · refine TKeeps.bind ?_ (fun _ => ?_)
        · refine TKeeps.forM (fun _ => ?_)
          exact gaRow_keeps
        · refine tUpd_keeps (fun _ _ _ => ?_)
          exact addF_keeps (by assumption)

theorem pickRun_keeps {x : TCtx} {b : Bolt} {t : Nat} {d : DirEntry} {p : Array Nat} {run : Nat × Nat} : TKeeps (pickRun
    x b t d p run : TM (Option (List Picked))) := by
  unfold pickRun
  dsimp only
  refine TKeeps.ite (fun _ => ?_) (fun _ => ?_)
  · exact TKeeps.pure _
  · refine TKeeps.bind ?_ (fun _ => ?_)
    · exact tReadAt_keeps
    · refine TKeeps.bind ?_ (fun _ => ?_)
      · exact tReadAt_keeps
      · refine TKeeps.ite (fun _ => ?_) (fun _ => ?_)
        · refine TKeeps.bind ?_ (fun _ => ?_)
          · exact tReadAt_keeps
          · refine TKeeps.ite (fun _ => ?_) (fun _ => ?_)
            · exact TKeeps.pure _
            · exact TKeeps.pure _
        · refine TKeeps.bind ?_ (fun _ => ?_)
          · exact TKeeps.pure _
          · refine TKeeps.ite (fun _ => ?_) (fun _ => ?_)
            · exact TKeeps.pure _
            · exact TKeeps.pure _

theorem pickGauze_keeps {x : TCtx} {b : Bolt} {t : Nat} {d : DirEntry} {runs : List (Nat × Nat)} : TKeeps (pickGauze x
    b t d runs : TM (Option (List Picked))) := by
  unfold pickGauze
  refine TKeeps.bind ?_ (fun _ => ?_)
  · exact tReadAt_keeps
  · dsimp only
    refine TKeeps.ite (fun _ => ?_) (fun _ => ?_)
    · exact TKeeps.pure _
    · refine TKeeps.foldlM (fun _ _ => ?_)
      refine TKeeps.bind ?_ (fun _ => ?_)
      · exact pickRun_keeps
      · split
        · exact TKeeps.pure _
        · exact TKeeps.pure _

theorem pickTwill_keeps {x : TCtx} {b : Bolt} {t : Nat} {d : DirEntry} {runs : List (Nat × Nat)} : TKeeps (pickTwill x
    b t d runs : TM (List Picked)) := by
  unfold pickTwill
  dsimp only
  refine TKeeps.bind ?_ (fun _ => ?_)
  · refine TKeeps.mapM (fun _ => ?_)
    refine TKeeps.bind ?_ (fun _ => ?_)
    · exact tReadAt_keeps
    · refine TKeeps.bind ?_ (fun _ => ?_)
      · exact tReadRows_keeps
      · refine TKeeps.ite (fun _ => ?_) (fun _ => ?_)
        · refine TKeeps.bind ?_ (fun _ => ?_)
          · exact tReadAt_keeps
          · exact TKeeps.pure _
        · refine TKeeps.bind ?_ (fun _ => ?_)
          · exact TKeeps.pure _
          · exact TKeeps.pure _
  · exact TKeeps.pure _

theorem gaTile_keeps {x : TCtx} {src : Bolt} {dst : Bolt} {t : Nat} {rows : List Nat} : TKeeps (gaTile x src dst t
    rows : TM Unit) := by
  unfold gaTile
  refine TKeeps.bind ?_ (fun _ => ?_)
  · exact readDir_keeps
  · dsimp only
    refine TKeeps.ite (fun _ => ?_) (fun _ => ?_)
    · refine TKeeps.bind ?_ (fun _ => ?_)
      · exact pickTwill_keeps
      · refine TKeeps.bind ?_ (fun _ => ?_)
        · exact tCheck_keeps
        · refine TKeeps.ite (fun _ => ?_) (fun _ => ?_)
          · refine TKeeps.bind ?_ (fun _ => ?_)
            · exact tWriteAt_keeps
            · refine TKeeps.bind ?_ (fun _ => ?_)
              · exact writeArr_keeps
              · refine TKeeps.bind ?_ (fun _ => ?_)
                · exact tCount_keeps
                · refine TKeeps.bind ?_ (fun _ => ?_)
                  · refine tUpd_keeps (fun _ _ _ => ?_)
                    exact addF_keeps (by assumption)
                  · exact tWriteAt_keeps
          · refine TKeeps.bind ?_ (fun _ => ?_)
            · exact tWriteAt_keeps
            · refine TKeeps.bind ?_ (fun _ => ?_)
              · exact writeArr_keeps
              · refine TKeeps.bind ?_ (fun _ => ?_)
                · exact tCount_keeps
                · refine TKeeps.bind ?_ (fun _ => ?_)
                  · refine tUpd_keeps (fun _ _ _ => ?_)
                    exact addF_keeps (by assumption)
                  · exact tWriteAt_keeps
    · refine TKeeps.bind ?_ (fun _ => ?_)
      · exact pickGauze_keeps
      · split
        · refine TKeeps.bind ?_ (fun _ => ?_)
          · exact TKeeps.pure _
          · refine TKeeps.bind ?_ (fun _ => ?_)
            · exact tCheck_keeps
            · refine TKeeps.ite (fun _ => ?_) (fun _ => ?_)
              · refine TKeeps.bind ?_ (fun _ => ?_)
                · exact tWriteAt_keeps
                · refine TKeeps.bind ?_ (fun _ => ?_)
                  · exact writeArr_keeps
                  · refine TKeeps.bind ?_ (fun _ => ?_)
                    · exact tCount_keeps
                    · refine TKeeps.bind ?_ (fun _ => ?_)
                      · refine tUpd_keeps (fun _ _ _ => ?_)
                        exact addF_keeps (by assumption)
                      · exact tWriteAt_keeps
              · refine TKeeps.bind ?_ (fun _ => ?_)
                · exact tWriteAt_keeps
                · refine TKeeps.bind ?_ (fun _ => ?_)
                  · exact writeArr_keeps
                  · refine TKeeps.bind ?_ (fun _ => ?_)
                    · exact tCount_keeps
                    · refine TKeeps.bind ?_ (fun _ => ?_)
                      · refine tUpd_keeps (fun _ _ _ => ?_)
                        exact addF_keeps (by assumption)
                      · exact tWriteAt_keeps
        · refine TKeeps.bind ?_ (fun _ => ?_)
          · exact tFault_keeps
          · refine TKeeps.bind ?_ (fun _ => ?_)
            · exact tCheck_keeps
            · refine TKeeps.ite (fun _ => ?_) (fun _ => ?_)
              · refine TKeeps.bind ?_ (fun _ => ?_)
                · exact tWriteAt_keeps
                · refine TKeeps.bind ?_ (fun _ => ?_)
                  · exact writeArr_keeps
                  · refine TKeeps.bind ?_ (fun _ => ?_)
                    · exact tCount_keeps
                    · refine TKeeps.bind ?_ (fun _ => ?_)
                      · refine tUpd_keeps (fun _ _ _ => ?_)
                        exact addF_keeps (by assumption)
                      · exact tWriteAt_keeps
              · refine TKeeps.bind ?_ (fun _ => ?_)
                · exact tWriteAt_keeps
                · refine TKeeps.bind ?_ (fun _ => ?_)
                  · exact writeArr_keeps
                  · refine TKeeps.bind ?_ (fun _ => ?_)
                    · exact tCount_keeps
                    · refine TKeeps.bind ?_ (fun _ => ?_)
                      · refine tUpd_keeps (fun _ _ _ => ?_)
                        exact addF_keeps (by assumption)
                      · exact tWriteAt_keeps

theorem gaSelectPiece_keeps {x : TCtx} {d : Desc} {src : Bolt} {idx : Bolt} {dst : Bolt} {rec : Nat} : TKeeps
    (gaSelectPiece x d src idx dst rec : TM Unit) := by
  unfold gaSelectPiece
  refine TKeeps.bind ?_ (fun _ => ?_)
  · exact gaIndex_keeps
  · dsimp only
    refine TKeeps.bind ?_ (fun _ => ?_)
    · exact tCheck_keeps
    · refine TKeeps.bind ?_ (fun _ => ?_)
      · exact tCheck_keeps
      · refine TKeeps.bind ?_ (fun _ => ?_)
        · refine TKeeps.forM (fun _ => ?_)
          exact gaTile_keeps
        · refine tUpd_keeps (fun _ _ _ => ?_)
          exact addF_keeps (addF_keeps (by assumption))

theorem gaCheck_keeps {d : Desc} {src : Bolt} {dst : Bolt} : TKeeps (gaCheck d src dst : TM Unit) := by
  unfold gaCheck
  refine TKeeps.ite (fun _ => ?_) (fun _ => ?_)
  · refine TKeeps.bind ?_ (fun _ => ?_)
    · exact tCheck_keeps
    · refine TKeeps.bind ?_ (fun _ => ?_)
      · exact tCheck_keeps
      · exact tCheck_keeps
  · refine TKeeps.bind ?_ (fun _ => ?_)
    · exact tCheck_keeps
    · refine TKeeps.bind ?_ (fun _ => ?_)
      · exact tCheck_keeps
      · exact tCheck_keeps

theorem gaBegin_keeps {d : Desc} {x : TCtx} : TKeeps (gaBegin d x : TM Unit) := by
  unfold gaBegin
  refine TKeeps.bind ?_ (fun _ => ?_)
  · exact readBolt?_keeps
  · refine TKeeps.bind ?_ (fun _ => ?_)
    · exact readBolt?_keeps
    · refine TKeeps.bind ?_ (fun _ => ?_)
      · exact readBolt?_keeps
      · split
        · exact tFault_keeps
        · exact tFault_keeps
        · exact tFault_keeps
        · refine TKeeps.bind ?_ (fun _ => ?_)
          · exact tCheck_keeps
          · refine TKeeps.bind ?_ (fun _ => ?_)
            · exact tCheck_keeps
            · refine TKeeps.bind ?_ (fun _ => ?_)
              · exact tCheck_keeps
              · refine TKeeps.bind ?_ (fun _ => ?_)
                · exact tCheck_keeps
                · refine TKeeps.bind ?_ (fun _ => ?_)
                  · exact tCheck_keeps
                  · refine TKeeps.bind ?_ (fun _ => ?_)
                    · exact gaCheck_keeps
                    · refine TKeeps.ite (fun _ => ?_) (fun _ => ?_)
                      · refine tUpd_keeps (fun _ _ _ => ?_)
                        exact markWorked_keeps (by assumption)
                      · refine TKeeps.bind ?_ (fun _ => ?_)
                        · exact tStatsReach_keeps
                        · refine tUpd_keeps (fun _ _ _ => ?_)
                          exact putWork_keeps (by assumption)

theorem gaPiece_keeps {d : Desc} {w : WorkRun} {x : TCtx} : TKeeps (gaPiece d w x : TM Unit) := by
  unfold gaPiece
  dsimp only
  split
  · refine TKeeps.ite (fun _ => ?_) (fun _ => ?_)
    · refine TKeeps.bind ?_ (fun _ => ?_)
      · exact gaSelectPiece_keeps
      · refine tUpd_keeps (fun _ _ _ => ?_)
        exact pieceDone_keeps (by assumption)
    · refine TKeeps.bind ?_ (fun _ => ?_)
      · exact gaDensePiece_keeps
      · refine tUpd_keeps (fun _ _ _ => ?_)
        exact pieceDone_keeps (by assumption)
  · refine tUpd_keeps (fun _ _ _ => ?_)
    exact pieceDone_keeps (by assumption)

theorem execGather_keeps {r₀ t₀ : State} {c : CroftId} {s : State} (h₀ : Keeps r₀ s) (e₀ : execGather c s =
    .next t₀) : Keeps r₀ t₀ := by
  unfold execGather at e₀
  obtain rfl := Host.Outcome.next.inj e₀
  apply unitRowKeep_keeps
  · assumption
  · intro _ _
    exact gaBegin_keeps
  · intro _ _ _
    exact gaPiece_keeps

end Sys2Proof.Machine
end

