-- ==== Sys2Proof/Laws/KeepsDevice.lean ====
section
/-!
SUPPORT. Every definition of the model that makes a state keeps what Keeps names: the steward, links, shuttles, memory, firmware, resets and repair. One lemma each, so
that a proof about a command cites its lemma and unfolds nothing.
-/
namespace Sys2Proof.Machine

/-! ### Steward -/

theorem partitionEvent_keeps {r₀ : State} {p : Nat} {subtype : Nat} {sc : Scope} {s : State} (h₀ : Keeps r₀ s)
    : Keeps r₀ (partitionEvent p subtype sc s) := by
  unfold partitionEvent
  exact raise_keeps (by assumption)

theorem haltCommits_keeps {r₀ : State} {p : Nat} {s : State} (h₀ : Keeps r₀ s) : Keeps r₀ (haltCommits p s) := by
  unfold haltCommits
  exact partitionEvent_keeps (updPart_keeps (by assumption))

theorem stopCommits_keeps {r₀ : State} {p : Nat} {s : State} (h₀ : Keeps r₀ s) : Keeps r₀ (stopCommits p s) := by
  unfold stopCommits
  refine Keeps.ite (fun _ => ?_) (fun _ => ?_)
  · assumption
  · exact partitionEvent_keeps (updPart_keeps (by assumption))

theorem withholdRel_keeps {r₀ : State} {p : Nat} {cmd : Nat} {s : State} (h₀ : Keeps r₀ s)
    : Keeps r₀ (withholdRel p cmd s) := by
  unfold withholdRel
  exact updPart_keeps (by assumption)

theorem commitVerdict_keeps {r₀ : State} {p : Nat} {r : StepRun} {s : State} (h₀ : Keeps r₀ s) : Keeps r₀
    (commitVerdict p r s) := by
  unfold commitVerdict
  dsimp only
  apply mapCmds_keeps
  apply updPart_keeps
  apply setPair_keeps
  refine Keeps.foldl ?_ (fun _ _ _ => ?_)
  · assumption
  · exact setF_keeps (by assumption)

theorem heldCommit_keeps {r₀ : State} {p : Nat} {r : StepRun} {s : State} (h₀ : Keeps r₀ s) : Keeps r₀ (heldCommit
    p r s) := by
  unfold heldCommit
  dsimp only
  exact endCmd_keeps (updPart_keeps (withholdRel_keeps (setPair_keeps (by assumption))))

theorem commitStep_keeps {r₀ : State} {p : Nat} {r : StepRun} {s : State} (h₀ : Keeps r₀ s) : Keeps r₀ (commitStep
    p r s) := by
  unfold commitStep
  refine Keeps.ite (fun _ => ?_) (fun _ => ?_)
  · exact heldCommit_keeps (by assumption)
  · exact commitVerdict_keeps (by assumption)

theorem purgeAllOf_keeps {r₀ : State} {p : Nat} {step : Nat} {s : State} (h₀ : Keeps r₀ s) : Keeps r₀ (purgeAllOf p
    step s) := by
  unfold purgeAllOf
  refine Keeps.foldl ?_ (fun _ _ _ => ?_)
  · assumption
  · exact purge_keeps (purgeArriving_keeps (by assumption))

theorem endLost_keeps {r₀ : State} {p : Nat} {r : StepRun} {s : State} (h₀ : Keeps r₀ s) : Keeps r₀ (endLost p r
    s) := by
  unfold endLost
  exact endCmd_keeps (updPart_keeps (by assumption))

theorem repeatStep_keeps {r₀ : State} {p : Nat} {r : StepRun} {s : State} (h₀ : Keeps r₀ s) : Keeps r₀ (repeatStep
    p r s) := by
  unfold repeatStep
  dsimp only
  refine Keeps.ite (fun _ => ?_) (fun _ => ?_)
  · exact endCmd_keeps (updPart_keeps (withholdRel_keeps (purgeAllOf_keeps (by assumption))))
  · exact updPart_keeps (withholdRel_keeps (purgeAllOf_keeps (by assumption)))

theorem stopStep_keeps {r₀ : State} {p : Nat} {r : StepRun} {s : State} (h₀ : Keeps r₀ s) : Keeps r₀ (stopStep p r
    s) := by
  unfold stopStep
  exact endCmd_keeps (haltCommits_keeps (updPart_keeps (withholdRel_keeps (by assumption))))

theorem stewardVerdict_keeps {r₀ : State} {p : Nat} {step : Nat} {attempt : Nat} {kind : Nat} {s : State} (h₀ : Keeps r₀
    s) : Keeps r₀ (stewardVerdict p step attempt kind s) := by
  unfold stewardVerdict
  split
  · refine Keeps.ite (fun _ => ?_) (fun _ => ?_)
    · dsimp only
      refine Keeps.ite (fun _ => ?_) (fun _ => ?_)
      · exact commitStep_keeps (by assumption)
      · refine Keeps.ite (fun _ => ?_) (fun _ => ?_)
        · exact repeatStep_keeps (by assumption)
        · exact stopStep_keeps (by assumption)
    · refine Keeps.ite (fun _ => ?_) (fun _ => ?_)
      · exact haltCommits_keeps (by assumption)
      · assumption
  · refine Keeps.ite (fun _ => ?_) (fun _ => ?_)
    · exact haltCommits_keeps (by assumption)
    · assumption

theorem sendExpects_keeps {r₀ : State} {p : Nat} {r : StepRun} {s : State} (h₀ : Keeps r₀ s)
    : Keeps r₀ (sendExpects p r s) := by
  unfold sendExpects
  refine Keeps.foldl ?_ (fun _ _ _ => ?_)
  · assumption
  · exact sendTally_keeps (by assumption)

theorem clearSlots_keeps {r₀ : State} {c : Nat} {s : State} (h₀ : Keeps r₀ s) : Keeps r₀ (clearSlots c s) := by
  unfold clearSlots
  exact releaseSlots_keeps (releaseSlots_keeps (by assumption))

theorem execRepeatReissue_keeps {r₀ t₀ : State} {p : PartId} {s : State} (h₀ : Keeps r₀ s) (e₀ :
    execRepeatReissue p s = .next t₀) : Keeps r₀ t₀ := by
  unfold execRepeatReissue at e₀
  obtain rfl := Host.Outcome.next.inj e₀
  split
  · assumption
  · refine Keeps.ite (fun _ => ?_) (fun _ => ?_)
    · dsimp only
      refine Keeps.ite (fun _ => ?_) (fun _ => ?_)
      · apply endLost_keeps
        refine Keeps.foldl ?_ (fun _ _ _ => ?_)
        · assumption
        · exact clearSlots_keeps (by assumption)
      · apply updPart_keeps
        apply sendExpects_keeps
        refine Keeps.foldl ?_ (fun _ _ _ => ?_)
        · assumption
        · exact clearSlots_keeps (by assumption)
    · assumption

/-! ### Links -/

theorem setLane_keeps {r₀ : State} {l : Nat} {x : Lane} {s : State} (h₀ : Keeps r₀ s) : Keeps r₀ (setLane l x s) := by
  unfold setLane
  with_reducible refine Keeps.upd ?_ (Nat.le_refl _) rfl rfl rfl
  assumption

theorem updLane_keeps {r₀ : State} {l : Nat} {f : Lane → Lane} {s : State} (h₀ : Keeps r₀ s)
    : Keeps r₀ (updLane l f s) := by
  unfold updLane
  exact setLane_keeps (by assumption)

theorem wire_keeps {r₀ : State} {l : Nat} {bytes : List Byte} {s : State} (h₀ : Keeps r₀ s)
    : Keeps r₀ (wire l bytes s) := by
  unfold wire
  with_reducible refine Keeps.upd ?_ (Nat.le_refl _) rfl rfl rfl
  assumption

theorem emit_keeps {r₀ : State} {l : Nat} {type : Nat} {seq : Nat} {len : Nat} {payload : List Byte} {s : State}
    (h₀ : Keeps r₀ s) : Keeps r₀ (emit l type seq len payload s) := by
  unfold emit
  dsimp only
  exact wire_keeps (setLane_keeps (by assumption))

theorem oweCredit_keeps {r₀ : State} {l : Nat} {vc : Nat} {s : State} (h₀ : Keeps r₀ s) : Keeps r₀ (oweCredit l vc
    s) := by
  unfold oweCredit
  exact updLane_keeps (by assumption)

theorem freeBuffer_keeps {r₀ : State} {f : TxFlit} {s : State} (h₀ : Keeps r₀ s) : Keeps r₀ (freeBuffer f s) := by
  unfold freeBuffer
  split
  · exact oweCredit_keeps (by assumption)
  · assumption

theorem pump_keeps {r₀ : State} {l n : Nat} {s : State} (h₀ : Keeps r₀ s) : Keeps r₀ (pump l n s) := by
  induction n generalizing s with
  | zero => exact h₀
  | succ n ih =>
    unfold pump
    dsimp only
    split
    · assumption
    · with_reducible apply ih
      exact emit_keeps (addUnits_keeps (freeBuffer_keeps (setLane_keeps (by assumption))))

theorem pumpLane_keeps {r₀ : State} {l : Nat} {s : State} (h₀ : Keeps r₀ s) : Keeps r₀ (pumpLane l s) := by
  unfold pumpLane
  exact pump_keeps (by assumption)

theorem recordPeer_keeps {r₀ : State} {v : Nat} {s : State} (h₀ : Keeps r₀ s) : Keeps r₀ (recordPeer v s) := by
  unfold recordPeer
  split
  · exact setF_keeps (setF_keeps (setF_keeps (by assumption)))
  · assumption

theorem refreshPort_keeps {r₀ : State} {v : Nat} {s : State} (h₀ : Keeps r₀ s) : Keeps r₀ (refreshPort v s) := by
  unfold refreshPort
  dsimp only
  exact recordPeer_keeps (setF_keeps (setF_keeps (by assumption)))

theorem txPacket_keeps {r₀ : State} {t₀ : Nat × State} {v : Nat} {k : Packet} {s : State} (h₀ : Keeps r₀ s) (e₀ :
    txPacket v k s = some t₀) : Keeps r₀ t₀.2 := by
  refine OKeeps.of (π := Prod.snd) ?_ e₀
  unfold txPacket
  refine OKeeps.map (fun _ _ => ?_)
  dsimp only
  apply pumpLane_keeps
  apply updLane_keeps
  with_reducible refine Keeps.upd ?_ (Nat.le_refl _) rfl rfl rfl
  assumption

theorem setJob_keeps {r₀ : State} {p : Nat} {j : Job} {s : State} (h₀ : Keeps r₀ s) : Keeps r₀ (setJob p j s) := by
  unfold setJob
  with_reducible refine Keeps.upd ?_ (Nat.le_refl _) rfl rfl rfl
  assumption

theorem updJob_keeps {r₀ : State} {p : Nat} {f : Job → Job} {s : State} (h₀ : Keeps r₀ s)
    : Keeps r₀ (updJob p f s) := by
  unfold updJob
  exact setJob_keeps (by assumption)

theorem setMl_keeps {r₀ : State} {f : Field} {p : Nat} {v : Nat} {s : State} (h₀ : Keeps r₀ s)
    : Keeps r₀ (setMl f p v s) := by
  unfold setMl
  exact setF_keeps (by assumption)

theorem millFault_keeps {r₀ : State} {p : Nat} {s : State} (h₀ : Keeps r₀ s) : Keeps r₀ (millFault p s) := by
  unfold millFault
  exact raise_keeps (by assumption)

theorem sendPacket_keeps {r₀ : State} {p : Nat} {kind : Nat} {dst : Nat} {epoch : Nat} {arg0 : Nat} {arg1 : Nat} {stream :
    Nat} {data : List Byte} {preferB : Bool} {owner : Option (Nat × Nat)} {s : State} (h₀ : Keeps r₀ s) : Keeps r₀
    (sendPacket p kind dst epoch arg0 arg1 stream data preferB owner s).2 := by
  unfold sendPacket
  split
  · dsimp only
    assumption
  · dsimp only
    split
    · dsimp only
      with_reducible refine Keeps.upd ?_ (Nat.le_refl _) rfl rfl rfl
      assumption
    · split
      · dsimp only
        refine Keeps.ite (fun _ => ?_) (fun _ => ?_)
        · exact millFault_keeps (by assumption)
        · assumption
      · split
        · dsimp only
          assumption
        · dsimp only
          with_reducible refine Keeps.upd ?_ (Nat.le_refl _) rfl rfl rfl
          refine txPacket_keeps ?_ (by assumption)
          assumption

theorem sendPeer_keeps {r₀ : State} {t₀ : State} {p : Nat} {croft : Nat} {uid : Nat} {piece : Nat} {stream : Nat} {fold :
    Bool} {addr : Nat} {len : Nat} {data : Option (List Byte)} {s : State} (h₀ : Keeps r₀ s) (e₀ : sendPeer p croft
    uid piece stream fold addr len data s = some t₀) : Keeps r₀ t₀ := by
  refine OKeeps.of (π := id) ?_ e₀
  unfold sendPeer
  dsimp only
  split
  · exact OKeeps.none
  · refine OKeeps.some ?_
    dsimp only [id]
    refine Keeps.snd ?_ (by assumption)
    exact sendPacket_keeps (setJob_keeps (by assumption))

theorem linkEvent_keeps {r₀ : State} {b : Nat} {subtype : Nat} {sc : Scope} {a : Nat} {x : Nat} {y : Nat}
    {s : State} (h₀ : Keeps r₀ s) : Keeps r₀ (linkEvent b subtype sc a x y s) := by
  unfold linkEvent
  exact raise_keeps (by assumption)

theorem loseOwner_keeps {r₀ : State} {id : Nat} {s : State} (h₀ : Keeps r₀ s) : Keeps r₀ (loseOwner id s) := by
  unfold loseOwner
  split
  · assumption
  · dsimp only
    refine Keeps.ite (fun _ => ?_) (fun _ => ?_)
    · apply failTask_keeps
      with_reducible refine Keeps.upd ?_ (Nat.le_refl _) rfl rfl rfl
      assumption
    · apply millFault_keeps
      with_reducible refine Keeps.upd ?_ (Nat.le_refl _) rfl rfl rfl
      assumption

theorem cutForward_keeps {r₀ : State} {x : RxTo} {s : State} (h₀ : Keeps r₀ s) : Keeps r₀ (cutForward x s) := by
  unfold cutForward
  split
  · dsimp only
    refine Keeps.foldl ?_ (fun _ _ _ => ?_)
    · exact updLane_keeps (by assumption)
    · exact freeBuffer_keeps (by assumption)
  · assumption

theorem laneDown_keeps {r₀ : State} {l : Nat} {s : State} (h₀ : Keeps r₀ s) : Keeps r₀ (laneDown l s) := by
  unfold laneDown
  dsimp only
  refine Keeps.ite (fun _ => ?_) (fun _ => ?_)
  · exact setLane_keeps (by assumption)
  · split
    · apply lossRepeat_keeps
      apply addF_keeps
      refine Keeps.foldl ?_ (fun _ _ _ => ?_)
      · apply addF_keeps
        apply refreshPort_keeps
        refine Keeps.foldl ?_ (fun _ _ _ => ?_)
        · apply setLane_keeps
          refine Keeps.foldl ?_ (fun _ _ _ => ?_)
          · assumption
          · exact freeBuffer_keeps (by assumption)
        · exact cutForward_keeps (by assumption)
      · exact loseOwner_keeps (by assumption)
    · apply addF_keeps
      refine Keeps.foldl ?_ (fun _ _ _ => ?_)
      · apply addF_keeps
        apply refreshPort_keeps
        refine Keeps.foldl ?_ (fun _ _ _ => ?_)
        · apply setLane_keeps
          refine Keeps.foldl ?_ (fun _ _ _ => ?_)
          · assumption
          · exact freeBuffer_keeps (by assumption)
        · exact cutForward_keeps (by assumption)
      · exact loseOwner_keeps (by assumption)

theorem forgetPackets_keeps {r₀ : State} {done : List TxFlit} {s : State} (h₀ : Keeps r₀ s) : Keeps r₀
    (forgetPackets done s) := by
  unfold forgetPackets
  with_reducible refine Keeps.upd ?_ (Nat.le_refl _) rfl rfl rfl
  assumption

theorem takeAck_keeps {r₀ : State} {l : Nat} {f : Flit} {s : State} (h₀ : Keeps r₀ s) : Keeps r₀ (takeAck l f s) := by
  unfold takeAck
  refine Keeps.ite (fun _ => ?_) (fun _ => ?_)
  · dsimp only
    exact forgetPackets_keeps (setLane_keeps (by assumption))
  · assumption

theorem takeCredit_keeps {r₀ : State} {l : Nat} {f : Flit} {s : State} (h₀ : Keeps r₀ s)
    : Keeps r₀ (takeCredit l f s) := by
  unfold takeCredit
  split
  exact updLane_keeps (by assumption)

theorem takeBack_keeps {r₀ : State} {l : Nat} {f : Flit} {s : State} (h₀ : Keeps r₀ s) : Keeps r₀ (takeBack l f s) := by
  unfold takeBack
  exact pumpLane_keeps (takeCredit_keeps (takeAck_keeps (by assumption)))

theorem replay_keeps {r₀ : State} {l : Nat} {s : State} (h₀ : Keeps r₀ s) : Keeps r₀ (replay l s) := by
  unfold replay
  dsimp only
  refine Keeps.ite (fun _ => ?_) (fun _ => ?_)
  · assumption
  · refine Keeps.ite (fun _ => ?_) (fun _ => ?_)
    · exact laneDown_keeps (addF_keeps (setLane_keeps (by assumption)))
    · refine Keeps.foldl ?_ (fun _ _ _ => ?_)
      · exact addF_keeps (setLane_keeps (by assumption))
      · exact emit_keeps (by assumption)

theorem headOf_keeps {r₀ : State} {l : Nat} {vc : Nat} {payload : List Byte} {s : State} (h₀ : Keeps r₀ s) : Keeps
    r₀ (headOf l vc payload s).2 := by
  unfold headOf
  dsimp only
  split
  · dsimp only
    exact addF_keeps (by assumption)
  · split
    · dsimp only
      assumption
    · split
      · dsimp only
        exact addF_keeps (by assumption)
      · split
        · split
          · dsimp only
            exact addF_keeps (by assumption)
          · dsimp only
            apply addF_keeps
            apply updLane_keeps
            with_reducible refine Keeps.upd ?_ (Nat.le_refl _) rfl rfl rfl
            assumption
        · dsimp only
          exact addF_keeps (by assumption)

theorem acceptFlit_keeps {r₀ : State} {l : Nat} {f : Flit} {s : State} (h₀ : Keeps r₀ s) : Keeps r₀ (acceptFlit l
    f s) := by
  unfold acceptFlit
  dsimp only
  refine Keeps.ite (fun _ => ?_) (fun _ => ?_)
  · apply updLane_keeps
    split
    · split
      · dsimp only
        with_reducible refine Keeps.upd ?_ (Nat.le_refl _) rfl rfl rfl
        split
        · exact headOf_keeps (cutForward_keeps (by assumption))
        · dsimp only
          assumption
      · dsimp only
        split
        · exact headOf_keeps (cutForward_keeps (by assumption))
        · dsimp only
          assumption
    · dsimp only
      apply pumpLane_keeps
      apply updLane_keeps
      split
      · exact headOf_keeps (cutForward_keeps (by assumption))
      · dsimp only
        assumption
    · dsimp only
      split
      · exact headOf_keeps (cutForward_keeps (by assumption))
      · dsimp only
        assumption
    · dsimp only
      split
      · exact headOf_keeps (cutForward_keeps (by assumption))
      · dsimp only
        assumption
  · apply oweCredit_keeps
    apply updLane_keeps
    split
    · split
      · dsimp only
        with_reducible refine Keeps.upd ?_ (Nat.le_refl _) rfl rfl rfl
        split
        · exact headOf_keeps (cutForward_keeps (by assumption))
        · dsimp only
          assumption
      · dsimp only
        split
        · exact headOf_keeps (cutForward_keeps (by assumption))
        · dsimp only
          assumption
    · dsimp only
      apply pumpLane_keeps
      apply updLane_keeps
      split
      · exact headOf_keeps (cutForward_keeps (by assumption))
      · dsimp only
        assumption
    · dsimp only
      split
      · exact headOf_keeps (cutForward_keeps (by assumption))
      · dsimp only
        assumption
    · dsimp only
      split
      · exact headOf_keeps (cutForward_keeps (by assumption))
      · dsimp only
        assumption

theorem crcBad_keeps {r₀ : State} {l : Nat} {s : State} (h₀ : Keeps r₀ s) : Keeps r₀ (crcBad l s) := by
  unfold crcBad
  exact addF_keeps (by assumption)

theorem askReplay_keeps {r₀ : State} {l : Nat} {s : State} (h₀ : Keeps r₀ s) : Keeps r₀ (askReplay l s) := by
  unfold askReplay
  refine Keeps.ite (fun _ => ?_) (fun _ => ?_)
  · assumption
  · exact emit_keeps (updLane_keeps (by assumption))

theorem execFecAlignmentGained_keeps {r₀ t₀ : State} {v : PortId} {l : LaneId} {s : State} (h₀ : Keeps r₀ s)
    (e₀ : execFecAlignmentGained v l s = .next t₀) : Keeps r₀ t₀ := by
  unfold execFecAlignmentGained at e₀
  obtain rfl := Host.Outcome.next.inj e₀
  dsimp only at e₀
  refine Keeps.ite (fun _ => ?_) (fun _ => ?_)
  · dsimp only
    exact wire_keeps (setLane_keeps (by assumption))
  · assumption

theorem countFec_keeps {r₀ : State} {v : Nat} {f : RxFlit} {s : State} (h₀ : Keeps r₀ s) : Keeps r₀ (countFec v f
    s) := by
  unfold countFec
  exact addF_keeps (addF_keeps (by assumption))

theorem execHello_keeps {r₀ t₀ : State} {v : PortId} {l : LaneId} {f : RxFlit} {rtt : BitVec 16} {s : State} (h₀
    : Keeps r₀ s) (e₀ : execHello v l f rtt s = .next t₀) : Keeps r₀ t₀ := by
  unfold execHello at e₀
  obtain rfl := Host.Outcome.next.inj e₀
  refine Keeps.ite (fun _ => ?_) (fun _ => ?_)
  · exact crcBad_keeps (countFec_keeps (by assumption))
  · refine Keeps.ite (fun _ => ?_) (fun _ => ?_)
    · exact countFec_keeps (by assumption)
    · refine Keeps.ite (fun _ => ?_) (fun _ => ?_)
      · refine Keeps.ite (fun _ => ?_) (fun _ => ?_)
        · exact laneDown_keeps (countFec_keeps (by assumption))
        · exact countFec_keeps (by assumption)
      · refine Keeps.ite (fun _ => ?_) (fun _ => ?_)
        · exact countFec_keeps (by assumption)
        · refine Keeps.ite (fun _ => ?_) (fun _ => ?_)
          · exact linkEvent_keeps (countFec_keeps (by assumption))
          · dsimp only
            exact refreshPort_keeps (setLane_keeps (setF_keeps (setF_keeps (countFec_keeps (by assumption)))))

theorem execDataFlit_keeps {r₀ t₀ : State} {v : PortId} {l : LaneId} {f : RxFlit} {s : State} (h₀ : Keeps r₀ s)
    (e₀ : execDataFlit v l f s = .next t₀) : Keeps r₀ t₀ := by
  unfold execDataFlit at e₀
  obtain rfl := Host.Outcome.next.inj e₀
  refine Keeps.ite (fun _ => ?_) (fun _ => ?_)
  · exact countFec_keeps (by assumption)
  · refine Keeps.ite (fun _ => ?_) (fun _ => ?_)
    · exact askReplay_keeps (crcBad_keeps (countFec_keeps (by assumption)))
    · refine Keeps.ite (fun _ => ?_) (fun _ => ?_)
      · exact countFec_keeps (by assumption)
      · dsimp only
        refine Keeps.ite (fun _ => ?_) (fun _ => ?_)
        · exact acceptFlit_keeps (addUnits_keeps (setLane_keeps (takeBack_keeps (countFec_keeps (by assumption)))))
        · exact askReplay_keeps (takeBack_keeps (countFec_keeps (by assumption)))

theorem execReplayReq_keeps {r₀ t₀ : State} {v : PortId} {l : LaneId} {f : RxFlit} {s : State} (h₀ : Keeps r₀ s)
    (e₀ : execReplayReq v l f s = .next t₀) : Keeps r₀ t₀ := by
  unfold execReplayReq at e₀
  obtain rfl := Host.Outcome.next.inj e₀
  refine Keeps.ite (fun _ => ?_) (fun _ => ?_)
  · exact countFec_keeps (by assumption)
  · refine Keeps.ite (fun _ => ?_) (fun _ => ?_)
    · exact crcBad_keeps (countFec_keeps (by assumption))
    · refine Keeps.ite (fun _ => ?_) (fun _ => ?_)
      · exact countFec_keeps (by assumption)
      · exact replay_keeps (takeCredit_keeps (takeAck_keeps (countFec_keeps (by assumption))))

theorem execIdleFlit_keeps {r₀ t₀ : State} {v : PortId} {l : LaneId} {f : RxFlit} {s : State} (h₀ : Keeps r₀ s)
    (e₀ : execIdleFlit v l f s = .next t₀) : Keeps r₀ t₀ := by
  unfold execIdleFlit at e₀
  obtain rfl := Host.Outcome.next.inj e₀
  refine Keeps.ite (fun _ => ?_) (fun _ => ?_)
  · exact countFec_keeps (by assumption)
  · refine Keeps.ite (fun _ => ?_) (fun _ => ?_)
    · exact crcBad_keeps (countFec_keeps (by assumption))
    · refine Keeps.ite (fun _ => ?_) (fun _ => ?_)
      · exact countFec_keeps (by assumption)
      · exact takeBack_keeps (countFec_keeps (by assumption))

theorem execReplayTimeout_keeps {r₀ t₀ : State} {v : PortId} {l : LaneId} {s : State} (h₀ : Keeps r₀ s)
    (e₀ : execReplayTimeout v l s = .next t₀) : Keeps r₀ t₀ := by
  unfold execReplayTimeout at e₀
  obtain rfl := Host.Outcome.next.inj e₀
  dsimp only at e₀
  split
  · refine Keeps.ite (fun _ => ?_) (fun _ => ?_)
    · exact replay_keeps (by assumption)
    · assumption
  · assumption

theorem execIdleSendTimer_keeps {r₀ t₀ : State} {v : PortId} {l : LaneId} {s : State} (h₀ : Keeps r₀ s)
    (e₀ : execIdleSendTimer v l s = .next t₀) : Keeps r₀ t₀ := by
  unfold execIdleSendTimer at e₀
  obtain rfl := Host.Outcome.next.inj e₀
  dsimp only at e₀
  refine Keeps.ite (fun _ => ?_) (fun _ => ?_)
  · exact emit_keeps (by assumption)
  · assumption

theorem execLaneAlignmentLoss_keeps {r₀ t₀ : State} {v : PortId} {l : LaneId} {s : State} (h₀ : Keeps r₀ s)
    (e₀ : execLaneAlignmentLoss v l s = .next t₀) : Keeps r₀ t₀ := by
  unfold execLaneAlignmentLoss at e₀
  obtain rfl := Host.Outcome.next.inj e₀
  dsimp only at e₀
  exact setLane_keeps (laneDown_keeps (by assumption))

/-! ### Shuttle -/

theorem noteTrip_keeps {r₀ : State} {c : Nat} {piece : Nat} {s : State} (h₀ : Keeps r₀ s) : Keeps r₀ (noteTrip c
    piece s) := by
  unfold noteTrip
  split
  · with_reducible refine Keeps.upd ?_ (Nat.le_refl _) rfl rfl rfl
    assumption
  · assumption

theorem setStream_keeps {r₀ : State} {c : Nat} {n : Nat} {x : Option Xfer} {s : State} (h₀ : Keeps r₀ s)
    : Keeps r₀ (setStream c n x s) := by
  unfold setStream
  refine updCroft_keeps (fun _ => Nat.le_refl _) ?_
  assumption

theorem dropXfer_keeps {r₀ : State} {c : Nat} {x : Xfer} {s : State} (h₀ : Keeps r₀ s) : Keeps r₀ (dropXfer c x s) := by
  unfold dropXfer
  refine updCroft_keeps (fun _ => Nat.le_refl _) ?_
  assumption

theorem execStreamGrant_keeps {r₀ t₀ : State} {c : CroftId} {s : State} (h₀ : Keeps r₀ s) (e₀ : execStreamGrant
    c s = .next t₀) : Keeps r₀ t₀ := by
  unfold execStreamGrant at e₀
  obtain rfl := Host.Outcome.next.inj e₀
  split
  · assumption
  · split
    · assumption
    · exact setStream_keeps (dropXfer_keeps (by assumption))

theorem countWaits_keeps {r₀ : State} {c : Nat} {cycles : Nat} {s : State} (h₀ : Keeps r₀ s) : Keeps r₀ (countWaits
    c cycles s) := by
  unfold countWaits
  dsimp only
  exact addF_keeps (addF_keeps (by assumption))

theorem submitPeer_keeps {r₀ : State} {c : Nat} {x : Xfer} {part : Nat} {id : Nat} {stream : Nat} {addr : Nat} {n : Nat} {s
    : State} (h₀ : Keeps r₀ s) : Keeps r₀ (submitPeer c x part id stream addr n s) := by
  unfold submitPeer
  dsimp only
  split
  · refine sendPeer_keeps ?_ (by assumption)
    assumption
  · apply failTask_keeps
    refine updCroft_keeps (fun _ => Nat.le_refl _) ?_
    assumption

theorem submit_keeps {r₀ : State} {c : Nat} {x : Xfer} {stream : Nat} {addr : Nat} {n : Nat} {deadline : Nat} {need : Nat}
    {s : State} (h₀ : Keeps r₀ s) : Keeps r₀ (submit c x stream addr n deadline need s) := by
  unfold submit
  dsimp only
  split
  · apply setSliceQueue_keeps
    refine updCroft_keeps (fun _ => Nat.le_refl _) ?_
    with_reducible refine Keeps.upd ?_ (Nat.le_refl _) rfl rfl rfl
    assumption
  · apply arriveAt_keeps
    refine updCroft_keeps (fun _ => Nat.le_refl _) ?_
    with_reducible refine Keeps.upd ?_ (Nat.le_refl _) rfl rfl rfl
    assumption
  · refine Keeps.ite (fun _ => ?_) (fun _ => ?_)
    · apply submitPeer_keeps
      refine updCroft_keeps (fun _ => Nat.le_refl _) ?_
      with_reducible refine Keeps.upd ?_ (Nat.le_refl _) rfl rfl rfl
      assumption
    · refine Keeps.ite (fun _ => ?_) (fun _ => ?_)
      · with_reducible refine Keeps.upd ?_ (Nat.le_refl _) rfl rfl rfl
        refine updCroft_keeps (fun _ => Nat.le_refl _) ?_
        with_reducible refine Keeps.upd ?_ (Nat.le_refl _) rfl rfl rfl
        assumption
      · refine updCroft_keeps (fun _ => Nat.le_refl _) ?_
        with_reducible refine Keeps.upd ?_ (Nat.le_refl _) rfl rfl rfl
        assumption

theorem issuePiece_keeps {r₀ : State} {c : Nat} {n : Nat} {x : Xfer} {o : Nat} {a : Nat} {l : Nat} {d : Nat} {s : State} (h₀
    : Keeps r₀ s) : Keeps r₀ (issuePiece c n x o a l d s) := by
  unfold issuePiece
  refine Keeps.ite (fun _ => ?_) (fun _ => ?_)
  · dsimp only
    exact submit_keeps (setStream_keeps (by assumption))
  · exact failTask_keeps (by assumption)

theorem execPieceIssue_keeps {r₀ t₀ : State} {c : CroftId} {s : State} (h₀ : Keeps r₀ s) (e₀ : execPieceIssue c
    s = .next t₀) : Keeps r₀ t₀ := by
  unfold execPieceIssue at e₀
  obtain rfl := Host.Outcome.next.inj e₀
  refine Keeps.ite (fun _ => ?_) (fun _ => ?_)
  · split
    · assumption
    · exact issuePiece_keeps (by assumption)
  · assumption

theorem issueCourier_keeps {r₀ : State} {c : Nat} {x : Xfer} {s : State} (h₀ : Keeps r₀ s) : Keeps r₀
    (issueCourier c x s) := by
  unfold issueCourier
  refine Keeps.ite (fun _ => ?_) (fun _ => ?_)
  · exact addF_keeps (submit_keeps (dropXfer_keeps (by assumption)))
  · exact failTask_keeps (by assumption)

theorem execCourierTransfer_keeps {r₀ t₀ : State} {c : CroftId} {s : State} (h₀ : Keeps r₀ s) (e₀ :
    execCourierTransfer c s = .next t₀) : Keeps r₀ t₀ := by
  unfold execCourierTransfer at e₀
  obtain rfl := Host.Outcome.next.inj e₀
  refine Keeps.ite (fun _ => ?_) (fun _ => ?_)
  · split
    · assumption
    · exact issueCourier_keeps (by assumption)
  · assumption

theorem sampleTile_keeps {r₀ : State} {c : Nat} {x : Xfer} {s : State} (h₀ : Keeps r₀ s) : Keeps r₀ (sampleTile c
    x s) := by
  unfold sampleTile
  refine Keeps.ite (fun _ => ?_) (fun _ => ?_)
  · assumption
  · refine updCroft_keeps (fun _ => Nat.le_refl _) ?_
    assumption

theorem endStream_keeps {r₀ : State} {c : Nat} {n : Nat} {s : State} (h₀ : Keeps r₀ s) : Keeps r₀ (endStream c n s) := by
  unfold endStream
  split
  · assumption
  · refine Keeps.ite (fun _ => ?_) (fun _ => ?_)
    · exact sampleTile_keeps (setStream_keeps (by assumption))
    · assumption

theorem countPiece_keeps {r₀ : State} {c : Nat} {p : Piece} {s : State} (h₀ : Keeps r₀ s) : Keeps r₀ (countPiece c
    p s) := by
  unfold countPiece
  dsimp only
  apply addUnits_keeps
  refine Keeps.ite (fun _ => ?_) (fun _ => ?_)
  · refine Keeps.ite (fun _ => ?_) (fun _ => ?_)
    · exact addF_keeps (by assumption)
    · assumption
  · apply updTask_keeps
    refine Keeps.ite (fun _ => ?_) (fun _ => ?_)
    · exact addF_keeps (by assumption)
    · assumption

theorem execPieceReturn_keeps {r₀ t₀ : State} {c : CroftId} {n : Fin 10} {s : State} (h₀ : Keeps r₀ s) (e₀ :
    execPieceReturn c n s = .next t₀) : Keeps r₀ t₀ := by
  unfold execPieceReturn at e₀
  obtain rfl := Host.Outcome.next.inj e₀
  split
  · assumption
  · refine Keeps.ite (fun _ => ?_) (fun _ => ?_)
    · dsimp only
      refine Keeps.ite (fun _ => ?_) (fun _ => ?_)
      · apply failTask_keeps
        split
        · refine Keeps.ite (fun _ => ?_) (fun _ => ?_)
          · apply endStream_keeps
            apply setStream_keeps
            apply noteTrip_keeps
            refine updCroft_keeps (fun _ => Nat.le_refl _) ?_
            exact countPiece_keeps (by assumption)
          · apply noteTrip_keeps
            refine updCroft_keeps (fun _ => Nat.le_refl _) ?_
            exact countPiece_keeps (by assumption)
        · apply noteTrip_keeps
          refine updCroft_keeps (fun _ => Nat.le_refl _) ?_
          exact countPiece_keeps (by assumption)
      · split
        · refine Keeps.ite (fun _ => ?_) (fun _ => ?_)
          · apply endStream_keeps
            apply setStream_keeps
            apply noteTrip_keeps
            refine updCroft_keeps (fun _ => Nat.le_refl _) ?_
            exact countPiece_keeps (by assumption)
          · apply noteTrip_keeps
            refine updCroft_keeps (fun _ => Nat.le_refl _) ?_
            exact countPiece_keeps (by assumption)
        · apply noteTrip_keeps
          refine updCroft_keeps (fun _ => Nat.le_refl _) ?_
          exact countPiece_keeps (by assumption)
    · assumption

/-! ### MemCtl -/

theorem mapApply_keeps {r₀ : State} {s : State} (h₀ : Keeps r₀ s) : Keeps r₀ (mapApply s) := by
  unfold mapApply
  dsimp only
  refine Keeps.foldl ?_ (fun _ _ _ => ?_)
  · apply refreshMap_keeps
    with_reducible refine Keeps.upd ?_ (Nat.le_refl _) rfl rfl rfl
    assumption
  · refine Keeps.ite (fun _ => ?_) (fun _ => ?_)
    · exact raise_keeps (by assumption)
    · assumption

theorem keyGenerate_keeps {r₀ : State} {p : Nat} {s : State} (h₀ : Keeps r₀ s) : Keeps r₀ (keyGenerate p s) := by
  unfold keyGenerate
  dsimp only
  apply journal_keeps
  refine Keeps.foldl ?_ (fun _ _ _ => ?_)
  · apply setF_keeps
    with_reducible refine Keeps.upd ?_ (Nat.le_refl _) rfl rfl rfl
    assumption
  · exact setF_keeps (by assumption)

theorem keyDestroy_keeps {r₀ : State} {p : Nat} {s : State} (h₀ : Keeps r₀ s) : Keeps r₀ (keyDestroy p s) := by
  unfold keyDestroy
  dsimp only
  apply journal_keeps
  refine Keeps.foldl ?_ (fun _ _ _ => ?_)
  · apply setF_keeps
    with_reducible refine Keeps.upd ?_ (Nat.le_refl _) rfl rfl rfl
    assumption
  · exact setF_keeps (by assumption)

theorem setLastUe_keeps {r₀ : State} {q : Nat} {a : Nat} {s : State} (h₀ : Keeps r₀ s)
    : Keeps r₀ (setLastUe q a s) := by
  unfold setLastUe
  refine Keeps.ite (fun _ => ?_) (fun _ => ?_)
  · exact setPair_keeps (by assumption)
  · exact setPair_keeps (by assumption)

theorem dropReqs_keeps {r₀ : State} {q : Nat} {gone : Req → Bool} {s : State} (h₀ : Keeps r₀ s) : Keeps r₀
    (dropReqs q gone s) := by
  unfold dropReqs
  dsimp only
  exact admitWaiting_keeps (setQueue_keeps (by assumption))

theorem softRepair_keeps {r₀ : State} {a : Nat} {s : State} (h₀ : Keeps r₀ s) : Keeps r₀ (softRepair a s) := by
  unfold softRepair
  dsimp only
  refine Keeps.ite (fun _ => ?_) (fun _ => ?_)
  · assumption
  · with_reducible refine Keeps.upd ?_ (Nat.le_refl _) rfl rfl rfl
    exact setF_keeps (addF_keeps (by assumption))

theorem correctable_keeps {r₀ : State} {q : Nat} {a : Nat} {s : State} (h₀ : Keeps r₀ s)
    : Keeps r₀ (correctable q a s) := by
  unfold correctable
  dsimp only
  refine Keeps.ite (fun _ => ?_) (fun _ => ?_)
  · refine Keeps.ite (fun _ => ?_) (fun _ => ?_)
    · exact softRepair_keeps (addF_keeps (by assumption))
    · with_reducible refine Keeps.upd ?_ (Nat.le_refl _) rfl rfl rfl
      exact addF_keeps (by assumption)
  · exact addF_keeps (by assumption)

theorem noteUe_keeps {r₀ : State} {q : Nat} {pl : Nat} {s : State} (h₀ : Keeps r₀ s) : Keeps r₀ (noteUe q pl s) := by
  unfold noteUe
  exact addF_keeps (addF_keeps (setPoison_keeps (by assumption)))

theorem uncorrectable_keeps {r₀ : State} {q : Nat} {a : Nat} {s : State} (h₀ : Keeps r₀ s) : Keeps r₀ (uncorrectable
    q a s) := by
  unfold uncorrectable
  dsimp only
  refine Keeps.ite (fun _ => ?_) (fun _ => ?_)
  · apply softRepair_keeps
    apply journal_keeps
    apply raise_keeps
    apply setLastUe_keeps
    split
    · exact noteUe_keeps (by assumption)
    · assumption
  · apply journal_keeps
    apply raise_keeps
    apply setLastUe_keeps
    split
    · exact noteUe_keeps (by assumption)
    · assumption

theorem applyEcc_keeps {r₀ : State} {q : Nat} {a : Nat} {ecc : Ecc} {s : State} (h₀ : Keeps r₀ s) : Keeps r₀
    (applyEcc q a ecc s) := by
  unfold applyEcc
  split
  · assumption
  · exact correctable_keeps (by assumption)
  · exact uncorrectable_keeps (by assumption)

theorem answerReq_keeps {r₀ : State} {q : Nat} {found : Bool} {r : Req} {x : Req} {s : State} (h₀ : Keeps r₀ s) :
    Keeps r₀ (answerReq q found r x s) := by
  unfold answerReq
  dsimp only
  apply servePiece_keeps
  refine Keeps.ite (fun _ => ?_) (fun _ => ?_)
  · apply addF_keeps
    refine Keeps.ite (fun _ => ?_) (fun _ => ?_)
    · exact addF_keeps (by assumption)
    · assumption
  · refine Keeps.ite (fun _ => ?_) (fun _ => ?_)
    · exact addF_keeps (by assumption)
    · assumption

theorem serveReq_keeps {r₀ : State} {q : Nat} {r : Req} {ecc : Ecc} {off : Nat} {s : State} (h₀ : Keeps r₀ s) :
    Keeps r₀ (serveReq q r ecc off s) := by
  unfold serveReq
  dsimp only
  refine Keeps.foldl ?_ (fun _ _ _ => ?_)
  · exact applyEcc_keeps (addF_keeps (dropReqs_keeps (by assumption)))
  · exact answerReq_keeps (by assumption)

theorem execMemoryRequest_keeps {r₀ t₀ : State} {c : CtrlId} {ecc : Ecc} {off : Nat} {s : State} (h₀ : Keeps r₀ s)
    (e₀ : execMemoryRequest c ecc off s = .next t₀) : Keeps r₀ t₀ := by
  unfold execMemoryRequest at e₀
  obtain rfl := Host.Outcome.next.inj e₀
  split
  · exact serveReq_keeps (by assumption)
  · assumption

theorem execMergeHoldExpire_keeps {r₀ t₀ : State} {h : HamletId} {pc : Fin 64} {s : State} (h₀ : Keeps r₀ s)
    (e₀ : execMergeHoldExpire h pc s = .next t₀) : Keeps r₀ t₀ := by
  unfold execMergeHoldExpire at e₀
  obtain rfl := Host.Outcome.next.inj e₀
  dsimp only at e₀
  exact setQueue_keeps (by assumption)

theorem execHbmTempSample_keeps {r₀ t₀ : State} {h : HamletId} {temp : BitVec 8} {s : State} (h₀ : Keeps r₀ s)
    (e₀ : execHbmTempSample h temp s = .next t₀) : Keeps r₀ t₀ := by
  unfold execHbmTempSample at e₀
  obtain rfl := Host.Outcome.next.inj e₀
  refine Keeps.ite (fun _ => ?_) (fun _ => ?_)
  · apply raise_keeps
    with_reducible refine Keeps.upd ?_ (Nat.le_refl _) rfl rfl rfl
    exact noteSensor_keeps (setF_keeps (setF_keeps (by assumption)))
  · refine Keeps.ite (fun _ => ?_) (fun _ => ?_)
    · with_reducible refine Keeps.upd ?_ (Nat.le_refl _) rfl rfl rfl
      exact noteSensor_keeps (setF_keeps (setF_keeps (by assumption)))
    · exact noteSensor_keeps (setF_keeps (setF_keeps (by assumption)))

theorem execHbmRefresh_keeps {r₀ t₀ : State} {h : HamletId} {pc : Fin 64} {bank : Fin 16} {s : State} (h₀
    : Keeps r₀ s) (e₀ : execHbmRefresh h pc bank s = .next t₀) : Keeps r₀ t₀ := by
  unfold execHbmRefresh at e₀
  obtain rfl := Host.Outcome.next.inj e₀
  dsimp only at e₀
  refine Keeps.ite (fun _ => ?_) (fun _ => ?_)
  · dsimp only
    with_reducible refine Keeps.upd ?_ (Nat.le_refl _) rfl rfl rfl
    assumption
  · assumption

theorem execDdrThermalSample_keeps {r₀ t₀ : State} {c : Fin 12} {temp : BitVec 8} {s : State} (h₀ : Keeps r₀ s)
    (e₀ : execDdrThermalSample c temp s = .next t₀) : Keeps r₀ t₀ := by
  unfold execDdrThermalSample at e₀
  obtain rfl := Host.Outcome.next.inj e₀
  dsimp only at e₀
  refine Keeps.ite (fun _ => ?_) (fun _ => ?_)
  · apply raise_keeps
    with_reducible refine Keeps.upd ?_ (Nat.le_refl _) rfl rfl rfl
    exact setF_keeps (setF_keeps (by assumption))
  · with_reducible refine Keeps.upd ?_ (Nat.le_refl _) rfl rfl rfl
    exact setF_keeps (setF_keeps (by assumption))

theorem execDdrRefresh_keeps {r₀ t₀ : State} {c : Fin 12} {s : State} (h₀ : Keeps r₀ s)
    (e₀ : execDdrRefresh c s = .next t₀) : Keeps r₀ t₀ := by
  unfold execDdrRefresh at e₀
  obtain rfl := Host.Outcome.next.inj e₀
  dsimp only at e₀
  refine Keeps.ite (fun _ => ?_) (fun _ => ?_)
  · dsimp only
    with_reducible refine Keeps.upd ?_ (Nat.le_refl _) rfl rfl rfl
    assumption
  · assumption

theorem stackOffline_keeps {r₀ : State} {h : Nat} {pc : Nat} {s : State} (h₀ : Keeps r₀ s)
    : Keeps r₀ (stackOffline h pc s) := by
  unfold stackOffline
  dsimp only
  apply fenceHamlet_keeps
  refine Keeps.foldl ?_ (fun _ _ _ => ?_)
  · exact setF_keeps (by assumption)
  · exact poisonQueue_keeps (by assumption)

theorem execHbmRetrain_keeps {r₀ t₀ : State} {h : HamletId} {pc : Fin 64} {stall : Fin 4001} {ended : Retrained}
    {s : State} (h₀ : Keeps r₀ s) (e₀ : execHbmRetrain h pc stall ended s = .next t₀) : Keeps r₀ t₀ := by
  unfold execHbmRetrain at e₀
  obtain rfl := Host.Outcome.next.inj e₀
  refine Keeps.ite (fun _ => ?_) (fun _ => ?_)
  · dsimp only
    refine Keeps.ite (fun _ => ?_) (fun _ => ?_)
    · apply addF_keeps
      apply setF_keeps
      with_reducible refine Keeps.upd ?_ (Nat.le_refl _) rfl rfl rfl
      assumption
    · refine Keeps.ite (fun _ => ?_) (fun _ => ?_)
      · apply stackOffline_keeps
        apply setF_keeps
        with_reducible refine Keeps.upd ?_ (Nat.le_refl _) rfl rfl rfl
        assumption
      · apply setF_keeps
        with_reducible refine Keeps.upd ?_ (Nat.le_refl _) rfl rfl rfl
        assumption
  · assumption

theorem scrubOnward_keeps {r₀ : State} {q : Nat} {s : State} (h₀ : Keeps r₀ s) : Keeps r₀ (scrubOnward q s) := by
  unfold scrubOnward
  dsimp only
  with_reducible refine Keeps.upd ?_ (Nat.le_refl _) rfl rfl rfl
  assumption

theorem unmappedEcc_keeps {r₀ : State} {q : Nat} {ecc : Ecc} {s : State} (h₀ : Keeps r₀ s) : Keeps r₀ (unmappedEcc
    q ecc s) := by
  unfold unmappedEcc
  split
  · assumption
  · exact addF_keeps (by assumption)
  · dsimp only
    exact journal_keeps (raise_keeps (setLastUe_keeps (noteUe_keeps (by assumption))))

theorem execPatrolScrub_keeps {r₀ t₀ : State} {c : CtrlId} {ecc : Ecc} {s : State} (h₀ : Keeps r₀ s) (e₀ :
    execPatrolScrub c ecc s = .next t₀) : Keeps r₀ t₀ := by
  unfold execPatrolScrub at e₀
  obtain rfl := Host.Outcome.next.inj e₀
  refine Keeps.ite (fun _ => ?_) (fun _ => ?_)
  · apply scrubOnward_keeps
    split
    · exact applyEcc_keeps (by assumption)
    · exact unmappedEcc_keeps (by assumption)
  · assumption

theorem fenceChannel_keeps {r₀ : State} {tier : Nat} {n : Nat} {s : State} (h₀ : Keeps r₀ s) : Keeps r₀
    (fenceChannel tier n s) := by
  unfold fenceChannel
  dsimp only
  refine Keeps.ite (fun _ => ?_) (fun _ => ?_)
  · exact failChannel_keeps (by assumption)
  · exact repairNote_keeps (markFenced_keeps (failChannel_keeps (by assumption)))

theorem execChannelFail_keeps {r₀ t₀ : State} {c : ChanId} {s : State} (h₀ : Keeps r₀ s) (e₀ : execChannelFail c
    s = .next t₀) : Keeps r₀ t₀ := by
  unfold execChannelFail at e₀
  obtain rfl := Host.Outcome.next.inj e₀
  refine Keeps.ite (fun _ => ?_) (fun _ => ?_)
  · exact raise_keeps (fenceChannel_keeps (by assumption))
  · assumption

theorem execExpanderRemoved_keeps {r₀ t₀ : State} {x : Fin 4} {s : State} (h₀ : Keeps r₀ s) (e₀ :
    execExpanderRemoved x s = .next t₀) : Keeps r₀ t₀ := by
  unfold execExpanderRemoved at e₀
  obtain rfl := Host.Outcome.next.inj e₀
  with_reducible refine Keeps.upd ?_ (Nat.le_refl _) rfl rfl rfl
  apply setF_keeps
  apply setF_keeps
  refine Keeps.ite (fun _ => ?_) (fun _ => ?_)
  · exact fenceChannel_keeps (by assumption)
  · exact untrain_keeps (by assumption)

theorem sliceError_keeps {r₀ : State} {slice : Nat} {r : Req} {s : State} (h₀ : Keeps r₀ s)
    : Keeps r₀ (sliceError slice r s) := by
  unfold sliceError
  split
  · split
    · exact setPoison_keeps (by assumption)
    · assumption
  · dsimp only
    assumption

theorem readThrough_keeps {r₀ : State} {r : Req} {s : State} (h₀ : Keeps r₀ s) : Keeps r₀ (readThrough r s) := by
  unfold readThrough
  refine Keeps.ite (fun _ => ?_) (fun _ => ?_)
  · refine Keeps.foldl ?_ (fun _ _ _ => ?_)
    · assumption
    · split
      · exact cacheReadGranule_keeps (by assumption)
      · assumption
  · assumption

theorem sliceEcc_keeps {r₀ : State} {i : Nat} {r : Req} {ecc : Ecc} {s : State} (h₀ : Keeps r₀ s) : Keeps r₀
    (sliceEcc i r ecc s) := by
  unfold sliceEcc
  split
  · assumption
  · exact addF_keeps (by assumption)
  · exact sliceError_keeps (addF_keeps (by assumption))

theorem answerSlice_keeps {r₀ : State} {cached : Bool} {bad : Bool} {x : Req} {s : State} (h₀ : Keeps r₀ s) :
    Keeps r₀ (answerSlice cached bad x s) := by
  unfold answerSlice
  exact servePiece_keeps (by assumption)

theorem execGranaryAccess_keeps {r₀ t₀ : State} {i : SliceId} {ecc : Ecc} {s : State} (h₀ : Keeps r₀ s) (e₀ :
    execGranaryAccess i ecc s = .next t₀) : Keeps r₀ t₀ := by
  unfold execGranaryAccess at e₀
  obtain rfl := Host.Outcome.next.inj e₀
  dsimp only
  split
  · assumption
  · refine Keeps.foldl ?_ (fun _ _ _ => ?_)
    · apply sliceEcc_keeps
      apply addF_keeps
      refine Keeps.foldl ?_ (fun _ _ _ => ?_)
      · exact setSliceQueue_keeps (by assumption)
      · exact readThrough_keeps (by assumption)
    · exact answerSlice_keeps (by assumption)

theorem flushStart_keeps {r₀ : State} {slice : Nat} {s : State} (h₀ : Keeps r₀ s) : Keeps r₀ (flushStart slice s) := by
  unfold flushStart
  refine Keeps.ite (fun _ => ?_) (fun _ => ?_)
  · assumption
  · with_reducible refine Keeps.upd ?_ (Nat.le_refl _) rfl rfl rfl
    assumption

theorem flushSlice_keeps {r₀ : State} {slice : Nat} {s : State} (h₀ : Keeps r₀ s) : Keeps r₀ (flushSlice slice s) := by
  unfold flushSlice
  split
  · refine Keeps.foldl ?_ (fun _ _ _ => ?_)
    · assumption
    · exact cleanLine_keeps (by assumption)
  · assumption

theorem dropLines_keeps {r₀ : State} {slice : Nat} {s : State} (h₀ : Keeps r₀ s) : Keeps r₀ (dropLines slice s) := by
  unfold dropLines
  refine Keeps.foldl ?_ (fun _ _ _ => ?_)
  · assumption
  · exact setLine_keeps (by assumption)

theorem remapCache_keeps {r₀ : State} {s0 : State} {s : State} (h₀ : Keeps r₀ s) : Keeps r₀ (remapCache s0 s) := by
  unfold remapCache
  refine Keeps.foldl ?_ (fun _ _ _ => ?_)
  · assumption
  · refine Keeps.ite (fun _ => ?_) (fun _ => ?_)
    · assumption
    · refine Keeps.foldl ?_ (fun _ _ _ => ?_)
      · assumption
      · exact dropLines_keeps (by assumption)

theorem execGranaryFlushDone_keeps {r₀ t₀ : State} {i : SliceId} {s : State} (h₀ : Keeps r₀ s)
    (e₀ : execGranaryFlushDone i s = .next t₀) : Keeps r₀ t₀ := by
  unfold execGranaryFlushDone at e₀
  obtain rfl := Host.Outcome.next.inj e₀
  refine Keeps.ite (fun _ => ?_) (fun _ => ?_)
  · dsimp only
    with_reducible refine Keeps.upd ?_ (Nat.le_refl _) rfl rfl rfl
    exact flushSlice_keeps (by assumption)
  · assumption

theorem execGranarySliceFail_keeps {r₀ t₀ : State} {i : SliceId} {s0 : State} (h₀ : Keeps r₀ s0) (e₀ :
    execGranarySliceFail i s0 = .next t₀) : Keeps r₀ t₀ := by
  unfold execGranarySliceFail at e₀
  obtain rfl := Host.Outcome.next.inj e₀
  refine Keeps.ite (fun _ => ?_) (fun _ => ?_)
  · assumption
  · dsimp only
    split
    · apply repeatPart_keeps
      apply dropLines_keeps
      with_reducible refine Keeps.upd ?_ (Nat.le_refl _) rfl rfl rfl
      refine Keeps.foldl ?_ (fun _ _ _ => ?_)
      · apply setSliceQueue_keeps
        exact remapCache_keeps (setF_keeps (markFenced_keeps (repairNote_keeps (by assumption))))
      · exact servePiece_keeps (by assumption)
    · apply dropLines_keeps
      with_reducible refine Keeps.upd ?_ (Nat.le_refl _) rfl rfl rfl
      refine Keeps.foldl ?_ (fun _ _ _ => ?_)
      · apply setSliceQueue_keeps
        exact remapCache_keeps (setF_keeps (markFenced_keeps (repairNote_keeps (by assumption))))
      · exact servePiece_keeps (by assumption)

theorem discardReqs_keeps {r₀ : State} {gone : Req → Bool} {s : State} (h₀ : Keeps r₀ s) : Keeps r₀ (discardReqs
    gone s) := by
  unfold discardReqs
  dsimp only
  refine Keeps.foldl ?_ (fun _ _ _ => ?_)
  · refine Keeps.foldl ?_ (fun _ _ _ => ?_)
    · assumption
    · refine Keeps.ite (fun _ => ?_) (fun _ => ?_)
      · exact dropReqs_keeps (by assumption)
      · assumption
  · exact setSliceQueue_keeps (by assumption)

theorem loseCroft_keeps {r₀ : State} {l : D2D} {c : Nat} {s : State} (h₀ : Keeps r₀ s) : Keeps r₀ (loseCroft l c
    s) := by
  unfold loseCroft
  dsimp only
  refine Keeps.ite (fun _ => ?_) (fun _ => ?_)
  · assumption
  · refine Keeps.foldl ?_ (fun _ _ _ => ?_)
    · refine updCroft_keeps (fun _ => Nat.le_refl _) ?_
      with_reducible refine Keeps.upd ?_ (Nat.le_refl _) rfl rfl rfl
      exact discardReqs_keeps (by assumption)
    · exact failTask_keeps (by assumption)

theorem loseEngine_keeps {r₀ : State} {eng : Nat} {p : Nat} {s : State} (h₀ : Keeps r₀ s) : Keeps r₀ (loseEngine eng
    p s) := by
  unfold loseEngine
  dsimp only
  exact lossRepeat_keeps (raise_keeps (by assumption))

theorem loseEngines_keeps {r₀ : State} {l : D2D} {s : State} (h₀ : Keeps r₀ s) : Keeps r₀ (loseEngines l s) := by
  unfold loseEngines
  dsimp only
  refine Keeps.foldl ?_ (fun _ _ _ => ?_)
  · exact discardReqs_keeps (by assumption)
  · exact loseEngine_keeps (by assumption)

theorem loseRequests_keeps {r₀ : State} {l : D2D} {s : State} (h₀ : Keeps r₀ s) : Keeps r₀ (loseRequests l s) := by
  unfold loseRequests
  apply loseEngines_keeps
  refine Keeps.foldl ?_ (fun _ _ _ => ?_)
  · assumption
  · exact loseCroft_keeps (by assumption)

theorem fenceE1_keeps {r₀ : State} {s : State} (h₀ : Keeps r₀ s) : Keeps r₀ (fenceE1 s) := by
  unfold fenceE1
  refine Keeps.ite (fun _ => ?_) (fun _ => ?_)
  · assumption
  · dsimp only
    apply repairNote_keeps
    refine Keeps.foldl ?_ (fun _ _ _ => ?_)
    · refine Keeps.foldl ?_ (fun _ _ _ => ?_)
      · exact setF_keeps (markFenced_keeps (by assumption))
      · exact failChannel_keeps (by assumption)
    · exact setF_keeps (setF_keeps (by assumption))

theorem repairLink_keeps {r₀ : State} {l : D2D} {s : State} (h₀ : Keeps r₀ s) : Keeps r₀ (repairLink l s) := by
  unfold repairLink
  split
  · dsimp only
    exact addF_keeps (setF_keeps (addF_keeps (setF_keeps (by assumption))))
  · exact addF_keeps (setF_keeps (by assumption))
  · exact addF_keeps (setF_keeps (by assumption))

theorem noteLoss_keeps {r₀ : State} {b : Nat} {code : Nat} {s : State} (h₀ : Keeps r₀ s)
    : Keeps r₀ (noteLoss b code s) := by
  unfold noteLoss
  exact journal_keeps (raise_keeps (addF_keeps (by assumption)))

theorem loseLink_keeps {r₀ : State} {l : D2D} {s : State} (h₀ : Keeps r₀ s) : Keeps r₀ (loseLink l s) := by
  unfold loseLink
  split
  · dsimp only
    exact noteLoss_keeps (setF_keeps (setF_keeps (addF_keeps (by assumption))))
  · apply noteLoss_keeps
    refine Keeps.foldl ?_ (fun _ _ _ => ?_)
    · exact setF_keeps (by assumption)
    · exact fenceHamlet_keeps (by assumption)
  · dsimp only
    refine Keeps.ite (fun _ => ?_) (fun _ => ?_)
    · exact fenceE1_keeps (noteLoss_keeps (setF_keeps (by assumption)))
    · apply setF_keeps
      apply setF_keeps
      apply setF_keeps
      with_reducible refine Keeps.upd ?_ (Nat.le_refl _) rfl rfl rfl
      exact noteLoss_keeps (setF_keeps (by assumption))

/-! ### Journal -/

theorem showLedger_keeps {r₀ : State} {s : State} (h₀ : Keeps r₀ s) : Keeps r₀ (showLedger s) := by
  unfold showLedger
  dsimp only
  exact setPair_keeps (setPair_keeps (by assumption))

theorem mctpOut_keeps {r₀ : State} {type : Nat} {cmd : Nat} {body : List Byte} {s : State} (h₀ : Keeps r₀ s)
    : Keeps r₀ (mctpOut type cmd body s) := by
  unfold mctpOut
  with_reducible refine Keeps.upd ?_ (Nat.le_refl _) rfl rfl rfl
  assumption

theorem writeEntry_keeps {r₀ : State} {e : JEntry} {s : State} (h₀ : Keeps r₀ s) : Keeps r₀ (writeEntry e s) := by
  unfold writeEntry
  dsimp only
  refine Keeps.ite (fun _ => ?_) (fun _ => ?_)
  · apply mctpOut_keeps
    apply showLedger_keeps
    with_reducible refine Keeps.upd ?_ (Nat.le_refl _) rfl rfl rfl
    assumption
  · apply showLedger_keeps
    with_reducible refine Keeps.upd ?_ (Nat.le_refl _) rfl rfl rfl
    assumption

theorem commitEntry_keeps {r₀ : State} {e : JEntry} {s : State} (h₀ : Keeps r₀ s) : Keeps r₀ (commitEntry e s) := by
  unfold commitEntry
  dsimp only
  refine Keeps.ite (fun _ => ?_) (fun _ => ?_)
  · exact writeEntry_keeps (by assumption)
  · refine Keeps.ite (fun _ => ?_) (fun _ => ?_)
    · apply writeEntry_keeps
      with_reducible refine Keeps.upd ?_ (Nat.le_refl _) rfl rfl rfl
      assumption
    · with_reducible refine Keeps.upd ?_ (Nat.le_refl _) rfl rfl rfl
      assumption

theorem commitAll_keeps {r₀ : State} {s : State} (h₀ : Keeps r₀ s) : Keeps r₀ (commitAll s) := by
  unfold commitAll
  dsimp only
  refine Keeps.foldl ?_ (fun _ _ _ => ?_)
  · with_reducible refine Keeps.upd ?_ (Nat.le_refl _) rfl rfl rfl
    assumption
  · exact commitEntry_keeps (by assumption)

theorem execJournalCommit_keeps {r₀ t₀ : State} {s : State} (h₀ : Keeps r₀ s)
    (e₀ : execJournalCommit s = .next t₀) : Keeps r₀ t₀ := by
  unfold execJournalCommit at e₀
  obtain rfl := Host.Outcome.next.inj e₀
  split
  · assumption
  · refine Keeps.ite (fun _ => ?_) (fun _ => ?_)
    · assumption
    · apply commitEntry_keeps
      with_reducible refine Keeps.upd ?_ (Nat.le_refl _) rfl rfl rfl
      assumption

theorem suppressionEntry_keeps {r₀ : State} {kind : Nat} {n : Nat} {s : State} (h₀ : Keeps r₀ s)
    : Keeps r₀ (suppressionEntry kind n s) := by
  unfold suppressionEntry
  exact addF_keeps (commitEntry_keeps (by assumption))

theorem execSuppressionSecondEnd_keeps {r₀ t₀ : State} {s : State} (h₀ : Keeps r₀ s)
    (e₀ : execSuppressionSecondEnd s = .next t₀) : Keeps r₀ t₀ := by
  unfold execSuppressionSecondEnd at e₀
  obtain rfl := Host.Outcome.next.inj e₀
  refine Keeps.ite (fun _ => ?_) (fun _ => ?_)
  · dsimp only
    refine Keeps.foldl ?_ (fun _ _ _ => ?_)
    · with_reducible refine Keeps.upd ?_ (Nat.le_refl _) rfl rfl rfl
      assumption
    · exact suppressionEntry_keeps (by assumption)
  · assumption

theorem loadEntry_keeps {r₀ : State} {s : State} (h₀ : Keeps r₀ s) : Keeps r₀ (loadEntry s) := by
  unfold loadEntry
  dsimp only
  refine Keeps.foldl ?_ (fun _ _ _ => ?_)
  · exact setF_keeps (by assumption)
  · exact setF_keeps (by assumption)

theorem setPerm_keeps {r₀ : State} {b : Nat} {f : Field} {v : Nat} {s : State} (h₀ : Keeps r₀ s) :
    Keeps r₀ (setPerm b f v s) := setF_keeps (h₀.perm fun x => mapWf_mapPut _ _ _ _ x)

/-! ### Firmware -/

/-- An update of the firmware's state that clears no revocation bit. -/
theorem updFw_keeps {r₀ : State} {f : Firmware → Firmware} {s : State} (h₀ : Keeps r₀ s)
    (hf : ∀ k i, k.revoked.testBit i = true → (f k).revoked.testBit i = true) : Keeps r₀ (updFw f s) :=
  h₀.trans ⟨rfl, le_refl _, id, id, id, id, List.prefix_refl _, hf _⟩

theorem fwNote_keeps {r₀ : State} {what : Nat} {severity : Nat} {i : Nat} {b : Nat} {check : Nat} {more : Nat} {s : State}
    (h₀ : Keeps r₀ s) : Keeps r₀ (fwNote what severity i b check more s) := by
  unfold fwNote
  exact journal_keeps (by assumption)

theorem recordFail_keeps {r₀ : State} {i : Nat} {b : Nat} {check : Nat} {s : State} (h₀ : Keeps r₀ s)
    : Keeps r₀ (recordFail i b check s) := by
  unfold recordFail
  exact fwNote_keeps (addF_keeps (setF_keeps (setF_keeps (setF_keeps (by assumption)))))

theorem validateSet_keeps {r₀ : State} {set : List Nat} {s : State} (h₀ : Keeps r₀ s) :
    Keeps r₀ (validateSet set s).2 := by
  unfold validateSet
  have go (l : List Nat) (a : Bool × State) (h : Keeps r₀ a.2) : Keeps r₀ (l.foldl (fun a i =>
      match failedCheck i (byImage set i) (some set) a.2 with
      | some c => (false, recordFail i (byImage set i) c a.2)
      | none => a) a).2 := by
    induction l generalizing a with
    | nil => exact h
    | cons i l ih =>
      refine ih _ ?_
      dsimp only
      cases failedCheck i (byImage set i) (some set) a.2 with
      | none => exact h
      | some c => exact recordFail_keeps h
  exact go _ _ h₀

theorem noteGroup_keeps {r₀ : State} {what : Nat} {severity : Nat} {group : List Nat} {s : State} (h₀ : Keeps r₀ s) :
    Keeps r₀ (noteGroup what severity group s) := by
  unfold noteGroup
  refine Keeps.foldl ?_ (fun _ _ _ => ?_)
  · assumption
  · exact fwNote_keeps (by assumption)

theorem fallBack_keeps {r₀ : State} {s : State} (h₀ : Keeps r₀ s) : Keeps r₀ (fallBack s) := by
  unfold fallBack
  dsimp only
  apply noteGroup_keeps
  apply setF_keeps
  apply updFw_keeps
  · assumption
  · intro _ _ _
    assumption

theorem romChoice_keeps {r₀ : State} {s : State} (h₀ : Keeps r₀ s) : Keeps r₀ (romChoice s).2 := by
  unfold romChoice
  dsimp only
  split
  · with_reducible assumption
  · split
    · dsimp only
      exact recordFail_keeps (by assumption)
    · dsimp only
      exact recordFail_keeps (recordFail_keeps (by assumption))

theorem loadImages_keeps {r₀ : State} {s : State} (h₀ : Keeps r₀ s) : Keeps r₀ (loadImages s) := by
  unfold loadImages
  dsimp only
  apply journal_keeps
  apply setF_keeps
  apply setF_keeps
  apply setF_keeps
  apply updFw_keeps
  · assumption
  · intro _ _ _
    assumption

theorem fallBackSet_keeps {r₀ : State} {s : State} (h₀ : Keeps r₀ s) : Keeps r₀ (fallBackSet s).2 := by
  unfold fallBackSet
  dsimp only
  exact validateSet_keeps (fallBack_keeps (by assumption))

theorem chooseSet_keeps {r₀ : State} {s : State} (h₀ : Keeps r₀ s) : Keeps r₀ (chooseSet s).2 := by
  unfold chooseSet
  split
  · dsimp only
    refine Keeps.snd ?_ (by assumption)
    exact romChoice_keeps (setF_keeps (by assumption))
  · split
    · apply fallBackSet_keeps
      refine Keeps.snd ?_ (by assumption)
      exact romChoice_keeps (setF_keeps (by assumption))
    · split
      split
      · dsimp only
        refine Keeps.snd ?_ (by assumption)
        apply validateSet_keeps
        refine Keeps.snd ?_ (by assumption)
        exact romChoice_keeps (setF_keeps (by assumption))
      · apply fallBackSet_keeps
        refine Keeps.snd ?_ (by assumption)
        apply validateSet_keeps
        refine Keeps.snd ?_ (by assumption)
        exact romChoice_keeps (setF_keeps (by assumption))

theorem startImages_keeps {r₀ : State} {s : State} (h₀ : Keeps r₀ s) : Keeps r₀ (startImages s).2 := by
  unfold startImages
  split
  dsimp only
  refine Keeps.ite (fun _ => ?_) (fun _ => ?_)
  · apply loadImages_keeps
    refine Keeps.snd ?_ (by assumption)
    exact chooseSet_keeps (by assumption)
  · refine Keeps.snd ?_ (by assumption)
    exact chooseSet_keeps (by assumption)

theorem raiseFloors_keeps {r₀ : State} {s : State} (h₀ : Keeps r₀ s) : Keeps r₀ (raiseFloors s) := by
  unfold raiseFloors
  split
  · refine updFw_keeps (Keeps.foldl h₀ fun _ _ h => ?_) fun _ _ h => h
    dsimp only
    split
    · exact h
    · exact fwNote_keeps (updFw_keeps h fun k i hk => by simp [Nat.testBit_or, hk])
  · exact h₀

/-! ### Exchange -/

theorem mlAsk_keeps {r₀ : State} {p : Nat} {base : Nat} {off : Nat} {n : Nat} {write : Bool} {s : State} (h₀ : Keeps r₀
    s) : Keeps r₀ (mlAsk p base off n write s) := by
  unfold mlAsk
  exact memAsk_keeps (by assumption)

theorem mlWrite_keeps {r₀ : State} {t₀ : State} {p : Nat} {base : Nat} {off : Nat} {l : List Byte} {s : State} (h₀ :
    Keeps r₀ s) (e₀ : mlWrite p base off l s = some t₀) : Keeps r₀ t₀ := by
  refine OKeeps.of (π := id) ?_ e₀
  unfold mlWrite
  dsimp only
  refine OKeeps.ite (fun _ => ?_) (fun _ => ?_)
  · refine OKeeps.some ?_
    dsimp only [id]
    assumption
  · refine OKeeps.ite (fun _ => ?_) (fun _ => ?_)
    · refine OKeeps.ite (fun _ => ?_) (fun _ => ?_)
      · refine OKeeps.some ?_
        dsimp only [id]
        exact mlAsk_keeps (store0_keeps (by assumption))
      · exact OKeeps.none
    · refine OKeeps.ite (fun _ => ?_) (fun _ => ?_)
      · refine OKeeps.map (fun _ _ => ?_)
        dsimp only [id]
        exact mlAsk_keeps (wrN_keeps (by assumption))
      · exact OKeeps.none

theorem askRec_keeps {r₀ : State} {p : Nat} {g : Plan} {member : Bool} {b : Nat} {s : State} (h₀ : Keeps r₀ s) :
    Keeps r₀ (askRec p g member b s) := by
  unfold askRec
  exact mlAsk_keeps (by assumption)

theorem writeHalf_keeps {r₀ : State} {t₀ : State} {p : Nat} {g : Plan} {member : Bool} {off : Nat} {b : Nat} {step :
    Nat} {attempt : Nat} {h : Half} {digest : Option Nat} {s : State} (h₀ : Keeps r₀ s) (e₀ : writeHalf p g member off
    b step attempt h digest s = some t₀) : Keeps r₀ t₀ := by
  refine OKeeps.of (π := id) ?_ e₀
  unfold writeHalf
  split
  · exact OKeeps.none
  · dsimp only
    refine fun _ e => mlWrite_keeps ?_ e
    exact askRec_keeps (by assumption)

theorem updEp_keeps {r₀ : State} {p : Nat} {step : Nat} {attempt : Nat} {f : EpState → EpState} {s : State}
    (h₀ : Keeps r₀ s) : Keeps r₀ (updEp p step attempt f s) := by
  unfold updEp
  dsimp only
  exact updJob_keeps (by assumption)

theorem sendVote_keeps {r₀ : State} {p : Nat} {step : Nat} {attempt : Nat} {kind : Nat} {reason : Nat}
    {device : Nat} {preferB : Bool} {s : State} (h₀ : Keeps r₀ s)
    : Keeps r₀ (sendVote p step attempt kind reason device preferB s) := by
  unfold sendVote
  refine Keeps.ite (fun _ => ?_) (fun _ => ?_)
  · assumption
  · exact sendPacket_keeps (by assumption)

theorem voteRepeat_keeps {r₀ : State} {p : Nat} {step : Nat} {attempt : Nat} {reason : Nat} {device : Nat}
    {s : State} (h₀ : Keeps r₀ s) : Keeps r₀ (voteRepeat p step attempt reason device s) := by
  unfold voteRepeat
  dsimp only
  refine Keeps.ite (fun _ => ?_) (fun _ => ?_)
  · assumption
  · exact sendVote_keeps (updEp_keeps (by assumption))

theorem ownCause_keeps {r₀ : State} {p : Nat} {step : Nat} {attempt : Nat} {reason : Nat} {s : State} (h₀
    : Keeps r₀ s) : Keeps r₀ (ownCause p step attempt reason s) := by
  unfold ownCause
  exact voteRepeat_keeps (by assumption)

theorem badPacket_keeps {r₀ : State} {p : Nat} {k : Packet} {s : State} (h₀ : Keeps r₀ s)
    : Keeps r₀ (badPacket p k s) := by
  unfold badPacket
  dsimp only
  refine Keeps.ite (fun _ => ?_) (fun _ => ?_)
  · refine Keeps.ite (fun _ => ?_) (fun _ => ?_)
    · exact ownCause_keeps (linkEvent_keeps (addF_keeps (by assumption)))
    · refine Keeps.ite (fun _ => ?_) (fun _ => ?_)
      · exact ownCause_keeps (linkEvent_keeps (addF_keeps (by assumption)))
      · exact linkEvent_keeps (addF_keeps (by assumption))
  · exact linkEvent_keeps (addF_keeps (by assumption))

theorem stalePacket_keeps {r₀ : State} {s : State} (h₀ : Keeps r₀ s) : Keeps r₀ (stalePacket s) := by
  unfold stalePacket
  exact addF_keeps (by assumption)

theorem workFailed_keeps {r₀ : State} {p : Nat} {b : Nat} {step : Nat} {attempt : Nat} {s : State} (h₀
    : Keeps r₀ s) : Keeps r₀ (workFailed p b step attempt s) := by
  unfold workFailed
  exact ownCause_keeps (linkEvent_keeps (by assumption))

theorem takeInboxAt_keeps {r₀ : State} {t₀ : Inb × State} {sel : Inb → Bool} {s : State} (h₀ : Keeps r₀ s) (e₀ :
    takeInboxAt sel s = some t₀) : Keeps r₀ t₀.2 := by
  refine OKeeps.of (π := Prod.snd) ?_ e₀
  unfold takeInboxAt
  split
  · exact OKeeps.none
  · refine OKeeps.some ?_
    dsimp only
    with_reducible refine Keeps.upd ?_ (Nat.le_refl _) rfl rfl rfl
    assumption

theorem takeInbox_keeps {r₀ : State} {t₀ : Nat × Packet × State} {sel : Inb → Bool} {s : State} (h₀ : Keeps r₀ s)
    (e₀ : takeInbox sel s = some t₀) : Keeps r₀ t₀.2.2 := by
  refine OKeeps.of (π := fun x => x.2.2) ?_ e₀
  exact OKeeps.map fun _ e => takeInboxAt_keeps h₀ e

theorem takeKindAt_keeps {r₀ : State} {t₀ : Inb × State} {kind : Nat} {s : State} (h₀ : Keeps r₀ s) (e₀ :
    takeKindAt kind s = some t₀) : Keeps r₀ t₀.2 := by
  refine OKeeps.of (π := Prod.snd) ?_ e₀
  unfold takeKindAt
  refine fun _ e => takeInboxAt_keeps ?_ e
  assumption

theorem takeKind_keeps {r₀ : State} {t₀ : Nat × Packet × State} {kind : Nat} {fold : Bool} {s : State} (h₀ : Keeps
    r₀ s) (e₀ : takeKind kind fold s = some t₀) : Keeps r₀ t₀.2.2 := by
  refine OKeeps.of (π := fun x => x.2.2) ?_ e₀
  unfold takeKind
  refine fun _ e => takeInbox_keeps ?_ e
  assumption

/-! ### Reset -/

theorem noteKeys_keeps {r₀ : State} {fn : Nat} {reason : Nat} {s : State} (h₀ : Keeps r₀ s) : Keeps r₀ (noteKeys fn
    reason s) := by
  unfold noteKeys
  refine Keeps.ite (fun _ => ?_) (fun _ => ?_)
  · exact raise_keeps (by assumption)
  · assumption

theorem dropSession_keeps {r₀ : State} {fn : Nat} {s : State} (h₀ : Keeps r₀ s) : Keeps r₀ (dropSession fn s) := by
  unfold dropSession
  dsimp only
  with_reducible refine Keeps.upd ?_ (Nat.le_refl _) rfl rfl rfl
  refine Keeps.ite (fun _ => ?_) (fun _ => ?_)
  · exact setSeal_keeps (setF_keeps (by assumption))
  · assumption

theorem endSession_keeps {r₀ : State} {fn : Nat} {reason : Nat} {s : State} (h₀ : Keeps r₀ s) : Keeps r₀ (endSession
    fn reason s) := by
  unfold endSession
  exact dropSession_keeps (noteKeys_keeps (by assumption))

theorem zeroHeld_keeps {r₀ : State} {p : Nat} {s : State} (h₀ : Keeps r₀ s) : Keeps r₀ (zeroHeld p s) := by
  unfold zeroHeld
  with_reducible refine Keeps.updMem ?_ (Nat.le_refl _) (mapWf_filter _ _ _)
  assumption

theorem loseMemory_keeps {r₀ : State} {s : State} (h₀ : Keeps r₀ s) : Keeps r₀ (loseMemory s) := by
  unfold loseMemory
  exact loseBytes_keeps (by assumption)

theorem noteTrained_keeps {r₀ : State} {b : Nat} {ok : Bool} {s : State} (h₀ : Keeps r₀ s) : Keeps r₀ (noteTrained
    b ok s) := by
  unfold noteTrained
  dsimp only
  with_reducible refine Keeps.upd ?_ (Nat.le_refl _) rfl rfl rfl
  assumption

theorem trainModule_keeps {r₀ : State} {m : Module} {s : State} (h₀ : Keeps r₀ s) : Keeps r₀ (trainModule m s) := by
  unfold trainModule
  split
  · dsimp only
    exact noteTrained_keeps (setF_keeps (setF_keeps (setF_keeps (setF_keeps (setF_keeps (by assumption))))))
  · dsimp only
    exact noteTrained_keeps (setF_keeps (setF_keeps (setF_keeps (setF_keeps (by assumption)))))

theorem drivePerst_keeps {r₀ : State} {mask : Nat} {s : State} (h₀ : Keeps r₀ s) : Keeps r₀ (drivePerst mask s) := by
  unfold drivePerst
  with_reducible refine Keeps.upd ?_ (Nat.le_refl _) rfl rfl rfl
  assumption

theorem trainMemory_keeps {r₀ : State} {s : State} (h₀ : Keeps r₀ s) : Keeps r₀ (trainMemory s) := by
  unfold trainMemory
  dsimp only
  apply mapApply_keeps
  refine Keeps.foldl ?_ (fun _ _ _ => ?_)
  · refine Keeps.foldl ?_ (fun _ _ _ => ?_)
    · refine Keeps.foldl ?_ (fun _ _ _ => ?_)
      · exact drivePerst_keeps (by assumption)
      · exact setF_keeps (by assumption)
    · exact setF_keeps (by assumption)
  · exact trainModule_keeps (by assumption)

theorem showFence_keeps {r₀ : State} {u : Nat} {s : State} (h₀ : Keeps r₀ s) : Keeps r₀ (showFence u s) := by
  unfold showFence
  split
  · exact setF_keeps (by assumption)
  · exact setF_keeps (by assumption)
  · exact setF_keeps (by assumption)
  · exact setF_keeps (by assumption)
  · refine Keeps.ite (fun _ => ?_) (fun _ => ?_)
    · exact setF_keeps (by assumption)
    · assumption
  · assumption

theorem showRetired_keeps {r₀ : State} {s : State} (h₀ : Keeps r₀ s) : Keeps r₀ (showRetired s) := by
  unfold showRetired
  dsimp only
  refine Keeps.foldl ?_ (fun _ _ _ => ?_)
  · refine Keeps.foldl ?_ (fun _ _ _ => ?_)
    · assumption
    · refine Keeps.ite (fun _ => ?_) (fun _ => ?_)
      · assumption
      · exact showFence_keeps (setF_keeps (setF_keeps (by assumption)))
  · refine Keeps.ite (fun _ => ?_) (fun _ => ?_)
    · exact setF_keeps (setF_keeps (setF_keeps (by assumption)))
    · refine Keeps.ite (fun _ => ?_) (fun _ => ?_)
      · exact setF_keeps (by assumption)
      · assumption

theorem resetRegs_keeps {r₀ : State} {s : State} (h₀ : Keeps r₀ s) : Keeps r₀ (resetRegs s) :=
  h₀.trans ⟨rfl, le_refl _, id, fun _ => rfl, fun x => ⟨x.2, x.2⟩, id, List.prefix_refl _, fun _ h => h⟩

theorem keepFields_keeps {r₀ : State} {b : Nat} {fs : List Field} {old : State} {s : State} (h₀ : Keeps r₀ s)
    : Keeps r₀ (keepFields b fs old s) := by
  unfold keepFields
  refine Keeps.foldl ?_ (fun _ _ _ => ?_)
  · assumption
  · exact setF_keeps (by assumption)

theorem clearDevice_keeps {r₀ : State} {s : State} (h₀ : Keeps r₀ s) : Keeps r₀ (clearDevice s) :=
  resetRegs_keeps (h₀.trans ⟨rfl, le_refl _, id, id, id, fun _ c => Nat.zero_le _, List.prefix_refl _, fun _ h => h⟩)

theorem noteRepairs_keeps {r₀ : State} {rows : List Nat} {s : State} (h₀ : Keeps r₀ s) : Keeps r₀ (noteRepairs
    rows s) := by
  unfold noteRepairs
  refine Keeps.foldl ?_ (fun _ _ _ => ?_)
  · with_reducible refine Keeps.upd ?_ (Nat.le_refl _) rfl rfl rfl
    assumption
  · exact journal_keeps (by assumption)

theorem destroyKeys_keeps {r₀ : State} {s : State} (h₀ : Keeps r₀ s) : Keeps r₀ (destroyKeys s) := by
  unfold destroyKeys
  refine Keeps.foldl ?_ (fun _ _ _ => ?_)
  · assumption
  · refine Keeps.ite (fun _ => ?_) (fun _ => ?_)
    · exact keyDestroy_keeps (by assumption)
    · assumption

theorem teardown_keeps {r₀ : State} {s : State} (h₀ : Keeps r₀ s) : Keeps r₀ (teardown s) := by
  unfold teardown
  dsimp only
  apply refreshUnits_keeps
  apply trainMemory_keeps
  apply showRetired_keeps
  refine Keeps.foldl ?_ (fun _ _ _ => ?_)
  · apply keepFields_keeps
    apply showLedger_keeps
    apply clearDevice_keeps
    apply noteRepairs_keeps
    apply loseMemory_keeps
    refine Keeps.foldl ?_ (fun _ _ _ => ?_)
    · refine Keeps.foldl ?_ (fun _ _ _ => ?_)
      · refine Keeps.foldl ?_ (fun _ _ _ => ?_)
        · assumption
        · exact endSession_keeps (by assumption)
      · refine Keeps.ite (fun _ => ?_) (fun _ => ?_)
        · exact keyDestroy_keeps (by assumption)
        · assumption
    · refine Keeps.ite (fun _ => ?_) (fun _ => ?_)
      · exact zeroHeld_keeps (by assumption)
      · assumption
  · exact keepFields_keeps (by assumption)

theorem powerEvent_keeps {r₀ : State} {subtype : Nat} {sc : Scope} {ledger : Bool} {payload : Nat} {s : State}
    (h₀ : Keeps r₀ s) : Keeps r₀ (powerEvent subtype sc ledger payload s) := by
  unfold powerEvent
  dsimp only
  refine Keeps.ite (fun _ => ?_) (fun _ => ?_)
  · exact journal_keeps (raise_keeps (by assumption))
  · exact raise_keeps (by assumption)

theorem closeEpisode_keeps {r₀ : State} {subtype : Nat} {o : Option Episode} {s : State} (h₀ : Keeps r₀ s) : Keeps
    r₀ (closeEpisode subtype o s) := by
  unfold closeEpisode
  split
  · exact powerEvent_keeps (by assumption)
  · assumption

theorem closeEpisodes_keeps {r₀ : State} {s : State} (h₀ : Keeps r₀ s) : Keeps r₀ (closeEpisodes s) := by
  unfold closeEpisodes
  dsimp only
  apply closeEpisode_keeps
  apply closeEpisode_keeps
  apply closeEpisode_keeps
  with_reducible refine Keeps.upd ?_ (Nat.le_refl _) rfl rfl rfl
  assumption

theorem grantFloors_keeps {r₀ : State} {s : State} (h₀ : Keeps r₀ s) : Keeps r₀ (grantFloors s) := by
  unfold grantFloors
  refine Keeps.foldl ?_ (fun _ _ _ => ?_)
  · assumption
  · dsimp only
    apply setF_keeps
    with_reducible refine Keeps.upd ?_ (Nat.le_refl _) rfl rfl rfl
    assumption

theorem stopSteps_keeps {r₀ : State} {cause : Nat} {s : State} (h₀ : Keeps r₀ s) : Keeps r₀ (stopSteps cause s) := by
  unfold stopSteps
  dsimp only
  apply commitAll_keeps
  apply journal_keeps
  apply destroyKeys_keeps
  apply powerEvent_keeps
  apply closeEpisodes_keeps
  refine Keeps.foldl ?_ (fun _ _ _ => ?_)
  · refine Keeps.foldl ?_ (fun _ _ _ => ?_)
    · exact grantFloors_keeps (setF_keeps (setF_keeps (by assumption)))
    · exact setF_keeps (by assumption)
  · refine Keeps.ite (fun _ => ?_) (fun _ => ?_)
    · exact ownCause_keeps (by assumption)
    · assumption

theorem railsOff_keeps {r₀ : State} {supply : Supply} {s : State} (h₀ : Keeps r₀ s) : Keeps r₀ (railsOff supply
    s) := by
  unfold railsOff
  dsimp only
  with_reducible refine Keeps.upd ?_ (Nat.le_refl _) rfl rfl rfl
  exact drivePerst_keeps (showLedger_keeps (clearDevice_keeps (loseMemory_keeps (by assumption))))

theorem deadToHost_keeps {r₀ : State} {s : State} (h₀ : Keeps r₀ s) : Keeps r₀ (deadToHost s) := by
  unfold deadToHost
  exact setF_keeps (keepFields_keeps (railsOff_keeps (by assumption)))

theorem orderlyStop_keeps {r₀ : State} {cause : Nat} {s : State} (h₀ : Keeps r₀ s) : Keeps r₀ (orderlyStop cause
    s) := by
  unfold orderlyStop
  split
  · dsimp only
    with_reducible refine Keeps.upd ?_ (Nat.le_refl _) rfl rfl rfl
    exact stopSteps_keeps (by assumption)
  · assumption

theorem stopEnds_keeps {r₀ : State} {s : State} (h₀ : Keeps r₀ s) : Keeps r₀ (stopEnds s) := by
  unfold stopEnds
  split
  · refine Keeps.ite (fun _ => ?_) (fun _ => ?_)
    · refine Keeps.ite (fun _ => ?_) (fun _ => ?_)
      · exact deadToHost_keeps (by assumption)
      · exact railsOff_keeps (by assumption)
    · assumption
  · assumption

theorem takeBaseline_keeps {r₀ : State} {delays : List Nat} {s : State} (h₀ : Keeps r₀ s) : Keeps r₀ (takeBaseline
    delays s) := by
  unfold takeBaseline
  refine Keeps.ite (fun _ => ?_) (fun _ => ?_)
  · assumption
  · apply journal_keeps
    with_reducible refine Keeps.upd ?_ (Nat.le_refl _) rfl rfl rfl
    assumption

theorem sampleStraps_keeps {r₀ : State} {slot : Nat} {feed : Nat} {s : State} (h₀ : Keeps r₀ s)
    : Keeps r₀ (sampleStraps slot feed s) := by
  unfold sampleStraps
  dsimp only
  apply setPerm_keeps
  refine Keeps.foldl ?_ (fun _ _ _ => ?_)
  · exact setPerm_keeps (setPerm_keeps (by assumption))
  · exact setPerm_keeps (by assumption)

theorem powerOn_keeps {r₀ : State} {slot : Nat} {feed : Nat} {modules : List Module} {spares : List Nat} {delays :
    List Nat} {s : State} (h₀ : Keeps r₀ s) : Keeps r₀ (powerOn slot feed modules spares delays s) := by
  unfold powerOn
  dsimp only
  refine Keeps.ite (fun _ => ?_) (fun _ => ?_)
  · apply refreshUnits_keeps
    apply trainMemory_keeps
    apply showRetired_keeps
    refine Keeps.foldl ?_ (fun _ _ _ => ?_)
    · with_reducible refine Keeps.upd ?_ (Nat.le_refl _) rfl rfl rfl
      apply startImages_keeps
      apply takeBaseline_keeps
      apply sampleStraps_keeps
      with_reducible refine Keeps.upd ?_ (Nat.le_refl _) rfl rfl rfl
      exact drivePerst_keeps (showLedger_keeps (clearDevice_keeps (loseMemory_keeps (by assumption))))
    · exact setF_keeps (by assumption)
  · apply deadToHost_keeps
    apply startImages_keeps
    apply takeBaseline_keeps
    apply sampleStraps_keeps
    with_reducible refine Keeps.upd ?_ (Nat.le_refl _) rfl rfl rfl
    exact drivePerst_keeps (showLedger_keeps (clearDevice_keeps (loseMemory_keeps (by assumption))))

theorem execPowerOn_keeps {r₀ t₀ : State} {slot : BitVec 5} {feed : BitVec 4} {modules : List Module} {reads :
    DieReads} {s : State} (h₀ : Keeps r₀ s) (e₀ : execPowerOn slot feed modules reads s = .next t₀) : Keeps r₀
    t₀ := by
  unfold execPowerOn at e₀
  obtain rfl := Host.Outcome.next.inj e₀
  split
  · refine Keeps.ite (fun _ => ?_) (fun _ => ?_)
    · exact powerOn_keeps (by assumption)
    · assumption
  · assumption

theorem showLink_keeps {r₀ : State} {s : State} (h₀ : Keeps r₀ s) : Keeps r₀ (showLink s) := by
  unfold showLink
  refine Keeps.ite (fun _ => ?_) (fun _ => ?_)
  · assumption
  · exact setF_keeps (setF_keeps (setF_keeps (by assumption)))

theorem execPerstDeassert_keeps {r₀ t₀ : State} {speed : BitVec 4} {width : BitVec 5} {flit : Bool} {s : State}
    (h₀ : Keeps r₀ s) (e₀ : execPerstDeassert speed width flit s = .next t₀) : Keeps r₀ t₀ := by
  unfold execPerstDeassert at e₀
  obtain rfl := Host.Outcome.next.inj e₀
  split
  · dsimp only
    refine Keeps.ite (fun _ => ?_) (fun _ => ?_)
    · with_reducible refine Keeps.upd ?_ (Nat.le_refl _) rfl rfl rfl
      assumption
    · apply setF_keeps
      apply setF_keeps
      apply setF_keeps
      with_reducible refine Keeps.upd ?_ (Nat.le_refl _) rfl rfl rfl
      assumption
  · with_reducible refine Keeps.upd ?_ (Nat.le_refl _) rfl rfl rfl
    assumption

theorem deviceReset_keeps {r₀ : State} {cause : Nat} {s : State} (h₀ : Keeps r₀ s) : Keeps r₀ (deviceReset cause
    s) := by
  unfold deviceReset
  dsimp only
  refine Keeps.ite (fun _ => ?_) (fun _ => ?_)
  · split
    · refine Keeps.snd ?_ (by assumption)
      apply startImages_keeps
      refine Keeps.ite (fun _ => ?_) (fun _ => ?_)
      · apply showLink_keeps
        with_reducible refine Keeps.upd ?_ (Nat.le_refl _) rfl rfl rfl
        refine Keeps.ite (fun _ => ?_) (fun _ => ?_)
        · exact teardown_keeps (journal_keeps (by assumption))
        · exact keepFields_keeps (teardown_keeps (journal_keeps (by assumption)))
      · with_reducible refine Keeps.upd ?_ (Nat.le_refl _) rfl rfl rfl
        refine Keeps.ite (fun _ => ?_) (fun _ => ?_)
        · exact teardown_keeps (journal_keeps (by assumption))
        · exact keepFields_keeps (teardown_keeps (journal_keeps (by assumption)))
    · apply deadToHost_keeps
      refine Keeps.snd ?_ (by assumption)
      apply startImages_keeps
      refine Keeps.ite (fun _ => ?_) (fun _ => ?_)
      · apply showLink_keeps
        with_reducible refine Keeps.upd ?_ (Nat.le_refl _) rfl rfl rfl
        refine Keeps.ite (fun _ => ?_) (fun _ => ?_)
        · exact teardown_keeps (journal_keeps (by assumption))
        · exact keepFields_keeps (teardown_keeps (journal_keeps (by assumption)))
      · with_reducible refine Keeps.upd ?_ (Nat.le_refl _) rfl rfl rfl
        refine Keeps.ite (fun _ => ?_) (fun _ => ?_)
        · exact teardown_keeps (journal_keeps (by assumption))
        · exact keepFields_keeps (teardown_keeps (journal_keeps (by assumption)))
  · refine Keeps.ite (fun _ => ?_) (fun _ => ?_)
    · apply showLink_keeps
      with_reducible refine Keeps.upd ?_ (Nat.le_refl _) rfl rfl rfl
      refine Keeps.ite (fun _ => ?_) (fun _ => ?_)
      · exact teardown_keeps (journal_keeps (by assumption))
      · exact keepFields_keeps (teardown_keeps (journal_keeps (by assumption)))
    · with_reducible refine Keeps.upd ?_ (Nat.le_refl _) rfl rfl rfl
      refine Keeps.ite (fun _ => ?_) (fun _ => ?_)
      · exact teardown_keeps (journal_keeps (by assumption))
      · exact keepFields_keeps (teardown_keeps (journal_keeps (by assumption)))

theorem execDeviceReset_keeps {r₀ t₀ : State} {c : ResetCause} {s : State} (h₀ : Keeps r₀ s) (e₀ :
    execDeviceReset c s = .next t₀) : Keeps r₀ t₀ := by
  unfold execDeviceReset at e₀
  obtain rfl := Host.Outcome.next.inj e₀
  split
  · refine Keeps.ite (fun _ => ?_) (fun _ => ?_)
    · with_reducible refine Keeps.upd ?_ (Nat.le_refl _) rfl rfl rfl
      assumption
    · apply deviceReset_keeps
      with_reducible refine Keeps.upd ?_ (Nat.le_refl _) rfl rfl rfl
      assumption
  · exact deviceReset_keeps (by assumption)
  · refine Keeps.ite (fun _ => ?_) (fun _ => ?_)
    · assumption
    · exact deviceReset_keeps (by assumption)
  · assumption

theorem linksUp_keeps {r₀ : State} {s : State} (h₀ : Keeps r₀ s) : Keeps r₀ (linksUp s) := by
  unfold linksUp
  dsimp only
  apply setF_keeps
  refine Keeps.ite (fun _ => ?_) (fun _ => ?_)
  · refine Keeps.foldl ?_ (fun _ _ _ => ?_)
    · assumption
    · exact setF_keeps (setF_keeps (setF_keeps (by assumption)))
  · apply setF_keeps
    refine Keeps.foldl ?_ (fun _ _ _ => ?_)
    · assumption
    · exact setF_keeps (setF_keeps (setF_keeps (by assumption)))

theorem execResetReady_keeps {r₀ t₀ : State} {s : State} (h₀ : Keeps r₀ s) (e₀ : execResetReady s = .next t₀)
    : Keeps r₀ t₀ := by
  unfold execResetReady at e₀
  obtain rfl := Host.Outcome.next.inj e₀
  split
  · refine Keeps.ite (fun _ => ?_) (fun _ => ?_)
    · dsimp only
      with_reducible refine Keeps.upd ?_ (Nat.le_refl _) rfl rfl rfl
      exact setF_keeps (setF_keeps (linksUp_keeps (raiseFloors_keeps (by assumption))))
    · assumption
  · assumption

/-! ### Repair -/

theorem portDown_keeps {r₀ : State} {v : Nat} {s : State} (h₀ : Keeps r₀ s) : Keeps r₀ (portDown v s) := by
  unfold portDown
  refine Keeps.foldl ?_ (fun _ _ _ => ?_)
  · assumption
  · exact laneDown_keeps (by assumption)

theorem execD2dLinkLoss_keeps {r₀ t₀ : State} {l : LinkLoss} {s : State} (h₀ : Keeps r₀ s) (e₀ :
    execD2dLinkLoss l s = .next t₀) : Keeps r₀ t₀ := by
  unfold execD2dLinkLoss at e₀
  obtain rfl := Host.Outcome.next.inj e₀
  refine Keeps.ite (fun _ => ?_) (fun _ => ?_)
  · assumption
  · refine Keeps.ite (fun _ => ?_) (fun _ => ?_)
    · exact repairLink_keeps (by assumption)
    · dsimp only
      refine Keeps.ite (fun _ => ?_) (fun _ => ?_)
      · refine Keeps.foldl ?_ (fun _ _ _ => ?_)
        · exact loseLink_keeps (loseRequests_keeps (by assumption))
        · exact portDown_keeps (by assumption)
      · exact loseLink_keeps (loseRequests_keeps (by assumption))

theorem fenceSlice_keeps {r₀ : State} {i : Nat} {s : State} (h₀ : Keeps r₀ s) : Keeps r₀ (fenceSlice i s) := by
  unfold fenceSlice
  exact remapCache_keeps (loseRange_keeps (setF_keeps (dropLines_keeps (by assumption))))

theorem fenceLane_keeps {r₀ : State} {l : Nat} {s : State} (h₀ : Keeps r₀ s) : Keeps r₀ (fenceLane l s) := by
  unfold fenceLane
  apply laneDown_keeps
  with_reducible refine Keeps.upd ?_ (Nat.le_refl _) rfl rfl rfl
  assumption

theorem fenceUnit_keeps {r₀ : State} {u : Nat} {s : State} (h₀ : Keeps r₀ s) : Keeps r₀ (fenceUnit u s) := by
  unfold fenceUnit
  refine Keeps.ite (fun _ => ?_) (fun _ => ?_)
  · assumption
  · refine Keeps.ite (fun _ => ?_) (fun _ => ?_)
    · exact repairNote_keeps (markFenced_keeps (fenceLane_keeps (by assumption)))
    · split
      · exact fenceCroft_keeps (by assumption)
      · exact fenceHamlet_keeps (by assumption)
      · exact repairNote_keeps (markFenced_keeps (setF_keeps (portDown_keeps (by assumption))))
      · exact fenceChannel_keeps (by assumption)
      · exact repairNote_keeps (markFenced_keeps (fenceSlice_keeps (by assumption)))
      · refine Keeps.foldl ?_ (fun _ _ _ => ?_)
        · exact fenceE1_keeps (by assumption)
        · exact portDown_keeps (by assumption)

theorem portReset_keeps {r₀ : State} {u : Nat} {on : Bool} {s : State} (h₀ : Keeps r₀ s) : Keeps r₀ (portReset u
    on s) := by
  unfold portReset
  refine Keeps.ite (fun _ => ?_) (fun _ => ?_)
  · exact drivePerst_keeps (by assumption)
  · assumption

theorem returnChannel_keeps {r₀ : State} {u : Nat} {s : State} (h₀ : Keeps r₀ s) : Keeps r₀ (returnChannel u s) := by
  unfold returnChannel
  dsimp only
  apply refreshMap_keeps
  apply showOnline_keeps
  refine Keeps.foldl ?_ (fun _ _ _ => ?_)
  · exact portReset_keeps (setF_keeps (setF_keeps (by assumption)))
  · split
    · refine Keeps.ite (fun _ => ?_) (fun _ => ?_)
      · exact trainModule_keeps (by assumption)
      · assumption
    · refine Keeps.ite (fun _ => ?_) (fun _ => ?_)
      · exact trainModule_keeps (by assumption)
      · assumption

theorem forgetAlone_keeps {r₀ : State} {c : Nat} {s : State} (h₀ : Keeps r₀ s) : Keeps r₀ (forgetAlone c s) := by
  unfold forgetAlone
  with_reducible refine Keeps.upd ?_ (Nat.le_refl _) rfl rfl rfl
  assumption

theorem returnCroft_keeps {r₀ : State} {c : Nat} {state : Nat} {s : State} (h₀ : Keeps r₀ s) : Keeps r₀ (returnCroft
    c state s) := by
  unfold returnCroft
  refine Keeps.ite (fun _ => ?_) (fun _ => ?_)
  · assumption
  · dsimp only
    exact setSlotState_keeps (setF_keeps (setF_keeps (setF_keeps (forgetAlone_keeps (by assumption)))))

theorem freeCroft_keeps {r₀ : State} {c : Nat} {s : State} (h₀ : Keeps r₀ s) : Keeps r₀ (freeCroft c s) := by
  unfold freeCroft
  dsimp only
  split
  · apply returnCroft_keeps
    refine Keeps.ite (fun _ => ?_) (fun _ => ?_)
    · exact exchangeSlots_keeps (by assumption)
    · assumption
  · exact returnCroft_keeps (by assumption)

theorem returnE1_keeps {r₀ : State} {s : State} (h₀ : Keeps r₀ s) : Keeps r₀ (returnE1 s) := by
  unfold returnE1
  dsimp only
  refine Keeps.foldl ?_ (fun _ _ _ => ?_)
  · refine Keeps.foldl ?_ (fun _ _ _ => ?_)
    · exact setF_keeps (setF_keeps (by assumption))
    · refine Keeps.ite (fun _ => ?_) (fun _ => ?_)
      · assumption
      · exact returnChannel_keeps (by assumption)
  · refine Keeps.ite (fun _ => ?_) (fun _ => ?_)
    · assumption
    · exact setF_keeps (setF_keeps (by assumption))

theorem returnUnit_keeps {r₀ : State} {u : Nat} {s : State} (h₀ : Keeps r₀ s) : Keeps r₀ (returnUnit u s) := by
  unfold returnUnit
  refine Keeps.ite (fun _ => ?_) (fun _ => ?_)
  · assumption
  · refine Keeps.ite (fun _ => ?_) (fun _ => ?_)
    · with_reducible refine Keeps.upd ?_ (Nat.le_refl _) rfl rfl rfl
      assumption
    · split
      · exact refreshUnits_keeps (keepMap_keeps (freeCroft_keeps (by assumption)))
      · dsimp only
        apply refreshUnits_keeps
        apply keepMap_keeps
        refine Keeps.foldl ?_ (fun _ _ _ => ?_)
        · exact setF_keeps (setF_keeps (setF_keeps (setF_keeps (setF_keeps (setF_keeps (by assumption))))))
        · refine Keeps.ite (fun _ => ?_) (fun _ => ?_)
          · assumption
          · exact returnCroft_keeps (by assumption)
      · exact setF_keeps (setF_keeps (by assumption))
      · exact returnChannel_keeps (by assumption)
      · dsimp only
        apply remapCache_keeps
        with_reducible refine Keeps.upd ?_ (Nat.le_refl _) rfl rfl rfl
        exact setF_keeps (setF_keeps (by assumption))
      · exact returnE1_keeps (by assumption)

theorem retireUnit_keeps {r₀ : State} {u : Nat} {s : State} (h₀ : Keeps r₀ s) : Keeps r₀ (retireUnit u s) := by
  unfold retireUnit
  dsimp only
  have hr : Keeps r₀ (repairNote u 3 2 (addF bRepair F.REP_RETIRED 1 (forgetAlone (u - 32)
      { s with reeve := { s.reeve with retired := s.reeve.retired ++ [u] } }))) :=
    repairNote_keeps (addF_keeps (forgetAlone_keeps (Keeps.retire h₀)))
  refine Keeps.ite (fun _ => hr) (fun _ => ?_)
  split
  · exact refreshUnits_keeps (keepMap_keeps (setSlotState_keeps (setF_keeps (setF_keeps (setF_keeps hr)))))
  · exact refreshUnits_keeps (setF_keeps (setF_keeps hr))

theorem repResult_keeps {r₀ : State} {v : Nat} {s : State} (h₀ : Keeps r₀ s) : Keeps r₀ (repResult v s) := by
  unfold repResult
  exact setF_keeps (by assumption)

theorem repairAction_keeps {r₀ : State} {kind : Nat} {index : Nat} {action : Nat} {s : State} (h₀ : Keeps r₀ s) :
    Keeps r₀ (repairAction kind index action s) := by
  unfold repairAction
  split
  · exact repResult_keeps (by assumption)
  · refine Keeps.ite (fun _ => ?_) (fun _ => ?_)
    · exact repResult_keeps (by assumption)
    · refine Keeps.ite (fun _ => ?_) (fun _ => ?_)
      · refine Keeps.ite (fun _ => ?_) (fun _ => ?_)
        · exact repResult_keeps (by assumption)
        · refine Keeps.ite (fun _ => ?_) (fun _ => ?_)
          · exact repResult_keeps (returnUnit_keeps (by assumption))
          · assumption
      · refine Keeps.ite (fun _ => ?_) (fun _ => ?_)
        · exact repResult_keeps (by assumption)
        · dsimp only
          refine Keeps.ite (fun _ => ?_) (fun _ => ?_)
          · apply portReset_keeps
            apply setF_keeps
            with_reducible refine Keeps.upd ?_ (Nat.le_refl _) rfl rfl rfl
            exact repResult_keeps (fenceUnit_keeps (by assumption))
          · exact repResult_keeps (fenceUnit_keeps (by assumption))

theorem execSelfTestDone_keeps {r₀ t₀ : State} {u : UnitId} {pass : Bool} {s : State} (h₀ : Keeps r₀ s)
    (e₀ : execSelfTestDone u pass s = .next t₀) : Keeps r₀ t₀ := by
  unfold execSelfTestDone at e₀
  obtain rfl := Host.Outcome.next.inj e₀
  dsimp only at e₀
  refine Keeps.ite (fun _ => ?_) (fun _ => ?_)
  · dsimp only
    refine Keeps.ite (fun _ => ?_) (fun _ => ?_)
    · apply repResult_keeps
      apply setF_keeps
      with_reducible refine Keeps.upd ?_ (Nat.le_refl _) rfl rfl rfl
      refine Keeps.ite (fun _ => ?_) (fun _ => ?_)
      · apply repairNote_keeps
        apply addF_keeps
        apply returnUnit_keeps
        with_reducible refine Keeps.upd ?_ (Nat.le_refl _) rfl rfl rfl
        assumption
      · apply retireUnit_keeps
        with_reducible refine Keeps.upd ?_ (Nat.le_refl _) rfl rfl rfl
        assumption
    · refine Keeps.ite (fun _ => ?_) (fun _ => ?_)
      · apply repairNote_keeps
        apply addF_keeps
        apply returnUnit_keeps
        with_reducible refine Keeps.upd ?_ (Nat.le_refl _) rfl rfl rfl
        assumption
      · apply retireUnit_keeps
        with_reducible refine Keeps.upd ?_ (Nat.le_refl _) rfl rfl rfl
        assumption
  · assumption

theorem unitError_keeps {r₀ : State} {c : Nat} {d : Nat} {s : State} (h₀ : Keeps r₀ s) : Keeps r₀ (unitError c d s) := by
  unfold unitError
  split
  · exact failTask_keeps (by assumption)
  · dsimp only
    exact raise_keeps (setF_keeps (setF_keeps (setF_keeps (by assumption))))

theorem execCroftFence_keeps {r₀ t₀ : State} {o : FenceOrder} {s : State} (h₀ : Keeps r₀ s)
    (e₀ : execCroftFence o s = .next t₀) : Keeps r₀ t₀ := by
  unfold execCroftFence at e₀
  obtain rfl := Host.Outcome.next.inj e₀
  apply fenceCroft_keeps
  split
  · refine Keeps.ite (fun _ => ?_) (fun _ => ?_)
    · assumption
    · exact unitError_keeps (by assumption)
  · assumption

theorem copyField_keeps {r₀ : State} {src : Nat} {dst : Nat} {f : Field} {s : State} (h₀ : Keeps r₀ s)
    : Keeps r₀ (copyField src dst f s) := by
  unfold copyField
  refine Keeps.foldl ?_ (fun _ _ _ => ?_)
  · assumption
  · exact setF_keeps (by assumption)

theorem startSpare_keeps {r₀ : State} {c : Nat} {s : State} (h₀ : Keeps r₀ s) : Keeps r₀ (startSpare c s) := by
  unfold startSpare
  refine Keeps.ite (fun _ => ?_) (fun _ => ?_)
  · exact setF_keeps (by assumption)
  · exact discard_keeps (by assumption)

theorem execSpareRampDone_keeps {r₀ t₀ : State} {c : CroftId} {restore : List Desc} {s : State} (h₀ : Keeps r₀
    s) (e₀ : execSpareRampDone c restore s = .next t₀) : Keeps r₀ t₀ := by
  unfold execSpareRampDone at e₀
  obtain rfl := Host.Outcome.next.inj e₀
  split
  · assumption
  · refine Keeps.ite (fun _ => ?_) (fun _ => ?_)
    · dsimp only
      apply substitutionNote_keeps
      split
      · apply updPart_keeps
        apply startSpare_keeps
        apply setF_keeps
        apply setF_keeps
        refine Keeps.foldl ?_ (fun _ _ _ => ?_)
        · with_reducible refine Keeps.upd ?_ (Nat.le_refl _) rfl rfl rfl
          assumption
        · exact copyField_keeps (by assumption)
      · apply startSpare_keeps
        apply setF_keeps
        apply setF_keeps
        refine Keeps.foldl ?_ (fun _ _ _ => ?_)
        · with_reducible refine Keeps.upd ?_ (Nat.le_refl _) rfl rfl rfl
          assumption
        · exact copyField_keeps (by assumption)
    · assumption

end Sys2Proof.Machine
end

