-- ==== Sys2Proof/Laws/KeepsMill.lean ====
section
/-!
SUPPORT. Every definition of the model that makes a state keeps what Keeps names: parity, votes, the mill and completion. One lemma each, so
that a proof about a command cites its lemma and unfolds nothing.
-/
namespace Sys2Proof.Machine

/-! ### Parity -/

theorem askSegs_keeps {r₀ : State} {p : Nat} {o : Option (List Byte)} {s : State} (h₀ : Keeps r₀ s) :
    Keeps r₀ (askSegs p o s) := by
  cases o with
  | none => exact h₀
  | some l => exact Keeps.ite (fun _ => mlAsk_keeps h₀) fun _ => h₀

theorem askGroup_keeps {r₀ : State} {p : Nat} {g : Nat} {s : State} (h₀ : Keeps r₀ s) : Keeps r₀ (askGroup p g s) := by
  delta askGroup
  exact askSegs_keeps (mlAsk_keeps h₀)

theorem parityEvent_keeps {r₀ : State} {p : Nat} {subtype : Nat} {g : Nat} {s : State} (h₀ : Keeps r₀ s)
    : Keeps r₀ (parityEvent p subtype g s) := by
  unfold parityEvent
  exact raise_keeps (by assumption)

theorem updPar_keeps {r₀ : State} {p : Nat} {f : Par → Par} {s : State} (h₀ : Keeps r₀ s)
    : Keeps r₀ (updPar p f s) := by
  unfold updPar
  exact updJob_keeps (by assumption)

theorem refuseGroup_keeps {r₀ : State} {p : Nat} {g : Nat} {s : State} (h₀ : Keeps r₀ s) : Keeps r₀ (refuseGroup p g
    s) := by
  unfold refuseGroup
  exact parityEvent_keeps (millFault_keeps (by assumption))

theorem loadGroup_keeps {r₀ : State} {p : Nat} {g : Nat} {l : List Byte} {raw : List Byte} {all : List ParGroup}
    {s : State} (h₀ : Keeps r₀ s) : Keeps r₀ (loadGroup p g l raw all s) := by
  unfold loadGroup
  dsimp only
  refine Keeps.ite (fun _ => ?_) (fun _ => ?_)
  · refine Keeps.ite (fun _ => ?_) (fun _ => ?_)
    · exact journal_keeps (parityEvent_keeps (setMl_keeps (setMl_keeps (updPar_keeps (by assumption)))))
    · refine Keeps.ite (fun _ => ?_) (fun _ => ?_)
      · exact setMl_keeps (setMl_keeps (updPar_keeps (by assumption)))
      · exact setMl_keeps (updPar_keeps (by assumption))
  · exact parityEvent_keeps (millFault_keeps (by assumption))

theorem parityLoad_keeps {r₀ : State} {p : Nat} {s : State} (h₀ : Keeps r₀ s) : Keeps r₀ (parityLoad p s) := by
  unfold parityLoad
  dsimp only
  refine Keeps.foldl ?_ (fun _ _ _ => ?_)
  · apply updPar_keeps
    apply setMl_keeps
    apply setMl_keeps
    refine Keeps.foldl ?_ (fun _ _ _ => ?_)
    · assumption
    · exact askGroup_keeps (by assumption)
  · split
    · exact loadGroup_keeps (by assumption)
    · exact refuseGroup_keeps (by assumption)
    · assumption

theorem execParityLoad_keeps {r₀ t₀ : State} {p : PartId} {s : State} (h₀ : Keeps r₀ s)
    (e₀ : execParityLoad p s = .next t₀) : Keeps r₀ t₀ := by
  unfold execParityLoad at e₀
  obtain rfl := Host.Outcome.next.inj e₀
  refine Keeps.ite (fun _ => ?_) (fun _ => ?_)
  · exact parityLoad_keeps (by assumption)
  · assumption

theorem statusWrite_keeps {r₀ : State} {p : Nat} {g : Nat} {off : Nat} {n : Nat} {v : Nat} {s : State} (h₀
    : Keeps r₀ s) : Keeps r₀ (statusWrite p g off n v s) := by
  unfold statusWrite
  refine Keeps.getD ?_ (fun _ e₀ => ?_)
  · assumption
  · refine mlWrite_keeps ?_ (by assumption)
    assumption

theorem askStatus_keeps {r₀ : State} {p : Nat} {g : Nat} {s : State} (h₀ : Keeps r₀ s) : Keeps r₀ (askStatus p g s) := by
  unfold askStatus
  exact mlAsk_keeps (by assumption)

theorem zeroRange_keeps {r₀ : State} {p a n : Nat} {s : State} (h₀ : Keeps r₀ s) : Keeps r₀ (zeroRange p a n s) := by
  unfold zeroRange
  refine Keeps.ite (fun _ => ?_) (fun _ => Keeps.getD h₀ fun _ e => mlWrite_keeps h₀ e)
  exact (mlAsk_keeps h₀).updMem (Nat.le_refl _) (mapWf_filter _ _ _)

theorem refreshClearing_keeps {r₀ : State} {p : Nat} {s : State} (h₀ : Keeps r₀ s)
    : Keeps r₀ (refreshClearing p s) := by
  unfold refreshClearing
  exact setMl_keeps (by assumption)

theorem startZeroing_keeps {r₀ : State} {p : Nat} {s : State} (h₀ : Keeps r₀ s) : Keeps r₀ (startZeroing p s) := by
  unfold startZeroing
  dsimp only
  apply refreshClearing_keeps
  apply updPar_keeps
  refine Keeps.foldl ?_ (fun _ _ _ => ?_)
  · assumption
  · exact zeroRange_keeps (statusWrite_keeps (statusWrite_keeps (mlAsk_keeps (by assumption))))

theorem execHolderZeroDone_keeps {r₀ t₀ : State} {p : PartId} {s : State} (h₀ : Keeps r₀ s)
    (e₀ : execHolderZeroDone p s = .next t₀) : Keeps r₀ t₀ := by
  unfold execHolderZeroDone at e₀
  obtain rfl := Host.Outcome.next.inj e₀
  refine Keeps.ite (fun _ => ?_) (fun _ => ?_)
  · assumption
  · dsimp only
    apply refreshClearing_keeps
    apply updPar_keeps
    refine Keeps.foldl ?_ (fun _ _ _ => ?_)
    · assumption
    · exact statusWrite_keeps (by assumption)

theorem computeInterval_keeps {r₀ : State} {p : Nat} {s : State} (h₀ : Keeps r₀ s)
    : Keeps r₀ (computeInterval p s) := by
  unfold computeInterval
  dsimp only
  exact setMl_keeps (setMl_keeps (by assumption))

theorem roundCost_keeps {r₀ : State} {p : Nat} {s : State} (h₀ : Keeps r₀ s) : Keeps r₀ (roundCost p s).2 := by
  unfold roundCost
  split
  · with_reducible assumption
  · split
    dsimp only
    refine Keeps.snd (fresh_keeps ?_) (by assumption)
    assumption
  · split
    dsimp only
    refine Keeps.snd (fresh_keeps ?_) (by assumption)
    assumption

theorem validateRound_keeps {r₀ : State} {p : Nat} {step : Nat} {s : State} (h₀ : Keeps r₀ s)
    : Keeps r₀ (validateRound p step s) := by
  unfold validateRound
  dsimp only
  apply computeInterval_keeps
  apply addF_keeps
  apply updPar_keeps
  apply setMl_keeps
  apply roundCost_keeps
  refine Keeps.foldl ?_ (fun _ _ _ => ?_)
  · assumption
  · refine Keeps.ite (fun _ => ?_) (fun _ => ?_)
    · exact statusWrite_keeps (statusWrite_keeps (by assumption))
    · exact statusWrite_keeps (statusWrite_keeps (by assumption))

theorem parityCommit_keeps {r₀ : State} {p : Nat} {step : Nat} {next : Bool} {s : State} (h₀ : Keeps r₀ s)
    : Keeps r₀ (parityCommit p step next s) := by
  unfold parityCommit
  dsimp only
  refine Keeps.ite (fun _ => ?_) (fun _ => ?_)
  · apply startZeroing_keeps
    apply updPar_keeps
    apply setMl_keeps
    refine Keeps.ite (fun _ => ?_) (fun _ => ?_)
    · exact validateRound_keeps (updPar_keeps (by assumption))
    · exact updPar_keeps (by assumption)
  · refine Keeps.ite (fun _ => ?_) (fun _ => ?_)
    · exact validateRound_keeps (updPar_keeps (by assumption))
    · exact updPar_keeps (by assumption)

theorem addFailure_keeps {r₀ : State} {p : Nat} {s : State} (h₀ : Keeps r₀ s) : Keeps r₀ (addFailure p s) := by
  unfold addFailure
  exact addF_keeps (by assumption)

theorem failAdd_keeps {r₀ : State} {p : Nat} {s : State} (h₀ : Keeps r₀ s) : Keeps r₀ (failAdd p s) := by
  unfold failAdd
  exact computeInterval_keeps (addFailure_keeps (by assumption))

theorem rebuildClear_keeps {r₀ : State} {p : Nat} {s : State} (h₀ : Keeps r₀ s) : Keeps r₀ (rebuildClear p s) := by
  unfold rebuildClear
  exact refreshClearing_keeps (updPar_keeps (zeroRange_keeps (by assumption)))

theorem execRebuildClearDone_keeps {r₀ t₀ : State} {p : PartId} {s : State} (h₀ : Keeps r₀ s)
    (e₀ : execRebuildClearDone p s = .next t₀) : Keeps r₀ t₀ := by
  unfold execRebuildClearDone at e₀
  obtain rfl := Host.Outcome.next.inj e₀
  exact refreshClearing_keeps (updPar_keeps (by assumption))

theorem parRange_keeps  {d : Desc} {base : Nat} {n : Nat} : TKeeps (parRange d base n : TM Unit) := by
  unfold parRange
  refine TKeeps.bind ?_ (fun _ => ?_)
  · apply tCheck_keeps
  · apply tCheck_keeps

theorem sendFolds_keeps  {x : TCtx} {dst : Nat} {off : Nat} {l : List Byte}
    : TKeeps (sendFolds x dst off l : TM PUnit.{1}) := by
  unfold sendFolds
  refine TKeeps.forM (fun _ => ?_)
  refine tTry_keeps (fun _ _ _ _ _ => ?_) ?_
  · refine sendPeer_keeps ?_ (by assumption)
    assumption
  · apply tFault_keeps

theorem parityRound_keeps {d : Desc} {x : TCtx} : TKeeps (parityRound d x : TM Unit) := by
  unfold parityRound
  refine TKeeps.bind ?_ (fun _ => ?_)
  · exact TKeeps.get
  · split
    · exact tFault_keeps
    · refine TKeeps.bind ?_ (fun _ => ?_)
      · exact tCheck_keeps
      · dsimp only
        refine TKeeps.bind ?_ (fun _ => ?_)
        · exact parRange_keeps
        · refine TKeeps.bind ?_ (fun _ => ?_)
          · refine tUpd_keeps (fun _ _ _ => ?_)
            exact askStatus_keeps (by assumption)
          · refine TKeeps.ite (fun _ => ?_) (fun _ => ?_)
            · refine TKeeps.bind ?_ (fun _ => ?_)
              · refine tUpd_keeps (fun _ _ _ => ?_)
                exact mlAsk_keeps (by assumption)
              · refine TKeeps.ite (fun _ => ?_) (fun _ => ?_)
                · refine TKeeps.bind ?_ (fun _ => ?_)
                  · exact TKeeps.pure _
                  · refine TKeeps.bind ?_ (fun _ => ?_)
                    · refine tUpd_keeps (fun _ _ _ => ?_)
                      exact statusWrite_keeps (by assumption)
                    · refine TKeeps.bind ?_ (fun _ => ?_)
                      · exact tWrite_keeps
                      · refine TKeeps.bind ?_ (fun _ => ?_)
                        · refine TKeeps.forM (fun _ => ?_)
                          exact sendFolds_keeps
                        · refine tUpd_keeps (fun _ _ _ => ?_)
                          exact markWorked_keeps (by assumption)
                · refine TKeeps.bind ?_ (fun _ => ?_)
                  · exact tRead_keeps
                  · refine TKeeps.bind ?_ (fun _ => ?_)
                    · refine tUpd_keeps (fun _ _ _ => ?_)
                      exact statusWrite_keeps (by assumption)
                    · refine TKeeps.bind ?_ (fun _ => ?_)
                      · exact tWrite_keeps
                      · refine TKeeps.bind ?_ (fun _ => ?_)
                        · refine TKeeps.forM (fun _ => ?_)
                          exact sendFolds_keeps
                        · refine tUpd_keeps (fun _ _ _ => ?_)
                          exact markWorked_keeps (by assumption)
            · refine TKeeps.ite (fun _ => ?_) (fun _ => ?_)
              · refine TKeeps.bind ?_ (fun _ => ?_)
                · exact TKeeps.pure _
                · refine TKeeps.bind ?_ (fun _ => ?_)
                  · refine tUpd_keeps (fun _ _ _ => ?_)
                    exact statusWrite_keeps (by assumption)
                  · refine TKeeps.bind ?_ (fun _ => ?_)
                    · exact tWrite_keeps
                    · refine TKeeps.bind ?_ (fun _ => ?_)
                      · refine TKeeps.forM (fun _ => ?_)
                        exact sendFolds_keeps
                      · refine tUpd_keeps (fun _ _ _ => ?_)
                        exact markWorked_keeps (by assumption)
              · refine TKeeps.bind ?_ (fun _ => ?_)
                · exact tRead_keeps
                · refine TKeeps.bind ?_ (fun _ => ?_)
                  · refine tUpd_keeps (fun _ _ _ => ?_)
                    exact statusWrite_keeps (by assumption)
                  · refine TKeeps.bind ?_ (fun _ => ?_)
                    · exact tWrite_keeps
                    · refine TKeeps.bind ?_ (fun _ => ?_)
                      · refine TKeeps.forM (fun _ => ?_)
                        exact sendFolds_keeps
                      · refine tUpd_keeps (fun _ _ _ => ?_)
                        exact markWorked_keeps (by assumption)

theorem rebuildSend_keeps  {x : TCtx} {g : ParGroup} {k : Nat} {off : Nat} {bytes : List Byte}
    : TKeeps (rebuildSend x g k off bytes : TM Unit) := by
  unfold rebuildSend
  dsimp only
  refine TKeeps.ite (fun _ => ?_) (fun _ => ?_)
  · refine tUpd_keeps (fun _ _ _ => ?_)
    exact markWorked_keeps (by assumption)
  · refine TKeeps.bind ?_ (fun _ => ?_)
    · apply sendFolds_keeps
    · refine tUpd_keeps (fun _ _ _ => ?_)
      exact markWorked_keeps (by assumption)

theorem rebuildFromCopy_keeps  {d : Desc} {x : TCtx} {g : ParGroup} {k : Nat} {c : Nat}
    : TKeeps (rebuildFromCopy d x g k c : TM Unit) := by
  unfold rebuildFromCopy
  refine TKeeps.bind ?_ (fun _ => ?_)
  · apply tCheck_keeps
  · refine TKeeps.bind ?_ (fun _ => ?_)
    · apply parRange_keeps
    · refine TKeeps.bind ?_ (fun _ => ?_)
      · apply tRead_keeps
      · apply rebuildSend_keeps

theorem rebuildFromSnap_keeps  {d : Desc} {x : TCtx} {g : ParGroup} {k : Nat} {ok : Bool}
    : TKeeps (rebuildFromSnap d x g k ok : TM Unit) := by
  unfold rebuildFromSnap
  refine TKeeps.bind ?_ (fun _ => ?_)
  · apply tCheck_keeps
  · refine TKeeps.bind ?_ (fun _ => ?_)
    · apply tCheck_keeps
    · refine TKeeps.bind ?_ (fun _ => ?_)
      · apply parRange_keeps
      · refine TKeeps.bind ?_ (fun _ => ?_)
        · apply tRead_keeps
        · apply rebuildSend_keeps

theorem rebuildGroup_keeps {d : Desc} {x : TCtx} {g : ParGroup} {s : State} : TKeeps (rebuildGroup d x g s : TM
    Unit) := by
  unfold rebuildGroup
  refine TKeeps.bind ?_ (fun _ => ?_)
  · exact tCheck_keeps
  · refine TKeeps.bind ?_ (fun _ => ?_)
    · refine tUpd_keeps (fun _ _ _ => ?_)
      exact askStatus_keeps (by assumption)
    · split
      · exact tFault_keeps
      · refine TKeeps.ite (fun _ => ?_) (fun _ => ?_)
        · split
          · refine TKeeps.bind ?_ (fun _ => ?_)
            · exact tCheck_keeps
            · refine TKeeps.bind ?_ (fun _ => ?_)
              · exact tCheck_keeps
              · refine tUpd_keeps (fun _ _ _ => ?_)
                exact markWorked_keeps (by assumption)
          · exact rebuildFromCopy_keeps
        · exact rebuildFromSnap_keeps

theorem rebuildLoaded_keeps  {d : Desc} {x : TCtx} {o : Option ParGroup} {s : State}
    : TKeeps (rebuildLoaded d x o s : TM Unit) := by
  unfold rebuildLoaded
  split
  · apply tFault_keeps
  · apply rebuildGroup_keeps

theorem parityRebuild_keeps  {d : Desc} {x : TCtx} : TKeeps (parityRebuild d x : TM Unit) := by
  unfold parityRebuild
  refine TKeeps.bind ?_ (fun _ => ?_)
  · exact TKeeps.get
  · apply rebuildLoaded_keeps

theorem execParityRound_keeps {r₀ t₀ : State} {c : CroftId} {s : State} (h₀ : Keeps r₀ s)
    (e₀ : execParityRound c s = .next t₀) : Keeps r₀ t₀ := by
  unfold execParityRound at e₀
  obtain rfl := Host.Outcome.next.inj e₀
  split
  · refine Keeps.ite (fun _ => ?_) (fun _ => ?_)
    · apply runTask_keeps
      · assumption
      · intro _
        apply parityRound_keeps
    · assumption
  · assumption

theorem execParityRebuild_keeps {r₀ t₀ : State} {c : CroftId} {s : State} (h₀ : Keeps r₀ s)
    (e₀ : execParityRebuild c s = .next t₀) : Keeps r₀ t₀ := by
  unfold execParityRebuild at e₀
  obtain rfl := Host.Outcome.next.inj e₀
  split
  · refine Keeps.ite (fun _ => ?_) (fun _ => ?_)
    · apply runTask_keeps
      · assumption
      · intro _
        apply parityRebuild_keeps
    · assumption
  · assumption

/-! ### Votes -/

theorem setEpoch_keeps {r₀ : State} {p : Nat} {step : Nat} {attempt : Nat} {s : State} (h₀ : Keeps r₀ s)
    : Keeps r₀ (setEpoch p step attempt s) := by
  unfold setEpoch
  dsimp only
  exact setMl_keeps (updJob_keeps (by assumption))

theorem sendVerdict_keeps {r₀ : State} {p : Nat} {dst : Nat} {v : Verd} {preferB : Bool} {s : State} (h₀
    : Keeps r₀ s) : Keeps r₀ (sendVerdict p dst v preferB s) := by
  unfold sendVerdict
  exact sendPacket_keeps (by assumption)

theorem countVerdict_keeps {r₀ : State} {kind : Nat} {s : State} (h₀ : Keeps r₀ s)
    : Keeps r₀ (countVerdict kind s) := by
  unfold countVerdict
  exact addF_keeps (by assumption)

theorem takeVerdict_keeps {r₀ : State} {p : Nat} {v : Verd} {s : State} (h₀ : Keeps r₀ s)
    : Keeps r₀ (takeVerdict p v s) := by
  unfold takeVerdict
  dsimp only
  apply stewardVerdict_keeps
  refine Keeps.ite (fun _ => ?_) (fun _ => ?_)
  · apply setEpoch_keeps
    refine Keeps.ite (fun _ => ?_) (fun _ => ?_)
    · apply addFailure_keeps
      refine Keeps.ite (fun _ => ?_) (fun _ => ?_)
      · apply parityCommit_keeps
        apply updJob_keeps
        apply countVerdict_keeps
        apply setMl_keeps
        apply setMl_keeps
        refine Keeps.foldl ?_ (fun _ _ _ => ?_)
        · assumption
        · exact sendVerdict_keeps (by assumption)
      · apply updJob_keeps
        apply countVerdict_keeps
        apply setMl_keeps
        apply setMl_keeps
        refine Keeps.foldl ?_ (fun _ _ _ => ?_)
        · assumption
        · exact sendVerdict_keeps (by assumption)
    · refine Keeps.ite (fun _ => ?_) (fun _ => ?_)
      · apply parityCommit_keeps
        apply updJob_keeps
        apply countVerdict_keeps
        apply setMl_keeps
        apply setMl_keeps
        refine Keeps.foldl ?_ (fun _ _ _ => ?_)
        · assumption
        · exact sendVerdict_keeps (by assumption)
      · apply updJob_keeps
        apply countVerdict_keeps
        apply setMl_keeps
        apply setMl_keeps
        refine Keeps.foldl ?_ (fun _ _ _ => ?_)
        · assumption
        · exact sendVerdict_keeps (by assumption)
  · refine Keeps.ite (fun _ => ?_) (fun _ => ?_)
    · apply addFailure_keeps
      refine Keeps.ite (fun _ => ?_) (fun _ => ?_)
      · apply parityCommit_keeps
        apply updJob_keeps
        apply countVerdict_keeps
        apply setMl_keeps
        apply setMl_keeps
        refine Keeps.foldl ?_ (fun _ _ _ => ?_)
        · assumption
        · exact sendVerdict_keeps (by assumption)
      · apply updJob_keeps
        apply countVerdict_keeps
        apply setMl_keeps
        apply setMl_keeps
        refine Keeps.foldl ?_ (fun _ _ _ => ?_)
        · assumption
        · exact sendVerdict_keeps (by assumption)
    · refine Keeps.ite (fun _ => ?_) (fun _ => ?_)
      · apply parityCommit_keeps
        apply updJob_keeps
        apply countVerdict_keeps
        apply setMl_keeps
        apply setMl_keeps
        refine Keeps.foldl ?_ (fun _ _ _ => ?_)
        · assumption
        · exact sendVerdict_keeps (by assumption)
      · apply updJob_keeps
        apply countVerdict_keeps
        apply setMl_keeps
        apply setMl_keeps
        refine Keeps.foldl ?_ (fun _ _ _ => ?_)
        · assumption
        · exact sendVerdict_keeps (by assumption)

theorem newVerdict_keeps {r₀ : State} {p : Nat} {v : Verd} {s : State} (h₀ : Keeps r₀ s)
    : Keeps r₀ (newVerdict p v s) := by
  unfold newVerdict
  refine Keeps.ite (fun _ => ?_) (fun _ => ?_)
  · assumption
  · exact takeVerdict_keeps (by assumption)

theorem settleRoot_keeps {r₀ : State} {p n : Nat} {s : State} (h₀ : Keeps r₀ s) : Keeps r₀ (settleRoot p n s) := by
  induction n generalizing s with
  | zero => exact h₀
  | succ n ih =>
    unfold settleRoot
    split
    · with_reducible apply ih
      exact takeVerdict_keeps (by assumption)
    · assumption

theorem noteRoot_keeps {r₀ : State} {p : Nat} {s : State} (h₀ : Keeps r₀ s) : Keeps r₀ (noteRoot p s) := by
  unfold noteRoot
  dsimp only
  refine Keeps.ite (fun _ => ?_) (fun _ => ?_)
  · exact updEp_keeps (by assumption)
  · assumption

theorem settle_keeps {r₀ : State} {p : Nat} {s : State} (h₀ : Keeps r₀ s) : Keeps r₀ (settle p s) := by
  unfold settle
  exact noteRoot_keeps (settleRoot_keeps (by assumption))

theorem execMalformedPacket_keeps {r₀ t₀ : State} {s : State} (h₀ : Keeps r₀ s)
    (e₀ : execMalformedPacket s = .next t₀) : Keeps r₀ t₀ := by
  unfold execMalformedPacket at e₀
  obtain rfl := Host.Outcome.next.inj e₀
  split
  · assumption
  · apply settle_keeps
    apply badPacket_keeps
    refine takeInbox_keeps ?_ (by assumption)
    assumption

theorem childVote_keeps {r₀ : State} {p : Nat} {step : Nat} {attempt : Nat} {k : Packet} {s : State} (h₀
    : Keeps r₀ s) : Keeps r₀ (childVote p step attempt k s) := by
  unfold childVote
  dsimp only
  refine Keeps.ite (fun _ => ?_) (fun _ => ?_)
  · assumption
  · refine Keeps.ite (fun _ => ?_) (fun _ => ?_)
    · exact updEp_keeps (by assumption)
    · refine Keeps.ite (fun _ => ?_) (fun _ => ?_)
      · exact voteRepeat_keeps (updEp_keeps (by assumption))
      · assumption

theorem takeVote_keeps {r₀ : State} {p : Nat} {step : Nat} {attempt : Nat} {k : Packet} {port : Option Nat} {current :
    Bool} {s : State} (h₀ : Keeps r₀ s) : Keeps r₀ (takeVote p step attempt k port current s) := by
  unfold takeVote
  dsimp only
  split
  · apply sendVerdict_keeps
    refine Keeps.ite (fun _ => ?_) (fun _ => ?_)
    · assumption
    · exact updJob_keeps (by assumption)
  · refine Keeps.ite (fun _ => ?_) (fun _ => ?_)
    · apply childVote_keeps
      refine Keeps.ite (fun _ => ?_) (fun _ => ?_)
      · assumption
      · exact updJob_keeps (by assumption)
    · apply stalePacket_keeps
      refine Keeps.ite (fun _ => ?_) (fun _ => ?_)
      · assumption
      · exact updJob_keeps (by assumption)

theorem execVote_keeps {r₀ t₀ : State} {s : State} (h₀ : Keeps r₀ s) (e₀ : execVote s = .next t₀) : Keeps r₀ t₀ := by
  unfold execVote at e₀
  obtain rfl := Host.Outcome.next.inj e₀
  split
  · assumption
  · apply settle_keeps
    split
    · apply takeVote_keeps
      refine takeKindAt_keeps ?_ (by assumption)
      assumption
    · apply takeVote_keeps
      refine takeKindAt_keeps ?_ (by assumption)
      assumption
    · apply badPacket_keeps
      refine takeKindAt_keeps ?_ (by assumption)
      assumption

theorem execVoteReadySend_keeps {r₀ t₀ : State} {p : PartId} {s : State} (h₀ : Keeps r₀ s)
    (e₀ : execVoteReadySend p s = .next t₀) : Keeps r₀ t₀ := by
  unfold execVoteReadySend at e₀
  obtain rfl := Host.Outcome.next.inj e₀
  dsimp only at e₀
  refine Keeps.ite (fun _ => ?_) (fun _ => ?_)
  · assumption
  · refine Keeps.ite (fun _ => ?_) (fun _ => ?_)
    · exact settle_keeps (workFailed_keeps (by assumption))
    · refine Keeps.ite (fun _ => ?_) (fun _ => ?_)
      · assumption
      · refine Keeps.ite (fun _ => ?_) (fun _ => ?_)
        · exact noteRoot_keeps (by assumption)
        · refine Keeps.ite (fun _ => ?_) (fun _ => ?_)
          · exact settle_keeps (takeVerdict_keeps (by assumption))
          · exact sendVote_keeps (updEp_keeps (by assumption))

theorem execVerdict_keeps {r₀ t₀ : State} {s : State} (h₀ : Keeps r₀ s) (e₀ : execVerdict s = .next t₀)
    : Keeps r₀ t₀ := by
  unfold execVerdict at e₀
  obtain rfl := Host.Outcome.next.inj e₀
  split
  · assumption
  · apply settle_keeps
    split
    · refine Keeps.ite (fun _ => ?_) (fun _ => ?_)
      · refine takeKind_keeps ?_ (by assumption)
        assumption
      · apply newVerdict_keeps
        refine takeKind_keeps ?_ (by assumption)
        assumption
    · apply stalePacket_keeps
      refine takeKind_keeps ?_ (by assumption)
      assumption
    · apply badPacket_keeps
      refine takeKind_keeps ?_ (by assumption)
      assumption

theorem takeQuery_keeps {r₀ : State} {p : Nat} {step : Nat} {attempt : Nat} {k : Packet} {port : Option Nat} {current :
    Bool} {s : State} (h₀ : Keeps r₀ s) : Keeps r₀ (takeQuery p step attempt k port current s) := by
  unfold takeQuery
  split
  · exact sendVerdict_keeps (by assumption)
  · refine Keeps.ite (fun _ => ?_) (fun _ => ?_)
    · exact stalePacket_keeps (by assumption)
    · refine Keeps.ite (fun _ => ?_) (fun _ => ?_)
      · assumption
      · exact sendPacket_keeps (by assumption)

theorem execQuery_keeps {r₀ t₀ : State} {s : State} (h₀ : Keeps r₀ s) (e₀ : execQuery s = .next t₀) : Keeps r₀
    t₀ := by
  unfold execQuery at e₀
  obtain rfl := Host.Outcome.next.inj e₀
  split
  · assumption
  · apply settle_keeps
    split
    · apply takeQuery_keeps
      refine takeKindAt_keeps ?_ (by assumption)
      assumption
    · apply takeQuery_keeps
      refine takeKindAt_keeps ?_ (by assumption)
      assumption
    · apply badPacket_keeps
      refine takeKindAt_keeps ?_ (by assumption)
      assumption

theorem execRootVerdictTimeout_keeps {r₀ t₀ : State} {p : PartId} {s : State} (h₀ : Keeps r₀ s)
    (e₀ : execRootVerdictTimeout p s = .next t₀) : Keeps r₀ t₀ := by
  unfold execRootVerdictTimeout at e₀
  obtain rfl := Host.Outcome.next.inj e₀
  dsimp only at e₀
  split
  · assumption
  · refine Keeps.ite (fun _ => ?_) (fun _ => ?_)
    · exact settle_keeps (takeVerdict_keeps (by assumption))
    · assumption

theorem execVerdictWaitTimeout_keeps {r₀ t₀ : State} {p : PartId} {s : State} (h₀ : Keeps r₀ s)
    (e₀ : execVerdictWaitTimeout p s = .next t₀) : Keeps r₀ t₀ := by
  unfold execVerdictWaitTimeout at e₀
  obtain rfl := Host.Outcome.next.inj e₀
  split
  · assumption
  · dsimp only
    refine Keeps.ite (fun _ => ?_) (fun _ => ?_)
    · exact sendVote_keeps (updEp_keeps (by assumption))
    · exact sendPacket_keeps (updEp_keeps (by assumption))

theorem execVerdictLost_keeps {r₀ t₀ : State} {p : PartId} {s : State} (h₀ : Keeps r₀ s)
    (e₀ : execVerdictLost p s = .next t₀) : Keeps r₀ t₀ := by
  unfold execVerdictLost at e₀
  obtain rfl := Host.Outcome.next.inj e₀
  split
  · assumption
  · exact stopCommits_keeps (linkEvent_keeps (updEp_keeps (by assumption)))

theorem writeReady_keeps {r₀ : State} {p : Nat} {s : State} (h₀ : Keeps r₀ s) : Keeps r₀ (writeReady p s) := by
  unfold writeReady
  dsimp only
  refine Keeps.ite (fun _ => ?_) (fun _ => ?_)
  · exact settle_keeps (updEp_keeps (by assumption))
  · assumption

theorem writeRepeat_keeps {r₀ : State} {p : Nat} {reason : Nat} {s : State} (h₀ : Keeps r₀ s)
    : Keeps r₀ (writeRepeat p reason s) := by
  unfold writeRepeat
  dsimp only
  exact settle_keeps (ownCause_keeps (by assumption))

theorem execLocalReady_keeps {r₀ t₀ : State} {p : PartId} {s : State} (h₀ : Keeps r₀ s)
    (e₀ : execLocalReady p s = .next t₀) : Keeps r₀ t₀ := by
  unfold execLocalReady at e₀
  obtain rfl := Host.Outcome.next.inj e₀
  refine Keeps.ite (fun _ => ?_) (fun _ => ?_)
  · exact writeReady_keeps (by assumption)
  · assumption

theorem execLocalRepeat_keeps {r₀ t₀ : State} {p : PartId} {s : State} (h₀ : Keeps r₀ s)
    (e₀ : execLocalRepeat p s = .next t₀) : Keeps r₀ t₀ := by
  unfold execLocalRepeat at e₀
  obtain rfl := Host.Outcome.next.inj e₀
  split
  · exact writeRepeat_keeps (by assumption)
  · assumption

theorem startJob_keeps {r₀ : State} {p : Nat} {s : State} (h₀ : Keeps r₀ s) : Keeps r₀ (startJob p s) := by
  unfold startJob
  dsimp only
  exact setEpoch_keeps (updJob_keeps (updPart_keeps (by assumption)))

theorem refreshJobs_keeps {r₀ : State} {s : State} (h₀ : Keeps r₀ s) : Keeps r₀ (refreshJobs s) := by
  unfold refreshJobs
  exact setF_keeps (by assumption)

theorem writeJobEnable_keeps {r₀ : State} {p : Nat} {v : Nat} {s : State} (h₀ : Keeps r₀ s)
    : Keeps r₀ (writeJobEnable p v s) := by
  unfold writeJobEnable
  dsimp only
  refine Keeps.ite (fun _ => ?_) (fun _ => ?_)
  · exact startJob_keeps (refreshJobs_keeps (setMl_keeps (by assumption)))
  · exact refreshJobs_keeps (setMl_keeps (by assumption))

/-! ### Mill -/

theorem askEntries_keeps {r₀ : State} {p : Nat} {g : Plan} {at_ : Nat × Nat} {count : Nat} {s : State} (h₀ : Keeps r₀ s)
    : Keeps r₀ (askEntries p g at_ count s) := by
  unfold askEntries
  refine Keeps.ite (fun _ => ?_) (fun _ => ?_)
  · exact mlAsk_keeps (by assumption)
  · exact mlAsk_keeps (mlAsk_keeps (by assumption))

theorem askSlot_keeps {r₀ : State} {p : Nat} {g : Plan} {at_ : Nat × Nat} {s : State} (h₀ : Keeps r₀ s) : Keeps r₀
    (askSlot p g at_ s) := by
  unfold askSlot
  exact askEntries_keeps (mlAsk_keeps (by assumption))

theorem writeSlot_keeps {r₀ : State} {t₀ : State} {p : Nat} {g : Plan} {at_ : Nat × Nat} {head : List Byte} {es :
    Entries} {s : State} (h₀ : Keeps r₀ s) (e₀ : writeSlot p g at_ head es s = some t₀) : Keeps r₀ t₀ := by
  refine OKeeps.of (π := id) ?_ e₀
  unfold writeSlot
  dsimp only
  refine OKeeps.ite (fun _ => ?_) (fun _ => ?_)
  · refine OKeeps.bindS ?_ (fun _ _ => ?_)
    · refine OKeeps.bindS ?_ (fun _ _ => ?_)
      · refine OKeeps.some ?_
        dsimp only [id]
        assumption
      · refine fun _ e => mlWrite_keeps ?_ e
        assumption
    · refine fun _ e => mlWrite_keeps ?_ e
      assumption
  · refine OKeeps.bindS ?_ (fun _ _ => ?_)
    · refine OKeeps.bindS ?_ (fun _ _ => ?_)
      · refine OKeeps.bindS ?_ (fun _ _ => ?_)
        · refine OKeeps.some ?_
          dsimp only [id]
          assumption
        · refine fun _ e => mlWrite_keeps ?_ e
          assumption
      · refine fun _ e => mlWrite_keeps ?_ e
        assumption
    · refine fun _ e => mlWrite_keeps ?_ e
      assumption

theorem askRanks_keeps {r₀ : State} {p : Nat} {g : Plan} {check : Bool} {b : Nat} {s : State} (h₀ : Keeps r₀ s) :
    Keeps r₀ (askRanks p g check b s) := by
  unfold askRanks
  refine Keeps.foldl ?_ (fun _ _ _ => ?_)
  · assumption
  · exact askSlot_keeps (by assumption)

/-- The state after a contribution that was stored. -/
def keptOf : Stored → Option State
  | .kept _ t => some t
  | _ => none

theorem storeContrib_keeps {r₀ t₀ : State} {p : Nat} {g : Plan} {check : Bool} {b rank step attempt n : Nat}
    {es : Entries} {s : State} (h₀ : Keeps r₀ s)
    (e₀ : storeContrib p g check b rank step attempt es s = .kept n t₀) : Keeps r₀ t₀ := by
  refine OKeeps.of (π := id) (o := keptOf (storeContrib p g check b rank step attempt es s)) ?_ (by rw [e₀]; rfl)
  unfold storeContrib
  generalize slotHead b rank step attempt _ _ = head
  dsimp only
  repeat' split
  all_goals first
    | exact OKeeps.none
    | exact OKeeps.some (writeHalf_keeps (writeSlot_keeps h₀ (by assumption)) (by assumption))

theorem writeReduced_keeps {r₀ : State} {t₀ : State} {p : Nat} {g : Plan} {b : Nat} {step : Nat} {attempt : Nat} {es :
    Entries} {s : State} (h₀ : Keeps r₀ s) (e₀ : writeReduced p g b step attempt es s = some t₀) : Keeps r₀ t₀ := by
  refine OKeeps.of (π := id) ?_ e₀
  unfold writeReduced
  split
  dsimp only
  refine OKeeps.ite (fun _ => ?_) (fun _ => ?_)
  · refine fun _ e => mlWrite_keeps ?_ e
    assumption
  · refine OKeeps.bindS ?_ (fun _ _ => ?_)
    · refine OKeeps.bindS ?_ (fun _ _ => ?_)
      · refine fun _ e => mlWrite_keeps ?_ e
        assumption
      · refine fun _ e => mlWrite_keeps ?_ e
        assumption
    · refine fun _ e => mlWrite_keeps ?_ e
      assumption

theorem askDigest_keeps {r₀ : State} {p : Nat} {g : Plan} {member : Bool} {b : Nat} {step : Nat} {s : State} (h₀ :
    Keeps r₀ s) : Keeps r₀ (askDigest p g member b step s) := by
  unfold askDigest
  refine Keeps.ite (fun _ => ?_) (fun _ => ?_)
  · exact askRec_keeps (by assumption)
  · exact mlAsk_keeps (by assumption)

theorem compareDigest_keeps {r₀ : State} {t₀ : State} {p : Nat} {g : Plan} {d : Dig} {s : State} (h₀ : Keeps r₀ s)
    (e₀ : compareDigest p g d s = some t₀) : Keeps r₀ t₀ := by
  refine OKeeps.of (π := id) ?_ e₀
  unfold compareDigest
  dsimp only
  split
  · refine OKeeps.ite (fun _ => ?_) (fun _ => ?_)
    · split
      · exact OKeeps.none
      · refine OKeeps.ite (fun _ => ?_) (fun _ => ?_)
        · refine OKeeps.some ?_
          dsimp only [id]
          apply addF_keeps
          refine writeHalf_keeps ?_ (by assumption)
          exact askRec_keeps (askDigest_keeps (by assumption))
        · refine OKeeps.bind (fun _ _ => ?_)
          refine fun _ e => mlWrite_keeps ?_ e
          apply mlAsk_keeps
          apply addF_keeps
          refine writeHalf_keeps ?_ (by assumption)
          exact askRec_keeps (askDigest_keeps (by assumption))
    · refine OKeeps.some ?_
      dsimp only [id]
      exact ownCause_keeps (linkEvent_keeps (addF_keeps (askRec_keeps (askDigest_keeps (by assumption)))))
  · exact OKeeps.none

theorem returnBucket_keeps {r₀ : State} {p : Nat} {g : Plan} {b : Nat} {step : Nat} {attempt : Nat} {es : Entries}
    {s : State} (h₀ : Keeps r₀ s) : Keeps r₀ (returnBucket p g b step attempt es s) := by
  unfold returnBucket
  refine Keeps.foldl ?_ (fun _ _ _ => ?_)
  · assumption
  · refine Keeps.ite (fun _ => ?_) (fun _ => ?_)
    · assumption
    · split
      · refine Keeps.snd (sendPacket_keeps ?_) (by assumption)
        assumption
      · apply addF_keeps
        refine Keeps.snd (sendPacket_keeps ?_) (by assumption)
        assumption

theorem formReduced_keeps {r₀ : State} {t₀ : State} {p : Nat} {g : Plan} {b : Nat} {step : Nat} {attempt : Nat} {s :
    State} (h₀ : Keeps r₀ s) (e₀ : formReduced p g b step attempt s = some t₀) : Keeps r₀ t₀ := by
  refine OKeeps.of (π := id) ?_ e₀
  unfold formReduced
  dsimp only
  split
  · exact OKeeps.none
  · split
    · split
      · exact OKeeps.none
      · split
        · refine OKeeps.some ?_
          dsimp only [id]
          refine Keeps.ite (fun _ => ?_) (fun _ => ?_)
          · apply returnBucket_keeps
            apply addF_keeps
            refine writeHalf_keeps ?_ (by assumption)
            refine writeReduced_keeps ?_ (by assumption)
            exact askRec_keeps (askRanks_keeps (by assumption))
          · apply addF_keeps
            refine writeHalf_keeps ?_ (by assumption)
            refine writeReduced_keeps ?_ (by assumption)
            exact askRec_keeps (askRanks_keeps (by assumption))
        · refine fun _ e => compareDigest_keeps ?_ e
          apply updJob_keeps
          refine Keeps.ite (fun _ => ?_) (fun _ => ?_)
          · apply returnBucket_keeps
            apply addF_keeps
            refine writeHalf_keeps ?_ (by assumption)
            refine writeReduced_keeps ?_ (by assumption)
            exact askRec_keeps (askRanks_keeps (by assumption))
          · apply addF_keeps
            refine writeHalf_keeps ?_ (by assumption)
            refine writeReduced_keeps ?_ (by assumption)
            exact askRec_keeps (askRanks_keeps (by assumption))
    · exact OKeeps.none

theorem formDigest_keeps {r₀ : State} {t₀ : State} {p : Nat} {g : Plan} {b : Nat} {step : Nat} {attempt : Nat} {s :
    State} (h₀ : Keeps r₀ s) (e₀ : formDigest p g b step attempt s = some t₀) : Keeps r₀ t₀ := by
  refine OKeeps.of (π := id) ?_ e₀
  unfold formDigest
  dsimp only
  split
  · split
    · refine OKeeps.some ?_
      dsimp only [id]
      refine Keeps.snd ?_ (by assumption)
      exact sendPacket_keeps (askRec_keeps (askRanks_keeps (by assumption)))
    · refine fun _ e => writeHalf_keeps ?_ e
      refine Keeps.snd ?_ (by assumption)
      exact sendPacket_keeps (askRec_keeps (askRanks_keeps (by assumption)))
  · exact OKeeps.none

theorem askContrib_keeps {r₀ : State} {p : Nat} {g : Plan} {check : Bool} {b : Nat} {rank : Nat} {s : State} (h₀ :
    Keeps r₀ s) : Keeps r₀ (askContrib p g check b rank s) := by
  unfold askContrib
  exact askSlot_keeps (askRec_keeps (by assumption))

theorem afterStore_keeps {r₀ : State} {p : Nat} {g : Plan} {check : Bool} {b : Nat} {step : Nat} {attempt : Nat}
    {n : Nat} {s : State} (h₀ : Keeps r₀ s) : Keeps r₀ (afterStore p g check b step attempt n s) := by
  unfold afterStore
  dsimp only
  refine Keeps.ite (fun _ => ?_) (fun _ => ?_)
  · refine Keeps.getD ?_ (fun _ e₀ => ?_)
    · exact workFailed_keeps (addF_keeps (by assumption))
    · split at e₀
      · refine formDigest_keeps ?_ (by assumption)
        exact addF_keeps (by assumption)
      · refine formReduced_keeps ?_ (by assumption)
        exact addF_keeps (by assumption)
  · exact addF_keeps (by assumption)

theorem differingCopy_keeps {r₀ : State} {p : Nat} {b : Nat} {rank : Nat} {step : Nat} {attempt : Nat} {s : State}
    (h₀ : Keeps r₀ s) : Keeps r₀ (differingCopy p b rank step attempt s) := by
  unfold differingCopy
  exact ownCause_keeps (linkEvent_keeps (addF_keeps (by assumption)))

theorem takeContrib_keeps {r₀ : State} {p : Nat} {step : Nat} {attempt : Nat} {k : Packet} {port : Option Nat} {s :
    State} (h₀ : Keeps r₀ s) : Keeps r₀ (takeContrib p step attempt k port s) := by
  unfold takeContrib
  split
  · exact badPacket_keeps (by assumption)
  · dsimp only
    split
    · exact badPacket_keeps (askContrib_keeps (by assumption))
    · exact sendPacket_keeps (addF_keeps (askContrib_keeps (by assumption)))
    · exact differingCopy_keeps (askContrib_keeps (by assumption))
    · apply afterStore_keeps
      apply sendPacket_keeps
      refine storeContrib_keeps ?_ (by assumption)
      exact askContrib_keeps (by assumption)

theorem execContrib_keeps {r₀ t₀ : State} {s : State} (h₀ : Keeps r₀ s) (e₀ : execContrib s = .next t₀) : Keeps
    r₀ t₀ := by
  unfold execContrib at e₀
  obtain rfl := Host.Outcome.next.inj e₀
  split
  · assumption
  · apply settle_keeps
    split
    · apply takeContrib_keeps
      refine takeKindAt_keeps ?_ (by assumption)
      assumption
    · apply stalePacket_keeps
      refine takeKindAt_keeps ?_ (by assumption)
      assumption
    · apply badPacket_keeps
      refine takeKindAt_keeps ?_ (by assumption)
      assumption

theorem execContribAck_keeps {r₀ t₀ : State} {s : State} (h₀ : Keeps r₀ s) (e₀ : execContribAck s = .next t₀)
    : Keeps r₀ t₀ := by
  unfold execContribAck at e₀
  obtain rfl := Host.Outcome.next.inj e₀
  split
  · assumption
  · apply settle_keeps
    split
    · apply updJob_keeps
      refine takeKind_keeps ?_ (by assumption)
      assumption
    · apply stalePacket_keeps
      refine takeKind_keeps ?_ (by assumption)
      assumption
    · apply badPacket_keeps
      refine takeKind_keeps ?_ (by assumption)
      assumption

theorem forgetTask_keeps {r₀ : State} {p : Nat} {croft : Nat} {uid : Nat} {s : State} (h₀ : Keeps r₀ s)
    : Keeps r₀ (forgetTask p croft uid s) := by
  unfold forgetTask
  dsimp only
  refine updCroft_keeps (fun _ => Nat.le_refl _) ?_
  exact updJob_keeps (by assumption)

theorem failExchange_keeps {r₀ : State} {p : Nat} {croft : Nat} {uid : Nat} {code : Nat} {space : Nat} {addr : Nat}
    {s : State} (h₀ : Keeps r₀ s) : Keeps r₀ (failExchange p croft uid code space addr s) := by
  unfold failExchange
  exact forgetTask_keeps (failTask_keeps (by assumption))

theorem execContribAckTimeout_keeps {r₀ t₀ : State} {p : PartId} {s : State} (h₀ : Keeps r₀ s)
    (e₀ : execContribAckTimeout p s = .next t₀) : Keeps r₀ t₀ := by
  unfold execContribAckTimeout at e₀
  obtain rfl := Host.Outcome.next.inj e₀
  split
  · assumption
  · refine Keeps.ite (fun _ => ?_) (fun _ => ?_)
    · exact failExchange_keeps (by assumption)
    · split
      · apply failExchange_keeps
        refine Keeps.snd (sendPacket_keeps ?_) (by assumption)
        assumption
      · dsimp only
        apply addF_keeps
        apply addF_keeps
        apply updJob_keeps
        refine Keeps.snd (sendPacket_keeps ?_) (by assumption)
        assumption

theorem takeReduced_keeps {r₀ : State} {p step attempt : Nat} {k : Packet} {s : State} (h₀ : Keeps r₀ s) :
    Keeps r₀ (takeReduced p step attempt k s) := by
  unfold takeReduced
  dsimp only
  split
  · exact badPacket_keeps h₀
  · next g _ =>
    have ha : Keeps r₀ (askRec p g true (pkArg0 k) s) := askRec_keeps h₀
    split
    · exact badPacket_keeps ha
    · refine Keeps.ite (fun _ => ?_) (fun _ => ?_)
      · have hd := askDigest_keeps (p := p) (g := g) (member := true) (b := pkArg0 k) (step := step) ha
        split
        · exact badPacket_keeps hd
        · exact Keeps.ite (fun _ => addF_keeps hd) (fun _ => differingCopy_keeps hd)
      · split
        · next e =>
          refine OKeeps.of (π := id) (OKeeps.bindS ?_ ?_) e
          · exact fun _ e => writeReduced_keeps ha e
          · exact fun _ h _ e => writeHalf_keeps h e
        · exact badPacket_keeps ha

theorem execReduced_keeps {r₀ t₀ : State} {s : State} (h₀ : Keeps r₀ s) (e₀ : execReduced s = .next t₀)
    : Keeps r₀ t₀ := by
  unfold execReduced at e₀
  obtain rfl := Host.Outcome.next.inj e₀
  split
  · assumption
  · apply settle_keeps
    split
    · apply takeReduced_keeps
      refine takeKind_keeps ?_ (by assumption)
      assumption
    · apply stalePacket_keeps
      refine takeKind_keeps ?_ (by assumption)
      assumption
    · apply badPacket_keeps
      refine takeKind_keeps ?_ (by assumption)
      assumption

theorem takeDigest_keeps {r₀ : State} {p : Nat} {step : Nat} {attempt : Nat} {k : Packet} {s : State} (h₀ : Keeps r₀
    s) : Keeps r₀ (takeDigest p step attempt k s) := by
  unfold takeDigest
  dsimp only
  split
  · exact badPacket_keeps (by assumption)
  · split
    · exact badPacket_keeps (askRec_keeps (by assumption))
    · refine Keeps.ite (fun _ => ?_) (fun _ => ?_)
      · exact askRec_keeps (by assumption)
      · refine Keeps.ite (fun _ => ?_) (fun _ => ?_)
        · refine Keeps.getD ?_ (fun _ e => compareDigest_keeps ?_ e)
          · exact badPacket_keeps (askRec_keeps (by assumption))
          · exact askRec_keeps (by assumption)
        · exact updJob_keeps (askRec_keeps (by assumption))

theorem execDigest_keeps {r₀ t₀ : State} {s : State} (h₀ : Keeps r₀ s) (e₀ : execDigest s = .next t₀)
    : Keeps r₀ t₀ := by
  unfold execDigest at e₀
  obtain rfl := Host.Outcome.next.inj e₀
  split
  · assumption
  · apply settle_keeps
    split
    · apply takeDigest_keeps
      refine takeKind_keeps ?_ (by assumption)
      assumption
    · apply stalePacket_keeps
      refine takeKind_keeps ?_ (by assumption)
      assumption
    · apply badPacket_keeps
      refine takeKind_keeps ?_ (by assumption)
      assumption

theorem answerPeer_keeps {r₀ : State} {p : Nat} {kind : Nat} {k : Packet} {error : Bool} {data : List Byte}
    {s : State} (h₀ : Keeps r₀ s) : Keeps r₀ (answerPeer p kind k error data s) := by
  unfold answerPeer
  exact sendPacket_keeps (by assumption)

theorem windowWrite_keeps {r₀ : State} {p : Nat} {k : Packet} {fold : Bool} {s : State} (h₀ : Keeps r₀ s)
    : Keeps r₀ (windowWrite p k fold s) := by
  unfold windowWrite
  dsimp only
  split
  · exact answerPeer_keeps h₀
  · next a _ =>
    have ha : Keeps r₀ (if fold = true then mlAsk p a 0 (pkData k).length false s else s) :=
      Keeps.ite (fun _ => mlAsk_keeps h₀) (fun _ => h₀)
    split
    · next e =>
      exact answerPeer_keeps (OKeeps.of (π := id) (OKeeps.bind fun _ _ _ e => mlWrite_keeps ha e) e)
    · exact answerPeer_keeps ha

theorem execMwrite_keeps {r₀ t₀ : State} {s : State} (h₀ : Keeps r₀ s) (e₀ : execMwrite s = .next t₀)
    : Keeps r₀ t₀ := by
  unfold execMwrite at e₀
  obtain rfl := Host.Outcome.next.inj e₀
  split
  · assumption
  · apply windowWrite_keeps
    refine takeKind_keeps ?_ (by assumption)
    assumption

theorem execFoldWrite_keeps {r₀ t₀ : State} {s : State} (h₀ : Keeps r₀ s) (e₀ : execFoldWrite s = .next t₀)
    : Keeps r₀ t₀ := by
  unfold execFoldWrite at e₀
  obtain rfl := Host.Outcome.next.inj e₀
  split
  · assumption
  · apply windowWrite_keeps
    refine takeKind_keeps ?_ (by assumption)
    assumption

theorem dropAcc_keeps {r₀ : State} {p : Nat} {x : PeerAcc} {s : State} (h₀ : Keeps r₀ s)
    : Keeps r₀ (dropAcc p x s) := by
  unfold dropAcc
  exact updJob_keeps (by assumption)

theorem servePeer_keeps {r₀ : State} {x : PeerAcc} {s : State} (h₀ : Keeps r₀ s) : Keeps r₀ (servePeer x s) := by
  unfold servePeer
  refine updCroft_keeps (fun _ => Nat.le_refl _) ?_
  assumption

theorem ackWrite_keeps {r₀ : State} {x : PeerAcc} {s : State} (h₀ : Keeps r₀ s) : Keeps r₀ (ackWrite x s) := by
  unfold ackWrite
  dsimp only
  refine updCroft_keeps (fun _ => Nat.le_refl _) ?_
  assumption

theorem execMwriteAck_keeps {r₀ t₀ : State} {s : State} (h₀ : Keeps r₀ s) (e₀ : execMwriteAck s = .next t₀)
    : Keeps r₀ t₀ := by
  unfold execMwriteAck at e₀
  obtain rfl := Host.Outcome.next.inj e₀
  split
  · assumption
  · split
    · refine takeKind_keeps ?_ (by assumption)
      assumption
    · dsimp only
      refine Keeps.ite (fun _ => ?_) (fun _ => ?_)
      · apply failExchange_keeps
        apply servePeer_keeps
        apply dropAcc_keeps
        refine takeKind_keeps ?_ (by assumption)
        assumption
      · refine Keeps.ite (fun _ => ?_) (fun _ => ?_)
        · apply servePeer_keeps
          apply dropAcc_keeps
          refine takeKind_keeps ?_ (by assumption)
          assumption
        · apply ackWrite_keeps
          apply servePeer_keeps
          apply dropAcc_keeps
          refine takeKind_keeps ?_ (by assumption)
          assumption

theorem execMread_keeps {r₀ t₀ : State} {s : State} (h₀ : Keeps r₀ s) (e₀ : execMread s = .next t₀) : Keeps r₀
    t₀ := by
  unfold execMread at e₀
  obtain rfl := Host.Outcome.next.inj e₀
  split
  · assumption
  · dsimp only
    split
    · split
      · apply answerPeer_keeps
        apply mlAsk_keeps
        refine takeKind_keeps ?_ (by assumption)
        assumption
      · apply answerPeer_keeps
        apply mlAsk_keeps
        refine takeKind_keeps ?_ (by assumption)
        assumption
    · apply answerPeer_keeps
      refine takeKind_keeps ?_ (by assumption)
      assumption

theorem deliverRead_keeps {r₀ : State} {x : PeerAcc} {l : List Byte} {s : State} (h₀ : Keeps r₀ s)
    : Keeps r₀ (deliverRead x l s) := by
  unfold deliverRead
  dsimp only
  refine updCroft_keeps (fun _ => Nat.le_refl _) ?_
  assumption

theorem execMreadData_keeps {r₀ t₀ : State} {s : State} (h₀ : Keeps r₀ s) (e₀ : execMreadData s = .next t₀)
    : Keeps r₀ t₀ := by
  unfold execMreadData at e₀
  obtain rfl := Host.Outcome.next.inj e₀
  split
  · assumption
  · split
    · refine takeKind_keeps ?_ (by assumption)
      assumption
    · refine Keeps.ite (fun _ => ?_) (fun _ => ?_)
      · apply failExchange_keeps
        apply servePeer_keeps
        apply dropAcc_keeps
        refine takeKind_keeps ?_ (by assumption)
        assumption
      · refine Keeps.ite (fun _ => ?_) (fun _ => ?_)
        · refine takeKind_keeps ?_ (by assumption)
          assumption
        · apply deliverRead_keeps
          apply servePeer_keeps
          apply dropAcc_keeps
          refine takeKind_keeps ?_ (by assumption)
          assumption

theorem execPeerAccessTimeout_keeps {r₀ t₀ : State} {p : PartId} {s : State} (h₀ : Keeps r₀ s)
    (e₀ : execPeerAccessTimeout p s = .next t₀) : Keeps r₀ t₀ := by
  unfold execPeerAccessTimeout at e₀
  obtain rfl := Host.Outcome.next.inj e₀
  split
  · assumption
  · apply failExchange_keeps
    exact lossRepeat_keeps (servePeer_keeps (dropAcc_keeps (addF_keeps (by assumption))))

theorem installJob_keeps {r₀ : State} {p : Nat} {o : Option (List Nat × List (Option Plan) × SMap Nat)}
    {s : State} (h₀ : Keeps r₀ s) : Keeps r₀ (installJob p o s) := by
  unfold installJob
  split
  · exact updJob_keeps (by assumption)
  · exact millFault_keeps (updJob_keeps (writeJobEnable_keeps (by assumption)))

theorem askPlans_keeps {r₀ : State} {p : Nat} {o : Option (List Byte)} {s : State} (h₀ : Keeps r₀ s) : Keeps r₀
    (askPlans p o s) := by
  unfold askPlans
  split
  · assumption
  · refine Keeps.foldl ?_ (fun _ _ _ => ?_)
    · assumption
    · refine Keeps.ite (fun _ => ?_) (fun _ => ?_)
      · exact mlAsk_keeps (by assumption)
      · assumption

theorem askBlock_keeps {r₀ : State} {p : Nat} {s : State} (h₀ : Keeps r₀ s) : Keeps r₀ (askBlock p s) := by
  unfold askBlock
  dsimp only
  exact askPlans_keeps (mlAsk_keeps (mlAsk_keeps (by assumption)))

theorem reloadJob_keeps {r₀ : State} {p : Nat} {s : State} (h₀ : Keeps r₀ s) : Keeps r₀ (reloadJob p s) := by
  unfold reloadJob
  refine Keeps.ite (fun _ => ?_) (fun _ => ?_)
  · exact installJob_keeps (askBlock_keeps (by assumption))
  · exact installJob_keeps (by assumption)

theorem execReload_keeps {r₀ t₀ : State} {p : PartId} {s : State} (h₀ : Keeps r₀ s)
    (e₀ : execReload p s = .next t₀) : Keeps r₀ t₀ := by
  unfold execReload at e₀
  obtain rfl := Host.Outcome.next.inj e₀
  refine Keeps.ite (fun _ => ?_) (fun _ => ?_)
  · exact reloadJob_keeps (by assumption)
  · assumption

/-! ### Complete -/

theorem humFrom_keeps {r₀ : State} {c : Nat} {s : State} (h₀ : Keeps r₀ s) : Keeps r₀ (humFrom c s) := by
  unfold humFrom
  exact setHum_keeps (by assumption)

theorem haltTraffic_keeps {r₀ : State} {c : Nat} {uid : Nat} {s : State} (h₀ : Keeps r₀ s) : Keeps r₀ (haltTraffic c
    uid s) := by
  unfold haltTraffic
  refine updCroft_keeps (fun _ => Nat.le_refl _) ?_
  assumption

theorem freeAbandoned_keeps {r₀ : State} {c : Nat} {t : Task} {s : State} (h₀ : Keeps r₀ s)
    : Keeps r₀ (freeAbandoned c t s) := by
  unfold freeAbandoned
  dsimp only
  apply humFrom_keeps
  apply endOfTask_keeps
  apply abandonTask_keeps
  split
  · apply forgetTask_keeps
    refine Keeps.ite (fun _ => ?_) (fun _ => ?_)
    · exact setF_keeps (by assumption)
    · assumption
  · refine Keeps.ite (fun _ => ?_) (fun _ => ?_)
    · exact setF_keeps (by assumption)
    · assumption

theorem endingWork_keeps {t : Task} {e : Ending} {x : TCtx} : TKeeps (endingWork t e x : TM Unit) := by
  unfold endingWork
  split
  · exact gzWrite_keeps
  · exact lmWrite_keeps
  · exact TKeeps.pure _

theorem endTask_keeps {r₀ : State} {c : Nat} {t : Task} {e : Ending} {p : Nat} {s : State} (h₀ : Keeps r₀ s) : Keeps
    r₀ (endTask c t e p s) := by
  unfold endTask
  refine Keeps.ite (fun _ => ?_) (fun _ => ?_)
  · exact freeAbandoned_keeps (by assumption)
  · split
    · dsimp only
      apply humFrom_keeps
      apply completeTask_keeps
      refine updCroft_keeps (fun _ => Nat.le_refl _) ?_
      apply namedBefore_keeps
      refine TKeeps.ok ?_ ?_ (by assumption)
      · exact endingWork_keeps
      · assumption
    · exact failTask_keeps (by assumption)
    · exact failTask_keeps (by assumption)
    · exact failTask_keeps (by assumption)
    · assumption

theorem execTaskComplete_keeps {r₀ t₀ : State} {c : CroftId} {u : Fin 7} {s : State} (h₀ : Keeps r₀ s) (e₀ :
    execTaskComplete c u s = .next t₀) : Keeps r₀ t₀ := by
  unfold execTaskComplete at e₀
  obtain rfl := Host.Outcome.next.inj e₀
  split
  · assumption
  · split
    · exact endTask_keeps (by assumption)
    · exact humFrom_keeps (completeTask_keeps (by assumption))

theorem stopAbandoned_keeps {r₀ : State} {c : Nat} {t : Task} {s : State} (h₀ : Keeps r₀ s) : Keeps r₀
    (stopAbandoned c t s) := by
  unfold stopAbandoned
  refine Keeps.ite (fun _ => ?_) (fun _ => ?_)
  · assumption
  · split
    · dsimp only
      refine Keeps.ite (fun _ => ?_) (fun _ => ?_)
      · exact freeAbandoned_keeps (gzAbandon_keeps (by assumption))
      · assumption
    · refine Keeps.ite (fun _ => ?_) (fun _ => ?_)
      · exact freeAbandoned_keeps (lmAbandon_keeps (by assumption))
      · assumption
    · dsimp only
      refine Keeps.ite (fun _ => ?_) (fun _ => ?_)
      · exact haltTraffic_keeps (by assumption)
      · exact freeAbandoned_keeps (haltTraffic_keeps (by assumption))

theorem execAbandonStop_keeps {r₀ t₀ : State} {c : CroftId} {u : Fin 7} {s : State} (h₀ : Keeps r₀ s)
    (e₀ : execAbandonStop c u s = .next t₀) : Keeps r₀ t₀ := by
  unfold execAbandonStop at e₀
  obtain rfl := Host.Outcome.next.inj e₀
  split
  · exact stopAbandoned_keeps (by assumption)
  · assumption

/-! ### SendTile -/

theorem stOwn_keeps {x : TCtx} {d : Desc} : TKeeps (stOwn x d : TM (Bolt × Bolt × Bolt)) := by
  unfold stOwn
  dsimp only
  refine TKeeps.bind ?_ (fun _ => ?_)
  · exact tCheck_keeps
  · refine TKeeps.bind ?_ (fun _ => ?_)
    · exact readBolt_keeps
    · refine TKeeps.bind ?_ (fun _ => ?_)
      · exact readBolt_keeps
      · refine TKeeps.bind ?_ (fun _ => ?_)
        · exact readBolt_keeps
        · refine TKeeps.bind ?_ (fun _ => ?_)
          · exact tCheck_keeps
          · refine TKeeps.bind ?_ (fun _ => ?_)
            · exact stagedOk_keeps
            · refine TKeeps.bind ?_ (fun _ => ?_)
              · exact tCheck_keeps
              · refine TKeeps.bind ?_ (fun _ => ?_)
                · exact tCheck_keeps
                · refine TKeeps.bind ?_ (fun _ => ?_)
                  · exact tCheck_keeps
                  · exact TKeeps.pure _

theorem stStart_keeps  {x : TCtx} {d : Desc} : TKeeps (stStart x d : TM (Option StRun)) := by
  unfold stStart
  refine TKeeps.bind ?_ (fun _ => ?_)
  · apply readBolt?_keeps
  · split
    · apply tFault_keeps
    · refine TKeeps.bind ?_ (fun _ => ?_)
      · apply tCheck_keeps
      · dsimp only
        refine TKeeps.ite (fun _ => ?_) (fun _ => ?_)
        · refine TKeeps.bind ?_ (fun _ => ?_)
          · exact TKeeps.pure _
          · refine TKeeps.bind ?_ (fun _ => ?_)
            · apply tCheck_keeps
            · refine TKeeps.bind ?_ (fun _ => ?_)
              · apply tCheck_keeps
              · refine TKeeps.bind ?_ (fun _ => ?_)
                · exact TKeeps.get
                · split
                  · apply tFault_keeps
                  · refine TKeeps.bind ?_ (fun _ => ?_)
                    · apply tCheck_keeps
                    · refine TKeeps.bind ?_ (fun _ => ?_)
                      · apply tCheck_keeps
                      · refine TKeeps.bind ?_ (fun _ => ?_)
                        · apply tCheck_keeps
                        · refine TKeeps.ite (fun _ => ?_) (fun _ => ?_)
                          · exact TKeeps.pure _
                          · split
                            · refine TKeeps.bind ?_ (fun _ => ?_)
                              · apply tCheck_keeps
                              · refine TKeeps.bind ?_ (fun _ => ?_)
                                · apply tStatsReach_keeps
                                · exact TKeeps.pure _
                            · exact TKeeps.pure _
        · refine TKeeps.bind ?_ (fun _ => ?_)
          · apply stOwn_keeps
          · refine TKeeps.bind ?_ (fun _ => ?_)
            · exact TKeeps.pure _
            · refine TKeeps.bind ?_ (fun _ => ?_)
              · apply tCheck_keeps
              · refine TKeeps.bind ?_ (fun _ => ?_)
                · apply tCheck_keeps
                · refine TKeeps.bind ?_ (fun _ => ?_)
                  · exact TKeeps.get
                  · split
                    · apply tFault_keeps
                    · refine TKeeps.bind ?_ (fun _ => ?_)
                      · apply tCheck_keeps
                      · refine TKeeps.bind ?_ (fun _ => ?_)
                        · apply tCheck_keeps
                        · refine TKeeps.bind ?_ (fun _ => ?_)
                          · apply tCheck_keeps
                          · refine TKeeps.ite (fun _ => ?_) (fun _ => ?_)
                            · exact TKeeps.pure _
                            · split
                              · refine TKeeps.bind ?_ (fun _ => ?_)
                                · apply tCheck_keeps
                                · refine TKeeps.bind ?_ (fun _ => ?_)
                                  · apply tStatsReach_keeps
                                  · exact TKeeps.pure _
                              · exact TKeeps.pure _

theorem stHand_keeps {x : TCtx} {g : Plan} {check : Bool} {b step attempt : Nat} {es : Entries} :
    TKeeps (stHand x g check b step attempt es) := by
  unfold stHand
  refine TKeeps.getBind fun r s h => ?_
  dsimp only
  generalize (if check = true then g.checker b else g.owner b) = rank
  split
  · have ha : Keeps r (askContrib x.part g check b g.rank s) := askContrib_keeps h
    generalize askContrib x.part g check b g.rank s = u at ha ⊢
    generalize e : storeContrib x.part g check b g.rank step attempt es u = w
    cases w with
    | failed => exact tFault_keeps r s h
    | duplicate => exact tUpd_keeps (fun _ _ h => addF_keeps h) r u ha
    | differs => exact tUpd_keeps (fun _ _ h => settle_keeps (differingCopy_keeps h)) r u ha
    | kept n t => exact settle_keeps (afterStore_keeps (storeContrib_keeps ha e))
  · generalize e : sendPacket x.part 1 (g.device rank) (epochOf step attempt) b
      (g.rank + bitOf check * 2 ^ 13 + bitOf g.dense * 2 ^ 15 + countOf g.dense es * 2 ^ 16) (b % 2 ^ 16)
      (entryData g.dense es) check (some (x.croft, x.uid)) s = w
    obtain ⟨w, t⟩ := w
    have ht : Keeps r (addF bMill F.ML_CONTRIBS_SENT 1 t) := addF_keeps (Keeps.snd (sendPacket_keeps h) e)
    cases w with
    | no => exact tFault_keeps r s h
    | _ => exact tUpd_keeps (fun _ _ h => updJob_keeps h) r _ ht

theorem stSend_keeps  {x : TCtx} {g : Plan} {b : Nat} {step : Nat} {attempt : Nat} {es : Entries}
    : TKeeps (stSend x g b step attempt es : TM Unit) := by
  unfold stSend
  refine TKeeps.bind ?_ (fun _ => ?_)
  · apply stHand_keeps
  · refine TKeeps.ite (fun _ => ?_) (fun _ => ?_)
    · apply stHand_keeps
    · exact TKeeps.pure _

theorem stGrad_keeps {x : TCtx} {g : Bolt} {t : Nat} {ps : List Nat} : TKeeps (stGrad x g t ps : TM (List Nat)) := by
  unfold stGrad
  refine TKeeps.bind ?_ (fun _ => ?_)
  · exact TKeeps.get
  · dsimp only
    refine TKeeps.ite (fun _ => ?_) (fun _ => ?_)
    · refine TKeeps.bind ?_ (fun _ => ?_)
      · refine tUpd_keeps (fun _ _ _ => ?_)
        exact logRows_keeps (by assumption)
      · refine TKeeps.mapM (fun _ => ?_)
        refine TKeeps.bind ?_ (fun _ => ?_)
        · exact tPeek_keeps
        · exact TKeeps.pure _
    · refine TKeeps.mapM (fun _ => ?_)
      refine TKeeps.bind ?_ (fun _ => ?_)
      · exact tPeek_keeps
      · exact TKeeps.pure _

theorem stThin_keeps  {x : TCtx} {d : Desc} {r : StRun} {w : Bolt} {res : Bolt} {q : Bolt}
    : TKeeps (stThin x d r w res q : TM Unit) := by
  unfold stThin
  dsimp only
  refine TKeeps.ite (fun _ => ?_) (fun _ => ?_)
  · refine TKeeps.bind ?_ (fun _ => ?_)
    · apply readDir_keeps
    · refine TKeeps.bind ?_ (fun _ => ?_)
      · apply readDir_keeps
      · refine TKeeps.bind ?_ (fun _ => ?_)
        · apply readDir_keeps
        · refine TKeeps.bind ?_ (fun _ => ?_)
          · apply tCheck_keeps
          · refine TKeeps.bind ?_ (fun _ => ?_)
            · apply tileEntries_keeps
            · split
              · refine TKeeps.bind ?_ (fun _ => ?_)
                · apply tFault_keeps
                · refine TKeeps.bind ?_ (fun _ => ?_)
                  · apply readArr_keeps
                  · refine TKeeps.bind ?_ (fun _ => ?_)
                    · apply readArr_keeps
                    · refine TKeeps.bind ?_ (fun _ => ?_)
                      · apply stGrad_keeps
                      · refine TKeeps.bind ?_ (fun _ => ?_)
                        · exact TKeeps.get
                        · refine TKeeps.bind ?_ (fun _ => ?_)
                          · apply writeArr_keeps
                          · refine TKeeps.bind ?_ (fun _ => ?_)
                            · apply tCount_keeps
                            · refine TKeeps.bind ?_ (fun _ => ?_)
                              · refine tUpd_keeps (fun _ _ _ => ?_)
                                exact countEvals_keeps (by assumption)
                              · refine TKeeps.bind ?_ (fun _ => ?_)
                                · exact TKeeps.get
                                · refine TKeeps.forM (fun _ => ?_)
                                  apply stSend_keeps
              · refine TKeeps.bind ?_ (fun _ => ?_)
                · exact TKeeps.pure _
                · refine TKeeps.bind ?_ (fun _ => ?_)
                  · apply readArr_keeps
                  · refine TKeeps.bind ?_ (fun _ => ?_)
                    · apply readArr_keeps
                    · refine TKeeps.bind ?_ (fun _ => ?_)
                      · apply stGrad_keeps
                      · refine TKeeps.bind ?_ (fun _ => ?_)
                        · exact TKeeps.get
                        · refine TKeeps.bind ?_ (fun _ => ?_)
                          · apply writeArr_keeps
                          · refine TKeeps.bind ?_ (fun _ => ?_)
                            · apply tCount_keeps
                            · refine TKeeps.bind ?_ (fun _ => ?_)
                              · refine tUpd_keeps (fun _ _ _ => ?_)
                                exact countEvals_keeps (by assumption)
                              · refine TKeeps.bind ?_ (fun _ => ?_)
                                · exact TKeeps.get
                                · refine TKeeps.forM (fun _ => ?_)
                                  apply stSend_keeps
  · refine TKeeps.bind ?_ (fun _ => ?_)
    · exact TKeeps.pure _
    · refine TKeeps.bind ?_ (fun _ => ?_)
      · apply readArr_keeps
      · refine TKeeps.bind ?_ (fun _ => ?_)
        · apply readArr_keeps
        · refine TKeeps.bind ?_ (fun _ => ?_)
          · apply stGrad_keeps
          · refine TKeeps.bind ?_ (fun _ => ?_)
            · exact TKeeps.get
            · refine TKeeps.bind ?_ (fun _ => ?_)
              · apply writeArr_keeps
              · refine TKeeps.bind ?_ (fun _ => ?_)
                · apply tCount_keeps
                · refine TKeeps.bind ?_ (fun _ => ?_)
                  · refine tUpd_keeps (fun _ _ _ => ?_)
                    exact countEvals_keeps (by assumption)
                  · refine TKeeps.bind ?_ (fun _ => ?_)
                    · exact TKeeps.get
                    · refine TKeeps.forM (fun _ => ?_)
                      apply stSend_keeps

theorem stWhole_keeps  {x : TCtx} {d : Desc} {r : StRun} : TKeeps (stWhole x d r : TM Unit) := by
  unfold stWhole
  dsimp only
  refine TKeeps.bind ?_ (fun _ => ?_)
  · apply stGrad_keeps
  · refine TKeeps.bind ?_ (fun _ => ?_)
    · exact TKeeps.get
    · refine TKeeps.forM (fun _ => ?_)
      apply stSend_keeps

theorem sendTileWork_keeps  {d : Desc} {x : TCtx} : TKeeps (sendTileWork d x : TM Unit) := by
  unfold sendTileWork
  refine TKeeps.bind ?_ (fun _ => ?_)
  · apply stStart_keeps
  · dsimp only
    split
    · refine tUpd_keeps (fun _ _ _ => ?_)
      exact markWorked_keeps (by assumption)
    · split
      · refine TKeeps.bind ?_ (fun _ => ?_)
        · apply stThin_keeps
        · refine tUpd_keeps (fun _ _ _ => ?_)
          exact markWorked_keeps (by assumption)
      · refine TKeeps.bind ?_ (fun _ => ?_)
        · apply stWhole_keeps
        · refine tUpd_keeps (fun _ _ _ => ?_)
          exact markWorked_keeps (by assumption)

theorem execSendTile_keeps {r₀ t₀ : State} {c : CroftId} {s : State} (h₀ : Keeps r₀ s)
    (e₀ : execSendTile c s = .next t₀) : Keeps r₀ t₀ := by
  unfold execSendTile at e₀
  obtain rfl := Host.Outcome.next.inj e₀
  split
  · apply runTask_keeps
    · assumption
    · intro _
      apply sendTileWork_keeps
  · assumption

end Sys2Proof.Machine
end

