-- ==== Sys2Proof/Laws/KeepsPower.lean ====
section
/-!
SUPPORT. Every definition of the model that makes a state keeps what Keeps names: power, thermal behaviour and release. One lemma each, so
that a proof about a command cites its lemma and unfolds nothing.
-/
namespace Sys2Proof.Machine

/-! ### Power -/

theorem sendGrant_keeps {r₀ : State} {h : Nat} {g : Nat} {s : State} (h₀ : Keeps r₀ s)
    : Keeps r₀ (sendGrant h g s) := by
  unfold sendGrant
  apply setF_keeps
  with_reducible refine Keeps.upd ?_ (Nat.le_refl _) rfl rfl rfl
  assumption

theorem grantAll_keeps {r₀ : State} {mv : Nat} {base : Nat} {tests : List (Nat × Nat)} {s : State} (h₀
    : Keeps r₀ s) : Keeps r₀ (grantAll mv base tests s) := by
  unfold grantAll
  dsimp only
  refine Keeps.foldl ?_ (fun _ _ _ => ?_)
  · refine Keeps.foldl ?_ (fun _ _ _ => ?_)
    · exact setF_keeps (setF_keeps (by assumption))
    · exact setF_keeps (by assumption)
  · exact sendGrant_keeps (by assumption)

theorem noteSpent_keeps {r₀ : State} {s : State} (h₀ : Keeps r₀ s) : Keeps r₀ (noteSpent s) := by
  unfold noteSpent
  refine Keeps.ite (fun _ => ?_) (fun _ => ?_)
  · refine Keeps.ite (fun _ => ?_) (fun _ => ?_)
    · assumption
    · apply powerEvent_keeps
      apply addF_keeps
      with_reducible refine Keeps.upd ?_ (Nat.le_refl _) rfl rfl rfl
      assumption
  · with_reducible refine Keeps.upd ?_ (Nat.le_refl _) rfl rfl rfl
    assumption

theorem addEnergy_keeps {r₀ : State} {pj : Nat} {s : State} (h₀ : Keeps r₀ s) : Keeps r₀ (addEnergy pj s) := by
  unfold addEnergy
  dsimp only
  apply setPair_keeps
  with_reducible refine Keeps.upd ?_ (Nat.le_refl _) rfl rfl rfl
  assumption

theorem grantPeriod_keeps {r₀ : State} {base : Nat} {floors : List Nat} {tests : List (Nat × Nat)} {s : State}
    (h₀ : Keeps r₀ s) : Keeps r₀ (grantPeriod base floors tests s) := by
  unfold grantPeriod
  dsimp only
  apply noteSpent_keeps
  apply grantAll_keeps
  apply setF_keeps
  apply setF_keeps
  apply setF_keeps
  apply setF_keeps
  apply setF_keeps
  apply setF_keeps
  apply addF_keeps
  apply addEnergy_keeps
  with_reducible refine Keeps.upd ?_ (Nat.le_refl _) rfl rfl rfl
  assumption

theorem execGrantPeriod_keeps {r₀ t₀ : State} {base : BitVec 18} {floors : List (BitVec 10)}
    {tests : List (HamletId × BitVec 10)} {s : State} (h₀ : Keeps r₀ s)
    (e₀ : execGrantPeriod base floors tests s = .next t₀) : Keeps r₀ t₀ := by
  unfold execGrantPeriod at e₀
  obtain rfl := Host.Outcome.next.inj e₀
  split
  · exact grantPeriod_keeps (by assumption)
  · assumption

theorem execGrantDelivery_keeps {r₀ t₀ : State} {h : HamletId} {s : State} (h₀ : Keeps r₀ s)
    (e₀ : execGrantDelivery h s = .next t₀) : Keeps r₀ t₀ := by
  unfold execGrantDelivery at e₀
  obtain rfl := Host.Outcome.next.inj e₀
  split
  · refine Keeps.ite (fun _ => ?_) (fun _ => ?_)
    · dsimp only
      with_reducible refine Keeps.upd ?_ (Nat.le_refl _) rfl rfl rfl
      assumption
    · assumption
  · assumption

theorem showWell_keeps {r₀ : State} {s : State} (h₀ : Keeps r₀ s) : Keeps r₀ (showWell s) := by
  unfold showWell
  exact setF_keeps (by assumption)

theorem sagSample_keeps {r₀ : State} {mv : Nat} {s : State} (h₀ : Keeps r₀ s) : Keeps r₀ (sagSample mv s) := by
  unfold sagSample
  dsimp only
  apply grantAll_keeps
  split
  · with_reducible refine Keeps.upd ?_ (Nat.le_refl _) rfl rfl rfl
    assumption
  · apply addF_keeps
    with_reducible refine Keeps.upd ?_ (Nat.le_refl _) rfl rfl rfl
    assumption

theorem underSample_keeps {r₀ : State} {mv : Nat} {s : State} (h₀ : Keeps r₀ s) : Keeps r₀ (underSample mv s) := by
  unfold underSample
  split
  · with_reducible refine Keeps.upd ?_ (Nat.le_refl _) rfl rfl rfl
    assumption
  · apply addF_keeps
    with_reducible refine Keeps.upd ?_ (Nat.le_refl _) rfl rfl rfl
    assumption

theorem surgeSample_keeps {r₀ : State} {mv : Nat} {s : State} (h₀ : Keeps r₀ s) : Keeps r₀ (surgeSample mv s) := by
  unfold surgeSample
  split
  · with_reducible refine Keeps.upd ?_ (Nat.le_refl _) rfl rfl rfl
    assumption
  · apply addF_keeps
    with_reducible refine Keeps.upd ?_ (Nat.le_refl _) rfl rfl rfl
    assumption

theorem recordSample_keeps {r₀ : State} {mv : Nat} {ma : Nat} {s : State} (h₀ : Keeps r₀ s)
    : Keeps r₀ (recordSample mv ma s) := by
  unfold recordSample
  dsimp only
  with_reducible refine Keeps.upd ?_ (Nat.le_refl _) rfl rfl rfl
  assumption

theorem sampleOn_keeps {r₀ : State} {mv : Nat} {ma : Nat} {s : State} (h₀ : Keeps r₀ s)
    : Keeps r₀ (sampleOn mv ma s) := by
  unfold sampleOn
  dsimp only
  refine Keeps.ite (fun _ => ?_) (fun _ => ?_)
  · exact orderlyStop_keeps (recordSample_keeps (by assumption))
  · apply showWell_keeps
    refine Keeps.ite (fun _ => ?_) (fun _ => ?_)
    · refine Keeps.foldl ?_ (fun _ _ _ => ?_)
      · refine Keeps.ite (fun _ => ?_) (fun _ => ?_)
        · apply sagSample_keeps
          refine Keeps.ite (fun _ => ?_) (fun _ => ?_)
          · apply underSample_keeps
            refine Keeps.ite (fun _ => ?_) (fun _ => ?_)
            · exact surgeSample_keeps (recordSample_keeps (by assumption))
            · exact recordSample_keeps (by assumption)
          · refine Keeps.ite (fun _ => ?_) (fun _ => ?_)
            · exact surgeSample_keeps (recordSample_keeps (by assumption))
            · exact recordSample_keeps (by assumption)
        · refine Keeps.ite (fun _ => ?_) (fun _ => ?_)
          · apply underSample_keeps
            refine Keeps.ite (fun _ => ?_) (fun _ => ?_)
            · exact surgeSample_keeps (recordSample_keeps (by assumption))
            · exact recordSample_keeps (by assumption)
          · refine Keeps.ite (fun _ => ?_) (fun _ => ?_)
            · exact surgeSample_keeps (recordSample_keeps (by assumption))
            · exact recordSample_keeps (by assumption)
      · exact sendGrant_keeps (by assumption)
    · refine Keeps.ite (fun _ => ?_) (fun _ => ?_)
      · apply sagSample_keeps
        refine Keeps.ite (fun _ => ?_) (fun _ => ?_)
        · apply underSample_keeps
          refine Keeps.ite (fun _ => ?_) (fun _ => ?_)
          · exact surgeSample_keeps (recordSample_keeps (by assumption))
          · exact recordSample_keeps (by assumption)
        · refine Keeps.ite (fun _ => ?_) (fun _ => ?_)
          · exact surgeSample_keeps (recordSample_keeps (by assumption))
          · exact recordSample_keeps (by assumption)
      · refine Keeps.ite (fun _ => ?_) (fun _ => ?_)
        · apply underSample_keeps
          refine Keeps.ite (fun _ => ?_) (fun _ => ?_)
          · exact surgeSample_keeps (recordSample_keeps (by assumption))
          · exact recordSample_keeps (by assumption)
        · refine Keeps.ite (fun _ => ?_) (fun _ => ?_)
          · exact surgeSample_keeps (recordSample_keeps (by assumption))
          · exact recordSample_keeps (by assumption)

theorem execBusSample_keeps {r₀ t₀ : State} {mv : BitVec 17} {ma : BitVec 19} {s : State} (h₀ : Keeps r₀ s) (e₀
    : execBusSample mv ma s = .next t₀) : Keeps r₀ t₀ := by
  unfold execBusSample at e₀
  obtain rfl := Host.Outcome.next.inj e₀
  split
  · exact sampleOn_keeps (by assumption)
  · dsimp only
    refine Keeps.ite (fun _ => ?_) (fun _ => ?_)
    · exact railsOff_keeps (recordSample_keeps (by assumption))
    · exact recordSample_keeps (by assumption)
  · exact recordSample_keeps (by assumption)
  · dsimp only
    with_reducible refine Keeps.upd ?_ (Nat.le_refl _) rfl rfl rfl
    exact recordSample_keeps (by assumption)

theorem execUndervoltConfirm_keeps {r₀ t₀ : State} {s : State} (h₀ : Keeps r₀ s)
    (e₀ : execUndervoltConfirm s = .next t₀) : Keeps r₀ t₀ := by
  unfold execUndervoltConfirm at e₀
  obtain rfl := Host.Outcome.next.inj e₀
  split
  · refine Keeps.ite (fun _ => ?_) (fun _ => ?_)
    · exact orderlyStop_keeps (by assumption)
    · assumption
  · assumption

theorem execSurgeTimeout_keeps {r₀ t₀ : State} {s : State} (h₀ : Keeps r₀ s)
    (e₀ : execSurgeTimeout s = .next t₀) : Keeps r₀ t₀ := by
  unfold execSurgeTimeout at e₀
  obtain rfl := Host.Outcome.next.inj e₀
  split
  · refine Keeps.ite (fun _ => ?_) (fun _ => ?_)
    · exact orderlyStop_keeps (by assumption)
    · assumption
  · assumption

theorem execEpisodeEnd_keeps {r₀ t₀ : State} {s : State} (h₀ : Keeps r₀ s) (e₀ : execEpisodeEnd s = .next t₀) :
    Keeps r₀ t₀ := by
  unfold execEpisodeEnd at e₀
  obtain rfl := Host.Outcome.next.inj e₀
  split
  · refine Keeps.ite (fun _ => ?_) (fun _ => ?_)
    · exact showWell_keeps (closeEpisodes_keeps (by assumption))
    · assumption
  · assumption

theorem showPace_keeps {r₀ : State} {c : Nat} {s : State} (h₀ : Keeps r₀ s) : Keeps r₀ (showPace c s) := by
  unfold showPace
  exact setF_keeps (by assumption)

theorem stepGate_keeps {r₀ : State} {c : Nat} {s : State} (h₀ : Keeps r₀ s) : Keeps r₀ (stepGate c s) := by
  unfold stepGate
  dsimp only
  with_reducible refine Keeps.upd ?_ (Nat.le_refl _) rfl rfl rfl
  assumption

theorem addPaced_keeps {r₀ : State} {c : Nat} {n : Nat} {s : State} (h₀ : Keeps r₀ s) : Keeps r₀ (addPaced c n s) := by
  unfold addPaced
  dsimp only
  apply addUnits_keeps
  with_reducible refine Keeps.upd ?_ (Nat.le_refl _) rfl rfl rfl
  assumption

theorem addHummed_keeps {r₀ : State} {c : Nat} {n : Nat} {s : State} (h₀ : Keeps r₀ s) : Keeps r₀ (addHummed c n s) := by
  unfold addHummed
  dsimp only
  apply addUnits_keeps
  with_reducible refine Keeps.upd ?_ (Nat.le_refl _) rfl rfl rfl
  assumption

theorem croftStep_keeps {r₀ : State} {c : Nat} {s : State} (h₀ : Keeps r₀ s) : Keeps r₀ (croftStep c s) := by
  unfold croftStep
  dsimp only
  refine Keeps.ite (fun _ => ?_) (fun _ => ?_)
  · exact addHummed_keeps (addPaced_keeps (noteHum_keeps (stepGate_keeps (showPace_keeps (by assumption)))))
  · refine Keeps.ite (fun _ => ?_) (fun _ => ?_)
    · apply addPaced_keeps
      with_reducible refine Keeps.upd ?_ (Nat.le_refl _) rfl rfl rfl
      exact noteHum_keeps (stepGate_keeps (showPace_keeps (by assumption)))
    · exact noteHum_keeps (stepGate_keeps (showPace_keeps (by assumption)))

theorem pacingEvent_keeps {r₀ : State} {h : Nat} {s : State} (h₀ : Keeps r₀ s) : Keeps r₀ (pacingEvent h s) := by
  unfold pacingEvent
  split
  · assumption
  · dsimp only
    refine Keeps.ite (fun _ => ?_) (fun _ => ?_)
    · apply powerEvent_keeps
      with_reducible refine Keeps.upd ?_ (Nat.le_refl _) rfl rfl rfl
      assumption
    · assumption

theorem pacingStep_keeps {r₀ : State} {h : Nat} {ma : Nat} {s : State} (h₀ : Keeps r₀ s)
    : Keeps r₀ (pacingStep h ma s) := by
  unfold pacingStep
  dsimp only
  apply pacingEvent_keeps
  refine Keeps.foldl ?_ (fun _ _ _ => ?_)
  · apply setF_keeps
    with_reducible refine Keeps.upd ?_ (Nat.le_refl _) rfl rfl rfl
    assumption
  · exact croftStep_keeps (by assumption)

theorem execPacingStep_keeps {r₀ t₀ : State} {h : HamletId} {ma : BitVec 16} {s : State} (h₀ : Keeps r₀ s)
    (e₀ : execPacingStep h ma s = .next t₀) : Keeps r₀ t₀ := by
  unfold execPacingStep at e₀
  obtain rfl := Host.Outcome.next.inj e₀
  split
  · exact pacingStep_keeps (by assumption)
  · assumption

theorem execHumTaper_keeps {r₀ t₀ : State} {c : CroftId} {s : State} (h₀ : Keeps r₀ s)
    (e₀ : execHumTaper c s = .next t₀) : Keeps r₀ t₀ := by
  unfold execHumTaper at e₀
  obtain rfl := Host.Outcome.next.inj e₀
  dsimp only at e₀
  split
  · assumption
  · dsimp only
    refine Keeps.ite (fun _ => ?_) (fun _ => ?_)
    · with_reducible refine Keeps.upd ?_ (Nat.le_refl _) rfl rfl rfl
      assumption
    · assumption

theorem execPointChange_keeps {r₀ t₀ : State} {c : CroftId} {s : State} (h₀ : Keeps r₀ s)
    (e₀ : execPointChange c s = .next t₀) : Keeps r₀ t₀ := by
  unfold execPointChange at e₀
  obtain rfl := Host.Outcome.next.inj e₀
  dsimp only at e₀
  refine Keeps.ite (fun _ => ?_) (fun _ => ?_)
  · assumption
  · dsimp only
    apply setF_keeps
    apply setF_keeps
    with_reducible refine Keeps.upd ?_ (Nat.le_refl _) rfl rfl rfl
    assumption

theorem execPointChangeDone_keeps {r₀ t₀ : State} {c : CroftId} {s : State} (h₀ : Keeps r₀ s)
    (e₀ : execPointChangeDone c s = .next t₀) : Keeps r₀ t₀ := by
  unfold execPointChangeDone at e₀
  obtain rfl := Host.Outcome.next.inj e₀
  dsimp only at e₀
  split
  · assumption
  · refine Keeps.ite (fun _ => ?_) (fun _ => ?_)
    · dsimp only
      apply addF_keeps
      apply setF_keeps
      apply setF_keeps
      with_reducible refine Keeps.upd ?_ (Nat.le_refl _) rfl rfl rfl
      assumption
    · assumption

theorem cycleTick_keeps {r₀ : State} {s : State} (h₀ : Keeps r₀ s) : Keeps r₀ (cycleTick s) := by
  unfold cycleTick
  refine Keeps.foldl ?_ (fun _ _ _ => ?_)
  · assumption
  · dsimp only
    exact spinRun_keeps (countWaits_keeps (by assumption))

theorem tick_keeps {r₀ : State} {s : State} (h₀ : Keeps r₀ s) : Keeps r₀ (tick s) := by
  unfold tick
  dsimp only
  refine Keeps.ite (fun _ => ?_) (fun _ => ?_)
  · split
    · apply setPerm_keeps
      apply stopEnds_keeps
      apply cycleTick_keeps
      with_reducible refine Keeps.upd ?_ (Nat.le_refl _) rfl rfl rfl
      assumption
    · apply stopEnds_keeps
      apply cycleTick_keeps
      with_reducible refine Keeps.upd ?_ (Nat.le_refl _) rfl rfl rfl
      assumption
  · apply stopEnds_keeps
    apply cycleTick_keeps
    with_reducible refine Keeps.upd ?_ (Nat.le_refl _) rfl rfl rfl
    assumption

/-! ### Thermal -/

theorem capFalls_keeps {r₀ : State} {c : Nat} {s : State} (h₀ : Keeps r₀ s) : Keeps r₀ (capFalls c s) := by
  unfold capFalls
  dsimp only
  refine Keeps.ite (fun _ => ?_) (fun _ => ?_)
  · assumption
  · refine Keeps.ite (fun _ => ?_) (fun _ => ?_)
    · apply powerEvent_keeps
      with_reducible refine Keeps.upd ?_ (Nat.le_refl _) rfl rfl rfl
      exact setF_keeps (by assumption)
    · exact setF_keeps (by assumption)

theorem thermalPace_keeps {r₀ : State} {c : Nat} {t : ℤ} {s : State} (h₀ : Keeps r₀ s)
    : Keeps r₀ (thermalPace c t s) := by
  unfold thermalPace
  dsimp only
  apply showPace_keeps
  refine Keeps.ite (fun _ => ?_) (fun _ => ?_)
  · refine Keeps.ite (fun _ => ?_) (fun _ => ?_)
    · apply powerEvent_keeps
      with_reducible refine Keeps.upd ?_ (Nat.le_refl _) rfl rfl rfl
      assumption
    · with_reducible refine Keeps.upd ?_ (Nat.le_refl _) rfl rfl rfl
      assumption
  · refine Keeps.ite (fun _ => ?_) (fun _ => ?_)
    · with_reducible refine Keeps.upd ?_ (Nat.le_refl _) rfl rfl rfl
      assumption
    · assumption

theorem execThermalSample_keeps {r₀ t₀ : State} {c : CroftId} {t0 : BitVec 8} {t1 : BitVec 8} {s : State} (h₀ :
    Keeps r₀ s) (e₀ : execThermalSample c t0 t1 s = .next t₀) : Keeps r₀ t₀ := by
  unfold execThermalSample at e₀
  obtain rfl := Host.Outcome.next.inj e₀
  apply thermalPace_keeps
  refine Keeps.ite (fun _ => ?_) (fun _ => ?_)
  · apply capFalls_keeps
    with_reducible refine Keeps.upd ?_ (Nat.le_refl _) rfl rfl rfl
    exact noteSensor_keeps (noteSensor_keeps (setF_keeps (by assumption)))
  · with_reducible refine Keeps.upd ?_ (Nat.le_refl _) rfl rfl rfl
    exact noteSensor_keeps (noteSensor_keeps (setF_keeps (by assumption)))

theorem execThermalCapRise_keeps {r₀ t₀ : State} {c : CroftId} {s : State} (h₀ : Keeps r₀ s)
    (e₀ : execThermalCapRise c s = .next t₀) : Keeps r₀ t₀ := by
  unfold execThermalCapRise at e₀
  obtain rfl := Host.Outcome.next.inj e₀
  dsimp only at e₀
  split
  · assumption
  · refine Keeps.ite (fun _ => ?_) (fun _ => ?_)
    · apply setF_keeps
      with_reducible refine Keeps.upd ?_ (Nat.le_refl _) rfl rfl rfl
      assumption
    · assumption

theorem execThermalTrip_keeps {r₀ t₀ : State} {sensor : Fin 2136} {t : BitVec 8} {s : State} (h₀ : Keeps r₀ s)
    (e₀ : execThermalTrip sensor t s = .next t₀) : Keeps r₀ t₀ := by
  unfold execThermalTrip at e₀
  obtain rfl := Host.Outcome.next.inj e₀
  refine Keeps.ite (fun _ => ?_) (fun _ => ?_)
  · exact orderlyStop_keeps (noteSensor_keeps (by assumption))
  · exact noteSensor_keeps (by assumption)

theorem execThermalModelUpdate_keeps {r₀ t₀ : State} {c : CroftId} {t0 : BitVec 8} {t1 : BitVec 8} {s : State}
    (h₀ : Keeps r₀ s) (e₀ : execThermalModelUpdate c t0 t1 s = .next t₀) : Keeps r₀ t₀ := by
  unfold execThermalModelUpdate at e₀
  obtain rfl := Host.Outcome.next.inj e₀
  split
  · apply setF_keeps
    with_reducible refine Keeps.upd ?_ (Nat.le_refl _) rfl rfl rfl
    assumption
  · assumption

theorem execCoolantPoll_keeps {r₀ t₀ : State} {s : State} (h₀ : Keeps r₀ s)
    (e₀ : execCoolantPoll s = .next t₀) : Keeps r₀ t₀ := by
  unfold execCoolantPoll at e₀
  obtain rfl := Host.Outcome.next.inj e₀
  dsimp only at e₀
  refine Keeps.ite (fun _ => ?_) (fun _ => ?_)
  · apply mctpOut_keeps
    with_reducible refine Keeps.upd ?_ (Nat.le_refl _) rfl rfl rfl
    assumption
  · assumption

theorem coolantEvent_keeps {r₀ : State} {s : State} (h₀ : Keeps r₀ s) : Keeps r₀ (coolantEvent s) := by
  unfold coolantEvent
  exact powerEvent_keeps (by assumption)

theorem execCoolantReading_keeps {r₀ t₀ : State} {value : BitVec 8} {available : Bool} {s : State} (h₀ : Keeps
    r₀ s) (e₀ : execCoolantReading value available s = .next t₀) : Keeps r₀ t₀ := by
  unfold execCoolantReading at e₀
  obtain rfl := Host.Outcome.next.inj e₀
  split
  · assumption
  · assumption
  · dsimp only
    refine Keeps.ite (fun _ => ?_) (fun _ => ?_)
    · refine Keeps.ite (fun _ => ?_) (fun _ => ?_)
      · apply coolantEvent_keeps
        with_reducible refine Keeps.upd ?_ (Nat.le_refl _) rfl rfl rfl
        apply setF_keeps
        apply setF_keeps
        with_reducible refine Keeps.upd ?_ (Nat.le_refl _) rfl rfl rfl
        assumption
      · with_reducible refine Keeps.upd ?_ (Nat.le_refl _) rfl rfl rfl
        apply setF_keeps
        apply setF_keeps
        with_reducible refine Keeps.upd ?_ (Nat.le_refl _) rfl rfl rfl
        assumption
    · with_reducible refine Keeps.upd ?_ (Nat.le_refl _) rfl rfl rfl
      assumption

theorem execCoolantStale_keeps {r₀ t₀ : State} {s : State} (h₀ : Keeps r₀ s)
    (e₀ : execCoolantStale s = .next t₀) : Keeps r₀ t₀ := by
  unfold execCoolantStale at e₀
  obtain rfl := Host.Outcome.next.inj e₀
  split
  · assumption
  · refine Keeps.ite (fun _ => ?_) (fun _ => ?_)
    · apply coolantEvent_keeps
      apply setF_keeps
      with_reducible refine Keeps.upd ?_ (Nat.le_refl _) rfl rfl rfl
      assumption
    · assumption

theorem startReplan_keeps {r₀ : State} {s : State} (h₀ : Keeps r₀ s) : Keeps r₀ (startReplan s) := by
  unfold startReplan
  with_reducible refine Keeps.upd ?_ (Nat.le_refl _) rfl rfl rfl
  assumption

theorem execMarginAlarm_keeps {r₀ t₀ : State} {c : CroftId} {monitor : Fin 4} {slack : BitVec 16} {s : State}
    (h₀ : Keeps r₀ s) (e₀ : execMarginAlarm c monitor slack s = .next t₀) : Keeps r₀ t₀ := by
  unfold execMarginAlarm at e₀
  obtain rfl := Host.Outcome.next.inj e₀
  dsimp only at e₀
  exact startReplan_keeps (setF_keeps (powerEvent_keeps (addF_keeps (setF_keeps (by assumption)))))

theorem execReplanHoursDue_keeps {r₀ t₀ : State} {s : State} (h₀ : Keeps r₀ s)
    (e₀ : execReplanHoursDue s = .next t₀) : Keeps r₀ t₀ := by
  unfold execReplanHoursDue at e₀
  obtain rfl := Host.Outcome.next.inj e₀
  refine Keeps.ite (fun _ => ?_) (fun _ => ?_)
  · exact startReplan_keeps (by assumption)
  · assumption

theorem replanCroft_keeps {r₀ : State} {c : Nat} {drift : ℤ} {s : State} (h₀ : Keeps r₀ s) : Keeps r₀ (replanCroft
    c drift s) := by
  unfold replanCroft
  dsimp only
  refine Keeps.foldl ?_ (fun _ _ _ => ?_)
  · exact setPerm_keeps (by assumption)
  · refine Keeps.ite (fun _ => ?_) (fun _ => ?_)
    · exact setPerm_keeps (setPerm_keeps (by assumption))
    · exact setPerm_keeps (by assumption)

theorem retireWorn_keeps {r₀ : State} {c : Nat} {s : State} (h₀ : Keeps r₀ s) : Keeps r₀ (retireWorn c s) := by
  unfold retireWorn
  refine Keeps.ite (fun _ => ?_) (fun _ => ?_)
  · dsimp only
    apply retireUnit_keeps
    with_reducible refine Keeps.upd ?_ (Nat.le_refl _) rfl rfl rfl
    exact fenceCroft_keeps (by assumption)
  · assumption

theorem replanAll_keeps {r₀ : State} {delays : List Nat} {base : List Nat} {s : State} (h₀ : Keeps r₀ s) : Keeps r₀
    (replanAll delays base s) := by
  unfold replanAll
  refine Keeps.foldl ?_ (fun _ _ _ => ?_)
  · assumption
  · exact replanCroft_keeps (by assumption)

theorem execReplanDone_keeps {r₀ t₀ : State} {delays : List (BitVec 16)} {s : State} (h₀ : Keeps r₀ s) (e₀ :
    execReplanDone delays s = .next t₀) : Keeps r₀ t₀ := by
  unfold execReplanDone at e₀
  obtain rfl := Host.Outcome.next.inj e₀
  refine Keeps.ite (fun _ => ?_) (fun _ => ?_)
  · dsimp only
    refine Keeps.foldl ?_ (fun _ _ _ => ?_)
    · apply powerEvent_keeps
      apply journal_keeps
      apply setF_keeps
      with_reducible refine Keeps.upd ?_ (Nat.le_refl _) rfl rfl rfl
      exact setPerm_keeps (setPerm_keeps (replanAll_keeps (by assumption)))
    · exact retireWorn_keeps (by assumption)
  · assumption

/-! ### Release -/

/-- A descriptor sent to a croft that takes one. -/
theorem enqueueAt_keeps {r₀ : State} {c : Nat} {d : Desc} {cmd : Nat} {s : State} (h₀ : Keeps r₀ s)
    (hc : Credits r₀ → (croftOf c s).queue.length + (croftOf c s).arriving.length < 16) :
    Keeps r₀ (enqueueAt c d cmd s) := by
  unfold enqueueAt
  refine ⟨h₀.pending, h₀.free, h₀.mem, h₀.owners, h₀.regs, fun x => ?_, h₀.retired, h₀.revoked⟩
  intro c'
  dsimp only
  by_cases e : c' = c
  · subst e
    have := hc x
    rw [croftOf_updCroft_same]
    simp only [List.length_append, List.length_singleton]
    exact this
  · rw [croftOf_updCroft_other e]
    exact h₀.credits x c'

theorem takes_room {c : Nat} {s : State} (h : takes c s = true) :
    (croftOf c s).queue.length + (croftOf c s).arriving.length < 16 := by
  simp [takes, creditsOf] at h
  omega

theorem holdBack_keeps {r₀ : State} {r : Rel} {power : Bool} {heat : Bool} {s : State} (h₀ : Keeps r₀ s)
    : Keeps r₀ (holdBack r power heat s).2 := by
  unfold holdBack
  dsimp only
  refine Keeps.ite (fun _ => ?_) (fun _ => ?_)
  · apply addF_keeps
    refine Keeps.ite (fun _ => ?_) (fun _ => ?_)
    · exact addF_keeps (by assumption)
    · assumption
  · refine Keeps.ite (fun _ => ?_) (fun _ => ?_)
    · exact addF_keeps (by assumption)
    · assumption

theorem walkRel_keeps {r₀ : State} {n : Nat} {seen : List Nat} {l : List Rel} {s : State} (h₀ : Keeps r₀ s) :
    Keeps r₀ (walkRel n seen l s).2 := by
  induction n generalizing seen l s with
  | zero => exact h₀
  | succ n ih =>
    cases l with
    | nil => exact h₀
    | cons r l =>
      unfold walkRel
      dsimp only
      split
      · exact ih h₀
      · next ht =>
        split
        · exact ih (holdBack_keeps h₀)
        · refine enqueueAt_keeps h₀ fun _ => takes_room ?_
          simp at ht
          exact ht.1

theorem chooseLists_keeps {r₀ : State} {p : Nat} {lists : List LayerLists} {s : State} (h₀ : Keeps r₀ s) : Keeps
    r₀ (chooseLists p lists s) := by
  unfold chooseLists
  dsimp only
  refine Keeps.ite (fun _ => ?_) (fun _ => ?_)
  · assumption
  · exact mapCmds_keeps (updPart_keeps (by assumption))

theorem execDispatch_keeps {r₀ t₀ : State} {d : DispatchTurn} {s : State} (h₀ : Keeps r₀ s)
    (e₀ : execDispatch d s = .next t₀) : Keeps r₀ t₀ := by
  unfold execDispatch at e₀
  obtain rfl := Host.Outcome.next.inj e₀
  refine Keeps.ite (fun _ => ?_) (fun _ => ?_)
  · dsimp only
    exact updPart_keeps (walkRel_keeps (chooseLists_keeps (by assumption)))
  · assumption

theorem takeStarved_takes {s : State} {n : Nat} {seen : List Nat} {l : List Rel} {x : Rel × List Rel}
    (e : takeStarved s n seen l = some x) : takes (globalPhys x.1.croft s) s = true := by
  induction n generalizing seen l x with
  | zero => cases e
  | succ n ih =>
    cases l with
    | nil => cases e
    | cons r l =>
      have key (due : Bool) : (if due && takes (globalPhys r.croft s) s && !(seen.any fun g => g == r.croft) then some (r, l)
          else (takeStarved s n (r.croft :: seen) l).map fun e => (e.1, r :: e.2)) = some x →
          takes (globalPhys x.1.croft s) s = true := by
        intro e
        clear * - e ih
        split at e
        · next h =>
          obtain rfl := Option.some.inj e
          simp only [Bool.and_eq_true] at h
          exact h.1.2
        · rw [Option.map_eq_some_iff] at e
          obtain ⟨y, hy, rfl⟩ := e
          exact ih (x := y) hy
      unfold takeStarved at e
      exact key _ e

theorem execStarveTimeout_keeps {r₀ t₀ : State} {p : PartId} {s : State} (h₀ : Keeps r₀ s)
    (e₀ : execStarveTimeout p s = .next t₀) : Keeps r₀ t₀ := by
  unfold execStarveTimeout at e₀
  obtain rfl := Host.Outcome.next.inj e₀
  clear e₀
  split
  · split
    · exact h₀
    · next e =>
      refine addF_keeps (enqueueAt_keeps (updPart_keeps h₀) fun _ => ?_)
      simpa only [croftOf, updPart_crofts] using takes_room (takeStarved_takes e)
  · exact h₀

theorem execPointLower_keeps {r₀ t₀ : State} {h : HamletId} {s : State} (h₀ : Keeps r₀ s)
    (e₀ : execPointLower h s = .next t₀) : Keeps r₀ t₀ := by
  unfold execPointLower at e₀
  obtain rfl := Host.Outcome.next.inj e₀
  split
  · assumption
  · refine Keeps.ite (fun _ => ?_) (fun _ => ?_)
    · dsimp only
      refine Keeps.ite (fun _ => ?_) (fun _ => ?_)
      · refine Keeps.foldl ?_ (fun _ _ _ => ?_)
        · refine Keeps.ite (fun _ => ?_) (fun _ => ?_)
          · exact addF_keeps (by assumption)
          · assumption
        · exact setF_keeps (by assumption)
      · assumption
    · assumption

theorem execPointRaise_keeps {r₀ t₀ : State} {h : HamletId} {s : State} (h₀ : Keeps r₀ s)
    (e₀ : execPointRaise h s = .next t₀) : Keeps r₀ t₀ := by
  unfold execPointRaise at e₀
  obtain rfl := Host.Outcome.next.inj e₀
  split
  · refine Keeps.ite (fun _ => ?_) (fun _ => ?_)
    · dsimp only
      with_reducible refine Keeps.upd ?_ (Nat.le_refl _) rfl rfl rfl
      refine Keeps.foldl ?_ (fun _ _ _ => ?_)
      · assumption
      · exact setF_keeps (by assumption)
    · assumption
  · assumption

end Sys2Proof.Machine
end

