-- ==== Sys2Proof/Laws/KeepsHost.lean ====
section
/-!
SUPPORT. Every definition of the model that makes a state keeps what Keeps names: register accesses, rings, host commands, attestation and the service port. One lemma each, so
that a proof about a command cites its lemma and unfolds nothing.
-/
namespace Sys2Proof.Machine

/-! ### RegRead -/

theorem regRead_keeps {r₀ : State} {who : Requester} {b : Nat} {off : Nat} {s : State} (h₀ : Keeps r₀ s)
    : Keeps r₀ (regRead who b off s).2 := by
  unfold regRead
  dsimp only
  split
  · dsimp only
    with_reducible refine Keeps.upd ?_ (Nat.le_refl _) rfl rfl rfl
    assumption
  · split
    · dsimp only
      with_reducible refine Keeps.upd ?_ (Nat.le_refl _) rfl rfl rfl
      assumption
    · with_reducible assumption

theorem hostRead_keeps {r₀ : State} {fn : FnId} {x : Nat} {s : State} (h₀ : Keeps r₀ s)
    : Keeps r₀ (hostRead fn x s).2 := by
  unfold hostRead
  split
  · with_reducible assumption
  · split
    · split
      · exact regRead_keeps (by assumption)
      · with_reducible assumption
    · with_reducible assumption

/-! ### RegWrite -/

theorem placeWord_keeps {r₀ : State} {w : Wr} {s : State} (h₀ : Keeps r₀ s) : Keeps r₀ (placeWord w s) := by
  unfold placeWord
  dsimp only
  refine Keeps.ite (fun _ => ?_) (fun _ => ?_)
  · split
    · with_reducible refine Keeps.upd ?_ (Nat.le_refl _) rfl rfl rfl
      exact setW_keeps (setW_keeps (by assumption))
    · exact setW_keeps (by assumption)
  · exact setW_keeps (by assumption)

theorem discardWrite_keeps {r₀ : State} {w : Wr} {s : State} (h₀ : Keeps r₀ s) : Keeps r₀ (discardWrite w s) := by
  unfold discardWrite
  exact discard_keeps (by assumption)

theorem refuseWrite_keeps {r₀ : State} {w : Wr} {s : State} (h₀ : Keeps r₀ s) : Keeps r₀ (refuseWrite w s) := by
  unfold refuseWrite
  exact raise_keeps (by assumption)

theorem discardSp_keeps {r₀ : State} {w : Wr} {s : State} (h₀ : Keeps r₀ s) : Keeps r₀ (discardSp w s) := by
  unfold discardSp
  dsimp only
  refine Keeps.ite (fun _ => ?_) (fun _ => ?_)
  · exact discardWrite_keeps (addF_keeps (journal_keeps (by assumption)))
  · exact addF_keeps (addF_keeps (journal_keeps (by assumption)))

theorem setLock_keeps {r₀ : State} {b : Nat} {code : Nat} {s : State} (h₀ : Keeps r₀ s)
    : Keeps r₀ (setLock b code s) := by
  unfold setLock
  dsimp only
  with_reducible refine Keeps.upd ?_ (Nat.le_refl _) rfl rfl rfl
  exact setF_keeps (by assumption)

theorem writeLock_keeps {r₀ : State} {w : Wr} {s : State} (h₀ : Keeps r₀ s) : Keeps r₀ (writeLock w s) := by
  unfold writeLock
  dsimp only
  refine Keeps.ite (fun _ => ?_) (fun _ => ?_)
  · assumption
  · refine Keeps.ite (fun _ => ?_) (fun _ => ?_)
    · refine Keeps.ite (fun _ => ?_) (fun _ => ?_)
      · exact setLock_keeps (by assumption)
      · exact discardWrite_keeps (by assumption)
    · refine Keeps.ite (fun _ => ?_) (fun _ => ?_)
      · refine Keeps.ite (fun _ => ?_) (fun _ => ?_)
        · exact setLock_keeps (by assumption)
        · refine Keeps.ite (fun _ => ?_) (fun _ => ?_)
          · assumption
          · exact addF_keeps (by assumption)
      · exact discardWrite_keeps (by assumption)

theorem clearWords_keeps {r₀ : State} {b : Nat} {lo : Nat} {hi : Nat} {s : State} (h₀ : Keeps r₀ s)
    : Keeps r₀ (clearWords b lo hi s) := by
  unfold clearWords
  refine Keeps.foldl ?_ (fun _ _ _ => ?_)
  · assumption
  · apply setW_keeps
    with_reducible refine Keeps.upd ?_ (Nat.le_refl _) rfl rfl rfl
    assumption

theorem onOne_keeps {r : State} {w : Wr} {f : Field} {g : State → State} {s : State} (h : Keeps r s)
    (hg : ∀ t, Keeps r t → Keeps r (g t)) : Keeps r (onOne w f g s) := by
  unfold onOne
  split
  · exact hg s h
  · exact h

theorem abandonRunning_keeps {r₀ : State} {c : Nat} {s : State} (h₀ : Keeps r₀ s) : Keeps r₀ (abandonRunning c s) := by
  unfold abandonRunning
  refine updCroft_keeps ?_ ?_
  · intro _
    dsimp only
    simp
  · assumption

theorem clearHalt_keeps {r₀ : State} {b : Nat} {s : State} (h₀ : Keeps r₀ s) : Keeps r₀ (clearHalt b s) := by
  unfold clearHalt
  exact setF_keeps (setF_keeps (setF_keeps (by assumption)))

theorem setService_keeps {r₀ : State} {p : Nat} {mode : Nat} {s : State} (h₀ : Keeps r₀ s)
    : Keeps r₀ (setService p mode s) := by
  unfold setService
  apply setF_keeps
  refine Keeps.foldl ?_ (fun _ _ _ => ?_)
  · assumption
  · exact setF_keeps (by assumption)

theorem changeService_keeps {r₀ : State} {p : Nat} {mode : Nat} {s : State} (h₀ : Keeps r₀ s) : Keeps r₀
    (changeService p mode s) := by
  unfold changeService
  apply setService_keeps
  refine Keeps.ite (fun _ => ?_) (fun _ => ?_)
  · exact updPart_keeps (by assumption)
  · assumption

theorem onSeqCtrl_keeps {r₀ : State} {w : Wr} {s : State} (h₀ : Keeps r₀ s) : Keeps r₀ (onSeqCtrl w s) := by
  unfold onSeqCtrl
  dsimp only
  apply onOne_keeps
  · apply onOne_keeps
    · apply onOne_keeps
      · apply onOne_keeps
        · apply onOne_keeps
          · refine Keeps.ite (fun _ => noteHum_keeps ?_) (fun _ => ?_) <;> split <;>
              first
              | assumption
              | exact Keeps.ite (fun _ => changeService_keeps (by assumption)) (fun _ => by assumption)
          · intro _ _
            exact clearHalt_keeps (by assumption)
        · intro _ _
          exact clearWords_keeps (by assumption)
      · intro _ _
        exact purge_keeps (by assumption)
    · intro _ _
      exact purge_keeps (by assumption)
  · intro _ _
    exact abandonRunning_keeps (by assumption)

theorem accClear_keeps {r₀ : State} {w : Wr} {u : Nat} {s : State} (h₀ : Keeps r₀ s) : Keeps r₀ (accClear w u s) := by
  unfold accClear
  dsimp only
  refine Keeps.ite (fun _ => ?_) (fun _ => ?_)
  · exact discardWrite_keeps (by assumption)
  · exact releaseSlots_keeps (by assumption)

theorem probe_keeps {r₀ : State} {c : Nat} {s : State} (h₀ : Keeps r₀ s) : Keeps r₀ (probe c s) := by
  unfold probe
  dsimp only
  apply addUnits_keeps
  apply setF_keeps
  refine Keeps.foldl ?_ (fun _ _ _ => ?_)
  · assumption
  · exact setF_keeps (by assumption)

theorem onCroft_keeps {r₀ : State} {w : Wr} {s : State} (h₀ : Keeps r₀ s) : Keeps r₀ (onCroft w s) := by
  unfold onCroft
  dsimp only
  refine Keeps.ite (fun _ => ?_) (fun _ => ?_)
  · exact onSeqCtrl_keeps (by assumption)
  · refine Keeps.ite (fun _ => ?_) (fun _ => ?_)
    · apply onOne_keeps
      · apply onOne_keeps
        · apply onOne_keeps
          · assumption
          · intro _ _
            exact clearWords_keeps (by assumption)
        · intro _ _
          exact clearWords_keeps (by assumption)
      · intro _ _
        exact accClear_keeps (by assumption)
    · refine Keeps.ite (fun _ => ?_) (fun _ => ?_)
      · apply onOne_keeps
        · apply onOne_keeps
          · assumption
          · intro _ _
            exact clearWords_keeps (by assumption)
        · intro _ _
          exact accClear_keeps (by assumption)
      · refine Keeps.ite (fun _ => ?_) (fun _ => ?_)
        · apply onOne_keeps
          · assumption
          · intro _ _
            exact clearWords_keeps (by assumption)
        · refine Keeps.ite (fun _ => ?_) (fun _ => ?_)
          · apply onOne_keeps
            · assumption
            · intro _ _
              exact clearWords_keeps (by assumption)
          · refine Keeps.ite (fun _ => ?_) (fun _ => ?_)
            · apply onOne_keeps
              · apply onOne_keeps
                · assumption
                · intro _ _
                  exact clearWords_keeps (by assumption)
              · intro _ _
                exact clearWords_keeps (by assumption)
            · refine Keeps.ite (fun _ => ?_) (fun _ => ?_)
              · apply onOne_keeps
                · apply onOne_keeps
                  · assumption
                  · intro _ _
                    exact clearWords_keeps (by assumption)
                · intro _ _
                  exact probe_keeps (by assumption)
              · refine Keeps.ite (fun _ => ?_) (fun _ => ?_)
                · apply onOne_keeps
                  · apply onOne_keeps
                    · assumption
                    · intro _ _
                      exact clearWords_keeps (by assumption)
                  · intro _ _
                    exact clearWords_keeps (by assumption)
                · refine Keeps.ite (fun _ => ?_) (fun _ => ?_)
                  · apply onOne_keeps
                    · apply onOne_keeps
                      · assumption
                      · intro _ _
                        exact clearWords_keeps (by assumption)
                    · intro _ _
                      exact clearWords_keeps (by assumption)
                  · refine Keeps.ite (fun _ => ?_) (fun _ => ?_)
                    · apply onOne_keeps
                      · apply onOne_keeps
                        · assumption
                        · intro _ _
                          refine updCroft_keeps (fun _ => Nat.le_refl _) ?_
                          assumption
                      · intro _ _
                        exact clearWords_keeps (by assumption)
                    · refine Keeps.ite (fun _ => ?_) (fun _ => ?_)
                      · apply onOne_keeps
                        · assumption
                        · intro _ _
                          exact clearWords_keeps (by assumption)
                      · assumption

theorem keyAction_keeps {r₀ : State} {p : Nat} {destroy : Bool} {s : State} (h₀ : Keeps r₀ s)
    : Keeps r₀ (keyAction p destroy s).2 := by
  unfold keyAction
  split
  · split
    · dsimp only
      exact keyDestroy_keeps (by assumption)
    · with_reducible assumption
  · split
    · dsimp only
      exact keyGenerate_keeps (by assumption)
    · with_reducible assumption

theorem onMapKey_keeps {r₀ : State} {w : Wr} {s : State} (h₀ : Keeps r₀ s) : Keeps r₀ (onMapKey w s) := by
  unfold onMapKey
  dsimp only
  apply setF_keeps
  apply setF_keeps
  apply onOne_keeps
  · apply onOne_keeps
    · assumption
    · intro _ _
      exact keyAction_keeps (by assumption)
  · intro _ _
    exact keyAction_keeps (by assumption)

theorem onSlice_keeps {r₀ : State} {w : Wr} {s0 : State} {s : State} (h₀ : Keeps r₀ s) : Keeps r₀ (onSlice w s0
    s) := by
  unfold onSlice
  dsimp only
  refine Keeps.ite (fun _ => ?_) (fun _ => ?_)
  · assumption
  · apply onOne_keeps
    · apply onOne_keeps
      · apply onOne_keeps
        · apply remapCache_keeps
          refine Keeps.ite (fun _ => ?_) (fun _ => ?_)
          · apply loseRange_keeps
            refine Keeps.ite (fun _ => ?_) (fun _ => ?_)
            · assumption
            · exact dropLines_keeps (by assumption)
          · refine Keeps.ite (fun _ => ?_) (fun _ => ?_)
            · assumption
            · exact dropLines_keeps (by assumption)
        · intro _ _
          exact flushStart_keeps (by assumption)
      · intro _ _
        exact flushStart_keeps (dropLines_keeps (by assumption))
    · intro _ _
      exact clearWords_keeps (by assumption)

theorem onTally_keeps {r₀ : State} {w : Wr} {s : State} (h₀ : Keeps r₀ s) : Keeps r₀ (onTally w s) := by
  unfold onTally
  refine Keeps.ite (fun _ => ?_) (fun _ => ?_)
  · apply onOne_keeps
    · apply onOne_keeps
      · assumption
      · intro _ _
        exact setF_keeps (setF_keeps (by assumption))
    · intro _ _
      exact clearWords_keeps (by assumption)
  · refine Keeps.ite (fun _ => ?_) (fun _ => ?_)
    · dsimp only
      exact mapWrite_keeps (by assumption)
    · refine Keeps.ite (fun _ => ?_) (fun _ => ?_)
      · apply onOne_keeps
        · assumption
        · intro _ _
          exact clearTally_keeps (by assumption)
      · assumption

theorem onMill_keeps {r₀ : State} {w : Wr} {s0 : State} {s : State} (h₀ : Keeps r₀ s) : Keeps r₀ (onMill w s0 s) := by
  unfold onMill
  dsimp only
  refine Keeps.ite (fun _ => ?_) (fun _ => ?_)
  · apply onOne_keeps
    · assumption
    · intro _ _
      exact clearWords_keeps (by assumption)
  · refine Keeps.ite (fun _ => ?_) (fun _ => ?_)
    · refine Keeps.ite (fun _ => ?_) (fun _ => ?_)
      · refine Keeps.ite (fun _ => ?_) (fun _ => ?_)
        · exact startJob_keeps (refreshJobs_keeps (by assumption))
        · exact refreshJobs_keeps (by assumption)
      · refine Keeps.ite (fun _ => ?_) (fun _ => ?_)
        · apply onOne_keeps
          · apply onOne_keeps
            · assumption
            · intro _ _
              exact writeReady_keeps (by assumption)
          · intro _ _
            exact writeRepeat_keeps (by assumption)
        · refine Keeps.ite (fun _ => ?_) (fun _ => ?_)
          · apply onOne_keeps
            · assumption
            · intro _ _
              refine Keeps.ite (fun _ => ?_) (fun _ => ?_)
              · exact reloadJob_keeps (by assumption)
              · assumption
          · assumption
    · refine Keeps.ite (fun _ => ?_) (fun _ => ?_)
      · refine Keeps.ite (fun _ => ?_) (fun _ => ?_)
        · apply onOne_keeps
          · apply onOne_keeps
            · apply onOne_keeps
              · apply onOne_keeps
                · refine Keeps.ite (fun _ => ?_) (fun _ => ?_)
                  · exact updPar_keeps (by assumption)
                  · assumption
                · intro _ _
                  refine Keeps.ite (fun _ => ?_) (fun _ => ?_)
                  · exact parityLoad_keeps (by assumption)
                  · assumption
              · intro _ _
                exact rebuildClear_keeps (by assumption)
            · intro _ _
              exact failAdd_keeps (by assumption)
          · intro _ _
            exact clearWords_keeps (by assumption)
        · refine Keeps.ite (fun _ => ?_) (fun _ => ?_)
          · refine Keeps.ite (fun _ => ?_) (fun _ => ?_)
            · assumption
            · exact setMl_keeps (by assumption)
          · assumption
      · assumption

theorem onFnCtrl_keeps {r₀ : State} {w : Wr} {s0 : State} {s : State} (h₀ : Keeps r₀ s)
    : Keeps r₀ (onFnCtrl w s0 s) := by
  unfold onFnCtrl
  dsimp only
  refine Keeps.ite (fun _ => ?_) (fun _ => ?_)
  · apply setRing_keeps
    apply setF_keeps
    apply onOne_keeps
    · apply onOne_keeps
      · assumption
      · intro _ _
        exact clearWords_keeps (by assumption)
    · intro _ _
      refine Keeps.foldl ?_ (fun _ _ _ => ?_)
      · exact setF_keeps (by assumption)
      · exact setF_keeps (by assumption)
  · apply onOne_keeps
    · apply onOne_keeps
      · assumption
      · intro _ _
        exact clearWords_keeps (by assumption)
    · intro _ _
      refine Keeps.foldl ?_ (fun _ _ _ => ?_)
      · exact setF_keeps (by assumption)
      · exact setF_keeps (by assumption)

theorem onRing_keeps {r₀ : State} {w : Wr} {s0 : State} {s : State} (h₀ : Keeps r₀ s) : Keeps r₀ (onRing w s0 s) := by
  unfold onRing
  dsimp only
  refine Keeps.ite (fun _ => ?_) (fun _ => ?_)
  · exact setF_keeps (by assumption)
  · refine Keeps.ite (fun _ => ?_) (fun _ => ?_)
    · exact setF_keeps (by assumption)
    · assumption

theorem onReeve_keeps {r₀ : State} {w : Wr} {s : State} (h₀ : Keeps r₀ s) : Keeps r₀ (onReeve w s) := by
  unfold onReeve
  refine Keeps.ite (fun _ => ?_) (fun _ => ?_)
  · exact loadEntry_keeps (by assumption)
  · refine Keeps.ite (fun _ => ?_) (fun _ => ?_)
    · dsimp only
      exact setF_keeps (setF_keeps (keyAction_keeps (by assumption)))
    · refine Keeps.ite (fun _ => ?_) (fun _ => ?_)
      · exact setPerm_keeps (by assumption)
      · assumption

theorem onCroftMap_keeps {r₀ : State} {w : Wr} {s : State} (h₀ : Keeps r₀ s) : Keeps r₀ (onCroftMap w s) := by
  unfold onCroftMap
  dsimp only
  exact refreshUnits_keeps (exchangeSlots_keeps (by assumption))

theorem onWrite_keeps {r₀ : State} {w : Wr} {s0 : State} {s : State} (h₀ : Keeps r₀ s) : Keeps r₀ (onWrite w s0
    s) := by
  unfold onWrite
  refine Keeps.ite (fun _ => ?_) (fun _ => ?_)
  · apply onOne_keeps
    · assumption
    · intro _ _
      exact setF_keeps (setF_keeps (by assumption))
  · refine Keeps.ite (fun _ => ?_) (fun _ => ?_)
    · refine Keeps.ite (fun _ => ?_) (fun _ => ?_)
      · exact remapCache_keeps (by assumption)
      · assumption
    · split
      · exact onCroft_keeps (by assumption)
      · refine Keeps.ite (fun _ => ?_) (fun _ => ?_)
        · apply onOne_keeps
          · assumption
          · intro _ _
            exact clearWords_keeps (clearWords_keeps (by assumption))
        · assumption
      · refine Keeps.ite (fun _ => ?_) (fun _ => ?_)
        · apply onOne_keeps
          · assumption
          · intro _ _
            exact clearWords_keeps (clearWords_keeps (by assumption))
        · assumption
      · refine Keeps.ite (fun _ => ?_) (fun _ => ?_)
        · apply onOne_keeps
          · assumption
          · intro _ _
            exact mapApply_keeps (by assumption)
        · refine Keeps.ite (fun _ => ?_) (fun _ => ?_)
          · exact onMapKey_keeps (by assumption)
          · assumption
      · exact onSlice_keeps (by assumption)
      · exact onTally_keeps (by assumption)
      · exact onMill_keeps (by assumption)
      · refine Keeps.ite (fun _ => ?_) (fun _ => ?_)
        · apply onOne_keeps
          · assumption
          · intro _ _
            exact clearWords_keeps (by assumption)
        · assumption
      · refine Keeps.ite (fun _ => ?_) (fun _ => ?_)
        · exact repairAction_keeps (by assumption)
        · assumption
      · refine Keeps.ite (fun _ => ?_) (fun _ => ?_)
        · apply onOne_keeps
          · assumption
          · intro _ _
            exact clearWords_keeps (by assumption)
        · assumption
      · refine Keeps.ite (fun _ => ?_) (fun _ => ?_)
        · apply onOne_keeps
          · assumption
          · intro _ _
            exact startReplan_keeps (by assumption)
        · assumption
      · refine Keeps.ite (fun _ => ?_) (fun _ => ?_)
        · apply onOne_keeps
          · assumption
          · intro _ _
            exact clearWords_keeps (by assumption)
        · assumption
      · refine Keeps.ite (fun _ => ?_) (fun _ => ?_)
        · apply onOne_keeps
          · assumption
          · intro _ _
            exact clearWords_keeps (by assumption)
        · assumption
      · refine Keeps.ite (fun _ => ?_) (fun _ => ?_)
        · apply onOne_keeps
          · assumption
          · intro _ _
            exact clearWords_keeps (by assumption)
        · assumption
      · refine Keeps.ite (fun _ => ?_) (fun _ => ?_)
        · exact onFnCtrl_keeps (by assumption)
        · refine Keeps.ite (fun _ => ?_) (fun _ => ?_)
          · exact onRing_keeps (by assumption)
          · assumption
      · exact onReeve_keeps (by assumption)
      · refine Keeps.ite (fun _ => ?_) (fun _ => ?_)
        · exact onCroftMap_keeps (by assumption)
        · assumption
      · assumption
      · assumption

theorem candidate_keeps {r₀ : State} {w : Wr} {s : State} (h₀ : Keeps r₀ s) : Keeps r₀ (candidate w s) := by
  unfold candidate
  refine Keeps.ite (fun _ => ?_) (fun _ => ?_)
  · dsimp only
    with_reducible refine Keeps.upd ?_ (Nat.le_refl _) rfl rfl rfl
    assumption
  · refine Keeps.ite (fun _ => ?_) (fun _ => ?_)
    · assumption
    · exact placeWord_keeps (by assumption)

theorem spread_keeps {r₀ : State} {w : Wr} {s : State} (h₀ : Keeps r₀ s) : Keeps r₀ (spread w s) := by
  unfold spread
  refine Keeps.ite (fun _ => ?_) (fun _ => ?_)
  · split
    · refine Keeps.foldl ?_ (fun _ _ _ => ?_)
      · assumption
      · refine Keeps.ite (fun _ => ?_) (fun _ => ?_)
        · assumption
        · exact candidate_keeps (by assumption)
    · assumption
  · assumption

theorem countReserved_keeps {r₀ : State} {w : Wr} {s : State} (h₀ : Keeps r₀ s) : Keeps r₀ (countReserved w s) := by
  unfold countReserved
  dsimp only
  refine Keeps.ite (fun _ => ?_) (fun _ => ?_)
  · assumption
  · exact addF_keeps (by assumption)

theorem byFate_keeps {r₀ : State} {w : Wr} {s : State} {x2 : WFate} (h₀ : Keeps r₀ s) : Keeps r₀ (byFate w s x2) := by
  unfold byFate
  split
  · assumption
  · exact discardWrite_keeps (by assumption)
  · exact refuseWrite_keeps (by assumption)
  · exact discardSp_keeps (by assumption)
  · refine Keeps.ite (fun _ => ?_) (fun _ => ?_)
    · assumption
    · exact spread_keeps (onWrite_keeps (candidate_keeps (by assumption)))

theorem regWrite_keeps {r₀ : State} {w : Wr} {s : State} (h₀ : Keeps r₀ s) : Keeps r₀ (regWrite w s) := by
  unfold regWrite
  refine Keeps.ite (fun _ => ?_) (fun _ => ?_)
  · assumption
  · refine Keeps.ite (fun _ => ?_) (fun _ => ?_)
    · refine Keeps.ite (fun _ => ?_) (fun _ => ?_)
      · exact discardSp_keeps (by assumption)
      · exact discardWrite_keeps (by assumption)
    · dsimp only
      refine Keeps.ite (fun _ => ?_) (fun _ => ?_)
      · exact writeLock_keeps (countReserved_keeps (by assumption))
      · exact byFate_keeps (countReserved_keeps (by assumption))

theorem ownerByteWrite_keeps {r₀ : State} {x v : Nat} {s : State} (h₀ : Keeps r₀ s)
    : Keeps r₀ (ownerByteWrite x v s) := by
  unfold ownerByteWrite
  split
  · split
    · exact h₀
    · exact addF_keeps h₀
  · refine Keeps.updOwners ?_ (mapWf_mapPut _ _ _ _)
    split
    · exact h₀
    · exact addF_keeps h₀

theorem ownerWrite_keeps {r₀ : State} {who : Requester} {x : Nat} {v : Nat} {m : Nat} {s : State} (h₀
    : Keeps r₀ s) : Keeps r₀ (ownerWrite who x v m s) := by
  unfold ownerWrite
  refine Keeps.ite (fun _ => ?_) (fun _ => ?_)
  · refine Keeps.foldl ?_ (fun _ _ _ => ?_)
    · assumption
    · dsimp only
      refine Keeps.ite (fun _ => ?_) (fun _ => ?_)
      · assumption
      · exact ownerByteWrite_keeps (by assumption)
  · dsimp only
    exact discard_keeps (by assumption)

theorem barWrite_keeps {r₀ : State} {who : Requester} {x : Nat} {v : Nat} {m : Nat} {s : State} (h₀
    : Keeps r₀ s) : Keeps r₀ (barWrite who x v m s) := by
  unfold barWrite
  split
  · exact regWrite_keeps (by assumption)
  · dsimp only
    refine Keeps.ite (fun _ => ?_) (fun _ => ?_)
    · assumption
    · refine Keeps.ite (fun _ => ?_) (fun _ => ?_)
      · exact ownerWrite_keeps (by assumption)
      · split
        · exact discard_keeps (by assumption)
        · refine Keeps.ite (fun _ => ?_) (fun _ => ?_)
          · assumption
          · exact raise_keeps (by assumption)

/-! ### Rings -/

theorem stopRing_keeps {r₀ : State} {fn : Nat} {r : Nat} {s : State} (h₀ : Keeps r₀ s)
    : Keeps r₀ (stopRing fn r s) := by
  unfold stopRing
  dsimp only
  exact raise_keeps (setF_keeps (addF_keeps (by assumption)))

theorem readRecord_keeps {r₀ : State} {fn : Nat} {r : Nat} {slot : Nat} {s : State} (h₀ : Keeps r₀ s)
    : Keeps r₀ (readRecord fn r slot s).2 := by
  unfold readRecord
  dsimp only
  split
  · with_reducible assumption
  · split
    · split
      · dsimp only
        refine fnRead_keeps ?_ (by assumption)
        assumption
      · split
        · dsimp only
          refine fnRead_keeps ?_ (by assumption)
          assumption
        · split
          · dsimp only
            apply setSeal_keeps
            refine fnRead_keeps ?_ (by assumption)
            refine fnRead_keeps (t₀ := (_, _)) ?_ (by assumption)
            assumption
          · dsimp only
            apply failedTag_keeps
            refine fnRead_keeps ?_ (by assumption)
            refine fnRead_keeps (t₀ := (_, _)) ?_ (by assumption)
            assumption
    · dsimp only
      refine fnRead_keeps ?_ (by assumption)
      assumption

theorem takeRecord_keeps {r₀ : State} {fn : Nat} {r : Nat} {slot : Nat} {d : Desc} {s : State} (h₀
    : Keeps r₀ s) : Keeps r₀ (takeRecord fn r slot d s) := by
  unfold takeRecord
  dsimp only
  with_reducible refine Keeps.upd ?_ (Nat.le_refl _) rfl rfl rfl
  assumption

theorem fetchRing_keeps {r₀ : State} {fn r n : Nat} {s : State} (h₀ : Keeps r₀ s) : Keeps r₀ (fetchRing fn r n s) := by
  induction n generalizing s with
  | zero => exact h₀
  | succ n ih =>
    unfold fetchRing
    refine Keeps.ite (fun _ => ?_) (fun _ => ?_)
    · dsimp only
      split
      · apply stopRing_keeps
        refine Keeps.snd (readRecord_keeps ?_) (by assumption)
        assumption
      · refine Keeps.ite (fun _ => ?_) (fun _ => ?_)
        · apply setF_keeps
          apply takeRecord_keeps
          refine Keeps.snd (readRecord_keeps ?_) (by assumption)
          assumption
        · with_reducible apply ih
          apply setF_keeps
          apply takeRecord_keeps
          refine Keeps.snd (readRecord_keeps ?_) (by assumption)
          assumption
    · assumption

theorem execCmdFetch_keeps {r₀ t₀ : State} {t : FetchTurn} {s : State} (h₀ : Keeps r₀ s) (e₀ : execCmdFetch t s
    = .next t₀) : Keeps r₀ t₀ := by
  unfold execCmdFetch at e₀
  obtain rfl := Host.Outcome.next.inj e₀
  refine Keeps.ite (fun _ => ?_) (fun _ => ?_)
  · split
    · assumption
    · dsimp only
      refine Keeps.ite (fun _ => ?_) (fun _ => ?_)
      · apply stopRing_keeps
        apply addF_keeps
        with_reducible refine Keeps.upd ?_ (Nat.le_refl _) rfl rfl rfl
        assumption
      · apply fetchRing_keeps
        with_reducible refine Keeps.upd ?_ (Nat.le_refl _) rfl rfl rfl
        assumption
  · assumption

theorem tailWrite_keeps {r₀ : State} {fn : Nat} {r : Nat} {v : Nat} {s : State} (h₀ : Keeps r₀ s) : Keeps r₀
    (tailWrite fn r v s) := by
  unfold tailWrite
  dsimp only
  refine Keeps.ite (fun _ => ?_) (fun _ => ?_)
  · exact discard_keeps (by assumption)
  · refine Keeps.ite (fun _ => ?_) (fun _ => ?_)
    · with_reducible refine Keeps.upd ?_ (Nat.le_refl _) rfl rfl rfl
      assumption
    · split
      · refine hostXlate_keeps ?_ (by assumption)
        with_reducible refine Keeps.upd ?_ (Nat.le_refl _) rfl rfl rfl
        assumption
      · apply stopRing_keeps
        with_reducible refine Keeps.upd ?_ (Nat.le_refl _) rfl rfl rfl
        assumption

theorem headWrite_keeps {r₀ : State} {fn : Nat} {v : Nat} {s : State} (h₀ : Keeps r₀ s) : Keeps r₀ (headWrite fn v
    s) := by
  unfold headWrite
  dsimp only
  refine Keeps.ite (fun _ => ?_) (fun _ => ?_)
  · exact discard_keeps (by assumption)
  · exact drainHeld_keeps (setRing_keeps (by assumption))

theorem execCrTailWrite_keeps {r₀ t₀ : State} {fn : FnId} {r : RingId} {v : BitVec 32} {s : State} (h₀ : Keeps
    r₀ s) (e₀ : execCrTailWrite fn r v s = .next t₀) : Keeps r₀ t₀ := by
  unfold execCrTailWrite at e₀
  obtain rfl := Host.Outcome.next.inj e₀
  refine Keeps.ite (fun _ => ?_) (fun _ => ?_)
  · exact tailWrite_keeps (by assumption)
  · assumption

theorem execEvHeadWrite_keeps {r₀ t₀ : State} {fn : FnId} {v : BitVec 32} {s : State} (h₀ : Keeps r₀ s) (e₀ :
    execEvHeadWrite fn v s = .next t₀) : Keeps r₀ t₀ := by
  unfold execEvHeadWrite at e₀
  obtain rfl := Host.Outcome.next.inj e₀
  refine Keeps.ite (fun _ => ?_) (fun _ => ?_)
  · exact headWrite_keeps (by assumption)
  · assumption

theorem tableWrite_keeps {r₀ : State} {fn : Nat} {k : Nat} {l : List Nat} {s : State} (h₀ : Keeps r₀ s) : Keeps r₀
    (tableWrite fn k l s) := by
  unfold tableWrite
  dsimp only
  exact changeMsix_keeps (by assumption)

theorem bar4Write_keeps {r₀ : State} {fn : Nat} {off : Nat} {data : List Byte} {s : State} (h₀ : Keeps r₀ s) : Keeps
    r₀ (bar4Write fn off data s) := by
  unfold bar4Write
  dsimp only
  refine Keeps.ite (fun _ => ?_) (fun _ => ?_)
  · refine Keeps.ite (fun _ => ?_) (fun _ => ?_)
    · exact tableWrite_keeps (by assumption)
    · refine Keeps.ite (fun _ => ?_) (fun _ => ?_)
      · exact tableWrite_keeps (by assumption)
      · assumption
  · refine Keeps.ite (fun _ => ?_) (fun _ => ?_)
    · assumption
    · refine Keeps.ite (fun _ => ?_) (fun _ => ?_)
      · assumption
      · refine Keeps.ite (fun _ => ?_) (fun _ => ?_)
        · exact discard_keeps (by assumption)
        · refine Keeps.ite (fun _ => ?_) (fun _ => ?_)
          · exact headWrite_keeps (by assumption)
          · exact tailWrite_keeps (by assumption)

theorem takeEffect_keeps {r₀ : State} {c : Cmd} {s : State} (h₀ : Keeps r₀ s) : Keeps r₀ (takeEffect c s) := by
  unfold takeEffect
  refine Keeps.ite (fun _ => ?_) (fun _ => ?_)
  · assumption
  · refine Keeps.ite (fun _ => ?_) (fun _ => ?_)
    · refine Keeps.ite (fun _ => ?_) (fun _ => ?_)
      · exact setF_keeps (by assumption)
      · assumption
    · refine Keeps.ite (fun _ => ?_) (fun _ => ?_)
      · exact updPart_keeps (by assumption)
      · assumption

theorem execCommandComplete_keeps {r₀ t₀ : State} {fn : FnId} {s : State} (h₀ : Keeps r₀ s) (e₀ :
    execCommandComplete fn s = .next t₀) : Keeps r₀ t₀ := by
  unfold execCommandComplete at e₀
  obtain rfl := Host.Outcome.next.inj e₀
  split
  · assumption
  · refine Keeps.ite (fun _ => ?_) (fun _ => ?_)
    · split
      · exact stopEvRing_keeps (by assumption)
      · dsimp only
        apply signal_keeps
        apply addF_keeps
        apply takeEffect_keeps
        with_reducible refine Keeps.upd ?_ (Nat.le_refl _) rfl rfl rfl
        refine putRecord_keeps ?_ (by assumption)
        assumption
    · assumption

theorem execMsixDelayExpire_keeps {r₀ t₀ : State} {fn : FnId} {vec : Fin 16} {s : State} (h₀ : Keeps r₀ s)
    (e₀ : execMsixDelayExpire fn vec s = .next t₀) : Keeps r₀ t₀ := by
  unfold execMsixDelayExpire at e₀
  obtain rfl := Host.Outcome.next.inj e₀
  split
  · refine Keeps.ite (fun _ => ?_) (fun _ => ?_)
    · exact fireMsix_keeps (by assumption)
    · assumption
  · assumption

theorem cmdRead_keeps {r₀ : State} {c : Cmd} {enc n : Nat} {s : State} (h₀ : Keeps r₀ s)
    : Keeps r₀ (cmdRead c enc n s).2 := by
  unfold cmdRead
  dsimp only
  split
  · exact h₀
  · split
    · split
      · exact memAsk_keeps h₀
      · exact h₀
    · split
      · refine Keeps.foldP h₀ fun o x h => ?_
        split
        · exact h
        · split
          · exact h
          · next e =>
            have h' := hostXlate_keeps (t₀ := (_, _, _)) h e
            split
            · exact h'
            · split
              · exact h'
              · exact failedTag_keeps h'
      · split
        · next e => exact fnRead_keeps (t₀ := (_, _)) h₀ e
        · exact h₀

theorem sealedWrite_keeps {r₀ : State} {p : Nat} {a : Nat} {l : List Byte} {s : State} (h₀ : Keeps r₀ s) : Keeps r₀
    (sealedWrite p a l s).2 := by
  unfold sealedWrite
  split
  · dsimp only
    assumption
  · dsimp only
    split
    · dsimp only
      refine hostXlate_keeps ?_ (by assumption)
      assumption
    · split
      · dsimp only
        apply sealChunk_keeps
        refine hostXlate_keeps ?_ (by assumption)
        assumption
      · dsimp only
        apply failedTag_keeps
        refine hostXlate_keeps ?_ (by assumption)
        assumption

theorem cmdWrite_keeps {r₀ : State} {c : Cmd} {enc : Nat} {l : List Byte} {s : State} (h₀ : Keeps r₀ s) : Keeps r₀
    (cmdWrite c enc l s).2 := by
  unfold cmdWrite
  dsimp only
  split
  · split
    · dsimp only
      assumption
    · dsimp only
      exact wrN_keeps (by assumption)
  · split
    · split
      · dsimp only
        exact memAsk_keeps (store0_keeps (by assumption))
      · dsimp only
        assumption
    · split
      · exact sealedWrite_keeps (by assumption)
      · split
        · dsimp only
          refine fnWrite_keeps ?_ (by assumption)
          assumption
        · dsimp only
          assumption

theorem updCmd_keeps {r₀ : State} {uid : Nat} {f : Cmd → Cmd} {s : State} (h₀ : Keeps r₀ s)
    : Keeps r₀ (updCmd uid f s) := by
  unfold updCmd
  exact mapCmds_keeps (by assumption)

theorem startCmd_keeps {r₀ : State} {fn r op : Nat} {run : Cmd → State → State} {s : State}
    (run_keeps : ∀ c s, Keeps r₀ s → Keeps r₀ (run c s)) (h₀ : Keeps r₀ s) : Keeps r₀ (startCmd fn r op run s) := by
  unfold startCmd
  split
  · exact h₀
  · refine Keeps.ite (fun _ => run_keeps _ _ h₀) (fun _ => ?_)
    refine Keeps.ite (fun _ => endCmd_keeps h₀) (fun _ => ?_)
    refine Keeps.ite (fun _ => endCmd_keeps h₀) (fun _ => ?_)
    exact run_keeps _ _ (Keeps.ite (fun _ => h₀) (fun _ => setF_keeps h₀))

/-! ### HostCmds -/

theorem runList_keeps {r₀ : State} {crofts : List Nat} {c : Cmd} {s : State} (h₀ : Keeps r₀ s)
    : Keeps r₀ (runList crofts c s) := by
  unfold runList
  dsimp only
  split
  · apply endCmd_keeps
    refine Keeps.snd (cmdRead_keeps ?_) (by assumption)
    assumption
  · refine Keeps.ite (fun _ => ?_) (fun _ => ?_)
    · apply endCmd_keeps
      refine Keeps.snd (cmdRead_keeps ?_) (by assumption)
      assumption
    · apply updCmd_keeps
      apply updPart_keeps
      refine Keeps.snd (cmdRead_keeps ?_) (by assumption)
      assumption

theorem execRunList_keeps {r₀ t₀ : State} {fn : FnId} {r : RingId} {crofts : List Nat} {s : State} (h₀
    : Keeps r₀ s) (e₀ : execRunList fn r crofts s = .next t₀) : Keeps r₀ t₀ := by
  unfold execRunList at e₀
  obtain rfl := Host.Outcome.next.inj e₀
  refine startCmd_keeps (fun _ _ h₀ => ?_) ?_
  · exact runList_keeps (by assumption)
  · assumption

theorem releaseStep_keeps {r₀ : State} {c : Cmd} {rs : List Rel} {es : List (Nat × Nat)} {s : State} (h₀ : Keeps r₀
    s) : Keeps r₀ (releaseStep c rs es s) := by
  unfold releaseStep
  dsimp only
  exact updCmd_keeps (openStep_keeps (sendExpects_keeps (updPart_keeps (by assumption))))

theorem acceptStep_keeps {r₀ : State} {crofts : List Nat} {c : Cmd} {s : State} (h₀ : Keeps r₀ s)
    : Keeps r₀ (acceptStep crofts c s) := by
  unfold acceptStep
  dsimp only
  refine Keeps.ite (fun _ => ?_) (fun _ => ?_)
  · exact endCmd_keeps (by assumption)
  · refine Keeps.ite (fun _ => ?_) (fun _ => ?_)
    · exact endCmd_keeps (by assumption)
    · split
      · apply endCmd_keeps
        refine Keeps.snd (cmdRead_keeps ?_) (by assumption)
        assumption
      · split
        · apply endCmd_keeps
          refine Keeps.snd (cmdRead_keeps ?_) (by assumption)
          assumption
        · split
          · apply endCmd_keeps
            refine Keeps.snd (cmdRead_keeps ?_) (by assumption)
            refine Keeps.snd (cmdRead_keeps ?_) (by assumption)
            assumption
          · refine Keeps.ite (fun _ => ?_) (fun _ => ?_)
            · apply endCmd_keeps
              refine Keeps.snd (cmdRead_keeps ?_) (by assumption)
              refine Keeps.snd (cmdRead_keeps ?_) (by assumption)
              assumption
            · apply releaseStep_keeps
              refine Keeps.snd (cmdRead_keeps ?_) (by assumption)
              refine Keeps.snd (cmdRead_keeps ?_) (by assumption)
              assumption

theorem stepCmd_keeps {r₀ : State} {crofts : List Nat} {c : Cmd} {s : State} (h₀ : Keeps r₀ s)
    : Keeps r₀ (stepCmd crofts c s) := by
  unfold stepCmd
  dsimp only
  refine Keeps.ite (fun _ => ?_) (fun _ => ?_)
  · exact endCmd_keeps (by assumption)
  · refine Keeps.ite (fun _ => ?_) (fun _ => ?_)
    · exact updCmd_keeps (by assumption)
    · exact acceptStep_keeps (by assumption)

theorem execStep_keeps {r₀ t₀ : State} {fn : FnId} {r : RingId} {crofts : List Nat} {s : State} (h₀ : Keeps r₀ s)
    (e₀ : execStep fn r crofts s = .next t₀) : Keeps r₀ t₀ := by
  unfold execStep at e₀
  obtain rfl := Host.Outcome.next.inj e₀
  refine startCmd_keeps (fun _ _ h₀ => ?_) ?_
  · exact stepCmd_keeps (by assumption)
  · assumption

theorem execStepWaitAccept_keeps {r₀ t₀ : State} {p : PartId} {crofts : List Nat} {s : State} (h₀ : Keeps r₀ s)
    (e₀ : execStepWaitAccept p crofts s = .next t₀) : Keeps r₀ t₀ := by
  unfold execStepWaitAccept at e₀
  obtain rfl := Host.Outcome.next.inj e₀
  split
  · refine Keeps.ite (fun _ => ?_) (fun _ => ?_)
    · exact acceptStep_keeps (by assumption)
    · assumption
  · assumption

theorem directTask_keeps {r₀ : State} {c : Cmd} {s : State} (h₀ : Keeps r₀ s) : Keeps r₀ (directTask c s) := by
  unfold directTask
  dsimp only
  split
  · exact endCmd_keeps h₀
  · split
    · exact endCmd_keeps h₀
    · split
      · exact endCmd_keeps h₀
      · split
        · next e => exact endCmd_keeps (Keeps.snd (cmdRead_keeps h₀) e)
        · next e =>
          split
          · next ht =>
            refine enqueueAt_keeps (updCmd_keeps (Keeps.snd (cmdRead_keeps h₀) e)) fun _ => ?_
            rw [croftOf_congr (t := updCmd _ _ _) rfl]
            exact takes_room ht
          · exact Keeps.snd (cmdRead_keeps h₀) e

theorem execDirectTask_keeps {r₀ t₀ : State} {fn : FnId} {r : RingId} {s : State} (h₀ : Keeps r₀ s)
    (e₀ : execDirectTask fn r s = .next t₀) : Keeps r₀ t₀ := by
  unfold execDirectTask at e₀
  obtain rfl := Host.Outcome.next.inj e₀
  refine Keeps.ite (fun _ => ?_) (fun _ => ?_)
  · assumption
  · refine startCmd_keeps (fun _ _ h₀ => ?_) ?_
    · exact directTask_keeps (by assumption)
    · assumption

theorem serviceCmd_keeps {r₀ : State} {c : Cmd} {s : State} (h₀ : Keeps r₀ s) : Keeps r₀ (serviceCmd c s) := by
  unfold serviceCmd
  dsimp only
  refine Keeps.ite (fun _ => ?_) (fun _ => ?_)
  · exact endCmd_keeps (by assumption)
  · apply endCmd_keeps
    apply setService_keeps
    refine Keeps.ite (fun _ => ?_) (fun _ => ?_)
    · exact updPart_keeps (by assumption)
    · assumption

theorem execService_keeps {r₀ t₀ : State} {fn : FnId} {r : RingId} {s : State} (h₀ : Keeps r₀ s)
    (e₀ : execService fn r s = .next t₀) : Keeps r₀ t₀ := by
  unfold execService at e₀
  obtain rfl := Host.Outcome.next.inj e₀
  refine startCmd_keeps (fun _ _ h₀ => ?_) ?_
  · exact serviceCmd_keeps (by assumption)
  · assumption

theorem execNop_keeps {r₀ t₀ : State} {fn : FnId} {r : RingId} {s : State} (h₀ : Keeps r₀ s)
    (e₀ : execNop fn r s = .next t₀) : Keeps r₀ t₀ := by
  unfold execNop at e₀
  obtain rfl := Host.Outcome.next.inj e₀
  refine startCmd_keeps (fun _ _ h₀ => ?_) ?_
  · exact endCmd_keeps (by assumption)
  · assumption

theorem execSetBbGen_keeps {r₀ t₀ : State} {fn : FnId} {r : RingId} {s : State} (h₀ : Keeps r₀ s) (e₀ :
    execSetBbGen fn r s = .next t₀) : Keeps r₀ t₀ := by
  unfold execSetBbGen at e₀
  obtain rfl := Host.Outcome.next.inj e₀
  apply startCmd_keeps
  · intro _ _ _
    exact endCmd_keeps (by assumption)
  · assumption

theorem invalidateCmd_keeps {r₀ : State} {c : Cmd} {s : State} (h₀ : Keeps r₀ s) : Keeps r₀ (invalidateCmd c s) := by
  unfold invalidateCmd
  dsimp only
  refine Keeps.ite (fun _ => ?_) (fun _ => ?_)
  · exact updCmd_keeps (updPart_keeps (by assumption))
  · exact endCmd_keeps (updPart_keeps (by assumption))

theorem execInvalidate_keeps {r₀ t₀ : State} {fn : FnId} {r : RingId} {s : State} (h₀ : Keeps r₀ s) (e₀ :
    execInvalidate fn r s = .next t₀) : Keeps r₀ t₀ := by
  unfold execInvalidate at e₀
  obtain rfl := Host.Outcome.next.inj e₀
  split
  · exact endCmd_keeps (by assumption)
  · apply startCmd_keeps
    · intro _ _ _
      exact invalidateCmd_keeps (by assumption)
    · assumption

theorem regsWrite_keeps {r₀ : State} {w : Wr} {s : State} (h₀ : Keeps r₀ s) : Keeps r₀ (regsWrite w s).2 := by
  unfold regsWrite
  split
  · with_reducible assumption
  · split
    · dsimp only
      exact regWrite_keeps (by assumption)
    · split
      · with_reducible assumption
      · dsimp only
        exact regWrite_keeps (by assumption)
      · dsimp only
        refine Keeps.ite (fun _ => ?_) (fun _ => ?_)
        · exact regWrite_keeps (by assumption)
        · assumption
      · dsimp only
        refine Keeps.ite (fun _ => ?_) (fun _ => ?_)
        · exact regWrite_keeps (by assumption)
        · assumption
      · split
        · dsimp only
          exact regWrite_keeps (by assumption)
        · with_reducible assumption

theorem regsEntry_keeps {r₀ : State} {c : Cmd} {at_ : Nat} {e : List Byte} {s : State} (h₀ : Keeps r₀ s) : Keeps
    r₀ (regsEntry c at_ e s).2 := by
  unfold regsEntry
  dsimp only
  split
  · dsimp only
    assumption
  · split
    · dsimp only
      assumption
    · split
      · split
        · exact cmdWrite_keeps (by assumption)
        · dsimp only
          assumption
      · split
        · dsimp only
          assumption
        · split
          · dsimp only
            exact regsWrite_keeps (by assumption)
          · exact cmdWrite_keeps (regRead_keeps (by assumption))

theorem regsLoop_keeps {r₀ : State} {c : Cmd} {enc : Nat} {l : List Byte} {n : List Nat} {s : State}
    (h₀ : Keeps r₀ s) : Keeps r₀ (regsLoop c enc l n s) := by
  induction n generalizing s with
  | nil => exact endCmd_keeps h₀
  | cons i n ih =>
    have h : Keeps r₀ (regsEntry c (enc + 16 * i) ((l.drop (16 * i)).take 16) s).2 := regsEntry_keeps h₀
    unfold regsLoop
    split
    · next e => rw [e] at h; exact ih h
    · next e => rw [e] at h; exact endCmd_keeps h

theorem regsCmd_keeps {r₀ : State} {c : Cmd} {s : State} (h₀ : Keeps r₀ s) : Keeps r₀ (regsCmd c s) := by
  unfold regsCmd
  dsimp only
  split
  · apply endCmd_keeps
    refine Keeps.snd (cmdRead_keeps ?_) (by assumption)
    assumption
  · apply regsLoop_keeps
    refine Keeps.snd (cmdRead_keeps ?_) (by assumption)
    assumption

theorem execRegs_keeps {r₀ t₀ : State} {fn : FnId} {r : RingId} {s : State} (h₀ : Keeps r₀ s)
    (e₀ : execRegs fn r s = .next t₀) : Keeps r₀ t₀ := by
  unfold execRegs at e₀
  obtain rfl := Host.Outcome.next.inj e₀
  refine startCmd_keeps (fun _ _ h₀ => ?_) ?_
  · exact regsCmd_keeps (by assumption)
  · assumption

theorem purgeAll_keeps {r₀ : State} {p : Nat} {s : State} (h₀ : Keeps r₀ s) : Keeps r₀ (purgeAll p s) := by
  unfold purgeAll
  dsimp only
  refine Keeps.foldl ?_ (fun _ _ _ => ?_)
  · exact updPart_keeps (by assumption)
  · apply purge_keeps
    refine updCroft_keeps ?_ ?_
    · intro _
      dsimp only
      simp
    · refine Keeps.foldl ?_ (fun _ _ _ => ?_)
      · exact setF_keeps (by assumption)
      · exact endOfTask_keeps (by assumption)

theorem quiesceStop_keeps {r₀ : State} {p : Nat} {s : State} (h₀ : Keeps r₀ s) : Keeps r₀ (quiesceStop p s) := by
  unfold quiesceStop
  split
  · refine Keeps.ite (fun _ => ?_) (fun _ => ?_)
    · exact purgeAll_keeps (by assumption)
    · assumption
  · assumption

theorem beginQuiesce_keeps {r₀ : State} {p : Nat} {cmd : Nat} {fnReset : Bool} {s : State} (h₀ : Keeps r₀ s) : Keeps
    r₀ (beginQuiesce p cmd fnReset s) := by
  unfold beginQuiesce
  dsimp only
  apply quiesceStop_keeps
  refine Keeps.ite (fun _ => ?_) (fun _ => ?_)
  · exact writeRepeat_keeps (updPart_keeps (by assumption))
  · exact updPart_keeps (by assumption)

theorem execQuiesce_keeps {r₀ t₀ : State} {fn : FnId} {r : RingId} {s : State} (h₀ : Keeps r₀ s)
    (e₀ : execQuiesce fn r s = .next t₀) : Keeps r₀ t₀ := by
  unfold execQuiesce at e₀
  obtain rfl := Host.Outcome.next.inj e₀
  refine startCmd_keeps (fun _ _ h₀ => ?_) ?_
  · exact beginQuiesce_keeps (updCmd_keeps (by assumption))
  · assumption

theorem execQuiescePart_keeps {r₀ t₀ : State} {r : RingId} {s : State} (h₀ : Keeps r₀ s)
    (e₀ : execQuiescePart r s = .next t₀) : Keeps r₀ t₀ := by
  unfold execQuiescePart at e₀
  obtain rfl := Host.Outcome.next.inj e₀
  split
  · assumption
  · dsimp only
    refine Keeps.ite (fun _ => ?_) (fun _ => ?_)
    · exact endCmd_keeps (by assumption)
    · refine Keeps.ite (fun _ => ?_) (fun _ => ?_)
      · exact endCmd_keeps (by assumption)
      · refine Keeps.ite (fun _ => ?_) (fun _ => ?_)
        · assumption
        · exact beginQuiesce_keeps (updCmd_keeps (by assumption))

theorem resetPage_keeps {r₀ : State} {b : Nat} {keep : List Field} {s : State} (h₀ : Keeps r₀ s) :
    Keeps r₀ (resetPage b keep s) := by
  unfold resetPage
  exact keepFields_keeps (h₀.trans ⟨rfl, le_refl _, id, id, fun x => ⟨mapWf_filter _ _ _ x.1, x.2⟩, id, List.prefix_refl _,
    fun _ h => h⟩)

theorem resetRings_keeps {r₀ : State} {fn : Nat} {s : State} (h₀ : Keeps r₀ s) : Keeps r₀ (resetRings fn s) := by
  unfold resetRings
  with_reducible refine Keeps.upd ?_ (Nat.le_refl _) rfl rfl rfl
  assumption

theorem endFunctionReset_keeps {r₀ : State} {p : Nat} {s : State} (h₀ : Keeps r₀ s) : Keeps r₀ (endFunctionReset p
    s) := by
  unfold endFunctionReset
  dsimp only
  apply resetPage_keeps
  apply resetRings_keeps
  with_reducible refine Keeps.upd ?_ (Nat.le_refl _) rfl rfl rfl
  exact dropSession_keeps (by assumption)

theorem endQuiesce_keeps {r₀ : State} {p : Nat} {q : Quiesce} {s : State} (h₀ : Keeps r₀ s) : Keeps r₀ (endQuiesce
    p q s) := by
  unfold endQuiesce
  dsimp only
  refine Keeps.ite (fun _ => ?_) (fun _ => ?_)
  · apply endFunctionReset_keeps
    refine Keeps.ite (fun _ => ?_) (fun _ => ?_)
    · exact partitionEvent_keeps (mapCmds_keeps (updPart_keeps (setF_keeps (setService_keeps (by assumption)))))
    · apply endCmd_keeps
      exact partitionEvent_keeps (mapCmds_keeps (updPart_keeps (setF_keeps (setService_keeps (by assumption)))))
  · refine Keeps.ite (fun _ => ?_) (fun _ => ?_)
    · exact partitionEvent_keeps (mapCmds_keeps (updPart_keeps (setF_keeps (setService_keeps (by assumption)))))
    · apply endCmd_keeps
      exact partitionEvent_keeps (mapCmds_keeps (updPart_keeps (setF_keeps (setService_keeps (by assumption)))))

theorem execQuiesceComplete_keeps {r₀ t₀ : State} {p : PartId} {s : State} (h₀ : Keeps r₀ s)
    (e₀ : execQuiesceComplete p s = .next t₀) : Keeps r₀ t₀ := by
  unfold execQuiesceComplete at e₀
  obtain rfl := Host.Outcome.next.inj e₀
  dsimp only
  split
  · refine Keeps.ite (fun _ => ?_) (fun _ => ?_)
    · exact endQuiesce_keeps (quiesceStop_keeps (by assumption))
    · exact quiesceStop_keeps (by assumption)
  · exact quiesceStop_keeps (by assumption)

theorem execQuiesceWedge_keeps {r₀ t₀ : State} {p : PartId} {s : State} (h₀ : Keeps r₀ s) (e₀ : execQuiesceWedge
    p s = .next t₀) : Keeps r₀ t₀ := by
  unfold execQuiesceWedge at e₀
  obtain rfl := Host.Outcome.next.inj e₀
  split
  · refine Keeps.ite (fun _ => ?_) (fun _ => ?_)
    · dsimp only
      refine Keeps.ite (fun _ => ?_) (fun _ => ?_)
      · apply endFunctionReset_keeps
        refine Keeps.ite (fun _ => ?_) (fun _ => ?_)
        · exact partitionEvent_keeps (partitionEvent_keeps (setF_keeps (updPart_keeps (by assumption))))
        · apply endCmd_keeps
          exact partitionEvent_keeps (partitionEvent_keeps (setF_keeps (updPart_keeps (by assumption))))
      · refine Keeps.ite (fun _ => ?_) (fun _ => ?_)
        · exact partitionEvent_keeps (partitionEvent_keeps (setF_keeps (updPart_keeps (by assumption))))
        · apply endCmd_keeps
          exact partitionEvent_keeps (partitionEvent_keeps (setF_keeps (updPart_keeps (by assumption))))
    · assumption
  · assumption

theorem disableCmdRings_keeps {r₀ : State} {fn : Nat} {s : State} (h₀ : Keeps r₀ s) : Keeps r₀ (disableCmdRings fn
    s) := by
  unfold disableCmdRings
  dsimp only
  refine Keeps.foldl ?_ (fun _ _ _ => ?_)
  · assumption
  · exact setF_keeps (setF_keeps (by assumption))

theorem disableRings_keeps {r₀ : State} {fn : Nat} {s : State} (h₀ : Keeps r₀ s) : Keeps r₀ (disableRings fn s) := by
  unfold disableRings
  exact mapCmds_keeps (setF_keeps (disableCmdRings_keeps (by assumption)))

theorem functionReset_keeps {r₀ : State} {p : Nat} {s : State} (h₀ : Keeps r₀ s) : Keeps r₀ (functionReset p s) := by
  unfold functionReset
  dsimp only
  refine Keeps.ite (fun _ => ?_) (fun _ => ?_)
  · exact endFunctionReset_keeps (disableRings_keeps (noteKeys_keeps (by assumption)))
  · split
    · exact updPart_keeps (disableRings_keeps (noteKeys_keeps (by assumption)))
    · exact beginQuiesce_keeps (disableRings_keeps (noteKeys_keeps (by assumption)))

theorem execFunctionReset_keeps {r₀ t₀ : State} {p : PartId} {s : State} (h₀ : Keeps r₀ s)
    (e₀ : execFunctionReset p s = .next t₀) : Keeps r₀ t₀ := by
  unfold execFunctionReset at e₀
  obtain rfl := Host.Outcome.next.inj e₀
  refine Keeps.ite (fun _ => ?_) (fun _ => ?_)
  · exact functionReset_keeps (by assumption)
  · assumption

theorem execHostReadTimeout_keeps {r₀ t₀ : State} {n : Nat} {why : ReadFail} {s : State} (h₀ : Keeps r₀ s) (e₀ :
    execHostReadTimeout n why s = .next t₀) : Keeps r₀ t₀ := by
  unfold execHostReadTimeout at e₀
  obtain rfl := Host.Outcome.next.inj e₀
  split
  · assumption
  · refine Keeps.ite (fun _ => ?_) (fun _ => ?_)
    · assumption
    · dsimp only
      apply failTask_keeps
      apply addF_keeps
      split
      · apply logAer_keeps
        apply addF_keeps
        refine updCroft_keeps (fun _ => Nat.le_refl _) ?_
        with_reducible refine Keeps.upd ?_ (Nat.le_refl _) rfl rfl rfl
        assumption
      · apply logAer_keeps
        refine updCroft_keeps (fun _ => Nat.le_refl _) ?_
        with_reducible refine Keeps.upd ?_ (Nat.le_refl _) rfl rfl rfl
        assumption
      · refine updCroft_keeps (fun _ => Nat.le_refl _) ?_
        with_reducible refine Keeps.upd ?_ (Nat.le_refl _) rfl rfl rfl
        assumption

/-! ### Assembly -/

theorem setOwner_keeps {r₀ : State} {b : Nat} {own : Option Nat} {s : State} (h₀ : Keeps r₀ s)
    : Keeps r₀ (setOwner b own s) := by
  unfold setOwner
  exact setF_keeps (setF_keeps (by assumption))

theorem ownRanges_keeps {r₀ : State} {own : Option Nat} {rs : List (Nat × Nat)} {s : State} (h₀ : Keeps r₀ s) :
    Keeps r₀ (ownRanges own rs s) := by
  unfold ownRanges
  refine Keeps.foldl h₀ fun _ _ h => Keeps.foldl h fun _ _ h => ?_
  split
  · exact h.updOwners (mapWf_mapPut _ _ _ _)
  · exact h

theorem mapDefault_keeps {r₀ : State} {p : Nat} {n : Nat} {s : State} (h₀ : Keeps r₀ s)
    : Keeps r₀ (mapDefault p n s) := by
  unfold mapDefault
  refine Keeps.foldl ?_ (fun _ _ _ => ?_)
  · assumption
  · split
    · exact mapTally_keeps (by assumption)
    · assumption

theorem wakeCroft_keeps {r₀ : State} {c : Nat} {s : State} (h₀ : Keeps r₀ s) : Keeps r₀ (wakeCroft c s) := by
  unfold wakeCroft
  dsimp only
  refine Keeps.ite (fun _ => ?_) (fun _ => ?_)
  · exact setF_keeps (setF_keeps (by assumption))
  · exact leaveRetention_keeps (setF_keeps (setF_keeps (by assumption)))

theorem slicesOff_keeps {r₀ : State} {l : List Nat} {s : State} (h₀ : Keeps r₀ s) : Keeps r₀ (slicesOff l s) := by
  unfold slicesOff
  refine Keeps.foldl ?_ (fun _ _ _ => ?_)
  · assumption
  · refine Keeps.ite (fun _ => ?_) (fun _ => ?_)
    · assumption
    · exact loseRange_keeps (setF_keeps (dropLines_keeps (by assumption)))

theorem assemble_keeps {r₀ : State} {d : PartDesc} {rs : List (Nat × Nat)} {s : State} (h₀ : Keeps r₀ s) : Keeps r₀
    (assemble d rs s) := by
  unfold assemble
  dsimp only
  apply partitionEvent_keeps
  apply setPart_keeps
  apply disableCmdRings_keeps
  apply writeJobEnable_keeps
  refine Keeps.ite (fun _ => ?_) (fun _ => ?_)
  · apply keyGenerate_keeps
    apply setF_keeps
    apply setF_keeps
    apply setF_keeps
    apply setF_keeps
    refine Keeps.foldl ?_ (fun _ _ _ => ?_)
    · apply mapDefault_keeps
      apply ownRanges_keeps
      refine Keeps.foldl ?_ (fun _ _ _ => ?_)
      · refine Keeps.foldl ?_ (fun _ _ _ => ?_)
        · refine Keeps.foldl ?_ (fun _ _ _ => ?_)
          · exact slicesOff_keeps (by assumption)
          · exact setOwner_keeps (by assumption)
        · exact setOwner_keeps (by assumption)
      · exact setOwner_keeps (by assumption)
    · exact wakeCroft_keeps (by assumption)
  · apply setF_keeps
    apply setF_keeps
    apply setF_keeps
    apply setF_keeps
    refine Keeps.foldl ?_ (fun _ _ _ => ?_)
    · apply mapDefault_keeps
      apply ownRanges_keeps
      refine Keeps.foldl ?_ (fun _ _ _ => ?_)
      · refine Keeps.foldl ?_ (fun _ _ _ => ?_)
        · refine Keeps.foldl ?_ (fun _ _ _ => ?_)
          · exact slicesOff_keeps (by assumption)
          · exact setOwner_keeps (by assumption)
        · exact setOwner_keeps (by assumption)
      · exact setOwner_keeps (by assumption)
    · exact wakeCroft_keeps (by assumption)

theorem assembleCmd_keeps {r₀ : State} {c : Cmd} {s : State} (h₀ : Keeps r₀ s) : Keeps r₀ (assembleCmd c s) := by
  unfold assembleCmd
  dsimp only
  refine Keeps.ite (fun _ => ?_) (fun _ => ?_)
  · exact endCmd_keeps (by assumption)
  · refine Keeps.ite (fun _ => ?_) (fun _ => ?_)
    · exact endCmd_keeps (by assumption)
    · refine Keeps.ite (fun _ => ?_) (fun _ => ?_)
      · exact endCmd_keeps (assemble_keeps (by assumption))
      · exact endCmd_keeps (by assumption)

theorem execAssemble_keeps {r₀ t₀ : State} {r : RingId} {s : State} (h₀ : Keeps r₀ s)
    (e₀ : execAssemble r s = .next t₀) : Keeps r₀ t₀ := by
  unfold execAssemble at e₀
  obtain rfl := Host.Outcome.next.inj e₀
  refine startCmd_keeps (fun _ _ h₀ => ?_) ?_
  · exact assembleCmd_keeps (by assumption)
  · assumption

theorem zeroRanges_keeps {r₀ : State} {p : Nat} {s : State} (h₀ : Keeps r₀ s) : Keeps r₀ (zeroRanges p s) := by
  unfold zeroRanges
  with_reducible refine Keeps.updMem ?_ (Nat.le_refl _) (mapWf_filter _ _ _)
  assumption

theorem unmapAll_keeps {r₀ : State} {p : Nat} {s : State} (h₀ : Keeps r₀ s) : Keeps r₀ (unmapAll p s) := by
  unfold unmapAll
  refine Keeps.foldl ?_ (fun _ _ _ => ?_)
  · assumption
  · exact unmapTally_keeps (by assumption)

theorem disown_keeps {r₀ : State} {p : Nat} {s : State} (h₀ : Keeps r₀ s) : Keeps r₀ (disown p s) := by
  unfold disown
  dsimp only
  refine Keeps.foldl ?_ (fun _ _ _ => ?_)
  · apply ownRanges_keeps
    refine Keeps.foldl ?_ (fun _ _ _ => ?_)
    · refine Keeps.foldl ?_ (fun _ _ _ => ?_)
      · refine Keeps.foldl ?_ (fun _ _ _ => ?_)
        · assumption
        · exact setOwner_keeps (by assumption)
      · exact setOwner_keeps (by assumption)
    · exact setOwner_keeps (by assumption)
  · refine Keeps.ite (fun _ => ?_) (fun _ => ?_)
    · assumption
    · exact setF_keeps (by assumption)

theorem disassemble_keeps {r₀ : State} {p : Nat} {s : State} (h₀ : Keeps r₀ s) : Keeps r₀ (disassemble p s) := by
  unfold disassemble
  dsimp only
  apply setPart_keeps
  apply setSeal_keeps
  apply resetPage_keeps
  apply resetRings_keeps
  apply partitionEvent_keeps
  apply disown_keeps
  apply unmapAll_keeps
  refine Keeps.ite (fun _ => ?_) (fun _ => ?_)
  · apply keyDestroy_keeps
    refine Keeps.ite (fun _ => ?_) (fun _ => ?_)
    · apply zeroRanges_keeps
      refine Keeps.ite (fun _ => ?_) (fun _ => ?_)
      · apply zeroHeld_keeps
        refine Keeps.foldl ?_ (fun _ _ _ => ?_)
        · assumption
        · refine Keeps.ite (fun _ => ?_) (fun _ => ?_)
          · refine Keeps.ite (fun _ => ?_) (fun _ => ?_)
            · exact dropLines_keeps (by assumption)
            · exact flushSlice_keeps (by assumption)
          · assumption
      · refine Keeps.foldl ?_ (fun _ _ _ => ?_)
        · assumption
        · refine Keeps.ite (fun _ => ?_) (fun _ => ?_)
          · refine Keeps.ite (fun _ => ?_) (fun _ => ?_)
            · exact dropLines_keeps (by assumption)
            · exact flushSlice_keeps (by assumption)
          · assumption
    · refine Keeps.ite (fun _ => ?_) (fun _ => ?_)
      · apply zeroHeld_keeps
        refine Keeps.foldl ?_ (fun _ _ _ => ?_)
        · assumption
        · refine Keeps.ite (fun _ => ?_) (fun _ => ?_)
          · refine Keeps.ite (fun _ => ?_) (fun _ => ?_)
            · exact dropLines_keeps (by assumption)
            · exact flushSlice_keeps (by assumption)
          · assumption
      · refine Keeps.foldl ?_ (fun _ _ _ => ?_)
        · assumption
        · refine Keeps.ite (fun _ => ?_) (fun _ => ?_)
          · refine Keeps.ite (fun _ => ?_) (fun _ => ?_)
            · exact dropLines_keeps (by assumption)
            · exact flushSlice_keeps (by assumption)
          · assumption
  · refine Keeps.ite (fun _ => ?_) (fun _ => ?_)
    · apply zeroRanges_keeps
      refine Keeps.ite (fun _ => ?_) (fun _ => ?_)
      · apply zeroHeld_keeps
        refine Keeps.foldl ?_ (fun _ _ _ => ?_)
        · assumption
        · refine Keeps.ite (fun _ => ?_) (fun _ => ?_)
          · refine Keeps.ite (fun _ => ?_) (fun _ => ?_)
            · exact dropLines_keeps (by assumption)
            · exact flushSlice_keeps (by assumption)
          · assumption
      · refine Keeps.foldl ?_ (fun _ _ _ => ?_)
        · assumption
        · refine Keeps.ite (fun _ => ?_) (fun _ => ?_)
          · refine Keeps.ite (fun _ => ?_) (fun _ => ?_)
            · exact dropLines_keeps (by assumption)
            · exact flushSlice_keeps (by assumption)
          · assumption
    · refine Keeps.ite (fun _ => ?_) (fun _ => ?_)
      · apply zeroHeld_keeps
        refine Keeps.foldl ?_ (fun _ _ _ => ?_)
        · assumption
        · refine Keeps.ite (fun _ => ?_) (fun _ => ?_)
          · refine Keeps.ite (fun _ => ?_) (fun _ => ?_)
            · exact dropLines_keeps (by assumption)
            · exact flushSlice_keeps (by assumption)
          · assumption
      · refine Keeps.foldl ?_ (fun _ _ _ => ?_)
        · assumption
        · refine Keeps.ite (fun _ => ?_) (fun _ => ?_)
          · refine Keeps.ite (fun _ => ?_) (fun _ => ?_)
            · exact dropLines_keeps (by assumption)
            · exact flushSlice_keeps (by assumption)
          · assumption

theorem disassembleCmd_keeps {r₀ : State} {c : Cmd} {s : State} (h₀ : Keeps r₀ s) : Keeps r₀ (disassembleCmd c s) := by
  unfold disassembleCmd
  dsimp only
  refine Keeps.ite (fun _ => ?_) (fun _ => ?_)
  · exact endCmd_keeps (disassemble_keeps (by assumption))
  · exact endCmd_keeps (by assumption)

theorem execDisassemble_keeps {r₀ t₀ : State} {r : RingId} {s : State} (h₀ : Keeps r₀ s)
    (e₀ : execDisassemble r s = .next t₀) : Keeps r₀ t₀ := by
  unfold execDisassemble at e₀
  obtain rfl := Host.Outcome.next.inj e₀
  refine startCmd_keeps (fun _ _ h₀ => ?_) ?_
  · exact disassembleCmd_keeps (by assumption)
  · assumption

theorem setInflightCmd_keeps {r₀ : State} {c : Cmd} {s : State} (h₀ : Keeps r₀ s) : Keeps r₀ (setInflightCmd c
    s) := by
  unfold setInflightCmd
  dsimp only
  refine Keeps.ite (fun _ => ?_) (fun _ => ?_)
  · exact endCmd_keeps (by assumption)
  · exact endCmd_keeps (by assumption)

theorem execSetInflight_keeps {r₀ t₀ : State} {r : RingId} {s : State} (h₀ : Keeps r₀ s)
    (e₀ : execSetInflight r s = .next t₀) : Keeps r₀ t₀ := by
  unfold execSetInflight at e₀
  obtain rfl := Host.Outcome.next.inj e₀
  refine startCmd_keeps (fun _ _ h₀ => ?_) ?_
  · exact setInflightCmd_keeps (by assumption)
  · assumption

theorem bar2Read_keeps {r₀ : State} {fn : Nat} {p : Nat} {a : Nat} {n : Nat} {s : State} (h₀ : Keeps r₀ s) : Keeps r₀
    (bar2Read fn p a n s) := by
  unfold bar2Read
  dsimp only
  with_reducible refine Keeps.upd ?_ (Nat.le_refl _) rfl rfl rfl
  exact memAsk_keeps (by assumption)

theorem bar2Write_keeps {r₀ : State} {p : Nat} {a : Nat} {l : List Byte} {s : State} (h₀ : Keeps r₀ s) : Keeps r₀
    (bar2Write p a l s) := by
  unfold bar2Write
  dsimp only
  apply memAsk_keeps
  refine Keeps.ite (fun _ => ?_) (fun _ => ?_)
  · assumption
  · exact store0_keeps (by assumption)

theorem bar2Access_keeps {r₀ : State} {fn : Nat} {x : Nat} {op : Bar2Op} {s : State} (h₀ : Keeps r₀ s) : Keeps r₀
    (bar2Access fn x op s) := by
  unfold bar2Access
  dsimp only
  split
  · refine Keeps.ite (fun _ => ?_) (fun _ => ?_)
    · exact bar2Read_keeps (by assumption)
    · with_reducible refine Keeps.upd ?_ (Nat.le_refl _) rfl rfl rfl
      exact logAer_keeps (addF_keeps (by assumption))
  · refine Keeps.ite (fun _ => ?_) (fun _ => ?_)
    · exact bar2Write_keeps (by assumption)
    · exact addF_keeps (by assumption)

theorem execBar2Access_keeps {r₀ t₀ : State} {fn : FnId} {x : BitVec 36} {op : Bar2Op} {s : State} (h₀
    : Keeps r₀ s) (e₀ : execBar2Access fn x op s = .next t₀) : Keeps r₀ t₀ := by
  unfold execBar2Access at e₀
  split at e₀
  · cases e₀
  · obtain rfl := Host.Outcome.next.inj e₀
    exact Keeps.ite (fun _ => bar2Access_keeps h₀) fun _ => h₀

/-! ### Attest -/

theorem updSpdm_keeps {r₀ : State} {fn : Nat} {f : Spdm → Spdm} {s : State} (h₀ : Keeps r₀ s)
    : Keeps r₀ (updSpdm fn f s) := by
  unfold updSpdm
  with_reducible refine Keeps.upd ?_ (Nat.le_refl _) rfl rfl rfl
  assumption

theorem spdmSay_keeps {r₀ : State} {fn : Nat} {code : Nat} {body : List Byte} {s : State} (h₀ : Keeps r₀ s)
    : Keeps r₀ (spdmSay fn code body s) := by
  unfold spdmSay
  dsimp only
  refine Keeps.ite (fun _ => ?_) (fun _ => ?_)
  · with_reducible refine Keeps.upd ?_ (Nat.le_refl _) rfl rfl rfl
    exact updSpdm_keeps (by assumption)
  · with_reducible refine Keeps.upd ?_ (Nat.le_refl _) rfl rfl rfl
    exact updSpdm_keeps (updSpdm_keeps (by assumption))

theorem spdmError_keeps {r₀ : State} {fn : Nat} {e : Byte} {s : State} (h₀ : Keeps r₀ s)
    : Keeps r₀ (spdmError fn e s) := by
  unfold spdmError
  exact spdmSay_keeps (by assumption)

theorem spdmAsk_keeps {r₀ : State} {fn : Nat} {ready : Spdm → Bool} {f : State → State} {s : State}
    (f_keeps : Keeps r₀ s → Keeps r₀ (f s)) (h₀ : Keeps r₀ s) : Keeps r₀ (spdmAsk fn ready f s) := by
  unfold spdmAsk
  refine Keeps.ite (fun _ => h₀) (fun _ => ?_)
  exact Keeps.ite (fun _ => f_keeps h₀) (fun _ => spdmError_keeps h₀)

theorem getVersion_keeps {r₀ : State} {fn : Nat} {x1 : State} (h₀ : Keeps r₀ x1) : Keeps r₀ (getVersion fn x1) := by
  unfold getVersion
  apply spdmAsk_keeps
  · intro _
    exact spdmSay_keeps (updSpdm_keeps (by assumption))
  · assumption

theorem getCapabilities_keeps {r₀ : State} {fn : Nat} {x1 : State} (h₀ : Keeps r₀ x1) : Keeps r₀ (getCapabilities
    fn x1) := by
  unfold getCapabilities
  apply spdmAsk_keeps
  · intro _
    exact spdmSay_keeps (updSpdm_keeps (by assumption))
  · assumption

theorem negotiate_keeps {r₀ : State} {fn : Nat} {offered : Bool} {x2 : State} (h₀ : Keeps r₀ x2) : Keeps r₀
    (negotiate fn offered x2) := by
  unfold negotiate
  apply spdmAsk_keeps
  · intro _
    refine Keeps.ite (fun _ => ?_) (fun _ => ?_)
    · exact spdmSay_keeps (updSpdm_keeps (by assumption))
    · exact spdmError_keeps (by assumption)
  · assumption

theorem getDigests_keeps {r₀ : State} {fn : Nat} {x1 : State} (h₀ : Keeps r₀ x1) : Keeps r₀ (getDigests fn x1) := by
  unfold getDigests
  apply spdmAsk_keeps
  · intro _
    exact spdmSay_keeps (by assumption)
  · assumption

theorem getCertificate_keeps {r₀ : State} {fn : Nat} {slot : Nat} {off : Nat} {len : Nat} {x4 : State} (h₀ : Keeps r₀
    x4) : Keeps r₀ (getCertificate fn slot off len x4) := by
  unfold getCertificate
  apply spdmAsk_keeps
  · intro _
    refine Keeps.ite (fun _ => ?_) (fun _ => ?_)
    · exact spdmSay_keeps (by assumption)
    · exact spdmError_keeps (by assumption)
  · assumption

theorem challenge_keeps {r₀ : State} {fn : Nat} {slot : Nat} {nonce : Nat} {x3 : State} (h₀ : Keeps r₀ x3) : Keeps r₀
    (challenge fn slot nonce x3) := by
  unfold challenge
  apply spdmAsk_keeps
  · intro _
    refine Keeps.ite (fun _ => ?_) (fun _ => ?_)
    · exact spdmSay_keeps (by assumption)
    · exact spdmError_keeps (by assumption)
  · assumption

theorem execGetVersion_keeps {r₀ t₀ : State} {fn : FnId} {s : State} (h₀ : Keeps r₀ s)
    (e₀ : execGetVersion fn s = .next t₀) : Keeps r₀ t₀ := by
  unfold execGetVersion at e₀
  obtain rfl := Host.Outcome.next.inj e₀
  refine spdmAsk_keeps (fun h₀ => ?_) ?_
  · exact spdmSay_keeps (updSpdm_keeps (by assumption))
  · assumption

theorem execGetCapabilities_keeps {r₀ t₀ : State} {fn : FnId} {s : State} (h₀ : Keeps r₀ s)
    (e₀ : execGetCapabilities fn s = .next t₀) : Keeps r₀ t₀ := by
  unfold execGetCapabilities at e₀
  obtain rfl := Host.Outcome.next.inj e₀
  refine spdmAsk_keeps (fun h₀ => ?_) ?_
  · exact spdmSay_keeps (updSpdm_keeps (by assumption))
  · assumption

theorem execNegotiateAlgorithms_keeps {r₀ t₀ : State} {fn : FnId} {offered : Bool} {s : State} (h₀ : Keeps r₀ s)
    (e₀ : execNegotiateAlgorithms fn offered s = .next t₀) : Keeps r₀ t₀ := by
  unfold execNegotiateAlgorithms at e₀
  obtain rfl := Host.Outcome.next.inj e₀
  refine spdmAsk_keeps (fun h₀ => ?_) ?_
  · refine Keeps.ite (fun _ => ?_) (fun _ => ?_)
    · exact spdmSay_keeps (updSpdm_keeps (by assumption))
    · exact spdmError_keeps (by assumption)
  · assumption

theorem execGetDigests_keeps {r₀ t₀ : State} {fn : FnId} {s : State} (h₀ : Keeps r₀ s)
    (e₀ : execGetDigests fn s = .next t₀) : Keeps r₀ t₀ := by
  unfold execGetDigests at e₀
  obtain rfl := Host.Outcome.next.inj e₀
  refine spdmAsk_keeps (fun h₀ => ?_) ?_
  · exact spdmSay_keeps (by assumption)
  · assumption

theorem execGetCertificate_keeps {r₀ t₀ : State} {fn : FnId} {slot : BitVec 4} {off : BitVec 16} {len : BitVec 16}
    {s : State} (h₀ : Keeps r₀ s) (e₀ : execGetCertificate fn slot off len s = .next t₀) : Keeps r₀ t₀ := by
  unfold execGetCertificate at e₀
  obtain rfl := Host.Outcome.next.inj e₀
  refine spdmAsk_keeps (fun h₀ => ?_) ?_
  · refine Keeps.ite (fun _ => ?_) (fun _ => ?_)
    · exact spdmSay_keeps (by assumption)
    · exact spdmError_keeps (by assumption)
  · assumption

theorem execChallenge_keeps {r₀ t₀ : State} {fn : FnId} {slot : BitVec 4} {nonce : BitVec 256} {s : State} (h₀
    : Keeps r₀ s) (e₀ : execChallenge fn slot nonce s = .next t₀) : Keeps r₀ t₀ := by
  unfold execChallenge at e₀
  obtain rfl := Host.Outcome.next.inj e₀
  refine spdmAsk_keeps (fun h₀ => ?_) ?_
  · refine Keeps.ite (fun _ => ?_) (fun _ => ?_)
    · exact spdmSay_keeps (by assumption)
    · exact spdmError_keeps (by assumption)
  · assumption

theorem getMeasurements_keeps {r₀ : State} {fn : Nat} {index : Nat} {x2 : State} (h₀ : Keeps r₀ x2) : Keeps r₀
    (getMeasurements fn index x2) := by
  unfold getMeasurements
  apply spdmAsk_keeps
  · intro _
    dsimp only
    refine Keeps.ite (fun _ => ?_) (fun _ => ?_)
    · exact spdmSay_keeps (by assumption)
    · refine Keeps.ite (fun _ => ?_) (fun _ => ?_)
      · exact spdmSay_keeps (by assumption)
      · split
        · exact spdmSay_keeps (by assumption)
        · exact spdmError_keeps (by assumption)
  · assumption

theorem execGetMeasurements_keeps {r₀ t₀ : State} {fn : FnId} {index : BitVec 8} {s : State} (h₀ : Keeps r₀ s)
    (e₀ : execGetMeasurements fn index s = .next t₀) : Keeps r₀ t₀ := by
  unfold execGetMeasurements at e₀
  obtain rfl := Host.Outcome.next.inj e₀
  refine spdmAsk_keeps (fun h₀ => ?_) ?_
  · dsimp only
    refine Keeps.ite (fun _ => ?_) (fun _ => ?_)
    · exact spdmSay_keeps (by assumption)
    · refine Keeps.ite (fun _ => ?_) (fun _ => ?_)
      · exact spdmSay_keeps (by assumption)
      · split
        · exact spdmSay_keeps (by assumption)
        · exact spdmError_keeps (by assumption)
  · assumption

theorem keyExchange_keeps {r₀ : State} {fn : Nat} {peer : List Byte} {x2 : State} (h₀ : Keeps r₀ x2) : Keeps r₀
    (keyExchange fn peer x2) := by
  unfold keyExchange
  apply spdmAsk_keeps
  · intro _
    refine Keeps.ite (fun _ => ?_) (fun _ => ?_)
    · exact spdmError_keeps (by assumption)
    · refine Keeps.ite (fun _ => ?_) (fun _ => ?_)
      · exact spdmError_keeps (by assumption)
      · dsimp only
        apply spdmSay_keeps
        apply updSpdm_keeps
        with_reducible refine Keeps.upd ?_ (Nat.le_add_right _ _) rfl rfl rfl
        assumption
  · assumption

theorem execKeyExchange_keeps {r₀ t₀ : State} {fn : FnId} {peer : List Byte} {s : State} (h₀ : Keeps r₀ s)
    (e₀ : execKeyExchange fn peer s = .next t₀) : Keeps r₀ t₀ := by
  unfold execKeyExchange at e₀
  obtain rfl := Host.Outcome.next.inj e₀
  refine spdmAsk_keeps (fun h₀ => ?_) ?_
  · refine Keeps.ite (fun _ => ?_) (fun _ => ?_)
    · exact spdmError_keeps (by assumption)
    · refine Keeps.ite (fun _ => ?_) (fun _ => ?_)
      · exact spdmError_keeps (by assumption)
      · dsimp only
        apply spdmSay_keeps
        apply updSpdm_keeps
        with_reducible refine Keeps.upd ?_ (Nat.le_add_right _ _) rfl rfl rfl
        assumption
  · assumption

theorem finish_keeps {r₀ : State} {fn : Nat} {mac : List Byte} {x2 : State} (h₀ : Keeps r₀ x2) : Keeps r₀ (finish
    fn mac x2) := by
  unfold finish
  apply spdmAsk_keeps
  · intro _
    dsimp only
    refine Keeps.ite (fun _ => ?_) (fun _ => ?_)
    · exact spdmSay_keeps (updSpdm_keeps (by assumption))
    · exact spdmError_keeps (updSpdm_keeps (by assumption))
  · assumption

theorem execFinish_keeps {r₀ t₀ : State} {fn : FnId} {mac : List Byte} {s : State} (h₀ : Keeps r₀ s)
    (e₀ : execFinish fn mac s = .next t₀) : Keeps r₀ t₀ := by
  unfold execFinish at e₀
  obtain rfl := Host.Outcome.next.inj e₀
  refine spdmAsk_keeps (fun h₀ => ?_) ?_
  · dsimp only
    refine Keeps.ite (fun _ => ?_) (fun _ => ?_)
    · exact spdmSay_keeps (updSpdm_keeps (by assumption))
    · exact spdmError_keeps (updSpdm_keeps (by assumption))
  · assumption

theorem beat_keeps {r₀ : State} {fn : Nat} {s : State} (h₀ : Keeps r₀ s) : Keeps r₀ (beat fn s) := by
  unfold beat
  exact updSpdm_keeps (by assumption)

theorem heartbeat_keeps {r₀ : State} {fn : Nat} {x1 : State} (h₀ : Keeps r₀ x1) : Keeps r₀ (heartbeat fn x1) := by
  unfold heartbeat
  apply spdmAsk_keeps
  · intro _
    exact spdmSay_keeps (beat_keeps (by assumption))
  · assumption

theorem execHeartbeat_keeps {r₀ t₀ : State} {fn : FnId} {s : State} (h₀ : Keeps r₀ s)
    (e₀ : execHeartbeat fn s = .next t₀) : Keeps r₀ t₀ := by
  unfold execHeartbeat at e₀
  obtain rfl := Host.Outcome.next.inj e₀
  refine spdmAsk_keeps (fun h₀ => ?_) ?_
  · exact spdmSay_keeps (beat_keeps (by assumption))
  · assumption

theorem execHeartbeatLost_keeps {r₀ t₀ : State} {fn : FnId} {s : State} (h₀ : Keeps r₀ s)
    (e₀ : execHeartbeatLost fn s = .next t₀) : Keeps r₀ t₀ := by
  unfold execHeartbeatLost at e₀
  obtain rfl := Host.Outcome.next.inj e₀
  refine Keeps.ite (fun _ => ?_) (fun _ => ?_)
  · exact endSession_keeps (by assumption)
  · assumption

theorem keyUpdate_keeps {r₀ : State} {fn : Nat} {x1 : State} (h₀ : Keeps r₀ x1) : Keeps r₀ (keyUpdate fn x1) := by
  unfold keyUpdate
  apply spdmAsk_keeps
  · intro _
    exact spdmSay_keeps (updSpdm_keeps (beat_keeps (by assumption)))
  · assumption

theorem execKeyUpdate_keeps {r₀ t₀ : State} {fn : FnId} {s : State} (h₀ : Keeps r₀ s)
    (e₀ : execKeyUpdate fn s = .next t₀) : Keeps r₀ t₀ := by
  unfold execKeyUpdate at e₀
  obtain rfl := Host.Outcome.next.inj e₀
  refine spdmAsk_keeps (fun h₀ => ?_) ?_
  · exact spdmSay_keeps (updSpdm_keeps (beat_keeps (by assumption)))
  · assumption

theorem leaveSession_keeps {r₀ : State} {fn : Nat} {x1 : State} (h₀ : Keeps r₀ x1) : Keeps r₀ (leaveSession fn x1) := by
  unfold leaveSession
  apply spdmAsk_keeps
  · intro _
    exact endSession_keeps (spdmSay_keeps (by assumption))
  · assumption

theorem execEndSession_keeps {r₀ t₀ : State} {fn : FnId} {s : State} (h₀ : Keeps r₀ s)
    (e₀ : execEndSession fn s = .next t₀) : Keeps r₀ t₀ := by
  unfold execEndSession at e₀
  obtain rfl := Host.Outcome.next.inj e₀
  refine spdmAsk_keeps (fun h₀ => ?_) ?_
  · exact endSession_keeps (spdmSay_keeps (by assumption))
  · assumption

theorem commitKeys_keeps {r₀ : State} {fn : Nat} {s : State} (h₀ : Keeps r₀ s) : Keeps r₀ (commitKeys fn s) := by
  unfold commitKeys
  dsimp only
  apply setF_keeps
  apply setSeal_keeps
  apply setRing_keeps
  with_reducible refine Keeps.upd ?_ (Nat.le_refl _) rfl rfl rfl
  assumption

theorem keyCommit_keeps {r₀ : State} {fn : Nat} {vendor : Bool} {code : Nat} {x3 : State} (h₀ : Keeps r₀ x3) : Keeps
    r₀ (keyCommit fn vendor code x3) := by
  unfold keyCommit
  apply spdmAsk_keeps
  · intro _
    refine Keeps.ite (fun _ => ?_) (fun _ => ?_)
    · exact spdmError_keeps (by assumption)
    · refine Keeps.ite (fun _ => ?_) (fun _ => ?_)
      · exact spdmError_keeps (by assumption)
      · exact spdmSay_keeps (commitKeys_keeps (beat_keeps (by assumption)))
  · assumption

theorem execKeyCommit_keeps {r₀ t₀ : State} {fn : FnId} {vendor : Bool} {code : BitVec 8} {s : State} (h₀
    : Keeps r₀ s) (e₀ : execKeyCommit fn vendor code s = .next t₀) : Keeps r₀ t₀ := by
  unfold execKeyCommit at e₀
  obtain rfl := Host.Outcome.next.inj e₀
  refine spdmAsk_keeps (fun h₀ => ?_) ?_
  · refine Keeps.ite (fun _ => ?_) (fun _ => ?_)
    · exact spdmError_keeps (by assumption)
    · refine Keeps.ite (fun _ => ?_) (fun _ => ?_)
      · exact spdmError_keeps (by assumption)
      · exact spdmSay_keeps (commitKeys_keeps (beat_keeps (by assumption)))
  · assumption

theorem spdmRequest_keeps {r₀ : State} {fn : Nat} {m : List Byte} {s : State} (h₀ : Keeps r₀ s) :
    Keeps r₀ (spdmRequest fn m s) := by
  unfold spdmRequest
  split
  · exact getVersion_keeps h₀
  · exact getCapabilities_keeps h₀
  · exact negotiate_keeps h₀
  · exact getDigests_keeps h₀
  · exact getCertificate_keeps h₀
  · exact challenge_keeps h₀
  · exact getMeasurements_keeps h₀
  · exact keyExchange_keeps h₀
  · exact finish_keeps h₀
  · exact heartbeat_keeps h₀
  · exact keyUpdate_keeps h₀
  · exact leaveSession_keeps h₀
  · exact keyCommit_keeps h₀
  · exact spdmError_keeps h₀

theorem runChunks_keeps {r₀ : State} {fn : Nat} {n : Nat} {m : List Byte} {s : State} (h₀ : Keeps r₀ s) : Keeps r₀
    (runChunks fn n m s) := by
  unfold runChunks
  dsimp only
  apply spdmSay_keeps
  with_reducible refine Keeps.upd ?_ (Nat.le_refl _) rfl rfl rfl
  exact spdmRequest_keeps (updSpdm_keeps (by assumption))

theorem execChunkSend_keeps {r₀ t₀ : State} {fn : FnId} {part : List Byte} {last : Bool} {s : State} (h₀ : Keeps
    r₀ s) (e₀ : execChunkSend fn part last s = .next t₀) : Keeps r₀ t₀ := by
  unfold execChunkSend at e₀
  obtain rfl := Host.Outcome.next.inj e₀
  apply spdmAsk_keeps
  · intro _
    dsimp only
    refine Keeps.ite (fun _ => ?_) (fun _ => ?_)
    · exact runChunks_keeps (by assumption)
    · exact spdmSay_keeps (updSpdm_keeps (by assumption))
  · assumption

theorem execChunkGet_keeps {r₀ t₀ : State} {fn : FnId} {s : State} (h₀ : Keeps r₀ s)
    (e₀ : execChunkGet fn s = .next t₀) : Keeps r₀ t₀ := by
  unfold execChunkGet at e₀
  obtain rfl := Host.Outcome.next.inj e₀
  refine spdmAsk_keeps (fun h₀ => ?_) ?_
  · dsimp only
    exact spdmSay_keeps (updSpdm_keeps (by assumption))
  · assumption

/-! ### Service -/

theorem execI3cAddressAssign_keeps {r₀ t₀ : State} {dynamic : Option (BitVec 7)} {s : State} (h₀ : Keeps r₀ s)
    (e₀ : execI3cAddressAssign dynamic s = .next t₀) : Keeps r₀ t₀ := by
  unfold execI3cAddressAssign at e₀
  obtain rfl := Host.Outcome.next.inj e₀
  dsimp only at e₀
  refine Keeps.ite (fun _ => ?_) (fun _ => ?_)
  · with_reducible refine Keeps.upd ?_ (Nat.le_refl _) rfl rfl rfl
    assumption
  · assumption

theorem controlOut_keeps {r₀ : State} {cmd : Nat} {body : List Byte} {s : State} (h₀ : Keeps r₀ s) : Keeps r₀
    (controlOut cmd body s) := by
  unfold controlOut
  with_reducible refine Keeps.upd ?_ (Nat.le_refl _) rfl rfl rfl
  assumption

theorem execSetEndpointId_keeps {r₀ t₀ : State} {m : MctpRequest} {s : State} (h₀ : Keeps r₀ s) (e₀ :
    execSetEndpointId m s = .next t₀) : Keeps r₀ t₀ := by
  unfold execSetEndpointId at e₀
  obtain rfl := Host.Outcome.next.inj e₀
  refine Keeps.ite (fun _ => ?_) (fun _ => ?_)
  · assumption
  · split
    · apply controlOut_keeps
      with_reducible refine Keeps.upd ?_ (Nat.le_refl _) rfl rfl rfl
      assumption
    · exact controlOut_keeps (by assumption)
    · exact controlOut_keeps (by assumption)
    · exact controlOut_keeps (by assumption)

theorem sensorReading_keeps {r₀ : State} {n : Nat} {s : State} (h₀ : Keeps r₀ s) : Keeps r₀ (sensorReading n s) := by
  unfold sensorReading
  split
  · dsimp only
    apply mctpOut_keeps
    refine Keeps.ite (fun _ => ?_) (fun _ => ?_)
    · with_reducible refine Keeps.upd ?_ (Nat.le_add_right _ _) rfl rfl rfl
      assumption
    · assumption
  · exact mctpOut_keeps (by assumption)

theorem effecterReading_keeps {r₀ : State} {n : Nat} {s : State} (h₀ : Keeps r₀ s) : Keeps r₀ (effecterReading n
    s) := by
  unfold effecterReading
  split
  · exact mctpOut_keeps (by assumption)
  · exact mctpOut_keeps (by assumption)

theorem pdrReading_keeps {r₀ : State} {handle : Nat} {s : State} (h₀ : Keeps r₀ s) : Keeps r₀ (pdrReading handle
    s) := by
  unfold pdrReading
  dsimp only
  split
  · exact mctpOut_keeps (by assumption)
  · exact mctpOut_keeps (by assumption)

theorem pldmBase_keeps {r₀ : State} {r : PldmRequest} {s : State} (h₀ : Keeps r₀ s) : Keeps r₀ (pldmBase r s) := by
  unfold pldmBase
  split
  · exact mctpOut_keeps (by assumption)
  · apply mctpOut_keeps
    with_reducible refine Keeps.upd ?_ (Nat.le_refl _) rfl rfl rfl
    assumption
  · exact mctpOut_keeps (by assumption)
  · refine Keeps.ite (fun _ => ?_) (fun _ => ?_)
    · exact mctpOut_keeps (by assumption)
    · exact mctpOut_keeps (by assumption)
  · refine Keeps.ite (fun _ => ?_) (fun _ => ?_)
    · exact mctpOut_keeps (by assumption)
    · exact mctpOut_keeps (by assumption)
  · assumption

theorem execGetSensorReading_keeps {r₀ t₀ : State} {r : PldmRequest} {s : State} (h₀ : Keeps r₀ s) (e₀ :
    execGetSensorReading r s = .next t₀) : Keeps r₀ t₀ := by
  unfold execGetSensorReading at e₀
  obtain rfl := Host.Outcome.next.inj e₀
  refine Keeps.ite (fun _ => h₀) (fun _ => ?_)
  cases r with
  | sensor _ => exact sensorReading_keeps h₀
  | effecter _ => exact Keeps.ite (fun _ => h₀) fun _ => effecterReading_keeps h₀
  | pdrInfo => exact Keeps.ite (fun _ => h₀) fun _ => mctpOut_keeps h₀
  | pdr _ => exact Keeps.ite (fun _ => h₀) fun _ => pdrReading_keeps h₀
  | _ => exact pldmBase_keeps h₀

theorem effecterDone_keeps {r₀ : State} {ok : Bool} {s : State} (h₀ : Keeps r₀ s) : Keeps r₀ (effecterDone ok s) := by
  unfold effecterDone
  exact mctpOut_keeps (by assumption)

theorem execCapEffecterWrite_keeps {r₀ t₀ : State} {v : BitVec 16} {s : State} (h₀ : Keeps r₀ s)
    (e₀ : execCapEffecterWrite v s = .next t₀) : Keeps r₀ t₀ := by
  unfold execCapEffecterWrite at e₀
  obtain rfl := Host.Outcome.next.inj e₀
  refine Keeps.ite (fun _ => ?_) (fun _ => ?_)
  · exact effecterDone_keeps (regWrite_keeps (by assumption))
  · assumption

theorem execResetEffecterWrite_keeps {r₀ t₀ : State} {v : BitVec 16} {s : State} (h₀ : Keeps r₀ s)
    (e₀ : execResetEffecterWrite v s = .next t₀) : Keeps r₀ t₀ := by
  unfold execResetEffecterWrite at e₀
  obtain rfl := Host.Outcome.next.inj e₀
  refine Keeps.ite (fun _ => ?_) (fun _ => ?_)
  · refine Keeps.ite (fun _ => ?_) (fun _ => ?_)
    · exact deviceReset_keeps (effecterDone_keeps (by assumption))
    · exact effecterDone_keeps (by assumption)
  · assumption

theorem execReplanEffecterWrite_keeps {r₀ t₀ : State} {v : BitVec 16} {s : State} (h₀ : Keeps r₀ s)
    (e₀ : execReplanEffecterWrite v s = .next t₀) : Keeps r₀ t₀ := by
  unfold execReplanEffecterWrite at e₀
  obtain rfl := Host.Outcome.next.inj e₀
  refine Keeps.ite (fun _ => ?_) (fun _ => ?_)
  · refine Keeps.ite (fun _ => ?_) (fun _ => ?_)
    · exact effecterDone_keeps (regWrite_keeps (by assumption))
    · exact effecterDone_keeps (by assumption)
  · assumption

theorem execCoolantSensorWrite_keeps {r₀ t₀ : State} {v : BitVec 16} {s : State} (h₀ : Keeps r₀ s)
    (e₀ : execCoolantSensorWrite v s = .next t₀) : Keeps r₀ t₀ := by
  unfold execCoolantSensorWrite at e₀
  obtain rfl := Host.Outcome.next.inj e₀
  refine Keeps.ite (fun _ => ?_) (fun _ => ?_)
  · exact effecterDone_keeps (setPerm_keeps (by assumption))
  · assumption

theorem execReadLedger_keeps {r₀ t₀ : State} {seq : BitVec 64} {count : Fin 17} {s : State} (h₀ : Keeps r₀ s)
    (e₀ : execReadLedger seq count s = .next t₀) : Keeps r₀ t₀ := by
  unfold execReadLedger at e₀
  obtain rfl := Host.Outcome.next.inj e₀
  refine Keeps.ite (fun _ => ?_) (fun _ => ?_)
  · exact mctpOut_keeps (by assumption)
  · assumption

theorem updateSay_keeps {r₀ : State} {cmd : Nat} {body : List Byte} {s : State} (h₀ : Keeps r₀ s)
    : Keeps r₀ (updateSay cmd body s) := by
  unfold updateSay
  exact mctpOut_keeps (by assumption)

theorem execRequestUpdate_keeps {r₀ t₀ : State} {s : State} (h₀ : Keeps r₀ s)
    (e₀ : execRequestUpdate s = .next t₀) : Keeps r₀ t₀ := by
  unfold execRequestUpdate at e₀
  obtain rfl := Host.Outcome.next.inj e₀
  refine Keeps.ite (fun _ => ?_) (fun _ => ?_)
  · dsimp only
    apply updateSay_keeps
    apply setF_keeps
    apply updFw_keeps
    · refine Keeps.ite (fun _ => ?_) (fun _ => ?_)
      · apply setF_keeps
        apply updFw_keeps
        · assumption
        · exact fun _ _ h => h
      · assumption
    · exact fun _ _ h => h
  · assumption

theorem execUpdateComponent_keeps {r₀ t₀ : State} {code : BitVec 16} {s : State} (h₀ : Keeps r₀ s)
    (e₀ : execUpdateComponent code s = .next t₀) : Keeps r₀ t₀ := by
  unfold execUpdateComponent at e₀
  obtain rfl := Host.Outcome.next.inj e₀
  dsimp only at e₀
  refine Keeps.ite (fun _ => ?_) (fun _ => ?_)
  · assumption
  · refine Keeps.ite (fun _ => ?_) (fun _ => ?_)
    · exact updateSay_keeps (by assumption)
    · refine Keeps.ite (fun _ => ?_) (fun _ => ?_)
      · exact updateSay_keeps (by assumption)
      · apply updateSay_keeps
        apply updFw_keeps
        · assumption
        · exact fun _ _ h => h

theorem execComponentTransferDone_keeps {r₀ t₀ : State} {header : Flit} {body : List Byte} {slotB : Bool} {s :
    State} (h₀ : Keeps r₀ s) (e₀ : execComponentTransferDone header body slotB s = .next t₀) : Keeps r₀ t₀ := by
  unfold execComponentTransferDone at e₀
  obtain rfl := Host.Outcome.next.inj e₀
  refine Keeps.ite (fun _ => ?_) (fun _ => ?_)
  · assumption
  · dsimp only
    split
    · apply updateSay_keeps
      apply recordFail_keeps
      apply updateSay_keeps
      apply fwNote_keeps
      apply updFw_keeps
      · assumption
      · intro _ _ _
        assumption
    · apply updateSay_keeps
      apply updateSay_keeps
      apply updFw_keeps
      · apply updateSay_keeps
        apply fwNote_keeps
        apply updFw_keeps
        · assumption
        · intro _ _ _
          assumption
      · intro _ _ _
        assumption

theorem execActivateFirmware_keeps {r₀ t₀ : State} {s : State} (h₀ : Keeps r₀ s) (e₀ : execActivateFirmware s =
    .next t₀) : Keeps r₀ t₀ := by
  unfold execActivateFirmware at e₀
  obtain rfl := Host.Outcome.next.inj e₀
  refine Keeps.ite (fun _ => ?_) (fun _ => ?_)
  · assumption
  · refine Keeps.ite (fun _ => ?_) (fun _ => ?_)
    · exact updateSay_keeps (by assumption)
    · refine Keeps.ite (fun _ => ?_) (fun _ => ?_)
      · exact updateSay_keeps (by assumption)
      · dsimp only
        refine Keeps.ite (fun _ => ?_) (fun _ => ?_)
        · with_reducible refine Keeps.upd ?_ (Nat.le_refl _) rfl rfl rfl
          apply updateSay_keeps
          apply noteGroup_keeps
          apply setF_keeps
          apply updFw_keeps
          · assumption
          · intro _ _ _
            assumption
        · apply setF_keeps
          apply updateSay_keeps
          apply noteGroup_keeps
          apply setF_keeps
          apply updFw_keeps
          · assumption
          · intro _ _ _
            assumption

theorem execLockstepMismatch_keeps {r₀ t₀ : State} {s : State} (h₀ : Keeps r₀ s) (e₀ : execLockstepMismatch s =
    .next t₀) : Keeps r₀ t₀ := by
  unfold execLockstepMismatch at e₀
  obtain rfl := Host.Outcome.next.inj e₀
  refine Keeps.ite (fun _ => ?_) (fun _ => ?_)
  · assumption
  · refine Keeps.ite (fun _ => ?_) (fun _ => ?_)
    · dsimp only
      apply orderlyStop_keeps
      apply commitAll_keeps
      apply journal_keeps
      with_reducible refine Keeps.upd ?_ (Nat.le_refl _) rfl rfl rfl
      assumption
    · dsimp only
      apply updFw_keeps
      · apply setF_keeps
        refine Keeps.ite (fun _ => ?_) (fun _ => ?_)
        · with_reducible refine Keeps.upd ?_ (Nat.le_refl _) rfl rfl rfl
          assumption
        · apply setF_keeps
          with_reducible refine Keeps.upd ?_ (Nat.le_refl _) rfl rfl rfl
          assumption
      · intro _ _ _
        assumption

theorem freeReeveLocks_keeps {r₀ : State} {s : State} (h₀ : Keeps r₀ s) : Keeps r₀ (freeReeveLocks s) := by
  unfold freeReeveLocks
  refine Keeps.foldl ?_ (fun _ _ _ => ?_)
  · assumption
  · refine Keeps.ite (fun _ => ?_) (fun _ => ?_)
    · exact setLock_keeps (by assumption)
    · assumption

theorem restartReeve_keeps {r₀ : State} {s : State} (h₀ : Keeps r₀ s) : Keeps r₀ (restartReeve s) := by
  unfold restartReeve
  split
  · apply setF_keeps
    apply updFw_keeps
    · refine Keeps.snd ?_ (by assumption)
      exact chooseSet_keeps (by assumption)
    · intro _ _ _
      assumption
  · apply deadToHost_keeps
    refine Keeps.snd ?_ (by assumption)
    exact chooseSet_keeps (by assumption)

theorem execReeveRestartDone_keeps {r₀ t₀ : State} {s : State} (h₀ : Keeps r₀ s) (e₀ : execReeveRestartDone s =
    .next t₀) : Keeps r₀ t₀ := by
  unfold execReeveRestartDone at e₀
  obtain rfl := Host.Outcome.next.inj e₀
  split
  · assumption
  · dsimp only
    apply journal_keeps
    apply showLedger_keeps
    apply freeReeveLocks_keeps
    refine Keeps.ite (fun _ => ?_) (fun _ => ?_)
    · with_reducible refine Keeps.upd ?_ (Nat.le_refl _) rfl rfl rfl
      assumption
    · apply restartReeve_keeps
      with_reducible refine Keeps.upd ?_ (Nat.le_refl _) rfl rfl rfl
      assumption

theorem execLockTimeout_keeps {r₀ t₀ : State} {p : Page} {s : State} (h₀ : Keeps r₀ s)
    (e₀ : execLockTimeout p s = .next t₀) : Keeps r₀ t₀ := by
  unfold execLockTimeout at e₀
  obtain rfl := Host.Outcome.next.inj e₀
  dsimp only at e₀
  refine Keeps.ite (fun _ => ?_) (fun _ => ?_)
  · exact addF_keeps (setLock_keeps (by assumption))
  · assumption

/-! ### Rows -/

theorem fieldWrite_keeps {r₀ : State} {who : Requester} {b : Nat} {f : Field} {v : Nat} {s : State} (h₀
    : Keeps r₀ s) : Keeps r₀ (fieldWrite who b f v s) := by
  unfold fieldWrite
  exact regWrite_keeps (by assumption)

theorem fieldWrite2_keeps {r₀ : State} {who : Requester} {b : Nat} {f : Field} {v : Nat} {g : Field} {u : Nat}
    {s : State} (h₀ : Keeps r₀ s) : Keeps r₀ (fieldWrite2 who b f v g u s) := by
  unfold fieldWrite2
  exact regWrite_keeps (by assumption)

theorem pairWrite_keeps {r₀ : State} {who : Requester} {b : Nat} {lo : Field} {hi : Field} {v : Nat} {s : State}
    (h₀ : Keeps r₀ s) : Keeps r₀ (pairWrite who b lo hi v s) := by
  unfold pairWrite
  exact fieldWrite_keeps (fieldWrite_keeps (by assumption))

theorem execStopWrite_keeps {r₀ t₀ : State} {who : Requester} {x : SlotId} {stop : Bool} {s : State} (h₀
    : Keeps r₀ s) (e₀ : execStopWrite who x stop s = .next t₀) : Keeps r₀ t₀ := by
  unfold execStopWrite at e₀
  obtain rfl := Host.Outcome.next.inj e₀
  exact fieldWrite_keeps (by assumption)

theorem execSeqServiceWrite_keeps {r₀ t₀ : State} {who : Requester} {x : SlotId} {opened : Bool} {s : State}
    (h₀ : Keeps r₀ s) (e₀ : execSeqServiceWrite who x opened s = .next t₀) : Keeps r₀ t₀ := by
  unfold execSeqServiceWrite at e₀
  obtain rfl := Host.Outcome.next.inj e₀
  exact fieldWrite_keeps (by assumption)

theorem execAbandon_keeps {r₀ t₀ : State} {who : Requester} {x : SlotId} {s : State} (h₀ : Keeps r₀ s)
    (e₀ : execAbandon who x s = .next t₀) : Keeps r₀ t₀ := by
  unfold execAbandon at e₀
  obtain rfl := Host.Outcome.next.inj e₀
  exact fieldWrite_keeps (by assumption)

theorem execClearHalt_keeps {r₀ t₀ : State} {who : Requester} {x : SlotId} {s : State} (h₀ : Keeps r₀ s)
    (e₀ : execClearHalt who x s = .next t₀) : Keeps r₀ t₀ := by
  unfold execClearHalt at e₀
  obtain rfl := Host.Outcome.next.inj e₀
  exact fieldWrite_keeps (by assumption)

theorem execPurge_keeps {r₀ t₀ : State} {who : Requester} {x : SlotId} {s : State} (h₀ : Keeps r₀ s)
    (e₀ : execPurge who x s = .next t₀) : Keeps r₀ t₀ := by
  unfold execPurge at e₀
  obtain rfl := Host.Outcome.next.inj e₀
  exact fieldWrite_keeps (by assumption)

theorem execPurgeStep_keeps {r₀ t₀ : State} {who : Requester} {x : SlotId} {tag : BitVec 16} {s : State} (h₀
    : Keeps r₀ s) (e₀ : execPurgeStep who x tag s = .next t₀) : Keeps r₀ t₀ := by
  unfold execPurgeStep at e₀
  obtain rfl := Host.Outcome.next.inj e₀
  exact fieldWrite2_keeps (by assumption)

theorem execCommittedStepWrite_keeps {r₀ t₀ : State} {who : Requester} {x : SlotId} {v : BitVec 16} {s : State}
    (h₀ : Keeps r₀ s) (e₀ : execCommittedStepWrite who x v s = .next t₀) : Keeps r₀ t₀ := by
  unfold execCommittedStepWrite at e₀
  obtain rfl := Host.Outcome.next.inj e₀
  exact fieldWrite_keeps (by assumption)

theorem execSeqClearCounts_keeps {r₀ t₀ : State} {who : Requester} {x : SlotId} {s : State} (h₀ : Keeps r₀ s)
    (e₀ : execSeqClearCounts who x s = .next t₀) : Keeps r₀ t₀ := by
  unfold execSeqClearCounts at e₀
  obtain rfl := Host.Outcome.next.inj e₀
  exact fieldWrite_keeps (by assumption)

theorem execGzAccClear_keeps {r₀ t₀ : State} {who : Requester} {x : SlotId} {s : State} (h₀ : Keeps r₀ s)
    (e₀ : execGzAccClear who x s = .next t₀) : Keeps r₀ t₀ := by
  unfold execGzAccClear at e₀
  obtain rfl := Host.Outcome.next.inj e₀
  exact fieldWrite_keeps (by assumption)

theorem execGzClearCounts_keeps {r₀ t₀ : State} {who : Requester} {x : SlotId} {s : State} (h₀ : Keeps r₀ s)
    (e₀ : execGzClearCounts who x s = .next t₀) : Keeps r₀ t₀ := by
  unfold execGzClearCounts at e₀
  obtain rfl := Host.Outcome.next.inj e₀
  exact fieldWrite_keeps (by assumption)

theorem execGzClearFault_keeps {r₀ t₀ : State} {who : Requester} {x : SlotId} {s : State} (h₀ : Keeps r₀ s)
    (e₀ : execGzClearFault who x s = .next t₀) : Keeps r₀ t₀ := by
  unfold execGzClearFault at e₀
  obtain rfl := Host.Outcome.next.inj e₀
  exact fieldWrite_keeps (by assumption)

theorem execLmAccClear_keeps {r₀ t₀ : State} {who : Requester} {x : SlotId} {s : State} (h₀ : Keeps r₀ s)
    (e₀ : execLmAccClear who x s = .next t₀) : Keeps r₀ t₀ := by
  unfold execLmAccClear at e₀
  obtain rfl := Host.Outcome.next.inj e₀
  exact fieldWrite_keeps (by assumption)

theorem execLmClearCounts_keeps {r₀ t₀ : State} {who : Requester} {x : SlotId} {s : State} (h₀ : Keeps r₀ s)
    (e₀ : execLmClearCounts who x s = .next t₀) : Keeps r₀ t₀ := by
  unfold execLmClearCounts at e₀
  obtain rfl := Host.Outcome.next.inj e₀
  exact fieldWrite_keeps (by assumption)

theorem execLkClearCounts_keeps {r₀ t₀ : State} {who : Requester} {x : SlotId} {s : State} (h₀ : Keeps r₀ s)
    (e₀ : execLkClearCounts who x s = .next t₀) : Keeps r₀ t₀ := by
  unfold execLkClearCounts at e₀
  obtain rfl := Host.Outcome.next.inj e₀
  exact fieldWrite_keeps (by assumption)

theorem execNumClearCounts_keeps {r₀ t₀ : State} {who : Requester} {x : SlotId} {s : State} (h₀ : Keeps r₀ s)
    (e₀ : execNumClearCounts who x s = .next t₀) : Keeps r₀ t₀ := by
  unfold execNumClearCounts at e₀
  obtain rfl := Host.Outcome.next.inj e₀
  exact fieldWrite_keeps (by assumption)

theorem execFnUnitClearCounts_keeps {r₀ t₀ : State} {who : Requester} {x : SlotId} {s : State} (h₀ : Keeps r₀ s)
    (e₀ : execFnUnitClearCounts who x s = .next t₀) : Keeps r₀ t₀ := by
  unfold execFnUnitClearCounts at e₀
  obtain rfl := Host.Outcome.next.inj e₀
  exact fieldWrite_keeps (by assumption)

theorem execFnUnitClearFault_keeps {r₀ t₀ : State} {who : Requester} {x : SlotId} {s : State} (h₀ : Keeps r₀ s)
    (e₀ : execFnUnitClearFault who x s = .next t₀) : Keeps r₀ t₀ := by
  unfold execFnUnitClearFault at e₀
  obtain rfl := Host.Outcome.next.inj e₀
  exact fieldWrite_keeps (by assumption)

theorem execMvClearCounts_keeps {r₀ t₀ : State} {who : Requester} {x : SlotId} {s : State} (h₀ : Keeps r₀ s)
    (e₀ : execMvClearCounts who x s = .next t₀) : Keeps r₀ t₀ := by
  unfold execMvClearCounts at e₀
  obtain rfl := Host.Outcome.next.inj e₀
  exact fieldWrite_keeps (by assumption)

theorem execMvClearFault_keeps {r₀ t₀ : State} {who : Requester} {x : SlotId} {s : State} (h₀ : Keeps r₀ s)
    (e₀ : execMvClearFault who x s = .next t₀) : Keeps r₀ t₀ := by
  unfold execMvClearFault at e₀
  obtain rfl := Host.Outcome.next.inj e₀
  exact fieldWrite_keeps (by assumption)

theorem execProbe_keeps {r₀ t₀ : State} {who : Requester} {x : SlotId} {s : State} (h₀ : Keeps r₀ s)
    (e₀ : execProbe who x s = .next t₀) : Keeps r₀ t₀ := by
  unfold execProbe at e₀
  obtain rfl := Host.Outcome.next.inj e₀
  exact fieldWrite_keeps (by assumption)

theorem execSpClearCounts_keeps {r₀ t₀ : State} {who : Requester} {x : SlotId} {s : State} (h₀ : Keeps r₀ s)
    (e₀ : execSpClearCounts who x s = .next t₀) : Keeps r₀ t₀ := by
  unfold execSpClearCounts at e₀
  obtain rfl := Host.Outcome.next.inj e₀
  exact fieldWrite_keeps (by assumption)

theorem execUpClearCounts_keeps {r₀ t₀ : State} {who : Requester} {x : SlotId} {s : State} (h₀ : Keeps r₀ s)
    (e₀ : execUpClearCounts who x s = .next t₀) : Keeps r₀ t₀ := by
  unfold execUpClearCounts at e₀
  obtain rfl := Host.Outcome.next.inj e₀
  exact fieldWrite_keeps (by assumption)

theorem execUpClearFault_keeps {r₀ t₀ : State} {who : Requester} {x : SlotId} {s : State} (h₀ : Keeps r₀ s)
    (e₀ : execUpClearFault who x s = .next t₀) : Keeps r₀ t₀ := by
  unfold execUpClearFault at e₀
  obtain rfl := Host.Outcome.next.inj e₀
  exact fieldWrite_keeps (by assumption)

theorem execShClearCounts_keeps {r₀ t₀ : State} {who : Requester} {x : SlotId} {s : State} (h₀ : Keeps r₀ s)
    (e₀ : execShClearCounts who x s = .next t₀) : Keeps r₀ t₀ := by
  unfold execShClearCounts at e₀
  obtain rfl := Host.Outcome.next.inj e₀
  exact fieldWrite_keeps (by assumption)

theorem execClearRates_keeps {r₀ t₀ : State} {who : Requester} {x : SlotId} {s : State} (h₀ : Keeps r₀ s)
    (e₀ : execClearRates who x s = .next t₀) : Keeps r₀ t₀ := by
  unfold execClearRates at e₀
  obtain rfl := Host.Outcome.next.inj e₀
  exact fieldWrite_keeps (by assumption)

theorem execPointReqWrite_keeps {r₀ t₀ : State} {who : Requester} {x : SlotId} {v : BitVec 3} {s : State} (h₀
    : Keeps r₀ s) (e₀ : execPointReqWrite who x v s = .next t₀) : Keeps r₀ t₀ := by
  unfold execPointReqWrite at e₀
  obtain rfl := Host.Outcome.next.inj e₀
  exact fieldWrite_keeps (by assumption)

theorem execCroftPowerClearCounts_keeps {r₀ t₀ : State} {who : Requester} {x : SlotId} {s : State} (h₀
    : Keeps r₀ s) (e₀ : execCroftPowerClearCounts who x s = .next t₀) : Keeps r₀ t₀ := by
  unfold execCroftPowerClearCounts at e₀
  obtain rfl := Host.Outcome.next.inj e₀
  exact fieldWrite_keeps (by assumption)

theorem execHbmClearCounts_keeps {r₀ t₀ : State} {who : Requester} {h : HamletId} {s : State} (h₀ : Keeps r₀ s)
    (e₀ : execHbmClearCounts who h s = .next t₀) : Keeps r₀ t₀ := by
  unfold execHbmClearCounts at e₀
  obtain rfl := Host.Outcome.next.inj e₀
  exact fieldWrite_keeps (by assumption)

theorem execChannelClearCounts_keeps {r₀ t₀ : State} {who : Requester} {c : ChanId} {s : State} (h₀ : Keeps r₀ s)
    (e₀ : execChannelClearCounts who c s = .next t₀) : Keeps r₀ t₀ := by
  unfold execChannelClearCounts at e₀
  obtain rfl := Host.Outcome.next.inj e₀
  exact fieldWrite_keeps (by assumption)

theorem execMapApply_keeps {r₀ t₀ : State} {who : Requester} {s : State} (h₀ : Keeps r₀ s)
    (e₀ : execMapApply who s = .next t₀) : Keeps r₀ t₀ := by
  unfold execMapApply at e₀
  obtain rfl := Host.Outcome.next.inj e₀
  exact fieldWrite_keeps (by assumption)

theorem execKeyGenerate_keeps {r₀ t₀ : State} {p : PartId} {s : State} (h₀ : Keeps r₀ s)
    (e₀ : execKeyGenerate p s = .next t₀) : Keeps r₀ t₀ := by
  unfold execKeyGenerate at e₀
  obtain rfl := Host.Outcome.next.inj e₀
  exact fieldWrite2_keeps (by assumption)

theorem execKeyDestroy_keeps {r₀ t₀ : State} {p : PartId} {s : State} (h₀ : Keeps r₀ s)
    (e₀ : execKeyDestroy p s = .next t₀) : Keeps r₀ t₀ := by
  unfold execKeyDestroy at e₀
  obtain rfl := Host.Outcome.next.inj e₀
  exact fieldWrite2_keeps (by assumption)

theorem ownerFieldWrite_keeps {r₀ : State} {who : Requester} {b : Nat} {p : PartId} {assigned : Bool} {s : State}
    (h₀ : Keeps r₀ s) : Keeps r₀ (ownerFieldWrite who b p assigned s) := by
  unfold ownerFieldWrite
  exact fieldWrite2_keeps (by assumption)

theorem execGranaryModeWrite_keeps {r₀ t₀ : State} {who : Requester} {i : SliceId} {w : SliceWrite} {s : State}
    (h₀ : Keeps r₀ s) (e₀ : execGranaryModeWrite who i w s = .next t₀) : Keeps r₀ t₀ := by
  unfold execGranaryModeWrite at e₀
  obtain rfl := Host.Outcome.next.inj e₀
  split
  · exact fieldWrite_keeps (by assumption)
  · exact ownerFieldWrite_keeps (by assumption)

theorem execGranaryFlush_keeps {r₀ t₀ : State} {who : Requester} {i : SliceId} {s : State} (h₀ : Keeps r₀ s)
    (e₀ : execGranaryFlush who i s = .next t₀) : Keeps r₀ t₀ := by
  unfold execGranaryFlush at e₀
  obtain rfl := Host.Outcome.next.inj e₀
  exact fieldWrite_keeps (by assumption)

theorem execGranaryInvalidate_keeps {r₀ t₀ : State} {who : Requester} {i : SliceId} {s : State} (h₀ : Keeps r₀ s)
    (e₀ : execGranaryInvalidate who i s = .next t₀) : Keeps r₀ t₀ := by
  unfold execGranaryInvalidate at e₀
  obtain rfl := Host.Outcome.next.inj e₀
  exact fieldWrite_keeps (by assumption)

theorem execGranaryClearCounts_keeps {r₀ t₀ : State} {who : Requester} {i : SliceId} {s : State} (h₀ : Keeps r₀ s)
    (e₀ : execGranaryClearCounts who i s = .next t₀) : Keeps r₀ t₀ := by
  unfold execGranaryClearCounts at e₀
  obtain rfl := Host.Outcome.next.inj e₀
  exact fieldWrite_keeps (by assumption)

theorem execTallyMapWrite_keeps {r₀ t₀ : State} {who : Requester} {phys : BitVec 14} {valid : Bool} {s : State}
    (h₀ : Keeps r₀ s) (e₀ : execTallyMapWrite who phys valid s = .next t₀) : Keeps r₀ t₀ := by
  unfold execTallyMapWrite at e₀
  obtain rfl := Host.Outcome.next.inj e₀
  exact fieldWrite2_keeps (by assumption)

theorem execTallyReset_keeps {r₀ t₀ : State} {who : Requester} {phys : BitVec 14} {s : State} (h₀ : Keeps r₀ s)
    (e₀ : execTallyReset who phys s = .next t₀) : Keeps r₀ t₀ := by
  unfold execTallyReset at e₀
  obtain rfl := Host.Outcome.next.inj e₀
  exact fieldWrite2_keeps (by assumption)

theorem execTallyClearCounts_keeps {r₀ t₀ : State} {who : Requester} {s : State} (h₀ : Keeps r₀ s)
    (e₀ : execTallyClearCounts who s = .next t₀) : Keeps r₀ t₀ := by
  unfold execTallyClearCounts at e₀
  obtain rfl := Host.Outcome.next.inj e₀
  exact fieldWrite_keeps (by assumption)

theorem execTallyClearFault_keeps {r₀ t₀ : State} {who : Requester} {s : State} (h₀ : Keeps r₀ s)
    (e₀ : execTallyClearFault who s = .next t₀) : Keeps r₀ t₀ := by
  unfold execTallyClearFault at e₀
  obtain rfl := Host.Outcome.next.inj e₀
  exact fieldWrite_keeps (by assumption)

theorem execMillClearCounts_keeps {r₀ t₀ : State} {who : Requester} {s : State} (h₀ : Keeps r₀ s)
    (e₀ : execMillClearCounts who s = .next t₀) : Keeps r₀ t₀ := by
  unfold execMillClearCounts at e₀
  obtain rfl := Host.Outcome.next.inj e₀
  exact fieldWrite_keeps (by assumption)

theorem execPortClearCounts_keeps {r₀ t₀ : State} {who : Requester} {v : PortId} {s : State} (h₀ : Keeps r₀ s)
    (e₀ : execPortClearCounts who v s = .next t₀) : Keeps r₀ t₀ := by
  unfold execPortClearCounts at e₀
  obtain rfl := Host.Outcome.next.inj e₀
  exact fieldWrite_keeps (by assumption)

theorem execJobEnable_keeps {r₀ t₀ : State} {who : Requester} {p : PartId} {on : Bool} {s : State} (h₀
    : Keeps r₀ s) (e₀ : execJobEnable who p on s = .next t₀) : Keeps r₀ t₀ := by
  unfold execJobEnable at e₀
  obtain rfl := Host.Outcome.next.inj e₀
  exact fieldWrite_keeps (by assumption)

theorem execRebuildClear_keeps {r₀ t₀ : State} {who : Requester} {p : PartId} {s : State} (h₀ : Keeps r₀ s)
    (e₀ : execRebuildClear who p s = .next t₀) : Keeps r₀ t₀ := by
  unfold execRebuildClear at e₀
  obtain rfl := Host.Outcome.next.inj e₀
  exact fieldWrite_keeps (by assumption)

theorem execFailAdd_keeps {r₀ t₀ : State} {who : Requester} {p : PartId} {s : State} (h₀ : Keeps r₀ s)
    (e₀ : execFailAdd who p s = .next t₀) : Keeps r₀ t₀ := by
  unfold execFailAdd at e₀
  obtain rfl := Host.Outcome.next.inj e₀
  exact fieldWrite_keeps (by assumption)

theorem execParityClearCounts_keeps {r₀ t₀ : State} {who : Requester} {p : PartId} {s : State} (h₀ : Keeps r₀ s)
    (e₀ : execParityClearCounts who p s = .next t₀) : Keeps r₀ t₀ := by
  unfold execParityClearCounts at e₀
  obtain rfl := Host.Outcome.next.inj e₀
  exact fieldWrite_keeps (by assumption)

theorem repairWrite_keeps {r₀ : State} {who : Requester} {kind : BitVec 4} {index : BitVec 10} {action : Nat}
    {s : State} (h₀ : Keeps r₀ s) : Keeps r₀ (repairWrite who kind index action s) := by
  unfold repairWrite
  exact regWrite_keeps (by assumption)

theorem execRepFence_keeps {r₀ t₀ : State} {who : Requester} {kind : BitVec 4} {index : BitVec 10} {s : State}
    (h₀ : Keeps r₀ s) (e₀ : execRepFence who kind index s = .next t₀) : Keeps r₀ t₀ := by
  unfold execRepFence at e₀
  obtain rfl := Host.Outcome.next.inj e₀
  exact repairWrite_keeps (by assumption)

theorem execRepSelfTest_keeps {r₀ t₀ : State} {who : Requester} {kind : BitVec 4} {index : BitVec 10} {s : State}
    (h₀ : Keeps r₀ s) (e₀ : execRepSelfTest who kind index s = .next t₀) : Keeps r₀ t₀ := by
  unfold execRepSelfTest at e₀
  obtain rfl := Host.Outcome.next.inj e₀
  exact repairWrite_keeps (by assumption)

theorem execRepReturn_keeps {r₀ t₀ : State} {who : Requester} {kind : BitVec 4} {index : BitVec 10} {s : State}
    (h₀ : Keeps r₀ s) (e₀ : execRepReturn who kind index s = .next t₀) : Keeps r₀ t₀ := by
  unfold execRepReturn at e₀
  obtain rfl := Host.Outcome.next.inj e₀
  exact repairWrite_keeps (by assumption)

theorem execWellClearCounts_keeps {r₀ t₀ : State} {who : Requester} {s : State} (h₀ : Keeps r₀ s)
    (e₀ : execWellClearCounts who s = .next t₀) : Keeps r₀ t₀ := by
  unfold execWellClearCounts at e₀
  obtain rfl := Host.Outcome.next.inj e₀
  exact fieldWrite_keeps (by assumption)

theorem execReplanReq_keeps {r₀ t₀ : State} {who : Requester} {s : State} (h₀ : Keeps r₀ s)
    (e₀ : execReplanReq who s = .next t₀) : Keeps r₀ t₀ := by
  unfold execReplanReq at e₀
  obtain rfl := Host.Outcome.next.inj e₀
  exact fieldWrite_keeps (by assumption)

theorem execDeviceClearCounts_keeps {r₀ t₀ : State} {who : Requester} {s : State} (h₀ : Keeps r₀ s)
    (e₀ : execDeviceClearCounts who s = .next t₀) : Keeps r₀ t₀ := by
  unfold execDeviceClearCounts at e₀
  obtain rfl := Host.Outcome.next.inj e₀
  exact fieldWrite_keeps (by assumption)

theorem execHostIfClearCounts_keeps {r₀ t₀ : State} {who : Requester} {s : State} (h₀ : Keeps r₀ s)
    (e₀ : execHostIfClearCounts who s = .next t₀) : Keeps r₀ t₀ := by
  unfold execHostIfClearCounts at e₀
  obtain rfl := Host.Outcome.next.inj e₀
  exact fieldWrite_keeps (by assumption)

theorem execDieClearCounts_keeps {r₀ t₀ : State} {who : Requester} {d : Fin 6} {s : State} (h₀ : Keeps r₀ s)
    (e₀ : execDieClearCounts who d s = .next t₀) : Keeps r₀ t₀ := by
  unfold execDieClearCounts at e₀
  obtain rfl := Host.Outcome.next.inj e₀
  exact fieldWrite_keeps (by assumption)

theorem execEvEnableWrite_keeps {r₀ t₀ : State} {who : Requester} {fn : FnId} {on : Bool} {s : State} (h₀
    : Keeps r₀ s) (e₀ : execEvEnableWrite who fn on s = .next t₀) : Keeps r₀ t₀ := by
  unfold execEvEnableWrite at e₀
  obtain rfl := Host.Outcome.next.inj e₀
  exact fieldWrite_keeps (by assumption)

theorem execRingEnableWrite_keeps {r₀ t₀ : State} {who : Requester} {fn : FnId} {r : RingId} {on : Bool}
    {s : State} (h₀ : Keeps r₀ s) (e₀ : execRingEnableWrite who fn r on s = .next t₀) : Keeps r₀ t₀ := by
  unfold execRingEnableWrite at e₀
  obtain rfl := Host.Outcome.next.inj e₀
  exact fieldWrite_keeps (by assumption)

theorem execLastCommittedWrite_keeps {r₀ t₀ : State} {who : Requester} {fn : FnId} {v : BitVec 64} {s : State}
    (h₀ : Keeps r₀ s) (e₀ : execLastCommittedWrite who fn v s = .next t₀) : Keeps r₀ t₀ := by
  unfold execLastCommittedWrite at e₀
  obtain rfl := Host.Outcome.next.inj e₀
  exact pairWrite_keeps (by assumption)

theorem execClearErr_keeps {r₀ t₀ : State} {who : Requester} {fn : FnId} {s : State} (h₀ : Keeps r₀ s)
    (e₀ : execClearErr who fn s = .next t₀) : Keeps r₀ t₀ := by
  unfold execClearErr at e₀
  obtain rfl := Host.Outcome.next.inj e₀
  exact fieldWrite_keeps (by assumption)

theorem execFnPageClearCounts_keeps {r₀ t₀ : State} {who : Requester} {fn : FnId} {s : State} (h₀ : Keeps r₀ s)
    (e₀ : execFnPageClearCounts who fn s = .next t₀) : Keeps r₀ t₀ := by
  unfold execFnPageClearCounts at e₀
  obtain rfl := Host.Outcome.next.inj e₀
  exact fieldWrite_keeps (by assumption)

theorem execLgSelectWrite_keeps {r₀ t₀ : State} {who : Requester} {seq : BitVec 64} {s : State} (h₀ : Keeps r₀ s)
    (e₀ : execLgSelectWrite who seq s = .next t₀) : Keeps r₀ t₀ := by
  unfold execLgSelectWrite at e₀
  obtain rfl := Host.Outcome.next.inj e₀
  exact pairWrite_keeps (by assumption)

theorem execRvReqGenerate_keeps {r₀ t₀ : State} {who : Requester} {p : PartId} {s : State} (h₀ : Keeps r₀ s)
    (e₀ : execRvReqGenerate who p s = .next t₀) : Keeps r₀ t₀ := by
  unfold execRvReqGenerate at e₀
  obtain rfl := Host.Outcome.next.inj e₀
  exact fieldWrite2_keeps (by assumption)

theorem execRvReqDestroy_keeps {r₀ t₀ : State} {who : Requester} {p : PartId} {s : State} (h₀ : Keeps r₀ s)
    (e₀ : execRvReqDestroy who p s = .next t₀) : Keeps r₀ t₀ := by
  unfold execRvReqDestroy at e₀
  obtain rfl := Host.Outcome.next.inj e₀
  exact fieldWrite2_keeps (by assumption)

theorem execCroftMapWrite_keeps {r₀ t₀ : State} {who : Requester} {x : SlotId} {phys : BitVec 6} {s : State}
    (h₀ : Keeps r₀ s) (e₀ : execCroftMapWrite who x phys s = .next t₀) : Keeps r₀ t₀ := by
  unfold execCroftMapWrite at e₀
  obtain rfl := Host.Outcome.next.inj e₀
  exact fieldWrite_keeps (by assumption)

theorem execOwnerWrite_keeps {r₀ t₀ : State} {who : Requester} {page : Page} {p : PartId} {assigned : Bool}
    {s : State} (h₀ : Keeps r₀ s) (e₀ : execOwnerWrite who page p assigned s = .next t₀) : Keeps r₀ t₀ := by
  unfold execOwnerWrite at e₀
  obtain rfl := Host.Outcome.next.inj e₀
  exact ownerFieldWrite_keeps (by assumption)

theorem execLockTake_keeps {r₀ t₀ : State} {who : Requester} {page : Page} {s : State} (h₀ : Keeps r₀ s)
    (e₀ : execLockTake who page s = .next t₀) : Keeps r₀ t₀ := by
  unfold execLockTake at e₀
  obtain rfl := Host.Outcome.next.inj e₀
  exact fieldWrite_keeps (by assumption)

theorem execLockRelease_keeps {r₀ t₀ : State} {who : Requester} {page : Page} {s : State} (h₀ : Keeps r₀ s)
    (e₀ : execLockRelease who page s = .next t₀) : Keeps r₀ t₀ := by
  unfold execLockRelease at e₀
  obtain rfl := Host.Outcome.next.inj e₀
  exact fieldWrite_keeps (by assumption)

theorem execBlockClearFault_keeps {r₀ t₀ : State} {who : Requester} {page : Page} {s : State} (h₀ : Keeps r₀ s)
    (e₀ : execBlockClearFault who page s = .next t₀) : Keeps r₀ t₀ := by
  unfold execBlockClearFault at e₀
  obtain rfl := Host.Outcome.next.inj e₀
  exact fieldWrite_keeps (by assumption)

theorem execSeenClear_keeps {r₀ t₀ : State} {who : Requester} {page : Page} {bitmap : BitVec 5} {s : State}
    (h₀ : Keeps r₀ s) (e₀ : execSeenClear who page bitmap s = .next t₀) : Keeps r₀ t₀ := by
  unfold execSeenClear at e₀
  obtain rfl := Host.Outcome.next.inj e₀
  exact fieldWrite_keeps (by assumption)

theorem sriovWrite_keeps {r₀ : State} {v : Nat} {s : State} (h₀ : Keeps r₀ s) : Keeps r₀ (sriovWrite v s) := by
  unfold sriovWrite
  dsimp only
  apply setF_keeps
  apply setF_keeps
  refine Keeps.foldl ?_ (fun _ _ _ => ?_)
  · assumption
  · refine Keeps.ite (fun _ => ?_) (fun _ => ?_)
    · exact functionReset_keeps (by assumption)
    · assumption

theorem updPci_keeps {r₀ : State} {f : Pci → Pci} {s : State} (h₀ : Keeps r₀ s) : Keeps r₀ (updPci f s) := by
  unfold updPci
  with_reducible refine Keeps.upd ?_ (Nat.le_refl _) rfl rfl rfl
  assumption

theorem configWrite_keeps {r₀ : State} {fn : Nat} {r : PciReg} {v : Nat} {s : State} (h₀ : Keeps r₀ s) : Keeps r₀
    (configWrite fn r v s) := by
  unfold configWrite
  split
  · refine Keeps.ite (fun _ => ?_) (fun _ => ?_)
    · assumption
    · dsimp only
      exact updPci_keeps (by assumption)
  · refine Keeps.ite (fun _ => ?_) (fun _ => ?_)
    · assumption
    · exact updPci_keeps (by assumption)
  · exact changeMsix_keeps (by assumption)
  · dsimp only
    with_reducible refine Keeps.upd ?_ (Nat.le_refl _) rfl rfl rfl
    assumption
  · with_reducible refine Keeps.upd ?_ (Nat.le_refl _) rfl rfl rfl
    assumption

theorem bytesWrite_keeps {r₀ : State} {who : Requester} {x : Nat} {data : List Byte} {s : State} (h₀
    : Keeps r₀ s) : Keeps r₀ (bytesWrite who x data s) := by
  unfold bytesWrite
  dsimp only
  refine Keeps.ite (fun _ => ?_) (fun _ => ?_)
  · exact barWrite_keeps (by assumption)
  · refine Keeps.ite (fun _ => ?_) (fun _ => ?_)
    · exact barWrite_keeps (barWrite_keeps (by assumption))
    · exact discard_keeps (by assumption)

theorem execRegisterWrite_keeps {r₀ t₀ : State} {who : Requester} {target : WriteTarget} {data : List Byte}
    {s : State} (h₀ : Keeps r₀ s) (e₀ : execRegisterWrite who target data s = .next t₀) : Keeps r₀ t₀ := by
  unfold execRegisterWrite at e₀
  split at e₀
  · cases e₀
  · obtain rfl := Host.Outcome.next.inj e₀
    refine Keeps.ite (fun _ => h₀) fun _ => ?_
    cases target with
    | bar0 off => exact bytesWrite_keeps h₀
    | bar4 off =>
      cases who with
      | host fn => exact bar4Write_keeps h₀
      | _ => exact h₀
    | config r =>
      cases who with
      | host fn => exact configWrite_keeps h₀
      | _ => exact h₀
    | sriov =>
      cases who with
      | host fn => exact Keeps.ite (fun _ => sriovWrite_keeps h₀) fun _ => h₀
      | _ => exact h₀

end Sys2Proof.Machine
end

