-- ==== Sys2Proof/Tests/Slice0.lean ====
section
/-!
SUPPORT. Tests: what WellFormed refuses; effects taken from the spec's own tables and worked examples; and for every
statement with hypotheses a state and operands that meet them, clause by clause (test_meets_…).
-/
namespace Sys2Proof.Tests
set_option Elab.async false
open Sys2Proof.Machine Sys2Proof.Claims

/-! ### Small states -/

/-- Fields put into a state. -/
def put (l : List (Nat × Field × Nat)) (s : State) : State := l.foldl (fun s e => setF e.1 e.2.1 e.2.2 s) s

/-- A device that runs and answers the host, with its eight VFs. -/
def live : State := put [(bFunction 0, F.FP_READY, 1), (bHostIf, F.HI_SPEED, 5), (bHostIf, F.HI_NUM_VFS, 8),
  (bHostIf, F.HI_VF_ENABLE, 1), (bReeve, F.RV_STATE, 2)] State.reset

/-- Partition 0 holds hamlet 0, whose croft 0 may start tasks; croft 0 is croft 0 of slot 0. -/
def owned : State := put [(bHamlet 0, F.BLK_ASSIGNED, 1), (bFunction 1, F.FP_ASSEMBLED, 1), (bCroft 0, F.SEQ_CTRL_STOP, 0)] live

/-- A descriptor from the values at its byte offsets. -/
def desc (l : List (Nat × Nat)) : Desc := BitVec.ofNat 512 ((l.map fun e => e.2 * 2 ^ (8 * e.1)).sum)

/-- A task that waits in a queue, number 1. -/
def waiting (d : Desc) : Task := ⟨1, d, 0, false, false, .queued, false, false, 0, 0, 0, 0, 0, 0, 0, 0⟩

/-- A state with a croft 0 of its own. -/
def withCroft (f : Croft → Croft) (s : State) : State := updCroft 0 f s

/-- Partition 0's croft 0 holds one task. -/
def one (d : Desc) : State := withCroft (fun k => { k with queue := [waiting d] }) owned

/-- The control core reaches the page of a block and finds it open; so does the reeve, and the dispatch core one not fenced. -/
def openTo (b : Nat) (s : State) : Bool :=
  s.power.supply == .on && getF b F.BLK_HOLDER s == 0 && !fenced b s

theorem openTo_meets {b : Nat} {s : State} (h : openTo b s = true) (who : Requester) (hw : ∀ f, who ≠ .host f) :
    Reaches who b s ∧ Unlocked who b s := by
  simp only [openTo, Bool.and_eq_true, beq_iff_eq, Bool.not_eq_true'] at h
  refine ⟨?_, .inl h.1.2, .inl h.2⟩
  cases who with
  | host f => exact absurd rfl (hw f)
  | _ => exact h.1.1

/-- A function reaches its own page and finds it open. -/
def openToHost (f : FnId) (s : State) : Bool :=
  hostLive s && getF (bFunction f.val) F.BLK_HOLDER s == 0 && !fenced (bFunction f.val) s

theorem openToHost_meets {f : FnId} {s : State} (h : openToHost f s = true) :
    Reaches (.host f) (bFunction f.val) s ∧ Unlocked (.host f) (bFunction f.val) s := by
  simp only [openToHost, Bool.and_eq_true, beq_iff_eq, Bool.not_eq_true'] at h
  exact ⟨⟨h.1.1, rfl⟩, .inl h.1.2, .inl h.2⟩

/-! ### Tensors whose local shard is empty -/

/-- An address in the croft's own larder, as a bolt's BASE has it. -/
def own (o : Nat) : Nat := 3 * 2 ^ 52 + 0x3FF * 2 ^ 22 + o

/-- The bytes of a valid bolt of rank 2, 128 by 128, whose second device of two holds no tile (02 R65 to R73). -/
def bolt2 (fmt cls flags : Nat) : List Byte :=
  let a (i : Nat) : List Byte := bytesOf 8 (if bit i flags then 0x3000 else 0)
  bytesOf 1 1 ++ bytesOf 1 fmt ++ bytesOf 1 cls ++ bytesOf 1 flags ++ bytesOf 4 0 ++ bytesOf 1 2 ++ bytesOf 1 1 ++ bytesOf 2 0 ++
  bytesOf 4 0 ++ bytesOf 4 128 ++ bytesOf 4 128 ++ bytesOf 4 1 ++ bytesOf 4 1 ++ bytesOf 2 2 ++ bytesOf 2 1 ++ bytesOf 2 1 ++
  bytesOf 2 1 ++ bytesOf 2 1 ++ bytesOf 2 0 ++ bytesOf 2 0 ++ bytesOf 2 0 ++ bytesOf 4 4 ++ bytesOf 4 65536 ++
  bytesOf 8 0x10000 ++ a 0 ++ a 1 ++ a 0 ++ a 2 ++ List.replicate 32 0

/-- The bytes of a bolt of rank 1 with 128 elements, its shard empty where `sharded`. -/
def bolt1 (fmt cls flags : Nat) (sharded : Bool) : List Byte :=
  let k := if sharded then 1 else 0
  bytesOf 1 1 ++ bytesOf 1 fmt ++ bytesOf 1 cls ++ bytesOf 1 flags ++ bytesOf 4 0 ++ bytesOf 1 1 ++ bytesOf 1 k ++ bytesOf 2 0 ++
  bytesOf 4 0 ++ bytesOf 4 128 ++ bytesOf 4 1 ++ bytesOf 4 1 ++ bytesOf 4 1 ++ bytesOf 2 (k + 1) ++ bytesOf 2 1 ++ bytesOf 2 1 ++
  bytesOf 2 1 ++ bytesOf 2 k ++ bytesOf 2 0 ++ bytesOf 2 0 ++ bytesOf 2 0 ++ bytesOf 4 (4 * k) ++ bytesOf 4 0 ++
  bytesOf 8 0x10000 ++ bytesOf 8 0 ++ bytesOf 8 0 ++ bytesOf 8 0 ++
  bytesOf 8 (if bit 2 flags then 0x3000 else 0) ++ List.replicate 32 0

/-- The bytes of a list from a place on that are not 0. -/
def cells (at_ : Nat) (l : List Byte) : List Host.Cell :=
  ((rangeFrom at_ l.length).zip l).filter fun e => e.2 != 0

/-- Partition 0's croft 0 with tensors in its bolt table, by ascending handle, and one task. -/
def tensors (bs : List (Nat × List Byte)) (d : Desc) : State :=
  { put [(bCroft 0, F.BOLT_TABLE_BASE_LO, own 0x1000 % 2 ^ 32), (bCroft 0, F.BOLT_TABLE_BASE_HI, own 0x1000 / 2 ^ 32)] (one d) with
    mem := bs.flatMap fun e => cells (plLarder 0 (0x1000 + 128 * e.1)) e.2 }

/-- How the work of a task begun in this state ends: 0 done, 1 with a fault, 2 with missing bytes of a peer. -/
def outcome (work : Desc → TCtx → TM Unit) (d : Desc) (s : State) : Nat :=
  match work d { croft := 0, uid := 1, part := 0, unit := unitOf (dOpcode d) } (markStarted 0 (waiting d) s) with
  | .ok _ _ => 0
  | .error (.park _ _) _ => 2
  | .error _ _ => 1

/-! ### Tensors of one whole tile in the croft's own larder -/

/-- The bytes of a valid bolt of rank 2 and one tile on one device, whose values lie at an offset of the croft's own larder; a sparse one
keeps a tile with an entry as twill. -/
def tileOf (cols rows fmt cls flags base : Nat) : List Byte :=
  let a (i o : Nat) : List Byte := bytesOf 8 (if bit i flags then own o else 0)
  bytesOf 1 1 ++ bytesOf 1 fmt ++ bytesOf 1 cls ++ bytesOf 1 flags ++ bytesOf 4 0 ++ bytesOf 1 2 ++ bytesOf 1 0 ++
  bytesOf 2 (flags % 2) ++ bytesOf 4 0 ++ bytesOf 4 cols ++ bytesOf 4 rows ++ bytesOf 4 1 ++ bytesOf 4 1 ++ bytesOf 2 1 ++ bytesOf 2 1 ++ bytesOf 2 1 ++
  bytesOf 2 1 ++ bytesOf 8 0 ++ bytesOf 4 0 ++ bytesOf 4 65536 ++
  bytesOf 8 (own base) ++ a 0 0x2000 ++ a 1 0x2400 ++ a 0 0x2800 ++ a 2 0x3000 ++ List.replicate 32 0

/-- The same, 128 by 128. -/
def tile2 (fmt cls flags base : Nat) : List Byte := tileOf 128 128 fmt cls flags base

/-- The bytes of a valid bolt of rank 1 with `n` elements on one device. -/
def line1 (fmt cls flags n base : Nat) : List Byte :=
  bytesOf 1 1 ++ bytesOf 1 fmt ++ bytesOf 1 cls ++ bytesOf 1 flags ++ bytesOf 4 0 ++ bytesOf 1 1 ++ bytesOf 1 0 ++ bytesOf 2 0 ++
  bytesOf 4 0 ++ bytesOf 4 n ++ bytesOf 4 1 ++ bytesOf 4 1 ++ bytesOf 4 1 ++ bytesOf 2 1 ++ bytesOf 2 1 ++ bytesOf 2 1 ++
  bytesOf 2 1 ++ bytesOf 8 0 ++ bytesOf 4 0 ++ bytesOf 4 0 ++ bytesOf 8 (own base) ++ List.replicate 24 0 ++
  bytesOf 8 (if bit 2 flags then own 0x3000 else 0) ++ List.replicate 32 0

/-- The bytes that a handle names are a valid bolt, and it is `b`. -/
def boltB (p h : Nat) (b : Bolt) (s : State) : Bool :=
  spaceOf (boltTable 0 s) == 3 && (place3 p (some 0) (addrOf (boltTable 0 s) + 128 * h) 128 s).any fun q =>
    boltFault (rdN q 128 s) == none && Bolt.parse (rdN q 128 s) == b

theorem heldAt_of_place3 {c p base off n q : Nat} {s : State} (h : spaceOf base = 3) (hn : 0 < n)
    (hq : place3 p (some c) (addrOf base + off) n s = some q) : HeldAt c p base off n (rdN q n s) s :=
  .inr ⟨h, hn, q, hq, rfl⟩

theorem boltB_meets {p h : Nat} {b : Bolt} {s : State} (e : boltB p h b s = true) : BoltAt 0 p h b s := by
  simp only [boltB, Bool.and_eq_true, beq_iff_eq, Option.any_eq_true] at e
  obtain ⟨h3, q, hq, hf, hb⟩ := e
  exact ⟨_, heldAt_of_place3 h3 (Nat.zero_lt_succ _) hq, hf, hb.symm⟩

/-- A handle names the tensor `b`. -/
def tensorB (h : Nat) (b : Bolt) (s : State) : Bool := h != noBolt && boltB 0 h b s

theorem tensorB_meets {h : Nat} {b : Bolt} {s : State} (e : tensorB h b s = true) : Tensor 0 0 h b s := by
  simp only [tensorB, Bool.and_eq_true, bne_iff_ne, ne_eq] at e
  exact ⟨e.1, boltB_meets e.2⟩

theorem tensorB_names {h : Nat} {b : Bolt} {s : State} (e : tensorB h b s = true) : Names 0 0 h (some b) s :=
  .inr ⟨b, rfl, tensorB_meets e⟩

/-- The bolt that a byte string spells. -/
def bolt (l : List Byte) : Bolt := Bolt.parse l

/-- The task in its queue, for an operand `p` of the statements. -/
def turn (op : Nat) (d : Desc) (s : State) : Bool :=
  startableOp 0 op s == some (waiting d) && workOf 0 op s == none && contextOf 0 s == some 0

theorem turn_meets {op : Nat} {d : Desc} {s : State} (e : turn op d s = true) : Turn op 0 (waiting d) 0 s := by
  simp only [turn, Bool.and_eq_true, beq_iff_eq] at e
  exact ⟨e.1.1, e.1.2, e.2⟩

/-! ### Where the tasks of the engines start -/

/-- The tensors of a product: A as sparse weights and as activations, B and C. -/
def sparseA : List Byte := tile2 1 0 5 0x10000
def denseA : List Byte := tile2 1 1 4 0x10000
def denseB : List Byte := tile2 1 2 4 0x20000
def denseC : List Byte := tile2 1 1 4 0x30000
/-- A gauze product over tile 0 with FINAL, and the state in which it is due. -/
def gzDesc (op : Nat) : Desc := desc [(0, op), (0x18, 0), (0x1C, 1), (0x20, 2), (0x2A, 1), (0x2F, 2)]
def gzDue (op : Nat) : State := tensors [(0, sparseA), (1, denseB), (2, denseC)] (gzDesc op)

theorem gauzeOperands_meets {op : Nat} (h : op = 1 ∨ op = 2) : GauzeOperands (gzDesc op) (bolt sparseA) (bolt denseB) (bolt denseC) := by
  unfold GauzeOperands
  rcases h with rfl | rfl <;> decide +kernel

theorem slotReady_final {c n k : Nat} {g : SlotRegion} {acc final : Bool} {key same : List Byte → Bool} {s : State} (h : acc = false)
    (h' : final = true) : SlotReady c g acc final key same n k s := by
  simp [SlotReady, h, h']

theorem test_meets_gauze_start : ∀ w : Bool, let op := if w then opGzWeft else opGzPlain
    Turn op 0 (waiting (gzDesc op)) 0 (gzDue op) ∧ GauzeOperands (gzDesc op) (bolt sparseA) (bolt denseB) (bolt denseC) ∧
    Tensor 0 0 (dF 0x18 4 (gzDesc op)) (bolt sparseA) (gzDue op) ∧ Tensor 0 0 (dF 0x1C 4 (gzDesc op)) (bolt denseB) (gzDue op) ∧
    Tensor 0 0 (dF 0x20 4 (gzDesc op)) (bolt denseC) (gzDue op) ∧ (bolt sparseA).empty = false ∧ (bolt denseB).empty = false ∧
    (bolt denseC).empty = false ∧ ProductInRange (gzDesc op) 1 1 (bolt denseB) (bolt denseC) ∧
    outDraws 0 (gzFinal (gzDesc op)) (bolt denseC) 0 (gzDue op) = true ∧
    SlotReady 0 (gzSlots 0 (gzDue op)) (gzAcc (gzDesc op)) (gzFinal (gzDesc op)) (gzKey (gzDesc op)) (gzSame (gzDesc op) w) 0xE 0
      (gzDue op) := by
  intro w
  cases w <;>
    exact ⟨turn_meets (by decide +kernel), gauzeOperands_meets (by decide), tensorB_meets (by decide +kernel),
      tensorB_meets (by decide +kernel), tensorB_meets (by decide +kernel), by decide +kernel, by decide +kernel, by decide +kernel,
      by unfold ProductInRange; decide +kernel, by decide +kernel, slotReady_final (by decide +kernel) (by decide +kernel)⟩

/-- The same with ACC over a slot that holds the accumulator at the chain index, and without FINAL over a free one. -/
def accDesc (acc : Nat) : Desc := desc [(0, 1), (0x18, 0), (0x1C, 1), (0x20, 2), (0x2A, 1), (0x2F, acc)]
def accDue (acc : Nat) : State :=
  larderWrite 0 0x40000 (gzHeader (accDesc acc) false 0)
    (put [(bCroft 0, F.GZ_ACC_BASE, 0x40000), (bCroft 0, F.GZ_ACC_SLOTS, 2)]
      (tensors [(0, sparseA), (1, denseB), (2, denseC)] (accDesc acc)))

theorem test_meets_gauze_acc :
    SlotReady 0 (gzSlots 0 (accDue 1)) (gzAcc (accDesc 1)) (gzFinal (accDesc 1)) (gzKey (accDesc 1)) (gzSame (accDesc 1) false) 0xE
      (gzKFirst (accDesc 1)) (accDue 1) ∧ gzAcc (accDesc 1) = true ∧
    findSlot 0 (gzSlots 0 (accDue 1)) (gzKey (accDesc 1)) (accDue 1) = some 0 ∧ turn opGzPlain (accDesc 1) (accDue 1) = true ∧
    freeSlot 0 (gzSlots 0 (accDue 0)) (accDue 0) = some 1 ∧ gzAcc (accDesc 0) = false ∧ gzFinal (accDesc 0) = false := by
  have acc : gzAcc (accDesc 1) = true := by decide +kernel
  refine ⟨?_, acc, by decide +kernel, by decide +kernel, by decide +kernel, by decide +kernel, by decide +kernel⟩
  simp only [SlotReady, acc, if_true]
  exact ⟨0, by decide +kernel, by decide +kernel, by decide +kernel⟩

/-- A LOOM_FWD with FINAL and a LOOM_PAIR of both outputs with FINAL. -/
def fwdDesc : Desc := desc [(0, 8), (0x18, 0), (0x1C, 1), (0x20, 2), (0x2A, 1), (0x2E, 1), (0x2F, 2)]
def fwdDue : State := tensors [(0, denseA), (1, denseB), (2, denseC)] fwdDesc
def pairDesc : Desc := desc [(0, 9), (0x18, 1), (0x1C, 0), (0x20, 3), (0x24, 4), (0x28, 5), (0x32, 1), (0x34, 12)]
def pairBolts : List (List Byte) := [sparseA, denseB, denseC, denseA, tile2 1 2 4 0x40000, tile2 0 3 4 0x50000]
def pairDue : State := tensors ((List.range 6).zip pairBolts) pairDesc
def pairBolt (i : Nat) : Bolt := bolt ((pairBolts[i]?).getD [])

theorem test_meets_loom_start : Turn opLoomFwd 0 (waiting fwdDesc) 0 fwdDue ∧ Tensor 0 0 (dF 0x18 4 fwdDesc) (bolt denseA) fwdDue ∧
    Tensor 0 0 (dF 0x1C 4 fwdDesc) (bolt denseB) fwdDue ∧ Tensor 0 0 (dF 0x20 4 fwdDesc) (bolt denseC) fwdDue ∧
    (∀ b ∈ [bolt denseA, bolt denseB, bolt denseC], b.sparse = false ∧ b.rank = 2 ∧ 1 ≤ b.fmt ∧ b.fmt ≤ 8 ∧ statsOk b = true ∧ b.empty = false) ∧
    gzKCount fwdDesc ≠ 0 ∧ ProductInRange fwdDesc 1 1 (bolt denseB) (bolt denseC) ∧
    outDraws 0 (lmAccBit fwdDesc 1) (bolt denseC) 0 fwdDue = true ∧
    SlotReady 0 (lmSlots 0 fwdDue) (lmAccBit fwdDesc 0) (lmAccBit fwdDesc 1) ((fwdAcc fwdDesc).key fwdDesc) (fun _ => true) 0xC
      (gzKFirst fwdDesc) fwdDue :=
  ⟨turn_meets (by decide +kernel), tensorB_meets (by decide +kernel), tensorB_meets (by decide +kernel), tensorB_meets (by decide +kernel),
    by decide +kernel, by decide +kernel, by unfold ProductInRange; decide +kernel, by decide +kernel,
    slotReady_final (by decide +kernel) (by decide +kernel)⟩

theorem test_meets_pair_operands : PairOperands pairDesc (pairBolt 1) (some (pairBolt 0)) (some (pairBolt 3)) (some (pairBolt 4)) (some (pairBolt 5)) ∧
    PairInRange pairDesc (pairBolt 1) (some (pairBolt 0)) (some (pairBolt 3)) (some (pairBolt 4)) (some (pairBolt 5)) := by
  refine ⟨⟨by decide, by decide +kernel, rfl, rfl, ?_, ?_, ?_, ?_, by decide +kernel, ?_, ?_, ?_, ?_⟩, ?_, ?_, ?_, ?_, ?_⟩
  · rintro b ⟨⟩; decide +kernel
  · rintro b ⟨⟩; decide +kernel
  · rintro b ⟨⟩; decide +kernel
  · rintro b ⟨⟩; decide +kernel
  · rintro b (h | h | h) <;> cases h <;> decide +kernel
  · rintro b (h | h) <;> cases h <;> decide +kernel
  · rintro _ b ⟨⟩; decide +kernel
  · rintro _ b ⟨⟩; decide +kernel
  · rintro b (h | h | h | h | h) <;> cases h <;> decide +kernel
  · rintro b (h | h | h) <;> cases h <;> decide +kernel
  · rintro b (h | h) <;> cases h <;> decide +kernel
  · rintro b (h | h) <;> cases h <;> decide +kernel
  · rintro b (h | h | h) <;> cases h <;> decide +kernel

theorem test_meets_pair_start : Turn opLoomPair 0 (waiting pairDesc) 0 pairDue ∧ Tensor 0 0 (dF 0x18 4 pairDesc) (pairBolt 1) pairDue ∧
    Names 0 0 (dF 0x1C 4 pairDesc) (some (pairBolt 0)) pairDue ∧ Names 0 0 (dF 0x20 4 pairDesc) (some (pairBolt 3)) pairDue ∧
    Names 0 0 (dF 0x24 4 pairDesc) (some (pairBolt 4)) pairDue ∧ Names 0 0 (dF 0x28 4 pairDesc) (some (pairBolt 5)) pairDue ∧
    PairReady 0 pairDesc (some (pairBolt 4)) (some (pairBolt 5)) pairDue := by
  refine ⟨turn_meets (by decide +kernel), tensorB_meets (by decide +kernel), tensorB_names (by decide +kernel), tensorB_names (by decide +kernel),
    tensorB_names (by decide +kernel), tensorB_names (by decide +kernel), ?_, ?_, ?_⟩
  · rintro b ⟨⟩; exact ⟨by decide +kernel, slotReady_final (by decide +kernel) (by decide +kernel)⟩
  · rintro b ⟨⟩; exact ⟨by decide +kernel, slotReady_final (by decide +kernel) (by decide +kernel)⟩
  · intro _ _; decide +kernel

/-- A shard that is empty. -/
theorem test_meets_empty_shard : (bolt (bolt2 1 0 5)).empty = true ∧ GauzeOperands (gzDesc 1) (bolt (bolt2 1 0 5)) (bolt (bolt2 1 2 4))
      (bolt (bolt2 1 1 4)) ∧ turn opGzPlain (gzDesc 1) (tensors [(0, bolt2 1 0 5), (1, bolt2 1 2 4), (2, bolt2 1 1 4)] (gzDesc 1)) = true ∧
    (∀ e ∈ [(0, bolt2 1 0 5), (1, bolt2 1 2 4), (2, bolt2 1 1 4)],
      tensorB e.1 (bolt e.2) (tensors [(0, bolt2 1 0 5), (1, bolt2 1 2 4), (2, bolt2 1 1 4)] (gzDesc 1)) = true) := by
  unfold GauzeOperands
  decide +kernel

/-! ### Statements about registers -/

/-- Every page of the clearing rows is open to the steward's cores and the reeve. -/
theorem test_meets_clears : ∀ b ∈ [page ⟨2, 5⟩ live, page ⟨15, 37⟩ live, bHbm 0, bHbm 15, bDdr 0, bDdr 11, bCxl 0, bCxl 3, bSlice 0,
    bSlice 63, bTally, bMill, bPort 0, bPort 15, bWell, bDevice, bHostIf, bDie 0, bEdge 1, bFunction 0, bFunction 8],
    openTo b live = true := by decide +kernel

/-- Every function's page is open to the function. -/
theorem test_meets_clears_host : openToHost 0 live = true ∧ openToHost 8 live = true := by decide +kernel

/-- STOP may clear once the larder layout fits. -/
theorem test_meets_stop_clears : layoutOk (physOf 2 5 live) (put [(page ⟨2, 5⟩ live, F.LK_RECALL_BASE, 0x40000)] live) = true := by
  decide +kernel

/-- LAST_COMMITTED in open service with no STEP in flight. -/
theorem test_meets_last_committed : getF (bFunction 1) F.FP_SERVICE (put [(bFunction 1, F.FP_SERVICE, 1)] owned) = 1 ∧
    stepInFlight 0 (put [(bFunction 1, F.FP_SERVICE, 1)] owned) = false := by decide +kernel

/-- ABANDON in open service with a running task. -/
theorem test_meets_abandon : getF (page ⟨0, 0⟩ owned) F.SEQ_CTRL_SERVICE (put [(bCroft 0, F.SEQ_CTRL_SERVICE, 1)] owned) = 1 := by
  decide +kernel

/-- A task with a registration, which PURGE and PURGE_STEP 7 select, and a running one, which stays. -/
def purgeable : State := withCroft (fun k => { k with queue :=
  [{ waiting (desc [(0, 0x29), (18, 7)]) with registered := true }, { waiting (desc [(0, 0x20)]) with uid := 2, phase := .running }] }) owned

theorem test_meets_purge : (∀ k ∈ (croftOf 0 purgeable).queue, ∀ j ∈ (croftOf 0 purgeable).queue, j.uid = k.uid → j = k) ∧
    contextOf 0 purgeable = some 0 ∧ (∃ k ∈ (croftOf 0 purgeable).queue, (dStepTag k.desc == 7) = true ∧ k.phase = .queued ∧
      k.registered = true) ∧ (∃ k ∈ (croftOf 0 purgeable).queue, k.phase = .running ∧ dOpcode k.desc ≠ opTallyWait) := by decide +kernel

/-- ACC_CLEAR of an engine that runs nothing; a repeat whose queues are empty. -/
theorem test_meets_acc_clear : runningOf 0 0 owned = none ∧ runningOf 0 1 owned = none ∧
    queuesEmpty 0 (updPart 0 (fun k => { k with run := some ⟨5, 1, 0, [], [(3, 1)], true, none⟩ }) owned) = true := by decide +kernel

/-- A page's lock free, held by another, held by the asker, held for a millisecond, held by a reeve that restarts. -/
def locked (code : Nat) : State := { put [(bWell, F.BLK_HOLDER, code)] live with lockSince := [(bWell, 5)], time := 1000005 }

theorem test_meets_lock_free : Reaches .control (pageBlock .well live) live ∧ getF (pageBlock .well live) F.BLK_HOLDER live = 0 :=
  ⟨by simp only [Reaches]; decide, by decide +kernel⟩
theorem test_meets_lock_of_another : getF bWell F.BLK_HOLDER (locked 3) ≠ 0 ∧ getF bWell F.BLK_HOLDER (locked 3) ≠ takeCode .control := by
  decide +kernel
theorem test_meets_lock_own : getF bWell F.BLK_HOLDER (locked 1) = takeCode .control := by decide +kernel
theorem test_meets_lock_timeout : mapGet (fun _ => 0) (locked 1).lockSince bWell + 10 ^ 6 ≤ (locked 1).time := by decide +kernel
/-- No page is held by the reeve, so that each that is has its time. -/
theorem test_meets_lock_restart (b : Nat) (h : getF b F.BLK_HOLDER State.reset = 2) : ∃ e ∈ State.reset.lockSince, e.1 = b := by
  have hk : regKey b F.BLK_HOLDER.off / 1024 = b := by simp [regKey, F.BLK_HOLDER]; try omega
  have ho : regKey b F.BLK_HOLDER.off % 1024 * 4 = F.BLK_HOLDER.off := by simp [regKey, F.BLK_HOLDER]; try omega
  have hl : loadedWord b F.BLK_HOLDER.off = 0 := by unfold loadedWord; split <;> simp [F.BLK_HOLDER]
  have hv : vfOnly F.BLK_HOLDER.off = false := by decide
  have hf : fieldsAt b F.BLK_HOLDER.off = fieldsAt 0 F.BLK_HOLDER.off := by unfold fieldsAt; rw [hv]; simp [F.BLK_HOLDER]
  have hg : mapGet resetWord State.reset.regs (regKey b F.BLK_HOLDER.off) = resetWord (regKey b F.BLK_HOLDER.off) := rfl
  have h0 : getF b F.BLK_HOLDER State.reset = 0 := by
    unfold getF getW
    rw [hg]
    unfold resetWord
    simp only [hk, ho, hl, hf]
    decide +kernel
  omega

/-- OWNER of a hamlet, and of a slice without a dirty line; PHYS of two crofts at rest. -/
theorem test_meets_owner : ownerWritable (pageBlock (.hamlet 3) live) = true ∧ ownerWritable (pageBlock (.slice 4) live) = true ∧
    dirtyLines 4 live = 0 ∧ ownerOf (bSlice 4) live = none ∧ croftBusy (physOf 3 2 live) live = false ∧
    croftBusy (38 * 3 + 36) live = false := by decide +kernel

/-! ### Statements about tasks and tallies -/

/-- A descriptor on its way to croft 0. -/
def arriving (d : Desc) : State := withCroft (fun k => { k with arriving := [⟨d, 0, 0⟩] }) owned

/-- Virtual tally 5 of partition 0 is physical tally 9. -/
def mapped (s : State) : State := { s with tally := { s.tally with
  maps := [(5, 10)], tallies := [(9, { Tally.reset with mapped := true, virt := 5 })] } }

/-- A descriptor that waits for tally 5 to reach 2 passes; one of an opcode that does not exist, one with a reserved flag, and one for a
fenced croft. -/
theorem test_meets_arrival : fenced (bCroft 0) (mapped owned) = false ∧
    arrivalRefused 0 ⟨desc [(0, 0x29), (4, 0x8005), (8, 2), (0x18, 5)], 0, 0⟩ (mapped owned) = none ∧ contextOf 0 (mapped owned) = some 0 := by
  decide +kernel
theorem test_meets_arrival_fault :
    arrivalRefused 0 ⟨desc [(0, 0x29), (4, 0x8006), (8, 2), (0x18, 5)], 0, 0⟩ (mapped owned) = some (3, 0) := by
  decide +kernel
theorem test_meets_arrival_fenced : fenced (bCroft 0) (put [(bCroft 0, F.BLK_FENCED, 1)] (arriving 0)) = true ∧
    (croftOf 0 (arriving 0)).arriving = [⟨0, 0, 0⟩] := by decide +kernel
theorem test_meets_arrival_checks : opDefined 0x77 = false ∧ opDefined 0x20 = true ∧ bits 3 5 (dFlags (desc [(0, 0x20), (1, 8)])) ≠ 0 := by
  decide +kernel

/-- Each of the tally opcodes is startable in its turn, and no other task has its number. -/
theorem test_meets_tally_tasks : ∀ op ∈ [opTallyAdd, opTallyWait, opTallyExpect],
    (startableOp 0 op (one (desc [(0, op), (0x18, 5), (0x1C, 2)]))).isSome = true ∧
    (startableOp 0 op (one (desc [(0, op), (0x18, 5)]))).isSome = true := by decide +kernel
theorem test_meets_tally_named (d : Desc) : Named 0 (waiting d) (one d) := by
  intro j hj _
  have h : (croftOf 0 (one d)).queue = [waiting d] := rfl
  rw [h, List.mem_singleton] at hj
  exact hj

/-- A task whose work is done, with and without a DONE_TALLY. -/
def done (d : Desc) : State :=
  withCroft (fun k => { k with queue := [{ waiting d with phase := .running, worked := true }] }) (mapped owned)
theorem test_meets_complete : (completable 0 6 (done (desc [(0, 0x28)]))).isSome = true ∧
    (completable 0 6 (done (desc [(0, 0x28), (6, 0x8005)]))).isSome = true ∧ dDoneUse (desc [(0, 0x28), (6, 0x8005)]) = true ∧
    dDoneUse (desc [(0, 0x28)]) = false := by decide +kernel

/-- An abandoned TALLY_WAIT with its registration, one without, and an abandoned gauze task with sums under way. -/
def abandoned (d : Desc) (reg : Bool) : Task := { waiting d with phase := .running, abandon := true, registered := reg }
def emptyBolt : Bolt := Bolt.parse []
def gauzeRun : GzRun :=
  ⟨1, false, 64, false, emptyBolt, emptyBolt, emptyBolt, 1, 1, 0, 0, 0, [], [], [], [], [⟨0, 0, 0, 0, []⟩], [], [], 0, true⟩
/-- Croft 0 with the abandoned task and what it has under way. -/
def abandoning (d : Desc) (reg : Bool) (f : Croft → Croft) : State :=
  withCroft (fun k => f { k with queue := [abandoned d reg] }) owned
def halting (d : Desc) (reg : Bool) (f : Croft → Croft) : Bool :=
  let s := abandoning d reg f
  (croftOf 0 s).queue.find? (fun j => j.phase == .running && j.abandon && unitOf (dOpcode j.desc) == unitOf (dOpcode d)) ==
    some (abandoned d reg) && !pastAbandon 0 (abandoned d reg) s
def engineless (d : Desc) (reg : Bool) (f : Croft → Croft) : Bool :=
  let s := abandoning d reg f
  halting d reg f && ((croftOf 0 s).gz.filter fun g => g.uid == 1) == none && ((croftOf 0 s).loom.filter fun g => g.uid == 1) == none
def loomSlots : LmRun := ⟨1, false, [], 0, 0, 0, 0, [⟨0, 0, 0, 0⟩], [], [], none, false, [], [], [], []⟩
theorem test_meets_abandon_stop : engineless (desc [(0, 0x29)]) true id = true ∧ engineless (desc [(0, 0x20)]) false id = true ∧
    (∀ q ∈ (croftOf 0 (abandoning (desc [(0, 0x20)]) false id)).pieces, q.uid ≠ 1) ∧
    contextOf 0 (abandoning (desc [(0, 0x29)]) true id) = some 0 := by decide +kernel
/-- A piece of it outstanding; a COPY that has begun to write its destination, and a task whose work is done. -/
theorem test_meets_abandon_waits :
    engineless (desc [(0, 0x20)]) false (fun k => { k with pieces := [⟨7, 1, 4, 8, 0, 0x1000, 256, false, 0, 0, false, false, false, 0⟩] }) = true ∧
    pastAbandon 0 (abandoned (desc [(0, 0x20)]) false) (abandoning (desc [(0, 0x20)]) false fun k => { k with
      work := [{ WorkRun.start 1 [] [] 1 with firm := [(3, 0, 16)] }] }) = true ∧
    pastAbandon 0 { abandoned (desc [(0, 0x20)]) false with worked := true } owned = true := by decide +kernel
/-- A gauze task with sums under way, and one with a piece outstanding; a loom task with a slot to run. -/
theorem test_meets_abandon_engines : halting (desc [(0, 1)]) false (fun k => { k with gz := some gauzeRun }) = true ∧
    gzQuiet (gzGiveUp gauzeRun) = false ∧ halting (desc [(0, 3)]) false (fun k => { k with loom := some loomSlots }) = true ∧
    drained 0 1 (abandoning (desc [(0, 1)]) false fun k =>
      { k with gz := some gauzeRun, pieces := [⟨7, 1, 0, 0, 3, 0x1000, 256, false, 0, 0, false, false, false, 0⟩] }) = false := by decide +kernel

/-- A bank's oldest operation on tally 5: an addition past the end, a wait reached and not reached, a withdrawal, an expect anew and an
expect again. -/
def operation (k : TallyKind) (s : State) : State :=
  { mapped s with tally := { (mapped s).tally with ops := [⟨0, 5, k, .task 0 1⟩], waiters := [⟨9, 3, 0, 2, 0, false⟩] } }
theorem test_meets_tally_ops : ∀ k ∈ [TallyKind.add (2 ^ 32 - 1), .wait 0, .wait 7, .withdraw, .expect 4 0x100, .expect 0 0],
    bankHead 9 (operation k owned) = some (⟨0, 5, k, .task 0 1⟩, 9) := by decide +kernel

/-- The expect of the epoch that is open. -/
theorem test_meets_expect_again : (tallyOf 9 { owned with tally := { owned.tally with
    tallies := [(9, { Tally.reset with opened := true, epoch := 0x100 })] } }).opened = true := by decide +kernel

/-- An operation on an ID that is not mapped, a release, and a registration held for STALL_US. -/
theorem test_meets_unmapped : ({ owned with tally := { owned.tally with ops := [⟨0, 5, .add 1, .control⟩] } } : State).tally.ops.find?
    (fun o => o.src.task?.isNone && (tallyPhys o.ctx o.virt owned).isNone) = some ⟨0, 5, .add 1, .control⟩ := by decide +kernel
theorem test_meets_stall : (stallDue { put [(bTally, F.TL_STALL_US, 10)] owned with time := 10000 } ⟨9, 3, 0, 2, 0, false⟩) = true := by
  decide +kernel

/-- A tally map entry that may be written, valid or not, and a tally that may be reset. -/
theorem test_meets_tally_map : mapWriteOk 0 5 9 true live = true ∧ mapWriteOk 0 5 9 false live = true ∧ tallyResetOk 9 live = true := by
  decide +kernel

/-! ### Statements about the units of a croft -/

/-- Each opcode's task starts when its turn comes, in croft 0 of partition 0. -/
theorem test_meets_starts : ∀ op ∈ [opGzPlain, opGzWeft, opLoomFwd, opLoomPair, opLookout, opFnFwd, opFnDeriv, opUpdate, opThresh,
    opGlean, opReweave, opCopy, opGather, opStats, opSendTile, opParity],
    startableOp 0 op (one (desc [(0, op)])) = some (waiting (desc [(0, op)])) ∧ contextOf 0 (one (desc [(0, op)])) = some 0 := by
  decide +kernel

/-- With every operand 0 and a bolt table of zeros the work of a task of this opcode faults, the task still in its slot. -/
def faulty (op : Nat) (work : Desc → TCtx → TM Unit) : Prop := outcome work (desc [(0, op)]) (one (desc [(0, op)])) = 1

theorem test_meets_faults_products : faulty opGzPlain (gzStart false) ∧ faulty opGzWeft (gzStart true) ∧ faulty opLoomFwd fwdStart ∧
    faulty opLoomPair pairStart := by unfold faulty; decide +kernel
theorem test_meets_faults_lookout : faulty opLookout lkBegin ∧ faulty opLookout lkCountBegin ∧ faulty opFnFwd (fnBegin true) ∧
    faulty opFnDeriv (fnBegin false) := by unfold faulty; decide +kernel
theorem test_meets_faults_weights : faulty opUpdate upBegin ∧ faulty opThresh threshBegin ∧ faulty opGlean gleanBegin ∧
    faulty opReweave reweaveWork := by unfold faulty; decide +kernel
theorem test_meets_faults_moves : faulty opCopy cpBegin ∧ faulty opGather gaBegin ∧ faulty opStats statsClearWork ∧
    faulty opStats statsFoldWork := by unfold faulty; decide +kernel
theorem test_meets_faults_mill : faulty opSendTile sendTileWork ∧ faulty opParity parityRound ∧ faulty opParity parityRebuild := by
  unfold faulty; decide +kernel

/-- A block of a raw COPY from a peer waits for the peer's bytes; an abandoned task in hand. -/
theorem test_meets_park : outcome (fun d => cpPiece d (.start 1 [] [0] 1))
    (desc [(0, 0x20), (0x18, 2 * 2 ^ 52), (0x20, own 0x2000), (0x28, 64), (0x2D, 4)]) (one (desc [(0, 0x20)])) = 2 := by decide +kernel
theorem test_meets_abandoned_piece : workOf 0 opCopy (withCroft (fun k => { k with
    queue := [{ waiting (desc [(0, 0x20)]) with phase := .running, abandon := true }], work := [.start 1 [] [0] 1] }) owned) =
    some ({ waiting (desc [(0, 0x20)]) with phase := .running, abandon := true }, .start 1 [] [0] 1) := by decide +kernel

/-! ### Where the tasks of the other units start -/

/-- The image of a table slot whose every coefficient is 0, at its place in the larder. -/
def imageAt : Nat := 0x200000
def imaging (s : State) : State :=
  { put [(bCroft 0, F.FN_TABLE_BASE, imageAt)] s with mem := s.mem ++ cells (plLarder 0 imageAt) [0x46, 0x54, 1] }

theorem natOf_zeros {α : Type} (f : α → Byte) (l : List α) (h : ∀ i ∈ l, f i = 0) : natOf (l.map f) = 0 := by
  induction l with
  | nil => rfl
  | cons a l ih =>
    simp only [List.map_cons, natOf, h a (by simp), ih fun i hi => h i (by simp [hi])]
    rfl

theorem le_zero {t : FnTable} (h : ∀ i, 3 ≤ i → (t.bytes[i]?).getD 0 = 0) {off n : Nat} (ho : 3 ≤ off) : t.le off n = 0 :=
  natOf_zeros (fun i => (t.bytes[off + i]?).getD 0) _ fun i _ => h _ (by omega)

theorem rangeFrom_le {i : Nat} : ∀ {n a : Nat}, i ∈ rangeFrom a n → a ≤ i
  | n + 1, a, h => by
    rcases List.mem_cons.mp h with rfl | h
    · exact Nat.le_refl _
    · have := rangeFrom_le h
      omega

theorem rangeFrom_get {i : Nat} : ∀ {n a : Nat}, i < n → (rangeFrom a n)[i]? = some (a + i)
  | n + 1, a, h => by
    cases i with
    | zero => rfl
    | succ i =>
      simp only [rangeFrom, List.getElem?_cons_succ, rangeFrom_get (show i < n by omega)]
      congr 1
      omega

theorem rangeFrom_length_le : ∀ (n a : Nat), (rangeFrom a n).length ≤ n
  | 0, _ => Nat.le_refl _
  | n + 1, a => Nat.succ_le_succ (rangeFrom_length_le n (a + 1))

theorem mapLook_mem {α : Type} {k : Nat} {v : α} : ∀ {m : SMap α}, mapLook m k = some v → (k, v) ∈ m
  | (k', v') :: r, h => by
    simp only [mapLook] at h
    split at h
    · rename_i e
      cases h
      subst e
      exact List.mem_cons_self
    · exact List.mem_cons_of_mem _ (mapLook_mem h)

/-- An image whose bytes from the third on are 0 passes every check. -/
theorem zero_image_good {t : FnTable} (h0 : t.le 0 2 = 0x5446) (h2 : t.le 2 1 = 1) (h : ∀ i, 3 ≤ i → (t.bytes[i]?).getD 0 = 0) :
    t.bad false false = none := by
  have hc : coeffOffsets.find? (fun o => !(ofPat (t.le o 4)).isFin) = none := by
    rw [List.find?_eq_none]
    intro o ho
    have h3 : 3 ≤ o := by
      simp only [coeffOffsets, List.mem_append, List.mem_cons, List.mem_map, List.not_mem_nil, or_false] at ho
      rcases ho with (h | ⟨_, _, h⟩) | ⟨_, _, h⟩ <;> omega
    rw [le_zero h h3]
    decide
  have hr : t.reservedSet = none := by
    unfold FnTable.reservedSet
    rw [if_neg (by rw [le_zero h (by omega)]; decide), List.find?_eq_none]
    intro o ho
    have h3 : 3 ≤ o := by
      rcases List.mem_append.mp ho with h | h <;> have := rangeFrom_le h <;> omega
    simp [le_zero h h3]
  simp only [FnTable.bad, h0, h2, hc, hr, FnTable.segExp, FnTable.eLo, FnTable.saveExp, FnTable.s8, FnTable.binade, FnTable.f32,
    le_zero h (show 3 ≤ 4 by decide), le_zero h (show 3 ≤ 5 by decide), le_zero h (show 3 ≤ 6 by decide), le_zero h (show 3 ≤ 7 by decide),
    le_zero h (show 3 ≤ 8 by decide), Bool.false_and]
  decide

/-- No byte of a range is listed. -/
def bare (lo hi : Nat) (s : State) : Bool := s.mem.all fun e => decide (e.1 < lo) || decide (hi ≤ e.1)

theorem rd_bare {lo hi q : Nat} {s : State} (h : bare lo hi s = true) (h1 : lo ≤ q) (h2 : q < hi) : rd q s = 0 := by
  have : mapLook s.mem q = none := by
    cases hl : mapLook s.mem q with
    | none => rfl
    | some v =>
      have hm := mapLook_mem hl
      simp only [bare, List.all_eq_true, Bool.or_eq_true, decide_eq_true_eq] at h
      have := h _ hm
      simp only at this
      omega
  simp only [rd, mapGet, this, Option.getD_none, unwritten]

theorem rdN_get {a n i : Nat} {s : State} (hi : i < n) : (rdN a n s)[i]? = some (rd (a + i) s) := by
  simp only [rdN, List.getElem?_map, rangeFrom_get hi, Option.map_some]

/-- The slot image that a state holds. -/
def image (s : State) : List Byte := larderRead 0 imageAt 8192 s

theorem image_good {s : State} (hb : bare (plLarder 0 imageAt + 3) (plLarder 0 imageAt + 8192) s = true) (h0 : rd (plLarder 0 imageAt) s = 0x46) (h1 : rd (plLarder 0 imageAt + 1) s = 0x54)
    (h2 : rd (plLarder 0 imageAt + 2) s = 1) : FnTable.bad ⟨(image s).toArray⟩ false false = none := by
  have get (i : Nat) (hi : i < 8192) : ((image s).toArray[i]?).getD 0 = rd (plLarder 0 imageAt + i) s := by
    simp only [image, larderRead, List.getElem?_toArray, rdN_get hi, Option.getD_some]
  refine zero_image_good ?_ ?_ ?_
  · simp only [FnTable.le, List.range, List.range.loop, List.map_cons, List.map_nil]
    rw [get 0 (by decide), get 1 (by decide), Nat.add_zero, h0, h1]
    decide
  · simp only [FnTable.le, List.range, List.range.loop, List.map_cons, List.map_nil]
    rw [get 2 (by decide), h2]
    decide
  · intro i hi
    by_cases h : i < 8192
    · rw [get i h, rd_bare hb (by omega) (by omega)]
    · have : (image s).toArray[i]? = none := by
        simp only [List.getElem?_toArray, List.getElem?_eq_none_iff]
        simp only [image, larderRead, rdN, List.length_map]
        exact Nat.le_trans (rangeFrom_length_le _ _) (by omega)
      rw [this]
      rfl

/-- A forward function over one tile without a save, and its derivative from a saved input. -/
def fnDesc (fwd : Bool) : Desc := if fwd then desc [(0, 0x10), (0x18, 0), (0x1C, 1), (0x20, noBolt), (0x2C, 1)]
  else desc [(0, 0x11), (0x18, 0), (0x1C, 1), (0x20, 2), (0x2C, 1)]
def fnOut (fwd : Bool) : List Byte := tile2 1 (if fwd then 1 else 2) 4 0x30000
def fnDue (fwd : Bool) : State := imaging (tensors [(0, denseA), (1, fnOut fwd), (2, tile2 1 1 4 0x40000)] (fnDesc fwd))
def fnSaved (fwd : Bool) : Option Bolt := if fwd then none else some (bolt (tile2 1 1 4 0x40000))

theorem statsReach_meets {p : Nat} {b : Bolt} {s : State}
    (h : (!b.hasStats || (spaceOf b.stats == 3 && (place3 p (some 0) (addrOf b.stats) 32 s).isSome)) = true) : StatsReach 0 p b s := by
  intro hs
  simp only [hs, Bool.not_true, Bool.false_or, Bool.and_eq_true, beq_iff_eq] at h
  exact .inr h

theorem test_meets_function_operands : ∀ fwd : Bool, Turn (if fwd then opFnFwd else opFnDeriv) 0 (waiting (fnDesc fwd)) 0 (fnDue fwd) ∧
    Tensor 0 0 (dF 0x18 4 (fnDesc fwd)) (bolt denseA) (fnDue fwd) ∧ Tensor 0 0 (dF 0x1C 4 (fnDesc fwd)) (bolt (fnOut fwd)) (fnDue fwd) ∧
    Names 0 0 (dF 0x20 4 (fnDesc fwd)) (fnSaved fwd) (fnDue fwd) ∧
    FunctionOperands fwd (fnDesc fwd) (bolt denseA) (bolt (fnOut fwd)) (fnSaved fwd) := by
  intro fwd
  cases fwd
  · refine ⟨turn_meets (by decide +kernel), tensorB_meets (by decide +kernel), tensorB_meets (by decide +kernel), tensorB_names (by decide +kernel), ?_⟩
    unfold FunctionOperands
    and_intros <;> first | decide +kernel | (rintro b ⟨⟩; decide +kernel)
  · refine ⟨turn_meets (by decide +kernel), tensorB_meets (by decide +kernel), tensorB_meets (by decide +kernel), .inl ⟨by decide +kernel, rfl⟩, ?_⟩
    unfold FunctionOperands
    and_intros <;> first | decide +kernel | (rintro b ⟨⟩)

theorem test_meets_function_ready : ∀ fwd : Bool,
    FunctionReady fwd (runs 0 (waiting (fnDesc fwd)) 0 (fnDue fwd)) (fnDesc fwd) (bolt denseA) (bolt (fnOut fwd)) (fnSaved fwd) (image (fnDue fwd))
      (fnDue fwd) := by
  intro fwd
  refine ⟨by decide +kernel, ?_, ?_, ?_, ?_, ?_, ?_, ?_, ?_⟩
  · cases fwd <;> decide +kernel
  · cases fwd <;> decide +kernel
  · intro _
    cases fwd <;> decide +kernel
  · cases fwd
    · intro _ _ h
      cases h
    · intro _ h
      cases h
  · have : getF (bCroft 0) F.FN_TABLE_BASE (fnDue fwd) + 8192 * fnTable (fnDesc fwd) = imageAt := by cases fwd <;> decide +kernel
    show image (fnDue fwd) = larderRead 0 (getF (bCroft 0) F.FN_TABLE_BASE (fnDue fwd) + 8192 * fnTable (fnDesc fwd)) 8192 (fnDue fwd)
    rw [this]
    rfl
  · have h1 : (fnSave (fnDesc fwd) == 1) = false := by cases fwd <;> decide +kernel
    have h2 : (fnDrop (fnDesc fwd) != 0) = false := by cases fwd <;> decide +kernel
    rw [h1, h2]
    exact image_good (by cases fwd <;> decide +kernel) (by cases fwd <;> decide +kernel) (by cases fwd <;> decide +kernel)
      (by cases fwd <;> decide +kernel)
  · cases fwd <;> decide +kernel
  · exact statsReach_meets (by cases fwd <;> decide +kernel)

/-- A LOOKOUT with KEEP 512, bypassed or with its layer enabled and valid, and one that counts. -/
def lkBolts : List (Nat × List Byte) := [(0, denseA), (1, tile2 8 0 0 0x20000), (2, tile2 8 0 0 0x24000), (3, tile2 9 8 0 0x28000),
  (4, line1 11 8 0 16384 0x29000)]
def lkB (i : Nat) : Bolt := bolt ((lkBolts[i]?).getD default).2
def lkDesc (keep : Nat) : Desc := if keep = 0 then desc [(0, 0xA), (0x18, 0), (0x1C, noBolt), (0x20, 3)]
  else desc [(0, 0xA), (0x18, 0), (0x1C, 1), (0x20, 3), (0x26, keep), (0x28, 0xFF)]
def lkDue (on : Bool) (keep : Nat) : State :=
  put (if on then [(bCroft 0, F.LK_ENABLE.at 0, 1), (bCroft 0, F.LK_VALID.at 0, 1)] else []) (tensors lkBolts (lkDesc keep))

theorem test_meets_lookout_start : ∀ on : Bool, ∀ keep ∈ [0, 512], let d := lkDesc keep; let s := lkDue on keep
    Turn opLookout 0 (waiting d) 0 s ∧ Tensor 0 0 (dF 0x18 4 d) (lkB 0) s ∧ SelectionAt 0 0 d (lkB 3) (lkB 4) s ∧
    (lkB 0).sparse = false ∧ (lkB 0).rank = 2 ∧ (lkB 0).sharded 1 = false ∧ (1 ≤ (lkB 0).fmt ∧ (lkB 0).fmt ≤ 8) ∧ (lkB 0).empty = false ∧
    lkOn 0 (lkLayer d) s = on ∧ selCovers (lkB 3) (lkB 4) ((lkB 2).ext 1) (sampleGroups (localCols (lkB 0))) ((lkB 2).units 1) = true ∧
    selCovers (lkB 3) (lkB 4) ((lkB 3).ext 1) (selGroups (lkB 3)) ((lkB 3).units 1) = true := by
  intro on keep hk d s
  refine ⟨turn_meets ?_, tensorB_meets ?_, ⟨tensorB_meets ?_, boltB_meets ?_, ?_⟩, by decide +kernel, by decide +kernel, by decide +kernel,
    by decide +kernel, by decide +kernel, ?_, by decide +kernel, by decide +kernel⟩ <;>
    (simp only [List.mem_cons, List.not_mem_nil, or_false] at hk; rcases hk with rfl | rfl <;> cases on <;> decide +kernel)

theorem test_meets_lookout_operands : Tensor 0 0 (dF 0x1C 4 (lkDesc 512)) (lkB 1) (lkDue true 512) ∧
    BoltAt 0 0 (dF 0x1C 4 (lkDesc 512) + 1) (lkB 2) (lkDue true 512) ∧ lkKeep (lkDesc 512) ≠ 0 ∧ lkRecall (lkDesc 512) = 0xFF ∧
    (∀ b ∈ [lkB 1, lkB 2], b.sparse = false ∧ b.rank = 2 ∧ b.fmt = 8 ∧ b.empty = false ∧ b.dim 0 = (lkB 0).dim 1 ∧ b.dim 0 = b.dim 1) ∧
    (lkB 2).dim 0 ≤ 128 ∧ lkKeep (lkDesc 0) = 0 ∧ dF 0x1C 4 (lkDesc 0) = noBolt ∧ lkRecall (lkDesc 0) ≤ 16 ∧
    (lkB 0).ext 1 ≤ (lkB 3).ext 1 ∧ sampledGroup (lkDesc 0) 0 (localCols (lkB 0) - 1) < selGroups (lkB 3) :=
  ⟨tensorB_meets (by decide +kernel), boltB_meets (by decide +kernel), by decide +kernel⟩

/-- UPDATE of a dense weight over one tile. -/
def upBolts : List (Nat × List Byte) := [(0, tile2 1 0 4 0x10000), (1, tile2 1 4 4 0x20000), (2, tile2 5 5 6 0x30000),
  (5, line1 0 3 4 128 0x40000),
  (14, [0x55, 1] ++ List.replicate 26 0 ++ bytesOf 4 0x3F800000 ++ List.replicate 24 0 ++ bytesOf 8 (own 0x3800) ++ bytesOf 8 (own 0x3840))]
def upB (i : Nat) : Bolt := bolt ((upBolts[i]?).getD default).2
def upDesc : Desc := desc [(0, 0x18), (0x18, 0), (0x1C, 5), (0x20, 1), (0x24, 2), (0x28, 14), (0x30, 1)]
/-- Four buckets without an entry in the reduced gradient. -/
def upDue : State :=
  let s := tensors upBolts upDesc
  { s with mem := s.mem ++ ((List.range 4).map fun j => cells (plLarder 0 (0x40000 + 128 * j)) (List.replicate 18 0 ++ [32])).flatten }
def upBlock : List Byte := ((upBolts[4]?).getD default).2 ++ List.replicate 56 0

theorem test_meets_update_start : Turn opUpdate 0 (waiting upDesc) 0 upDue ∧ Tensor 0 0 (dF 0x18 4 upDesc) (upB 0) upDue ∧
    Tensor 0 0 (dF 0x1C 4 upDesc) (upB 3) upDue ∧ Tensor 0 0 (dF 0x20 4 upDesc) (upB 1) upDue ∧
    Tensor 0 0 (dF 0x24 4 upDesc) (upB 2) upDue ∧ UpdateOperands upDesc (upB 0) (upB 1) (upB 2) (upB 3) :=
  ⟨turn_meets (by decide +kernel), tensorB_meets (by decide +kernel), tensorB_meets (by decide +kernel), tensorB_meets (by decide +kernel),
    tensorB_meets (by decide +kernel), by unfold UpdateOperands; decide +kernel⟩

/-- The `n` bytes that a task reads in a larder or slice are these. -/
def heldB (base off n : Nat) (l : List Byte) (s : State) : Bool :=
  spaceOf base == 3 && decide (0 < n) && (place3 0 (some 0) (addrOf base + off) n s).any fun q => l == rdN q n s

theorem heldB_meets {base off n : Nat} {l : List Byte} {s : State} (e : heldB base off n l s = true) : HeldAt 0 0 base off n l s := by
  simp only [heldB, Bool.and_eq_true, beq_iff_eq, Option.any_eq_true, decide_eq_true_eq] at e
  obtain ⟨⟨h3, hn⟩, q, hq, rfl⟩ := e
  exact heldAt_of_place3 h3 hn hq

theorem test_meets_update_ready : UpdateReady 0 0 (runs 0 (waiting upDesc) 0 upDue) upDesc (upB 0) (upB 1) (upB 2) upBlock 0 upDue := by
  refine ⟨heldB_meets (by decide +kernel), by decide +kernel, by decide +kernel, by decide +kernel, by decide +kernel,
    heldB_meets (by decide +kernel), by decide +kernel, by decide +kernel, by decide +kernel, ?_, by decide +kernel⟩
  intro y hy
  simp only [List.mem_cons, List.not_mem_nil, or_false] at hy
  rcases hy with rfl | rfl | rfl <;> exact ⟨by decide +kernel, statsReach_meets (by decide +kernel)⟩

/-- The weight of a mask task, of eight elements, with its three linings, kept as twill under entry 1, its work tensor, and parameters that prune and grow. -/
def mvBolts : List (Nat × List Byte) := [(0, tileOf 8 1 1 0 5 0x10000), (1, tileOf 8 1 1 4 5 0x20000), (2, tileOf 8 1 5 5 7 0x30000),
  (3, tileOf 8 1 1 6 5 0x40000),
  (4, line1 9 7 0 33280 0x50000), (15, [0x4D, 1, 0, 1] ++ List.replicate 124 0)]
def mvB (i : Nat) : Bolt := bolt ((mvBolts[i]?).getD default).2
/-- A task of these operands, its parameters or a new base at 0x20. -/
def mvDesc (op x : Nat) : Desc := desc [(0, op), (0x18, 0), (0x1C, 4), (0x20, x), (0x24, noBolt), (0x30, 1)]
/-- The directory entry of twill at offset 0 with generation `gen`, one entry in the mask. -/
def twillEntry : DirEntry := ⟨0, true, 1, 0⟩
def mvDue (op x : Nat) : State :=
  let s := tensors mvBolts (mvDesc op x)
  { s with mem := s.mem ++ cells (plLarder 0 0x2000) (bytesOf 8 twillEntry.word) ++ cells (plLarder 0 0x2800) [1] }

theorem maskOperands_meets {op x : Nat} {s : State} (h0 : tensorB (dF 0x18 4 (mvDesc op x)) (mvB 0) s = true)
    (h1 : boltB 0 (dF 0x18 4 (mvDesc op x) + 1) (mvB 1) s = true) (h2 : boltB 0 (dF 0x18 4 (mvDesc op x) + 2) (mvB 2) s = true)
    (h3 : boltB 0 (dF 0x18 4 (mvDesc op x) + 3) (mvB 3) s = true) (h4 : tensorB (dF 0x1C 4 (mvDesc op x)) (mvB 4) s = true)
    (hc : mvCount (mvDesc op x) = 1) (hf : mvFirst (mvDesc op x) = 0) :
    MaskOperands 0 0 (mvDesc op x) (mvB 0) (mvB 1) (mvB 2) (mvB 3) (mvB 4) s :=
  ⟨tensorB_meets h0, boltB_meets h1, boltB_meets h2, boltB_meets h3, by decide +kernel, by decide +kernel, by decide +kernel, by decide +kernel,
    tensorB_meets h4, by rw [hc, hf]; decide +kernel⟩

theorem test_meets_mask_start : (∀ op ∈ [opThresh, opGlean], turn op (mvDesc op 15) (mvDue op 15) = true ∧
      heldB (boltTable 0 (mvDue op 15)) (128 * dF 0x20 4 (mvDesc op 15)) 128 ((mvBolts[5]?).getD default).2 (mvDue op 15) = true ∧
      dF 0x24 4 (mvDesc op 15) = noBolt) ∧ mvParamOk ((mvBolts[5]?).getD default).2 = true ∧
    sampleOk (MvParam.parse ((mvBolts[5]?).getD default).2) (mvB 0) none = true ∧
    (mvB 0).gindex 0 ((mvB 0).liveRows 0 - 1) ((mvB 0).liveCols 0 - 1) / 4 < 2 ^ 48 := by decide +kernel
theorem test_meets_mask_operands : ∀ op ∈ [opThresh, opGlean],
    MaskOperands 0 0 (mvDesc op 15) (mvB 0) (mvB 1) (mvB 2) (mvB 3) (mvB 4) (mvDue op 15) := by
  intro op h
  simp only [List.mem_cons, List.not_mem_nil, or_false] at h
  rcases h with rfl | rfl <;>
    exact maskOperands_meets (by decide +kernel) (by decide +kernel) (by decide +kernel) (by decide +kernel) (by decide +kernel) (by decide +kernel)
      (by decide +kernel)

/-! ### Where their pieces are done -/

/-- A state with its task in hand, at a piece of a run. -/
def inHand (d : Desc) (w : WorkRun) (s : State) : State :=
  withCroft (fun k => { k with queue := [{ waiting d with phase := .running }], work := [w] }) s
def runningTask (d : Desc) : Task := { waiting d with phase := .running }
def handB (op : Nat) (d : Desc) (w : WorkRun) (s : State) : Bool :=
  workOf 0 op s == some (runningTask d, w) && contextOf 0 s == some 0 && !w.asked

theorem inHand_meets {op : Nat} {d : Desc} {w : WorkRun} {s : State} (e : handB op d w s = true) : InHand op 0 (runningTask d) w 0 s := by
  simp only [handB, Bool.and_eq_true, beq_iff_eq, Bool.not_eq_true'] at e
  exact ⟨e.1.1, e.1.2, rfl, .inl e.2⟩

def fnRun (fwd : Bool) : WorkRun := .start 1 [some (bolt denseA), some (bolt (fnOut fwd)), fnSaved fwd] [] 1
theorem test_meets_function_piece : ∀ fwd : Bool,
    InHand (if fwd then opFnFwd else opFnDeriv) 0 (runningTask (fnDesc fwd)) (fnRun fwd) 0 (inHand (fnDesc fwd) (fnRun fwd) (fnDue fwd)) ∧
    (fnRun fwd).bolts = [some (bolt denseA), some (bolt (fnOut fwd)), fnSaved fwd] ∧ TileIn (bolt denseA) 0 0 ∧ TileIn (bolt (fnOut fwd)) 0 0 ∧
    (∀ b, fnSaved fwd = some b → TileIn b 0 0 ∧ InLarder b.base 0 16384) := by
  intro fwd
  refine ⟨inHand_meets ?_, rfl, ?_, ?_, ?_⟩
  · cases fwd <;> decide +kernel
  · unfold TileIn InLarder; decide +kernel
  · unfold TileIn InLarder; cases fwd <;> decide +kernel
  · cases fwd
    · rintro b ⟨⟩; unfold TileIn InLarder; decide +kernel
    · rintro b ⟨⟩

def upRun : WorkRun := .start 1 [some (upB 0), some (upB 1), some (upB 2), some (upB 3), none, none] [] 1
theorem test_meets_update_piece : InHand opUpdate 0 (runningTask upDesc) upRun 0 (inHand upDesc upRun upDue) ∧
    (upB 0).sparse = false ∧ (∀ j < 4, BucketAt 0 (upB 3).base (128 * j) 128 (inHand upDesc upRun upDue)) ∧
    ∀ i < 3, TileIn (upB i) 0 0 := by
  refine ⟨inHand_meets (by decide +kernel), by decide +kernel, ?_, ?_⟩
  · unfold BucketAt InLarder; decide +kernel
  · unfold TileIn InLarder; decide +kernel

/-- A mask task at tile 0, whose work record belongs to no step. -/
def mvRun (x : Nat) : WorkRun :=
  .start 1 [some (mvB 0), some (mvB 4), none, some (mvB 1), some (mvB 2), some (mvB 3)] (0 :: [0x4D, 1, 0, x]) 1
def mvG : MvRun := ⟨mvB 0, [mvB 1, mvB 2, mvB 3], mvB 4, 0⟩
theorem twillAt_meets {b : Bolt} {e : DirEntry} {s : State} (h0 : InLarder b.dir 0 8)
    (h1 : e = DirEntry.parse (natOf (rdN (larderAt 0 b.dir 0) 8 s))) (h2 : e.inWindow b = true) (h3 : e.twill = true)
    (h4 : InLarder b.maskBase 0 2048) (h5 : TileIn b (sparseAt e) 0) : TwillAt 0 b 0 e s := ⟨⟨h0, h1, h2⟩, h3, h4, h5⟩
theorem test_meets_mask_piece : ∀ op ∈ [opThresh, opGlean], let s := inHand (mvDesc op 15) (mvRun 1) (mvDue op 15)
    InHand op 0 (runningTask (mvDesc op 15)) (mvRun 1) 0 s ∧ (mvRunOf (mvRun 1)).map Prod.fst = some mvG ∧
    FreshTile 0 mvG 0 twillEntry s := by
  intro op h
  simp only [List.mem_cons, List.not_mem_nil, or_false] at h
  rcases h with rfl | rfl <;> refine ⟨inHand_meets (by decide +kernel), by decide +kernel,
      twillAt_meets (by unfold InLarder; decide +kernel) (by decide +kernel) (by decide +kernel) rfl (by unfold InLarder; decide +kernel)
        (by unfold TileIn InLarder; decide +kernel), ?_, by unfold InLarder; decide +kernel, by decide +kernel⟩ <;>
    (intro b hb
     simp only [mvG, List.mem_cons, List.not_mem_nil, or_false] at hb
     rcases hb with rfl | rfl | rfl <;>
       exact ⟨twillEntry, ⟨by unfold InLarder; decide +kernel, by decide +kernel, by decide +kernel⟩, by decide +kernel⟩)

/-- A LOOKOUT before its first score, before its selection is written, and bypassed; one that counts, in its two pieces. -/
def lkRun (on next : Nat) : WorkRun :=
  { WorkRun.start 1 [some (lkB 0), some (lkB 1), some (lkB 2), some (lkB 3), some (lkB 4)] [on] (on + 1) with next := next }
def ctRun (next : Nat) : WorkRun :=
  { WorkRun.start 1 [some (lkB 0), some (lkB 3), some (lkB 4)] [1, 0, 0, 0] 2 with next := next }
theorem test_meets_lookout_piece : ∀ e ∈ [(1, 0), (1, 1), (0, 0)],
    InHand opLookout 0 (runningTask (lkDesc 512)) (lkRun e.1 e.2) 0 (inHand (lkDesc 512) (lkRun e.1 e.2) (lkDue true 512)) ∧
    (e.2 + 1 < (lkRun e.1 e.2).count ∨ drained 0 1 (inHand (lkDesc 512) (lkRun e.1 e.2) (lkDue true 512)) = true) := by
  intro e h
  simp only [List.mem_cons, List.not_mem_nil, or_false] at h
  rcases h with rfl | rfl | rfl <;> exact ⟨inHand_meets (by decide +kernel), by decide +kernel⟩
theorem test_meets_lookout_tiles : ∀ b ∈ [lkB 0, lkB 1, lkB 2], TileIn b (b.denseAt (b.tileAt 0 0)) (b.tileAt 0 0) := by
  unfold TileIn InLarder; decide +kernel
theorem test_meets_lookout_pairs : lkPairs (lkRun 0 0) (lkB 3) = selPairs (lkB 3) 128 ∧ lkPairs (lkRun 1 0) (lkB 3) = [] ∧
    ∀ e ∈ selPairs (lkB 3) 128, PairIn (lkB 3) (lkB 4) ((lkB 3).units 1) e := by
  unfold PairIn InLarder; decide +kernel
theorem test_meets_count_piece : ∀ next < 2,
    InHand opLookout 0 (runningTask (lkDesc 0)) (ctRun next) 0 (inHand (lkDesc 0) (ctRun next) (lkDue true 0)) ∧
    drained 0 1 (inHand (lkDesc 0) (ctRun next) (lkDue true 0)) = true ∧ (ctRun next).data.headD 0 ≠ 0 ∧
    ∀ m < 128, InLarder (lkB 3).base ((lkB 3).denseAt ((lkB 3).tileAt (sampledGroup (lkDesc 0) 0 m / 128) 0)) 2048 := by
  unfold InHand InLarder; decide +kernel

/-- A COPY of one tile to another tensor, and a GATHER of row 0 and of a row left out. -/
def cpDesc : Desc := desc [(0, 0x20), (0x18, 0), (0x1C, 2), (0x28, 1), (0x2C, 0xE4)]
def cpDue : State := tensors [(0, denseA), (2, denseC)] cpDesc
def cpRun : WorkRun := .start 1 [some (bolt denseA), some (bolt denseC)] [0, 0] 1
theorem test_meets_copy_start : Turn opCopy 0 (waiting cpDesc) 0 cpDue ∧ dRaw cpDesc = false ∧
    Tensor 0 0 (dF 0x18 4 cpDesc) (bolt denseA) cpDue ∧ Tensor 0 0 (dF 0x1C 4 cpDesc) (bolt denseC) cpDue :=
  ⟨turn_meets (by decide +kernel), by decide, tensorB_meets (by decide +kernel), tensorB_meets (by decide +kernel)⟩
theorem test_meets_copy_operands : CopyOperands (runs 0 (waiting cpDesc) 0 cpDue) cpDesc (bolt denseA) (bolt denseC) cpDue := by
  unfold CopyOperands
  and_intros <;> first | decide +kernel | exact statsReach_meets (by decide +kernel)
theorem test_meets_copy_piece : InHand opCopy 0 (runningTask cpDesc) cpRun 0 (inHand cpDesc cpRun cpDue) ∧ cpRun.held = [] ∧
    nth cpRun.data 1 ≠ 1 ∧ cpSource cpDesc (bolt denseA) (bolt denseC) 0 = some 0 ∧ TileIn (bolt denseA) 0 0 ∧ TileIn (bolt denseC) 0 0 :=
  ⟨inHand_meets (by decide +kernel), by decide +kernel, by decide +kernel, by decide +kernel, by unfold TileIn InLarder; decide +kernel,
    by unfold TileIn InLarder; decide +kernel⟩

def gaDesc : Desc := desc [(0, 0x21), (0x18, 0), (0x1C, 1), (0x20, 2), (0x28, 2)]
def gaIdx : List Byte := line1 11 8 0 128 0x40000
def gaDue : State :=
  let s := tensors [(0, denseA), (1, gaIdx), (2, denseC)] gaDesc
  { s with mem := s.mem ++ cells (plLarder 0 0x40000) [0, 0, 0xFF, 0xFF] }
def gaRun : WorkRun := .start 1 [some (bolt denseA), some (bolt gaIdx), some (bolt denseC)] [] 1
theorem test_meets_gather_start : Turn opGather 0 (waiting gaDesc) 0 gaDue ∧ Tensor 0 0 (dF 0x18 4 gaDesc) (bolt denseA) gaDue ∧
    Tensor 0 0 (dF 0x1C 4 gaDesc) (bolt gaIdx) gaDue ∧ Tensor 0 0 (dF 0x20 4 gaDesc) (bolt denseC) gaDue ∧
    GatherOperands gaDesc (bolt denseA) (bolt gaIdx) (bolt denseC) ∧ StatsReach 0 0 (bolt denseC) gaDue :=
  ⟨turn_meets (by decide +kernel), tensorB_meets (by decide +kernel), tensorB_meets (by decide +kernel), tensorB_meets (by decide +kernel),
    by unfold GatherOperands; decide +kernel, statsReach_meets (by decide +kernel)⟩
/-- A sparse tensor whose tiles GATHER selects. -/
theorem test_meets_gather_sparse : GatherOperands (desc [(0, 0x21), (0x18, 0), (0x1C, 1), (0x20, 2), (0x28, 128)]) (bolt sparseA) (bolt gaIdx)
    (bolt (tile2 1 0 5 0x50000)) := by
  unfold GatherOperands; decide +kernel
theorem test_meets_gather_piece : InHand opGather 0 (runningTask gaDesc) gaRun 0 (inHand gaDesc gaRun gaDue) ∧
    GatherRows 0 gaDesc (bolt denseA) (bolt gaIdx) (bolt denseC) 0 (inHand gaDesc gaRun gaDue) ∧
    gaIndices 0 gaDesc (bolt gaIdx) 0 (inHand gaDesc gaRun gaDue) = [0, 0xFFFF] := by
  have hi : gaIndices 0 gaDesc (bolt gaIdx) 0 (inHand gaDesc gaRun gaDue) = [0, 0xFFFF] := by decide +kernel
  refine ⟨inHand_meets (by decide +kernel), ⟨by unfold InLarder; decide +kernel, by decide +kernel, by decide +kernel, by decide +kernel, ?_⟩, hi⟩
  rw [hi]
  intro v hv
  simp only [List.mem_cons, List.not_mem_nil, or_false] at hv
  rcases hv with rfl | rfl
  · refine .inr ⟨by decide +kernel, fun col hc => ?_⟩
    have : col = 0 := by
      have : (bolt denseA).ext 0 = 1 := by decide +kernel
      omega
    subst this
    unfold TileIn InLarder
    decide +kernel
  · exact .inl rfl

/-- A raw COPY of 64 bytes over itself, 32 bytes on, before its start and in hand. -/
def rawDesc : Desc := desc [(0, 0x20), (0x18, own 0x4000), (0x20, own 0x4020), (0x28, 64), (0x2D, 4)]
def rawRun : WorkRun := .start 1 [] [1] 1
theorem test_meets_raw_copy : turn opCopy rawDesc (one rawDesc) = true ∧ handB opCopy rawDesc rawRun (inHand rawDesc rawRun owned) = true ∧
    dRaw rawDesc = true ∧ dF 0x28 4 rawDesc = 64 ∧ InLarder (dF 0x18 8 rawDesc) 0 64 ∧ InLarder (dF 0x20 8 rawDesc) 0 64 ∧
    larderAt 0 (dF 0x18 8 rawDesc) 0 ≤ larderAt 0 (dF 0x20 8 rawDesc) 0 ∧
    larderAt 0 (dF 0x20 8 rawDesc) 0 < larderAt 0 (dF 0x18 8 rawDesc) 0 + 64 ∧ 65536 * (rawRun.count - 1 - rawRun.next) < 64 := by
  unfold InLarder; decide +kernel

/-- A REWEAVE over one tile whose record grows it by an entry, and its new arrays half a mebibyte on. -/
def rwDesc : Desc := desc [(0, 0x1B), (0x18, 0), (0x1C, 4), (0x20, own 0x90000), (0x30, 1)]
def rwRecord : List Byte :=
  bytesOf 2 2 ++ bytesOf 2 0 ++ bytesOf 4 0 ++ bytesOf 8 0 ++ bytesOf 2 1 ++ bytesOf 2 0 ++ bytesOf 2 1 ++ bytesOf 2 2 ++ List.replicate 40 0 ++
  [3] ++ List.replicate 2047 0 ++ [2]
def rwDue : State :=
  let s := tensors mvBolts rwDesc
  let l := cells (plLarder 0 0x2000) (bytesOf 8 twillEntry.word) ++ cells (plLarder 0 0x2800) [1] ++ cells (plLarder 0 0x50000) rwRecord
  { s with mem := s.mem ++ l }
def rwRec (s : State) : WorkRec := WorkRec.parse (rdN (larderAt 0 (mvB 4).base 0) 4160 s)

theorem maskBit_high {m : Array Byte} (h : ∀ i, 1 ≤ i → (m[i]?).getD 0 = 0) {p : Nat} (hp : 8 ≤ p) : maskBit m p = false := by
  unfold maskBit
  rw [h _ (by omega)]
  simp [bit]
theorem positions_low {f : Nat → Bool} (h : ∀ p, 8 ≤ p → f p = false) : positions f = (List.range 8).filter f := by
  have : List.range 16384 = List.range 8 ++ (List.range 16376).map (8 + ·) := List.range_add (n := 8) (m := 16376)
  rw [positions, this, List.filter_append,
    (List.filter_eq_nil_iff (l := (List.range 16376).map (8 + ·))).mpr, List.append_nil]
  intro p hp
  obtain ⟨q, _, rfl⟩ := List.mem_map.mp hp
  simp [h (8 + q) (by omega)]
/-- The masks of the record are 0 past their first byte. -/
theorem rwRec_masks {i : Nat} (hi : 1 ≤ i) :
    ((rwRec rwDue).keep[i]?).getD 0 = 0 ∧ ((rwRec rwDue).change[i]?).getD 0 = 0 := by
  have at_ : larderAt 0 (mvB 4).base 0 = plLarder 0 0x50000 := by decide +kernel
  have h1 : bare (plLarder 0 0x50000 + 0x41) (plLarder 0 0x50000 + 0x840) rwDue = true := by decide +kernel
  have h2 : bare (plLarder 0 0x50000 + 0x841) (plLarder 0 0x50000 + 4160) rwDue = true := by decide +kernel
  have get (lo : Nat) (hlo : lo + 2048 ≤ 4160) (z : ∀ i, 1 ≤ i → i < 2048 → rd (plLarder 0 0x50000 + (lo + i)) rwDue = 0) :
      ((((rdN (plLarder 0 0x50000) 4160 rwDue).drop lo).take 2048).toArray[i]?).getD 0 = 0 := by
    simp only [List.getElem?_toArray, List.getElem?_take, List.getElem?_drop]
    split
    · rw [rdN_get (by omega), Option.getD_some, z i hi (by omega)]
    · rfl
  simp only [rwRec, WorkRec.parse, at_]
  exact ⟨get _ (by decide) fun i h1' h2' => rd_bare h1 (by omega) (by omega),
    get _ (by decide) fun i h1' h2' => rd_bare h2 (by omega) (by omega)⟩
theorem rwRec_high {p : Nat} (hp : 8 ≤ p) : (rwRec rwDue).kept p = false ∧ (rwRec rwDue).changed p = false :=
  ⟨maskBit_high (fun _ hi => (rwRec_masks hi).1) hp, maskBit_high (fun _ hi => (rwRec_masks hi).2) hp⟩
theorem rwRec_ok : recOk (mvB 0) 0 twillEntry (rwRec rwDue) = true := by
  have low {f : Nat → Bool} (h : ∀ p, (rwRec rwDue).kept p = false → (rwRec rwDue).changed p = false → f p = false) :
      positions f = (List.range 8).filter f := positions_low fun p hp => h p (rwRec_high hp).1 (rwRec_high hp).2
  simp only [recOk]
  rw [low (f := (rwRec rwDue).old) (fun p a b => by simp [WorkRec.old, a, b]),
    low (f := fun p => (rwRec rwDue).changed p && !(rwRec rwDue).kept p) (fun p a b => by simp [b]),
    low (f := fun p => (rwRec rwDue).changed p && (rwRec rwDue).kept p) (fun p a b => by simp [b]),
    low (f := (rwRec rwDue).kept) (fun p a _ => a),
    low (f := fun p => !liveAt (mvB 0) 0 p && ((rwRec rwDue).kept p || (rwRec rwDue).changed p)) (fun p a b => by simp [a, b])]
  decide +kernel
theorem rwRec_old : positions (rwRec rwDue).old = [0] := by
  rw [positions_low fun p hp => by simp [WorkRec.old, rwRec_high hp]]
  decide +kernel

theorem test_meets_reweave_start : turn opReweave rwDesc rwDue = true ∧ mvCount rwDesc = 1 ∧ (dF 0x20 8 rwDesc) % 32 = 0 ∧
    spaceOf (dF 0x20 8 rwDesc) = spaceOf (mvB 0).base ∧ addrOf (mvB 0).base ≤ addrOf (dF 0x20 8 rwDesc) ∧
    cdiv (addrOf (dF 0x20 8 rwDesc) - addrOf (mvB 0).base) 32 * 32 = 0x80000 ∧
    (⟨mvB 0, [mvB 1, mvB 2, mvB 3], mvB 4, taskStep (runs 0 (waiting rwDesc) 0 rwDue) rwDesc rwDue⟩ : MvRun) = mvG ∧
    newOverOld (runs 0 (waiting rwDesc) 0 rwDue) mvG
      [⟨0, twillEntry, [twillEntry, twillEntry, twillEntry], rwRec rwDue, true, true, true, 0x80000⟩] rwDue = none := by decide +kernel
theorem test_meets_reweave_stats : ∀ b ∈ [mvB 0, mvB 1, mvB 2, mvB 3], statsOk b = true ∧ StatsReach 0 0 b rwDue := by
  intro b hb
  simp only [List.mem_cons, List.not_mem_nil, or_false] at hb
  rcases hb with rfl | rfl | rfl | rfl <;> exact ⟨by decide +kernel, statsReach_meets (by decide +kernel)⟩
theorem test_meets_reweave_operands : MaskOperands 0 0 rwDesc (mvB 0) (mvB 1) (mvB 2) (mvB 3) (mvB 4) rwDue :=
  ⟨tensorB_meets (by decide +kernel), boltB_meets (by decide +kernel), boltB_meets (by decide +kernel), boltB_meets (by decide +kernel),
    by decide +kernel, by decide +kernel, by decide +kernel, by decide +kernel, tensorB_meets (by decide +kernel), by decide +kernel⟩
theorem test_meets_reweave_tile : WeaveTileAt 0 mvG 0 0x80000 twillEntry [twillEntry, twillEntry, twillEntry] (rwRec rwDue) rwDue := by
  refine ⟨twillAt_meets (by unfold InLarder; decide +kernel) (by decide +kernel) (by decide +kernel) rfl (by unfold InLarder; decide +kernel)
      (by unfold TileIn InLarder; decide +kernel), rfl, ?_, by unfold InLarder; decide +kernel, rfl, by decide +kernel, by decide +kernel,
    by decide +kernel, rwRec_ok, by decide +kernel, by decide +kernel, ?_, by decide +kernel, ?_⟩
  · intro x hx
    simp only [mvG, List.zip_cons_cons, List.zip_nil_right, List.mem_cons, List.not_mem_nil, or_false] at hx
    rcases hx with rfl | rfl | rfl <;>
      exact ⟨⟨by unfold InLarder; decide +kernel, by decide +kernel, by decide +kernel⟩, by decide +kernel, by unfold TileIn InLarder; decide +kernel⟩
  · rw [rwRec_old, show twillPs 0 mvG.w 0 rwDue = [0] by decide +kernel]
  · unfold TileIn InLarder
    decide +kernel

/-- A REWEAVE whose build is visible: one tile to swap. -/
def weaveTile : WeaveTile := ⟨0, true, true, [twillEntry.word, twillEntry.word, twillEntry.word, twillEntry.word], [3], [0], true, false⟩
def weaveRun : WeaveRun := ⟨1, mvB 0, [mvB 1, mvB 2, mvB 3], mvB 4, [weaveTile], false⟩
def swapping : State :=
  withCroft (fun k => { k with queue := [runningTask rwDesc], weave := some weaveRun }) owned
theorem test_meets_swap : (croftOf 0 swapping).weave = some weaveRun ∧ findTask 0 1 swapping = some (runningTask rwDesc) ∧
    contextOf 0 swapping = some 0 ∧ drained 0 1 swapping = true ∧ (∀ y ∈ weaveRun.tiles, SwapIn weaveRun y) := by
  refine ⟨rfl, by decide +kernel, by decide +kernel, by decide +kernel, ?_⟩
  intro y hy
  simp only [weaveRun, List.mem_cons, List.not_mem_nil, or_false] at hy
  subst hy
  refine ⟨fun _ => ⟨by unfold InLarder; decide +kernel, ?_, fun _ => ⟨by unfold InLarder; decide +kernel, ?_⟩⟩,
    fun _ => by unfold InLarder; decide +kernel⟩
  · unfold InLarder; decide +kernel
  · rintro b ⟨⟩
    unfold InLarder; decide +kernel

/-- STATS of a tensor: this croft holds no counts of it, or some. -/
def statDesc (op : Nat) : Desc := desc [(0, 0x30), (0x18, 0), (0x1C, op)]
def statDue (op : Nat) (l : List StatEntry) : State := withCroft (fun k => { k with stats := l }) (tensors [(0, denseA)] (statDesc op))
def statEntry : StatEntry := ⟨own 0x3000, 0, 16384, 3, 0, 0, 0, 0⟩
theorem test_meets_stats : (∀ op < 2, turn opStats (statDesc op) (statDue op []) = true ∧
      boltB 0 (dF 0x18 4 (statDesc op)) (bolt denseA) (statDue op []) = true ∧ dF 0x1C 1 (statDesc op) = op) ∧
    (bolt denseA).hasStats = true ∧ InLarder (bolt denseA).stats 0 32 ∧ turn opStats (statDesc 1) (statDue 1 [statEntry]) = true ∧
    boltB 0 (dF 0x18 4 (statDesc 1)) (bolt denseA) (statDue 1 [statEntry]) = true ∧
    (croftOf 0 (statDue 1 [statEntry])).stats.find? (fun e => decide (e.addr = (bolt denseA).stats)) = some statEntry := by
  unfold InLarder; decide +kernel
theorem test_meets_stats_reach : StatsReach 0 0 (bolt denseA) (statDue 1 [statEntry]) := statsReach_meets (by decide +kernel)

/-! ### SEND_TILE and PARITY -/

/-- Partition 0's job is enabled, and device 1 is reached through lane 0 of port 0. -/
def joined (f : Job → Job) (s : State) : State :=
  let e := [(bPort 0, F.BLK_ASSIGNED, 1), (bMill, F.ML_JOB_ENABLE.at 0, 1), (bMill, F.ML_JOB_ACTIVE_PLANS_LO.at 0, 1)]
  setLane 0 { Lane.reset with aligned := true, up := true } (updJob 0 (fun j => f { j with routes := [(1, 2 ^ 18)] }) (put e s))
/-- A plan of four dense buckets that device 1 owns. -/
def ownedThere : Plan := ⟨0, 4, true, false, false, 0, 0, 4, 0, 0, 0, 0, 0, 0, 2, 1, [1, 0]⟩
def stDesc : Desc := desc [(0, 0x38), (0x18, 0), (0x1C, noBolt)]
def stDue : State := joined (fun j => { j with plans := [some ownedThere] }) (tensors [(0, tile2 0 3 4 0x10000)] stDesc)
def stGrad : Bolt := bolt (tile2 0 3 4 0x10000)

theorem routed_meets {p dst : Nat} {s : State} (h : jobEnabled p s = true) (h' : (routeUp (routesTo p dst s).1 s).isSome = true) :
    Routed p dst s := ⟨h, .inr (.inl h')⟩

theorem test_meets_send_tile : Turn opSendTile 0 (waiting stDesc) 0 stDue ∧ Tensor 0 0 (dF 0x18 4 stDesc) stGrad stDue ∧
    dF 0x1C 4 stDesc = noBolt ∧ stKRaw stDesc = 0 ∧ stGrad.sparse = false ∧ stGrad.rank = 2 ∧ stGrad.fmt = 0 ∧ stGrad.cls = 3 ∧
    stGrad.empty = false ∧ dF 0x20 2 stDesc < stGrad.ext 1 ∧ dF 0x22 2 stDesc < stGrad.ext 0 ∧
    planFor 0 (stBucket stDesc) stDue = some ownedThere ∧ stBucket stDesc = 0 ∧ InLarder stGrad.base (stGrad.denseAt 0) 65536 :=
  ⟨turn_meets (by decide +kernel), tensorB_meets (by decide +kernel), by unfold InLarder; decide +kernel⟩
theorem test_meets_send_tile_owners : ∀ b < 4, ownedThere.owner b ≠ ownedThere.rank ∧
    ownedThere.sampled b (taskStep (runs 0 (waiting stDesc) 0 stDue) stDesc stDue) = false ∧ Routed 0 (ownedThere.device (ownedThere.owner b)) stDue := by
  intro b hb
  have h : ownedThere.owner b = 0 := by
    have : ownedThere.owner b = (b - 0) / 4 % 2 := rfl
    omega
  rw [h]
  exact ⟨by decide, rfl, routed_meets (by decide +kernel) (by decide +kernel)⟩

/-- A group of two members of which this device is the first, and one holder; one of which it is the second holder, with both members
and it lost, no copy held; one whose second member is lost, its snapshot valid. -/
def parGroup : ParGroup := ⟨2, 1, 0, 0, [], 0x8000, 256, 0, [0, 1, 1], [0, 0, 0], 1, 2, 0, 0, false⟩
def parHolder : ParGroup := ⟨1, 2, 1, 0, [], 0, 256, 0, [1, 0, 1], [0, 0, 0], 0, 3, 0, 0, false⟩
def grouped (g : ParGroup) (timed : Bool) (d : Desc) : State :=
  let n := bitOf (!timed)
  let s := joined id (put [(bFunction 1, F.FP_SERVICE, n), (bCroft 0, F.SEQ_CTRL_SERVICE, n)] (one d))
  { updPar 0 (fun r => { r with groups := [(0, some g)] }) s with mem := cells (plTier1 0x1000) [2] }
def prDesc : Desc := desc [(0, 0x39), (0x1A, 0xFFFE), (0x20, 0x8000), (0x28, 256)]
def pbDesc : Desc := desc [(0, 0x39), (0x18, 16), (0x1A, 0xFFFE), (0x20, 0x8000), (0x28, 256)]

theorem test_meets_parity_round : let s := grouped parGroup true prDesc
    turn opParity prDesc s = true ∧ groupOf 0 (parGroupId prDesc) s = some parGroup ∧ parMode prDesc = 0 ∧ croftTimed 0 s = true ∧
    parGroup.holder = false ∧ parHead prDesc = true ∧ parSrc prDesc = parGroup.header ∧ parBytes prDesc = 256 ∧
    reach0 0 parGroup.header 256 s = true ∧ partialPoison 0 parGroup.header 256 (statusWrite 0 (parGroupId prDesc) 0 1 1 s) = false ∧
    (jobEnabled 0 s = true ∧ (routeUp (routesTo 0 1 s).1 s).isSome = true) ∧
    nth parGroup.devices 2 = 1 ∧ nth parGroup.wins 2 + roundCopy 0 s * parGroup.pBytes < 2 ^ 39 := by decide +kernel
theorem test_meets_parity_holder : let s := grouped parHolder false pbDesc
    turn opParity pbDesc s = true ∧ groupOf 0 (parGroupId pbDesc) s = some parHolder ∧ parMode pbDesc = 1 ∧ croftTimed 0 s = false ∧
    rebuildCoeff parHolder = some 0 ∧ parHolder.holder = true ∧ rebuildCopy 0 (parGroupId pbDesc) parHolder s = none ∧
    bit parHolder.mine parHolder.lost = true := by decide +kernel
theorem test_meets_parity_rebuild : let s := grouped parGroup false pbDesc
    turn opParity pbDesc s = true ∧ groupOf 0 (parGroupId pbDesc) s = some parGroup ∧ parMode pbDesc = 1 ∧ croftTimed 0 s = false ∧
    (∃ q, rebuildCoeff parGroup = some q ∧ q ≠ 0) ∧ parGroup.holder = false ∧ parHead pbDesc = true ∧
    statusRead 0 (parGroupId pbDesc) 0 1 s = 2 ∧ statusRead 0 (parGroupId pbDesc) 8 8 s = parGroup.step ∧
    (parSegment pbDesc parGroup).2.1 ≤ parSrc pbDesc ∧
    parSrc pbDesc + parBytes pbDesc ≤ (parSegment pbDesc parGroup).2.1 + (parSegment pbDesc parGroup).2.2 ∧
    Held 0 0 0 (parSrc pbDesc) (parBytes pbDesc) (load0 0 (parSrc pbDesc) (parBytes pbDesc) s) s ∧
    (jobEnabled 0 s = true ∧ (routeUp (routesTo 0 1 s).1 s).isSome = true) ∧ nth parGroup.devices parGroup.target = 1 ∧
    parGroup.rbWin + parPlace pbDesc parGroup + (parSrc pbDesc - (parSegment pbDesc parGroup).2.1) + parBytes pbDesc ≤ 2 ^ 39 := by
  and_intros <;> first | decide +kernel | exact ⟨(rebuildCoeff parGroup).getD 0, by decide +kernel⟩ |
    exact .inl ⟨rfl, by decide +kernel, by decide +kernel, by decide +kernel, rfl⟩

/-! ### The engines at work -/

def engineA : Bolt := bolt sparseA
def engineB : Bolt := bolt denseB
def engineC : Bolt := bolt denseC
/-- A run of a product over one tile that has taken up none, `next` tiles, or lent one. -/
def gzRun (next : Nat) (lent : List GzLent) (held : List GSumRow) : GzRun :=
  ⟨1, false, 64, false, engineA, engineB, engineC, 64, 128, next, 0, 0, [], [], lent, [], held, [], [], 0, false⟩
/-- Croft 0 with a running gauze task and its run. -/
def weaving (d : Desc) (g : GzRun) : State :=
  withCroft (fun k => { k with queue := [runningTask d], gz := some g }) (tensors [(0, sparseA), (1, denseB), (2, denseC)] d)
/-- Its A tile is kept as twill. -/
def twilled (s : State) : State := { s with mem := s.mem ++ cells (plLarder 0 0x2000) (bytesOf 8 twillEntry.word) }

theorem test_meets_gauze_task : ∀ g ∈ [gzRun 0 [] [], gzRun 1 [] [], gzRun 1 [⟨0, twillEntry.word⟩] [], gzRun 1 [] [⟨0, 0, 0, 0, []⟩]],
    gzTask 0 (weaving (gzDesc 1) g) = some (runningTask (gzDesc 1), g) ∧ contextOf 0 (weaving (gzDesc 1) g) = some 0 ∧
    drained 0 1 (weaving (gzDesc 1) g) = true ∧ loomLent 0 (weaving (gzDesc 1) g) = false := by decide +kernel
theorem test_meets_gauze_cycles : gzKCount (gzDesc 1) = 1 ∧ gzQuiet (gzFold (gzRun 1 [] [])) = true ∧
    gzQuiet (gzFold (gzRun 1 [⟨0, twillEntry.word⟩] [])) = false := by decide +kernel
theorem test_meets_gauze_lends : DirAt 0 engineA (gzATile (gzRun 0 [] []) (gzDesc 1) 0) twillEntry (twilled (weaving (gzDesc 1) (gzRun 0 [] []))) :=
  ⟨by unfold InLarder; decide +kernel, by decide +kernel, by decide +kernel⟩
/-- The end of a task with FINAL, and of one that keeps its accumulator in a free slot. -/
theorem test_meets_gauze_end : gzFinal (gzDesc 1) = true ∧ gzAcc (gzDesc 1) = false ∧
    TileIn engineC (engineC.denseAt (gzCTile (gzRun 1 [] []) (gzDesc 1))) (gzCTile (gzRun 1 [] []) (gzDesc 1)) ∧
    StatsReach 0 0 engineC (weaving (gzDesc 1) (gzRun 1 [] [])) :=
  ⟨by decide +kernel, by decide +kernel, by unfold TileIn InLarder; decide +kernel, statsReach_meets (by decide +kernel)⟩
def keeping : State :=
  put [(bCroft 0, F.GZ_ACC_BASE, 0x40000), (bCroft 0, F.GZ_ACC_SLOTS, 2)] (weaving (accDesc 0) (gzRun 1 [] []))
theorem test_meets_gauze_keep : gzTask 0 keeping = some (runningTask (accDesc 0), gzRun 1 [] []) ∧ gzFinal (accDesc 0) = false ∧
    freeSlot 0 (gzSlots 0 keeping) keeping ≠ none := by decide +kernel
def lending : GzRun := gzRun 1 [⟨0, twillEntry.word⟩] []
theorem test_meets_borrow : loomFree 0 (weaving (gzDesc 1) lending) = true ∧ lending.back = [] ∧
    InLarder engineA.maskBase (2048 * gzATile lending (gzDesc 1) 0) 2048 ∧
    TileIn engineA (sparseAt (DirEntry.parse twillEntry.word)) (gzATile lending (gzDesc 1) 0) ∧
    TileIn engineB (engineB.denseAt (gzBTile lending (gzDesc 1) 0)) (gzBTile lending (gzDesc 1) 0) := by
  unfold TileIn InLarder; decide +kernel

/-- A loom task with two slots of its first tile in loom A, and one that has lent its tile. -/
def loomRun (lent : Bool) : LmRun :=
  ⟨1, false, [some (bolt denseA), some engineB, some engineC], 1, 1, 0, 0, [⟨0, 0, 0, 0⟩, ⟨0, 0, 0, 1⟩], [], [], none, lent, [], [], [], []⟩
def looming (g : LmRun) : State :=
  withCroft (fun k => { k with queue := [runningTask fwdDesc], loom := some g }) (tensors [] fwdDesc)
/-- The same with a transfer of the task under way. -/
def fetching (g : LmRun) : State :=
  withCroft (fun k => { k with xfers := [⟨1, 1, 3, 0, 32, 1, 0, false, 0, 32, 0, 0, 0, 0, 0, 0, false⟩] }) (looming g)
theorem test_meets_loom_slot : lmTask 0 (looming (loomRun false)) = some (runningTask fwdDesc, loomRun false) ∧
    contextOf 0 (looming (loomRun false)) = some 0 ∧ slotWaits 0 0 (loomRun false) ⟨0, 0, 0, 0⟩ (looming (loomRun false)) = false ∧
    slotWaits 0 0 (loomRun false) ⟨0, 0, 0, 0⟩ (fetching (loomRun false)) = true ∧
    (loomRun false).bolt 0 = some (bolt denseA) ∧ (loomRun false).bolt 1 = some engineB ∧
    TileIn (bolt denseA) (loomRun false).off (fwdA (loomRun false) fwdDesc 0) ∧ (bolt denseA).sparse = false ∧
    TileIn engineB (engineB.denseAt (fwdB (loomRun false) fwdDesc 0)) (fwdB (loomRun false) fwdDesc 0) := by
  unfold TileIn InLarder; decide +kernel

/-- An empty gauze tile of BF16, and a run over sparse weights that has lent it. -/
def gauzeTile : List Byte := [0x47, 0x5A, 1, 1, 0, 0, 0, 0, 0x22, 1, 0, 0, 0x22, 1] ++ List.replicate 10 0 ++ [0, 0, 128, 0]
def lentRun : LmRun := { loomRun true with bolts := [some engineA, some engineB, some engineC] }
def tileLent : State := { looming lentRun with mem := cells (plLarder 0 0x10000) gauzeTile }
theorem test_meets_lent_tile : lmTask 0 tileLent = some (runningTask fwdDesc, lentRun) ∧ gauzeFree 0 tileLent = true ∧ lentRun.slotsA ≠ [] ∧
    GauzeAt 0 engineA (fwdA lentRun fwdDesc 0) (DirEntry.parse lentRun.entry) tileLent ∧
    TileIn engineB (engineB.denseAt (fwdB lentRun fwdDesc 0)) (fwdB lentRun fwdDesc 0) := by
  unfold GauzeAt TileIn InLarder; decide +kernel

/-! ### Statements about data movement and memory -/

/-- A transfer of a task of croft 0 to or from an address of tier 1. -/
def xfer (len : Nat) (space : Nat) : Xfer := ⟨1, 5, space, 0x1000, len, 1, 0, false, 0, 2 ^ 52, 0, 0, len, 0, 0, 0, false⟩
/-- Croft 0 with transfers that wait and with one on stream 0. -/
def moving (l : List Xfer) (r : List (Nat × Option Xfer)) : State := withCroft (fun k => { k with
  queue := [{ waiting (desc [(0, 0x20)]) with phase := .running }], xfers := l, streams := r }) owned

theorem test_meets_grant : (xfer 512 0).courier = false ∧ (freeStream 0 (xfer 512 0) (moving [xfer 512 0] [])).isSome = true := by
  decide +kernel
/-- A transfer within its bounds, one of a peer, and one whose bounds end before its piece. -/
theorem test_meets_issue : ∀ x ∈ [xfer 512 0, xfer 512 2, { xfer 512 0 with hi := 0x1080 }],
    let s := moving [] [(0, some x)]
    ((mayIssue 0 s).map fun e => (e.1, e.2.1, e.2.2.2.1)) = [(0, x, 0x1000)] ∧ (∀ e ∈ mayIssue 0 s, ¬ e.1 ≠ 0) ∧ slotsUsed 0 s < 48 ∧
    (∀ e ∈ mayIssue 0 s, x.lo ≤ e.2.2.2.1 ∧ (0x1080 < e.2.2.2.1 + e.2.2.2.2.1 ∧ e.2.2.2.1 + e.2.2.2.2.1 ≤ 2 ^ 52)) := by
  decide +kernel
theorem test_meets_courier : (xfer 64 0).courier = true ∧ roomAt 0 0 0x1000 (moving [xfer 64 0] []) = true ∧
    courierUsed 0 (moving [xfer 64 0] []) < 8 ∧ (xfer 64 0).space ≠ 2 ∧ ¬heldBack 0 (xfer 64 0) (moving [xfer 64 0] []) := by
  refine ⟨by decide +kernel, by decide +kernel, by decide +kernel, by decide +kernel, ?_⟩
  rintro ⟨k, _, h⟩
  simp [writeHeld, xfer] at h
/-- Two transfers that may have a stream: the one of the earlier unit class asks first. -/
theorem test_meets_grant_order : let x := { xfer 512 0 with unit := 1 }
    let s := moving [xfer 512 0, x] []
    (freeStream 0 x s).isSome = true ∧ (xfer 512 0).courier = false ∧ (freeStream 0 (xfer 512 0) s).isSome = true ∧
    asksBefore 0 x (xfer 512 0) s = true := by decide +kernel

/-- A piece of stream 0, not served, served, and served with poison. -/
def piece (served poison : Bool) : Piece := ⟨7, 1, 5, 0, 0, 0x1000, 256, false, 100, 0, served, poison, false, 0⟩
def returning (p : Piece) : State := withCroft (fun k => { k with pieces := [p] }) (moving [] [(0, some (xfer 256 0))])
theorem test_meets_return : ∀ p ∈ [piece false false, piece true false, piece true true],
    (croftOf 0 (returning p)).pieces.find? (fun q => q.stream == 0) = some p ∧ streamOf 0 0 (returning p) = some (xfer 256 0) ∧
    (findTask 0 p.uid (returning p)).isSome = true := by decide +kernel

/-- A request at a controller that does not retrain. -/
def request : Req := ⟨0, 7, 0, 0x1000, 256, false, 100, 0, false⟩
def asked (q : Nat) : State := { owned with memsys := { owned.memsys with queues := [(q, [request])] } }
theorem test_meets_controller : Eligible 0 request (asked 0) ∧ OnePiece (queueOf 0 (asked 0)) ∧
    mapGet (fun _ => 0) (asked 0).memsys.retrainEnd 0 ≤ (asked 0).time := by
  have h : queueOf 0 (asked 0) = [request] := by decide +kernel
  refine ⟨⟨?_, ?_, by decide +kernel, .inl rfl⟩, ?_, by decide +kernel⟩ <;> rw [h]
  · exact List.mem_singleton.mpr rfl
  · intro y hy
    rw [List.mem_singleton] at hy
    subst hy
    exact fun hlt => absurd hlt (Nat.lt_irrefl _)
  · simp [OnePiece]

/-- A fold to tier 1 that its partition reaches, and one that it does not. -/
def fold (addr : Nat) : Fold := ⟨false, 0, 1, [], 0, addr, [1, 2, 3, 4, 5, 6]⟩
theorem test_meets_fold : spaceOf (fold 0x40).addr = 0 ∧ addrOf (fold 0x40).addr + 32 ≤ 2 ^ 40 ∧ reach0 0 0x40 32 owned = true ∧
    poison0 0 0x40 32 owned = false ∧ (place3 0 (some 0) (addrOf (own 0x40)) 32 owned).isSome = true := by decide +kernel
theorem test_meets_fold_fault : reach0 0 (3 * 2 ^ 36) 32 owned = false ∧ (findTask 0 1 (moving [] [])).isSome = true ∧
    place3 0 (some 0) (600 * 2 ^ 22) 32 owned = none ∧ (croftOf 0 (moving [] [])).work = [] := by decide +kernel

/-- What is due, and what is on. -/
theorem test_meets_refresh : mapGet (fun _ => 0) live.memsys.refreshDue 5 ≤ live.time := by decide +kernel
def onlineMem : State := put [(bHbm 0, F.HB_ONLINE, 1), (bHbm 0, F.HB_SCRUB_EN, 1), (bDdr 0, F.MC_ONLINE, 1), (bCxl 3, F.MC_ONLINE, 1)] live
def trainedMem : State := { onlineMem with memsys := { onlineMem.memsys with trained := [bDdr 0, bCxl 3] } }
theorem test_meets_retrain : retrainOk 0 3 onlineMem = true ∧ mapGet (fun _ => 0) onlineMem.memsys.retrainEnd 3 ≤ onlineMem.time ∧ 2 ≤ mapGet (fun _ => 0) { onlineMem.memsys with trainFails := [(3, 2)] }.trainFails 3 := by
  decide +kernel
/-- A stack's controller, whose next unit the map reaches, and a DDR5 channel's, whose next unit it does not. -/
theorem test_meets_scrub : scrubOn (ctrlCode (.hbm 0 3)) onlineMem = true ∧ mapGet (fun _ => 0) onlineMem.memsys.scrubDue (ctrlPage 3) ≤ onlineMem.time ∧
    scrubAddr 3 onlineMem = some 0 ∧ (let s := put [(bDdr 0, F.MC_SCRUB_EN, 1)] trainedMem
      scrubOn 1024 s = true ∧ mapGet (fun _ => 0) s.memsys.scrubDue (ctrlPage 1024) ≤ s.time ∧ scrubAddr 1024 s = none) := by
  decide +kernel
theorem test_meets_channel_fail : trained 2 0 trainedMem = true ∧ trained 3 3 trainedMem = true ∧ flag (bCxl 3) F.MC_ONLINE trainedMem = true ∧
    ((([⟨2, 0, [0], 0, 0⟩] : List ISet).find? fun x => x.tier == 2 && x.chans.any fun y => y == 0).isSome = true) := by decide +kernel
theorem test_meets_none_firm (c : Nat) : NoneFirm c live := by
  have h : (croftOf c live).work = [] ∧ (croftOf c live).ending = [] := ⟨rfl, rfl⟩
  constructor
  · intro w hw
    rw [h.1] at hw
    cases hw
  · intro e he
    rw [h.2] at he
    cases he
theorem test_meets_link_loss : ∀ d < 4, getF (bDie d) F.DIE_LINK_NEXT (put [(bDie d, F.DIE_LINK_NEXT, 1)] live) ≠ 0 ∧
    getF (bDie d) F.DIE_LINK_COMMONS (put [(bDie d, F.DIE_LINK_COMMONS, 1)] live) ≠ 0 := by decide +kernel
theorem test_meets_edge_loss : ∀ e < 2, getF (bEdge e) F.DIE_LINK_COMMONS (put [(bEdge e, F.DIE_LINK_COMMONS, 1)] live) ≠ 0 := by
  decide +kernel
/-- Each side of every threshold of the temperature statements. -/
theorem test_meets_temperatures : ∀ x ∈ ([82, 83, 85, 86, 92, 93, 95, 96] : List Nat), (BitVec.ofNat 8 x).toInt = x := by decide

/-! ### Statements about the granary, keys, the map and repair -/

theorem test_meets_slice : SliceAtRest 4 live ∧ (2 : BitVec 2) ≠ 3 ∧ getF (bSlice 4) F.GR_MODE live ≠ 2 := by
  refine ⟨⟨by decide +kernel, ?_⟩, by decide, by decide +kernel⟩
  have h : ownerOf (bSlice 4) live = none := by decide +kernel
  intro p hp
  rw [h] at hp
  cases hp
/-- A slice with a dirty granule, one in flush, and a request that waits at one. -/
def dirty : State := { live with memsys := { live.memsys with lines := [(4 * 6144, some ⟨1, 1, 1, 0⟩)], flushing := [4], slices := [(4, [request])] } }
theorem test_meets_dirty : 0 < dirtyLines 4 dirty ∧ 4 ∈ dirty.memsys.flushing ∧ sliceQueue 4 dirty = [request] := by decide +kernel
theorem test_meets_slice_fail : fenced (bSlice 4) live = false := by decide +kernel

/-- A confidential partition with and without its key pair, the reeve's page free and no request under way. -/
def secret (held : Nat) : State := put [(bFunction 1, F.FP_CONFIDENTIAL, 1), (bMemMap, F.MAP_KEY_VALID, held), (bReeve, F.RV_DONE, 1)] owned
theorem test_meets_keys : confidential 0 (secret 0) = true ∧ keyHeld 0 (secret 0) = false ∧ keyHeld 0 (secret 1) = true ∧
    getF bReeve F.RV_DONE (secret 0) = 1 ∧ getF bMemMap F.BLK_HOLDER (secret 0) = 0 ∧ getF bReeve F.BLK_HOLDER (secret 0) = 0 ∧
    (secret 0).power.supply = .on ∧ confidential 0 owned = false := by decide +kernel
theorem test_meets_map : openTo bMemMap live = true ∧ rangesHeld live = false := by decide +kernel

/-- A unit that does not exist, one at rest, one fenced, one under test. -/
theorem test_meets_repair : openTo bRepair live = true ∧ unitNamed 4 16 live = none ∧ unitNamed 4 15 live = some (bPort 15) ∧
    getF bRepair F.REP_BUSY live = 0 ∧ unitRetired (bPort 15) live = false ∧ sliceFree (bPort 15) live = true ∧
    linkOut (bPort 15) (put [(bEdge 1, F.DIE_LINK_COMMONS, 1)] live) = false ∧ linkOut (bPort 15) (put [(bEdge 1, F.DIE_LINK_COMMONS, 0)] live) = true ∧
    unitNamed 7 4 live = some (bSlice 4) ∧
    sliceFree (bSlice 4) (put [(bSlice 4, F.BLK_ASSIGNED, 1)] (one (desc [(0, 1)]))) = false ∧
    fenced (bPort 15) (put [(bPort 15, F.BLK_FENCED, 1)] live) = true ∧ bPort 15 ∉ live.reeve.testing := by decide +kernel
theorem test_meets_self_test : unitCode (.port 15) ∈ { live.reeve with testing := [unitCode (.port 15)] }.testing ∧
    unitRetired (unitCode (.port 15)) live = false ∧ unfit (unitCode (.port 15)) live = false := by decide +kernel
/-- A croft of a partition with a free spare; the end of a spare's ramp. -/
theorem test_meets_croft_fence : fenced (bCroft 0) owned = false ∧ contextOf 0 owned = some 0 ∧ slotOf 0 owned < 36 ∧
    freeSpare 0 (put [(bCroft 36, F.CP_STATUS_STATE, 1)] owned) = some 36 ∧ physOf 0 36 owned ≠ 0 := by decide +kernel
/-- A croft whose layout fits and one whose layout does not. -/
theorem test_meets_layout : layoutOk 0 (put [(bCroft 0, F.LK_RECALL_BASE, 0x20000), (bCroft 0, F.FN_TABLE_BASE, 0)] owned) = true ∧ layoutOk 0 (put [(bCroft 0, F.LK_RECALL_BASE, 0), (bCroft 0, F.FN_TABLE_BASE, 0)] owned) = false ∧
    (⟨36, 0, 0, 0, []⟩ : Ramp).till ≤ owned.time := by decide +kernel
theorem test_meets_ramp : ({ owned.power with ramps := [⟨36, 0, 0, 0, []⟩] } : Power).ramps.find? (fun x => x.spare == 36) =
    some ⟨36, 0, 0, 0, []⟩ ∧ contextOf 36 owned = some 0 := by decide +kernel

/-! ### Statements about links and the exchange -/

/-- Partition 0's port 0 enabled with all its lanes. -/
def ported : State := put [(bPort 0, F.BLK_ASSIGNED, 1), (bPort 0, F.VP_ENABLE, 1), (bPort 0, F.VP_LANE_EN, 15),
  (bPort 0, F.VP_PEER_DEVICE, 5), (bPort 0, F.VP_REPLAY_NS, 1000), (bPort 0, F.VP_REPLAY_LIMIT, 2)] owned
/-- Lane 0 of port 0. -/
def laned (x : Lane) : State := setLane 0 x ported
def lane : Lane := { Lane.reset with aligned := true, up := true }
def aligned : Lane := { Lane.reset with aligned := true }
def helloOf (dev port : Nat) : Flit := toFlit (flitBytes 3 0 0 0 0 16 (bytesOf 2 dev ++ bytesOf 2 port ++ bytesOf 2 0 ++ bytesOf 2 0))
/-- A sent flit. -/
def sentFlit : TxFlit := ⟨1, 0, true, true, [], 3, 0, none⟩

theorem test_meets_alignment : laneAllowed 0 ported = true ∧ (laneOf 0 ported).aligned = false ∧ ownerOf (bPort 0) ported = some 0 := by
  decide +kernel
set_option maxRecDepth 1000000 in
theorem test_meets_hello : fCrcOk (helloOf 5 0) = true ∧ fKind (helloOf 5 0) = 3 ∧ bits 0 13 (fByte 12 2 (helloOf 5 0)) = 5 ∧
    (laneOf 0 (laned aligned)).up = false ∧ laneAllowed 0 (laned aligned) = true ∧ portUp 0 (laned aligned) = false := by decide +kernel
set_option maxRecDepth 1000000 in
/-- A HELLO of another device: a lane beside one in service, and a lane in service. -/
theorem test_meets_hello_peer : portUp 0 (setLane 1 lane (laned aligned)) = true ∧ laneAllowed 0 (setLane 1 lane (laned aligned)) = true ∧
    getF (bPort 0) F.VP_PEER_DEVICE (laned lane) ≠ bits 0 13 (fByte 12 2 (helloOf 6 0)) ∧ fCrcOk (helloOf 6 0) = true ∧
    fKind (helloOf 6 0) = 3 ∧ (laneOf 0 (laned lane)).up = true := by decide +kernel

/-- A flit of a packet whole in one, and one whose CRC is wrong. -/
def packetFlit : Flit := toFlit (flitBytes (1 + 8 + 16) 0 0 0 0 32 (mkPacket 9 1 0 5 0 0 0 0 0 0 []))
set_option maxRecDepth 1000000 in
theorem test_meets_data_flit : fCrcOk packetFlit = true ∧ fKind packetFlit = 1 ∧ fSeq packetFlit = (laneOf 0 (laned lane)).rxSeq ∧
    fHead packetFlit = true ∧ fTail packetFlit = true ∧ 32 ≤ (fPayload packetFlit).length ∧
    pkCursor (fPayload packetFlit) = pkHops (fPayload packetFlit) ∧ pkCursor (fPayload packetFlit) ≠ 0 ∧
    fSeq packetFlit ≠ (laneOf 0 (laned { lane with rxSeq := 7 })).rxSeq := by decide +kernel
set_option maxRecDepth 1000000 in
theorem test_meets_flit_crc : fCrcOk 0 = false ∧ fKind 0 = 0 ∧ (laneOf 0 (laned lane)).up = true ∧ (laneOf 0 (laned lane)).out = [] := by
  decide +kernel
set_option maxRecDepth 1000000 in
theorem test_meets_idle : fCrcOk (toFlit (flitBytes 0 0 2 1 0 0 [])) = true ∧ fKind (toFlit (flitBytes 0 0 2 1 0 0 [])) = 0 ∧
    16 ≤ (laneOf 0 (laned { lane with unacked := 16 })).unacked := by decide +kernel
/-- A request that acknowledges up to flit 3 and asks for it and what follows. -/
def askFlit : Flit := toFlit (flitBytes 2 0 3 1 0 0 [])
set_option maxRecDepth 1000000 in
theorem test_meets_replay : fCrcOk askFlit = true ∧ fKind askFlit = 2 ∧ leftBy askFlit [{ sentFlit with seq := 2 }, sentFlit] = [sentFlit] ∧
    ((laneOf 0 (laned { lane with window := [sentFlit] })).replays.filter fun x => decide ((0 : Nat) < x + 1000000)).length + 1 ≤
      getF (bPort 0) F.VP_REPLAY_LIMIT (laned { lane with window := [sentFlit] }) := by decide +kernel
theorem test_meets_replay_limit : getF (bPort 0) F.VP_REPLAY_LIMIT (laned { lane with replays := [0, 0] }) <
    ((laneOf 0 (laned { lane with replays := [0, 0] })).replays.filter fun x => decide ((0 : Nat) < x + 1000000)).length + 1 := by decide +kernel
theorem test_meets_replay_timeout : sentFlit.sent + getF (bPort 0) F.VP_REPLAY_NS { laned lane with time := 1000 } ≤ 1000 ∧
    0 < sentFlit.sent + getF (bPort 0) F.VP_REPLAY_NS (laned lane) := by decide +kernel

/-- An address in the larder of partition 0's croft 0. -/
def inLarder (o : Nat) : Nat := 3 * 2 ^ 52 + o
/-- A sparse plan of four buckets in a group of devices 0 and 1; device 0 owns bucket 0 and gets bucket 1 returned. -/
def shared : Plan := ⟨0, 4, false, true, true, 0, 2, 1, inLarder 0x1000, inLarder 0x1800, 64, inLarder 0x2000, inLarder 0x3000,
  inLarder 0x3800, 2, 0, [0, 1]⟩
/-- A packet of job 0 for device 0. -/
def packet (kind src arg0 arg1 epoch : Nat) (data : List Byte) : Packet := mkPacket kind 1 0 src 0 0 0 epoch arg0 arg1 data
/-- Partition 0's job enabled with one plan, one packet arrived. -/
def arrived (k : Packet) (f : Job → Job) : State :=
  let s := updJob 0 f (put [(bMill, F.ML_JOB_ENABLE.at 0, 1), (bMill, F.ML_JOB_ACTIVE_PLANS_LO.at 0, 1)] owned)
  { s with mill := { s.mill with inbox := [⟨0, k, none⟩] } }
def planned (j : Job) : Job := { j with plans := [some shared] }
/-- What a packet of a kind, taken, meets. -/
def taken (kind : Nat) (fold : Bool) (s : State) (f : Packet → State → Bool) : Bool :=
  match takeKind kind fold s with
  | some (0, k, s') => f k s'
  | _ => false
def epochOk (k : Packet) (s : State) : Bool := match classify 0 (pkEpoch k) s with | .ok _ _ => true | _ => false
/-- One entry: index 3 with a value. -/
def entry (v : Nat) : List Byte := [3, 0, 0, 0] ++ bytesOf 4 v
/-- Rank 1's contribution to bucket 0. -/
def contribution (v : Nat) : Packet := packet 1 1 0 (1 + 2 ^ 16) 0 (entry v)

/-- A contribution for another device. -/
def odd : Packet := mkPacket 1 1 0 1 3 0 0 0 0 0 []
theorem test_meets_malformed : (takeInbox (fun x => !deliverable x.part x.bytes (arrived odd id)) (arrived odd id)).isSome = true ∧
    pkKind odd = 1 ∧ Open 0 0 0 (arrived odd id) ∧ jobEnabled 0 owned = false := by
  refine ⟨?_, ?_, ⟨?_, ?_, ?_, ?_⟩, ?_⟩ <;> decide +kernel
/-- A contribution of an accepted epoch meets a slot that is empty, that holds its equal, or that holds another. -/
def storing (v : Nat) (s : State) : Bool × Nat :=
  match takeKind 1 false s with
  | some (0, k, s') => (match contribPlan 0 k 0 s' with
    | some g => (epochOk k s' && g == shared, match storeContrib 0 g false 0 1 0 0 (parseData g.dense 1 (entry v)) s' with
      | .kept c _ => 2 + c
      | .duplicate => 1
      | .differs => 2
      | .failed => 0)
    | none => (false, 0))
  | _ => (false, 0)
/-- A state after a first contribution. -/
def stored (v : Nat) : State :=
  match storeContrib 0 shared false 0 1 0 0 [(3, 7)] (arrived (contribution v) planned) with
  | .kept _ u => u
  | _ => owned
theorem test_meets_contrib : storing 7 (arrived (contribution 7) planned) = (true, 3) ∧ storing 7 (stored 7) = (true, 1) ∧
    storing 8 (stored 8) = (true, 2) := by decide +kernel
theorem test_meets_stale : taken 1 false (arrived (contribution 7) fun j => { planned j with step := 1 })
    (fun k s => decide (classify 0 (pkEpoch k) s = .stale 0 0)) = true := by decide +kernel
def unacked : Pend := ⟨0, 0, 0, false, 0, 1, 1, 2 ^ 16, entry 7, false, false, 0⟩
theorem test_meets_contrib_ack : taken 2 false (arrived (packet 2 1 0 0 0 []) fun j => { j with pend := [unacked] })
    (fun k s => epochOk k s && unacked.dst == pkSrc k && unacked.bucket == pkArg0 k) = true := by decide +kernel

/-- Device 1 is reached through lane 0 of port 0. -/
def routed (j : Job) : Job := { j with routes := [(1, 2 ^ 18)] }
def asksPeer (j : Job) : Job := { routed j with accs := [⟨10, false, 1, 64, 0, 8, 0, 1, 0, 0⟩] }
/-- Croft 0's task 1 waits for the exchange. -/
def waitsFor (k : Packet) (f : Job → Job) : State :=
  withCroft (fun c => { c with queue := [{ waiting (desc [(0, 0x38)]) with phase := .running }] })
    (setLane 0 lane (put [(bPort 0, F.BLK_ASSIGNED, 1)] (arrived k f)))
def later (s : State) : State := { s with time := 10000000000 }
theorem test_meets_ack_timeout : let s := later (waitsFor [] fun j => { routed j with pend := [unacked] })
    unacked.sent + jobUs F.ML_JOB_ACK_TIMEOUT_US 0 s ≤ s.time ∧ unacked.resent = false ∧
    (sendPacket 0 1 unacked.dst 0 0 (unacked.arg1 + 2 ^ 14) 0 unacked.body true (some (0, 1)) s).1 = .onA ∧
    (findTask 0 1 s).isSome = true := by decide +kernel
theorem test_meets_access_timeout : let s := later (waitsFor [] asksPeer)
    ((jobOf 0 s).accs.find? (fun y => decide (y.sent + jobUs F.ML_JOB_ACK_TIMEOUT_US 0 s ≤ s.time))).isSome = true ∧
    (findTask 0 1 s).isSome = true := by decide +kernel

/-- What a returned bucket meets: the plan, its record, whether it is in already, and whether both writes succeed. -/
def returnedAs (s : State) : Bool × Bool × Bool :=
  match takeKind 3 false s with
  | some (0, k, s') =>
    match planFor 0 (pkArg0 k) s', readHalf 0 shared true 0 1 0 0 s' with
    | some g, some h => (epochOk k s' && g == shared && pkSrc k == g.device (g.owner 1) && bit 15 (pkArg1 k) == g.dense &&
        ascending ((parseData false 1 (pkData k)).map Prod.fst) && (pkData k).length == dataLength false 1 && g.owner 1 != g.rank,
      h.reduced,
      ((writeReduced 0 g 1 0 0 (parseData false 1 (pkData k)) s').bind
        (writeHalf 0 g true 0 1 0 0 { h with reduced := true } none)).isSome)
    | _, _ => (false, false, false)
  | _ => (false, false, false)
theorem test_meets_reduced : returnedAs (arrived (packet 3 1 1 (2 ^ 16) 0 (entry 7)) planned) = (true, false, true) := by decide +kernel
/-- The same for a dense plan, the bucket in already. -/
theorem test_meets_returned_again : let g : Plan := { shared with dense := true }
    let s := arrived [] fun j => { j with plans := [some g] }
    ((mlWrite 0 g.arrive (g.recAt true 1) (Half.bytes 0 0 ⟨true, false, 0⟩ ++ List.replicate 20 0) s).bind fun t =>
      readHalf 0 g true 0 1 0 0 t) = some ⟨true, false, 0⟩ := by decide +kernel
/-- A digest of bucket 0 before the bucket is formed, then after. -/
def digested (f : State → State) : Bool × Bool × Bool :=
  match takeKind 4 false (f (arrived (packet 4 1 0 (2 ^ 28) 0 [1, 2, 3, 4]) fun j => { j with plans := [some { shared with dense := true }] })) with
  | some (0, k, s') =>
    match planFor 0 0 s' with
    | some g => (match readHalf 0 g false 0 0 0 0 s' with
      | some h => (epochOk k s' && g.sampled 0 0 && g.owner 0 == g.rank && !h.digestOk && (writeHalf 0 g false 0 0 0 0
          { h with digestOk := true } none s').isSome, h.reduced, ownDigest 0 g 0 0 s' == some (leAt (pkData k) 0 4, bits 16 13 (pkArg1 k)))
      | none => (false, false, false))
    | none => (false, false, false)
  | _ => (false, false, false)
def formed (d : List Byte) (s : State) : State :=
  (mlWrite 0 shared.arrive 0 (Half.bytes 0 0 ⟨true, false, 0⟩ ++ d ++ List.replicate 16 0) s).getD s
theorem test_meets_digest : digested id = (true, false, false) ∧ digested (formed [1, 2, 3, 5]) = (true, true, false) ∧
    digested (formed [1, 2, 3, 4]) = (true, true, true) := by decide +kernel

/-- Device 1 is device 0's child. -/
def parent (j : Job) : Job := { j with kids := [1] }
def counted (s : State) : State := put [(bMill, F.ML_JOB_NCHILD.at 0, 1)] s
theorem test_meets_vote : let s := counted (arrived (packet 5 1 1 0 0 (bytesOf 8 0)) parent)
    taken 5 false s (fun k s' => epochOk k s' && (kidsOf 0 s).contains (pkSrc k) && pkArg0 k % 4 == 1) = true ∧
    (verdictHeld 0 0 0 s).isNone = true := by decide +kernel
/-- A job whose device has written READY. -/
def steady (j : Job) : Job := { j with eps := [{ EpState.new 0 0 with ready := true }] }
theorem test_meets_ready : let s := arrived [] steady
    let e := epOf 0 0 0 s
    jobEnabled 0 s = true ∧ e.voted = 0 ∧ e.cause = none ∧ e.ready = true ∧ (verdictHeld 0 0 0 s).isNone = true ∧
    localReady 0 0 0 s = true ∧ kidsReady 0 0 0 s = true ∧ isRoot 0 s = false ∧ isRoot 0 (put [(bMill, F.ML_JOB_ROOT.at 0, 1)] s) = true ∧
    (epOf 0 1 0 s).cause = none := by decide +kernel
theorem test_meets_verdict : let s := arrived (packet 6 1 1 0 0 (bytesOf 8 0)) id
    taken 6 false s (fun k s' => epochOk k s' && pkArg0 k % 4 == 1) = true ∧ isRoot 0 s = false ∧ (verdictHeld 0 0 0 s).isNone = true := by
  decide +kernel
theorem test_meets_query : taken 7 false (arrived (packet 7 1 0 0 0 []) fun j => { j with verdicts := [⟨0, 0, 2, 0⟩] })
    (fun k s' => epochOk k s' && (verdictHeld 0 0 0 s').isSome) = true := by decide +kernel
theorem test_meets_root_timeout : let s := later (put [(bMill, F.ML_JOB_ROOT.at 0, 1)] (counted (arrived [] fun j =>
      { parent j with eps := [{ EpState.new 0 0 with ready := true, rootAt := some 0 }] })))
    isRoot 0 s = true ∧ 0 + jobUs F.ML_JOB_VERDICT_WAIT_US 0 s ≤ s.time ∧ kidsReady 0 0 0 s = false ∧
    (epOf 0 0 1 s).cause = none ∧ (epOf 0 0 0 s).rootAt = some 0 := by decide +kernel
theorem test_meets_wait_timeout : let e := { EpState.new 0 0 with voted := 1 }
    let s := later (arrived [] fun j => { j with eps := [e] })
    (decide (e.again < 2) && waited 0 (e.again + 1) s e) = true ∧
    (!e.lost && waited 0 0 s e && decide (e.votedAt + jobUs F.ML_JOB_VERDICT_LOST_US 0 s ≤ s.time)) = true ∧ epOf 0 0 0 s = e := by
  decide +kernel

/-- Partition 0's window of 1 GiB at address 0, open both ways. -/
def windowed (k : Packet) (f : Job → Job) : State :=
  put [(bMill, F.ML_JOB_SIZE_GIB.at 0, 1), (bMill, F.ML_JOB_WRITE_EN.at 0, 1), (bMill, F.ML_JOB_READ_EN.at 0, 1)] (waitsFor k f)
/-- A write of four bytes at offset 64, whose TAG marks a fold, and one beyond the window. -/
def writing (tag off : Nat) : Packet := packet 8 1 off (tag * 2 ^ 8) 0 [1, 2, 3, 4]
theorem test_meets_window_write : ∀ fold ∈ [false, true],
    taken 8 fold (windowed (writing (if fold then 2 ^ 15 else 0) 64) id) (fun k s' =>
      windowAddr 0 (pkOffset k) (pkData k).length true s' == some 64 && reach0 0 64 4 s' && !poison0 0 64 4 s' && !partialPoison 0 64 4 s') =
        true ∧
    taken 8 fold (windowed (writing (if fold then 2 ^ 15 else 0) (2 ^ 30)) id) (fun k s' =>
      windowAddr 0 (pkOffset k) (pkData k).length true s' == none) = true := by decide +kernel
theorem test_meets_window_read : taken 10 false (windowed (packet 10 1 64 0 0 (bytesOf 4 8)) id) (fun k s' =>
    (pkData k).length == 4 && windowAddr 0 (pkOffset k) (leAt (pkData k) 0 4) false s' == some 64 && leAt (pkData k) 0 4 == 8 &&
    reach0 0 64 8 s' && !poison0 0 64 8 s') = true := by
  decide +kernel
def writesPeer (j : Job) : Job := { routed j with accs := [⟨8, false, 1, 64, 0, 8, 0, 1, 0, 0⟩] }
/-- The answers to a write and to a read, without and with an error. -/
theorem test_meets_answers : ∀ e ∈ [(0 : Nat), 2 ^ 31],
    taken 9 false (waitsFor (packet 9 1 64 e 0 []) writesPeer) (fun k s' => (accOf 0 8 k s').isSome && pkError k == (e != 0) &&
      (findTask 0 1 s').isSome) = true ∧
    taken 11 false (waitsFor (packet 11 1 64 e 0 (bytesOf 8 0)) asksPeer) (fun k s' => (accOf 0 10 k s').isSome &&
      (pkData k).length == 8 && pkError k == (e != 0) && (findTask 0 1 s').isSome) = true := by decide +kernel

/-! ### Statements about the host interface -/

/-- The PF's event ring of 16 slots and its ring 0 of 8 are on, and a record waits. -/
def ringed : State := put [(bFunction 0, F.FP_EV_ENABLE, 1), (bFunction 0, F.FP_EV_LOG2, 4), (bFunction 0, F.FP_ENABLE, 1),
  (bFunction 0, F.FP_LOG2, 3), (bFunction 0, F.FP_CR_BASE_LO, 0x4000), (bFunction 1, F.FP_LOG2.at 0, 3)]
  { owned with host := { owned.host with tails := [(0, 1)] } }

def ringedVf : State := put [(bFunction 1, F.FP_EV_ENABLE, 1), (bFunction 1, F.FP_EV_LOG2, 4), (bFunction 1, F.FP_ENABLE, 1),
  (bFunction 1, F.FP_INFLIGHT, 8)] { owned with host := { owned.host with tails := [(16, 1)] } }

theorem test_meets_ring_control : ∀ fn ∈ ([0, 1] : List FnId), Answers fn owned ∧ openToHost fn owned = true ∧
    keysMissing (bFunction fn.val) owned = false ∧ flag (bFunction fn.val) F.FP_EV_ENABLE owned = false ∧
    inflight fn.val owned = 0 ∧ flag (bFunction fn.val) F.FP_ENABLE owned = false := by
  intro fn h
  simp only [List.mem_cons, List.not_mem_nil, or_false] at h
  rcases h with rfl | rfl <;> exact ⟨⟨by decide +kernel, by decide +kernel⟩, by decide +kernel⟩
/-- A ring that is on; a tail within it and one beyond; a head that frees nothing and one beyond the ring. -/
theorem test_meets_ring_values : flag (bFunction 0) F.FP_ENABLE ringed = true ∧ getF (bFunction 0) F.FP_LOG2 ringed = 3 ∧
    evSlots 0 ringed = 16 ∧ (ringOf 0 ringed).held = [] ∧ (0 + evSlots 0 ringed - (ringOf 0 ringed).head) % evSlots 0 ringed ≤
      (ringOf 0 ringed).used ∧ (ringOf 0 ringed).used < (1 + evSlots 0 ringed - (ringOf 0 ringed).head) % evSlots 0 ringed := by
  decide +kernel

/-- Only ring 0 may fetch; its record reads, and a VF's does not while nothing is translated. -/
theorem test_meets_fetch : mayFetch 0 0 ringed = true ∧ (∀ q : RingId, q ≠ 0 → mayFetch 0 q.val ringed = false) ∧
    (readRecord 0 0 0 ringed).1.isSome = true ∧
    mayFetch 1 0 ringedVf = true ∧ (∀ q : RingId, q ≠ 0 → mayFetch 1 q.val ringedVf = false) ∧
    (readRecord 1 0 0 ringedVf).1 = none := by decide +kernel
/-- A VF whose first GiB is translated to the same host addresses, to read and to write. -/
def translated : State := updPart 0 (fun q => { q with l1 := [⟨0, 15⟩] }) ringedVf
theorem test_meets_translated : mayFetch 1 0 translated = true ∧ confidential 0 translated = false ∧ evLive 1 translated = true ∧
    (∀ n ∈ [64, 32], fnBase 1 F.FP_CR_BASE_LO F.FP_CR_BASE_HI translated % 2 ^ 21 + n ≤ 2 ^ 21 ∧
      fnBase 1 F.FP_EV_BASE_LO F.FP_EV_BASE_HI translated % 2 ^ 21 + n ≤ 2 ^ 21) ∧
    (hostXlate 0 (fnBase 1 F.FP_CR_BASE_LO F.FP_CR_BASE_HI translated) false translated).isSome = true ∧
    (hostXlate 0 (fnBase 1 F.FP_EV_BASE_LO F.FP_EV_BASE_HI translated) true translated).isSome = true := by decide +kernel
/-- An ended command of the PF. -/
def cmdOf (fn : Nat) (words : List (Nat × Nat)) : Cmd := ⟨1, fn, 0, 0, desc words, .fetched, 0, 0, 0, false⟩
def commanded (fn : Nat) (words : List (Nat × Nat)) (s : State) : State := { s with host := { s.host with cmds := [cmdOf fn words] } }
theorem test_meets_completion : let c := { cmdOf 0 [(0, 9)] with phase := .done }
    let s := { ringed with host := { ringed.host with cmds := [c] } }
    s.host.cmds.find? (fun c => c.fn == 0 && c.phase == .done && !c.lost) = some c ∧ hostLive s = true ∧ evLive 0 s = true ∧
    (putRecord 0 (completionOf c s) s).isSome = true := by decide +kernel
theorem test_meets_msix : let s := { ringed with host := { ringed.host with msixPend := [(3, some (1, 0))] }, time := 1000000 }
    mapGet (fun _ => none) s.host.msixPend 3 = some (1, 0) ∧ 0 + 1000 * getF (bFunction 0) F.FP_DELAY_US s ≤ s.time := by decide +kernel

/-- Partition 0 in timed service and in open service, a command of its VF next. -/
def inService (n : Nat) (s : State) : State := put [(bFunction 1, F.FP_SERVICE, n), (bCroft 0, F.SEQ_CTRL_SERVICE, n)] s
theorem test_meets_starts_vf : ∀ op ∈ [1, 2, 3, 4, 5, 7, 8, 9], Starts 1 0 op (cmdOf 1 [(0, op)]) (commanded 1 [(0, op)] owned) := by
  have h : ∀ op ∈ [1, 2, 3, 4, 5, 7, 8, 9], nextCmd 1 0 op (commanded 1 [(0, op)] owned) = some (cmdOf 1 [(0, op)]) ∧
      flag (bFunction 1) F.FP_WEDGED (commanded 1 [(0, op)] owned) = false ∧ assembled 0 (commanded 1 [(0, op)] owned) = true := by
    decide +kernel
  exact fun op ho => ⟨(h op ho).1, by decide, (h op ho).2.1, (h op ho).2.2⟩
theorem test_meets_starts_pf : ∀ op ∈ [6, 0x10, 0x11, 0x12, 0x13], nextCmd 0 0 op (commanded 0 [(0, op)] owned) = some (cmdOf 0 [(0, op)]) := by
  decide +kernel

/-- STEP 1 with one task and one expect of tally 5, at address 0 of tier 1. -/
def stepWords : List (Nat × Nat) := [(0, 2), (0x10, 1), (0x14, 1), (8, 0x40), (0x18, 0), (0x20, 1)]
def stepState : State := { commanded 1 stepWords (inService 0 (mapped owned)) with mem := cells (plTier1 0) [5, 0, 0, 0, 2] }
theorem test_meets_step : let c := cmdOf 1 stepWords
    timed 0 stepState = true ∧ timed 0 (inService 1 stepState) = false ∧ stepUndecided 0 stepState = false ∧
    stepUndecided 0 (updPart 0 (fun q => { q with run := some ⟨1, 0, 1, [], [], false, none⟩ }) stepState) = true ∧
    dF 0x20 8 c.words = lastCommitted 0 stepState + 1 ∧ (partOf 0 stepState).stopCommits = false ∧
    (match cmdRead c 0 8 stepState with
    | (.ok el, u) => badExpect 0 u 0 (expectsOf 1 el) == none && (match cmdRead c 0x40 64 u with
      | (.ok l, v) => !usesLost 0 (relsOf 0 1 [0] (descsOf 1 l) v) v
      | _ => false)
    | _ => false) = true := by decide +kernel
/-- Both lists of the STEP and the list of a RUN_LIST lie in tier-1 memory that the partition reaches. -/
theorem test_meets_operands : let c := cmdOf 1 stepWords
    Operand c 0 8 (load0 0 0 8 stepState) stepState ∧ badExpect 0 stepState 0 (expectsOf 1 (load0 0 0 8 stepState)) = none ∧
    Operand c 0x40 64 (load0 0 0x40 64 stepState) stepState ∧
    usesLost 0 (relsOf 0 1 [0] (descsOf 1 (load0 0 0x40 64 stepState)) stepState) stepState = false := by
  refine ⟨⟨by decide, by decide +kernel, by decide +kernel, rfl⟩, by decide +kernel, ⟨by decide, by decide +kernel, by decide +kernel, rfl⟩, ?_⟩
  decide +kernel
theorem test_meets_step_waits : let c := { cmdOf 1 stepWords with phase := .waiting }
    let s := { stepState with host := { stepState.host with cmds := [c] } }
    s.host.cmds.find? (fun c => c.fn == 0 + 1 && c.phase == .waiting) = some c ∧ (partOf 0 s).run = none ∧ (partOf 0 s).quiesce = none := by
  decide +kernel
/-- A wrong step; commits stopped; lists that cannot be read. -/
theorem test_meets_step_refused : dF 0x20 8 (cmdOf 1 [(0, 2), (0x20, 2)]).words ≠ lastCommitted 0 stepState + 1 ∧
    (partOf 0 (updPart 0 (fun q => { q with stopCommits := true }) stepState)).stopCommits = true ∧
    (cmdRead (cmdOf 1 [(0, 1)]) (2 ^ 40 - 1) 64 stepState).1.toOption = none := by decide +kernel

theorem test_meets_service : queuesEmpty 0 (one 0) = false ∧ queuesEmpty 0 owned = true ∧ dF 8 1 (cmdOf 1 [(0, 4), (8, 1)]).words < 2 ∧
    (owned.host.reads.any fun x => x.part == 0) = false ∧ 100 + otherLimits 0 owned ≤ 496 ∧ 496 < 497 + otherLimits 0 owned ∧
    assembled 0 owned = true ∧ assembled 1 owned = false := by decide +kernel
theorem test_meets_direct : let s := inService 1 owned
    timed 0 s = false ∧ 0 ∈ globalsOf 0 s ∧ 0 ∉ (partOf 0 s).capLost ∧ takes (globalPhys 0 s) s = true ∧
    takes 0 (withCroft (fun k => { k with queue := List.replicate 16 (waiting 0) }) s) = false ∧
    (cmdRead (cmdOf 1 [(0, 3)]) 0x40 64 s).1.toOption.isSome = true := by decide +kernel
/-- A REGS entry at host address 0. -/
def entryFor (x value mask kind : Nat) : State :=
  { owned with mem := cells (plHost 0) (bytesOf 4 x ++ bytesOf 4 value ++ bytesOf 4 mask ++ bytesOf 1 kind) }
/-- One that writes a field of the tallies' page, one that reads, and the page of a confidential partition's VF. -/
theorem test_meets_regs : ∀ kind ∈ [0, 1],
    let s := entryFor (0x4000 + F.TL_STALL_US.off) 0x50000 0xFFFF0000 kind
    let e := rdN (plHost 0) 16 s
    let w : Wr := ⟨.control, bTally, leAt e 0 4 % 0x1000, leAt e 4 4, leAt e 8 4⟩
    leAt e 12 1 = kind ∧ leAt e 13 3 = 0 ∧ leAt e 0 4 % 4 = 0 ∧ leAt e 0 4 < 2 ^ 25 ∧ pageAt (leAt e 0 4) s = some bTally ∧
    ownerOf bTally s = none ∧ w.off ≠ F.BLK_PART.off ∧ w.off ≠ F.BLK_HOLDER.off ∧ fateOf w s = .act ∧ regsQuiet w s = true ∧
    dF 0x10 2 (cmdOf 0 [(0, 6), (0x10, 1)]).words = 1 ∧
    (∃ q, ownerOf (bHamlet 0) (put [(bFunction 1, F.FP_CONFIDENTIAL, 1)] s) = some q ∧
      confidential q (put [(bFunction 1, F.FP_CONFIDENTIAL, 1)] s) = true) := by
  intro kind hk
  simp only [List.mem_cons, List.not_mem_nil, or_false] at hk
  rcases hk with rfl | rfl <;>
    and_intros <;> first | decide +kernel | exact ⟨0, by decide +kernel⟩

/-- The PF's descriptor of a partition 1 with hamlet 1, slice 0 and port 0, and one with a reserved bit. -/
def partBytes (hamlets flags : Nat) : List Byte := bytesOf 1 1 ++ bytesOf 1 flags ++ bytesOf 2 hamlets ++ bytesOf 2 1 ++ bytesOf 2 16 ++
  bytesOf 8 1 ++ bytesOf 2 4 ++ List.replicate 110 0
theorem test_meets_assemble : PartDesc.ok (partBytes 2 0) = true ∧ PartDesc.ok (partBytes 2 4) = false ∧
    owned.power.e0Lost = false ∧ assembleOk (PartDesc.parse (partBytes 2 0)) [] owned = true ∧ assembleOk (PartDesc.parse (partBytes 1 0)) [] owned = false := by
  decide +kernel
theorem test_meets_disassemble : let s := put [(bFunction 1, F.FP_QUIESCED, 1)] owned
    flag (bFunction 1) F.FP_QUIESCED s = true ∧ jobEnabled 0 s = false ∧ inflight 1 s = 0 ∧ flag (bFunction 1) F.FP_QUIESCED owned = false := by
  decide +kernel

/-- A quiesce of partition 0 for command 1, purged and drained, and one that has waited. -/
def quiescing (purged : Bool) : State := updPart 0 (fun q => { q with quiesce := some ⟨0, 1, false, 2, purged⟩ }) { owned with time := 100000000 }
theorem test_meets_quiesce : (partOf 0 (quiescing true)).quiesce = some ⟨0, 1, false, 2, true⟩ ∧ partDrained 0 (quiescing true) = true ∧
    (partOf 0 owned).run = none ∧ commitWork 0 owned = false ∧ (partOf 0 (quiescing false)).quiesce = some ⟨0, 1, false, 2, false⟩ ∧ 0 + 100000000 ≤ (quiescing false).time ∧
    flag (bFunction 1) F.FP_WEDGED owned = false ∧ flag (bFunction 1) F.FP_WEDGED (put [(bFunction 1, F.FP_WEDGED, 1)] owned) = true := by
  decide +kernel
theorem test_meets_function_reset : hostLive owned = true ∧ functionExists 1 owned = true ∧ functionExists 2 owned = true ∧
    assembled 1 owned = false ∧ assembled 0 owned = true ∧ flag (bFunction 1) F.FP_WEDGED owned = false ∧ (partOf 0 owned).quiesce = none := by
  decide +kernel
/-- VF 0's window at address 0, in hamlet 0. -/
theorem test_meets_bar2 : bar2Size (.read 64) = true ∧ bar2Ok 1 64 64 false owned = true ∧ bar2Size (.write [1, 2]) = true ∧
    bar2Ok 1 64 2 true owned = true ∧ bar2Ok 1 (2 ^ 36) 2 true owned = false := by decide +kernel
/-- A read of the host that piece 4 of a running task waits for. -/
def readWaits : State :=
  let s := withCroft (fun k => { k with pieces := [⟨4, 1, 0, 0, 1, 0, 64, false, 0, 0, false, false, false, 0⟩] })
    (weaving (desc [(0, 0x20)]) gauzeRun)
  { s with host := { s.host with reads := [⟨0, 4, 0, 0⟩] }, time := 50000000 }
theorem test_meets_read_timeout : readWaits.host.reads[0]? = some ⟨0, 4, 0, 0⟩ ∧ 0 + 50000000 ≤ readWaits.time ∧
    ((croftOf 0 readWaits).pieces.find? (fun q => q.id == 4)).map (fun q => q.uid) = some 1 ∧ (findTask 0 1 readWaits).isSome = true := by
  decide +kernel

/-! ### Statements about the steward, resets and writes -/

/-- Partition 0's job enabled, and its step 1 in progress with all its tasks done. -/
def jobOn (f : Job → Job) (s : State) : State := updJob 0 f (put [(bMill, F.ML_JOB_ENABLE.at 0, 1)] s)
def stepping (s : State) : State := updPart 0 (fun q => { q with run := some ⟨1, 0, 1, [], [], false, none⟩ }) s
theorem test_meets_job_control : openTo bMill owned = true ∧ jobEnabled 0 owned = false ∧ mayReady 0 (stepping (jobOn id owned)) = true ∧
    (parOf 0 (stepping (jobOn id owned))).zeroing = [] ∧ jobEnabled 0 (stepping (jobOn id owned)) = true ∧
    isRoot 0 (jobOn id owned) = false ∧ (epOf 0 0 0 (jobOn id owned)).cause = none ∧ verdictHeld 0 0 0 (jobOn id owned) = none ∧
    (partOf 0 (updPart 0 (fun q => { q with repeatDue := some 1 }) (stepping (jobOn id owned)))).repeatDue = some 1 ∧
    (partOf 0 (stepping (jobOn id owned))).run ≠ none := by decide +kernel
/-- A table block outside space 0 is refused. -/
theorem test_meets_reload : jobAtRest 0 owned = true ∧ loadBlock 0 (put [(bMill, F.ML_JOB_TABLE_BASE_HI.at 0, 3 * 2 ^ 20)] owned) = none := by
  decide +kernel
/-! A table block of zeros passes. -/
theorem cut_within (a len : Nat) : ∀ c ∈ cut 32 a len, c.1 < a + len := by
  have h (f a len : Nat) : ∀ c ∈ cutFuel 32 f a len, c.1 < a + len := by
    induction f generalizing a len with
    | zero => intro c hc; cases hc
    | succ f ih =>
      cases len with
      | zero => intro c hc; cases hc
      | succ len =>
        intro c hc
        simp only [cutFuel, List.mem_cons] at hc
        rcases hc with rfl | hc
        · exact Nat.lt_add_of_pos_right (Nat.succ_pos len)
        · have := ih _ _ c hc
          omega
  exact h _ a len

/-- Low addresses of stack 0: mapped, not cached, read as 0. -/
theorem owned_place {a : Nat} (h : a < 2 ^ 20) : place0 a owned = some a ∧ cacheHome 0 a owned = none := by
  have h1 : a < 2 ^ 40 := by omega
  have h2 : a % 2 ^ 36 < stackBytes := by unfold stackBytes; omega
  exact ⟨by rw [place0, if_pos h1, if_pos h2]; rfl, by rw [cacheHome, if_pos (.inl h1)]⟩

theorem owned_byte {a : Nat} (h : a < 2 ^ 20) : loadByte 0 a a owned = 0 := by
  have hm : owned.mem = [] := rfl
  have ho : outer a = false := by simp only [outer, decide_eq_false_iff_not]; omega
  simp only [loadByte, owned_place h, viewByte, ho, Bool.false_eq_true, if_false, rd, hm]
  rfl

theorem owned_zeros {a n : Nat} (h : a + n ≤ 2 ^ 20) : load0 0 a n owned = List.replicate n 0 := by
  induction n generalizing a with
  | zero => rfl
  | succ n ih =>
    have e : load0 0 a (n + 1) owned = (match place0 a owned with | some pl => loadByte 0 a pl owned | none => 0) ::
      load0 0 (a + 1) n owned := rfl
    rw [e, ih (by omega), (owned_place (show a < 2 ^ 20 by omega)).1, List.replicate_succ]
    exact congrArg (· :: _) (owned_byte (by omega))

theorem owned_reads {a n : Nat} (h : a + n ≤ 2 ^ 20) : mlRead 0 0 a n owned = some (List.replicate n 0) := by
  have h0 : ownerOf (bHamlet 0) owned = some 0 := by decide +kernel
  have hf : flag (bHbm 0) F.HB_FENCED owned = false := by decide +kernel
  have hp (q : Nat) : poisonedAt q owned = false := rfl
  have near : ∀ c ∈ cut 32 a n, c.1 < 2 ^ 20 ∧ c.1 < 2 ^ 40 ∧ c.1 / 2 ^ 36 = 0 := fun c hc => by
    have := cut_within a n c hc
    omega
  have hr : reach0 0 a n owned = true := by
    refine List.all_eq_true.mpr fun c hc => ?_
    obtain ⟨h1, h2, h3⟩ := near c hc
    rw [(owned_place h1).1, ownerOfAddr, if_pos h2, h3, h0]
    rfl
  have hq : poison0 0 a n owned = false := by
    refine List.any_eq_false.mpr fun c hc => ?_
    obtain ⟨h1, h2, h3⟩ := near c hc
    rw [granulePoison, offline, if_pos h2, h3, hf, sliceLost, decide_eq_false (by omega), (owned_place h1).1]
    simp [foundPoison, (owned_place h1).2, hp]
  have e : mlRead 0 0 a n owned = mlRead 0 0 a n owned := rfl
  rw [mlRead, if_pos (by decide), show addrOf 0 + a = a by rw [show addrOf 0 = 0 by decide]; omega, hr, hq, owned_zeros h]
  rfl

theorem zeros_le (k off n : Nat) : leAt (List.replicate k (0 : Byte)) off n = 0 := by
  have z (m : Nat) : natOf (List.replicate m (0 : Byte)) = 0 := by
    induction m with
    | zero => rfl
    | succ m ih => rw [List.replicate_succ, natOf, ih]; rfl
  rw [leAt, List.drop_replicate, List.take_replicate, z]

theorem chunks_zero (n f k : Nat) : ∀ l ∈ chunksOf n f (List.replicate k (0 : Byte)), leAt l 0 8 = 0 := by
  induction f generalizing k with
  | zero => intro l hl; cases hl
  | succ f ih =>
    cases k with
    | zero => intro l hl; cases hl
    | succ k =>
      intro l hl
      rw [chunksOf, List.take_replicate, List.drop_replicate, List.mem_cons] at hl
      · rcases hl with rfl | hl
        · exact zeros_le _ _ _
        · exact ih _ _ hl
      · simp

theorem test_meets_reload_zeros : jobAtRest 0 owned = true ∧ (loadBlock 0 owned).isSome = true := by
  refine ⟨by decide +kernel, ?_⟩
  have hb : tableBase 0 owned = 0 := by decide +kernel
  have hg (k : Nat) (s : State) : loadJobGroup 0 (List.replicate k 0) s = none := by
    rw [loadJobGroup, zeros_le]
    rfl
  have hl (k : Nat) (s : State) (gs) : loadPlan 0 s gs (List.replicate k 0) = none := by
    simp only [loadPlan, zeros_le]
    rfl
  have hr : (((List.range 8192).zip (chunksOf 8 8193 (List.replicate 65536 (0 : Byte)))).filterMap fun e =>
      if leAt e.2 0 8 = 0 then none else some (e.1, leAt e.2 0 8)) = [] :=
    List.filterMap_eq_nil_iff.mpr fun e he => if_pos (chunks_zero _ _ _ e.2 (List.of_mem_zip he).2)
  rw [loadBlock, hb, if_neg (by decide), owned_reads (by decide), owned_reads (by decide)]
  simp only [List.drop_replicate, List.take_replicate, hg, hl, hr]
  rw [if_pos (by decide +kernel)]
  rfl

/-- A group entry of two devices, the first this one. -/
def groupBytes : List Byte := [1, 1, 1, 0] ++ List.replicate 20 0 ++ bytesOf 8 0x10000 ++ bytesOf 8 256 ++ List.replicate 24 0 ++
  List.replicate 12 0 ++ [1, 0, 1] ++ List.replicate 177 0
theorem test_meets_parity_load : let s := { owned with mem := cells (plTier1 0) groupBytes }
    groupAt 0 0 s = .entry groupBytes [] ∧ bit 0 (leAt groupBytes 0 1) = true ∧ jobAtRest 0 s = true ∧
    (groupOk 0 groupBytes [] s && groupClear 0 (ParGroup.parse groupBytes []) [ParGroup.parse groupBytes []] s) = true := by decide +kernel
theorem test_meets_parity_zero : (parOf 0 (updPar 0 (fun r => { r with zeroing := [3] }) owned)).zeroing ≠ [] ∧
    (rebuildBuf 0 owned).1 + (rebuildBuf 0 owned).2 ≤ 2 ^ 40 := by decide +kernel

theorem test_meets_bytes_written : reaches .control live = true ∧ pageAt 0x4044 live = some bTally ∧ reaches (.host 1) live = true ∧
    pageAt 0x4044 live ≠ some (bFunction 1) ∧ 0x4044 % 4 + 4 ≤ 4 ∧ 0x4048 % 8 = 0 ∧ 4 < 0x4042 % 4 + 4 := by decide +kernel
theorem test_meets_sriov : hostLive live = true ∧ natOf [(0x18 : Byte)] % 16 ≤ 8 ∧ bit 4 (natOf [(0x18 : Byte)]) = true := by decide +kernel

theorem test_meets_device_reset : live.power.supply = .on ∧ PfPlain live ∧ inReset live = false ∧ confidential 0 live = false ∧
    State.reset.power.supply = .on ∧ inReset State.reset = true := by unfold PfPlain; decide +kernel
/-- The SHA-384 digest of 256 bytes of zeros, its first byte lowest. -/
def zeroDigest : Nat :=
  0xefeba65d9b43fd795d9e3c59f639981ba04c5428aa2ee456a331fa59c444338e4189db24a4a5c9d52d48133237803998
/-- A header of an image whose body is 256 bytes of zeros. -/
def headerOf (i rom : Nat) : Flit := BitVec.ofNat 2048 (natOf (bytesOf 4 0x46345850 ++ [1] ++ bytesOf 1 i ++ bytesOf 2 0x0404 ++
  bytesOf 2 4 ++ [0, 0] ++ bytesOf 4 0 ++ bytesOf 4 1 ++ bytesOf 4 256 ++ bytesOf 8 0 ++ bytesOf 4 rom) + zeroDigest * 2 ^ 512)
/-- Slot A of every image holds one that needs ROM version `rom`; slot B holds none. -/
def imaged (rom : Nat) (s : State) : State := updFw (fun f => { f with
  slots := imageCodes.flatMap fun i => [(2 * i, some ⟨headerOf i rom, List.replicate 256 0⟩), (2 * i + 1, none)] }) s
theorem test_meets_first_ready : let s := updFw (fun f => { f with fresh := true, group := [1] }) (imaged 0 State.reset)
    s.reeve.fw.fresh = true ∧ flag bReeve F.RV_PENDING s = false ∧ s.reeve.fw.floors.length = 6 ∧ (∀ i ∈ s.reeve.fw.group, i ∈ imageCodes) ∧
    fwSlot 1 (byImage s.reeve.fw.running 1) s = some ⟨headerOf 1 0, List.replicate 256 0⟩ ∧ inReset s = true ∧ s.power.supply = .on := by decide +kernel
theorem test_meets_pending : let s := put [(bReeve, F.RV_PENDING, 1)] live
    serviceUp s = true ∧ getF bReeve F.RV_PENDING s = 1 := by decide +kernel
theorem test_meets_perst : let s := { live with power := { live.power with e0Lost := true } }
    s.power.supply = .on ∧ s.power.e0Lost = true ∧ live.power.e0Lost = false ∧
    ({ live with power := { live.power with supply := .off } } : State).power.supply ≠ .on := by decide +kernel
theorem test_meets_straps : bits F.RV_SLOT_ID.lo F.RV_SLOT_ID.width (mapGet resetWord live.reeve.perm (regKey bReeve F.RV_SLOT_ID.off)).toNat =
    getF bReeve F.RV_SLOT_ID live ∧ bits F.ML_PAR_FEED_ID.lo F.ML_PAR_FEED_ID.width
      (mapGet resetWord live.reeve.perm (regKey bMill (F.ML_PAR_FEED_ID.at 0).off)).toNat = mlF F.ML_PAR_FEED_ID 0 live := by decide +kernel
/-- The rails off, the bus good for 10 ms. -/
def dark : State := { live with power := { live.power with supply := .off, good := some 0 }, time := 10 ^ 7 }
theorem test_meets_power_on : dark.power.supply = .off ∧ dark.power.good = some 0 ∧ PfPlain dark ∧ 0 + 10 ^ 7 ≤ dark.time ∧
    ({ dark with time := 5 } : State).time < 0 + 10 ^ 7 := by unfold PfPlain; decide +kernel
/-- Images whose signatures verify pass every other check of R589. -/
theorem test_meets_images (h : ∀ k d r s, Config.verify k d r s = true) (i : Nat) (hi : i ∈ imageCodes) :
    failedCheck i 0 (some [0, 0, 0, 0, 0, 0]) (imaged 0 dark) = none := by
  simp only [imageCodes, List.mem_cons, List.not_mem_nil, or_false] at hi
  rcases hi with rfl | rfl | rfl | rfl | rfl | rfl <;> simp only [failedCheck, verified, h] <;> decide +kernel

/-! ### Statements about attestation, the service port and the reeve -/

/-- The connection of VF 0 negotiated, with a session or a handshake. -/
def connected (d : Spdm) : State := { live with host := { live.host with spdm := [(1, d)] }, time := 20000000000 }
def negotiated : Spdm := { Spdm.reset with version := true, caps := true, algs := true }
theorem test_meets_spdm : spdmUp 1 (connected negotiated) = true ∧ Spdm.open_ (spdmOf 1 (connected negotiated)) = true ∧
    spdmUp 1 live = true ∧ (spdmOf 1 live).version = false ∧ Spdm.open_ (spdmOf 1 live) = false ∧ (spdmOf 1 live).session = none := by
  decide +kernel
theorem test_meets_session : let s := connected { negotiated with session := some 7, handshake := some 8, largeOut := [1] }
    (spdmOf 1 s).session ≠ none ∧ (spdmOf 1 s).handshake = some 8 ∧ (spdmOf 1 s).largeOut ≠ [] ∧ ringsOn (bFunction 1) s = false ∧
    ringsOn (bFunction 1) ringedVf = true ∧ (spdmOf 1 s).heartbeat + 20000000000 ≤ s.time := by decide +kernel
/-- A measurement that exists and one that does not. -/
theorem test_meets_measurement : (measurement 1 (imaged 0 live)).isSome = true ∧ measurement 0x20 live = none := by decide +kernel
theorem test_meets_service_port : live.power.supply = .on ∧ live.reeve.restart = none ∧ getF bReeve F.RV_STATE live = 2 ∧
    openTo bWell live = true ∧ openTo bThermal live = true ∧ (∀ e ∈ sensors live, (0xFFF0 : Nat) ≠ e.1) := by decide +kernel
/-- An update under way with image 1 being transferred, and with its slot A staged. -/
theorem test_meets_firmware : let s := updFw (fun f => { f with updating := true, current := 1, staged := [2] }) (imaged 0 live)
    let u := updFw (fun f => { f with updating := true, staged := [2] }) (imaged 1 live)
    s.reeve.fw.updating = true ∧ s.reeve.fw.current ∈ imageCodes ∧ s.reeve.fw.staged ≠ [] ∧ s.reeve.fw.last < 7 - 1 ∧ 7 - 7 ≤ s.reeve.fw.last ∧
    compatible (s.reeve.fw.staged.foldl (fun l k => putImage l (k / 2) (k % 2)) s.reeve.fw.selected) s = true ∧
    compatible (u.reeve.fw.staged.foldl (fun l k => putImage l (k / 2) (k % 2)) u.reeve.fw.selected) u = false ∧
    live.reeve.fw.updating = false := by decide +kernel
theorem test_meets_lockstep : (live.reeve.mismatches.filter fun t => decide (live.time < t + 3600 * 10 ^ 9)).length < 2 ∧
    2 ≤ (([0, 1] : List Nat).filter fun t => decide (live.time < t + 3600 * 10 ^ 9)).length ∧ PfPlain live := by unfold PfPlain; decide +kernel
theorem test_meets_restart : let s := { put [(bTally, F.BLK_HOLDER, 2)] live with lockSince := [(bTally, 0)], reeve := { live.reeve with
      restart := some 0 } }
    s.reeve.restart = some 0 ∧ (∃ e ∈ s.lockSince, getF e.1 F.BLK_HOLDER s = 2) ∧ getF bMill F.BLK_HOLDER s ≠ 2 := by decide +kernel
/-- An entry that waits, with few and with many of its kind in the second. -/
def note : JEntry := ⟨0, 0, 0, 0, 5, 0, 8, 2, 0⟩
theorem test_meets_journal : ∀ n ∈ [(0 : Nat), 256],
    let s := { live with reeve := { live.reeve with log := [note], kindCount := [(5, n)] }, time := 10 ^ 9 }
    s.reeve.log = [note] ∧ s.reeve.restart = none ∧ note.kind ≠ 0x10 ∧ (n < 256 ∨ 256 ≤ mapGet (fun _ => 0) s.reeve.kindCount note.kind) ∧
    s.reeve.second + 10 ^ 9 ≤ s.time ∧ s.reeve.journal.length + s.reeve.suppressed.length ≤ 4194304 ∧ openTo bReeve s = true := by
  decide +kernel

/-! ### Statements about power and dispatch -/

theorem test_meets_bus : live.power.supply = .on ∧ PfPlain live ∧ dark.power.supply = .off ∧ (38000 : Nat) ≤ 1000 * getF bWell F.WELL_SAG_V live ∧
    ¬ ((54000 : Nat) < 1000 * getF bWell F.WELL_SAG_V live ∨ ∃ x ∈ live.power.hist.take 100, 54000 + 4000 < x) := by
  refine ⟨by decide +kernel, by unfold PfPlain; decide +kernel, by decide +kernel, by decide +kernel, ?_⟩
  rintro (h | ⟨x, hx, _⟩)
  · exact absurd h (by decide +kernel)
  · exact absurd hx (by have : live.power.hist.take 100 = [] := by decide +kernel
                        rw [this]; exact List.not_mem_nil)
theorem test_meets_supply : let s := { live with power := { live.power with low := some 0, high := some 0, good := some 0 }, time := 100000001 }
    s.power.supply = .on ∧ s.power.low = some 0 ∧ s.power.high = some 0 ∧ PfPlain s ∧ 0 + 100000 < s.time ∧ 0 + 100000000 < s.time ∧
    s.power.good = some 0 ∧ 0 + 10000000 ≤ s.time ∧ (getF bThermal F.TH_T_TRIP s : Int) ≤ (127 : BitVec 8).toInt ∧
    (0 : BitVec 8).toInt < (getF bThermal F.TH_T_TRIP s : Int) := by unfold PfPlain; decide +kernel
/-- A period of one sample at 54 V with no demand beyond the pool. -/
def period : State := { owned with power := { owned.power with samples := 1, sumMv := 54000, sumMa := 10000 } }
theorem test_meets_grants : (match exec (.grantPeriod 0 (List.replicate 16 0) []) period with
    | .next t => decide (((cappedDemands 54000 t).map Prod.snd).sum ≤ poolAt 54000 0 t) && !(cappedDemands 54000 t).isEmpty
    | _ => false) = true ∧ period.power.samples ≠ 0 ∧ period.power.low = none ∧ period.power.supply = .on := by decide +kernel
theorem test_meets_delivery : ∀ now ∈ [(199 : Nat), 200],
    let s := { live with power := { live.power with flying := [(0, 5, 0)] }, time := now }
    s.power.flying.find? (fun e => e.1 == 0) = some (0, 5, 0) ∧ (s.time < 0 + 200 ∨ 0 + 200 ≤ s.time) := by decide +kernel
/-- Croft 0 hums since time 0. -/
def humming (floor : Nat) : State := { put [(bCroft 0, F.CP_CTRL_HUM_HOLD_US, 1), (bCroft 0, F.CP_CTRL_HUM_FLOOR, floor)] owned with
  power := { owned.power with idle := [(0, some 0)], change := [(0, some ⟨3, 1000⟩)], cool := [(0, some 0)] }, time := 1000000 }
theorem test_meets_hum : mapGet (fun _ => none) (humming 4).power.idle 0 = some 0 ∧ hums 0 (humming 4) = true ∧
    0 < getF (bCroft 0) F.CP_CTRL_HUM_HOLD_US (humming 4) ∧ 0 + 1000 * getF (bCroft 0) F.CP_CTRL_HUM_HOLD_US (humming 4) ≤ (humming 4).time ∧
    mapGet (fun _ => 0) (humming 4).power.humStep 0 ≤ (humming 4).time ∧
    getF (bCroft 0) F.CP_CTRL_HUM_FLOOR (humming 4) < humLevel 0 (humming 4) ∧
    humLevel 0 (humming 16) ≤ getF (bCroft 0) F.CP_CTRL_HUM_FLOOR (humming 16) := by decide +kernel
theorem test_meets_points : let s := put [(bCroft 0, F.CP_CTRL_POINT_REQ, 2)] owned
    targetPoint 0 s ≠ getF (bCroft 0) F.CP_STATUS_POINT s ∧ getF (bCroft 0) F.CP_STATUS_CHANGING s = 0 ∧ runsTask 0 s = false ∧
    mapGet (fun _ => none) (humming 4).power.change 0 = some ⟨3, 1000⟩ ∧ 1000 ≤ (humming 4).time := by decide +kernel
theorem test_meets_cap_rise : mapGet (fun _ => none) (humming 4).power.cool 0 = some 0 ∧ 0 + 1000000 ≤ (humming 4).time ∧
    ((5 : BitVec 20) ≠ 0) := by decide +kernel
theorem test_meets_coolant : let s := { put [(bReeve, F.RV_COOLANT_SENSOR, 9)] live with
      reeve := { live.reeve with coolAsked := some 5000000000, coolAt := some 0 }, time := 5000000001 }
    getF bReeve F.RV_COOLANT_SENSOR s ≠ 0 ∧ s.reeve.nextPoll ≤ s.time ∧ s.reeve.restart = none ∧ s.reeve.coolAsked = some 5000000000 ∧
    s.time ≤ 5000000000 + 500000000 ∧ s.reeve.coolAt = some 0 ∧ 0 + 5000000000 < s.time ∧ signed8 (getF bThermal F.TH_T_IN s) ≤ 40 ∧
    40 < (50 : BitVec 8).toInt := by decide +kernel
theorem test_meets_replan : let s := put [(bThermal, F.TH_NEXT_REPLAN_H, 10)] { live with power := { live.power with replan := true } }
    getF bThermal F.TH_POWERED_H s < getF bThermal F.TH_NEXT_REPLAN_H s ∧ s.power.replan = true ∧ live.power.replan = false ∧
    openTo bThermal live = true ∧
    getF bThermal F.TH_NEXT_REPLAN_H (put [(bThermal, F.TH_POWERED_H, 1000)] live) ≤
      getF bThermal F.TH_POWERED_H (put [(bThermal, F.TH_POWERED_H, 1000)] live) := by decide +kernel

/-- One task in the release order, with the hamlet's grant. -/
def ordered (since : Option Nat) (grant : Nat) : State :=
  updPart 0 (fun q => { q with rel := [⟨desc [(0, 0x20)], 0, 1, since, false, false⟩] })
    (put [(bWell, F.WELL_GRANT.at 0, grant)] { owned with time := 10000000000 })
theorem test_meets_dispatch : mayRelease 0 (ordered none 1023) = true ∧ 0 < getF bSteward F.SCH_LOOKAHEAD (ordered none 1023) ∧
    takes (globalPhys 0 (ordered none 1023)) (ordered none 1023) = true ∧
    fitsGrant (globalPhys 0 (ordered none 1023)) (desc [(0, 0x20)]) (ordered none 1023) = true ∧
    fitsHeat (globalPhys 0 (ordered none 1023)) (desc [(0, 0x20)]) (ordered none 1023) = true ∧
    fitsGrant (globalPhys 0 (ordered none 0)) (desc [(0, 0x20)]) (ordered none 0) = false ∧
    0 + 1000 * getF bSteward F.SCH_STARVE_US (ordered (some 0) 0) ≤ (ordered (some 0) 0).time := by decide +kernel
/-- A layer whose narrowed list stands in the release order, the croft of its bypass list full; a layer that is on; an expect on its way. -/
def listed : LayerLists := ⟨5, [(0, desc [(0, 0x20)])], [(0, desc [(0, 0x28)])]⟩
def fullCroft : State := withCroft (fun k => { k with queue := List.replicate 16 (waiting 0) }) (ordered none 1023)
theorem test_meets_bypass : mayRelease 0 fullCroft = true ∧ layerBypassed 0 5 fullCroft = true ∧ listed.narrow ≠ [] ∧
    takes (globalPhys 0 fullCroft) fullCroft = false := by decide +kernel
theorem test_meets_bypass_order : (partOf 0 fullCroft).rel = listed.narrow.map (fun x => ⟨x.2, x.1.val, 1, none, false, false⟩) ∧
    (∀ x ∈ listed.bypass, x.1 = 0) := by
  refine ⟨rfl, fun x hx => ?_⟩
  rw [show listed.bypass = [(0, desc [(0, 0x28)])] from rfl, List.mem_singleton] at hx
  rw [hx]
theorem test_meets_no_bypass : layerBypassed 0 5 (put [(bCroft 0, F.LK_ENABLE, 32), (bCroft 0, F.LK_VALID, 32)] owned) = false ∧
    mayRelease 0 { owned with tally := { owned.tally with ops := [⟨0, 5, .expect 2 0, .control⟩] } } = false := by decide +kernel
/-- Partition 0 in timed service, hamlet 0 paced and covered since time 0. -/
def shifting : State := { inService 0 owned with power := { owned.power with paced := [(0, some 0)], covered := [(0, some 0)] }, time := 10000000000 }
theorem test_meets_points_move : ownerOf (bHamlet 0) shifting = some 0 ∧ timed 0 shifting = true ∧
    mapGet (fun _ => none) shifting.power.paced 0 = some 0 ∧ 0 + 1000 * getF bSteward F.SCH_LOWER_US shifting ≤ shifting.time ∧
    mapGet (fun _ => none) (inService 0 owned).power.paced 0 = none ∧ mapGet (fun _ => none) shifting.power.covered 0 = some 0 ∧
    0 + 1000 * getF bSteward F.SCH_RAISE_US shifting ≤ shifting.time ∧ (hamletCrofts 0 shifting).Nodup := by decide +kernel

/-! ### Further clauses: what is under way, what ends, and what is at its bound -/

/-- An orderly stop that began at time 0. -/
def halted (cause now : Nat) : State := { live with power := { live.power with supply := .stopping cause 0 }, time := now }
/-- It ends with the next nanosecond, for either cause, or goes on. -/
theorem test_meets_stop_end : ∀ cause ∈ [(1 : Nat), 4], (halted cause 399999).pending = [] ∧
    (halted cause 399999).power.supply = .stopping cause 0 ∧ 0 + 400000 ≤ (halted cause 399999).time + 1 ∧ PfPlain (halted cause 399999) ∧
    (halted cause 0).time + 1 < 0 + 400000 := by unfold PfPlain; decide +kernel

/-- Croft 0 in timed service, its last committed step 7 with an UPDATE that waits. -/
def committedHeld : State := withCroft (fun k => { k with queue := [waiting (desc [(0, 0x18), (18, 7)])] })
  (put [(bCroft 0, F.COMMITTED_STEP, 7), (bCroft 0, F.SEQ_CTRL_SERVICE, 0)] owned)
theorem test_meets_purge_committed : committedDesc 0 (desc [(0, 0x18), (18, 7)]) committedHeld = true ∧
    (∀ k ∈ (croftOf 0 purgeable).queue, committedDesc 0 k.desc purgeable = false) := by decide +kernel
/-- Its step is to be repeated, no index of it is lost. -/
theorem test_meets_reissue : usesLost 0 [] owned = false ∧ commitWork 0 owned = false := by decide +kernel
/-- The reeve of a dead device starts again, with no lock of its own. -/
def dying : State := { State.reset with power := { State.reset.power with supply := .dead }, reeve := { State.reset.reeve with restart := some 0 } }
theorem test_meets_restart_dead : dying.reeve.restart = some 0 ∧ isDead dying = true ∧
    ∀ b, getF b F.BLK_HOLDER dying = 2 → ∃ e ∈ dying.lockSince, e.1 = b :=
  ⟨rfl, by decide, fun b h => test_meets_lock_restart b h⟩
theorem test_meets_caches_clean : CachesClean live ∧ CachesClean owned := by unfold CachesClean; decide +kernel

/-- A product task whose output is to take effect, an abandoned in-place COPY that has written, and a task with nothing left. -/
def ended (d : Desc) (aband : Bool) (e : Ending) (s : State) : State := withCroft (fun k => { k with
  queue := [{ waiting d with phase := .running, worked := true, abandon := aband }], ending := [e] }) s
def copyEnd (firm : List (Nat × Nat × Nat)) : Ending := ⟨1, none, none, [], firm, 1⟩
theorem test_meets_ending : let d := desc [(0, 0x20)]
    endingOf 0 1 (done (desc [(0, 0x28)])) = none ∧
    (∀ aband : Bool, (completable 0 5 (ended d aband (copyEnd []) owned)).isSome = true ∧
      endingOf 0 1 (ended d aband (copyEnd []) owned) = some (copyEnd [])) ∧
    (completable 0 5 (ended d true (copyEnd [(3, 0, 16)]) owned)).isSome = true ∧
    endingOf 0 1 (ended d true (copyEnd [(3, 0, 16)]) owned) = some (copyEnd [(3, 0, 16)]) ∧ opOut 0 1 (ended d true (copyEnd [(3, 0, 16)]) owned) = false := by
  decide +kernel
/-- The output of a gauze task with FINAL, one live cell, can be written. -/
def gzEnd : Ending := ⟨1, some { gzRun 1 [] [] with c := { engineC with shape := [1, 1, 1, 1] } }, none, [], [], 0⟩
theorem test_meets_ending_gauze : endingOf 0 1 (ended (gzDesc 1) false gzEnd (gzDue 1)) = some gzEnd ∧
    (match endingWork { waiting (gzDesc 1) with phase := .running, worked := true } gzEnd
        (ctxOf 0 { waiting (gzDesc 1) with phase := .running, worked := true } 0) (ended (gzDesc 1) false gzEnd (gzDue 1)) with
      | .ok _ _ => true
      | .error _ _ => false) = true := by decide +kernel
/-- An abandoned task whose addition is on the fabric, and one whose is not. -/
theorem test_meets_abandon_sent : let s := abandoning (desc [(0, 0x28)]) false id
    opOut 0 1 { s with tally := { s.tally with ops := [⟨0, 5, .add 1, .task 0 1⟩] } } = true ∧ opOut 0 1 s = false ∧ contextOf 0 s = some 0 := by
  decide +kernel
/-- The last expect of a STEP, its registers still to be written. -/
theorem test_meets_last_expect :
    let s := updPart 0 (fun q => { q with run := some ⟨5, 0, 1, [], [(5, 4)], false, some 3⟩ }) (operation (.expect 4 0x500) owned)
    let o : TallyOp := ⟨0, 5, .expect 4 0x500, .control⟩
    let t := { s with tally := { s.tally with ops := [o] } }
    bankHead 9 t = some (o, 9) ∧ (partOf 0 t).run.map (fun r => r.plans) = some (some 3) ∧
    (∀ y ∈ t.tally.ops.erase o, y.ctx = 0 → y.kind.isExpect = true → y.src.task?.isSome = true) := by decide +kernel

/-- A raw COPY from tier 1, at its first block: it has named what it reads or has not, and that has come back or has not. -/
def outerDesc : Desc := desc [(0, 0x20), (0x18, 0x4000), (0x20, own 0x4020), (0x28, 64), (0x2D, 4)]
def outerHand (ask : Bool) (l : List Xfer) : State :=
  withCroft (fun k => { k with xfers := l }) (inHand outerDesc { rawRun with asked := ask } owned)
theorem test_meets_asks : workOf 0 opCopy (outerHand false []) = some (runningTask outerDesc, rawRun) ∧
    (match cpPiece outerDesc rawRun (ctxOf 0 (runningTask outerDesc) 0) (outerHand false []) with
      | .ok _ t => (newXfers 0 (outerHand false []) t).any (Xfer.goes 1 false)
      | .error _ _ => false) = true ∧
    readsOut 0 1 (outerHand true [xfer 64 0]) = true ∧ readsOut 0 1 (outerHand true []) = false := by decide +kernel
/-- One in the larder reads nothing outside it. -/
theorem test_meets_asks_nothing :
    (match cpPiece rawDesc rawRun (ctxOf 0 (runningTask rawDesc) 0) (inHand rawDesc rawRun owned) with
      | .ok _ t => (newXfers 0 (inHand rawDesc rawRun owned) t).any (Xfer.goes 1 false)
      | .error _ _ => true) = false := by decide +kernel
/-- A LOOKOUT before its last piece, with and without a lent tile that waits for the looms. -/
theorem test_meets_gives_way : let s := inHand (lkDesc 512) (lkRun 1 0) (lkDue true 512)
    lkGivesWay 0 s = false ∧ lkGivesWay 0 (withCroft (fun k => { k with gz := some (gzRun 1 [⟨0, twillEntry.word⟩] []) }) s) = true := by
  decide +kernel

/-- A transfer of the courier path that ends beyond its bounds. -/
theorem test_meets_courier_bounds : let x := { xfer 64 0 with hi := 0x1020 }
    ¬(x.lo ≤ x.addr ∧ x.addr + x.len ≤ x.hi) ∧ x.courier = true ∧ (findTask 0 x.uid (moving [x] [])).isSome = true := by decide +kernel
/-- A lane under repair: in use and fenced. -/
theorem test_meets_repair_lane : unitNamed 3 0 live = some 2048 ∧ unitFenced 2048 live = false ∧ sliceFree 2048 live = true ∧
    unitFenced 2048 { live with mill := { live.mill with fencedLanes := [0] } } = true ∧ linkOut 2048 (put [(bEdge 0, F.DIE_LINK_COMMONS, 1)] live) = false ∧
    2048 ∉ live.reeve.testing := by decide +kernel
/-- A repeat verdict of the step in progress, and a stop. -/
theorem test_meets_verdict_run : ∀ v ∈ [(2 : Nat), 3],
    let s := updPart 0 (fun q => { q with run := some ⟨0, 0, 1, [], [], false, none⟩ }) (arrived (packet 6 1 v 0 0 (bytesOf 8 0)) id)
    taken 6 false s (fun k s' => epochOk k s' && pkArg0 k % 4 == v) = true ∧ isRoot 0 s = false ∧ (verdictHeld 0 0 0 s).isNone = true ∧
    usesLost 0 [] s = false := by decide +kernel

/-- The commands of a state. -/
def commandedAs (l : List Cmd) (s : State) : State := { s with host := { s.host with cmds := l } }
/-- A completed QUIESCE of VF 0 whose aborted commands have their records; its event ring is on. -/
theorem test_meets_quiesce_record : let c := { cmdOf 1 [(0, 5)] with phase := .done }
    let s := commandedAs [c] translated
    nextRecord 1 s = some c ∧ hostLive s = true ∧ evLive 1 s = true ∧ c.fn ≠ 0 ∧ cOp c.words = 0x05 ∧ c.status = 0 ∧
    nextRecord 1 (commandedAs [c, { c with uid := 2, status := 0x07 }] translated) = some { c with uid := 2, status := 0x07 } ∧
    (putRecord 1 (completionOf c s) s).isSome = true := by decide +kernel
/-- A VF answers; the doorbells of CR ring 13 and EV, and the ends of the MSI-X table. -/
theorem test_meets_bar4 : Answers 1 owned ∧ (0xD000 : BitVec 16).toNat = 0x1000 * (13 : RingId).val ∧
    (∀ x ∈ ([0xF000, 0xF0FC] : List (BitVec 16)), 0xF000 ≤ x.toNat ∧ x.toNat < 0xF100 ∧ x.toNat % 4 = 0) :=
  ⟨⟨by decide +kernel, by decide +kernel⟩, rfl, by simp⟩
/-- MSI-X is on and a vector is not masked; it is off; the vector is masked. -/
theorem test_meets_msix_masked : let m : Msix := ⟨true, false, [(15, 0)], []⟩
    m.on = true ∧ m.holds 3 = false ∧ m.holds 4 = true ∧ (msixOf 0 ringed).on = false := by decide +kernel
/-- A hamlet to assemble, one of whose crofts has no spare. -/
theorem test_meets_index_lost : let s := put [(bHamlet 1, F.HAM_STATE.at 3, 2)] owned
    assembleOk (PartDesc.parse (partBytes 2 0)) [] s = true ∧ 2 ≤ slotState 1 3 s := by decide +kernel
/-- A quiesce that a function reset waits for: drained, and past its time. -/
def resetting (purged : Bool) : State :=
  updPart 0 (fun q => { q with quiesce := some ⟨0, 1, true, 2, purged⟩ }) { owned with time := 100000000 }
theorem test_meets_reset_quiesce : ((partOf 0 (resetting true)).quiesce.all fun q => q.fnReset && q.purged) = true ∧
    partDrained 0 (resetting true) = true ∧ 0 + 100000000 ≤ (resetting false).time ∧ assembled 0 (resetting true) = true ∧
    flag (bFunction 1) F.FP_WEDGED (resetting true) = false := by decide +kernel
/-- An access that ends with the BAR, one that ends beyond it, and a read that is refused. -/
theorem test_meets_bar2_end : (2 ^ 30 - 64) + 64 ≤ bar2Bytes 1 owned ∧ ¬((2 ^ 36 - 1) + 64 ≤ bar2Bytes 1 owned) ∧
    bar2Ok 1 (3 * 2 ^ 36) 64 false owned = false := by decide +kernel
/-- Memory that is offline. -/
theorem test_meets_bar2_offline : let s := put [(bHbm 0, F.HB_FENCED, 1)] owned
    bar2Ok 1 64 2 true s = true ∧ ((cut 32 64 2).any fun y => offline y.1 s || sliceLost (bar2Part 64 s) y.1 s) = true ∧
    poison0 (bar2Part 64 s) 64 2 s = true := by decide +kernel
/-- E0's link lost with the PHY out of reset. -/
theorem test_meets_service_reset : let s := { live with power := { live.power with e0Lost := true, phy := true } }
    s.power.supply = .on ∧ s.power.e0Lost = true ∧ s.power.phy = true ∧ PfPlain s := by unfold PfPlain; decide +kernel

/-- A chunked GET_DIGESTS, HEARTBEAT and message of no code, whole in one chunk; a session to commit. -/
theorem test_meets_chunks : let s := connected { negotiated with session := some 7 }
    (∀ c ∈ ([0x81, 0xE8, 0] : List Byte), leAt ((spdmOf 1 s).chunks.flatten ++ [0x13, c]) 1 1 = c.toNat) ∧ (spdmOf 1 s).algs = true ∧
    (spdmOf 1 s).session = some 7 ∧ ringsOn (bFunction 1) s = false := by decide +kernel
/-- The first and the last record, and a handle beyond; an effecter, and an identifier of none. -/
theorem test_meets_pdrs : (∀ h ∈ [(0 : Nat), 1, pdrs.length], (pdrs[max 1 h - 1]?).isSome = true) ∧
    pdrs.length < (0xFFFF : BitVec 32).toNat ∧ (∀ e ∈ effecters live, (0xFFF0 : BitVec 16).toNat ≠ e.1) ∧
    (0x0101, getF bWell F.WELL_CAP_W live) ∈ effecters live := by decide +kernel
/-- A device with no image in its slots. -/
def noImages : State := updFw (fun f => { f with slots := imageCodes.flatMap fun i => [(2 * i, none), (2 * i + 1, none)] }) live
/-- The reeve starts again: with no image, and with images whose signatures verify. -/
theorem test_meets_restart_none : (chooseSet noImages).1 = false := by decide +kernel
theorem test_meets_restart_images (h : ∀ k d r s, Config.verify k d r s = true) : (chooseSet (imaged 0 live)).1 = true := by
  have set (i : Nat) (hi : i ∈ imageCodes) :
      failedCheck i 0 (some [0, 0, 0, 0, 0, 0]) (setF bReeve F.RV_ROLLED_BACK 0 (imaged 0 live)) = none := by
    simp only [imageCodes, List.mem_cons, List.not_mem_nil, or_false] at hi
    rcases hi with rfl | rfl | rfl | rfl | rfl | rfl <;> simp only [failedCheck, verified, h] <;> decide +kernel
  have rom : failedCheck 1 0 none (setF bReeve F.RV_ROLLED_BACK 0 (imaged 0 live)) = none := by
    simp only [failedCheck, verified, h]
    decide +kernel
  have sel : (setF bReeve F.RV_ROLLED_BACK 0 (imaged 0 live)).reeve.fw.selected = [0, 0, 0, 0, 0, 0] := rfl
  have all : validateSet [0, 0, 0, 0, 0, 0] (setF bReeve F.RV_ROLLED_BACK 0 (imaged 0 live)) =
      (true, setF bReeve F.RV_ROLLED_BACK 0 (imaged 0 live)) := by
    have z (i : Nat) (hi : i ∈ imageCodes) : byImage [0, 0, 0, 0, 0, 0] i = 0 := by
      simp only [imageCodes, List.mem_cons, List.not_mem_nil, or_false] at hi
      rcases hi with rfl | rfl | rfl | rfl | rfl | rfl <;> rfl
    simp only [validateSet, imageCodes, List.foldl, z 1 (by decide), z 2 (by decide), z 3 (by decide), z 4 (by decide), z 5 (by decide),
      z 6 (by decide), set 1 (by decide), set 2 (by decide), set 3 (by decide), set 4 (by decide), set 5 (by decide), set 6 (by decide)]
  have one : byImage [0, 0, 0, 0, 0, 0] 1 = 0 := rfl
  simp only [chooseSet, romChoice, sel, one, rom, all]
  rfl
/-- The reeve restarts. -/
def restarting (s : State) : State := { s with reeve := { s.reeve with restart := some 0 } }

/-- The bus above 66 V, and a stop under way. -/
theorem test_meets_surge_stop : (66000 : Nat) < 66001 ∧ (halted 1 0).power.supply = .stopping 1 0 := by decide +kernel
/-- The three episodes run and end. -/
theorem test_meets_episodes :
    let s := { live with power := { live.power with sag := some ⟨47000, 0⟩, under := some ⟨39000, 0⟩, surge := some ⟨61000, 0⟩, good := some 0 } }
    s.power.sag = some ⟨47000, 0⟩ ∧ s.power.under = some ⟨39000, 0⟩ ∧ s.power.surge = some ⟨61000, 0⟩ ∧ live.power.sag = none ∧
    live.power.under = none ∧ live.power.surge = none := by decide +kernel
/-- No reading, and readings below and above 0 °C. -/
theorem test_meets_hottest : ∀ m ∈ ([[], [(0, 0xF6), (2135, 90)]] : List (SMap Nat)), mapWf (fun _ => 0) m = true ∧
    ∀ e ∈ m, e.1 < 2136 ∧ e.2 < 256 := by decide +kernel
/-- A prediction, and none. -/
theorem test_meets_forecast : mapGet (fun _ => none) { live.power with forecast := [(0, some ⟨40, 12000⟩)] }.forecast 0 = some ⟨40, 12000⟩ ∧
    mapGet (fun _ => none) live.power.forecast 0 = none := by decide +kernel
/-- The reeve restarts, or the rails are off, while the sensor is due. -/
theorem test_meets_coolant_restart : (restarting live).reeve.restart ≠ none ∧ dark.power.supply ≠ .on := by decide +kernel
/-- The four monitors of croft 607 have readings and baselines. -/
theorem test_meets_delays : let l := List.replicate 2432 (1000 : Nat)
    (∀ m < 4, (l[4 * 607 + m]?).isSome) ∧ ∀ m < 4, 0 < nth l (4 * 607 + m) := by decide +kernel
/-- A croft of a hamlet stands above the point it is to be lowered to, and none does. -/
theorem test_meets_lowered : (∃ c ∈ hamletCrofts 0 (put [(bCroft 0, F.CP_CTRL_POINT_REQ, 5)] shifting),
      3 < getF (bCroft c) F.CP_CTRL_POINT_REQ (put [(bCroft 0, F.CP_CTRL_POINT_REQ, 5)] shifting)) ∧
    (∀ c ∈ hamletCrofts 0 shifting, getF (bCroft c) F.CP_CTRL_POINT_REQ shifting ≤ 7) := by decide +kernel

/-! ### What WellFormed refuses -/

def refusesForm (i : Instr) : Bool := match exec i State.reset with | .refused r => r == .illFormed | _ => false
theorem test_empty_write_refused : refusesForm (.registerWrite .control (.bar0 0x40) []) = true := by decide +kernel
theorem test_long_write_refused : refusesForm (.registerWrite .control (.bar0 0x40) (List.replicate 513 0)) = true := by decide +kernel
theorem test_bar2_empty_refused : refusesForm (.bar2Access 0 0 (.read 0)) = true ∧ refusesForm (.bar2Access 0 0 (.write [])) = true := by
  decide +kernel
theorem test_bar2_long_refused : refusesForm (.bar2Access 0 0 (.read 4097)) = true ∧
    refusesForm (.bar2Access 0 0 (.write (List.replicate 513 0))) = true := by decide +kernel

/-! ### Results that the spec's own examples give -/

/-- 02 R54, worked example: the first 32 bytes and the columns of the example tile. -/
def exampleTile : List Byte :=
  gauzeHead { emptyBolt with fmt := 5, flags := 3, rank := 2, tag := 0xA21, shape := [1024, 1024, 1, 1] } 31 3 [261, 356, 1152, 8269, 16383]
theorem test_gauze_header : exampleTile.take 32 = [0x47, 0x5A, 1, 5, 5, 0, 1, 0, 0x27, 1, 0x2C, 1, 0x2D, 1, 3, 0, 0x21, 0x0A, 0, 0, 3, 0, 7, 0,
    2, 0, 0x7C, 0, 0, 0, 0, 0] ∧ exampleTile.drop 290 = [5, 100, 0, 77, 127] := by decide +kernel

/-- 06, worked example: 3.0E38 folded onto 2.0E38 gives +∞ and the mark; +∞ is written to BF16 as 0x7F7F. -/
theorem test_overflowed_cell : foldCell ⟨0x7F167699, 0⟩ ⟨0x7F61B1E6, false⟩ = ⟨0x7F800000, markPat⟩ ∧
    (convert 1 (.inf false) .near).code = 0x7F7F := by decide +kernel

/-- 06 R200, worked example: two MXFP8-E5M2 blocks and the elements of the first. -/
theorem test_block_scale : blockScale 6 [.fin false 77 (-8)] = 0x6E ∧ blockScale 6 [.fin false 15 (-1)] = 0x73 := by decide +kernel
theorem test_stochastic_elements : (convert 6 (.fin false 77 9) (.draw 0x9C40)).code = 0x79 ∧
    (convert 6 (.fin false 77 9) (.draw 0x2000)).code = 0x78 ∧ (convert 6 (.fin true 7 7) (.draw 0)).code = 0xE3 ∧
    (convert 6 (.fin true 3 (-18)) (.draw 0x1234)).code = 0 := by decide +kernel

/-- 09, worked example: the test vector of the spindle and the draw of element 30. -/
theorem test_spindle_vector : spindle 0x2A 0x00030001 0 5 0xA21 = ⟨0xB2C7CDA5, 0x13CF283E, 0xC9DF078E, 0x1E7E0C4B⟩ ∧
    draw16 1 0x2A 0xA21 5 30 = 0x0C4B := by decide +kernel

/-- 09 R301, worked example: one entry, whose weight is written as 0x3EFF by the draw 0x0C4B and its first moment as 0x3BB0. -/
def exampleRun : UpRun := ⟨emptyBolt, emptyBolt, emptyBolt, emptyBolt, none,
  ⟨0, false, false, 0, .fin false 1 (-7), .fin false 7 (-3), .fin false 1 (-3), .fin false 63 (-6), .fin false 1 (-6), .fin false 1 (-50),
    .fin false 1 (-4), .fin false 1 (-1), .fin false 0 0, 0, 0, 0⟩, .fin false 1 (-10), .fin false 1 0, .fin false 1 0, 0, ⟨0x2A, 5, true⟩⟩
theorem test_update_entry : (upEntry exampleRun (.fin false 1 (-1)) (.fin false 1 (-8)) (.fin false 1 (-12)) (.fin false 1 (-5))).map
    (fun o => ((convert 1 o.x (.draw 0x0C4B)).code, (convert 1 o.m1 .near).code, (upStepOf (.fin false 1 (-1)) o.d).1)) =
      some (0x3EFF, 0x3BB0, false) := by decide +kernel

/-- 10 R320, worked example: pseudo-channel, row and bank of two tier-1 blocks. -/
theorem test_tier1_address : pcOf 0xE000123500 = 60 ∧ rowOf 0xE000123500 = 1 ∧ bankOf 0xE000123500 = 3 ∧ pcOf 0xE000123600 = 63 := by
  decide +kernel

/-- 13 R439, worked example in small: 0.75 first, then of two ties the one with the lower position; the list ascends. -/
theorem test_thinning : (stSelect 2 [(8310, .fin false 3 (-2)), (8500, .fin false 1 (-1)), (9001, .fin true 1 (-1)), (9002, .fin false 0 0)]).map
    Prod.fst = [8310, 8500] := by decide +kernel

/-- 13 R417: the CRC of the nine digits, as CRC-32C's definition gives it. -/
theorem test_crc : crcOf [0x31, 0x32, 0x33, 0x34, 0x35, 0x36, 0x37, 0x38, 0x39] = 0xE3069283 := by decide +kernel

/-- 14 R462, worked example: the second parity row of 0x11, 0x22, 0x33, 0x44; and 14 R481: the coefficients of both targets. -/
theorem test_parity_row : gfMul 2 0x22 = 0x44 ∧ gfMul 4 0x33 = 0xCC ∧ gfMul 8 0x44 = 0x1A ∧ gfInv 3 = 0xF4 := by decide +kernel
def group (m lost : Nat) : ParGroup := ⟨1, m, 0, 0, [], 0, 256, 0, [], [], 0, lost, 0, 0, false⟩
theorem test_rebuild_coefficients : ([4, 5, 2, 3].map fun i => rebuildCoeff { group 2 3 with k := 4, mine := i, target := 0 }) =
      [some 0xF5, some 0xF4, some 2, some 6] := by decide +kernel
theorem test_rebuild_coefficients_second :
    ([4, 5, 2, 3].map fun i => rebuildCoeff { group 2 3 with k := 4, mine := i, target := 1 }) = [some 0xF4, some 0xF4, some 3, some 7] := by
  decide +kernel

/-- 14 R479, worked example: after 100 hours and 20 failures M is 19,800 s and T_S is 314 s. -/
def failing : State := { put [(bMill, F.ML_PAR_W.at 0, 4), (bMill, F.ML_PAR_M0_H.at 0, 8), (bMill, F.ML_PAR_C_MS.at 0, 2500),
  (bMill, F.ML_PAR_T_MIN_S.at 0, 60), (bMill, F.ML_PAR_T_MAX_S.at 0, 3600), (bMill, F.ML_PAR_ENABLE.at 0, 1),
  (bMill, F.ML_PAR_FAILURES.at 0, 19)] live with time := 360000 * 10 ^ 9 }
theorem test_interval : (match exec (.failAdd .control 0) failing with
    | .next t => (mlF F.ML_PAR_FAILURES 0 t, mlF F.ML_PAR_M_S 0 t, mlF F.ML_PAR_T_S 0 t)
    | _ => (0, 0, 0)) = (20, 19800, 314) := by decide +kernel

/-- 17 R588, worked example: versions 3.2, 4.0, 4.0, 2.2, 1.4, 1.1 agree, and 3.2 in the place of STEWARD_DSP's 4.0 does not. -/
def release (i version : Nat) (needs : List Nat) : ImgSlot :=
  ⟨BitVec.ofNat 2048 (version * 2 ^ 96 + natOf ((needs.map (bytesOf 4)).flatten) * 2 ^ 256 + i), []⟩
def released (dsp : ImgSlot) : State := updFw (fun f => { f with slots := [(2, some (release 1 0x03020000 [0, 0, 0x03000000])),
  (4, some (release 2 0x04000000 [0, 0, 0, 0x04000000, 0x02020000])), (6, some dsp), (8, some (release 4 0x02020000 [0, 0, 0x03000000])),
  (10, some (release 5 0x01040000 [0, 0, 0, 0, 0x02000000])), (12, some (release 6 0x01010000 []))] }) live
theorem test_compatible : compatible [0, 0, 0, 0, 0, 0] (released (release 3 0x04000000 [0, 0, 0x04000000])) = true ∧
    compatible [0, 0, 0, 0, 0, 0] (released (release 3 0x03020000 [])) = false := by decide +kernel

/-- 18 R604 to R608, worked example: the pages around croft 521 and Verar port V9. -/
theorem test_pages : pageAt 0x105D044 live = some (bCroft (38 * 14 + 17)) ∧ pageAt 0x1070000 live = some (bCroft (38 * 14 + 36)) ∧
    pageAt 0x10A2000 live = some (bHamlet 14) ∧ pageAt 0x10B2000 live = some (bHbm 14) ∧ pageAt 0x1611000 live = some (bPort 9) := by
  decide +kernel

end Sys2Proof.Tests
end

section
/-!
The accumulator slots of the engines (04 R133, 05 R168) and the kept rates (11 R353): what a write of a trigger field of a
croft page does, what freeing slots does to memory, and the reissue of a step after a repeat verdict (12 R403).
-/
namespace Sys2Proof.Machine
open Sys2Proof.Claims

/-! ### Bit fields and words written back -/

theorem setBits_of_bits_eq {lo w v n : Nat} (h : v % 2 ^ w = bits lo w n) : setBits lo w v n = n := by
  have hle : bits lo w n * 2 ^ lo ≤ n :=
    (Nat.mul_le_mul_right _ (Nat.mod_le _ _)).trans (Nat.div_mul_le_self n (2 ^ lo))
  rw [setBits, h, Nat.sub_add_cancel hle]

/-- A field that the mask of a write does not cover keeps its value, whatever its access type. -/
theorem writeField_uncovered {w : Wr} {f : Field} (h : bits f.lo f.width w.m = 0) (x : Nat) : writeField w f x = x := by
  have hx : bits f.lo f.width x < 2 ^ f.width := Nat.mod_lt _ (Nat.two_pow_pos _)
  have keep : setBits f.lo f.width (bits f.lo f.width x) x = x := setBits_of_bits_eq (Nat.mod_eq_of_lt hx)
  have ones : bits f.lo f.width x &&& (2 ^ f.width - 1) = bits f.lo f.width x := by
    rw [Nat.and_two_pow_sub_one_eq_mod, Nat.mod_eq_of_lt hx]
  unfold writeField
  cases f.acc <;> simp [h, ones, keep]

/-- A write-only field stores nothing. -/
theorem writeField_wo {w : Wr} {f : Field} (h : f.acc = .wo) (x : Nat) : writeField w f x = x := by
  simp [writeField, h]

/-- A write whose mask covers write-only fields alone leaves the word of its register. -/
theorem wordAfter_eq_wordBefore {w : Wr} (h : ∀ f ∈ fieldsAt w.b w.off, f.acc = .wo ∨ bits f.lo f.width w.m = 0)
    (s : State) : wordAfter w s = wordBefore w s := by
  unfold wordAfter
  generalize wordBefore w s = x
  revert h
  induction fieldsAt w.b w.off with
  | nil => exact fun _ => rfl
  | cons f fs ih =>
    intro h
    have hf : writeField w f x = x := (h f (by simp)).elim (writeField_wo · x) (writeField_uncovered · x)
    rw [List.foldl_cons, hf, ih fun g hg => h g (by simp [hg])]

/-- The state with a register's word stored anew: no register reads differently. -/
def rewriteW (b off : Nat) (s : State) : State := setW b off (getW b off s) s

theorem mapGet_rewriteW (b off k : Nat) (s : State) :
    mapGet resetWord (rewriteW b off s).regs k = mapGet resetWord s.regs k := by
  unfold rewriteW setW
  rw [mapGet_mapPut]
  split
  · next h => rw [h, getW]
  · rfl

@[simp] theorem getF_rewriteW (b off b' : Nat) (f : Field) (s : State) : getF b' f (rewriteW b off s) = getF b' f s := by
  rw [getF, getW, mapGet_rewriteW]
  rfl

@[simp] theorem runningOf_rewriteW (b off c u : Nat) (s : State) : runningOf c u (rewriteW b off s) = runningOf c u s := rfl

theorem onlyRegs_rewriteW (b off : Nat) (s : State) : OnlyRegs [] s (rewriteW b off s) :=
  ⟨rfl, fun k _ => ⟨mapGet_rewriteW b off k s, rfl⟩⟩

/-! ### The page of a croft -/

theorem physOf_lt (x : SlotId) (s : State) : physOf x.h.val x.s.val s < 608 := by
  have := x.h.isLt
  unfold physOf
  omega

theorem kindOf_bCroft {c : Nat} (h : c < 608) : kindOf (bCroft c) = .croft := by
  unfold bCroft kindOf
  repeat rw [if_neg (by omega)]
  rw [if_pos (by omega)]

/-- The fields of a croft register behind the common header. -/
def croftFieldsAt (off : Nat) : List Field := fieldsCroft.filter (·.within off)

theorem fieldsAt_bCroft {c off : Nat} (hc : c < 608) (ho : 0x40 ≤ off) : fieldsAt (bCroft c) off = croftFieldsAt off := by
  have hb : bCroft c ≠ 16 := by unfold bCroft; omega
  simp [fieldsAt, hb, Nat.not_lt.2 ho, kindOf_bCroft hc, fieldsOf, croftFieldsAt]

/-- The croft registers, of those the steward writes, for which no rule tests the written value or the partition's state, and
which are no half of a 64-bit pair. -/
def plainOff (off : Nat) : Prop :=
  0x40 < off ∧ off < 0x480 ∧ ¬ (0x210 ≤ off ∧ off < 0x250) ∧ ¬ (0x340 ≤ off ∧ off < 0x350) ∧
    off ∉ [0x48, 0x4C, 0x108, 0x10C, 0x188, 0x18C, 0x204, 0x280, 0x308, 0x408]

/-- A write-only field of such a register, which sets something off when 1 is written to it. -/
structure Trigger (f : Field) : Prop where
  writeOnly : f.acc = .wo
  listed : f ∈ croftFieldsAt f.off
  covered : bits f.lo f.width (fieldMask f) ≠ 0
  alone : ∀ g ∈ croftFieldsAt f.off, g = f ∨ bits g.lo g.width (fieldMask f) = 0
  defined : 2 ^ f.lo &&& fieldMask f &&& reservedBits (croftFieldsAt f.off) = 0
  plain : plainOff f.off

theorem trigger_GZ_CTRL_ACC_CLEAR : Trigger F.GZ_CTRL_ACC_CLEAR :=
  ⟨rfl, by decide, by decide, by decide, by decide, by unfold plainOff; decide⟩

theorem trigger_LM_CTRL_ACC_CLEAR : Trigger F.LM_CTRL_ACC_CLEAR :=
  ⟨rfl, by decide, by decide, by decide, by decide, by unfold plainOff; decide⟩

theorem trigger_SH_CTRL_CLEAR_RATES : Trigger F.SH_CTRL_CLEAR_RATES :=
  ⟨rfl, by decide, by decide, by decide, by decide, by unfold plainOff; decide⟩

/-- The write of 1 to a field of a croft page. -/
def triggerWrite (who : Requester) (c : Nat) (f : Field) : Wr := ⟨who, bCroft c, f.off, 1 * 2 ^ f.lo, fieldMask f⟩

@[simp] theorem triggerWrite_who (who : Requester) (c : Nat) (f : Field) : (triggerWrite who c f).who = who := rfl
@[simp] theorem triggerWrite_b (who : Requester) (c : Nat) (f : Field) : (triggerWrite who c f).b = bCroft c := rfl
@[simp] theorem triggerWrite_off (who : Requester) (c : Nat) (f : Field) : (triggerWrite who c f).off = f.off := rfl
@[simp] theorem triggerWrite_v (who : Requester) (c : Nat) (f : Field) : (triggerWrite who c f).v = 2 ^ f.lo :=
  Nat.one_mul _
@[simp] theorem triggerWrite_m (who : Requester) (c : Nat) (f : Field) : (triggerWrite who c f).m = fieldMask f := rfl

section
variable {who : Requester} {c : Nat} {f : Field} {s : State}

theorem liveFor_of_steward (hw : steward who) (hr : Reaches who (bCroft c) s) : liveFor who s = true := by
  rcases hw with rfl | rfl <;> simpa [liveFor, Reaches] using hr

theorem lockedOut_eq_false (hw : steward who) (hn : NotLocked who (bCroft c) s) :
    lockedOut (triggerWrite who c f) s = false := by
  rcases hn with h | ⟨rfl, h⟩ | ⟨rfl, -⟩ | ⟨⟨_, rfl⟩, -⟩
  · simp [lockedOut, h]
  · simp [lockedOut, lockCode, h]
  · simp [steward] at hw
  · simp [steward] at hw

/-- A requester past the fence is not stopped by it. -/
theorem fence_passed (hf : PastFence who (bCroft c) s) :
    (fenced (bCroft c) s && !(triggerWrite who c f).keeper) = false := by
  rcases hf with h | rfl | rfl
  · simp [h]
  · simp [Wr.keeper]
  · simp [Wr.keeper]

theorem mayWrite_of_steward (hc : c < 608) (ht : Trigger f) (hw : steward who) :
    mayWrite (triggerWrite who c f) = true := by
  obtain ⟨hlo, hhi, -⟩ := ht.plain
  have hp : f.off ≠ F.BLK_PART.off := by simp [F.BLK_PART]; omega
  have hst : (triggerWrite who c f).steward = true := by rcases hw with rfl | rfl <;> rfl
  simp [mayWrite, kindOf_bCroft hc, hp, hhi, Nat.not_lt.2 hlo.le, hst]

theorem barred_eq_false (hc : c < 608) (ht : Trigger f) (t : State) : barred (triggerWrite who c f) t s = false := by
  have h40 : f.off ≠ 0x40 := ht.plain.1.ne'
  simp [barred, kindOf_bCroft hc, h40]

theorem valueOk_of_plain (hc : c < 608) (ht : Trigger f) (t : State) : valueOk (triggerWrite who c f) t = true := by
  obtain ⟨-, hhi, -, -, hl⟩ := ht.plain
  have hh : f.off ≠ 0x480 := hhi.ne
  simp only [List.mem_cons, not_or] at hl
  simp [valueOk, kindOf_bCroft hc, croftValueOk, hl, coversOk, Wr.hits, F.CP_CTRL_HUM_FLOOR, hh.symm]

theorem regsQuiet_of_plain (hc : c < 608) (ht : Trigger f) : regsQuiet (triggerWrite who c f) s = true := by
  obtain ⟨hlo, -, ha, hb, hl⟩ := ht.plain
  simp only [List.mem_cons, not_or] at hl
  have hr : ruledWrite (triggerWrite who c f) s = false := by
    simp [ruledWrite, triggerWrite, hlo.ne', hl, decide_eq_false ha, decide_eq_false hb]
  have hs : stopWrite (triggerWrite who c f) = false := by simp [stopWrite, hlo.ne']
  have hk : kindOf (triggerWrite who c f).b = .croft := kindOf_bCroft hc
  simp only [regsQuiet, hk, hr, hs]
  split <;> rfl

theorem spread_of_plain (ht : Trigger f) (t : State) : spread (triggerWrite who c f) t = t := by
  obtain ⟨-, -, ha, hb, -⟩ := ht.plain
  have h : alike (triggerWrite who c f) = false := by simp [alike, triggerWrite, decide_eq_false ha, decide_eq_false hb]
  simp [spread, h]

theorem loHalf_bCroft (hc : c < 608) (off : Nat) :
    loHalf (bCroft c) off = (off == 0x48 || off == 0x340 || off == 0x348) := by
  simp [loHalf, kindOf_bCroft hc]

theorem candidate_trigger (hc : c < 608) (ht : Trigger f) :
    candidate (triggerWrite who c f) s = rewriteW (bCroft c) f.off s := by
  obtain ⟨hlo, -, -, hb, hl⟩ := ht.plain
  simp only [List.mem_cons, not_or] at hl
  have h1 : loHalf (bCroft c) f.off = false := by
    simp only [loHalf_bCroft hc, Bool.or_eq_false_iff, beq_eq_false_iff_ne]
    omega
  have h2 : loHalf (bCroft c) (f.off - 4) = false := by
    simp only [loHalf_bCroft hc, Bool.or_eq_false_iff, beq_eq_false_iff_ne]
    omega
  have hk : hookOnly (triggerWrite who c f) = false := by
    have hb : bCroft c ≠ bTally := by unfold bCroft bTally; omega
    simp [hookOnly, kindOf_bCroft hc, hb]
  have hw : wordAfter (triggerWrite who c f) s = (getW (bCroft c) f.off s).toNat := by
    rw [wordAfter_eq_wordBefore]
    · have hb : bCroft c ≠ bTally := by unfold bCroft bTally; omega
      simp [wordBefore, hb, h1]
    · intro g hg
      rw [triggerWrite_b, triggerWrite_off, fieldsAt_bCroft hc hlo.le] at hg
      exact (ht.alone g hg).imp (fun e => by rw [e, ht.writeOnly]) id
  unfold candidate placeWord
  rw [hk, hw]
  simp [h1, h2, rewriteW]

theorem fateOf_trigger (hc : c < 608) (ht : Trigger f) (hw : steward who) (hu : Unlocked who (bCroft c) s) :
    fateOf (triggerWrite who c f) s = .act := by
  have hfs : fieldsAt (bCroft c) f.off = croftFieldsAt f.off := fieldsAt_bCroft hc ht.plain.1.le
  have hsp : ((croftFieldsAt f.off).any fun g => g.acc == .sp && bits g.lo g.width (fieldMask f) != 0) = false := by
    rw [List.any_eq_false]
    intro g hg
    rcases ht.alone g hg with rfl | h
    · simp [ht.writeOnly]
    · simp [h]
  have hne : (croftFieldsAt f.off).isEmpty = false := by
    rw [List.isEmpty_eq_false_iff]
    exact List.ne_nil_of_mem ht.listed
  have hrw : ((croftFieldsAt f.off).any fun g => g.acc != .ro && bits g.lo g.width (fieldMask f) != 0) = true :=
    List.any_eq_true.2 ⟨f, ht.listed, by simp [ht.writeOnly, ht.covered]⟩
  have hfence := fence_passed (f := f) hu.2
  unfold fateOf
  simp only [triggerWrite_who, triggerWrite_b, triggerWrite_off, triggerWrite_m, hfs, hsp, hne, hrw, hfence,
    lockedOut_eq_false hw hu.1, mayWrite_of_steward hc ht hw, barred_eq_false hc ht, valueOk_of_plain hc ht]
  simp

/-- The write of 1 to a trigger by either core of the steward: the register's word is as before, and what the field sets off
happens. -/
theorem fieldWrite_trigger (hc : c < 608) (ht : Trigger f) (hw : steward who) (hr : Reaches who (bCroft c) s)
    (hu : Unlocked who (bCroft c) s) :
    fieldWrite who (bCroft c) f 1 s = onCroft (triggerWrite who c f) (rewriteW (bCroft c) f.off s) := by
  obtain ⟨hlo, -⟩ := ht.plain
  have hown : ownPage (triggerWrite who c f) = true := by rcases hw with rfl | rfl <;> rfl
  have hres : countReserved (triggerWrite who c f) s = s := by
    unfold countReserved
    simp [fieldsAt_bCroft hc hlo.le, ht.defined]
  have hlock : f.off ≠ F.BLK_HOLDER.off := by simp [F.BLK_HOLDER]; omega
  have hcf : f.off ≠ F.BLK_CLEAR_FAULT.off := by simp [F.BLK_CLEAR_FAULT]; omega
  have hon (t : State) : onWrite (triggerWrite who c f) s t = onCroft (triggerWrite who c f) t := by
    simp [onWrite, hcf, Nat.not_lt.2 hlo.le, kindOf_bCroft hc]
  calc fieldWrite who (bCroft c) f 1 s
      = byFate (triggerWrite who c f) s .act := by
        rw [show fieldWrite who (bCroft c) f 1 s = regWrite (triggerWrite who c f) s from rfl, regWrite,
          triggerWrite_who, liveFor_of_steward hw hr, hown, hres]
        simp [fateOf_trigger hc ht hw hu, hlock]
    _ = onCroft (triggerWrite who c f) (rewriteW (bCroft c) f.off s) := by
        simp [byFate, regsQuiet_of_plain hc ht, spread_of_plain ht, hon, candidate_trigger hc ht]

end

/-! ### What the three triggers set off -/

theorem onCroft_gzAccClear (who : Requester) (c : Nat) (s : State) :
    onCroft (triggerWrite who c F.GZ_CTRL_ACC_CLEAR) s = accClear (triggerWrite who c F.GZ_CTRL_ACC_CLEAR) 0 s := by
  simp [onCroft, onOne, Wr.one, Wr.get, bits, fieldMask, F.GZ_CTRL_ACC_CLEAR, F.GZ_CTRL_CLEAR_COUNTS, F.GZ_CTRL_CLEAR_FAULT]

theorem onCroft_lmAccClear (who : Requester) (c : Nat) (s : State) :
    onCroft (triggerWrite who c F.LM_CTRL_ACC_CLEAR) s = accClear (triggerWrite who c F.LM_CTRL_ACC_CLEAR) 1 s := by
  simp [onCroft, onOne, Wr.one, Wr.get, bits, fieldMask, F.LM_CTRL_ACC_CLEAR, F.LM_CTRL_CLEAR_COUNTS]

theorem onCroft_clearRates (who : Requester) (c : Nat) (s : State) :
    onCroft (triggerWrite who c F.SH_CTRL_CLEAR_RATES) s = updCroft c (fun k => { k with rates := [] }) s := by
  simp [onCroft, onOne, Wr.one, Wr.get, bits, fieldMask, F.SH_CTRL_CLEAR_RATES, F.SH_CTRL_CLEAR_COUNTS, bCroft]

/-- ACC_CLEAR while no task of the engine runs. -/
theorem accClear_idle {who : Requester} {c u : Nat} {f : Field} {s : State} (h : runningOf c u s = none) :
    accClear (triggerWrite who c f) u s = releaseSlots c (if u = 0 then gzSlots c s else lmSlots c s) s := by
  have hb : (triggerWrite who c f).b - 32 = c := by simp [bCroft]
  simp only [accClear, hb, h]
  rfl

/-! ### Freeing slots -/

/-- The validity byte of a slot is the first of its header. -/
theorem leAt_slotHeader (c : Nat) (g : SlotRegion) (i : Nat) (s : State) :
    leAt (slotHeader c g i s) 0 1 = (rd (plLarder c (g.at i)) s).toNat := rfl

/-- No slot of a region is valid: each validity byte is 0. -/
def Freed (c : Nat) (g : SlotRegion) (s : State) : Prop := ∀ i < g.n, rd (plLarder c (g.at i)) s = 0

theorem Freed.slotsValid {c : Nat} {g : SlotRegion} {s : State} (h : Freed c g s) : slotsValid c g s = 0 := by
  unfold Machine.slotsValid
  rw [List.length_eq_zero_iff, List.filter_eq_nil_iff]
  intro i hi
  simp [leAt_slotHeader, h i (List.mem_range.1 hi)]

/-- `t` is `s` but for bytes of memory that are 0 in `t`. -/
def Zeroes (s t : State) : Prop := t = { s with mem := t.mem } ∧ ∀ q, rd q t = rd q s ∨ rd q t = 0

theorem Zeroes.refl (s : State) : Zeroes s s := ⟨rfl, fun _ => .inl rfl⟩

theorem Zeroes.trans {r s t : State} (h : Zeroes r s) (k : Zeroes s t) : Zeroes r t := by
  refine ⟨?_, fun q => ?_⟩
  · rw [k.1, h.1]
  · rcases k.2 q with e | e
    · rw [e]; exact h.2 q
    · exact .inr e

theorem Zeroes.freed {s t : State} {c : Nat} {g : SlotRegion} (h : Zeroes s t) (hf : Freed c g s) : Freed c g t :=
  fun i hi => (h.2 _).elim (fun e => e.trans (hf i hi)) id

theorem Zeroes.gzSlots {s t : State} (h : Zeroes s t) (c : Nat) : gzSlots c t = gzSlots c s := by rw [h.1]; rfl
theorem Zeroes.lmSlots {s t : State} (h : Zeroes s t) (c : Nat) : lmSlots c t = lmSlots c s := by rw [h.1]; rfl

theorem rd_releaseSlot (c : Nat) (g : SlotRegion) (i q : Nat) (s : State) :
    rd q (releaseSlot c g i s) = if q = plLarder c (g.at i) then 0 else rd q s := by
  show rd q (wr (plLarder c (g.at i)) 0 s) = _
  split
  · next h => rw [h, rd_wr_same]
  · next h => exact rd_wr_other h 0 s

theorem zeroes_releaseSlot (c : Nat) (g : SlotRegion) (i : Nat) (s : State) : Zeroes s (releaseSlot c g i s) := by
  refine ⟨rfl, fun q => ?_⟩
  rw [rd_releaseSlot]
  split
  · exact .inr rfl
  · exact .inl rfl

theorem Zeroes.foldl {α : Type} {f : State → α → State} (hf : ∀ s a, Zeroes s (f s a)) (l : List α) (s : State) :
    Zeroes s (l.foldl f s) := by
  induction l generalizing s with
  | nil => exact Zeroes.refl s
  | cons a l ih => exact (hf s a).trans (ih (f s a))

theorem zeroes_releaseSlots (c : Nat) (g : SlotRegion) (s : State) : Zeroes s (releaseSlots c g s) :=
  Zeroes.foldl (fun s i => zeroes_releaseSlot c g i s) _ s

theorem rd_foldl_releaseSlot (c : Nat) (g : SlotRegion) (q : Nat) (l : List Nat) (s : State) :
    rd q (l.foldl (fun t i => releaseSlot c g i t) s) = if ∃ i ∈ l, q = plLarder c (g.at i) then 0 else rd q s := by
  induction l generalizing s with
  | nil => simp
  | cons i l ih =>
    rw [List.foldl_cons, ih, rd_releaseSlot]
    by_cases hi : q = plLarder c (g.at i) <;> simp [hi]

/-- Freeing a region's slots sets their validity bytes to 0 and leaves every other byte. -/
theorem rd_releaseSlots (c : Nat) (g : SlotRegion) (q : Nat) (s : State) :
    rd q (releaseSlots c g s) = if ∃ i < g.n, q = plLarder c (g.at i) then 0 else rd q s := by
  simp [releaseSlots, rd_foldl_releaseSlot]

theorem freed_releaseSlots (c : Nat) (g : SlotRegion) (s : State) : Freed c g (releaseSlots c g s) := fun i hi => by
  rw [rd_releaseSlots, if_pos ⟨i, hi, rfl⟩]

theorem frees_releaseSlots (c : Nat) (g : SlotRegion) (s : State) : Frees c g s (releaseSlots c g s) := by
  refine ⟨(freed_releaseSlots c g s).slotsValid, fun q hq => ?_⟩
  rw [rd_releaseSlots, if_neg]
  rintro ⟨i, hi, rfl⟩
  exact hq i hi rfl

/-! ### ACC_CLEAR and CLEAR_RATES -/

/-- Slots freed in a state that differs from `s` by a register's word stored anew. -/
theorem frees_releaseSlots_rewriteW (c : Nat) (g : SlotRegion) (b off : Nat) (s : State) :
    Frees c g s (releaseSlots c g (rewriteW b off s)) ∧
      OnlyRegs [] s { releaseSlots c g (rewriteW b off s) with mem := s.mem } := by
  refine ⟨frees_releaseSlots c g (rewriteW b off s), ?_⟩
  rw [(zeroes_releaseSlots c g (rewriteW b off s)).1]
  exact onlyRegs_rewriteW b off s

section
variable {x : SlotId} {who : Requester} {s : State} (hw : steward who) (hr : Reaches who (page x s) s)
  (hu : Unlocked who (page x s) s)
include hw hr hu

/-- GZ_ACC_CLEAR while no gauze task runs (04 R133). -/
theorem exec_gzAccClear_idle (h : runningOf (physOf x.h.val x.s.val s) 0 s = none) :
    exec (.gzAccClear who x) s = .next (releaseSlots (physOf x.h.val x.s.val s) (gzSlots (physOf x.h.val x.s.val s) s)
      (rewriteW (page x s) F.GZ_CTRL_ACC_CLEAR.off s)) := by
  show Host.Outcome.next (fieldWrite who (page x s) F.GZ_CTRL_ACC_CLEAR 1 s) = _
  rw [page, fieldWrite_trigger (physOf_lt x s) trigger_GZ_CTRL_ACC_CLEAR hw hr hu, onCroft_gzAccClear,
    accClear_idle (by simpa using h)]
  simp [gzSlots]

/-- LM_ACC_CLEAR while no loom task runs (05 R168). -/
theorem exec_lmAccClear_idle (h : runningOf (physOf x.h.val x.s.val s) 1 s = none) :
    exec (.lmAccClear who x) s = .next (releaseSlots (physOf x.h.val x.s.val s) (lmSlots (physOf x.h.val x.s.val s) s)
      (rewriteW (page x s) F.LM_CTRL_ACC_CLEAR.off s)) := by
  show Host.Outcome.next (fieldWrite who (page x s) F.LM_CTRL_ACC_CLEAR 1 s) = _
  rw [page, fieldWrite_trigger (physOf_lt x s) trigger_LM_CTRL_ACC_CLEAR hw hr hu, onCroft_lmAccClear,
    accClear_idle (by simpa using h)]
  simp [lmSlots]

/-- CLEAR_RATES (11 R353). -/
theorem exec_clearRates :
    exec (.clearRates who x) s = .next (updCroft (physOf x.h.val x.s.val s) (fun k => { k with rates := [] })
      (rewriteW (page x s) F.SH_CTRL_CLEAR_RATES.off s)) := by
  show Host.Outcome.next (fieldWrite who (page x s) F.SH_CTRL_CLEAR_RATES 1 s) = _
  rw [page, fieldWrite_trigger (physOf_lt x s) trigger_SH_CTRL_CLEAR_RATES hw hr hu, onCroft_clearRates]

end

/-! ### The reissue of a step (12 R403) -/

theorem zeroes_clearSlots (c : Nat) (s : State) : Zeroes s (clearSlots c s) :=
  (zeroes_releaseSlots c (gzSlots c s) s).trans (zeroes_releaseSlots c (lmSlots c s) _)

theorem freed_clearSlots (c : Nat) (s : State) :
    Freed c (gzSlots c s) (clearSlots c s) ∧ Freed c (lmSlots c s) (clearSlots c s) :=
  ⟨(zeroes_releaseSlots c _ _).freed (freed_releaseSlots c (gzSlots c s) s), freed_releaseSlots c (lmSlots c s) _⟩

theorem zeroes_foldl_clearSlots (l : List Nat) (s : State) : Zeroes s (l.foldl (fun s c => clearSlots c s) s) :=
  Zeroes.foldl (fun s c => zeroes_clearSlots c s) l s

/-- Clearing several crofts frees the slots of each: what a later croft's clearing writes is 0 too. -/
theorem freed_foldl_clearSlots (l : List Nat) (s : State) : ∀ c ∈ l,
    Freed c (gzSlots c s) (l.foldl (fun s c => clearSlots c s) s) ∧
      Freed c (lmSlots c s) (l.foldl (fun s c => clearSlots c s) s) := by
  induction l generalizing s with
  | nil => nofun
  | cons a l ih =>
    intro c hc
    rw [List.foldl_cons]
    rcases List.mem_cons.1 hc with rfl | hc
    · have rest := zeroes_foldl_clearSlots l (clearSlots c s)
      exact (freed_clearSlots c s).imp rest.freed rest.freed
    · have first := zeroes_clearSlots a s
      rw [← first.gzSlots c, ← first.lmSlots c]
      exact ih (clearSlots a s) c hc

/-- The expects of a step's attempt, as tally operations of the control core. -/
def expectOps (p : Nat) (r : StepRun) : List TallyOp :=
  r.expects.map fun e => ⟨p, e.1, .expect e.2 (epochOf r.step r.attempt), .control⟩

theorem sendExpects_eq (p : Nat) (r : StepRun) (s : State) :
    sendExpects p r s = { s with tally := { s.tally with ops := s.tally.ops ++ expectOps p r } } := by
  unfold sendExpects expectOps
  induction r.expects generalizing s with
  | nil => simp
  | cons e l ih => rw [List.foldl_cons, ih]; simp [sendTally]

/-- A partition whose crofts' slots have been freed. -/
def clearCrofts (p : Nat) (s : State) : State := (croftsOf p s).foldl (fun s c => clearSlots c s) s

theorem zeroes_clearCrofts (p : Nat) (s : State) : Zeroes s (clearCrofts p s) := zeroes_foldl_clearSlots _ s

/-- The state in which a step is reissued: slots freed, expects sent, its tasks in the release order. -/
def reissued (p : Nat) (r : StepRun) (s : State) : State :=
  updPart p (fun k => { k with run := some { r with reissue := false }, rel := k.rel ++ r.tasks })
    (sendExpects p { r with reissue := false } (clearCrofts p s))

/-- The reissue of a step that waits for it, of a partition at rest whose tasks all have their crofts. -/
theorem exec_repeatReissue_at_rest {p : PartId} {s : State} {r : StepRun} (h : (partOf p.val s).run = some r)
    (hr : r.reissue = true) (hq : queuesEmpty p.val s = true) (hc : commitWork p.val s = false)
    (hl : usesLost p.val r.tasks s = false) : exec (.repeatReissue p) s = .next (reissued p.val r s) := by
  have hl' : usesLost p.val r.tasks (clearCrofts p.val s) = false := by
    rw [(zeroes_clearCrofts p.val s).1]
    exact hl
  show execRepeatReissue p s = _
  unfold clearCrofts at hl'
  simp [execRepeatReissue, h, hr, hq, hc, hl', reissued, clearCrofts]

theorem partOf_reissued (p : Nat) (r : StepRun) (s : State) :
    partOf p (reissued p r s) =
      { partOf p s with run := some { r with reissue := false }, rel := (partOf p s).rel ++ r.tasks } := by
  rw [reissued, partOf_updPart_same, sendExpects_eq, (zeroes_clearCrofts p s).1]
  rfl

theorem reissued_ops (p : Nat) (r : StepRun) (s : State) :
    (reissued p r s).tally.ops = s.tally.ops ++ expectOps p r := by
  rw [reissued, sendExpects_eq, (zeroes_clearCrofts p s).1]
  rfl

theorem reissued_crofts (p : Nat) (r : StepRun) (s : State) : (reissued p r s).crofts = s.crofts := by
  rw [reissued, sendExpects_eq, (zeroes_clearCrofts p s).1]
  rfl

theorem reissued_regs (p : Nat) (r : StepRun) (s : State) : (reissued p r s).regs = s.regs := by
  rw [reissued, sendExpects_eq, (zeroes_clearCrofts p s).1]
  rfl

theorem rd_reissued (q p : Nat) (r : StepRun) (s : State) : rd q (reissued p r s) = rd q (clearCrofts p s) := by
  rw [reissued, sendExpects_eq]
  rfl

/-- No slot of a croft of the partition is valid when the step is reissued. -/
theorem slotsValid_reissued {p c : Nat} (r : StepRun) {s : State} (hc : c ∈ croftsOf p s) :
    slotsValid c (gzSlots c s) (reissued p r s) = 0 ∧ slotsValid c (lmSlots c s) (reissued p r s) = 0 := by
  obtain ⟨hg, hl⟩ := freed_foldl_clearSlots (croftsOf p s) s c hc
  exact ⟨Freed.slotsValid fun i hi => (rd_reissued _ p r s).trans (hg i hi),
    Freed.slotsValid fun i hi => (rd_reissued _ p r s).trans (hl i hi)⟩

/-- Settles O12: ACC_CLEAR acts as the write of a trigger, which frees the slots, and the reissue clears every croft first. -/
theorem accumulatorsClear : Obligations.AccumulatorsClear := by
  refine ⟨fun x who s hw hr hu => ⟨fun h => ?_, fun h => ?_, ?_⟩, fun p s r h hr hq hc hl => ?_⟩
  · exact ⟨_, exec_gzAccClear_idle hw hr hu h, frees_releaseSlots_rewriteW _ _ _ _ s⟩
  · exact ⟨_, exec_lmAccClear_idle hw hr hu h, frees_releaseSlots_rewriteW _ _ _ _ s⟩
  · exact ⟨_, exec_clearRates hw hr hu, croftOf_updCroft_same _ _ _, fun k hk => croftOf_updCroft_other hk _ _,
      onlyRegs_rewriteW _ _ s⟩
  · refine ⟨_, exec_repeatReissue_at_rest h hr hq hc hl, ?_⟩
    rw [partOf_reissued, reissued_ops]
    exact ⟨rfl, rfl, rfl, fun e he => List.mem_append_right _ (List.mem_map_of_mem he),
      fun c hc => slotsValid_reissued r hc, reissued_crofts _ r s, reissued_regs _ r s⟩

end Sys2Proof.Machine
end

section
/-!
PROBE of the spindle (09 R295): a command that is the write of a trigger field of a croft page, which evaluates the spindle
once and stores the four output words.
-/
namespace Sys2Proof.Machine
open Sys2Proof.Claims

/-! ### Changes of listed registers only -/

theorem onlyRegs_refl (ks : List Nat) (s : State) : OnlyRegs ks s s := ⟨rfl, fun _ _ => ⟨rfl, rfl⟩⟩

theorem onlyRegs_trans {ks : List Nat} {r s t : State} (h : OnlyRegs ks r s) (k : OnlyRegs ks s t) : OnlyRegs ks r t := by
  refine ⟨?_, fun i hi => ?_⟩
  · rw [k.1, h.1]
  · obtain ⟨hr, hu⟩ := h.2 i hi
    obtain ⟨kr, ku⟩ := k.2 i hi
    exact ⟨kr.trans hr, ku.trans hu⟩

theorem onlyRegs_mono {ks ls : List Nat} {s t : State} (hl : ks ⊆ ls) (h : OnlyRegs ks s t) : OnlyRegs ls s t :=
  ⟨h.1, fun i hi => h.2 i fun hk => hi (hl hk)⟩

theorem onlyRegs_foldl {α : Type} {ks : List Nat} {f : State → α → State} {l : List α}
    (hf : ∀ a ∈ l, ∀ s, OnlyRegs ks s (f s a)) (s : State) : OnlyRegs ks s (l.foldl f s) := by
  induction l generalizing s with
  | nil => exact onlyRegs_refl ks s
  | cons a l ih => exact onlyRegs_trans (hf a (by simp) s) (ih (fun b hb => hf b (by simp [hb])) (f s a))

section
variable {ks : List Nat} {b : Nat} {f : Field} (hk : regKey b f.off ∈ ks)
include hk

theorem onlyRegs_setF (v : Nat) (s : State) : OnlyRegs ks s (setF b f v s) :=
  ⟨rfl, fun _ hi => ⟨mapGet_mapPut_other _ (ne_of_mem_of_not_mem hk hi).symm _ _, rfl⟩⟩

theorem onlyRegs_addUnits (n : Nat) (s : State) : OnlyRegs ks s (addUnits b f n s) := by
  refine ⟨rfl, fun i hi => ?_⟩
  have hne : i ≠ regKey b f.off := (ne_of_mem_of_not_mem hk hi).symm
  exact ⟨mapGet_mapPut_other _ hne _ _, mapGet_mapPut_other _ hne _ _⟩

end

/-! ### Registers of one page -/

theorem regKey_inj {b off off' : Nat} : regKey b off = regKey b off' ↔ off / 4 = off' / 4 := by simp [regKey]

/-- Counting in one register changes no field of another. -/
theorem getF_addUnits_reg {b b' : Nat} {f g : Field} (h : regKey b g.off ≠ regKey b' f.off) (n : Nat) (s : State) :
    getF b g (addUnits b' f n s) = getF b g s := getF_setF_reg h _ _

/-- The copies of a field, written one after another, each hold their own value. -/
theorem getF_foldl_setF_at {f : Field} (hw : f.lo + f.width ≤ 32) (hs : f.stride = 4) (b : Nat) (v : Nat → Nat) (s : State)
    {i n : Nat} (hi : i < n) :
    getF b (f.at i) ((List.range n).foldl (fun s j => setF b (f.at j) (v j) s) s) = v i % 2 ^ f.width := by
  induction n with
  | zero => omega
  | succ n ih =>
    rw [List.range_succ, List.foldl_append, List.foldl_cons, List.foldl_nil]
    rcases Nat.lt_succ_iff_lt_or_eq.1 hi with h | rfl
    · have hk : regKey b (f.at i).off ≠ regKey b (f.at n).off := by
        rw [Ne, regKey_inj]
        simp only [Field.at, hs]
        omega
      rw [getF_setF_reg hk, ih h]
    · exact getF_setF_same (f := f.at i) hw b (v i) _

/-! ### PROBE -/

theorem SpState.word_lt (y : SpState) (i : Nat) : y.word i < 2 ^ 32 := BitVec.isLt _

/-- The output words of the spindle for a croft's seed and the counter of its page. -/
def probeWords (c : Nat) (s : State) : SpState :=
  let k (i : Nat) : Word := BitVec.ofNat 32 (getF (bCroft c) (F.SP_PROBE_CTR.at i) s)
  spindle (getPair (bCroft c) F.SP_SEED_LO F.SP_SEED_HI s) (k 0) (k 1) (k 2) (k 3)

/-- Rewriting a register with its own word changes no register that the spindle reads. -/
@[simp] theorem probeWords_rewriteW (b off c : Nat) (s : State) : probeWords c (rewriteW b off s) = probeWords c s := by
  simp [probeWords, getPair]

/-- The state with the words in the PROBE_OUT registers of a page. -/
def putProbeOut (b : Nat) (y : SpState) (s : State) : State :=
  (List.range 4).foldl (fun s i => setF b (F.SP_PROBE_OUT.at i) (y.word i) s) s

/-- The registers that PROBE changes. -/
def probeKeys (b : Nat) : List Nat :=
  regKey b F.SP_STATUS_PROBE_DONE.off :: regKey b F.SP_EVALS.off ::
    (List.range 4).map fun i => regKey b (F.SP_PROBE_OUT.at i).off

theorem getF_putProbeOut (b : Nat) (y : SpState) (s : State) {i : Nat} (hi : i < 4) :
    getF b (F.SP_PROBE_OUT.at i) (putProbeOut b y s) = y.word i := by
  rw [putProbeOut, getF_foldl_setF_at (by decide) rfl b y.word s hi]
  exact Nat.mod_eq_of_lt (y.word_lt i)

theorem onlyRegs_putProbeOut (b : Nat) (y : SpState) (s : State) : OnlyRegs (probeKeys b) s (putProbeOut b y s) := by
  refine onlyRegs_foldl (fun i hi => onlyRegs_setF ?_ _) s
  exact List.mem_cons_of_mem _ (List.mem_cons_of_mem _ (List.mem_map_of_mem hi))

section
variable (c : Nat) (s : State)

theorem probe_eq : probe c s = addUnits (bCroft c) F.SP_EVALS 1
    (setF (bCroft c) F.SP_STATUS_PROBE_DONE 1 (putProbeOut (bCroft c) (probeWords c s) s)) := rfl

theorem onlyRegs_probe : OnlyRegs (probeKeys (bCroft c)) s (probe c s) := by
  have hdone : regKey (bCroft c) F.SP_STATUS_PROBE_DONE.off ∈ probeKeys (bCroft c) := List.mem_cons_self
  have hevals : regKey (bCroft c) F.SP_EVALS.off ∈ probeKeys (bCroft c) := List.mem_cons_of_mem _ List.mem_cons_self
  rw [probe_eq]
  exact onlyRegs_trans (onlyRegs_trans (onlyRegs_putProbeOut _ _ s) (onlyRegs_setF hdone _ _))
    (onlyRegs_addUnits hevals _ _)

theorem getF_probe_out {i : Nat} (hi : i < 4) :
    getF (bCroft c) (F.SP_PROBE_OUT.at i) (probe c s) = (probeWords c s).word i := by
  have hevals : regKey (bCroft c) (F.SP_PROBE_OUT.at i).off ≠ regKey (bCroft c) F.SP_EVALS.off := by
    rw [Ne, regKey_inj]
    simp only [Field.at, F.SP_PROBE_OUT, F.SP_EVALS]
    omega
  have hdone : regKey (bCroft c) (F.SP_PROBE_OUT.at i).off ≠ regKey (bCroft c) F.SP_STATUS_PROBE_DONE.off := by
    rw [Ne, regKey_inj]
    simp only [Field.at, F.SP_PROBE_OUT, F.SP_STATUS_PROBE_DONE]
    omega
  rw [probe_eq, getF_addUnits_reg hevals, getF_setF_reg hdone, getF_putProbeOut _ _ _ hi]

theorem getF_probe_done : getF (bCroft c) F.SP_STATUS_PROBE_DONE (probe c s) = 1 := by
  have hevals : regKey (bCroft c) F.SP_STATUS_PROBE_DONE.off ≠ regKey (bCroft c) F.SP_EVALS.off :=
    mt regKey_inj.1 (by decide)
  rw [probe_eq, getF_addUnits_reg hevals, getF_setF_same (by decide)]
  rfl

end

theorem trigger_SP_CTRL_PROBE : Trigger F.SP_CTRL_PROBE :=
  ⟨rfl, by decide, by decide, by decide, by decide, by unfold plainOff; decide⟩

theorem onCroft_probe (who : Requester) (c : Nat) (s : State) :
    onCroft (triggerWrite who c F.SP_CTRL_PROBE) s = probe c s := by
  simp [onCroft, onOne, Wr.one, Wr.get, bits, fieldMask, F.SP_CTRL_PROBE, F.SP_CTRL_CLEAR_COUNTS, bCroft]

/-- PROBE by either core of the steward (09 R295). -/
theorem exec_probe {x : SlotId} {who : Requester} {s : State} (hw : steward who) (hr : Reaches who (page x s) s)
    (hu : Unlocked who (page x s) s) :
    exec (.probe who x) s =
      .next (probe (physOf x.h.val x.s.val s) (rewriteW (page x s) F.SP_CTRL_PROBE.off s)) := by
  show Host.Outcome.next (fieldWrite who (page x s) F.SP_CTRL_PROBE 1 s) = _
  rw [page, fieldWrite_trigger (physOf_lt x s) trigger_SP_CTRL_PROBE hw hr hu, onCroft_probe]

/-- Settles O13: PROBE is the write of a trigger, which leaves the word of its own register and stores the spindle's words. -/
theorem probeEvaluatesSpindle : Obligations.ProbeEvaluatesSpindle := by
  intro x who s hw hr hu
  refine ⟨_, exec_probe hw hr hu, fun i hi => ?_, getF_probe_done _ _, ?_⟩
  · rw [page, getF_probe_out _ _ hi, probeWords_rewriteW]
    rfl
  · exact onlyRegs_trans (onlyRegs_mono (List.nil_subset _) (onlyRegs_rewriteW _ _ s)) (onlyRegs_probe _ _)

end Sys2Proof.Machine
end

section
/-!
What a reset leaves of the tally file (12 R390) and of the straps (19 R632): clearing the device empties the tally file and
takes every register to the word that the permanent area restores, and nothing that the sequence does before or after it
touches the tally file, the permanent area, or the registers that show the straps.
-/
namespace Sys2Proof.Machine

/-! ### What the steps of a reset leave alone -/

/-- The registers that no step of a reset writes but the one that restores them all: the strap word of the reeve's page, and
the pages of the steward, the tally file and the mill behind their common headers. -/
def untouchedKey (k : Nat) : Bool :=
  decide (k = regKey bReeve F.RV_SLOT_ID.off ∨
    (k / 1024 = bSteward ∨ k / 1024 = bTally ∨ k / 1024 = bMill) ∧ 16 ≤ k % 1024)

/-- From `s` to `t` the tally file, the permanent area and the untouched registers are left alone. -/
structure Untouched (s t : State) : Prop where
  tally : t.tally = s.tally
  perm : t.reeve.perm = s.reeve.perm
  word : ∀ k, untouchedKey k = true → mapGet resetWord t.regs k = mapGet resetWord s.regs k

theorem Untouched.refl (s : State) : Untouched s s := ⟨rfl, rfl, fun _ _ => rfl⟩

theorem Untouched.trans {r s t : State} (h : Untouched r s) (k : Untouched s t) : Untouched r t :=
  ⟨k.tally.trans h.tally, k.perm.trans h.perm, fun i hi => (k.word i hi).trans (h.word i hi)⟩

/-- A change of other parts of the state. -/
theorem Untouched.upd {r s t : State} (h : Untouched r s) (ht : t.tally = s.tally) (hp : t.reeve.perm = s.reeve.perm)
    (hr : t.regs = s.regs) : Untouched r t :=
  h.trans ⟨ht, hp, fun _ _ => by rw [hr]⟩

theorem Untouched.ite {c : Prop} [Decidable c] {r s t : State} (h : Untouched r s) (k : Untouched r t) :
    Untouched r (if c then s else t) := by
  split
  · exact h
  · exact k

theorem Untouched.foldl {α : Type} {r s : State} {f : State → α → State} {l : List α} (h : Untouched r s)
    (hf : ∀ a ∈ l, ∀ t, Untouched r t → Untouched r (f t a)) : Untouched r (l.foldl f s) :=
  List.foldlRecOn l f h fun t ht a ha => hf a ha t ht

/-- A fold that carries a verdict beside the state. -/
theorem Untouched.foldlSnd {α β : Type} {r : State} {f : β × State → α → β × State} {l : List α} {o : β × State}
    (h : Untouched r o.2) (hf : ∀ o a, Untouched r o.2 → Untouched r (f o a).2) : Untouched r (l.foldl f o).2 :=
  List.foldlRecOn (motive := fun o => Untouched r o.2) l f h fun o ho a _ => hf o a ho

/-- A fold of steps that may fail. -/
theorem Untouched.foldlSome {α : Type} {r s t : State} {f : Option State → α → Option State} {l : List α} (h : Untouched r s)
    (hf : ∀ a o u, f o a = some u → ∃ v, o = some v ∧ (Untouched r v → Untouched r u)) (e : l.foldl f (some s) = some t) :
    Untouched r t := by
  refine List.foldlRecOn (motive := fun o => ∀ u, o = some u → Untouched r u) l f ?_ (fun o ho a _ u hu => ?_) t e
  · rintro u ⟨⟩
    exact h
  · obtain ⟨v, hv, keep⟩ := hf a o u hu
    exact keep (ho v hv)

theorem Untouched.snd {α : Type} {r : State} {x : α × State} {a : α} {t : State} (h : Untouched r x.2) (e : x = (a, t)) :
    Untouched r t := by
  rw [e] at h
  exact h

/-! ### Registers -/

/-- Every register of a unit's or a function's page may change. -/
theorem untouchedKey_unit {b : Nat} (hb : 16 ≤ b) (off : Nat) : untouchedKey (regKey b off) = false := by
  rw [untouchedKey, decide_eq_false_iff_not]
  simp only [regKey, bReeve, bSteward, bTally, bMill, F.RV_SLOT_ID]
  omega

/-- Every register of a common header may change. -/
theorem untouchedKey_header (b : Nat) {off : Nat} (ho : off < 0x40) : untouchedKey (regKey b off) = false := by
  rw [untouchedKey, decide_eq_false_iff_not]
  simp only [regKey, bReeve, bSteward, bTally, bMill, F.RV_SLOT_ID]
  omega

section
variable {r s : State} (h : Untouched r s)
include h

theorem untouched_setF {b : Nat} {f : Field} (hk : untouchedKey (regKey b f.off) = false) (v : Nat) : Untouched r (setF b f v s) :=
  h.trans ⟨rfl, rfl, fun k hs => mapGet_mapPut_other _ (by rintro rfl; simp [hk] at hs) _ _⟩

theorem untouched_addF {b : Nat} {f : Field} (hk : untouchedKey (regKey b f.off) = false) (n : Nat) : Untouched r (addF b f n s) :=
  untouched_setF h hk _

theorem untouched_unit {b : Nat} (hb : 16 ≤ b) (f : Field) (v : Nat) : Untouched r (setF b f v s) :=
  untouched_setF h (untouchedKey_unit hb f.off) v

theorem untouched_function (fn : Nat) (f : Field) (v : Nat) : Untouched r (setF (bFunction fn) f v s) :=
  untouched_unit h (Nat.le_add_right 16 fn) f v

theorem untouched_keepFields {b : Nat} {fs : List Field} (hk : ∀ f ∈ fs, untouchedKey (regKey b f.off) = false) (old : State) :
    Untouched r (keepFields b fs old s) :=
  h.foldl fun f hf _ ht => untouched_setF ht (hk f hf) _

/-! ### Requests, host memory and events -/

theorem untouched_updPart (p : Nat) (f : Part → Part) : Untouched r (updPart p f s) := h.upd rfl rfl rfl

theorem untouched_setRing (fn : Nat) (e : EvRing) : Untouched r (setRing fn e s) := h.upd rfl rfl rfl

theorem untouched_setSeal (fn : Nat) (k : Option Seal) : Untouched r (setSeal fn k s) := h.upd rfl rfl rfl

theorem untouched_memAsk (eng p space a n : Nat) (write : Bool) : Untouched r (memAsk eng p space a n write s) := by
  refine h.foldl fun x _ t ht => ?_
  unfold postReq
  dsimp only
  split
  · exact ht.upd rfl rfl rfl
  · exact Untouched.ite (ht.upd rfl rfl rfl) (ht.upd rfl rfl rfl)
  · exact ht.upd rfl rfl rfl

/-- A table entry of a translation, kept or read. -/
theorem untouched_tableEntry {o : Option Trans} {c : Bool} {n : Nat} {t : State} {x : Nat × State} (ht : Untouched r t)
    (e : (match o with | some u => some (u.entry, s) | none => if c = true then some (n, t) else none) = some x) :
    Untouched r x.2 := by
  cases o with
  | some u => exact Option.some.inj e ▸ h
  | none =>
    obtain ⟨-, e⟩ := Option.ite_none_right_eq_some.1 e
    exact Option.some.inj e ▸ ht

theorem untouched_level1 {p va : Nat} {x : Nat × State} (e : level1 p va s = some x) : Untouched r x.2 := by
  unfold level1 at e
  exact untouched_tableEntry h (untouched_updPart (untouched_memAsk h _ _ _ _ _ _) _ _) e

theorem untouched_level2 {p va e1 : Nat} {x : Nat × State} (e : level2 p va e1 s = some x) : Untouched r x.2 := by
  unfold level2 at e
  exact untouched_tableEntry h (untouched_updPart (untouched_memAsk h _ _ _ _ _ _) _ _) e

end

/-- A translation that succeeds ends in the state of its last table read. -/
theorem hostXlate_eq_some {p va : Nat} {write : Bool} {s : State} {x : Nat × Bool × State}
    (e : hostXlate p va write s = some x) :
    ∃ y, level1 p va s = some y ∧ (x.2.2 = y.2 ∨ ∃ z, level2 p va y.1 y.2 = some z ∧ x.2.2 = z.2) := by
  unfold hostXlate at e
  cases e1 : level1 p va s with
  | none => simp [e1] at e
  | some y =>
    refine ⟨y, rfl, ?_⟩
    simp only [e1, Option.ite_none_left_eq_some] at e
    grind

theorem untouched_wrN {r s : State} (h : Untouched r s) (p : Nat) (l : List Byte) : Untouched r (wrN p l s) := by
  induction l generalizing p s with
  | nil => exact h
  | cons b l ih => exact ih (s := wr p b s) (h.upd rfl rfl rfl) (p + 1)

section
variable {r s : State} (h : Untouched r s)
include h

theorem untouched_hostXlate {p va : Nat} {write : Bool} {x : Nat × Bool × State} (e : hostXlate p va write s = some x) :
    Untouched r x.2.2 := by
  obtain ⟨y, e1, ht⟩ := hostXlate_eq_some e
  have hy := untouched_level1 h e1
  rcases ht with ht | ⟨z, e2, ht⟩
  · exact ht ▸ hy
  · exact ht ▸ untouched_level2 hy e2

theorem untouched_fnWrite {fn a : Nat} {l : List Byte} {t : State} (e : fnWrite fn a l s = some t) : Untouched r t := by
  unfold fnWrite at e
  split at e
  · split at e
    · cases e
    · cases e
      exact untouched_wrN h _ _
  · refine h.foldlSome (fun c o u hu => ?_) e
    cases o with
    | none => cases hu
    | some v =>
      refine ⟨v, rfl, fun hv => ?_⟩
      dsimp only at hu
      split at hu
      · cases hu
      · next ex =>
        cases hu
        exact untouched_wrN (untouched_hostXlate hv ex) _ _

theorem untouched_putSealed {fn : Nat} {k : Seal} {e : Ev} {t : State} (he : putSealed fn k e s = some t) : Untouched r t := by
  unfold putSealed at he
  dsimp only at he
  split at he
  · cases he
  · next e1 =>
    obtain ⟨v, e2, rfl⟩ := Option.map_eq_some_iff.1 he
    exact (untouched_fnWrite (untouched_fnWrite h e1) e2).upd rfl rfl rfl

theorem untouched_putRecord {fn : Nat} {e : Ev} {t : State} (he : putRecord fn e s = some t) : Untouched r t := by
  unfold putRecord at he
  split at he
  · split at he
    · exact untouched_putSealed h he
    · cases he
  · obtain ⟨v, ev, rfl⟩ := Option.map_eq_some_iff.1 he
    exact (untouched_fnWrite h ev).upd rfl rfl rfl

theorem untouched_fireMsix (fn vec : Nat) : Untouched r (fireMsix fn vec s) :=
  Untouched.ite (h.upd rfl rfl rfl) (Untouched.ite (h.upd rfl rfl rfl) (h.upd rfl rfl rfl))

theorem untouched_signal (fn type : Nat) (irq : Bool) : Untouched r (signal fn type irq s) := by
  refine Untouched.ite (untouched_fireMsix h _ _) (Untouched.ite ?_ h)
  unfold pendMsix
  dsimp only
  split
  · exact Untouched.ite (untouched_fireMsix h _ _) (h.upd rfl rfl rfl)
  · exact Untouched.ite (untouched_fireMsix h _ _) (h.upd rfl rfl rfl)

theorem untouched_offer {fn : Nat} {e : Ev} {t : State} (he : offer fn e s = some t) : Untouched r t := by
  unfold offer at he
  dsimp only at he
  split at he
  · obtain ⟨v, ev, rfl⟩ := Option.map_eq_some_iff.1 he
    exact untouched_signal (untouched_putRecord h ev) _ _ _
  · split at he
    · cases he
      exact h.upd rfl rfl rfl
    · cases he
      exact untouched_function (untouched_setRing h _ _) _ _ _

theorem untouched_toPf (e : Ev) : Untouched r (toPf e s) := by
  refine Untouched.ite ?_ h
  cases ho : offer 0 e s with
  | none => exact h
  | some t => exact untouched_offer h ho

theorem untouched_stopEvRing (fn : Nat) : Untouched r (stopEvRing fn s) := by
  have counted := untouched_addF h (untouchedKey_unit (Nat.le_add_right 16 fn) F.FP_RING_ERRORS.off) 1
  have hs := untouched_function counted fn F.FP_EV_ERR 1
  exact Untouched.ite hs (untouched_toPf hs _)

theorem untouched_toFn (fn : Nat) (e : Ev) : Untouched r (toFn fn e s) := by
  refine Untouched.ite (untouched_toPf h e) (Untouched.ite ?_ h)
  cases ho : offer fn e s with
  | none => exact untouched_stopEvRing h fn
  | some t => exact untouched_offer h ho

/-- The event of any block, whomever it concerns. -/
theorem untouched_raise (b type subtype : Nat) (sc : Scope) (ledger : Bool) (payload : Nat) :
    Untouched r (raise b type subtype sc ledger payload s) := by
  have seen (o : Option Nat) :
      Untouched r (match o with | some c => setF b F.BLK_SEEN (getF b F.BLK_SEEN s ||| 2 ^ c) s | none => s) := by
    cases o with
    | none => exact h
    | some c => exact untouched_setF h (untouchedKey_header b (by decide)) _
  refine Untouched.ite ?_ (seen _)
  cases sc with
  | part p => exact untouched_toFn (seen _) _ _
  | none => exact untouched_toFn (seen _) _ _
  | all => exact (seen _).foldl fun fn _ t ht => untouched_toFn ht fn _

end

/-! ### The ledger and the images -/

section
variable {r s : State} (h : Untouched r s)
include h

theorem untouched_journal (kind source part severity payload : Nat) : Untouched r (journal kind source part severity payload s) :=
  h.upd rfl rfl rfl

theorem untouched_setPair {b : Nat} {lo hi : Field} (hlo : untouchedKey (regKey b lo.off) = false)
    (hhi : untouchedKey (regKey b hi.off) = false) (v : Nat) : Untouched r (setPair b lo hi v s) :=
  untouched_setF (untouched_setF h hlo _) hhi _

theorem untouched_showLedger : Untouched r (showLedger s) := by
  unfold showLedger
  exact untouched_setPair (untouched_setPair h (by decide) (by decide) _) (by decide) (by decide) _

theorem untouched_recordFail (i b check : Nat) : Untouched r (recordFail i b check s) :=
  untouched_journal (untouched_addF (untouched_setF (untouched_setF (untouched_setF h (by decide) _) (by decide) _) (by decide) _)
    (by decide) _) _ _ _ _ _

theorem untouched_validateSet (set : List Nat) : Untouched r (validateSet set s).2 := by
  refine Untouched.foldlSnd h fun o i ho => ?_
  split
  · exact untouched_recordFail ho _ _ _
  · exact ho

theorem untouched_fallBackSet : Untouched r (fallBackSet s).2 := by
  unfold fallBackSet fallBack noteGroup
  refine untouched_validateSet (Untouched.foldl (untouched_setF ?_ (by decide) 1) fun i _ t ht => ?_) _
  · exact h.upd rfl rfl rfl
  · exact untouched_journal ht _ _ _ _ _

theorem untouched_romChoice : Untouched r (romChoice s).2 := by
  unfold romChoice
  dsimp only
  split
  · exact h
  · split
    · exact untouched_recordFail h _ _ _
    · exact untouched_recordFail (untouched_recordFail h _ _ _) _ _ _

theorem untouched_chooseSet : Untouched r (chooseSet s).2 := by
  have hr := untouched_romChoice (untouched_setF h (b := bReeve) (f := F.RV_ROLLED_BACK) (by decide) 0)
  unfold chooseSet
  split
  · next e => exact hr.snd e
  · next e =>
    have hs := hr.snd e
    split
    · exact untouched_fallBackSet hs
    · have hv := untouched_validateSet hs
      split
      next ev =>
      split
      · exact (hv _).snd ev
      · exact untouched_fallBackSet ((hv _).snd ev)

theorem untouched_loadImages : Untouched r (loadImages s) := by
  refine untouched_journal (untouched_setF (untouched_setF (untouched_setF ?_ (by decide) _) (by decide) _) (by decide) _) _ _ _ _ _
  exact h.upd rfl rfl rfl

theorem untouched_startImages : Untouched r (startImages s).2 := by
  have hc := untouched_chooseSet h
  exact Untouched.ite (untouched_loadImages hc) hc

theorem untouched_takeBaseline (delays : List Nat) : Untouched r (takeBaseline delays s) :=
  Untouched.ite h (h.upd rfl rfl rfl)

end

/-! ### Sessions, keys and memory -/

section
variable {r s : State} (h : Untouched r s)
include h

theorem untouched_endSession (fn reason : Nat) : Untouched r (endSession fn reason s) := by
  have note : Untouched r (noteKeys fn reason s) := Untouched.ite (untouched_raise h _ _ _ _ _ _) h
  have keys := Untouched.ite (c := hasKeys fn (noteKeys fn reason s) = true)
    (untouched_setSeal (untouched_function note fn F.FP_KEYS_LIVE 0) fn none) note
  exact keys.upd rfl rfl rfl

theorem untouched_keyDestroy (p : Nat) : Untouched r (keyDestroy p s) := by
  unfold keyDestroy
  refine untouched_journal (Untouched.foldl (untouched_setF ?_ (by decide) _) fun e _ t ht => ?_) _ _ _ _ _
  · exact h.upd rfl rfl rfl
  · exact untouched_unit ht (by unfold bEdge; omega) _ _

theorem untouched_destroyKeys : Untouched r (destroyKeys s) :=
  h.foldl fun p _ _ ht => Untouched.ite (untouched_keyDestroy ht p) ht

theorem untouched_noteRepairs (rows : List Nat) : Untouched r (noteRepairs rows s) :=
  Untouched.foldl (h.upd rfl rfl rfl) fun _ _ _ ht => untouched_journal ht _ _ _ _ _

theorem untouched_noteTrained (b : Nat) (ok : Bool) : Untouched r (noteTrained b ok s) := h.upd rfl rfl rfl

theorem untouched_trainModule (m : Module) : Untouched r (trainModule m s) := by
  cases m with
  | ddr c a b =>
    have hb : 16 ≤ bDdr c.val := by unfold bDdr; omega
    have present := untouched_unit (untouched_unit h hb F.BLK_PRESENT 1) hb F.MC_PRESENT 1
    exact untouched_noteTrained (untouched_unit (untouched_unit (untouched_unit present hb _ _) hb _ _) hb _ _) _ _
  | cxl x mib rate =>
    have hb : 16 ≤ bCxl x.val := by unfold bCxl; omega
    have present := untouched_unit (untouched_unit h hb F.BLK_PRESENT 1) hb F.MC_PRESENT 1
    exact untouched_noteTrained (untouched_unit (untouched_unit present hb _ _) hb _ _) _ _

theorem untouched_showOnline (tier c : Nat) : Untouched r (showOnline tier c s) :=
  untouched_unit h (by unfold chanBlock bDdr bCxl; split <;> omega) _ _

theorem untouched_refreshMap : Untouched r (refreshMap s) := by
  have shown : Untouched r ((List.range 4).foldl (fun s x => showOnline 3 x s)
      ((List.range 12).foldl (fun s c => showOnline 2 c s) s)) :=
    Untouched.foldl (h.foldl fun c _ _ ht => untouched_showOnline ht 2 c) fun x _ _ ht => untouched_showOnline ht 3 x
  exact untouched_setF (untouched_setF (untouched_setF (untouched_setF shown (by decide) _) (by decide) _) (by decide) _)
    (by decide) _

theorem untouched_mapApply : Untouched r (mapApply s) := by
  refine Untouched.foldl (untouched_refreshMap ?_) fun t _ u hu => Untouched.ite (untouched_raise hu _ _ _ _ _ _) hu
  exact h.upd rfl rfl rfl

theorem untouched_loseMemory : Untouched r (loseMemory s) := h.upd rfl rfl rfl

theorem untouched_trainMemory : Untouched r (trainMemory s) := by
  refine untouched_mapApply (Untouched.foldl (Untouched.foldl (Untouched.foldl ?_ ?_) ?_) ?_)
  · exact h.upd rfl rfl rfl
  · exact fun x _ t ht => untouched_unit ht (by unfold bHbm; omega) _ _
  · exact fun c _ t ht => untouched_unit ht (by unfold bDdr; omega) _ _
  · exact fun m _ t ht => untouched_trainModule ht m

end

/-! ### What the pages show of units -/

/-- The pages of the units that a repair fences lie behind those of the blocks and the functions. -/
theorem sixteen_le_of_kindOf {u : Nat} (h : kindOf u = .slice ∨ kindOf u = .port ∨ kindOf u = .channel) : 16 ≤ u := by
  by_contra hu
  have low : ∀ v < 16, kindOf v ≠ .slice ∧ kindOf v ≠ .port ∧ kindOf v ≠ .channel := by decide
  obtain ⟨hs, hp, hc⟩ := low u (by omega)
  rcases h with h | h | h
  · exact hs h
  · exact hp h
  · exact hc h

section
variable {r s : State} (h : Untouched r s)
include h

theorem untouched_showFence (u : Nat) : Untouched r (showFence u s) := by
  unfold showFence
  split
  · next hk => exact untouched_unit h (sixteen_le_of_kindOf (by simp [hk])) _ _
  · next hk => exact untouched_unit h (sixteen_le_of_kindOf (by simp [hk])) _ _
  · next hk => exact untouched_unit h (sixteen_le_of_kindOf (by simp [hk])) _ _
  · exact untouched_unit h (by unfold bHbm; omega) _ _
  · split
    · next hu => exact untouched_unit h (by rw [hu]; decide) _ _
    · exact h
  · exact h

theorem untouched_showRetired : Untouched r (showRetired s) := by
  refine Untouched.foldl (h.foldl fun u _ t ht => ?_) fun c _ t ht => ?_
  · have header (f : Field) (hf : f.off < 0x40) {v : State} (hv : Untouched r v) : Untouched r (setF u f 1 v) :=
      untouched_setF hv (untouchedKey_header u hf) 1
    exact Untouched.ite ht (untouched_showFence
      (header F.BLK_FENCED (by decide) (header F.BLK_RETIRED (by decide) ht)) u)
  · have hb : 16 ≤ bCroft c := by unfold bCroft; omega
    exact Untouched.ite (untouched_unit (untouched_unit (untouched_unit ht hb _ _) hb _ _) hb _ _)
      (Untouched.ite (untouched_unit ht hb _ _) ht)

theorem untouched_refreshUnits : Untouched r (refreshUnits s) := by
  refine untouched_setF (untouched_setF (untouched_setF (h.foldl fun x _ t ht => ?_) (by decide) _) (by decide) _) (by decide) _
  have hb : 16 ≤ bHamlet x := by unfold bHamlet; omega
  exact untouched_unit (untouched_unit (untouched_unit ht hb _ _) hb _ _) hb _ _

theorem untouched_showLink : Untouched r (showLink s) :=
  Untouched.ite h (untouched_setF (untouched_setF (untouched_setF h (by decide) _) (by decide) _) (by decide) _)

end

/-! ### A device that a reset has cleared -/

/-- The tally file is as after a reset, and the untouched registers hold what the permanent area `m` restores. -/
structure Restored (m : SMap Word) (t : State) : Prop where
  tally : t.tally = TallyFile.reset
  perm : t.reeve.perm = m
  word : ∀ k, untouchedKey k = true → mapGet resetWord t.regs k = mapGet resetWord m k

theorem Restored.untouched {m : SMap Word} {s t : State} (h : Restored m s) (k : Untouched s t) : Restored m t :=
  ⟨k.tally.trans h.tally, k.perm.trans h.perm, fun i hi => (k.word i hi).trans (h.word i hi)⟩

/-- No tally is mapped, and none has counted anything or holds a waiter (12 R390). -/
theorem tallies_of_reset {t : State} (h : t.tally = TallyFile.reset) :
    (∀ q k v, tallyOf q t = Tally.reset ∧ tallyPhys k v t = none) ∧ t.tally.waiters = [] := by
  refine ⟨fun q k v => ⟨?_, ?_⟩, ?_⟩
  · rw [tallyOf, h]
    rfl
  · rw [tallyPhys, h]
    rfl
  · rw [h]
    rfl

theorem Restored.getF_eq {m : SMap Word} {t : State} (h : Restored m t) {b : Nat} {f : Field}
    (hk : untouchedKey (regKey b f.off) = true) : getF b f t = bits f.lo f.width (mapGet resetWord m (regKey b f.off)).toNat := by
  rw [getF, getW, h.word _ hk]

section
variable {m : SMap Word} {s : State} (hm : s.reeve.perm = m)
include hm

theorem restored_clearDevice : Restored m (clearDevice s) := ⟨rfl, hm, fun _ _ => by subst hm; rfl⟩

theorem restored_teardown : Restored m (teardown s) := by
  unfold teardown
  dsimp only
  set a := (rangeFrom 1 8).foldl (fun s fn => endSession fn 4 s) s
  have ha : Untouched s a := (Untouched.refl s).foldl fun fn _ _ ht => untouched_endSession ht fn 4
  set b := (List.range 8).foldl (fun s p => if confidential p s then zeroHeld p s else s) (destroyKeys a)
  have hb : Untouched s b := (untouched_destroyKeys ha).foldl fun p _ t ht => Untouched.ite (ht.upd rfl rfl rfl) ht
  have cleared := restored_clearDevice ((untouched_noteRepairs (untouched_loseMemory hb) s.memsys.softRepairs).perm.trans hm)
  refine cleared.untouched (untouched_refreshUnits (untouched_trainMemory (untouched_showRetired ?_)))
  refine Untouched.foldl (untouched_keepFields (untouched_showLedger (.refl _)) (by decide) s) fun x _ t ht => ?_
  exact untouched_keepFields ht (fun f _ => untouchedKey_unit (by unfold bHbm; omega) _) s

theorem restored_deadToHost : Restored m (deadToHost s) := by
  have cleared := restored_clearDevice ((untouched_loseMemory (.refl s)).perm.trans hm)
  refine cleared.untouched (untouched_setF (untouched_keepFields ?_ (by decide) s) (by decide) 3)
  exact (untouched_showLedger (.refl _)).upd rfl rfl rfl

/-- Whatever a device reset finds, and whether the device comes up or is dead to the host. -/
theorem restored_deviceReset (cause : Nat) : Restored m (deviceReset cause s) := by
  have torn : Restored m (teardown (journal 0x02 (sourceOf bReeve s) 8 1 (resetPay cause) s)) := restored_teardown hm
  unfold deviceReset
  dsimp only
  generalize teardown (journal 0x02 (sourceOf bReeve s) 8 1 (resetPay cause) s) = x at torn ⊢
  have kept : Restored m (if cause = 1 then x else keepFields bHostIf linkFields s x) :=
    torn.untouched (Untouched.ite (.refl x) (untouched_keepFields (.refl x) (by decide) s))
  generalize (if cause = 1 then x else keepFields bHostIf linkFields s x) = y at kept ⊢
  have noted : Restored m { y with
      reeve := { y.reeve with cause := cause }, power := { y.power with e0Lost := y.power.e0Lost && cause != 6 } } :=
    kept.untouched ((Untouched.refl y).upd rfl rfl rfl)
  have linked := noted.untouched (Untouched.ite (c := (cause = 6 && s.power.e0Lost && y.power.phy) = true)
    (untouched_showLink (.refl _)) (.refl _))
  split
  · split
    · next e => exact linked.untouched ((untouched_startImages (.refl _)).snd e)
    · next e =>
      exact restored_deadToHost (linked.untouched ((untouched_startImages (.refl _)).snd e)).perm
  · exact linked

end

/-! ### Power-on -/

/-- The straps as the reeve's page and the parity registers show them (19 R632). -/
structure ShowsStraps (slot feed : Nat) (t : State) : Prop where
  slotId : getF bReeve F.RV_SLOT_ID t = slot
  feedId : getF bReeve F.RV_FEED_ID t = feed
  parity : ∀ p : PartId, mlF F.ML_PAR_FEED_ID p.val t = feed

theorem untouchedKey_parity (p : PartId) : untouchedKey (regKey bMill (F.ML_PAR_FEED_ID.at p.val).off) = true := by
  revert p
  decide

/-- Two states that hold what the same permanent area restores show the same straps. -/
theorem ShowsStraps.of_restored {slot feed : Nat} {m : SMap Word} {s t : State} (h : ShowsStraps slot feed s)
    (hs : Restored m s) (ht : Restored m t) : ShowsStraps slot feed t := by
  have same {b : Nat} {f : Field} (hk : untouchedKey (regKey b f.off) = true) : getF b f t = getF b f s :=
    (ht.getF_eq hk).trans (hs.getF_eq hk).symm
  exact ⟨(same (by decide)).trans h.slotId, (same (by decide)).trans h.feedId,
    fun p => (same (untouchedKey_parity p)).trans (h.parity p)⟩

/-- A field kept in the permanent area: the register and the word that restores it stay the same. -/
theorem restored_setPerm {s : State} (h : Restored s.reeve.perm s) (b : Nat) (f : Field) (v : Nat) :
    Restored (setPerm b f v s).reeve.perm (setPerm b f v s) := by
  refine ⟨h.tally, rfl, fun k hk => ?_⟩
  show mapGet resetWord (mapPut _ _ _ _) k = mapGet resetWord (mapPut _ _ _ _) k
  rw [mapGet_mapPut, mapGet_mapPut]
  split
  · next e => exact congrArg (insertField f v) (h.word _ (e ▸ hk))
  · exact h.word k hk

theorem restored_sampleStraps {s : State} (h : Restored s.reeve.perm s) (slot feed : Nat) :
    Restored (sampleStraps slot feed s).reeve.perm (sampleStraps slot feed s) := by
  refine restored_setPerm (List.foldlRecOn (motive := fun t => Restored t.reeve.perm t) _ _ ?_ fun t ht p _ => ?_) _ _ _
  · exact restored_setPerm (restored_setPerm h _ _ _) _ _ _
  · exact restored_setPerm ht _ _ _

theorem getF_setPerm (b b' : Nat) (f g : Field) (v : Nat) (s : State) :
    getF b g (setPerm b' f v s) = getF b g (setF b' f v s) := rfl

/-- The feed in the parity registers of the partitions below `n`, one after another. -/
def sampleFeeds (n feed : Nat) (s : State) : State :=
  (List.range n).foldl (fun s p => setPerm bMill (F.ML_PAR_FEED_ID.at p) feed s) s

theorem mlF_sampleFeeds (feed : Nat) (s : State) {p n : Nat} (hp : p < n) :
    mlF F.ML_PAR_FEED_ID p (sampleFeeds n feed s) = feed % 2 ^ 4 := by
  induction n with
  | zero => omega
  | succ n ih =>
    rw [mlF, sampleFeeds, List.range_succ, List.foldl_append, List.foldl_cons, List.foldl_nil, getF_setPerm]
    rcases Nat.lt_succ_iff_lt_or_eq.1 hp with h | rfl
    · have hk : regKey bMill (F.ML_PAR_FEED_ID.at p).off ≠ regKey bMill (F.ML_PAR_FEED_ID.at n).off := by
        rw [Ne, regKey_inj]
        simp only [Field.at, F.ML_PAR_FEED_ID]
        omega
      rw [getF_setF_reg hk]
      exact ih h
    · have hw : F.ML_PAR_FEED_ID.lo + F.ML_PAR_FEED_ID.width ≤ 32 := by decide
      exact getF_setF_same (f := F.ML_PAR_FEED_ID.at p) hw _ _ _

/-- The strap word of the reeve's page is none of the parity registers. -/
theorem getF_reeve_sampleFeeds {f : Field} (hf : f.off = 0x44) (feed : Nat) (s : State) :
    getF bReeve f (sampleFeeds 8 feed s) = getF bReeve f s := by
  refine List.foldlRecOn (motive := fun t => getF bReeve f t = getF bReeve f s) _ _ rfl fun t ht p hp => ?_
  have hk : regKey bReeve f.off ≠ regKey bMill (F.ML_PAR_FEED_ID.at p).off := by
    have := List.mem_range.1 hp
    simp only [hf, regKey, Field.at, F.ML_PAR_FEED_ID, bReeve, bMill]
    omega
  rw [getF_setPerm, getF_setF_reg hk, ht]

theorem sampleStraps_eq (slot feed : Nat) (s : State) :
    sampleStraps slot feed s =
      let u := sampleFeeds 8 feed (setPerm bReeve F.RV_FEED_ID feed (setPerm bReeve F.RV_SLOT_ID slot s))
      setPerm bReeve F.RV_BOOTS (getF bReeve F.RV_BOOTS u + 1) u := rfl

theorem showsStraps_sampleStraps (slot : BitVec 5) (feed : BitVec 4) (s : State) :
    ShowsStraps slot.toNat feed.toNat (sampleStraps slot.toNat feed.toNat s) := by
  rw [sampleStraps_eq]
  refine ⟨?_, ?_, fun p => ?_⟩
  · rw [getF_setPerm, getF_setF_reg (by decide), getF_reeve_sampleFeeds rfl, getF_setPerm,
      getF_setF_disjoint (f := F.RV_FEED_ID) (g := F.RV_SLOT_ID) (by decide) rfl (by decide), getF_setPerm,
      getF_setF_same (by decide)]
    exact Nat.mod_eq_of_lt slot.isLt
  · rw [getF_setPerm, getF_setF_reg (by decide), getF_reeve_sampleFeeds rfl, getF_setPerm, getF_setF_same (by decide)]
    exact Nat.mod_eq_of_lt feed.isLt
  · have hk : regKey bMill (F.ML_PAR_FEED_ID.at p.val).off ≠ regKey bReeve F.RV_BOOTS.off := by
      revert p
      decide
    rw [mlF, getF_setPerm, getF_setF_reg hk]
    exact (mlF_sampleFeeds _ _ p.isLt).trans (Nat.mod_eq_of_lt feed.isLt)

/-- The device at power-on when its straps are sampled: cleared, with the timebase and the reeve started anew. -/
def poweredUp (s : State) : State :=
  let s := drivePerst 15 (showLedger (clearDevice (loseMemory s)))
  { s with
    time := 0
    power := { Power.reset with mv := s.power.mv, ma := s.power.ma, alertN := s.power.alertN, perst := true, phy := false }
    reeve := { s.reeve with second := 0, kindCount := [], suppressed := [], mismatches := [], restart := none,
                            coolAsked := none, coolAt := none, nextPoll := 0, i3c := none, eid := 0, tid := 0, cause := 0 } }

/-- Power-on once the straps are sampled: the images are judged, and the memory trains unless they fail. -/
def bringUp (modules : List Module) (spares delays : List Nat) (s : State) : State :=
  let (ok, s) := startImages (takeBaseline delays s)
  if ok then
    let s := { s with memsys := { s.memsys with modules := modules } }
    let s := ((List.range 16).zip spares).foldl (fun s e => setF (bHbm e.1) F.HB_PPR_LEFT e.2 s) s
    refreshUnits (trainMemory (showRetired s))
  else deadToHost s

theorem powerOn_eq (slot feed : Nat) (modules : List Module) (spares delays : List Nat) (s : State) :
    powerOn slot feed modules spares delays s =
      bringUp modules spares delays (sampleStraps slot feed (poweredUp s)) := by
  unfold powerOn bringUp poweredUp
  rfl

theorem restored_poweredUp (s : State) : Restored (poweredUp s).reeve.perm (poweredUp s) := by
  have shown := (restored_clearDevice (s := loseMemory s) rfl).untouched (untouched_showLedger (.refl _))
  exact ⟨shown.tally, rfl, shown.perm ▸ shown.word⟩

theorem restored_bringUp {m : SMap Word} {s : State} (h : Restored m s) (modules : List Module) (spares delays : List Nat) :
    Restored m (bringUp modules spares delays s) := by
  have started := h.untouched (untouched_startImages (untouched_takeBaseline (.refl s) delays))
  unfold bringUp
  generalize startImages (takeBaseline delays s) = o at started ⊢
  obtain ⟨ok, t⟩ := o
  cases ok with
  | false => exact restored_deadToHost started.perm
  | true =>
    refine started.untouched (untouched_refreshUnits (untouched_trainMemory (untouched_showRetired ?_)))
    refine Untouched.foldl ?_ fun e _ u hu => ?_
    · exact (Untouched.refl t).upd rfl rfl rfl
    · exact untouched_unit hu (by unfold bHbm; omega) _ _

theorem powerOn_straps (slot : BitVec 5) (feed : BitVec 4) (modules : List Module) (spares delays : List Nat) (s : State) :
    (powerOn slot.toNat feed.toNat modules spares delays s).tally = TallyFile.reset ∧
      ShowsStraps slot.toNat feed.toNat (powerOn slot.toNat feed.toNat modules spares delays s) := by
  rw [powerOn_eq]
  have sampled := restored_sampleStraps (restored_poweredUp s) slot.toNat feed.toNat
  have up := restored_bringUp sampled modules spares delays
  exact ⟨up.tally, (showsStraps_sampleStraps slot feed _).of_restored sampled up⟩

/-! ### The commands -/

/-- A DEVICE_RESET that is taken: the cause's reset, of the device as it is or, for PERST#, with the PHY held. -/
theorem exec_deviceReset {c : ResetCause} {s : State} (hon : s.power.supply = .on) (hp : c ≠ .perst ∨ inReset s = false)
    (he : c = .perst ∨ c = .service ∨ s.power.e0Lost = false) :
    ∃ (k : Nat) (w : Power), exec (.deviceReset c) s = .next (deviceReset k { s with power := w }) := by
  show ∃ (k : Nat) (w : Power), execDeviceReset c s = _
  unfold execDeviceReset
  split
  · rw [if_neg (by simpa using hp)]
    exact ⟨1, { s.power with perst := true, phy := false }, rfl⟩
  · exact ⟨6, s.power, rfl⟩
  · next hnp hns =>
    have linked : s.power.e0Lost = false := (he.resolve_left hnp).resolve_left hns
    rw [if_neg (by simp [linked])]
    exact ⟨_, s.power, rfl⟩
  · next hoff _ _ => exact (hoff hon).elim

/-- A POWER_ON that is taken: the bus has been good for 10 ms with the rails off. -/
theorem exec_powerOn {slot : BitVec 5} {feed : BitVec 4} {modules : List Module} {reads : DieReads} {s : State} {t0 : Nat}
    (hoff : s.power.supply = .off) (hgood : s.power.good = some t0) (ht : t0 + 10 ^ 7 ≤ s.time) :
    exec (.powerOn slot feed modules reads) s =
      .next (powerOn slot.toNat feed.toNat modules (reads.spares.map BitVec.toNat) (reads.delays.map BitVec.toNat) s) := by
  show execPowerOn slot feed modules reads s = _
  unfold execPowerOn
  rw [hoff, hgood]
  exact congrArg _ (if_pos ht)

/-- Settles O47: every reset clears the tally file, and what it does besides leaves the registers that show the straps at the
words that the permanent area restores, which only the sampling at power-on writes. -/
theorem talliesAndStrapsAfterReset : Obligations.TalliesAndStrapsAfterReset := by
  obtain ⟨fresh, noWaiter⟩ := tallies_of_reset (t := State.reset) rfl
  refine ⟨fresh, noWaiter, fun c s hon hp he => ?_, fun slot feed modules reads s t0 hoff hgood ht => ?_⟩
  · obtain ⟨k, w, hexec⟩ := exec_deviceReset hon hp he
    have restored : Restored s.reeve.perm (deviceReset k { s with power := w }) := restored_deviceReset (by rfl) k
    obtain ⟨tallies, waiters⟩ := tallies_of_reset restored.tally
    refine ⟨_, hexec, tallies, waiters, fun f hf hperm => ?_, fun p hperm => ?_⟩
    · have hk : untouchedKey (regKey bReeve f.off) = true := by
        clear hperm
        revert f
        decide
      exact (restored.getF_eq hk).trans hperm
    · exact (restored.getF_eq (untouchedKey_parity p)).trans hperm
  · obtain ⟨cleared, straps⟩ := powerOn_straps slot feed modules (reads.spares.map BitVec.toNat)
      (reads.delays.map BitVec.toNat) s
    obtain ⟨tallies, waiters⟩ := tallies_of_reset cleared
    exact ⟨_, exec_powerOn hoff hgood ht, tallies, waiters, straps.slotId, straps.feedId, straps.parity⟩

end Sys2Proof.Machine
end

section
/-!
The first READY after an activation (17 R592) and the withdrawal of one that waits (17 R598): raising the floors goes through
the activation group image by image, and each image once passed keeps its floor, its revocations and its journal entry.
-/
namespace Sys2Proof.Machine

/-! ### Lists by image -/

theorem setAt_eq_set {α : Type} (l : List α) (i : Nat) (v : α) : setAt l i v = l.set i v := by
  induction l generalizing i with
  | nil => rfl
  | cons x r ih =>
    cases i with
    | zero => rfl
    | succ i => simp [setAt, ih]

@[simp] theorem length_putImage (l : List Nat) (i v : Nat) : (putImage l i v).length = l.length := by
  simp [putImage, setAt_eq_set]

theorem mem_imageCodes {i : Nat} : i ∈ imageCodes ↔ 1 ≤ i ∧ i ≤ 6 := by
  simp only [imageCodes, List.mem_cons, List.not_mem_nil, or_false]
  omega

theorem byImage_putImage {l : List Nat} {i j : Nat} (hl : l.length = 6) (hi : i ∈ imageCodes) (hj : j ∈ imageCodes)
    (v : Nat) : byImage (putImage l i v) j = if j = i then v else byImage l j := by
  rw [mem_imageCodes] at hi hj
  unfold byImage putImage
  rw [setAt_eq_set]
  split
  · next h =>
    subst h
    rw [List.getElem?_set_self (by omega), Option.getD_some]
  · rw [List.getElem?_set_ne (by omega)]

/-! ### One image of the activation group -/

/-- An entry of kind 0x0F reports the floor and the revocations that an image in a slot brings (17 R592; log entry 11). -/
def IsFloorNote (i b : Nat) (h : Flit) (e : JEntry) : Prop :=
  e.kind = 0x0F ∧ e.payload = BitVec.ofNat 224 (5 + i * 2 ^ 8 + b * 2 ^ 16 + hF 0x0C 4 h * 2 ^ 32 + hF 0x10 4 h * 2 ^ 64 +
    hF 0x0B 1 h % 16 * 2 ^ 96)

/-- The floor of an image becomes the SVN in its header, and the revocations it names are added (17 R592). -/
def takeFloor (i : Nat) (h : Flit) (f : Firmware) : Firmware :=
  { f with floors := putImage f.floors i (hF 0x10 4 h), revoked := f.revoked ||| bits 0 4 (hF 0x0B 1 h) }

/-- What the first READY does for one image of the group: with the image in the slot it runs from, if any, the floor, the
revocations and the entry. -/
def raiseFloor (i : Nat) (s : State) : State :=
  let b := byImage s.reeve.fw.running i
  (fwSlot i b s).elim s fun x =>
    fwNote 5 1 i b 0 (hF 0x10 4 x.header + bits 0 4 (hF 0x0B 1 x.header) * 2 ^ 32) (updFw (takeFloor i x.header) s)

theorem raiseFloors_eq {s : State} (hf : s.reeve.fw.fresh = true) (hp : getF bReeve F.RV_PENDING s = 0) :
    raiseFloors s = updFw (fun f => { f with fresh := false }) (s.reeve.fw.group.foldl (fun t i => raiseFloor i t) s) := by
  have hc : (s.reeve.fw.fresh && !flag bReeve F.RV_PENDING s) = true := by simp [hf, flag, hp]
  unfold raiseFloors
  rw [if_pos hc]
  refine congrArg (updFw _) (congrArg (fun g => List.foldl g s s.reeve.fw.group) ?_)
  funext t i
  unfold raiseFloor
  dsimp only
  cases fwSlot i (byImage t.reeve.fw.running i) t <;> rfl

theorem imgVersion_of_fwSlot {i b : Nat} {s : State} {x : ImgSlot} (h : fwSlot i b s = some x) :
    imgVersion i b s = hF 0x0C 4 x.header := by simp only [imgVersion, h]

/-- An image with nothing in the slot it runs from changes nothing; with an image there, its firmware state and one entry. -/
theorem raiseFloor_cases (i : Nat) (s : State) :
    (fwSlot i (byImage s.reeve.fw.running i) s = none ∧ raiseFloor i s = s) ∨
    ∃ x e, fwSlot i (byImage s.reeve.fw.running i) s = some x ∧ IsFloorNote i (byImage s.reeve.fw.running i) x.header e ∧
      raiseFloor i s = { s with reeve := { s.reeve with fw := takeFloor i x.header s.reeve.fw, log := s.reeve.log ++ [e] } } := by
  cases hx : fwSlot i (byImage s.reeve.fw.running i) s with
  | none => exact .inl ⟨rfl, by simp [raiseFloor, hx]⟩
  | some x =>
    refine .inr ⟨x, _, rfl, ⟨?_, ?_⟩, by simp only [raiseFloor, hx, Option.elim_some]; rfl⟩
    · rfl
    · refine congrArg (BitVec.ofNat 224) ?_
      have hv : imgVersion i (byImage s.reeve.fw.running i) (updFw (takeFloor i x.header) s) = hF 0x0C 4 x.header :=
        imgVersion_of_fwSlot hx
      rw [hv, bits]
      omega

/-! ### The whole group -/

/-- With firmware state `f` and new journal entries `l`, the image that ran in `s`, if any, has its floor, its revocations and
its entry. -/
def FloorTaken (s : State) (l : List JEntry) (f : Firmware) (i : Nat) : Prop :=
  ∀ x, fwSlot i (byImage s.reeve.fw.running i) s = some x →
    byImage f.floors i = hF 0x10 4 x.header ∧
    (∀ n < 4, (hF 0x0B 1 x.header).testBit n = true → f.revoked.testBit n = true) ∧
    ∃ e ∈ l, IsFloorNote i (byImage s.reeve.fw.running i) x.header e

section
variable {s : State} {f : Firmware} {i : Nat} (hl : f.floors.length = 6) (hi : i ∈ imageCodes)
include hl hi

theorem floorTaken_takeFloor {x : ImgSlot} {e : JEntry} (hx : fwSlot i (byImage s.reeve.fw.running i) s = some x)
    (he : IsFloorNote i (byImage s.reeve.fw.running i) x.header e) (l : List JEntry) :
    FloorTaken s (l ++ [e]) (takeFloor i x.header f) i := by
  intro y hy
  obtain rfl : x = y := Option.some.inj (hx.symm.trans hy)
  refine ⟨?_, fun n hn hb => ?_, e, by simp, he⟩
  · rw [takeFloor, byImage_putImage hl hi hi, if_pos rfl]
  · simp [takeFloor, bits_testBit, hn, hb]

/-- Taking the floor of one image leaves what another has. -/
theorem FloorTaken.takeFloor_other {j : Nat} {l : List JEntry} (h : FloorTaken s l f j) (hj : j ∈ imageCodes) (hji : j ≠ i)
    (g : Flit) (e : JEntry) : FloorTaken s (l ++ [e]) (takeFloor i g f) j := by
  intro y hy
  obtain ⟨hfloor, hrev, d, hd, hnote⟩ := h y hy
  refine ⟨?_, fun n hn hb => ?_, d, by simp [hd], hnote⟩
  · rw [takeFloor, byImage_putImage hl hi hj, if_neg hji, hfloor]
  · simp [takeFloor, hrev n hn hb]

end

/-- From `s`, the images in `done` have passed; what runs is as before. -/
structure Raised (s : State) (done : List Nat) (t : State) : Prop where
  slots : t.reeve.fw.slots = s.reeve.fw.slots
  running : t.reeve.fw.running = s.reeve.fw.running
  floors : t.reeve.fw.floors.length = 6
  taken : ∃ l, t.reeve.log = s.reeve.log ++ l ∧ ∀ i ∈ done, FloorTaken s l t.reeve.fw i

theorem Raised.fwSlot_eq {s t : State} {done : List Nat} (h : Raised s done t) (i : Nat) :
    fwSlot i (byImage t.reeve.fw.running i) t = fwSlot i (byImage s.reeve.fw.running i) s := by
  unfold fwSlot
  rw [h.slots, h.running]

theorem Raised.step {s t : State} {done : List Nat} {i : Nat} (h : Raised s done t) (hd : ∀ j ∈ done, j ∈ imageCodes)
    (hi : i ∈ imageCodes) : Raised s (done ++ [i]) (raiseFloor i t) := by
  obtain ⟨l, hlog, htaken⟩ := h.taken
  have hcases := raiseFloor_cases i t
  rw [h.fwSlot_eq, h.running] at hcases
  rcases hcases with ⟨hnone, ht⟩ | ⟨x, e, hsome, hnote, ht⟩
  · rw [ht]
    refine ⟨h.slots, h.running, h.floors, l, hlog, fun j hj => ?_⟩
    rcases List.mem_append.1 hj with hj | hj
    · exact htaken j hj
    · intro y hy
      rw [List.mem_singleton.1 hj, hnone] at hy
      cases hy
  · rw [ht]
    refine ⟨h.slots, h.running, (length_putImage _ _ _).trans h.floors, l ++ [e], ?_, fun j hj => ?_⟩
    · exact (congrArg (· ++ [e]) hlog).trans (List.append_assoc _ _ _)
    · by_cases hji : j = i
      · exact hji ▸ floorTaken_takeFloor h.floors hi hsome hnote l
      · have hj : j ∈ done := by simpa [hji] using hj
        exact (htaken j hj).takeFloor_other h.floors hi (hd j hj) hji _ e

theorem Raised.foldl {s t : State} {done l : List Nat} (h : Raised s done t) (hd : ∀ j ∈ done, j ∈ imageCodes)
    (hl : ∀ j ∈ l, j ∈ imageCodes) : Raised s (done ++ l) (l.foldl (fun t i => raiseFloor i t) t) := by
  induction l generalizing done t with
  | nil => simpa using h
  | cons i l ih =>
    have hi := hl i (by simp)
    have := ih (h.step hd hi) (by grind) (fun j hj => hl j (by simp [hj]))
    simpa using this

theorem raised_group {s : State} (hl : s.reeve.fw.floors.length = 6) (hg : ∀ i ∈ s.reeve.fw.group, i ∈ imageCodes) :
    Raised s s.reeve.fw.group (s.reeve.fw.group.foldl (fun t i => raiseFloor i t) s) :=
  Raised.foldl (done := []) ⟨rfl, rfl, hl, [], by simp, by simp⟩ (by simp) hg

/-! ### The commands -/

@[simp] theorem linksUp_reeve (s : State) : (linksUp s).reeve = s.reeve := by
  have hdies : ((List.range 4).foldl (fun s d => setF (bDie d) F.DIE_LINK_COMMONS 1 (setF (bDie d) F.DIE_LINK_NEXT 1
      (setF (bDie d) F.DIE_LINK_PREV 1 s))) s).reeve = s.reeve :=
    List.foldlRecOn (motive := fun t : State => t.reeve = s.reeve) _ _ rfl fun t ht _ _ => ht
  simp only [linksUp, setF_reeve]
  split <;> simpa using hdies

/-- RESET_READY that is taken: the floors are raised, the links shown, and READY set. -/
theorem exec_resetReady {s : State} (hon : s.power.supply = .on) (hr : inReset s = true) :
    ∃ w, exec .resetReady s = .next { setF (bFunction 0) F.FP_READY 1 (setF bReeve F.RV_STATE 2 (linksUp (raiseFloors s)))
      with power := w } := by
  show ∃ w, execResetReady s = _
  unfold execResetReady
  simp only [hon, hr, if_true]
  exact ⟨_, rfl⟩

theorem inReset_setReady (s : State) (w : Power) :
    inReset { setF (bFunction 0) F.FP_READY 1 s with power := w } = false := by
  show (!decide (getF (bFunction 0) F.FP_READY (setF (bFunction 0) F.FP_READY 1 s) = 1)) = false
  rw [getF_setF_same (by decide)]
  rfl

/-- REQUEST_UPDATE while an activation waits: it is withdrawn, and the selection is what runs. -/
theorem exec_requestUpdate_pending {s : State} (hup : serviceUp s = true) (hp : getF bReeve F.RV_PENDING s = 1) :
    exec .requestUpdate s = .next (updateSay 0x10 [0] (setF bReeve F.RV_UPDATING 1
      (updFw (fun f => { endUpdate f with updating := true })
        (setF bReeve F.RV_PENDING 0
          (updFw (fun f => { f with selected := f.running, group := f.groupBefore, fresh := false }) s))))) := by
  have hflag : flag bReeve F.RV_PENDING s = true := by simp [flag, hp]
  show execRequestUpdate s = _
  unfold execRequestUpdate
  rw [if_pos hup, if_pos hflag]

/-- Settles O53: each image of the group is passed once or more, and no later one undoes what it brought; a withdrawal writes
PENDING and the selection. -/
theorem activationsTakenAndWithdrawn : Obligations.ActivationsTakenAndWithdrawn := by
  refine ⟨fun s hon hr hf hp hl hg => ?_, fun s hup hp => ?_⟩
  · obtain ⟨w, hexec⟩ := exec_resetReady hon hr
    obtain ⟨l, hlog, htaken⟩ := (raised_group hl hg).taken
    refine ⟨_, l, hexec, inReset_setReady _ w, ?_⟩
    simp only [setF_reeve, linksUp_reeve, raiseFloors_eq hf hp]
    exact ⟨rfl, hlog, htaken⟩
  · refine ⟨_, exec_requestUpdate_pending hup hp, ?_, rfl, rfl, rfl⟩
    show getF bReeve F.RV_PENDING (setF bReeve F.RV_UPDATING 1 (setF bReeve F.RV_PENDING 0 _)) = 0
    rw [getF_setF_disjoint (f := F.RV_UPDATING) (g := F.RV_PENDING) (by decide) rfl (by decide), getF_setF_same (by decide)]
    rfl

end Sys2Proof.Machine
end

section
/-!
The ledger (17 R580 to R585): what writing an entry changes, the entries of suppression, the consecutive entries of a ledger
read, and LG_SELECT, a pair of plain words of the reeve's page that loads LG_DATA when its high half is written.
-/
namespace Sys2Proof.Machine
open Sys2Proof.Claims

/-! ### Numbers and pairs of registers -/

theorem natOf_lt (l : List Byte) : natOf l < 256 ^ l.length := by
  induction l with
  | nil => simp [natOf]
  | cons b l ih =>
    have hb : b.toNat < 256 := b.isLt
    rw [natOf, List.length_cons, Nat.pow_succ]
    omega

theorem natOf_replicate_zero (n : Nat) : natOf (List.replicate n (0 : Byte)) = 0 := by
  induction n with
  | zero => rfl
  | succ n ih => rw [List.replicate_succ, natOf, ih]; rfl

theorem bytesOf_zero (n : Nat) : bytesOf n 0 = List.replicate n 0 := by
  induction n with
  | zero => rfl
  | succ n ih => simp [bytesOf, List.replicate_succ, ih]

theorem getF_lt (b : Nat) (f : Field) (s : State) : getF b f s < 2 ^ f.width := Nat.mod_lt _ (Nat.two_pow_pos _)

/-- A counter holds the sum, or all ones. -/
theorem getF_addF_same {f : Field} (h : f.lo + f.width ≤ 32) (b n : Nat) (s : State) :
    getF b f (addF b f n s) = min (getF b f s + n) (2 ^ f.width - 1) := by
  have := Nat.two_pow_pos f.width
  rw [addF, getF_setF_same h]
  exact Nat.mod_eq_of_lt (by omega)

theorem getF_setPair_reg {b b' : Nat} {f lo hi : Field} (hlo : regKey b f.off ≠ regKey b' lo.off)
    (hhi : regKey b f.off ≠ regKey b' hi.off) (v : Nat) (s : State) : getF b f (setPair b' lo hi v s) = getF b f s := by
  rw [setPair, getF_setF_reg hhi, getF_setF_reg hlo]

theorem getPair_setPair_same {b : Nat} {lo hi : Field} (hlo : lo.lo = 0 ∧ lo.width = 32) (hhi : hi.lo = 0 ∧ hi.width = 32)
    (hk : regKey b lo.off ≠ regKey b hi.off) (v : Nat) (s : State) :
    getPair b lo hi (setPair b lo hi v s) = v % 2 ^ 64 := by
  rw [getPair, setPair, getF_setF_reg hk, getF_setF_same (by omega), getF_setF_same (by omega), hlo.2, hhi.2]
  omega

/-! ### Writing an entry (17 R580, R583) -/

/-- The journal with room for one more entry: a full one has lost its oldest block. -/
def roomFor (l : List JEntry) : List JEntry := if 4194304 ≤ l.length then l.drop 1024 else l

/-- The entry lies last in the journal, and the pages show the newest and the oldest. -/
def fileEntry (e : JEntry) (s : State) : State :=
  showLedger { s with reeve := { s.reeve with
    journal := roomFor s.reeve.journal ++ [{ e with seq := s.reeve.nextSeq }], nextSeq := s.reeve.nextSeq + 1 } }

section
variable (e : JEntry) (s : State)

theorem writeEntry_eq : writeEntry e s = if 2 ≤ e.severity then
    mctpOut 2 0x0A (eventMessage { e with seq := s.reeve.nextSeq } s) (fileEntry e s) else fileEntry e s := rfl

theorem writeEntry_cases : writeEntry e s = fileEntry e s ∨ ∃ o, writeEntry e s =
    { fileEntry e s with host := { s.host with out := o } } := by
  rw [writeEntry_eq]
  split
  · exact .inr ⟨_, rfl⟩
  · exact .inl rfl

@[simp] theorem writeEntry_reeve : (writeEntry e s).reeve = { s.reeve with
    journal := roomFor s.reeve.journal ++ [{ e with seq := s.reeve.nextSeq }], nextSeq := s.reeve.nextSeq + 1 } := by
  rcases writeEntry_cases e s with h | ⟨o, h⟩ <;> rw [h] <;> rfl

@[simp] theorem writeEntry_crofts : (writeEntry e s).crofts = s.crofts := by
  rcases writeEntry_cases e s with h | ⟨o, h⟩ <;> rw [h] <;> rfl

@[simp] theorem writeEntry_mem : (writeEntry e s).mem = s.mem := by
  rcases writeEntry_cases e s with h | ⟨o, h⟩ <;> rw [h] <;> rfl

@[simp] theorem writeEntry_power : (writeEntry e s).power = s.power := by
  rcases writeEntry_cases e s with h | ⟨o, h⟩ <;> rw [h] <;> rfl

theorem getF_writeEntry (b : Nat) (f : Field) : getF b f (writeEntry e s) = getF b f (fileEntry e s) := by
  rcases writeEntry_cases e s with h | ⟨o, h⟩
  · rw [h]
  · rw [h]; rfl

/-- A notice stays in the journal; a warning or a failure goes out on the service port. -/
theorem writeEntry_host_of_lt (h : e.severity < 2) : (writeEntry e s).host = s.host := by
  rw [writeEntry_eq, if_neg (by omega)]
  rfl

theorem writeEntry_out_of_le (h : 2 ≤ e.severity) : (writeEntry e s).host.out =
    s.host.out ++ [.mctp 0x20A (eventMessage { e with seq := s.reeve.nextSeq } s)] := by
  rw [writeEntry_eq, if_pos h]
  rfl

/-- The entry just written is the newest. -/
theorem newest_writeEntry :
    getPair bReeve F.RV_LG_NEWEST_LO F.RV_LG_NEWEST_HI (writeEntry e s) = s.reeve.nextSeq % 2 ^ 64 := by
  rw [getPair, getF_writeEntry, getF_writeEntry, ← getPair]
  unfold fileEntry showLedger
  rw [getPair_setPair_same (by decide) (by decide) (by decide)]
  simp

/-- The count of what was held back lies in none of the registers that show the ledger. -/
theorem suppressed_writeEntry : getF bReeve F.RV_LG_SUPPRESSED (writeEntry e s) = getF bReeve F.RV_LG_SUPPRESSED s := by
  rw [getF_writeEntry]
  unfold fileEntry showLedger
  rw [getF_setPair_reg (by decide) (by decide), getF_setPair_reg (by decide) (by decide)]
  rfl

end

/-! ### JOURNAL_COMMIT (17 R583, R584) -/

/-- The entries of a kind committed in the second. -/
def kindsIn (kind : Nat) (s : State) : Nat := mapGet (fun _ => 0) s.reeve.kindCount kind

theorem exec_journalCommit {e : JEntry} {r : List JEntry} {s : State} (hl : s.reeve.log = e :: r)
    (hr : s.reeve.restart = none) :
    exec .journalCommit s = .next (commitEntry e { s with reeve := { s.reeve with log := r } }) := by
  show execJournalCommit s = _
  simp [execJournalCommit, hl, hr]

theorem commitEntry_suppression {e : JEntry} (h : e.kind = 0x10) (s : State) : commitEntry e s = writeEntry e s :=
  if_pos h

theorem commitEntry_below {e : JEntry} {s : State} (h : e.kind ≠ 0x10) (hn : kindsIn e.kind s < 256) :
    commitEntry e s = writeEntry e { s with reeve := { s.reeve with
      kindCount := mapPut (fun _ => 0) e.kind (kindsIn e.kind s + 1) s.reeve.kindCount } } :=
  (if_neg h).trans (if_pos hn)

theorem commitEntry_beyond {e : JEntry} {s : State} (h : e.kind ≠ 0x10) (hn : 256 ≤ kindsIn e.kind s) :
    ∃ m, commitEntry e s = { s with reeve := { s.reeve with suppressed := m } } ∧
      mapGet (fun _ => 0) m e.kind = mapGet (fun _ => 0) s.reeve.suppressed e.kind + 1 :=
  ⟨_, (if_neg h).trans (if_neg (Nat.not_lt.2 hn)), mapGet_mapPut_same _ _ _ _⟩

/-- An entry that is no suppression entry, or one below the limit, is written; only its kind is counted before. -/
theorem commitEntry_written {e : JEntry} {s : State} (h : e.kind = 0x10 ∨ kindsIn e.kind s < 256) :
    ∃ k, commitEntry e s = writeEntry e { s with reeve := { s.reeve with kindCount := k } } ∧
      (e.kind ≠ 0x10 → mapGet (fun _ => 0) k e.kind = kindsIn e.kind s + 1) := by
  by_cases hk : e.kind = 0x10
  · exact ⟨_, commitEntry_suppression hk s, fun h => (h hk).elim⟩
  · exact ⟨_, commitEntry_below hk (h.resolve_left hk), fun _ => mapGet_mapPut_same _ _ _ _⟩

/-! ### SUPPRESSION_SECOND_END (17 R584) -/

/-- From `s` to `t` one suppression entry is written for each element of `l`, a kind and how many of it were held back. -/
structure Summed (l : SMap Nat) (s t : State) : Prop where
  reeve : t.reeve = { s.reeve with journal := t.reeve.journal, nextSeq := s.reeve.nextSeq + l.length }
  count : getF bReeve F.RV_LG_SUPPRESSED t =
    min (getF bReeve F.RV_LG_SUPPRESSED s + (l.map Prod.snd).sum) (2 ^ 32 - 1)
  journal : s.reeve.journal.length + l.length ≤ 4194304 → ∃ m, t.reeve.journal = s.reeve.journal ++ m ∧
    (∀ e ∈ m, e.kind = 0x10) ∧ m.map (fun e => e.payload) = l.map fun e => BitVec.ofNat 224 (e.1 + e.2 * 2 ^ 16)
  crofts : t.crofts = s.crofts
  mem : t.mem = s.mem
  power : t.power = s.power

theorem Summed.nil (s : State) : Summed [] s s := by
  have : getF bReeve F.RV_LG_SUPPRESSED s < 2 ^ 32 := getF_lt _ _ s
  refine ⟨rfl, ?_, fun _ => ⟨[], by simp⟩, rfl, rfl, rfl⟩
  simp only [List.map_nil, List.sum_nil]
  omega

theorem Summed.append {l m : SMap Nat} {r s t : State} (h : Summed l r s) (k : Summed m s t) : Summed (l ++ m) r t := by
  have hseq : s.reeve.nextSeq = r.reeve.nextSeq + l.length := by rw [h.reeve]
  refine ⟨?_, ?_, fun hroom => ?_, k.crofts.trans h.crofts, k.mem.trans h.mem, k.power.trans h.power⟩
  · rw [k.reeve, hseq, h.reeve, List.length_append, Nat.add_assoc]
  · rw [k.count, h.count, List.map_append, List.sum_append]
    omega
  · rw [List.length_append] at hroom
    obtain ⟨x, hx, kindx, payx⟩ := h.journal (by omega)
    have hlen : x.length = l.length := by simpa using congrArg List.length payx
    obtain ⟨y, hy, kindy, payy⟩ := k.journal (by rw [hx, List.length_append]; omega)
    refine ⟨x ++ y, by rw [hy, hx, List.append_assoc], fun e he => ?_, by rw [List.map_append, payx, payy, List.map_append]⟩
    exact (List.mem_append.1 he).elim (kindx e) (kindy e)

/-- The entry of kind 0x10 that says how many of a kind were held back (17 R584). -/
def suppressionNote (kind n : Nat) (s : State) : JEntry :=
  ⟨0, s.time, getF bThermal F.TH_POWERED_H s, getF bReeve F.RV_BOOTS s, 0x10, sourceOf bReeve s, 8, 2,
    BitVec.ofNat 224 (kind + n * 2 ^ 16)⟩

theorem suppressionEntry_eq (kind n : Nat) (s : State) : suppressionEntry kind n s =
    addF bReeve F.RV_LG_SUPPRESSED n (writeEntry (suppressionNote kind n s) s) :=
  congrArg (addF bReeve F.RV_LG_SUPPRESSED n) (commitEntry_suppression (e := suppressionNote kind n s) rfl s)

theorem summed_suppressionEntry (kind n : Nat) (s : State) : Summed [(kind, n)] s (suppressionEntry kind n s) := by
  rw [suppressionEntry_eq]
  have hreeve : (addF bReeve F.RV_LG_SUPPRESSED n (writeEntry (suppressionNote kind n s) s)).reeve =
      (writeEntry (suppressionNote kind n s) s).reeve := rfl
  rw [writeEntry_reeve] at hreeve
  refine ⟨by rw [hreeve]; rfl, ?_, fun hroom => ?_, writeEntry_crofts _ s, writeEntry_mem _ s, writeEntry_power _ s⟩
  · rw [getF_addF_same (by decide), suppressed_writeEntry]
    simp [F.RV_LG_SUPPRESSED]
  · have hroom : ¬4194304 ≤ s.reeve.journal.length := by simpa using hroom
    refine ⟨[{ suppressionNote kind n s with seq := s.reeve.nextSeq }], ?_, by simp [suppressionNote], by simp [suppressionNote]⟩
    rw [hreeve, roomFor, if_neg hroom]

theorem summed_foldl (l : SMap Nat) (s : State) : Summed l s (l.foldl (fun s e => suppressionEntry e.1 e.2 s) s) := by
  induction l generalizing s with
  | nil => exact Summed.nil s
  | cons e l ih =>
    rw [List.foldl_cons]
    exact (summed_suppressionEntry e.1 e.2 s).append (ih (suppressionEntry e.1 e.2 s))

theorem exec_suppressionSecondEnd {s : State} (h : s.reeve.second + 10 ^ 9 ≤ s.time) :
    exec .suppressionSecondEnd s = .next (s.reeve.suppressed.foldl (fun s e => suppressionEntry e.1 e.2 s)
      { s with reeve := { s.reeve with second := s.time, kindCount := [], suppressed := [] } }) :=
  congrArg Host.Outcome.next (if_pos h)

/-! ### Reading entries (17 R585) -/

theorem entriesFrom_succ_none {n seq : Nat} {s : State} (h : entryOf seq s = none) : entriesFrom seq (n + 1) s = [] := by
  simp only [entriesFrom, h]

theorem entriesFrom_succ_some {n seq : Nat} {s : State} {e : JEntry} (h : entryOf seq s = some e) :
    entriesFrom seq (n + 1) s = e :: entriesFrom (seq + 1) n s := by
  simp only [entriesFrom, h]

section
variable (n seq : Nat) (s : State)

theorem length_entriesFrom_le : (entriesFrom seq n s).length ≤ n := by
  induction n generalizing seq with
  | zero => simp [entriesFrom]
  | succ n ih =>
    cases h : entryOf seq s with
    | none => simp [entriesFrom_succ_none h]
    | some e => simpa [entriesFrom_succ_some h] using ih (seq + 1)

theorem entryOf_entriesFrom (i : Nat) (h : i < (entriesFrom seq n s).length) :
    entryOf (seq + i) s = some (entriesFrom seq n s)[i] := by
  induction n generalizing seq i with
  | zero => simp [entriesFrom] at h
  | succ n ih =>
    cases hs : entryOf seq s with
    | none => simp [entriesFrom_succ_none hs] at h
    | some e =>
      simp only [entriesFrom_succ_some hs] at h ⊢
      cases i with
      | zero => simpa using hs
      | succ i =>
        rw [List.getElem_cons_succ, ← ih (seq + 1) i (by simpa using h)]
        congr 1
        omega

/-- Fewer entries than asked for come only when the next is not held. -/
theorem entriesFrom_stops : (entriesFrom seq n s).length = n ∨ entryOf (seq + (entriesFrom seq n s).length) s = none := by
  induction n generalizing seq with
  | zero => exact .inl rfl
  | succ n ih =>
    cases h : entryOf seq s with
    | none => exact .inr (by simpa [entriesFrom_succ_none h] using h)
    | some e =>
      rw [entriesFrom_succ_some h, List.length_cons]
      refine (ih (seq + 1)).imp (congrArg (· + 1)) fun h => ?_
      rwa [Nat.add_assoc, Nat.add_comm 1] at h

end

theorem exec_readLedger {s : State} (hon : s.power.supply = .on) (hr : s.reeve.restart = none) (seq : BitVec 64) (n : Fin 17) :
    exec (.readLedger seq n) s = .next (mctpOut 0x3F 0x01
      (bytesOf 4 Config.ianaNumber ++ (entriesFrom seq.toNat n.val s).flatMap entryBytes) s) := by
  have hup : effecterUp s = true := by simp [effecterUp, serviceUp, isDead, hon, hr]
  exact congrArg Host.Outcome.next (if_pos hup)

/-! ### LG_SELECT (17 R585) -/

/-- A field that is a whole plain word of the reeve's page: read and written by its keepers, and of no request. -/
structure PlainWord (f : Field) : Prop where
  whole : f.lo = 0 ∧ f.width = 32
  alone : fieldsAt bReeve f.off = [f]
  written : f.acc = .rw
  place : 0x40 ≤ f.off ∧ f.off ≠ 0xC0

theorem plainWord_LG_SELECT_LO : PlainWord F.RV_LG_SELECT_LO := ⟨by decide, by decide, rfl, by decide⟩
theorem plainWord_LG_SELECT_HI : PlainWord F.RV_LG_SELECT_HI := ⟨by decide, by decide, rfl, by decide⟩

/-- The write of a whole word of the reeve's page. -/
def wordWrite (who : Requester) (f : Field) (v : Nat) : Wr := ⟨who, bReeve, f.off, v * 2 ^ f.lo, fieldMask f⟩

section
variable {who : Requester} {f : Field} {v : Nat} {s : State}

/-- A plain word takes the value written to it, whatever it held. -/
theorem wordAfter_wordWrite (hf : PlainWord f) : BitVec.ofNat 32 (wordAfter (wordWrite who f v) s) = BitVec.ofNat 32 v := by
  obtain ⟨hlo, hw⟩ := hf.whole
  have hfs : fieldsAt (wordWrite who f v).b (wordWrite who f v).off = [f] := hf.alone
  have hv : (wordWrite who f v).v = v := by simp [wordWrite, hlo]
  have hm : bits 0 32 (wordWrite who f v).m = 2 ^ 32 - 1 := by simp [wordWrite, fieldMask, hlo, hw, bits]
  have hfield (x : Nat) : writeField (wordWrite who f v) f x = setBits 0 32 (v % 2 ^ 32) x := by
    simp only [writeField, hf.written, hlo, hw, hm, hv, Nat.xor_self, Nat.and_zero, Nat.zero_or,
      Nat.and_two_pow_sub_one_eq_mod]
    simp [bits]
  rw [wordAfter, hfs, List.foldl_cons, List.foldl_nil, hfield]
  apply BitVec.eq_of_toNat_eq
  simp only [BitVec.toNat_ofNat, setBits, bits]
  omega

theorem lockedOut_keeper (hw : keeper who) (hn : NotLocked who bReeve s) : lockedOut (wordWrite who f v) s = false := by
  rcases hw with rfl | rfl
  · rcases hn with h | ⟨-, h⟩ | ⟨h, -⟩ | ⟨⟨_, h⟩, -⟩
    · simp [lockedOut, wordWrite, h]
    · simp [lockedOut, lockCode, wordWrite, h]
    · cases h
    · cases h
  · rcases hn with h | ⟨h, -⟩ | ⟨-, h⟩ | ⟨⟨_, h⟩, -⟩
    · simp [lockedOut, wordWrite, h]
    · cases h
    · simp [lockedOut, lockCode, wordWrite, h]
    · cases h

theorem fateOf_wordWrite (hf : PlainWord f) (hw : keeper who) (hn : NotLocked who bReeve s) :
    fateOf (wordWrite who f v) s = .act := by
  obtain ⟨hlo, hwidth⟩ := hf.whole
  obtain ⟨h40, hC0⟩ := hf.place
  have hfs : fieldsAt (wordWrite who f v).b (wordWrite who f v).off = [f] := hf.alone
  have hkind : kindOf (wordWrite who f v).b = .reeve := rfl
  have hkeep : (wordWrite who f v).keeper = true := by rcases hw with rfl | rfl <;> rfl
  have hoff : (wordWrite who f v).off = f.off := rfl
  have hcover : bits f.lo f.width (wordWrite who f v).m ≠ 0 := by simp [wordWrite, fieldMask, hlo, hwidth, bits]
  have hmay : mayWrite (wordWrite who f v) = true := by
    have : f.off ≠ F.BLK_PART.off := by simp only [F.BLK_PART]; omega
    simp [mayWrite, hkind, hkeep, hoff, this]
  have hbar (t : State) : barred (wordWrite who f v) t s = false := by simp [barred, hkind, hoff, hC0]
  have hval (t : State) : valueOk (wordWrite who f v) t = true := by simp [valueOk, hkind, hoff, hC0]
  unfold fateOf
  simp only [hfs, lockedOut_keeper hw hn, hmay, hbar, hval, hkeep]
  simp [hf.written, hcover]

/-- The write of a plain word by its keeper: the word is in place, or waits for its high half, and what it sets off happens. -/
theorem fieldWrite_plainWord (hf : PlainWord f) (hw : keeper who) (hr : Reaches who bReeve s) (hn : NotLocked who bReeve s) :
    fieldWrite who bReeve f v s = onReeve (wordWrite who f v) (candidate (wordWrite who f v) s) := by
  obtain ⟨h40, -⟩ := hf.place
  have hlive : liveFor who s = true := by rcases hw with rfl | rfl <;> simpa [liveFor, Reaches] using hr
  have hown : ownPage (wordWrite who f v) = true := by rcases hw with rfl | rfl <;> rfl
  have hfs : fieldsAt (wordWrite who f v).b (wordWrite who f v).off = [f] := hf.alone
  have hres : countReserved (wordWrite who f v) s = s := by
    have hbits : reservedBits [f] = 0 := by
      simp [reservedBits, hf.whole, setBits, bits]
    unfold countReserved
    simp [hfs, hbits]
  have hlock : f.off ≠ F.BLK_HOLDER.off := by simp only [F.BLK_HOLDER]; omega
  have hclear : f.off ≠ F.BLK_CLEAR_FAULT.off := by simp only [F.BLK_CLEAR_FAULT]; omega
  have hquiet : regsQuiet (wordWrite who f v) s = true := rfl
  have hspread (t : State) : spread (wordWrite who f v) t = t := rfl
  have hon (t : State) : onWrite (wordWrite who f v) s t = onReeve (wordWrite who f v) t := by
    have hoff : (wordWrite who f v).off = f.off := rfl
    have hkind : kindOf (wordWrite who f v).b = .reeve := rfl
    simp [onWrite, hoff, hclear, Nat.not_lt.2 h40, hkind]
  calc fieldWrite who bReeve f v s
      = byFate (wordWrite who f v) s .act := by
        rw [show fieldWrite who bReeve f v s = regWrite (wordWrite who f v) s from rfl, regWrite,
          show (wordWrite who f v).who = who from rfl, hlive, hown, hres]
        simp [fateOf_wordWrite hf hw hn, show (wordWrite who f v).off = f.off from rfl, hlock]
    _ = onReeve (wordWrite who f v) (candidate (wordWrite who f v) s) := by
        simp [byFate, hquiet, hspread, hon]

end

/-- The state with a low half of LG_SELECT waiting for its high half (18 R617). -/
def lowWaits (v : Nat) (s : State) : State :=
  { s with loLatch := mapPut (fun _ => none) (regKey bReeve F.RV_LG_SELECT_LO.off) (some (BitVec.ofNat 32 v)) s.loLatch }

theorem loLatch_lowWaits (v : Nat) (s : State) :
    mapGet (fun _ => none) (lowWaits v s).loLatch (regKey bReeve F.RV_LG_SELECT_LO.off) = some (BitVec.ofNat 32 v) := by
  simp [lowWaits]

/-- The state with an entry named in LG_SELECT: both halves in place, none waiting. -/
def selected (seq : Nat) (s : State) : State :=
  { setW bReeve F.RV_LG_SELECT_LO.off (BitVec.ofNat 32 (seq % 2 ^ 32))
      (setW bReeve F.RV_LG_SELECT_HI.off (BitVec.ofNat 32 (seq / 2 ^ 32)) s) with
    loLatch := mapDel (regKey bReeve F.RV_LG_SELECT_LO.off) (lowWaits (seq % 2 ^ 32) s).loLatch }

section
variable {who : Requester} {s : State}

theorem candidate_selectLo (v : Nat) : candidate (wordWrite who F.RV_LG_SELECT_LO v) s = lowWaits v s := by
  rw [lowWaits, ← wordAfter_wordWrite (who := who) (s := s) plainWord_LG_SELECT_LO]
  rfl

theorem candidate_selectHi {v : Nat} {x : Word}
    (h : mapGet (fun _ => none) s.loLatch (regKey bReeve F.RV_LG_SELECT_LO.off) = some x) :
    candidate (wordWrite who F.RV_LG_SELECT_HI v) s =
      { setW bReeve F.RV_LG_SELECT_LO.off x (setW bReeve F.RV_LG_SELECT_HI.off (BitVec.ofNat 32 v) s) with
        loLatch := mapDel (regKey bReeve F.RV_LG_SELECT_LO.off) s.loLatch } := by
  rw [← wordAfter_wordWrite (who := who) (s := s) plainWord_LG_SELECT_HI]
  show placeWord (wordWrite who F.RV_LG_SELECT_HI v) s = _
  unfold placeWord
  have hlatched : loHalf (wordWrite who F.RV_LG_SELECT_HI v).b ((wordWrite who F.RV_LG_SELECT_HI v).off - 4) = true := rfl
  have hlook : mapGet (fun _ => (none : Option Word))
      (setW (wordWrite who F.RV_LG_SELECT_HI v).b (wordWrite who F.RV_LG_SELECT_HI v).off
        (BitVec.ofNat 32 (wordAfter (wordWrite who F.RV_LG_SELECT_HI v) s)) s).loLatch
      (regKey (wordWrite who F.RV_LG_SELECT_HI v).b ((wordWrite who F.RV_LG_SELECT_HI v).off - 4)) = some x := h
  dsimp only
  rw [if_pos hlatched, hlook]
  rfl

/-- LG_SELECT_WRITE by a keeper of the page: the pair is in place, and the entry it names is loaded. -/
theorem exec_lgSelectWrite (hw : keeper who) (hr : Reaches who bReeve s) (hn : NotLocked who bReeve s) (seq : BitVec 64) :
    exec (.lgSelectWrite who seq) s = .next (loadEntry (selected seq.toNat s)) := by
  show Host.Outcome.next (fieldWrite who bReeve F.RV_LG_SELECT_HI (seq.toNat / 2 ^ 32)
    (fieldWrite who bReeve F.RV_LG_SELECT_LO (seq.toNat % 2 ^ 32) s)) = _
  have hlo : fieldWrite who bReeve F.RV_LG_SELECT_LO (seq.toNat % 2 ^ 32) s = lowWaits (seq.toNat % 2 ^ 32) s :=
    (fieldWrite_plainWord plainWord_LG_SELECT_LO hw hr hn).trans (candidate_selectLo _)
  have hr' : Reaches who bReeve (lowWaits (seq.toNat % 2 ^ 32) s) := by rcases hw with rfl | rfl <;> exact hr
  rw [hlo, fieldWrite_plainWord plainWord_LG_SELECT_HI hw hr' hn, candidate_selectHi (loLatch_lowWaits _ s)]
  rfl

end

/-! ### Loading an entry -/

/-- The 64 bytes that LG_DATA shows for a sequence number. -/
def shownBytes (seq : Nat) (s : State) : List Byte := (entryOf seq s).elim (bytesOf 64 0) entryBytes

/-- The number that LG_SELECT holds. -/
def selectedSeq (s : State) : Nat := getPair bReeve F.RV_LG_SELECT_LO F.RV_LG_SELECT_HI s

/-- LG_GONE as it shows whether the entry is held. -/
def showGone (seq : Nat) (s : State) : State := setF bReeve F.RV_LG_GONE (bitOf (entryOf seq s).isNone) s

/-- The registers that loading an entry changes, with those that name it. -/
def selectKeys : List Nat := regKey bReeve F.RV_LG_GONE.off :: (words 0x78 0xBC).map (regKey bReeve)

theorem mem_selectKeys_data {i : Nat} (hi : i < 16) : regKey bReeve (F.RV_LG_DATA.at i).off ∈ selectKeys := by
  revert i
  decide

theorem loadEntry_eq (s : State) : loadEntry s = (List.range 16).foldl (fun t i =>
    setF bReeve (F.RV_LG_DATA.at i) (natOf (((shownBytes (selectedSeq s) s).drop (4 * i)).take 4)) t)
      (showGone (selectedSeq s) s) := by
  unfold loadEntry shownBytes showGone selectedSeq
  dsimp only
  cases entryOf (getPair bReeve F.RV_LG_SELECT_LO F.RV_LG_SELECT_HI s) s <;> rfl

theorem getF_loadEntry_other {f : Field} (h : ∀ i < 16, f.off / 4 ≠ 32 + i) (s : State) :
    getF bReeve f (loadEntry s) = getF bReeve f (showGone (selectedSeq s) s) := by
  rw [loadEntry_eq]
  refine List.foldlRecOn (motive := fun t => getF bReeve f t = getF bReeve f (showGone (selectedSeq s) s)) _ _ rfl
    fun t ht i hi => ?_
  have := h i (List.mem_range.1 hi)
  rw [getF_setF_reg, ht]
  rw [Ne, regKey_inj]
  simp only [Field.at, F.RV_LG_DATA]
  omega

@[simp] theorem selectedSeq_loadEntry (s : State) : selectedSeq (loadEntry s) = selectedSeq s := by
  rw [selectedSeq, getPair, getF_loadEntry_other (by decide), getF_loadEntry_other (by decide), showGone,
    getF_setF_reg (by decide), getF_setF_reg (by decide)]
  rfl

theorem getF_loadEntry_gone (s : State) :
    getF bReeve F.RV_LG_GONE (loadEntry s) = bitOf (entryOf (selectedSeq s) s).isNone := by
  rw [getF_loadEntry_other (by decide), showGone, getF_setF_same (by decide)]
  cases entryOf (selectedSeq s) s <;> rfl

theorem getF_loadEntry_data (s : State) {i : Nat} (hi : i < 16) : getF bReeve (F.RV_LG_DATA.at i) (loadEntry s) =
    natOf (((shownBytes (selectedSeq s) s).drop (4 * i)).take 4) := by
  rw [loadEntry_eq, getF_foldl_setF_at (by decide) rfl bReeve _ _ hi]
  refine Nat.mod_eq_of_lt ((natOf_lt _).trans_le ?_)
  have : (((shownBytes (selectedSeq s) s).drop (4 * i)).take 4).length ≤ 4 := List.length_take_le _ _
  calc 256 ^ (((shownBytes (selectedSeq s) s).drop (4 * i)).take 4).length
      ≤ 256 ^ 4 := Nat.pow_le_pow_right (by decide) this
    _ = 2 ^ F.RV_LG_DATA.width := by decide

theorem onlyRegs_loadEntry (s : State) : OnlyRegs selectKeys s (loadEntry s) := by
  rw [loadEntry_eq]
  refine onlyRegs_trans (onlyRegs_setF List.mem_cons_self _ s) (onlyRegs_foldl (fun i hi t => ?_) _)
  exact onlyRegs_setF (mem_selectKeys_data (List.mem_range.1 hi)) _ t

theorem natOf_shownBytes (seq i : Nat) (s : State) : natOf (((shownBytes seq s).drop (4 * i)).take 4) =
    (entryOf seq s).elim 0 fun e => natOf (((entryBytes e).drop (4 * i)).take 4) := by
  unfold shownBytes
  cases entryOf seq s with
  | none =>
    rw [Option.elim_none, bytesOf_zero, List.drop_replicate, List.take_replicate, natOf_replicate_zero]
    rfl
  | some e => rfl

/-! ### The entry that LG_SELECT names -/

theorem selectedSeq_selected (seq : BitVec 64) (s : State) : selectedSeq (selected seq.toNat s) = seq.toNat := by
  have hseq := seq.isLt
  have hlo : getF bReeve F.RV_LG_SELECT_LO (selected seq.toNat s) = seq.toNat % 2 ^ 32 := by
    show bits 0 32 (getW bReeve _ (setW bReeve _ _ _)).toNat = _
    rw [getW_setW_same]
    simp [bits]
  have hhi : getF bReeve F.RV_LG_SELECT_HI (selected seq.toNat s) = seq.toNat / 2 ^ 32 := by
    show bits 0 32 (getW bReeve F.RV_LG_SELECT_HI.off (setW bReeve _ _ (setW bReeve _ _ s))).toNat = _
    rw [getW_setW_other (by decide), getW_setW_same]
    simp only [bits, BitVec.toNat_ofNat]
    omega
  rw [selectedSeq, getPair, hlo, hhi]
  omega

theorem onlyRegs_selected (seq : Nat) (s : State) : OnlyRegs selectKeys s { selected seq s with loLatch := s.loLatch } := by
  refine ⟨rfl, fun k hk => ⟨?_, rfl⟩⟩
  have hlo : k ≠ regKey bReeve F.RV_LG_SELECT_LO.off := by rintro rfl; exact hk (by decide)
  have hhi : k ≠ regKey bReeve F.RV_LG_SELECT_HI.off := by rintro rfl; exact hk (by decide)
  exact (mapGet_mapPut_other _ hlo _ _).trans (mapGet_mapPut_other _ hhi _ _)

theorem onlyRegs_loLatch {ks : List Nat} {s t : State} (h : OnlyRegs ks s t) (m : SMap (Option Word)) :
    OnlyRegs ks { s with loLatch := m } { t with loLatch := m } := ⟨by rw [h.1], h.2⟩

/-- Settles O55: a commit is one entry written or one counted, a second's end is a fold of entries written, LG_SELECT loads
the entry it names, and a ledger read runs along consecutive numbers. -/
theorem ledgerCommits : Obligations.LedgerCommits := by
  refine fun s => ⟨fun e r hl hr => ⟨fun hn => ?_, fun hk hn => ?_⟩, fun ht => ?_, fun who seq hw hr hu => ?_,
    fun seq n hon hr => ?_⟩
  · obtain ⟨k, hcommit, hcount⟩ := commitEntry_written (s := { s with reeve := { s.reeve with log := r } }) hn
    refine ⟨_, (exec_journalCommit hl hr).trans (congrArg _ hcommit), ?_⟩
    refine ⟨by rw [writeEntry_reeve], by rw [writeEntry_reeve], by rw [writeEntry_reeve]; rfl, newest_writeEntry _ _,
      fun hk => by rw [writeEntry_reeve]; exact hcount hk, fun h => writeEntry_host_of_lt _ _ h,
      fun h => writeEntry_out_of_le _ _ h, writeEntry_crofts _ _, writeEntry_mem _ _, writeEntry_power _ _⟩
  · obtain ⟨m, hcommit, hcount⟩ := commitEntry_beyond (s := { s with reeve := { s.reeve with log := r } }) hk hn
    exact ⟨_, (exec_journalCommit hl hr).trans (congrArg _ hcommit), hcount, rfl⟩
  · have h := summed_foldl s.reeve.suppressed
      { s with reeve := { s.reeve with second := s.time, kindCount := [], suppressed := [] } }
    refine ⟨_, exec_suppressionSecondEnd ht, ?_, ?_, ?_, ?_, ?_, h.count, h.journal, h.crofts, h.mem, h.power⟩
      <;> rw [h.reeve]
  · refine ⟨_, exec_lgSelectWrite hw hr hu.1 seq, ?_⟩
    have hseq := selectedSeq_selected seq s
    have hentry : entryOf seq.toNat (selected seq.toNat s) = entryOf seq.toNat s := rfl
    refine ⟨?_, ?_, fun i hi => ?_, ?_⟩
    · rw [← selectedSeq, selectedSeq_loadEntry, hseq]
    · rw [getF_loadEntry_gone, hseq, hentry]
    · rw [getF_loadEntry_data _ hi, hseq, natOf_shownBytes, hentry]
      cases entryOf seq.toNat s <;> rfl
    · exact onlyRegs_trans (onlyRegs_selected seq.toNat s) (onlyRegs_loLatch (onlyRegs_loadEntry _) s.loLatch)
  · exact ⟨_, entriesFrom seq.toNat n.val s, exec_readLedger hon hr seq n, length_entriesFrom_le _ _ s,
      entryOf_entriesFrom _ _ s, entriesFrom_stops _ _ s, rfl⟩

end Sys2Proof.Machine
end

section
/-!
The locks of the pages (18 R613, R615): what a write of LOCK does for each requester, what reporting a discarded write and
the start of the reeve leave alone of the locks and of the device page's counters, and BAR0 while READY is 0 (18 R620).
-/
namespace Sys2Proof.Machine
open Sys2Proof.Claims

/-! ### The lock of a page -/

theorem regKey_holder {b b' : Nat} : regKey b F.BLK_HOLDER.off = regKey b' F.BLK_HOLDER.off ↔ b = b' := by
  simp [regKey]

/-- The LOCK register of a page is no other register of any page. -/
theorem regKey_holder_ne (b : Nat) {b' off : Nat} (ho : off / 4 ≠ F.BLK_HOLDER.off / 4) (hoff : off < 4096) :
    regKey b F.BLK_HOLDER.off ≠ regKey b' off := by
  simp only [regKey, F.BLK_HOLDER] at *
  omega

theorem getF_setLock (b b' : Nat) {code : Nat} (hc : code < 8) (s : State) :
    getF b F.BLK_HOLDER (setLock b' code s) = if b = b' then code else getF b F.BLK_HOLDER s := by
  show getF b F.BLK_HOLDER (setF b' F.BLK_HOLDER code s) = _
  split
  · next h => rw [h, getF_setF_same (by decide)]; exact Nat.mod_eq_of_lt hc
  · next h => exact getF_setF_reg (regKey_holder.not.2 h) _ _

/-- A register of any page but LOCK is as before. -/
theorem getF_setLock_other {f : Field} (b : Nat) (ho : f.off / 4 ≠ F.BLK_HOLDER.off / 4) (hoff : f.off < 4096) {b' code : Nat}
    (s : State) : getF b f (setLock b' code s) = getF b f s :=
  getF_setF_reg (g := f) (regKey_holder_ne b' ho hoff).symm code s

/-- A field that shares no bit with the stored one reads as before. -/
theorem getF_setF_apart {b : Nat} {f g : Field} (hf : f.lo + f.width ≤ 32) (h : Apart g f) (v : Nat) (s : State) :
    getF b g (setF b f v s) = getF b g s := by
  by_cases ho : g.off / 4 = f.off / 4
  · have same (t : State) : getW b g.off t = getW b f.off t := by rw [getW, getW, regKey_inj.2 ho]
    have := getF_setF_disjoint (b := b) (g := { g with off := f.off }) hf rfl (h.resolve_left (not_not_intro ho)) v s
    rw [getF, same, getF, same]
    exact this
  · exact getF_setF_reg (regKey_inj.not.2 ho) v s

theorem fieldsAre_setF {b : Nat} {f : Field} (hf : f.lo + f.width ≤ 32) {v : Nat} (hv : v < 2 ^ f.width) (s : State) :
    FieldsAre b [(f, v)] s (setF b f v s) := by
  refine ⟨fun e he => ?_, fun g hg => getF_setF_apart hf (hg _ List.mem_cons_self) v s,
    fun k hk => mapGet_mapPut_other _ (by simpa using hk) _ _⟩
  rw [List.mem_singleton.1 he, getF_setF_same hf]
  exact Nat.mod_eq_of_lt hv

theorem fieldsAre_setLock (b : Nat) {code : Nat} (hc : code < 8) (s : State) :
    FieldsAre b [(F.BLK_HOLDER, code)] s (setLock b code s) := fieldsAre_setF (by decide) hc s

/-! ### A write of LOCK (18 R613) -/

/-- The write of a code to LOCK of a page. -/
def lockWrite (who : Requester) (b code : Nat) : Wr :=
  ⟨who, b, F.BLK_HOLDER.off, code * 2 ^ F.BLK_HOLDER.lo, fieldMask F.BLK_HOLDER⟩

/-- HOLDER is the one field of its register. -/
theorem fieldsAt_holder (b : Nat) : fieldsAt b F.BLK_HOLDER.off = [F.BLK_HOLDER] := by
  have : vfOnly F.BLK_HOLDER.off = false := by decide
  rw [fieldsAt, if_neg (by simp [this]), if_pos (by decide)]
  decide

theorem countReserved_lockWrite (who : Requester) (b code : Nat) (s : State) :
    countReserved (lockWrite who b code) s = s := by
  have hm : fieldMask F.BLK_HOLDER &&& reservedBits [F.BLK_HOLDER] = 0 := by decide
  unfold countReserved
  simp [lockWrite, fieldsAt_holder, Nat.and_assoc, hm]

theorem lockWrite_get (who : Requester) (b : Nat) {code : Nat} (hc : code < 8) :
    (lockWrite who b code).get F.BLK_HOLDER = code := by
  revert hc
  simp only [Wr.get, lockWrite, if_true]
  revert code
  decide

@[simp] theorem lockWrite_hits (who : Requester) (b code : Nat) : (lockWrite who b code).hits F.BLK_HOLDER = true := by
  have : bits F.BLK_HOLDER.lo F.BLK_HOLDER.width (fieldMask F.BLK_HOLDER) ≠ 0 := by decide
  simp [Wr.hits, lockWrite, this]

theorem takeCode_pos (who : Requester) : 0 < takeCode who := by cases who <;> exact Nat.succ_pos _

theorem takeCode_lt (who : Requester) : takeCode who < 8 := by
  cases who <;> simp [takeCode]

section
variable {who : Requester} {b code : Nat} {s : State} (hr : Reaches who b s)
include hr

theorem liveFor_of_reaches : liveFor who s = true := by
  cases who with
  | host f => exact hr.1
  | control | dispatch | reeve => simpa [liveFor, Reaches] using hr

theorem ownPage_of_reaches {off v m : Nat} : ownPage ⟨who, b, off, v, m⟩ = true := by
  cases who with
  | host f => simpa [ownPage] using hr.2
  | control | dispatch | reeve => rfl

/-- The code that a requester writes is the one it holds the lock under; the dispatch core holds none. -/
theorem lockCode_lockWrite : lockCode (lockWrite who b code) = if who = .dispatch then 0 else takeCode who := by
  cases who with
  | host f => simp [lockCode, lockWrite, takeCode, hr.2]
  | control | dispatch | reeve => rfl

theorem fieldWrite_holder : fieldWrite who b F.BLK_HOLDER code s = writeLock (lockWrite who b code) s := by
  show regWrite (lockWrite who b code) s = _
  have hown : ownPage (lockWrite who b code) = true := ownPage_of_reaches hr
  have hlive : liveFor (lockWrite who b code).who s = true := liveFor_of_reaches hr
  simp only [regWrite, hlive, hown, countReserved_lockWrite]
  simp [lockWrite]

/-- A requester that has a code takes a free lock. -/
theorem fieldWrite_take_free (hd : who ≠ .dispatch) (h0 : getF b F.BLK_HOLDER s = 0) :
    fieldWrite who b F.BLK_HOLDER (takeCode who) s = setLock b (takeCode who) s := by
  rw [fieldWrite_holder hr, writeLock, lockWrite_hits, lockWrite_get _ _ (takeCode_lt who), lockCode_lockWrite hr, if_neg hd]
  simp [lockWrite, h0, (takeCode_pos who).ne']

/-- A lock that another holds stays its holder's: the write is discarded, with a report only when the code is not the
requester's own. -/
theorem fieldWrite_take_held (h0 : getF b F.BLK_HOLDER s ≠ 0) (hh : getF b F.BLK_HOLDER s ≠ takeCode who) :
    fieldWrite who b F.BLK_HOLDER (takeCode who) s =
      if who = .dispatch then discardWrite (lockWrite who b (takeCode who)) s else addF bDevice F.DEV_WRITES_DISCARDED 1 s := by
  rw [fieldWrite_holder hr, writeLock, lockWrite_hits, lockWrite_get _ _ (takeCode_lt who), lockCode_lockWrite hr]
  by_cases hd : who = .dispatch
  · simp [hd, takeCode]
  · simp [lockWrite, hd, h0, hh, (takeCode_pos who).ne']

/-- The holder releases its lock. -/
theorem fieldWrite_release (hd : who ≠ .dispatch) (hh : getF b F.BLK_HOLDER s = takeCode who) :
    fieldWrite who b F.BLK_HOLDER 0 s = setLock b 0 s := by
  rw [fieldWrite_holder hr, writeLock, lockWrite_hits, lockWrite_get _ _ (by decide), lockCode_lockWrite hr, if_neg hd]
  simp [lockWrite, hh, (takeCode_pos who).ne']

end

/-! ### What the host interface's own work changes -/

/-- `t` is `s` but for the parts that translating host addresses, writing event records and sending messages change. -/
def HostSide (s t : State) : Prop :=
  t = { s with mem := t.mem, memsys := t.memsys, parts := t.parts, host := t.host, nextUid := t.nextUid }

theorem HostSide.refl (s : State) : HostSide s s := rfl

theorem HostSide.trans {r s t : State} (h : HostSide r s) (k : HostSide s t) : HostSide r t := by
  unfold HostSide at *
  rw [k, h]

theorem HostSide.ite {c : Prop} [Decidable c] {r s t : State} (h : HostSide r s) (k : HostSide r t) :
    HostSide r (if c then s else t) := by
  split
  · exact h
  · exact k

theorem HostSide.foldl {α : Type} {f : State → α → State} (hf : ∀ s a, HostSide s (f s a)) (l : List α) (s : State) :
    HostSide s (l.foldl f s) :=
  List.foldlRecOn l f (HostSide.refl s) fun t ht a _ => ht.trans (hf t a)

theorem hostSide_wrN (p : Nat) (l : List Byte) (s : State) : HostSide s (wrN p l s) := by
  induction l generalizing p s with
  | nil => exact HostSide.refl s
  | cons b l ih => exact HostSide.trans (s := wr p b s) rfl (ih (p + 1) _)

theorem hostSide_memAsk (eng p space a n : Nat) (write : Bool) (s : State) : HostSide s (memAsk eng p space a n write s) := by
  refine HostSide.foldl (fun t x => ?_) _ s
  unfold postReq
  dsimp only
  split
  · rfl
  · exact HostSide.ite rfl rfl
  · rfl

/-- A table entry of a translation, kept or read from memory. -/
theorem hostSide_tableEntry {o : Option Trans} {c : Bool} {n : Nat} {s t : State} {x : Nat × State} (ht : HostSide s t)
    (e : (match o with | some u => some (u.entry, s) | none => if c = true then some (n, t) else none) = some x) :
    HostSide s x.2 := by
  cases o with
  | some u => exact Option.some.inj e ▸ HostSide.refl s
  | none =>
    obtain ⟨-, e⟩ := Option.ite_none_right_eq_some.1 e
    exact Option.some.inj e ▸ ht

theorem hostSide_updPart (p : Nat) (f : Part → Part) (s : State) : HostSide s (updPart p f s) := rfl

theorem hostSide_level1 {p va : Nat} {s : State} {x : Nat × State} (e : level1 p va s = some x) : HostSide s x.2 := by
  unfold level1 at e
  exact hostSide_tableEntry ((hostSide_memAsk _ _ _ _ _ _ s).trans (hostSide_updPart _ _ _)) e

theorem hostSide_level2 {p va e1 : Nat} {s : State} {x : Nat × State} (e : level2 p va e1 s = some x) : HostSide s x.2 := by
  unfold level2 at e
  exact hostSide_tableEntry ((hostSide_memAsk _ _ _ _ _ _ s).trans (hostSide_updPart _ _ _)) e

theorem hostSide_hostXlate {p va : Nat} {write : Bool} {s : State} {x : Nat × Bool × State}
    (e : hostXlate p va write s = some x) : HostSide s x.2.2 := by
  obtain ⟨y, e1, ht | ⟨z, e2, ht⟩⟩ := hostXlate_eq_some e
  · exact ht ▸ hostSide_level1 e1
  · exact ht ▸ (hostSide_level1 e1).trans (hostSide_level2 e2)

theorem hostSide_fnWrite {fn a : Nat} {l : List Byte} {s t : State} (e : fnWrite fn a l s = some t) : HostSide s t := by
  unfold fnWrite at e
  split at e
  · obtain ⟨-, e⟩ := Option.ite_none_left_eq_some.1 e
    cases e
    exact hostSide_wrN _ _ s
  · refine List.foldlRecOn (motive := fun o => ∀ u, o = some u → HostSide s u) _ _ (fun u hu => ?_)
      (fun o ho c _ u hu => ?_) t e
    · cases hu; rfl
    · cases o with
      | none => cases hu
      | some v =>
        dsimp only at hu
        split at hu
        · cases hu
        · next ex =>
          cases hu
          exact ((ho v rfl).trans (hostSide_hostXlate ex)).trans (hostSide_wrN _ _ _)

theorem hostSide_putRecord {fn : Nat} {e : Ev} {s t : State} (he : putRecord fn e s = some t) : HostSide s t := by
  unfold putRecord at he
  split at he
  · split at he
    · unfold putSealed at he
      dsimp only at he
      split at he
      · cases he
      · next e1 =>
        obtain ⟨v, e2, rfl⟩ := Option.map_eq_some_iff.1 he
        exact ((hostSide_fnWrite e1).trans (hostSide_fnWrite e2)).trans rfl
    · cases he
  · obtain ⟨v, ev, rfl⟩ := Option.map_eq_some_iff.1 he
    exact (hostSide_fnWrite ev).trans rfl

theorem hostSide_fireMsix (fn vec : Nat) (s : State) : HostSide s (fireMsix fn vec s) :=
  HostSide.ite rfl (HostSide.ite rfl rfl)

theorem hostSide_signal (fn type : Nat) (irq : Bool) (s : State) : HostSide s (signal fn type irq s) := by
  have fires := hostSide_fireMsix fn (vectorOf fn type s) s
  refine HostSide.ite fires (HostSide.ite ?_ (.refl s))
  unfold pendMsix
  dsimp only
  split
  · exact HostSide.ite fires rfl
  · exact HostSide.ite fires rfl

/-! ### The registers that reports and the start of the reeve leave alone -/

/-- The LOCK word of every page, and the words of the device page behind its common header. -/
def lockKey (k : Nat) : Bool := decide (k % 1024 = F.BLK_HOLDER.off / 4 ∨ k / 1024 = bDevice ∧ 16 ≤ k % 1024)

/-- From `s` to `t` the locks, the times they were taken at and the device page's own registers are left alone. -/
structure LocksKept (s t : State) : Prop where
  since : t.lockSince = s.lockSince
  word : ∀ k, lockKey k = true → mapGet resetWord t.regs k = mapGet resetWord s.regs k

theorem LocksKept.refl (s : State) : LocksKept s s := ⟨rfl, fun _ _ => rfl⟩

theorem LocksKept.trans {r s t : State} (h : LocksKept r s) (k : LocksKept s t) : LocksKept r t :=
  ⟨k.since.trans h.since, fun i hi => (k.word i hi).trans (h.word i hi)⟩

theorem LocksKept.getF {s t : State} (h : LocksKept s t) {b : Nat} {f : Field} (hk : lockKey (regKey b f.off) = true) :
    getF b f t = getF b f s := by
  rw [Machine.getF, getW, h.word _ hk]
  rfl

theorem lockKey_holder (b : Nat) : lockKey (regKey b F.BLK_HOLDER.off) = true := by
  rw [lockKey, decide_eq_true_eq]
  simp only [regKey, F.BLK_HOLDER]
  omega

theorem LocksKept.holder {s t : State} (h : LocksKept s t) (b : Nat) :
    Machine.getF b F.BLK_HOLDER t = Machine.getF b F.BLK_HOLDER s := h.getF (lockKey_holder b)

/-- The registers of a function page are none of these, but for its LOCK. -/
theorem lockKey_function (fn : Nat) {off : Nat} (ho : off / 4 ≠ F.BLK_HOLDER.off / 4 ∧ off < 4096) :
    lockKey (regKey (bFunction fn) off) = false := by
  rw [lockKey, decide_eq_false_iff_not]
  simp only [regKey, bFunction, bDevice, F.BLK_HOLDER] at *
  omega

theorem lockKey_header (b : Nat) {off : Nat} (ho : off / 4 ≠ F.BLK_HOLDER.off / 4 ∧ off < 0x40) :
    lockKey (regKey b off) = false := by
  rw [lockKey, decide_eq_false_iff_not]
  simp only [regKey, bDevice, F.BLK_HOLDER] at *
  omega

section
variable {r s : State} (h : LocksKept r s)
include h

/-- A change of other parts of the state. -/
theorem LocksKept.upd {t : State} (hl : t.lockSince = s.lockSince) (hr : t.regs = s.regs) : LocksKept r t :=
  h.trans ⟨hl, fun _ _ => by rw [hr]⟩

theorem LocksKept.hostSide {t : State} (k : HostSide s t) : LocksKept r t := by
  unfold HostSide at k
  exact h.upd (by rw [k]) (by rw [k])

theorem LocksKept.ite {c : Prop} [Decidable c] {t : State} (k : LocksKept r t) : LocksKept r (if c then s else t) := by
  split
  · exact h
  · exact k

theorem LocksKept.foldl {α : Type} {f : State → α → State} {l : List α}
    (hf : ∀ a t, LocksKept r t → LocksKept r (f t a)) : LocksKept r (l.foldl f s) :=
  List.foldlRecOn l f h fun t ht a _ => hf a t ht

theorem LocksKept.setF {b : Nat} {f : Field} (hk : lockKey (regKey b f.off) = false) (v : Nat) : LocksKept r (setF b f v s) :=
  h.trans ⟨rfl, fun k hs => mapGet_mapPut_other _ (by rintro rfl; simp [hk] at hs) _ _⟩

/-! ### Reporting a discarded write -/

theorem locksKept_offer {fn : Nat} {e : Ev} {t : State} (he : offer fn e s = some t) : LocksKept r t := by
  unfold offer at he
  dsimp only at he
  split at he
  · obtain ⟨v, ev, rfl⟩ := Option.map_eq_some_iff.1 he
    exact h.hostSide ((hostSide_putRecord ev).trans (hostSide_signal _ _ _ _))
  · split at he
    · cases he
      exact h.upd rfl rfl
    · cases he
      exact LocksKept.setF (s := setRing fn _ s) (h.upd rfl rfl) (lockKey_function fn (by decide)) _

theorem locksKept_toPf (e : Ev) : LocksKept r (toPf e s) := by
  refine LocksKept.ite ?_ h
  cases ho : offer 0 e s with
  | none => exact h
  | some t => exact locksKept_offer h ho

theorem locksKept_stopEvRing (fn : Nat) : LocksKept r (stopEvRing fn s) := by
  have counted : LocksKept r (addF (bFunction fn) F.FP_RING_ERRORS 1 s) := h.setF (lockKey_function fn (by decide)) _
  have stopped := counted.setF (f := F.FP_EV_ERR) (lockKey_function fn (by decide)) 1
  exact LocksKept.ite stopped (locksKept_toPf stopped _)

theorem locksKept_toFn (fn : Nat) (e : Ev) : LocksKept r (toFn fn e s) := by
  refine LocksKept.ite (locksKept_toPf h e) (LocksKept.ite ?_ h)
  cases ho : offer fn e s with
  | none => exact locksKept_stopEvRing h fn
  | some t => exact locksKept_offer h ho

theorem locksKept_raise (b type subtype : Nat) (sc : Scope) (ledger : Bool) (payload : Nat) :
    LocksKept r (raise b type subtype sc ledger payload s) := by
  have seen (o : Option Nat) :
      LocksKept r (match o with | some c => setF b F.BLK_SEEN (getF b F.BLK_SEEN s ||| 2 ^ c) s | none => s) := by
    cases o with
    | none => exact h
    | some c => exact h.setF (lockKey_header b (by decide)) _
  refine LocksKept.ite ?_ (seen _)
  cases sc with
  | part p => exact locksKept_toFn (seen _) _ _
  | none => exact locksKept_toFn (seen _) _ _
  | all => exact (seen _).foldl fun fn _ ht => locksKept_toFn ht fn _

end

theorem getF_discardWrite_holder (w : Wr) (b : Nat) (s : State) :
    getF b F.BLK_HOLDER (discardWrite w s) = getF b F.BLK_HOLDER s := by
  rw [discardWrite, discard, (locksKept_raise (.refl _) _ _ _ _ _ _).holder, addF, getF_setF_reg]
  exact regKey_holder_ne b (by decide) (by decide)

theorem getF_discardWrite_count (w : Wr) (s : State) : getF bDevice F.DEV_WRITES_DISCARDED (discardWrite w s) =
    min (getF bDevice F.DEV_WRITES_DISCARDED s + 1) (2 ^ 32 - 1) := by
  rw [discardWrite, discard, (locksKept_raise (.refl _) _ _ _ _ _ _).getF (by decide), getF_addF_same (by decide)]
  rfl

/-! ### The start of the reeve (17 R572, R590, R591) -/

section
variable {r s : State} (h : LocksKept r s)
include h

theorem locksKept_recordFail (i b check : Nat) : LocksKept r (recordFail i b check s) := by
  have failed := ((h.setF (b := bReeve) (f := F.RV_FW_SLOT) (by decide) b).setF (b := bReeve) (f := F.RV_FW_IMAGE) (by decide)
    i).setF (b := bReeve) (f := F.RV_FW_CHECK) (by decide) check
  have counted := failed.setF (b := bReeve) (f := F.RV_FW_CHECK_FAILS) (by decide)
  exact (counted _).upd rfl rfl

theorem locksKept_validateSet (set : List Nat) : LocksKept r (validateSet set s).2 := by
  refine List.foldlRecOn (motive := fun o : Bool × State => LocksKept r o.2) _ _ h fun o ho i _ => ?_
  split
  · exact locksKept_recordFail ho _ _ _
  · exact ho

theorem locksKept_fallBackSet : LocksKept r (fallBackSet s).2 := by
  unfold fallBackSet fallBack noteGroup
  refine locksKept_validateSet (LocksKept.foldl (LocksKept.setF ?_ (by decide) 1) fun i t ht => ?_) _
  · exact h.upd rfl rfl
  · exact ht.upd rfl rfl

theorem locksKept_romChoice : LocksKept r (romChoice s).2 := by
  unfold romChoice
  dsimp only
  split
  · exact h
  · split
    · exact locksKept_recordFail h _ _ _
    · exact locksKept_recordFail (locksKept_recordFail h _ _ _) _ _ _

theorem locksKept_chooseSet : LocksKept r (chooseSet s).2 := by
  have chosen := locksKept_romChoice (h.setF (b := bReeve) (f := F.RV_ROLLED_BACK) (by decide) 0)
  unfold chooseSet
  split
  · next e => rwa [e] at chosen
  · next e =>
    rw [e] at chosen
    have valid (l : List Nat) := locksKept_validateSet chosen l
    split
    · exact locksKept_fallBackSet chosen
    · dsimp only
      split
      · exact valid _
      · exact locksKept_fallBackSet (valid _)

/-- With images to run, the reeve's start leaves the locks to the release that follows it. -/
theorem locksKept_restartReeve (hc : (chooseSet s).1 = true) : LocksKept r (restartReeve s) := by
  have chosen := locksKept_chooseSet h
  unfold restartReeve
  split
  · next e =>
    rw [e] at chosen
    refine LocksKept.setF ?_ (by decide) _
    exact chosen.upd rfl rfl
  · next e => simp [e] at hc

theorem LocksKept.setPair {b : Nat} {lo hi : Field} (hlo : lockKey (regKey b lo.off) = false)
    (hhi : lockKey (regKey b hi.off) = false) (v : Nat) : LocksKept r (setPair b lo hi v s) :=
  (h.setF hlo _).setF hhi _

theorem locksKept_showLedger : LocksKept r (showLedger s) := by
  unfold showLedger
  exact LocksKept.setPair (h.setPair (by decide) (by decide) _) (by decide) (by decide) _

end

/-- The locks that the reeve holds, of the pages listed, become free; every other lock is as before. -/
theorem getF_freeLocks (l : SMap Nat) (b : Nat) (s : State) :
    getF b F.BLK_HOLDER (l.foldl (fun s e => if getF e.1 F.BLK_HOLDER s = 2 then setLock e.1 0 s else s) s) =
      if getF b F.BLK_HOLDER s = 2 ∧ ∃ e ∈ l, e.1 = b then 0 else getF b F.BLK_HOLDER s := by
  induction l generalizing s with
  | nil => simp
  | cons e l ih =>
    have head : getF b F.BLK_HOLDER (if getF e.1 F.BLK_HOLDER s = 2 then setLock e.1 0 s else s) =
        if getF b F.BLK_HOLDER s = 2 ∧ e.1 = b then 0 else getF b F.BLK_HOLDER s := by
      by_cases he : e.1 = b
      · subst he
        split <;> simp [getF_setLock, *]
      · split <;> simp [getF_setLock, he, Ne.symm he]
    rw [List.foldl_cons, ih, head]
    simp only [List.exists_mem_cons_iff]
    grind

theorem getF_freeReeveLocks {s : State} (hs : ∀ b, getF b F.BLK_HOLDER s = 2 → ∃ e ∈ s.lockSince, e.1 = b) (b : Nat) :
    getF b F.BLK_HOLDER (freeReeveLocks s) = if getF b F.BLK_HOLDER s = 2 then 0 else getF b F.BLK_HOLDER s := by
  rw [freeReeveLocks, getF_freeLocks]
  simp only [and_iff_left_of_imp (hs b)]

/-! ### The commands on locks -/

section
variable {who : Requester} {pg : Page} {s : State}

theorem exec_lockTake : exec (.lockTake who pg) s = .next (fieldWrite who (pageBlock pg s) F.BLK_HOLDER (takeCode who) s) :=
  rfl

theorem exec_lockRelease : exec (.lockRelease who pg) s = .next (fieldWrite who (pageBlock pg s) F.BLK_HOLDER 0 s) := rfl

theorem exec_lockTimeout (hh : getF (pageBlock pg s) F.BLK_HOLDER s ≠ 0)
    (ht : mapGet (fun _ => 0) s.lockSince (pageBlock pg s) + 10 ^ 6 ≤ s.time) :
    exec (.lockTimeout pg) s = .next (addF bDevice F.DEV_LOCK_TIMEOUTS 1 (setLock (pageBlock pg s) 0 s)) := by
  show execLockTimeout pg s = _
  exact congrArg Host.Outcome.next (if_pos ⟨hh, ht⟩)

end

/-- The state in which the mismatch's restart is over. -/
def restartOver (s : State) : State := { s with reeve := { s.reeve with restart := none } }

/-- The reeve has started again, or the device stays dead to the host. -/
def reeveStarted (s : State) : State := if isDead s then restartOver s else restartReeve (restartOver s)

theorem locksKept_reeveStarted {s : State} (hc : isDead s = true ∨ (chooseSet (restartOver s)).1 = true) :
    LocksKept s (reeveStarted s) := by
  have quiet : LocksKept s (restartOver s) := (LocksKept.refl s).upd rfl rfl
  unfold reeveStarted
  split
  · exact quiet
  · next hd => exact locksKept_restartReeve quiet (hc.resolve_left hd)

theorem exec_reeveRestartDone {s : State} {t0 : Nat} (h : s.reeve.restart = some t0) :
    ∃ t, exec .reeveRestartDone s = .next t ∧ LocksKept (freeReeveLocks (reeveStarted s)) t := by
  have shown := locksKept_showLedger (.refl (freeReeveLocks (reeveStarted s)))
  refine ⟨journal 0x0E (sourceOf bReeve (showLedger (freeReeveLocks (reeveStarted s)))) 8 2 s.reeve.mismatches.length
    (showLedger (freeReeveLocks (reeveStarted s))), ?_, shown.upd rfl rfl⟩
  show execReeveRestartDone s = _
  unfold execReeveRestartDone
  rw [h]
  rfl

theorem onlyRegs_lockTimeout (b : Nat) (s : State) :
    OnlyRegs [regKey b F.BLK_HOLDER.off, regKey bDevice F.DEV_LOCK_TIMEOUTS.off] s
      { addF bDevice F.DEV_LOCK_TIMEOUTS 1 (setLock b 0 s) with lockSince := s.lockSince } :=
  onlyRegs_trans (onlyRegs_setF (by simp) 0 s) (onlyRegs_setF (by simp) _ (setF b F.BLK_HOLDER 0 s))

/-- Settles O14: LOCK takes the code of a requester that has one while the page is free, a held lock refuses every other code,
and the timeout and the reeve's restart each store 0 in HOLDER. -/
theorem pageLocks : Obligations.PageLocks := by
  intro pg s
  refine ⟨fun who hd hr h0 => ?_, fun who hr h0 hh => ?_, fun who hd hr hh => ?_, fun hh ht => ?_, fun t0 h hs hc => ?_⟩
  · refine ⟨_, exec_lockTake, ?_⟩
    rw [fieldWrite_take_free hr hd h0]
    refine ⟨fieldsAre_setLock _ (takeCode_lt who) s, ?_, rfl⟩
    simp [setLock, (takeCode_pos who).ne']
  · refine ⟨_, exec_lockTake, ?_⟩
    rw [fieldWrite_take_held hr h0 hh]
    split
    · exact ⟨getF_discardWrite_holder _ _ s, getF_discardWrite_count _ s⟩
    · exact ⟨getF_setF_reg (regKey_holder_ne _ (by decide) (by decide)) _ s, getF_addF_same (by decide) _ _ s⟩
  · refine ⟨_, exec_lockRelease, ?_⟩
    rw [fieldWrite_release hr hd hh]
    exact ⟨fieldsAre_setLock _ (by decide) s, rfl⟩
  · refine ⟨_, exec_lockTimeout hh ht, ?_, ?_, onlyRegs_lockTimeout _ s⟩
    · rw [addF, getF_setF_reg (regKey_holder_ne _ (by decide) (by decide)), getF_setLock _ _ (by decide), if_pos rfl]
    · rw [getF_addF_same (by decide), getF_setLock_other _ (by decide) (by decide)]
      rfl
  · obtain ⟨t, he, ht⟩ := exec_reeveRestartDone h
    have hu := locksKept_reeveStarted hc
    refine ⟨t, he, fun b => ?_⟩
    rw [ht.holder, getF_freeReeveLocks (fun b => by rw [hu.holder, hu.since]; exact hs b), hu.holder]

/-! ### BAR0 while READY is 0 (18 R620) -/

section
variable {s : State} (h : inReset s = true)
include h

theorem hostLive_inReset : hostLive s = false := by simp [hostLive, h]

/-- A host's write of a register, whatever it covers, has no effect. -/
theorem regWrite_inReset (f : FnId) (b off v m : Nat) : regWrite ⟨.host f, b, off, v, m⟩ s = s := by
  have hl : liveFor (.host f) s = false := hostLive_inReset h
  simp [regWrite, hl]

theorem fieldWrite_inReset (f : FnId) (b : Nat) (fl : Field) (v : Nat) : fieldWrite (.host f) b fl v s = s :=
  regWrite_inReset h f b _ _ _

theorem pairWrite_inReset (f : FnId) (b : Nat) (lo hi : Field) (v : Nat) : pairWrite (.host f) b lo hi v s = s := by
  rw [pairWrite, fieldWrite_inReset h, fieldWrite_inReset h]

/-- A host's write of bytes, at any target, has no effect. -/
theorem exec_registerWrite_inReset (f : FnId) (x : WriteTarget) {l : List Byte} (hl : 1 ≤ l.length ∧ l.length ≤ 512) :
    exec (.registerWrite (.host f) x l) s = .next s := by
  have hr : reaches (.host f) s = false := by simp [reaches, hostLive_inReset h]
  show execRegisterWrite (.host f) x l s = _
  simp [execRegisterWrite, writeSize, hl, hr]

theorem exec_crTailWrite_inReset (f : FnId) (r : RingId) (v : BitVec 32) : exec (.crTailWrite f r v) s = .next s := by
  show execCrTailWrite f r v s = _
  simp [execCrTailWrite, hostLive_inReset h]

theorem exec_evHeadWrite_inReset (f : FnId) (v : BitVec 32) : exec (.evHeadWrite f v) s = .next s := by
  show execEvHeadWrite f v s = _
  simp [execEvHeadWrite, hostLive_inReset h]

end

/-- Settles O48: while READY is 0 the device is not live to a host, and a write of each kind asks for that first. -/
theorem hostHeldInReset : Obligations.HostHeldInReset := by
  intro f s h
  refine ⟨fun x => if_pos h, fun x l h1 h2 => exec_registerWrite_inReset h f _ ⟨h1, h2⟩,
    fun r v => ⟨exec_crTailWrite_inReset h f r v, exec_evHeadWrite_inReset h f v⟩, fun on g r v pg m p => ?_⟩
  have field (b : Nat) (fl : Field) (n : Nat) := congrArg (Host.Outcome.next (φ := Fault) (ρ := Refusal))
    (fieldWrite_inReset h f b fl n)
  simp only [List.forall_mem_cons]
  exact ⟨field _ _ _, field _ _ _, congrArg _ (pairWrite_inReset h f _ _ _ _), field _ _ _, field _ _ _, field _ _ _,
    field _ _ _, field _ _ _, field _ _ _, congrArg _ (regWrite_inReset h f _ _ _ _), fun _ h => nomatch h⟩

end Sys2Proof.Machine
end
